-- ==== Sys2Proof/Word.lean ====
section
/-!
DEFINITION. The 32-bit register word and the byte of the module (R8: little-endian, bit 0 least significant).
-/

namespace Sys2Proof

/-- One register word. -/
abbrev Word := BitVec 32

/-- One byte of the frame store. -/
abbrev Byte := BitVec 8

end Sys2Proof
end

