-- ==== Sys2Proof/Syntax.lean ====
section
/-!
DEFINITION. The commands of the block: one constructor per row of the opcode table, in its order. The first operand of
every command, `dt`, is the stage time in ns that has passed since the command before it. A page is named by its slot number
(its BAR0 offset divided by 0x1000), a register by its BAR0 offset, a host or engine by its MID.
-/

namespace Sys2Proof

/-- Where a received Ethernet frame is addressed (R110). -/
inductive EthDest where
  /-- an IP multicast group -/
  | group (addr : Nat)
  /-- a PTP event or general message -/
  | ptp (event : Bool)
  /-- ARP or neighbour solicitation for an address -/
  | solicit (addr : Nat)
  /-- an IGMP or MLD query -/
  | query
  /-- a SAP announcement -/
  | sap
  | other
  deriving DecidableEq, Repr

/-- The network header of a received Ethernet frame (R110): IPv4 with whether it is a fragment and the types of its options, IPv6
with the types of its extension headers, or neither. -/
inductive EthIp where
  | v4 (fragment : Bool) (options : List Nat)
  | v6 (extensions : List Nat)
  | other
  deriving DecidableEq, Repr

/-- A received Ethernet frame as the checks of R110 see it: whether its FCS is correct, its length, the VLAN identifiers of its 802.1Q
tags, its network header, where it carries UDP the checksum as received and whether that is correct, and where it is addressed. -/
structure EthRx where
  fcsOk : Bool
  len : Nat
  tags : List Nat
  ip : EthIp
  udp : Option (Nat × Bool)
  dest : EthDest
  deriving DecidableEq, Repr

/-- One RTP packet of a channel's flow after the UDP checks: RTP header fields, source address, and for KIND 1 the
sample rows it carries: line, first pixel, and the decoded samples in the order the source packs them; `overflow` says that the channel's share of reassembly memory was full (R128). -/
structure RtpPkt where
  flow : Nat
  src : Nat
  version : Nat
  pt : Nat
  ssrc : Nat
  seq : Nat
  marker : Bool
  ts : Nat
  field2 : Bool
  rows : List (Nat × Nat × List Nat)
  overflow : Bool
  deriving DecidableEq, Repr

/-- One RTP packet of a channel's ancillary flow: RTP header fields, source address, and the RFC 8331 packets it carries as DID, SDID
and user data words. -/
structure AncPkt where
  src : Nat
  version : Nat
  pt : Nat
  ssrc : Nat
  anc : List (Nat × Nat × List Nat)
  deriving DecidableEq, Repr

/-- One media line of an SDP: whether it is `m=video`, whether its `a=rtpmap` is raw/90000, payload type, port, group, and the source
of a source filter. -/
structure Media where
  video : Bool
  raw90k : Bool
  pt : Nat
  udp : Nat
  group : Nat
  src : Option Nat
  deriving DecidableEq, Repr

/-- The SDP of an announcement (R138): its media lines, whether `a=group:DUP` groups them, and the parameters of R138's table, a number
outside a table of R116 for a value that the table lacks. -/
structure Sdp where
  media : List Media
  grouped : Bool
  sampling : Nat
  depth : Nat
  w : Nat
  h : Nat
  num : Nat
  den : Nat
  colorimetry : Nat
  tcs : Nat
  range : Nat
  bpm : Nat
  scan : Nat
  ptp : Bool
  v6 : Bool
  name : List Nat
  deriving DecidableEq, Repr


/-- A JPEG XS codestream as a decoder context reads it: whether its picture header was lost, profile (0 Light 422.10,
1 Light-Subline 422.10, 2 Main 422.10, 3 Main 444.12, 4 High 444.12, 5 any other) with its header code, the level code of the header,
whether it came in slice mode of RFC 9134, size, sampling and depth as in ING_FMT1, error classes found, lost slices as first line and
line count, coded bits, and the decoded samples by line, first pixel and samples in the order the source packs them. -/
structure Codestream where
  headerLost : Bool
  profile : Nat
  sliceMode : Bool
  ppih : Nat
  plev : Nat
  w : Nat
  h : Nat
  sampling : Nat
  depth : Nat
  errors : List Nat
  lost : List (Nat × Nat)
  bits : Nat
  rows : List (Nat × Nat × List Nat)
  deriving DecidableEq, Repr

/-- One lost block of a picture: its area, and the list 0 motion vectors, in quarter pixels, of the correctly decoded blocks
directly above and below. -/
structure LostBlock where
  x : Nat
  y : Nat
  w : Nat
  h : Nat
  mvs : List (Int × Int)
  deriving DecidableEq, Repr

/-- A NAL unit as a VDC context reads it: the forbidden bit and the type of its header, nuh_layer_id; and of a slice, the error classes
found in it, what it lost, for each dependency in decoding order the tile, the order count of the reference plus 1 (0 for intra
prediction) and the tile it touches, and the decoded samples: luma rows, and chroma rows with Cb and Cr interleaved, each by row, first
sample and samples. -/
structure NalUnit where
  forbidden : Bool
  typ : Nat
  layer : Nat
  errors : List Nat
  lost : List LostBlock
  uses : List (Nat × Nat × Nat)
  luma : List (Nat × Nat × List Nat)
  cbcr : List (Nat × Nat × List Nat)
  deriving DecidableEq, Repr

/-- An H.264 or HEVC access unit as a decoder context reads it. Of the stream: `constrained`, H.264 constraint_set1; `chroma`, 0
monochrome, 1 4:2:0; `depth`, luma and chroma; `fmo`, `aso`, `redundant`, `fieldSeq`, features refused by R207; coded size and `crop`,
the window's left, right, top and bottom offsets; `restrict`, the greatest number of reordered pictures and the DPB size that the stream
gives, none for H.264 without bitstream restrictions. Of the picture: `nal`, the type of its slices; `slices`, 0 intra, 1 P, 2 B; `sei`,
the count of a recovery point SEI; `frameNum` and its modulus in H.264; `poc`, the order count of the frame; `field`, 0 a frame, 1 a top
and 2 a bottom field, `second` the second of its frame. `refs`: order counts the slices refer to, first list 0 reference first; `keep`:
those that stay references. `errors` and `lost`: what the NAL units beside it, or none at all, left out. `moved` and `intra` count 16 × 16
areas (R224). -/
structure AccessUnit where
  profile : Nat
  constrained : Bool
  level : Nat
  chroma : Nat
  depth : Nat × Nat
  fmo : Bool
  aso : Bool
  redundant : Bool
  fieldSeq : Bool
  vuiCd : Bool
  w : Nat
  h : Nat
  crop : Nat × Nat × Nat × Nat
  restrict : Option (Nat × Nat)
  nal : Nat
  slices : Nat
  sei : Option Int
  frameNum : Nat
  maxFrameNum : Nat
  poc : Nat
  isRef : Bool
  field : Nat
  second : Bool
  refs : List Nat
  keep : List Nat
  errors : List Nat
  lost : List LostBlock
  nals : List NalUnit
  moved : Nat
  intra : Nat
  blocks : Nat
  bits : Nat
  qp : Nat × Nat × Nat
  mv : Nat × Nat
  deriving DecidableEq, Repr

/-- One coding of a row by the encoder: its bits, the 16 × 16 areas of R224, the mean absolute motion, and for each CTU or macroblock its
bits, mode, complexity and motion word (R226). -/
structure RowCode where
  bits : Nat
  moved : Nat
  intra : Nat
  mv : Nat × Nat
  ctus : List (Nat × Nat × Nat × Nat)
  deriving DecidableEq, Repr

/-- What the encoder found for one row: the QP its rate model asks for, and the row coded at the QP of R233, at QP_MAX, and as a curtain
row. -/
structure VecRow where
  qp : Nat
  normal : RowCode
  clamped : RowCode
  curtain : RowCode
  deriving DecidableEq, Repr

/-- A parameter set of the encoder: its NAL unit header, and its bits before and after the fields of the VUI that R228 names, which only a
sequence parameter set has. -/
structure ParamSet where
  header : List Nat
  sps : Bool
  pre : List Bool
  post : List Bool
  deriving DecidableEq, Repr

/-- What the receiver of a Chaino lane observes in its stream (R313): the 66-bit block at a position where a marker is tested, with its
header (the bit sent first is bit 0) and payload; codewords in a row that are all correctable or all not; blocks in a row whose headers
are all valid or all not. -/
inductive LineObs where
  | marker (hdr payload : Nat)
  | codewords (n : Nat) (ok : Bool)
  | headers (n : Nat) (ok : Bool)
  deriving DecidableEq, Repr

/-- How a Chaino lane hunts for block lock (R313): what it observes, and the last 58 scrambled bits before the block that locked it, the
oldest in bit 0. -/
structure LaneHunt where
  obs : List LineObs
  tail : Nat
  deriving DecidableEq, Repr

/-- An Announce message of a PTP master (R273): its sender, the dataset that IEEE 1588 compares, its interval in ns, and the
time properties. `leap` is 1 for leap61, −1 for leap59. -/
structure Announce where
  /-- the NIF port that hears it, its transport as CLK_REF_PTP encodes it, and its domain -/
  port : Nat
  transport : Nat
  domain : Nat
  sender : Nat
  prio1 : Nat
  cls : Nat
  acc : Nat
  var : Nat
  prio2 : Nat
  gm : Nat
  steps : Nat
  interval : Nat
  ptp : Bool
  utc : Int
  utcValid : Bool
  leap : Int
  deriving DecidableEq, Repr

/-- A heartbeat (R330); a call-line frame carries the fields of R331, and leaves the others 0. `clk` is the clock state,
`therm` the thermal level, `txPrev` and `rxTime` the low 32 bits of T_TX_PREV and T_RX. -/
structure Beat where
  seq : Nat
  role : Nat
  own : Bool
  ready : Bool
  seat : Nat
  unc : Bool
  ejecting : Bool
  clk : Nat
  therm : Nat
  fatal : Bool
  pathB : Bool
  quality : Nat
  release : Bool
  take : Bool
  drFault : Bool
  syncOk : Bool
  peerSeq : Nat
  txPrev : Nat
  rxTime : Nat
  epoch : Nat
  committed : Nat
  deriving DecidableEq, Repr

/-- A frame of the epoch copy (R339): its epoch, its index, and what it carries. A record is its kind, MID, word offset and
data. -/
inductive EpochFrame where
  | records (epoch index : Nat) (recs : List (Nat × Nat × Nat × Nat))
  | store (epoch index addr : Nat) (unreadable : Bool) (bytes : List Nat)
  | image (epoch index offset : Nat) (words : List Nat)
  | link (epoch index head : Nat) (setting : List Nat)
  deriving DecidableEq, Repr

/-- An END frame (R341). -/
structure EpochEnd where
  epoch : Nat
  time : Nat
  records : Nat
  storeBytes : Nat
  frames : Nat
  digest : Nat
  fs : List Nat
  crc : Nat
  deriving DecidableEq, Repr

/-- A rehearsal set of one stage and frame (R350): its stamp, the second opinion of a tile, the placement entries as slot and
four words, the marked tiles, and the tile signatures. -/
structure Rehearsal where
  f : Nat
  stamp : Nat
  so : Option (Nat × Nat)
  places : List (Nat × List Nat)
  marked : List Nat
  sigs : List Nat
  deriving DecidableEq, Repr

/-- A ring beacon (R363). `tTxPrev`, `tRx` and `boundary` are the low 32 bits of their times; `offset` is in 0.01 ns. -/
structure Beacon where
  seq : Nat
  pos : Nat
  level : Nat
  candidate : Bool
  lead : Bool
  closed : Bool
  role : Nat
  leadPos : Nat
  uplink : Bool
  ejecting : Bool
  tTxPrev : Nat
  tRx : Nat
  offset : Int
  boundary : Nat
  hears : Nat
  changed : Nat
  number : Nat
  deriving DecidableEq, Repr

/-- What a relay evidence frame carries (R373). -/
structure RelayEv where
  arr : Nat
  cap : Option Nat
  unc : Bool
  loss : List Nat
  conceal : List Nat
  sigs : List Nat
  motion : Nat
  pulse : Bool
  subst : Bool
  decim : Bool
  tc : Nat
  rtp : Nat
  deriving DecidableEq, Repr

/-- A relay frame of channel 6 (R375): layer, buffer at the home, kind 0 data or 1 evidence, byte offset, the bytes of a
data frame, and the items of an evidence frame. -/
structure RelayFrame where
  layer : Nat
  buf : Nat
  kind : Nat
  offset : Nat
  bytes : List Nat
  ev : Option RelayEv
  deriving DecidableEq, Repr

/-- The commands, one constructor per row of the opcode table. -/
inductive Instr where
  /-- REGISTER_WRITE (R11): A write to a register field that has no row of its own takes effect according to its access code, after the access control check. The MID is that of the port that the request came through (R40); `words` are its words in ascending order, each with its byte enables (R43). -/
  | registerWrite (dt : Nat) (mid : Nat) (bar4 : Bool) (addr : Nat) (words : List (Nat × Nat)) (misroute : Bool)
  /-- HOST_PORT_RESET (R42): PERST_N resets host port A and its configuration space only, and every page and composition keeps running. -/
  | hostPortReset (dt : Nat)
  /-- MSIX_PENDING_SEND (R42): A pending MSI-X message is sent once the link is up and bus mastering is enabled. -/
  | msixPendingSend (dt : Nat) (up : Bool) (bme : Bool)
  /-- PG_EVT_CLEAR (R46): A W1C write to PG_EVT clears flags and resends the vector if enabled flags remain set. -/
  | pgEvtClear (dt : Nat) (mid : Nat) (page : Nat) (data : Nat)
  /-- PG_EVT_EN_WRITE (R46): A write to PG_EVT_EN changes the mask and resends the vector if the masked value is non-zero. -/
  | pgEvtEnWrite (dt : Nat) (mid : Nat) (page : Nat) (data : Nat)
  /-- ERRCNT_CLEAR (R57): A write of PG_ERRCNT.CLEAR sets COUNT to 0, leaving 1 if an event falls in the same cycle. -/
  | errcntClear (dt : Nat) (mid : Nat) (page : Nat) (same : Bool)
  /-- FIRST_ERR_CLEAR (R57): Writing 1 to PG_FIRST_ERR.VALID clears the capture and re-arms it. -/
  | firstErrClear (dt : Nat) (mid : Nat) (page : Nat)
  /-- WRITE (R48): Safety port WRITE applies 1 to 64 words if the check matches and framing is valid, otherwise applies none. -/
  | spWrite (dt : Nat) (addr : Nat) (words : List Nat) (check : Nat) (clean : Bool)
  /-- READ (R49): Safety port READ returns consecutive words, sending 0 and RESULT 4 from a word not ready in time. -/
  | spRead (dt : Nat) (addr : Nat) (n : Nat) (ready : Nat)
  /-- STATUS (R47): Safety port STATUS returns the status word with the last result, SAFE_INT level and write count. -/
  | spStatus (dt : Nat)
  /-- PORT_RESET (R47): Safety port PORT RESET resets the shift logic and the status word and nothing else. -/
  | portReset (dt : Nat)
  /-- UNKNOWN_COMMAND (R47): An unknown safety port command is ignored and the status word reports unknown command. -/
  | unknownCommand (dt : Nat) (code : Nat)
  /-- OPERATION_ON (R53): PMBus OPERATION written with 0x80 turns the module on after an orderly off or clears a held power-on refusal. -/
  | operationOn (dt : Nat)
  /-- OPERATION_OFF (R53): PMBus OPERATION written with 0x00 acts as an eject warning. -/
  | operationOff (dt : Nat)
  /-- OPERATION_READ (R53): PMBus OPERATION read returns the operation byte. -/
  | operationRead (dt : Nat)
  /-- CLEAR_FAULTS (R53): PMBus CLEAR_FAULTS clears STATUS_WORD and STATUS_TEMPERATURE. -/
  | clearFaults (dt : Nat)
  /-- STATUS_WORD (R53): PMBus STATUS_WORD returns the PMBus status word. -/
  | statusWord (dt : Nat)
  /-- STATUS_TEMPERATURE (R53): PMBus STATUS_TEMPERATURE returns the over-temperature warning and fault bits. -/
  | statusTemperature (dt : Nat)
  /-- READ_VIN (R53): PMBus READ_VIN returns the 12 V rail at the connector in LINEAR11. -/
  | readVin (dt : Nat) (mV : Nat)
  /-- READ_IIN (R53): PMBus READ_IIN returns the 12 V input current. -/
  | readIin (dt : Nat) (mA : Nat)
  /-- READ_TEMPERATURE_1 (R53): PMBus READ_TEMPERATURE_1 returns the inlet air temperature. -/
  | readTemperature1 (dt : Nat)
  /-- READ_TEMPERATURE_2 (R53): PMBus READ_TEMPERATURE_2 returns the hottest die sensor. -/
  | readTemperature2 (dt : Nat)
  /-- READ_PIN (R53): PMBus READ_PIN returns the input power. -/
  | readPin (dt : Nat) (mW : Nat)
  /-- PMBUS_REVISION (R53): PMBus PMBUS_REVISION returns 0x33. -/
  | pmbusRevision (dt : Nat)
  /-- MFR_ID (R53): PMBus MFR_ID returns WILTUR. -/
  | mfrId (dt : Nat)
  /-- MFR_MODEL (R53): PMBus MFR_MODEL returns AFTEN WM96. -/
  | mfrModel (dt : Nat)
  /-- MFR_REVISION (R53): PMBus MFR_REVISION returns silicon step and board revision. -/
  | mfrRevision (dt : Nat)
  /-- MFR_SERIAL (R53): PMBus MFR_SERIAL returns the serial number in 16 hexadecimal digits. -/
  | mfrSerial (dt : Nat)
  /-- MFR_ROLE (R53): PMBus MFR_ROLE returns the module role value. -/
  | mfrRole (dt : Nat)
  /-- MFR_THERMAL_LEVEL (R53): PMBus MFR_THERMAL_LEVEL returns the thermal level 0 to 4. -/
  | mfrThermalLevel (dt : Nat)
  /-- MFR_EJECT_REQUEST (R53): PMBus MFR_EJECT_REQUEST acts as the ejector switch and starts an eject warning. -/
  | mfrEjectRequest (dt : Nat)
  /-- MFR_ORDERING_CODE (R53): PMBus MFR_ORDERING_CODE returns the ordering code string. -/
  | mfrOrderingCode (dt : Nat)
  /-- MFR_UPTIME (R53): PMBus MFR_UPTIME returns seconds since the operating state. -/
  | mfrUptime (dt : Nat)
  /-- SMBUS_UNSUPPORTED (R52): An unsupported command or failed packet error code is answered with NACK and sets CML. -/
  | smbusUnsupported (dt : Nat) (code : Nat) (pecFailed : Bool)
  /-- SOFT_RESET (R56): A write of PG_CTRL.SOFT_RESET starts a reset of the instance and page, discarding staged values and disarming its cue. -/
  | softReset (dt : Nat) (mid : Nat) (page : Nat) (data : Nat)
  /-- SOFT_RESET_DONE (R56): The soft reset completes, sets RESET_DONE and records event 0x0003. -/
  | softResetDone (dt : Nat) (page : Nat)
  /-- PG_CUE_ARM (R62): A write of PG_CUE.ARM arms the page's cue for its point and stage, or is ignored with event 0x0006. -/
  | pgCueArm (dt : Nat) (mid : Nat) (page : Nat) (data : Nat)
  /-- PG_CUE_DISARM (R62): A write of PG_CUE.DISARM disarms the cue and leaves staged values staged. -/
  | pgCueDisarm (dt : Nat) (mid : Nat) (page : Nat) (data : Nat)
  /-- PG_CUE_DISCARD (R61): A write of PG_CUE.DISCARD discards the page's staged values. -/
  | pgCueDiscard (dt : Nat) (mid : Nat) (page : Nat) (data : Nat)
  /-- GCUE_ARM (R63): A write of SYS_GCUE.ARM arms a cue group with the point and stage of the same write. -/
  | gcueArm (dt : Nat) (mid : Nat) (data : Nat)
  /-- GCUE_DISARM (R62): A write of SYS_GCUE.DISARM disarms a cue group. -/
  | gcueDisarm (dt : Nat) (mid : Nat) (data : Nat)
  /-- CUE_TAKEN (R60): At the cue point the module checks all staged values of the cue and applies all of them or none. -/
  | cueTaken (dt : Nat) (group : Bool) (id : Nat)
  /-- ERR_RECORD_ARRIVAL (R67): An event record reaches the ERR ring and severe queue according to severity, moving or discarding on overflow. -/
  | errRecordArrival (dt : Nat) (page : Nat) (code : Nat) (sev : Nat) (detail : Nat) (mid : Nat)
  /-- ERR_RD_IDX_WRITE (R68): A write of ERR_RD_IDX consumes records up to the index, or is discarded beyond ERR_WR_IDX with event 0x0007. -/
  | errRdIdxWrite (dt : Nat) (mid : Nat) (data : Nat)
  /-- ERR_CLR_LOST (R67): A write of ERR_CFG.CLR_LOST clears ERR_LOST_A and ERR_LOST_B. -/
  | errClrLost (dt : Nat) (mid : Nat) (data : Nat)
  /-- SEVERE_QUEUE_POP (R65): A read of ERR_SQ_DATA0 by MID 0x04 pops the oldest severe record into the snapshot, or zeros when empty. -/
  | severeQueuePop (dt : Nat)
  /-- SQ_STAT_READ (R67): A read of ERR_SQ_STAT by MID 0x04 clears the severe queue LOST count. -/
  | sqStatRead (dt : Nat)
  /-- RING_WINDOW_WRITE (R476): A granted write to the ERR ring window is discarded with event 0x0007. -/
  | ringWindowWrite (dt : Nat) (mid : Nat) (addr : Nat) (data : Nat)
  /-- CURTAIN_UP (R175): At a stage's curtain-up point it applies cues and due commits, increments F, flattens, reads descriptors, latches frames and records the time. -/
  | curtainUp (dt : Nat) (stage : Nat)
  /-- FRAME_ELIGIBLE (R124): A completed frame becomes eligible, its arrival time is recorded and the prompter computes its deadlines. -/
  | frameEligible (dt : Nat) (chan : Nat)
  /-- PROMPTER_DECISION (R88): The prompter decides freezing, recovery and damage from a frame's content and transport evidence. -/
  | prompterDecision (dt : Nat) (layer : Nat)
  /-- DEADLINE_PASSED (R87): Stage time passes a late, stale or dark deadline of the frame on display and the verdict changes within 32 ns. -/
  | deadlinePassed (dt : Nat) (stage : Nat) (slot : Nat)
  /-- PULSE_CHANGE (R84): A stamped source pulse change moves the pulse deadline and may contradict a freeze suspicion. -/
  | pulseChange (dt : Nat) (layer : Nat)
  /-- PULSE_DEADLINE_PASSED (R84): The pulse deadline expires and the layer becomes FROZEN with reason 0x09. -/
  | pulseDeadlinePassed (dt : Nat) (layer : Nat)
  /-- FLOOR_WRITE (R100): A write of PRM_FLOOR by MID 0x04 changes effective policy values and clamp bits. -/
  | floorWrite (dt : Nat) (mid : Nat) (data : Nat)
  /-- FRESHNESS_WINDOW_WRITE (R102): A write to the freshness window is discarded with PRM event 0x0106. -/
  | freshnessWindowWrite (dt : Nat) (mid : Nat) (addr : Nat) (data : Nat)
  /-- LOG_WRAPS_CLEAR (R105): A write of PRM_LOG_WRAPS.CLEAR sets the wrap count to 0. -/
  | logWrapsClear (dt : Nat) (mid : Nat) (data : Nat)
  /-- MAP_COMPLETE (R103): The last active pixel of a frame leaves the blender, completing its freshness map and setting MAP_DONE. -/
  | mapComplete (dt : Nat) (stage : Nat)
  /-- ETH_FRAME_RX (R110): A received Ethernet frame is checked and accepted or dropped with a reason. -/
  | ethFrameRx (dt : Nat) (port : Nat) (f : EthRx)
  /-- DROP_REPORT (R110): Once per second in which drops occur, event 0x0105 is recorded with the first reason. -/
  | dropReport (dt : Nat) (port : Nat)
  /-- QUERY_RX (R113): An IGMP or MLD query is answered with reports, entering compatibility mode for old versions. -/
  | queryRx (dt : Nat) (port : Nat) (version : Nat) (group : Nat)
  /-- REPORT_REPEAT (R113): The random repeat report after a flow is enabled falls due and is sent. -/
  | reportRepeat (dt : Nat) (port : Nat) (group : Nat)
  /-- ARP_REPLY (R111): An ARP request or neighbour solicitation for the port's address is answered. -/
  | arpReply (dt : Nat) (port : Nat) (v6 : Bool) (addr : Nat)
  /-- ADDR_CONFLICT (R141): An IPv4 address conflict is detected and records event 0x0104. -/
  | addrConflict (dt : Nat) (port : Nat)
  /-- NIF_LINK_UP (R141): A NIF port's link comes up and records event 0x0100. -/
  | nifLinkUp (dt : Nat) (port : Nat)
  /-- NIF_LINK_DOWN (R141): A NIF port's link goes down and records event 0x0101 with the cause. -/
  | nifLinkDown (dt : Nat) (port : Nat) (cause : Nat)
  /-- FEC_REPORT (R141): Once per second with uncorrectable FEC codewords, event 0x0102 is recorded. -/
  | fecReport (dt : Nat) (port : Nat) (corrected : Nat) (codewords : Nat)
  /-- RTP_PACKET_RX (R119): An ingest channel checks an RTP packet, merges paths, begins or continues a frame and places its pixels. -/
  | rtpPacketRx (dt : Nat) (chan : Nat) (p : RtpPkt)
  /-- PATH_DOWN (R121): A path that delivered no packet for PATH_TO goes down and records event 0x0101. -/
  | pathDown (dt : Nat) (chan : Nat) (path : Nat)
  /-- SKEW_TIMEOUT (R122): SKEW_MAX after the completing packet on the first path, a dual-path frame completes. -/
  | skewTimeout (dt : Nat) (chan : Nat)
  /-- ASSEMBLY_TIMEOUT (R122): Two frame periods plus SKEW_MAX after it began, a frame completes. -/
  | assemblyTimeout (dt : Nat) (chan : Nat)
  /-- RTCP_SR_RX (R131): An RTCP sender report is received and used to map RTP timestamps to capture times. -/
  | rtcpSrRx (dt : Nat) (chan : Nat) (ntp : Nat) (rtp : Nat)
  /-- RTCP_SR_EXPIRY (R131): 30 s after the latest sender report the channel stops supplying capture times. -/
  | rtcpSrExpiry (dt : Nat) (chan : Nat)
  /-- ANC_PACKET_RX (R136): An ST 2110-40 packet on flow 2 updates the timecode and may stamp an ancillary pulse change. -/
  | ancPacketRx (dt : Nat) (chan : Nat) (p : AncPkt)
  /-- SAP_ANNOUNCEMENT (R137): During the show a SAP announcement creates or refreshes a session and may join it to a channel. -/
  | sapAnnouncement (dt : Nat) (port : Nat) (id : Nat) (encrypted : Bool) (compressed : Bool) (sdp : Sdp)
  /-- SAP_DELETION (R137): A SAP deletion ends a session, disables its channel and joins the next waiting session. -/
  | sapDeletion (dt : Nat) (id : Nat)
  /-- SESSION_TIMEOUT (R137): A session with no announcement for its time-out ends. -/
  | sessionTimeout (dt : Nat) (id : Nat)
  /-- PUBLISH (R147): A write of LD_PUBLISH.PUB makes the host-written frame in buffer BUF eligible, or is refused with event 0x0104. -/
  | publish (dt : Nat) (mid : Nat) (layer : Nat) (data : Nat)
  /-- CORRUPT_BLOCK (R154): A corrupt compressed block is filled with the DARK fill and records event 0x0103. -/
  | corruptBlock (dt : Nat) (pipe : Nat) (layer : Nat)
  /-- LINE_NOT_READY (R178): A placement line not ready when the blender needs it is drawn as the DARK fill with hatch and records event 0x0100. -/
  | lineNotReady (dt : Nat) (stage : Nat) (slot : Nat) (line : Nat)
  /-- HEAD_QUEUE_STARVED (R179): The stage cannot deliver a pixel to the head queue, so the head shows its curtain and event 0x0100 is recorded. -/
  | headQueueStarved (dt : Nat) (stage : Nat) (line : Nat)
  /-- SIGNATURE_ARRAY_DONE (R193): The stage's tile signature array of frame F is written and STG_SIGDIG updated. -/
  | signatureArrayDone (dt : Nat) (stage : Nat)
  /-- SIGNATURE_ARRAY_LATE (R193): The signature array is not complete within 100 µs, so event 0x0105 and the LATE bit are set. -/
  | signatureArrayLate (dt : Nat) (stage : Nat)
  /-- PS_COMMIT_WRITE (R188): A write of STG_PS_CTRL.COMMIT by MID 0x04 arms a proscenium commit for a later curtain-up. -/
  | psCommitWrite (dt : Nat) (mid : Nat) (stage : Nat) (data : Nat)
  /-- PS_CHECK (R195): When a region's last pixel enters the queue the stage compares its CRC with EXP0 or EXP1 and reports the result. -/
  | psCheck (dt : Nat) (stage : Nat) (k : Nat)
  /-- SIG_SAMPLE (R196): Each enabled contact is sampled every 100 µs and its level judged. -/
  | sigSample (dt : Nat) (levels : Nat)
  /-- CONTACT_DEBOUNCED (R196): A run held for DEBOUNCE moves a contact to ACTIVE, FOUND_ACTIVE or INACTIVE with its event. -/
  | contactDebounced (dt : Nat) (c : Nat)
  /-- CONTACT_STUCK (R198): A contact asserted for STUCK_T becomes STUCK and records event 0x0103. -/
  | contactStuck (dt : Nat) (c : Nat)
  /-- UNSETTLED_TIMEOUT (R197): An unsettled window open for CH_WIN takes the contact to CHATTER. -/
  | unsettledTimeout (dt : Nat) (c : Nat)
  /-- CHATTER_END (R197): A level unchanged for the greater of CH_WIN and DEBOUNCE ends CHATTER with event 0x0105. -/
  | chatterEnd (dt : Nat) (c : Nat)
  /-- CONTACT_CONFIG_WRITE (R196): A write of SIG_CFGk enabling, disabling or changing polarity restarts or disables the contact. -/
  | contactConfigWrite (dt : Nat) (mid : Nat) (c : Nat) (data : Nat)
  /-- SUPPRESSED_CLEAR (R197): A write of SIG_SUPPRESSED.CLEAR sets the count to 0. -/
  | suppressedClear (dt : Nat) (mid : Nat) (data : Nat)
  /-- XSD_FRAME_DONE (R210): An XSD context decodes a completed codestream and its frame becomes eligible within 500 µs. -/
  | xsdFrameDone (dt : Nat) (ctx : Nat) (cs : List Codestream)
  /-- VDC_ACCESS_UNIT (R216): A VDC context decodes an access unit, classifying errors, concealing and substituting references. -/
  | vdcAccessUnit (dt : Nat) (ctx : Nat) (au : AccessUnit)
  /-- VDC_PICTURE_OUTPUT (R213): A decoded picture is output as reordering permits and becomes eligible. -/
  | vdcPictureOutput (dt : Nat) (ctx : Nat)
  /-- VDC_STALL (R212): A context stalled for a free slot for 50 ms records event 0x0106. -/
  | vdcStall (dt : Nat) (ctx : Nat)
  /-- VDC_SLOT_FREE (R212): A picture store slot frees and a stalled context resumes decoding. -/
  | vdcSlotFree (dt : Nat) (ctx : Nat)
  /-- VEC_ROW_READY (R230): An encoder row becomes ready when its last needed input line has entered the context. -/
  | vecRowReady (dt : Nat) (ctx : Nat) (row : Nat) (lost : Bool)
  /-- VEC_ROW_CODED (R235): A row is coded under rate control, clamped to QP_MAX or replaced by a curtain row. -/
  | vecRowCoded (dt : Nat) (ctx : Nat) (row : Nat) (r : VecRow)
  /-- VEC_SLICE_OUT (R231): A coded slice leaves to the NIF as RTP packets or to the recording ring. -/
  | vecSliceOut (dt : Nat) (ctx : Nat) (sets : List ParamSet) (nals : List (List Nat))
  /-- VEC_FORCE_IDR (R229): A write of VEC_CTRL.FORCE_IDR codes the next picture as an IDR. -/
  | vecForceIdr (dt : Nat) (mid : Nat) (ctx : Nat) (data : Nat)
  /-- HEAD_FRAME_START (R253): At a head's frame start or vertical blanking it applies cued timing, starts or ends the curtain and corrects genlock. -/
  | headFrameStart (dt : Nat) (head : Nat) (blank : Bool)
  /-- HPD_SAMPLE (R255): Each HPD line is sampled every 100 µs and judged by the contact state machine. -/
  | hpdSample (dt : Nat) (levels : Nat)
  /-- HPD_STATE_CHANGE (R256): An HPD state change makes the head read the sink and train, or stop transmitting. -/
  | hpdStateChange (dt : Nat) (head : Nat)
  /-- IRQ_HPD (R256): A short HPD low pulse makes the head read the sink status and retrain if a lane lost lock. -/
  | irqHpd (dt : Nat) (head : Nat) (status : List Nat)
  /-- AUX_TRANSACTION (R257): The head performs an AUX transaction, retrying up to 7 times on time-out or DEFER. -/
  | auxTransaction (dt : Nat) (head : Nat) (i2c : Bool) (addr : Nat) (write : Bool) (bytes : List Nat) (reply : Nat)
  /-- AUX_TIMEOUT (R257): An AUX reply times out after 400 µs and the transaction is retried or failed. -/
  | auxTimeout (dt : Nat) (head : Nat)
  /-- LINK_TRAINING (R258): The head trains its link at the highest common rate, falling back to lower rates. -/
  | linkTraining (dt : Nat) (head : Nat) (result : Nat) (topo : List (List (Nat × Nat × Nat))) (drive : List Nat)
  /-- TRAINING_ATTEMPT_TIMEOUT (R258): A training attempt ends after 100 ms and the next lower rate is tried or back-off begins. -/
  | trainingAttemptTimeout (dt : Nat) (head : Nat)
  /-- EDID_READ (R259): The head reads EDID blocks, checks their checksums and reports the preferred timing. -/
  | edidRead (dt : Nat) (head : Nat) (remote : List Nat)
  /-- HEAD_RESUME (R261): When OWN_OUT asserts a head with a stored link setting drives valid symbols within 50 µs. -/
  | headResume (dt : Nat) (head : Nat)
  /-- LINK_CHECK (R262): 1.0 ms after resuming the head checks lane lock and alignment and retrains once on failure. -/
  | linkCheck (dt : Nat) (head : Nat) (status : List Nat)
  /-- TX_PACKET (R267): The ST 2110-20 packetiser sends a paced packet of the stage or curtain, or counts it lost. -/
  | txPacket (dt : Nat) (head : Nat) (lost : Bool)
  /-- PTP_SYNC (R273): A Sync exchange is received and an offset measured for the PTP reference. -/
  | ptpSync (dt : Nat) (ref : Nat) (t1 : Int) (adjust : Int) (dco : Int)
  /-- PTP_ANNOUNCE (R273): An Announce message updates the foreign masters and the dataset comparison. -/
  | ptpAnnounce (dt : Nat) (ref : Nat) (a : Announce)
  /-- PTP_DELAY_REQ (R273): The instance sends a Delay_Req to its master. -/
  | ptpDelayReq (dt : Nat) (ref : Nat)
  /-- PTP_DELAY_RESP (R273): A Delay_Resp completes a delay measurement for the mean path delay. -/
  | ptpDelayResp (dt : Nat) (ref : Nat) (t4 : Int)
  /-- ANNOUNCE_TIMEOUT (R276): No Announce for ANN_TO intervals disqualifies the PTP reference. -/
  | announceTimeout (dt : Nat) (ref : Nat)
  /-- EXCHANGE_TIMEOUT (R276): No complete exchange for 2 s disqualifies the PTP reference. -/
  | exchangeTimeout (dt : Nat) (ref : Nat)
  /-- HOUSE_SYNC_FRAME (R276): A house sync frame is measured, or 4 missing frames disqualify REF4. -/
  | houseSyncFrame (dt : Nat) (good : Bool) (filtered : Int) (dco : Int)
  /-- F10M_LOSS (R276): 10 MHz absent for 10 µs disqualifies REF5. -/
  | f10mLoss (dt : Nat) (lost : Bool) (dco : Int)
  /-- PPS_PULSE (R276): A pulse per second edge is measured against the 10 MHz count for REF5. -/
  | ppsPulse (dt : Nat) (count : Nat) (filtered : Int) (dco : Int)
  /-- PPS_TIMEOUT (R276): No pulse for 1.5 s disqualifies REF5 with PPS_EN. -/
  | ppsTimeout (dt : Nat)
  /-- REF_QUALIFIED (R276): A reference whose conditions held for QUAL_T becomes a candidate and records event 0x0108. -/
  | refQualified (dt : Nat) (ref : Nat)
  /-- REF_DISQUALIFIED (R276): A reference meeting a disqualification condition stops being a candidate and records event 0x0109. -/
  | refDisqualified (dt : Nat) (ref : Nat) (cause : Nat) (freq : Int)
  /-- REF_JUMP (R277): A filtered offset beyond STEP_T while LOCKED is kept from the loop and the DCO holds. -/
  | refJump (dt : Nat)
  /-- JUMP_TIMEOUT (R277): An offset still beyond STEP_T after 2 s disqualifies the reference with cause 6. -/
  | jumpTimeout (dt : Nat)
  /-- SELECTOR_RUN (R278): The selector chooses a reference from candidates by follow rules, quality, quarrel, majority and priority. -/
  | selectorRun (dt : Nat)
  /-- CLOCK_LOCKED (R282): An offset within the lock limit for the lock time moves the clock from ACQUIRING to LOCKED. -/
  | clockLocked (dt : Nat)
  /-- OCXO_READY (R293): The OCXO reports its oven ready and the clock leaves WARMUP for FREERUN. -/
  | ocxoReady (dt : Nat)
  /-- HOLDOVER_EXPIRED (R282): Holdover elapsed time reaches the qualified interval and the clock enters HOLDOVER_EXPIRED. -/
  | holdoverExpired (dt : Nat)
  /-- PULL_IN (R283): After its first exchanges an acquiring clock steps stage time or begins to slew. -/
  | pullIn (dt : Nat)
  /-- HOLDOVER_UPDATE (R288): Every 1 s in holdover the DCO value is recomputed from temperature and ageing models. -/
  | holdoverUpdate (dt : Nat)
  /-- TEMP_BIN_UPDATE (R289): Every 16 s while LOCKED the temperature compensation bin is updated. -/
  | tempBinUpdate (dt : Nat)
  /-- AGEING_SAMPLE (R290): Every hour in LOCKED an ageing sample updates the learned rate. -/
  | ageingSample (dt : Nat)
  /-- LEARNING_SAVE (R291): Every 24 h the temperature table and ageing rate are saved to EEPROM. -/
  | learningSave (dt : Nat)
  /-- LEARN_SAVE (R291): A write of CLK_LEARN.SAVE saves the table and rate to EEPROM. -/
  | learnSave (dt : Nat) (mid : Nat) (data : Nat)
  /-- LEARN_CLEAR (R291): A write of CLK_LEARN.CLEAR discards the table and rate in use and in EEPROM. -/
  | learnClear (dt : Nat) (mid : Nat) (data : Nat)
  /-- LEARNING_RESTORE (R291): After 10 min LOCKED restored learning takes effect if consistent, or is discarded. -/
  | learningRestore (dt : Nat)
  /-- DRIFT_SAMPLE (R294): Every 16 s the drift guard fits frequency trends and starts a watch or disqualifies the reference. -/
  | driftSample (dt : Nat) (ref : Nat) (y : Int)
  /-- TOD_WRITE (R297): A write of CLK_TOD_SEC with APPLY schedules a time-of-day step, or is refused with event 0x010B. -/
  | todWrite (dt : Nat) (mid : Nat) (lo : Nat) (hi : Nat)
  /-- TOD_STEP_APPLY (R297): At the next whole second the scheduled time-of-day step takes effect. -/
  | todStepApply (dt : Nat)
  /-- LEAP_ADJUST (R298): At the end of a UTC day with a leap flag the UTC offset in effect changes by one second. -/
  | leapAdjust (dt : Nat)
  /-- DETECT_PROBE (R302): A bring-up unit probes for receiver termination on every lane. -/
  | detectProbe (dt : Nat) (unit : Nat) (sensed : Bool)
  /-- BRINGUP_TIMEOUT (R302): A bring-up step's time-out expires and the unit fails to BACKOFF. -/
  | bringupTimeout (dt : Nat) (unit : Nat)
  /-- BACKOFF_EXPIRY (R303): The back-off time ends and the unit enters DETECT. -/
  | backoffExpiry (dt : Nat) (unit : Nat)
  /-- TRAINING_FRAME (R308): A valid Chaino training frame is received and its tap requests and status are handled. -/
  | trainingFrame (dt : Nat) (lane : Nat) (bad : Nat) (inverted : Bool) (control : Nat) (status : Nat) (trained : Bool)
  /-- TRAINING_COMPLETE (R309): A lane completes training and starts its block stream at an alignment period. -/
  | trainingComplete (dt : Nat) (lane : Nat)
  /-- BIT_LOCK (R302): Clock recovery and adaptation converge on every lane. -/
  | bitLock (dt : Nat) (unit : Nat)
  /-- BLOCK_LOCK (R313): Alignment markers confirm block lock and the lanes are deskewed. -/
  | blockLock (dt : Nat) (unit : Nat) (skew : Nat) (delay : Nat) (hunts : List LaneHunt)
  /-- SIGNAL_LOSS (R305): Loss of signal or block lock takes an ACTIVE unit down to DETECT with a down event. -/
  | signalLoss (dt : Nat) (lane : Nat) (cause : Nat) (obs : List LineObs)
  /-- ACTIVE_HOLD (R303): A unit ACTIVE for 1 s resets its failure count. -/
  | activeHold (dt : Nat) (unit : Nat)
  /-- CAPABILITY_FRAME (R320): A capability frame is received, checked and accepted, refused, or makes the port ACTIVE. -/
  | capabilityFrame (dt : Nat) (port : Nat) (words : List Nat)
  /-- CAP_FRAME_SEND (R320): A port sends its capability frame every 10 µs in CAPS or every CAP_PERIOD when ACTIVE. -/
  | capFrameSend (dt : Nat) (port : Nat)
  /-- GOODBYE_RX (R306): A received GOODBYE sets PEER_EJECTING and records event 0x0104. -/
  | goodbyeRx (dt : Nat) (port : Nat)
  /-- CHAINO_FRAME_RX (R316): A Chaino frame is received whole and delivered to its channel or discarded. -/
  | chainoFrameRx (dt : Nat) (port : Nat) (codewords : List (List (List Nat)))
  /-- EXPRESS_GROUP_RX (R316): An express group is received, timestamped and delivered or discarded. -/
  | expressGroupRx (dt : Nat) (port : Nat) (codewords : List (List (List Nat)))
  /-- EYE_SCAN_START (R322): A write of LANE_EYE_CTRL.START starts an eye scan or is refused. -/
  | eyeScanStart (dt : Nat) (mid : Nat) (lane : Nat) (data : Nat)
  /-- EYE_SCAN_ABORT (R322): A write of LANE_EYE_CTRL.ABORT ends a scan in progress. -/
  | eyeScanAbort (dt : Nat) (mid : Nat) (lane : Nat) (data : Nat)
  /-- EYE_POINT_DONE (R323): An eye scan point finishes its dwell and stores its disagreement count. -/
  | eyePointDone (dt : Nat) (lane : Nat) (errs : Nat)
  /-- QUICK_SCAN (R324): A periodic quick scan measures width and height and checks them against the baseline. -/
  | quickScan (dt : Nat) (lane : Nat) (phase : List Nat) (volt : List Nat)
  /-- MARGIN_REBASE (R325): A write of LANE_MARGIN_CFG.REBASE takes the next quick scan as the baseline. -/
  | marginRebase (dt : Nat) (mid : Nat) (lane : Nat) (data : Nat)
  /-- LANE_SER_HOUR (R325): At each whole hour LANE_SER takes the corrected symbol count of that hour. -/
  | laneSerHour (dt : Nat) (lane : Nat)
  /-- PAIR_FORM (R328): A pair forms when port 0 is ACTIVE or call-line frames arrive, or is refused with event 0x0103. -/
  | pairForm (dt : Nat)
  /-- ROLE_SETTLE (R329): Every 50 µs the pair engine settles the role of a module in WINGS. -/
  | roleSettle (dt : Nat)
  /-- HEARTBEAT_SEND (R330): Every 8 µs a path A heartbeat express group is sent on port 0. -/
  | heartbeatSend (dt : Nat)
  /-- HEARTBEAT_RX (R330): A path A heartbeat is counted and updates partner state and REF6 time transfer. -/
  | heartbeatRx (dt : Nat) (p : Beat) (sel : Nat) (utc : Int) (dco : Int)
  /-- CALL_FRAME_SEND (R331): Every 50 µs a Manchester call-line frame is sent. -/
  | callFrameSend (dt : Nat)
  /-- CALL_FRAME_RX (R331): A valid call-line frame is counted for path B. -/
  | callFrameRx (dt : Nat) (p : Beat)
  /-- HEARTBEAT_PATH_LOST (R332): A path with no counted heartbeat for its time-out is lost and records event 0x0101. -/
  | heartbeatPathLost (dt : Nat) (pathA : Bool)
  /-- CLAIM_WINDOW_END (R334): The 5 µs claim window after asserting OWN_OUT ends and the heads may drive. -/
  | claimWindowEnd (dt : Nat)
  /-- OWN_CONTEST (R334): Both ownership pins asserted makes the SEAT 1 module withdraw and record event 0x010D. -/
  | ownContest (dt : Nat)
  /-- EPOCH_BOUNDARY (R338): An epoch boundary opens a new epoch, takes point 2 and 3 cues and schedules END. -/
  | epochBoundary (dt : Nat)
  /-- EPOCH_END_SEND (R341): Within 20 µs after boundary E + 1 the active module sends END for epoch E. -/
  | epochEndSend (dt : Nat)
  /-- EPOCH_FRAME_RX (R339): The understudy receives a RECORDS, STORE, IMAGE or LINK frame of an epoch. -/
  | epochFrameRx (dt : Nat) (f : EpochFrame)
  /-- EPOCH_END_RX (R342): The understudy receives END and commits the epoch if complete, then sends ACK. -/
  | epochEndRx (dt : Nat) (e : EpochEnd)
  /-- EPOCH_COMMIT_DONE (R342): The understudy finishes applying a committed epoch's records and sends ACK. -/
  | epochCommitDone (dt : Nat)
  /-- EPOCH_FAIL (R344): An epoch not committed within 3.0 ms fails and requests a full sync with event 0x0104. -/
  | epochFail (dt : Nat)
  /-- EPOCH_ACK_RX (R339): The active module receives an ACK and records the acknowledged epoch or starts a full sync. -/
  | epochAckRx (dt : Nat) (epoch : Nat) (ok : Bool) (sync : Bool)
  /-- FULL_SYNC_START (R344): At a boundary the active module starts sending a full sync of images, records and buffers. -/
  | fullSyncStart (dt : Nat)
  /-- FULL_SYNC_COMPLETE (R344): The understudy completes a full sync, sets SYNC to 2 and records event 0x0105. -/
  | fullSyncComplete (dt : Nat)
  /-- SYNC_TIMEOUT (R344): A full sync not complete within SYNC_TO restarts at the next boundary. -/
  | syncTimeout (dt : Nat)
  /-- STORE_RELEASED (R345): A STORE write waiting for a held buffer is written when the buffer is released. -/
  | storeReleased (dt : Nat)
  /-- PAIR_SWITCH (R354): A write of PAIR_CTRL.SWITCH begins a planned takeover with cause 1, or is refused. -/
  | pairSwitch (dt : Nat) (mid : Nat) (data : Nat)
  /-- PAIR_CLEAR_FAULT (R348): A write of PAIR_CTRL.CLEAR_FAULT clears this module's DR_FAULT. -/
  | pairClearFault (dt : Nat) (mid : Nat) (data : Nat)
  /-- PAIR_RESYNC (R344): A write of PAIR_CTRL.RESYNC on the understudy requests a full sync. -/
  | pairResync (dt : Nat) (mid : Nat) (data : Nat)
  /-- REHEARSAL_SEND (R350): For each running stage and frame the module sends a rehearsal set on channel 3. -/
  | rehearsalSend (dt : Nat) (stage : Nat) (second : Nat)
  /-- REHEARSAL_COMPARE (R351): With both sets held the module compares tiles and counts mismatches and exclusions. -/
  | rehearsalCompare (dt : Nat) (stage : Nat) (r : Rehearsal)
  /-- REHEARSAL_TIMEOUT (R351): A set not arrived within 2 frame times is dropped and its frame counted as excluded. -/
  | rehearsalTimeout (dt : Nat) (stage : Nat)
  /-- SECOND_OPINION (R353): A disputed tile is re-rendered on another pipe and the outcome decided on both modules. -/
  | secondOpinion (dt : Nat)
  /-- SECOND_OPINION_TIMEOUT (R352): A disputed tile not compared again within 16 frames gives outcome 4, undecided. -/
  | secondOpinionTimeout (dt : Nat)
  /-- TAKEOVER_RELEASE (R355): The active module sets RELEASE and the understudy answers TAKE in a planned takeover handshake. -/
  | takeoverRelease (dt : Nat)
  /-- OWN_RELEASE (R355): 10 µs before the take point the active module deasserts OWN_OUT and sends END at once. -/
  | ownRelease (dt : Nat)
  /-- UNCONTROLLED_TAKEOVER (R356): Both paths lost with OWN_IN deasserted for 2 µs decides an uncontrolled takeover with cause 5. -/
  | uncontrolledTakeover (dt : Nat)
  /-- TAKE_POINT (R356): At the take point the understudy becomes ACTIVE or CURTAIN, asserts OWN_OUT and records event 0x0109. -/
  | takePoint (dt : Nat)
  /-- BEACON_SEND (R363): Every 10 µs a member sends a ring beacon from both ring ports. -/
  | beaconSend (dt : Nat)
  /-- BEACON_RX (R363): A ring beacon is counted, forwarded and used for time transfer and membership. -/
  | beaconRx (dt : Nat) (port : Nat) (direct : Bool) (p : Beacon) (mate : Option Nat) (clk : Nat) (quality : Nat) (unc : Bool) (utc : Int) (dco : Int)
  /-- MEMBER_LOST (R363): A sender with no beacon counted for 40 µs is lost and event 0x0101 is recorded. -/
  | memberLost (dt : Nat) (pos : Nat)
  /-- RING_JOIN (R362): A module joins a ring when a ring port becomes ACTIVE, or is refused for a duplicate position. -/
  | ringJoin (dt : Nat)
  /-- JUNCTION_FORM (R366): A port 3 link joins a ring beneath as a junction, or is refused with event 0x0107. -/
  | junctionForm (dt : Nat) (peerUplink : Bool)
  /-- LEAD_ELECTION (R367): After membership is unchanged for SETTLE the lowest candidate becomes lead with event 0x0102. -/
  | leadElection (dt : Nat)
  /-- MEMBER_WINDOW_ACCESS (R370): An access through a member window is carried on channel 5 and checked at the target. -/
  | memberWindowAccess (dt : Nat) (mid : Nat) (addr : Nat) (data : Nat) (value : Nat) (write : Bool) (lost : Bool) (path : Option (List Nat))
  /-- SHARED_TABLE_WRITE (R371): A write to a shared table on the lead is applied on every member. -/
  | sharedTableWrite (dt : Nat) (mid : Nat) (addr : Nat) (data : Nat) (port : Nat)
  /-- RELAY_FRAME_RX (R375): A relay frame is written into the receiver's buffer and forwarded, its evidence frame making the frame eligible. -/
  | relayFrameRx (dt : Nat) (port : Nat) (f : RelayFrame) (bad : Bool)
  /-- ENS_CUE_CHECK (R378): 50 µs before the boundary each member stops staging the group and checks its values. -/
  | ensCueCheck (dt : Nat)
  /-- ENS_CUE_RESULT (R378): The lead collects member results and the group cue applies on every member or none. -/
  | ensCueResult (dt : Nat) (refusers : Nat)
  /-- JOIN_COPY_DONE (R380): A joining module becomes a member at the next boundary after the shared copy completes. -/
  | joinCopyDone (dt : Nat)
  /-- RING_ISOLATED (R382): A ring part that no longer hears the lead sets ISOLATED and records event 0x0105. -/
  | ringIsolated (dt : Nat)
  /-- MEM_ACCESS (R387): A frame-store access takes effect at its channel with check-code correction or an uncorrectable mark. -/
  | memAccess (dt : Nat) (mid : Nat) (addr : Nat) (n : Nat) (write : Bool) (misroute : Bool) (bytes : List Nat) (flips : Nat) (skew : Nat) (beaten : Bool)
  /-- ARB_GRANT (R394): A channel's arbitration tree grants a burst by weighted tags or fetch deadline. -/
  | arbGrant (dt : Nat) (chan : Nat) (waiting : List (Nat × Nat × Nat × Nat))
  /-- SCRUB_READ (R391): The scrubber reads the next word at its pace and writes back corrections. -/
  | scrubRead (dt : Nat) (flips : Nat) (skew : Nat) (beaten : Bool)
  /-- SRAM_PATROL (R392): An SRAM word is read and corrected, with uncorrectable errors handled by region. -/
  | sramPatrol (dt : Nat) (region : Nat) (word : Nat) (flips : Nat) (skew : Nat) (x : Nat) (y : Nat) (z : Nat)
  /-- HELD_WINDOW (R396): Each 1 ms MEM_HELD is updated and a class held over 50 % records event 0x0106. -/
  | heldWindow (dt : Nat) (chan : Nat) (util : Nat) (urgent : Nat) (ing : Nat) (codec : Nat) (sys : Nat) (scrub : Nat)
  /-- CE_HOUR (R389): At each whole hour a channel over CE_LIMIT records event 0x0102. -/
  | ceHour (dt : Nat) (chan : Nat)
  /-- CRC_START (R399): A write of CRC_CTRL.START starts a TRIG 0 run. -/
  | crcStart (dt : Nat) (mid : Nat) (unit : Nat)
  /-- CRC_TRIGGER (R399): A frame eligible or curtain-up trigger starts a run or counts an overrun. -/
  | crcTrigger (dt : Nat) (unit : Nat)
  /-- CRC_RUN_END (R400): A run ends, writes its result and outcome and raises mismatch or match events. -/
  | crcRunEnd (dt : Nat) (unit : Nat) (disturbed : Bool)
  /-- CRC_ABORT (R400): A write of CRC_CTRL.ABORT ends a run with outcome 6. -/
  | crcAbort (dt : Nat) (mid : Nat) (unit : Nat)
  /-- OPEN (R422): A write of ACG_PROP_CTRL.OPEN opens a proposal loaded with the image in effect. -/
  | openProposal (dt : Nat) (mid : Nat)
  /-- SUBMIT (R422): A write of SUBMIT by the proposer freezes the proposal if its digest matches, or aborts it. -/
  | submit (dt : Nat) (mid : Nat)
  /-- WITHDRAW (R423): A write of WITHDRAW by the proposer aborts the proposal with cause 4. -/
  | withdraw (dt : Nat) (mid : Nat)
  /-- REJECT (R423): A write of REJECT by the countersigner aborts the proposal with cause 3. -/
  | reject (dt : Nat) (mid : Nat)
  /-- PROP_SIGN (R422): A write of ACG_PROP_SIGN by the countersigner checks and commits the proposal or aborts it. -/
  | propSign (dt : Nat) (mid : Nat) (data : Nat)
  /-- PROPOSAL_AREA_WRITE (R422): A write to the proposal area edits an open proposal, or is a violation of kind 5. -/
  | proposalAreaWrite (dt : Nat) (mid : Nat) (addr : Nat) (data : Nat)
  /-- PROPOSAL_TIMEOUT (R423): EDIT_TO or WINDOW expires and the proposal aborts with cause 5. -/
  | proposalTimeout (dt : Nat)
  /-- FENCE_DRAINED (R418): Every access tagged with an older epoch completes and DRAINED reads 1. -/
  | fenceDrained (dt : Nat)
  /-- FENCE_TIMEOUT (R418): DRAINED still 0 1 ms after a commit records event 0x0105. -/
  | fenceTimeout (dt : Nat)
  /-- VIOL_COUNT_CLEAR (R416): A write of ACG_VIOL_COUNT.CLEAR sets the violation count to 0. -/
  | violCountClear (dt : Nat) (mid : Nat)
  /-- IDCODE (R426): The IDCODE instruction selects the 32-bit identification register. -/
  | idcode (dt : Nat)
  /-- DAU_READ (R426): A DAU_ACCESS read operation reads a register or frame-store word as MID 0x08. -/
  | dauRead (dt : Nat) (frameStore : Bool) (addr : Nat)
  /-- DAU_WRITE (R426): A DAU_ACCESS write operation writes a register or frame-store word as MID 0x08. -/
  | dauWrite (dt : Nat) (frameStore : Bool) (addr : Nat) (data : Nat)
  /-- DAU_STATUS (R426): A DAU_ACCESS status operation returns the result of the previous operation. -/
  | dauStatus (dt : Nat)
  /-- BYPASS (R426): BYPASS or any other instruction selects the 1-bit bypass register. -/
  | bypass (dt : Nat) (code : Nat) (tdi : Bool)
  /-- LONG_CONTACT_MATE (R429): Ground, 3.3 V auxiliary and precharge contacts mate and the management controller starts. -/
  | longContactMate (dt : Nat)
  /-- MC_READY (R429): The management controller runs, answers on SMBus and reads SLOT. -/
  | mcReady (dt : Nat) (slot : Nat)
  /-- PIN_SAMPLE (R430): The management controller samples PRESENT_N and EJECT_N every 100 µs and judges their states. -/
  | pinSample (dt : Nat) (present : Bool) (eject : Bool)
  /-- PRESENCE_ACTIVE (R429): PRESENT_N judged active starts the 10 ms power-on check. -/
  | presenceActive (dt : Nat)
  /-- POWER_ON_CHECK (R429): After 10 ms of valid rail and no eject, HSW begins soft start or refuses power-on. -/
  | powerOnCheck (dt : Nat) (least : Nat) (most : Nat)
  /-- SOFT_START_DONE (R429): The 12 V rail is switched on and 12 V good starts the regulators. -/
  | softStartDone (dt : Nat)
  /-- INTERNAL_RESET_RELEASE (R429): 1 ms after 12 V good and RESET_N deasserted the internal reset releases and straps latch. -/
  | internalResetRelease (dt : Nat) (straps : Nat)
  /-- OPERATING_STATE (R429): Initialisation completes, the module reaches its operating state in WINGS and records event 0x0100. -/
  | operatingState (dt : Nat)
  /-- STARTUP_ABORT (R432): Removal or eject before the operating state switches the rail off and returns to step 3. -/
  | startupAbort (dt : Nat)
  /-- POWER_FAULT (R432): Undervoltage, overvoltage or current trip switches the rail off and refuses power-on. -/
  | powerFault (dt : Nat) (code : Nat)
  /-- UV_WARNING (R447): 12 V below UV_WARN for 1 ms records event 0x0100. -/
  | uvWarning (dt : Nat) (least : Nat)
  /-- RAIL_LOSS (R446): 12 V below UV_OFF for 100 µs or loss of presence without warning switches the rail off. -/
  | railLoss (dt : Nat) (uv : Bool)
  /-- AUX_RAIL_LOSS (R466): 3.3 V auxiliary below 3.0 V for 100 µs switches the 12 V rail off. -/
  | auxRailLoss (dt : Nat)
  /-- STRAP_SAMPLE (R434): Every 1 s the straps are sampled and a difference sets STRAP_DIFF with event 0x0105. -/
  | strapSample (dt : Nat) (straps : Nat)
  /-- RESET_N_ASSERT (R435): RESET_N asserted for 10 µs takes a module reset at once. -/
  | resetNAssert (dt : Nat)
  /-- SYS_RESET_KEY (R435): A write of SYS_RESET.KEY with 0x6A5D requests a module reset after departure. -/
  | sysResetKey (dt : Nat) (mid : Nat) (data : Nat)
  /-- MODULE_RESET (R435): A module reset returns every block except HSW, controller, oven and EEPROM to power-up state at step 7. -/
  | moduleReset (dt : Nat)
  /-- HOST_CLAIM (R442): A write of SYS_HOST_CLAIM.CLAIM claims the module, preventing or ending the show. -/
  | hostClaim (dt : Nat) (mid : Nat)
  /-- SHOW_START (R437): With no claim 3 s after the operating state and the module ACTIVE, the stand-alone show starts. -/
  | showStart (dt : Nat)
  /-- SHOW_RETILE (R440): When a session joins or ends or HPD changes the show sets up heads, layers and scenes and arms group 63. -/
  | showRetile (dt : Nat)
  /-- SHOW_STATUS_UPDATE (R438): Every 1 s the show rewrites the status strip text and commits it. -/
  | showStatusUpdate (dt : Nat)
  /-- SHOW_SPEED_ALTERNATE (R438): A show port without link after 5 s alternates speed every 5 s. -/
  | showSpeedAlternate (dt : Nat) (port : Nat)
  /-- EJECT_WARNING (R443): EJECT_N active starts the eject warning: GOODBYE, saves, takeover or curtain. -/
  | ejectWarning (dt : Nat)
  /-- HSW_EJECT (R443): A write of HSW_CTRL.EJECT acts as the ejector switch and starts an eject warning. -/
  | hswEject (dt : Nat) (mid : Nat)
  /-- EJECT_OWN_RELEASE (R444): 18.0 ms after the warning the ejecting module deasserts OWN_OUT if the take point is later. -/
  | ejectOwnRelease (dt : Nat)
  /-- EJECT_POWER_OFF (R445): 20.0 ms after a commanded warning HSW switches the rail off and the role becomes OFF. -/
  | ejectPowerOff (dt : Nat)
  /-- EJECTOR_CLOSED (R445): EJECT_N returns inactive with presence kept, recording event 0x0102 and scheduling a module reset. -/
  | ejectorClosed (dt : Nat)
  /-- EJECT_RESET_DUE (R445): 1 s after the ejector closes again the module takes a reset with cause 3. -/
  | ejectResetDue (dt : Nat)
  /-- SENSOR_CONVERSION (R449): Every 1 ms each sensor converts, its filtered reading updates and the level may rise. -/
  | sensorConversion (dt : Nat) (temps : List (Option Int))
  /-- SENSOR_FAILED (R450): A sensor timed out, out of range or disagreeing is treated as hot with event 0x0102. -/
  | sensorFailed (dt : Nat) (n : Nat)
  /-- SENSOR_RECOVERED (R450): After 60 s of valid conversions a failed sensor recovers with event 0x0103. -/
  | sensorRecovered (dt : Nat) (n : Nat)
  /-- LEVEL_FALL (R451): After 10 s below the level's thresholds less hysteresis the module level falls by one. -/
  | levelFall (dt : Nat)
  /-- THROTTLE_INTERVAL (R454): At the end of each 500 ms interval at level 2 or above the throttle step rises or holds. -/
  | throttleInterval (dt : Nat)
  /-- THROTTLE_FALL (R454): Below level 2 the throttle step falls by one every 5 s. -/
  | throttleFall (dt : Nat)
  /-- SHUTDOWN_POWER_OFF (R457): 20.0 ms after the shutdown event HSW switches the rail off with fault code 4. -/
  | shutdownPowerOff (dt : Nat)
  /-- THRESH_WRITE (R452): A write of THM_THRESHc lowers thresholds, or is refused if it raises or misorders them. -/
  | threshWrite (dt : Nat) (mid : Nat) (c : Nat) (data : Nat)
  /-- OCXO_TEMP_PASS (R458): Every 1 s THM passes the OCXO enclosure temperature to CLK. -/
  | ocxoTempPass (dt : Nat)
  /-- AGEING_MEASURE (R459): Every 24 h ring oscillators are measured and the slowdown reported. -/
  | ageingMeasure (dt : Nat) (slowdown : List Nat)
  /-- LIFE_TICK (R460): Every 1 s the equivalent life used is accumulated from the hottest die reading. -/
  | lifeTick (dt : Nat)
  /-- OWN_IN_DEASSERTED (R334): After a contested claim, the module with SEAT 0 starts driving its heads once OWN_IN has stayed deasserted for 2 µs. -/
  | ownInDeasserted (dt : Nat)
  /-- OLD_QUERIER_TIMEOUT (R114): When no older-version query has been heard for the RFC 3376 or RFC 3810 older-querier timeout, the port leaves compatibility mode and clears NIF_STAT.OLD_QUERIER. -/
  | oldQuerierTimeout (dt : Nat) (port : Nat)
  deriving DecidableEq, Repr

end Sys2Proof
end

