-- ==== Sys2Proof/Machine/Maps.lean ====
section
/-!
DEFINITION. Sparse tables kept as lists of (key, value) pairs in rising order of key, bit fields of numbers, two's
complement readings, and rounding used by several chapters.
-/

namespace Sys2Proof.Machine

/-- A sparse table: pairs of a key and its entry, keys strictly rising. -/
abbrev SMap (α : Type) := List (Nat × α)

/-- The entry of a key, if the table lists one. -/
def mget {α : Type} : SMap α → Nat → Option α
  | [], _ => none
  | (k', v) :: t, k => if k = k' then some v else mget t k

/-- The entry of a key, or a default. -/
def mgetD {α : Type} (m : SMap α) (k : Nat) (d : α) : α := (mget m k).getD d

/-- Enter or replace the entry of a key. -/
def mset {α : Type} : SMap α → Nat → α → SMap α
  | [], k, v => [(k, v)]
  | (k', v') :: t, k, v =>
    if k < k' then (k, v) :: (k', v') :: t
    else if k = k' then (k, v) :: t
    else (k', v') :: mset t k v

/-- Remove the entry of a key. -/
def mdel {α : Type} : SMap α → Nat → SMap α
  | [], _ => []
  | (k', v') :: t, k => if k = k' then mdel t k else (k', v') :: mdel t k

/-- Enter every pair of one table into another. -/
def mput (vals m : SMap Nat) : SMap Nat := vals.foldl (fun (m : SMap Nat) (e : Nat × Nat) => mset m e.1 e.2) m

/-- The keys rise strictly. -/
def msorted {α : Type} : SMap α → Bool
  | [] => true
  | [_] => true
  | (a, _) :: (b, y) :: t => Nat.blt a b && msorted ((b, y) :: t)

/-- Bits `lo` to `lo + w - 1` of a number. -/
def bits (v lo w : Nat) : Nat := (v / 2 ^ lo) % 2 ^ w

/-- `v` with bits `lo` to `lo + w - 1` replaced by the low `w` bits of `x`. -/
def setBits (v lo w x : Nat) : Nat :=
  v % 2 ^ lo + (x % 2 ^ w) * 2 ^ lo + (v / 2 ^ (lo + w)) * 2 ^ (lo + w)

/-- A number with the bits of `d` cleared: what writing 1 to bits clears (R11). -/
def cleared (v d : Nat) : Nat := Nat.xor v (Nat.land v d)

/-- One bit of a number. -/
def bit (v k : Nat) : Bool := bits v k 1 == 1

/-- A truth value as a bit. -/
def b2n (b : Bool) : Nat := if b then 1 else 0

/-- The two's complement reading of the low `w` bits of `v`. -/
def sgn (w v : Nat) : Int :=
  if v % 2 ^ w < 2 ^ (w - 1) then Int.ofNat (v % 2 ^ w) else Int.ofNat (v % 2 ^ w) - Int.ofNat (2 ^ w)

/-- The `w`-bit two's complement code of an integer. -/
def enc (w : Nat) (x : Int) : Nat := (x % Int.ofNat (2 ^ w)).toNat

/-- A count that stays at its greatest value. -/
def satAdd (v k top : Nat) : Nat := if v + k ≤ top then v + k else top

/-- Integer division rounded to nearest, ties upward. -/
def rdiv (a b : Nat) : Nat := (2 * a + b) / (2 * b)

/-- Division rounded up. -/
def cdiv (a b : Nat) : Nat := if b = 0 then 0 else (a + b - 1) / b

/-- Keep an integer within two bounds. -/
def clampI (lo hi x : Int) : Int := if x < lo then lo else if hi < x then hi else x

/-- Replace the element at a position of a list; a position past the end changes nothing. -/
def lset {α : Type} : List α → Nat → α → List α
  | [], _, _ => []
  | _ :: t, 0, v => v :: t
  | x :: t, k + 1, v => x :: lset t k v

/-- The least number of a list, or a default for the empty list. -/
def minD (d : Nat) : List Nat → Nat
  | [] => d
  | x :: t => t.foldl Nat.min x

/-- The greatest number of a list, 0 for the empty list. -/
def maxD (l : List Nat) : Nat := l.foldl Nat.max 0

/-- `n` numbers from `a` on. -/
def fromTo (a n : Nat) : List Nat := (List.range n).map (a + ·)

/-- Apply a change once for each element of a list, in order. -/
def forEach {α β : Type} (l : List β) (f : β → α → α) (a : α) : α := l.foldl (fun acc x => f x acc) a

end Sys2Proof.Machine
end

