-- ==== Sys2Proof/Machine/Fields.lean ====
section
/-!
DEFINITION. The address map of the register space (R54, R55), the block types of the glossary, and what one register
field is: its place, its access code (R11), its reset value (R10) and the values its table does not reserve (R9).
-/

namespace Sys2Proof.Machine

/-- The 23 blocks; the numeric type code of PG_ID[31:24] is `Block.code`. -/
inductive Block where
  | sys | err | acg | thm | hsw | clk | lane | nif | ing | xsd | vdc | vec | lfp | stg | prm | ohd | crc | mem | pair
  | chn | ens | sig | dbg
  deriving DecidableEq, Repr

/-- The block type code (glossary, "Blocks"). -/
def Block.code : Block → Nat
  | .sys => 0x01 | .err => 0x02 | .acg => 0x03 | .thm => 0x04 | .hsw => 0x05 | .clk => 0x06 | .lane => 0x07
  | .nif => 0x08 | .ing => 0x09 | .xsd => 0x0A | .vdc => 0x0B | .vec => 0x0C | .lfp => 0x0D | .stg => 0x0E
  | .prm => 0x0F | .ohd => 0x10 | .crc => 0x11 | .mem => 0x12 | .pair => 0x13 | .chn => 0x14 | .ens => 0x15
  | .sig => 0x16 | .dbg => 0x17

/-- The page slot of a block's instance 0: its base offset of R54 divided by 0x1000. -/
def Block.slot : Block → Nat
  | .sys => 0x000 | .err => 0x010 | .acg => 0x020 | .thm => 0x040 | .hsw => 0x050 | .clk => 0x060 | .lane => 0x080
  | .nif => 0x100 | .ing => 0x120 | .xsd => 0x160 | .vdc => 0x180 | .vec => 0x1A0 | .lfp => 0x1C0 | .stg => 0x220
  | .prm => 0x240 | .ohd => 0x260 | .crc => 0x280 | .mem => 0x2A0 | .pair => 0x2C0 | .chn => 0x2D0 | .ens => 0x2E0
  | .sig => 0x2F0 | .dbg => 0x300

/-- How many pages a block has (R54). -/
def Block.pages : Block → Nat
  | .sys => 1 | .err => 1 | .acg => 8 | .thm => 1 | .hsw => 1 | .clk => 9 | .lane => 96 | .nif => 16 | .ing => 64
  | .xsd => 17 | .vdc => 32 | .vec => 17 | .lfp => 96 | .stg => 24 | .prm => 25 | .ohd => 24 | .crc => 32 | .mem => 9
  | .pair => 1 | .chn => 4 | .ens => 1 | .sig => 1 | .dbg => 1

/-- Every block, in the order of R54. -/
def Block.all : List Block :=
  [.sys, .err, .acg, .thm, .hsw, .clk, .lane, .nif, .ing, .xsd, .vdc, .vec, .lfp, .stg, .prm, .ohd, .crc, .mem, .pair,
   .chn, .ens, .sig, .dbg]

/-- One page: a block and an instance. -/
structure Page where
  blk : Block
  inst : Nat
  deriving DecidableEq, Repr

/-- The page's slot number: its BAR0 offset divided by 0x1000. -/
def Page.slot (p : Page) : Nat := p.blk.slot + p.inst

/-- The page that a slot number names, if any block has an instance there (R44, R54). -/
def pageOfSlot (s : Nat) : Option Page :=
  (Block.all.find? fun b => Nat.ble b.slot s && Nat.blt s (b.slot + b.pages)).map fun b => ⟨b, s - b.slot⟩

/-- Every page of the module. -/
def allPages : List Page := Block.all.flatMap fun b => (List.range b.pages).map fun i => ⟨b, i⟩

/-- The kinds of register table of the spec. `hdr` is the common page header; its instance number is the page slot. -/
inductive Kind where
  | hdr | sys | err | acg0 | acg3 | thm | hsw | clkG | clkR | lane | nif | ing | xsdC | xsdG | vdc | vecC | vecG | lfp
  | stg | prmS | prmG | ohd | crc | memC | memG | pair | chn | ens | sig | dbg | ld | sc
  deriving DecidableEq, Repr

/-- BAR0 offset of instance `i` of a kind of table (R54, R55, R142, R166). -/
def Kind.base : Kind → Nat → Nat
  | .hdr, i => i * 0x1000
  | .sys, i => i * 0x1000
  | .err, i => 0x10000 + i * 0x1000
  | .acg0, i => 0x20000 + i * 0x1000
  | .acg3, i => 0x20000 + i * 0x1000
  | .thm, i => 0x40000 + i * 0x1000
  | .hsw, i => 0x50000 + i * 0x1000
  | .clkG, i => 0x60000 + i * 0x1000
  | .clkR, i => 0x60000 + i * 0x1000
  | .lane, i => 0x80000 + i * 0x1000
  | .nif, i => 0x100000 + i * 0x1000
  | .ing, i => 0x120000 + i * 0x1000
  | .xsdC, i => 0x160000 + i * 0x1000
  | .xsdG, i => 0x160000 + i * 0x1000
  | .vdc, i => 0x180000 + i * 0x1000
  | .vecC, i => 0x1A0000 + i * 0x1000
  | .vecG, i => 0x1A0000 + i * 0x1000
  | .lfp, i => 0x1C0000 + i * 0x1000
  | .stg, i => 0x220000 + i * 0x1000
  | .prmS, i => 0x240000 + i * 0x1000
  | .prmG, i => 0x240000 + i * 0x1000
  | .ohd, i => 0x260000 + i * 0x1000
  | .crc, i => 0x280000 + i * 0x1000
  | .memC, i => 0x2A0000 + i * 0x1000
  | .memG, i => 0x2A0000 + i * 0x1000
  | .pair, i => 0x2C0000 + i * 0x1000
  | .chn, i => 0x2D0000 + i * 0x1000
  | .ens, i => 0x2E0000 + i * 0x1000
  | .sig, i => 0x2F0000 + i * 0x1000
  | .dbg, i => 0x300000 + i * 0x1000
  | .ld, i => 0x400000 + i * 0x100
  | .sc, i => 0x500000 + i * 0x100

/-- Access codes of R11. -/
inductive Acc where
  | rw | ro | w1c | w1s | wo | rws | rwl
  deriving DecidableEq, Repr

/-- One register field: the table it stands in, the offset of its first word, how many such registers the table holds
and how far apart (`n`, `step`), its lowest bit and width, its access code, its reset value for an instance and an index
(R10), the values its table does not reserve (R9), and the MIDs to which its access column restricts a write
(none listed: no restriction of its own). -/
structure Fld where
  kind : Kind
  off : Nat
  n : Nat := 1
  step : Nat := 0
  lo : Nat := 0
  w : Nat
  acc : Acc
  rst : Nat → Nat → Nat := fun _ _ => 0
  legal : Nat → Bool := fun _ => true
  mids : List Nat := []

/-- The BAR0 offset of the first word of a field, for instance `i` and index `k`. -/
def Fld.addr (f : Fld) (i k : Nat) : Nat := f.kind.base i + f.off + k * f.step

/-- The key under which the register file holds a field: 32 times its offset plus its lowest bit. -/
def Fld.key (f : Fld) (i k : Nat) : Nat := f.addr i k * 32 + f.lo

/-- How many words a field spans. -/
def Fld.words (f : Fld) : Nat := (f.lo + f.w + 31) / 32

end Sys2Proof.Machine
end

