-- ==== Sys2Proof/Machine/RegMap.lean ====
section
/-!
DEFINITION. The register fields of every register table of the spec, one definition per field, with its offset, its
bits, its access code, its reset value and the values its table does not reserve (R9, R10, R11). A field's name is
the spec's register name and field name joined by an underscore.
-/

namespace Sys2Proof.Machine.F

def PG_ID_LAYOUT : Fld := { kind := .hdr, off := 0x0, w := 16, acc := .ro, rst := fun _ _ => 1 }
def PG_ID_INST : Fld := { kind := .hdr, off := 0x0, lo := 16, w := 8, acc := .ro }
def PG_ID_TYPE : Fld := { kind := .hdr, off := 0x0, lo := 24, w := 8, acc := .ro }
def PG_CAPS_BLOCK : Fld := { kind := .hdr, off := 0x4, w := 16, acc := .ro }
def PG_CAPS_STAGED : Fld := { kind := .hdr, off := 0x4, lo := 16, w := 1, acc := .ro }
def PG_CAPS_LOCKABLE : Fld := { kind := .hdr, off := 0x4, lo := 17, w := 1, acc := .ro }
def PG_CAPS_RESETTABLE : Fld := { kind := .hdr, off := 0x4, lo := 18, w := 1, acc := .ro }
def PG_CTRL_ENABLE : Fld := { kind := .hdr, off := 0x8, w := 1, acc := .rws }
def PG_CTRL_SOFT_RESET : Fld := { kind := .hdr, off := 0x8, lo := 1, w := 1, acc := .wo }
def PG_CTRL_CUE_GRP : Fld := { kind := .hdr, off := 0x8, lo := 8, w := 6, acc := .rw }
def PG_CTRL_GRP_EN : Fld := { kind := .hdr, off := 0x8, lo := 14, w := 1, acc := .rw }
def PG_STAT_ENABLED : Fld := { kind := .hdr, off := 0xc, w := 1, acc := .ro }
def PG_STAT_RESET_BUSY : Fld := { kind := .hdr, off := 0xc, lo := 1, w := 1, acc := .ro }
def PG_STAT_STAGED : Fld := { kind := .hdr, off := 0xc, lo := 2, w := 1, acc := .ro }
def PG_STAT_ARMED : Fld := { kind := .hdr, off := 0xc, lo := 3, w := 1, acc := .ro }
def PG_STAT_BLOCK : Fld := { kind := .hdr, off := 0xc, lo := 8, w := 8, acc := .ro }
def PG_EVT_ERROR : Fld := { kind := .hdr, off := 0x10, w := 1, acc := .w1c }
def PG_EVT_CUE_DONE : Fld := { kind := .hdr, off := 0x10, lo := 1, w := 1, acc := .w1c }
def PG_EVT_CUE_REFUSED : Fld := { kind := .hdr, off := 0x10, lo := 2, w := 1, acc := .w1c }
def PG_EVT_RESET_DONE : Fld := { kind := .hdr, off := 0x10, lo := 3, w := 1, acc := .w1c }
def PG_EVT_BLOCK : Fld := { kind := .hdr, off := 0x10, lo := 16, w := 16, acc := .w1c }
def PG_EVT_EN_ERROR : Fld := { kind := .hdr, off := 0x14, w := 1, acc := .rw }
def PG_EVT_EN_CUE_DONE : Fld := { kind := .hdr, off := 0x14, lo := 1, w := 1, acc := .rw }
def PG_EVT_EN_CUE_REFUSED : Fld := { kind := .hdr, off := 0x14, lo := 2, w := 1, acc := .rw }
def PG_EVT_EN_RESET_DONE : Fld := { kind := .hdr, off := 0x14, lo := 3, w := 1, acc := .rw }
def PG_EVT_EN_BLOCK : Fld := { kind := .hdr, off := 0x14, lo := 16, w := 16, acc := .rw }
def PG_ERRCNT_COUNT : Fld := { kind := .hdr, off := 0x18, w := 16, acc := .ro }
def PG_ERRCNT_CLEAR : Fld := { kind := .hdr, off := 0x18, lo := 31, w := 1, acc := .wo }
def PG_FIRST_ERR_CODE : Fld := { kind := .hdr, off := 0x1c, w := 16, acc := .ro }
def PG_FIRST_ERR_DETAIL : Fld := { kind := .hdr, off := 0x1c, lo := 16, w := 12, acc := .ro }
def PG_FIRST_ERR_SEV : Fld := { kind := .hdr, off := 0x1c, lo := 28, w := 3, acc := .ro }
def PG_FIRST_ERR_VALID : Fld := { kind := .hdr, off := 0x1c, lo := 31, w := 1, acc := .w1c }
def PG_CUE_POINT : Fld := { kind := .hdr, off := 0x20, w := 3, acc := .rw }
def PG_CUE_STAGE : Fld := { kind := .hdr, off := 0x20, lo := 8, w := 5, acc := .rw }
def PG_CUE_ARM : Fld := { kind := .hdr, off := 0x20, lo := 16, w := 1, acc := .w1s }
def PG_CUE_DISARM : Fld := { kind := .hdr, off := 0x20, lo := 17, w := 1, acc := .wo }
def PG_CUE_DISCARD : Fld := { kind := .hdr, off := 0x20, lo := 18, w := 1, acc := .wo }
def PG_CUE_SEQ : Fld := { kind := .hdr, off := 0x20, lo := 24, w := 8, acc := .ro }
def PG_LOCK_LOCKED : Fld := { kind := .hdr, off := 0x24, w := 1, acc := .ro }
def PG_LOCK_OWNER : Fld := { kind := .hdr, off := 0x24, lo := 8, w := 6, acc := .ro }
def PG_LOCK_DEBUG_ADMITTED : Fld := { kind := .hdr, off := 0x24, lo := 16, w := 1, acc := .ro }
def PG_LOCK_EPOCH : Fld := { kind := .hdr, off := 0x24, lo := 24, w := 8, acc := .ro }

def SYS_SWIN_BASE : Fld := { kind := .sys, off := 0x60, n := 3, step := 0x4, w := 14, acc := .rw }
def SYS_SWIN_SPACE : Fld := { kind := .sys, off := 0x60, n := 3, step := 0x4, lo := 31, w := 1, acc := .rw }
def SYS_FSWIN_BASE : Fld := { kind := .sys, off := 0x70, w := 8, acc := .rw }
def SYS_GCUE_GROUP : Fld := { kind := .sys, off := 0x80, w := 6, acc := .rw }
def SYS_GCUE_POINT : Fld := { kind := .sys, off := 0x80, lo := 8, w := 3, acc := .rw }
def SYS_GCUE_STAGE : Fld := { kind := .sys, off := 0x80, lo := 16, w := 5, acc := .rw }
def SYS_GCUE_ARM : Fld := { kind := .sys, off := 0x80, lo := 24, w := 1, acc := .wo }
def SYS_GCUE_DISARM : Fld := { kind := .sys, off := 0x80, lo := 25, w := 1, acc := .wo }
def SYS_GCUE_BUSY_LO_ARMED : Fld := { kind := .sys, off := 0x84, w := 32, acc := .ro }
def SYS_GCUE_BUSY_HI_ARMED : Fld := { kind := .sys, off := 0x88, w := 32, acc := .ro }
def SYS_GCUE_LAST_GROUP : Fld := { kind := .sys, off := 0x8c, w := 6, acc := .ro }
def SYS_GCUE_LAST_REASON : Fld := { kind := .sys, off := 0x8c, lo := 8, w := 8, acc := .ro }
def SYS_GCUE_LAST_REFUSED : Fld := { kind := .sys, off := 0x8c, lo := 16, w := 1, acc := .ro }
def SYS_PART_PART : Fld := { kind := .sys, off := 0x40, w := 16, acc := .ro, rst := fun _ _ => 2400 }
def SYS_VARIANT_FITTED_GIB : Fld := { kind := .sys, off := 0x44, w := 8, acc := .ro, rst := fun _ _ => 64 }
def SYS_VARIANT_USABLE_GIB : Fld := { kind := .sys, off := 0x44, lo := 8, w := 8, acc := .ro, rst := fun _ _ => 56 }
def SYS_VARIANT_GRADE : Fld := { kind := .sys, off := 0x44, lo := 16, w := 4, acc := .ro }
def SYS_SILICON_STEP_NUM : Fld := { kind := .sys, off := 0x48, w := 4, acc := .ro }
def SYS_SILICON_STEP_LETTER : Fld := { kind := .sys, off := 0x48, lo := 4, w := 4, acc := .ro, rst := fun _ _ => 1 }
def SYS_BOARD_BOARD : Fld := { kind := .sys, off := 0x4c, w := 8, acc := .ro }
def SYS_SERIAL_LO_SERIAL : Fld := { kind := .sys, off := 0x50, w := 32, acc := .ro }
def SYS_SERIAL_HI_SERIAL : Fld := { kind := .sys, off := 0x54, w := 32, acc := .ro }
def SYS_MC_VER_MINOR : Fld := { kind := .sys, off := 0x58, w := 16, acc := .ro }
def SYS_MC_VER_MAJOR : Fld := { kind := .sys, off := 0x58, lo := 16, w := 16, acc := .ro }
def SYS_STRAPS_SEAT : Fld := { kind := .sys, off := 0x5c, w := 1, acc := .ro }
def SYS_STRAPS_SLOT : Fld := { kind := .sys, off := 0x5c, lo := 4, w := 4, acc := .ro }
def SYS_STRAPS_ENS_POS : Fld := { kind := .sys, off := 0x5c, lo := 8, w := 3, acc := .ro }
def SYS_HOST_CLAIM_CLAIM : Fld := { kind := .sys, off := 0x100, w := 1, acc := .w1s, mids := [1, 4] }
def SYS_HOST_CLAIM_BY : Fld := { kind := .sys, off := 0x100, lo := 8, w := 6, acc := .ro }
def SYS_ROLE_ROLE : Fld := { kind := .sys, off := 0x104, w := 3, acc := .ro, rst := fun _ _ => 1 }
def SYS_ROLE_PREV : Fld := { kind := .sys, off := 0x104, lo := 3, w := 3, acc := .ro, rst := fun _ _ => 1 }
def SYS_STAT_OPERATING : Fld := { kind := .sys, off := 0x108, w := 1, acc := .ro }
def SYS_STAT_SHOW : Fld := { kind := .sys, off := 0x108, lo := 1, w := 2, acc := .ro }
def SYS_STAT_RESET_CAUSE : Fld := { kind := .sys, off := 0x108, lo := 4, w := 3, acc := .ro }
def SYS_STAT_STRAP_DIFF : Fld := { kind := .sys, off := 0x108, lo := 7, w := 1, acc := .ro }
def SYS_STAT_EJECTING : Fld := { kind := .sys, off := 0x108, lo := 8, w := 1, acc := .ro }
def SYS_UPTIME_SECONDS : Fld := { kind := .sys, off := 0x10c, w := 32, acc := .ro }
def SYS_OPER_TIME_TIME : Fld := { kind := .sys, off := 0x110, w := 64, acc := .ro }
def SYS_RESET_KEY : Fld := { kind := .sys, off := 0x118, w := 16, acc := .wo }
def SYS_SHOW_STAT_SESSIONS : Fld := { kind := .sys, off := 0x120, w := 8, acc := .ro }
def SYS_SHOW_STAT_JOINED : Fld := { kind := .sys, off := 0x120, lo := 8, w := 7, acc := .ro }
def SYS_SHOW_STAT_HEADS : Fld := { kind := .sys, off := 0x120, lo := 16, w := 5, acc := .ro }
def SYS_SHOW_STAT_DROPPED : Fld := { kind := .sys, off := 0x120, lo := 22, w := 7, acc := .ro }

def ERR_CFG_MIN_SEV : Fld := { kind := .err, off := 0x40, w := 3, acc := .rw, rst := fun _ _ => 1, legal := fun v => Nat.ble v 2 }
def ERR_CFG_SAFE_MIN_SEV : Fld := { kind := .err, off := 0x40, lo := 4, w := 3, acc := .rw, rst := fun _ _ => 3, legal := fun v => Nat.ble 2 v && Nat.ble v 5, mids := [4] }
def ERR_CFG_CLR_LOST : Fld := { kind := .err, off := 0x40, lo := 31, w := 1, acc := .wo }
def ERR_WR_IDX_IDX : Fld := { kind := .err, off := 0x44, w := 16, acc := .ro }
def ERR_RD_IDX_IDX : Fld := { kind := .err, off := 0x48, w := 16, acc := .rw }
def ERR_STAT_UNREAD : Fld := { kind := .err, off := 0x4c, w := 9, acc := .ro }
def ERR_STAT_MOVES : Fld := { kind := .err, off := 0x4c, lo := 16, w := 8, acc := .ro }
def ERR_LOST_A_INFO : Fld := { kind := .err, off := 0x50, w := 8, acc := .ro }
def ERR_LOST_A_NOTICE : Fld := { kind := .err, off := 0x50, lo := 8, w := 8, acc := .ro }
def ERR_LOST_A_WARNING : Fld := { kind := .err, off := 0x50, lo := 16, w := 8, acc := .ro }
def ERR_LOST_A_ERROR : Fld := { kind := .err, off := 0x50, lo := 24, w := 8, acc := .ro }
def ERR_LOST_B_CRITICAL : Fld := { kind := .err, off := 0x54, w := 8, acc := .ro }
def ERR_LOST_B_FATAL : Fld := { kind := .err, off := 0x54, lo := 8, w := 8, acc := .ro }
def ERR_SQ_STAT_COUNT : Fld := { kind := .err, off := 0x58, w := 6, acc := .ro }
def ERR_SQ_STAT_LOST : Fld := { kind := .err, off := 0x58, lo := 8, w := 8, acc := .ro }
def ERR_SQ_DATA_WORD : Fld := { kind := .err, off := 0x60, n := 4, step := 0x4, w := 32, acc := .ro }
def ERR_FATAL_WORD : Fld := { kind := .err, off := 0x70, n := 4, step := 0x4, w := 32, acc := .ro }

def ACG_MODE_MODE : Fld := { kind := .acg0, off := 0x40, w := 1, acc := .ro }
def ACG_MODE_STRAP : Fld := { kind := .acg0, off := 0x40, lo := 1, w := 1, acc := .ro }
def ACG_MODE_SAVED : Fld := { kind := .acg0, off := 0x40, lo := 2, w := 1, acc := .ro }
def ACG_EPOCH_VALUE : Fld := { kind := .acg0, off := 0x44, w := 32, acc := .ro }
def ACG_DIGEST_VALUE : Fld := { kind := .acg0, off := 0x48, w := 32, acc := .ro, rst := fun _ _ => 1767617778 }
def ACG_FENCE_DRAINED : Fld := { kind := .acg0, off := 0x4c, w := 1, acc := .ro, rst := fun _ _ => 1 }
def ACG_FENCE_OLDEST : Fld := { kind := .acg0, off := 0x4c, lo := 16, w := 16, acc := .ro }
def ACG_PROP_CTRL_OPEN : Fld := { kind := .acg0, off := 0x50, w := 1, acc := .wo, mids := [1, 4] }
def ACG_PROP_CTRL_SUBMIT : Fld := { kind := .acg0, off := 0x50, lo := 1, w := 1, acc := .wo }
def ACG_PROP_CTRL_WITHDRAW : Fld := { kind := .acg0, off := 0x50, lo := 2, w := 1, acc := .wo }
def ACG_PROP_CTRL_REJECT : Fld := { kind := .acg0, off := 0x50, lo := 3, w := 1, acc := .wo }
def ACG_PROP_DIGEST_DIGEST : Fld := { kind := .acg0, off := 0x54, w := 32, acc := .rw }
def ACG_PROP_SIGN_DIGEST : Fld := { kind := .acg0, off := 0x58, w := 32, acc := .wo }
def ACG_PROP_STAT_STATE : Fld := { kind := .acg0, off := 0x5c, w := 2, acc := .ro }
def ACG_PROP_STAT_PROPOSER : Fld := { kind := .acg0, off := 0x5c, lo := 2, w := 6, acc := .ro }
def ACG_PROP_STAT_CAUSE : Fld := { kind := .acg0, off := 0x5c, lo := 8, w := 3, acc := .ro }
def ACG_PROP_STAT_DETAIL : Fld := { kind := .acg0, off := 0x5c, lo := 11, w := 9, acc := .ro }
def ACG_PROP_STAT_DETAIL2 : Fld := { kind := .acg0, off := 0x5c, lo := 20, w := 6, acc := .ro }
def ACG_PROP_SEQ_VALUE : Fld := { kind := .acg0, off := 0x60, w := 32, acc := .ro }
def ACG_PROP_LEFT_VALUE : Fld := { kind := .acg0, off := 0x64, w := 32, acc := .ro }
def ACG_VIOL_COUNT_COUNT : Fld := { kind := .acg0, off := 0x68, w := 31, acc := .ro }
def ACG_VIOL_COUNT_CLEAR : Fld := { kind := .acg0, off := 0x68, lo := 31, w := 1, acc := .wo, mids := [1, 4] }
def ACG_VFIRST_W0 : Fld := { kind := .acg0, off := 0x70, w := 32, acc := .ro }
def ACG_VFIRST_W1 : Fld := { kind := .acg0, off := 0x74, w := 31, acc := .ro }
def ACG_VFIRST_W2 : Fld := { kind := .acg0, off := 0x78, w := 32, acc := .ro }
def ACG_VFIRST_W3 : Fld := { kind := .acg0, off := 0x7c, w := 32, acc := .ro }
def ACG_VFIRST_VALID : Fld := { kind := .acg0, off := 0x74, lo := 31, w := 1, acc := .w1c, mids := [1, 4] }

def ACG_VLOG_WR_IDX : Fld := { kind := .acg3, off := 0x40, w := 16, acc := .ro }

def THM_STAT_LEVEL : Fld := { kind := .thm, off := 0x40, w := 3, acc := .ro }
def THM_STAT_STEP : Fld := { kind := .thm, off := 0x40, lo := 3, w := 3, acc := .ro }
def THM_STAT_HOT : Fld := { kind := .thm, off := 0x40, lo := 6, w := 6, acc := .ro }
def THM_STAT_FAILED : Fld := { kind := .thm, off := 0x40, lo := 12, w := 4, acc := .ro }
def THM_STAT_HOT_DIE : Fld := { kind := .thm, off := 0x40, lo := 16, w := 8, acc := .ro }
def THM_CFG_HYST : Fld := { kind := .thm, off := 0x44, w := 4, acc := .rwl, rst := fun _ _ => 3, legal := fun v => Nat.ble 1 v && Nat.ble v 10 }
def THM_CFG_TEST_STEP : Fld := { kind := .thm, off := 0x44, lo := 4, w := 3, acc := .rwl }
def THM_THRESH_L1 : Fld := { kind := .thm, off := 0x50, n := 5, step := 0x4, w := 8, acc := .rwl, rst := fun _ c => [90, 85, 110, 80, 56].getD c 0 }
def THM_THRESH_L2 : Fld := { kind := .thm, off := 0x50, n := 5, step := 0x4, lo := 8, w := 8, acc := .rwl, rst := fun _ c => [95, 95, 120, 0x7F, 57].getD c 0 }
def THM_THRESH_L3 : Fld := { kind := .thm, off := 0x50, n := 5, step := 0x4, lo := 16, w := 8, acc := .rwl, rst := fun _ c => [105, 105, 130, 0x7F, 62].getD c 0 }
def THM_THRESH_L4 : Fld := { kind := .thm, off := 0x50, n := 5, step := 0x4, lo := 24, w := 8, acc := .ro, rst := fun _ c => [115, 110, 140, 0x7F, 70].getD c 0 }
def THM_AGE_SLOWDOWN : Fld := { kind := .thm, off := 0x68, w := 16, acc := .ro }
def THM_AGE_LIFE_USED : Fld := { kind := .thm, off := 0x68, lo := 16, w := 16, acc := .ro }
def THM_THROTTLED_SECONDS : Fld := { kind := .thm, off := 0x6c, w := 32, acc := .ro }
def THM_TEMP_TEMP : Fld := { kind := .thm, off := 0x100, n := 39, step := 0x4, w := 16, acc := .ro }
def THM_TEMP_LEVEL : Fld := { kind := .thm, off := 0x100, n := 39, step := 0x4, lo := 16, w := 3, acc := .ro }
def THM_TEMP_FAILED : Fld := { kind := .thm, off := 0x100, n := 39, step := 0x4, lo := 19, w := 1, acc := .ro }

def HSW_STAT_STATE : Fld := { kind := .hsw, off := 0x40, w := 3, acc := .ro }
def HSW_STAT_PRESENT : Fld := { kind := .hsw, off := 0x40, lo := 3, w := 3, acc := .ro, rst := fun _ _ => 5 }
def HSW_STAT_EJECT : Fld := { kind := .hsw, off := 0x40, lo := 6, w := 3, acc := .ro, rst := fun _ _ => 5 }
def HSW_STAT_PG12 : Fld := { kind := .hsw, off := 0x40, lo := 9, w := 1, acc := .ro }
def HSW_STAT_AUX_OK : Fld := { kind := .hsw, off := 0x40, lo := 10, w := 1, acc := .ro }
def HSW_VIN_VALUE : Fld := { kind := .hsw, off := 0x44, w := 16, acc := .ro }
def HSW_IIN_VALUE : Fld := { kind := .hsw, off := 0x48, w := 16, acc := .ro }
def HSW_PIN_VALUE : Fld := { kind := .hsw, off := 0x4c, w := 16, acc := .ro }
def HSW_LIMITS_UV_WARN : Fld := { kind := .hsw, off := 0x50, w := 8, acc := .rwl, rst := fun _ _ => 108 }
def HSW_LIMITS_UV_OFF : Fld := { kind := .hsw, off := 0x50, lo := 8, w := 8, acc := .rwl, rst := fun _ _ => 102, legal := fun v => Nat.ble 95 v }
def HSW_LIMITS_OV_OFF : Fld := { kind := .hsw, off := 0x50, lo := 16, w := 8, acc := .rwl, rst := fun _ _ => 138, legal := fun v => Nat.ble 125 v && Nat.ble v 140 }
def HSW_LIMITS_ITRIP : Fld := { kind := .hsw, off := 0x50, lo := 24, w := 8, acc := .rwl, rst := fun _ _ => 130, legal := fun v => Nat.ble 100 v && Nat.ble v 150 }
def HSW_CTRL_EJECT : Fld := { kind := .hsw, off := 0x54, w := 1, acc := .wo }
def HSW_FAULT_CODE : Fld := { kind := .hsw, off := 0x58, w := 4, acc := .ro }
def HSW_FAULT_COUNT : Fld := { kind := .hsw, off := 0x58, lo := 16, w := 15, acc := .ro }
def HSW_FAULT_VALID : Fld := { kind := .hsw, off := 0x58, lo := 31, w := 1, acc := .w1c }
def HSW_LIFE_INSERTIONS : Fld := { kind := .hsw, off := 0x5c, w := 16, acc := .ro }
def HSW_LIFE_KHOURS : Fld := { kind := .hsw, off := 0x5c, lo := 16, w := 16, acc := .ro }

def CLK_CFG_MODE : Fld := { kind := .clkG, off := 0x40, w := 2, acc := .rwl }
def CLK_CFG_FORCE_REF : Fld := { kind := .clkG, off := 0x40, lo := 2, w := 3, acc := .rwl }
def CLK_CFG_FOLLOW : Fld := { kind := .clkG, off := 0x40, lo := 5, w := 1, acc := .rwl, rst := fun _ _ => 1 }
def CLK_CFG_STEP_EN : Fld := { kind := .clkG, off := 0x40, lo := 6, w := 1, acc := .rwl, rst := fun _ _ => 1 }
def CLK_CFG_SLEW_MAX : Fld := { kind := .clkG, off := 0x40, lo := 8, w := 10, acc := .rwl, rst := fun _ _ => 100, legal := fun v => Nat.ble 1 v && Nat.ble v 1000 }
def CLK_SEL_WTR : Fld := { kind := .clkG, off := 0x44, w := 8, acc := .rwl, rst := fun _ _ => 60 }
def CLK_SEL_SWITCH_PH : Fld := { kind := .clkG, off := 0x44, lo := 16, w := 16, acc := .rwl, rst := fun _ _ => 1000, legal := fun v => Nat.ble 1 v }
def CLK_QUARREL_PHASE_T : Fld := { kind := .clkG, off := 0x48, w := 16, acc := .rwl, rst := fun _ _ => 1000, legal := fun v => Nat.ble 1 v }
def CLK_QUARREL_FREQ_T : Fld := { kind := .clkG, off := 0x48, lo := 16, w := 16, acc := .rwl, rst := fun _ _ => 100, legal := fun v => Nat.ble 1 v }
def CLK_STEP_STEP_T : Fld := { kind := .clkG, off := 0x4c, w := 20, acc := .rwl, rst := fun _ _ => 1000, legal := fun v => Nat.ble 1 v && Nat.ble v 1000000 }
def CLK_HO_CFG_LIMIT : Fld := { kind := .clkG, off := 0x50, w := 10, acc := .rwl, rst := fun _ _ => 10, legal := fun v => Nat.ble 1 v && Nat.ble v 1000 }
def CLK_GUARD_WARN_T : Fld := { kind := .clkG, off := 0x54, w := 12, acc := .rwl, rst := fun _ _ => 360 }
def CLK_GUARD_DISQ_T : Fld := { kind := .clkG, off := 0x54, lo := 12, w := 12, acc := .rwl, rst := fun _ _ => 64 }
def CLK_GUARD_GUARD_BW : Fld := { kind := .clkG, off := 0x54, lo := 24, w := 4, acc := .rwl, legal := fun v => Nat.ble v 13 }
def CLK_STAT_STATE : Fld := { kind := .clkG, off := 0x60, w := 3, acc := .ro }
def CLK_STAT_SEL : Fld := { kind := .clkG, off := 0x60, lo := 4, w := 3, acc := .ro }
def CLK_STAT_SEL_VALID : Fld := { kind := .clkG, off := 0x60, lo := 7, w := 1, acc := .ro }
def CLK_STAT_UNCERTAIN : Fld := { kind := .clkG, off := 0x60, lo := 8, w := 1, acc := .ro, rst := fun _ _ => 1 }
def CLK_STAT_TOD_VALID : Fld := { kind := .clkG, off := 0x60, lo := 9, w := 1, acc := .ro }
def CLK_STAT_TRACE : Fld := { kind := .clkG, off := 0x60, lo := 10, w := 1, acc := .ro }
def CLK_STAT_LEARNED : Fld := { kind := .clkG, off := 0x60, lo := 11, w := 1, acc := .ro }
def CLK_STAT_BW_ACT : Fld := { kind := .clkG, off := 0x60, lo := 12, w := 4, acc := .ro }
def CLK_STAT_QUALITY_OUT : Fld := { kind := .clkG, off := 0x60, lo := 16, w := 8, acc := .ro, rst := fun _ _ => 239 }
def CLK_HO_TIME_INTERVAL : Fld := { kind := .clkG, off := 0x64, w := 24, acc := .ro }
def CLK_HO_QUAL_INTERVAL : Fld := { kind := .clkG, off := 0x68, w := 24, acc := .ro }
def CLK_DCO_FREQ : Fld := { kind := .clkG, off := 0x70, w := 64, acc := .ro }
def CLK_DCO_HO_FREQ : Fld := { kind := .clkG, off := 0x78, w := 64, acc := .ro }
def CLK_AGEING_RATE : Fld := { kind := .clkG, off := 0x80, w := 32, acc := .ro }
def CLK_OCXO_TEMP : Fld := { kind := .clkG, off := 0x84, w := 16, acc := .ro }
def CLK_OCXO_BINS : Fld := { kind := .clkG, off := 0x84, lo := 16, w := 7, acc := .ro }
def CLK_OCXO_WARM : Fld := { kind := .clkG, off := 0x84, lo := 23, w := 1, acc := .ro }
def CLK_LEARN_SAVE : Fld := { kind := .clkG, off := 0x88, w := 1, acc := .wo }
def CLK_LEARN_CLEAR : Fld := { kind := .clkG, off := 0x88, lo := 1, w := 1, acc := .wo }
def CLK_LEARN_SAVED_H : Fld := { kind := .clkG, off := 0x88, lo := 16, w := 16, acc := .ro, rst := fun _ _ => 65535 }
def CLK_NOW_TIME : Fld := { kind := .clkG, off := 0x90, w := 64, acc := .ro }
def CLK_TOD_SEC_SEC : Fld := { kind := .clkG, off := 0x98, w := 48, acc := .rwl }
def CLK_TOD_SEC_APPLY : Fld := { kind := .clkG, off := 0x98, lo := 63, w := 1, acc := .wo }
def CLK_UTC_OFFSET : Fld := { kind := .clkG, off := 0xa0, w := 16, acc := .rwl, rst := fun _ _ => 37 }
def CLK_UTC_ACT : Fld := { kind := .clkG, off := 0xa0, lo := 16, w := 16, acc := .ro, rst := fun _ _ => 37 }

def CLK_REF_CFG_EN : Fld := { kind := .clkR, off := 0x40, w := 1, acc := .rwl, rst := fun n _ => if Nat.ble 7 n then 1 else 0 }
def CLK_REF_CFG_PRIORITY : Fld := { kind := .clkR, off := 0x40, lo := 4, w := 4, acc := .rwl, rst := fun n _ => n - 1 }
def CLK_REF_CFG_QUALITY : Fld := { kind := .clkR, off := 0x40, lo := 8, w := 8, acc := .rwl, rst := fun _ _ => 160 }
def CLK_REF_CFG_BW : Fld := { kind := .clkR, off := 0x40, lo := 16, w := 4, acc := .rwl, rst := fun n _ => if Nat.ble n 4 then 4 else if n = 5 then 8 else if n = 6 then 6 else 12, legal := fun v => Nat.ble v 13 }
def CLK_REF_CFG_TRACE : Fld := { kind := .clkR, off := 0x40, lo := 20, w := 1, acc := .rwl }
def CLK_REF_CFG_DG_EN : Fld := { kind := .clkR, off := 0x40, lo := 21, w := 1, acc := .rwl, rst := fun _ _ => 1 }
def CLK_REF_PTP_NIF : Fld := { kind := .clkR, off := 0x44, w := 4, acc := .rwl, rst := fun n _ => 4 * (n - 1) }
def CLK_REF_PTP_PROFILE : Fld := { kind := .clkR, off := 0x44, lo := 4, w := 1, acc := .rwl }
def CLK_REF_PTP_TRANSPORT : Fld := { kind := .clkR, off := 0x44, lo := 5, w := 2, acc := .rwl, legal := fun v => Nat.ble v 2 }
def CLK_REF_PTP_DREQ_UNICAST : Fld := { kind := .clkR, off := 0x44, lo := 7, w := 1, acc := .rwl }
def CLK_REF_PTP_DOMAIN : Fld := { kind := .clkR, off := 0x44, lo := 8, w := 8, acc := .rwl, rst := fun _ _ => 127, legal := fun v => Nat.ble v 127 }
def CLK_REF_PTP_ANN_TO : Fld := { kind := .clkR, off := 0x44, lo := 16, w := 4, acc := .rwl, rst := fun _ _ => 3, legal := fun v => Nat.ble 2 v && Nat.ble v 10 }
def CLK_REF_IN_FORMAT : Fld := { kind := .clkR, off := 0x48, w := 4, acc := .rwl, rst := fun n _ => if n = 6 then 1 else 0 }
def CLK_REF_DELAY_DELAY : Fld := { kind := .clkR, off := 0x4c, w := 32, acc := .rwl }
def CLK_REF_TOL_TOL : Fld := { kind := .clkR, off := 0x50, w := 16, acc := .rwl, rst := fun _ _ => 500, legal := fun v => Nat.ble 1 v }
def CLK_REF_TOL_QUAL_T : Fld := { kind := .clkR, off := 0x50, lo := 16, w := 16, acc := .rwl, rst := fun _ _ => 10, legal := fun v => Nat.ble 1 v }
def CLK_REF_STAT_STATE : Fld := { kind := .clkR, off := 0x60, w := 3, acc := .ro, rst := fun n _ => if Nat.ble 7 n then 1 else 0 }
def CLK_REF_STAT_WATCH : Fld := { kind := .clkR, off := 0x60, lo := 3, w := 1, acc := .ro }
def CLK_REF_STAT_QUARREL : Fld := { kind := .clkR, off := 0x60, lo := 4, w := 1, acc := .ro }
def CLK_REF_STAT_OUTVOTED : Fld := { kind := .clkR, off := 0x60, lo := 5, w := 1, acc := .ro }
def CLK_REF_STAT_DRIFT_DQ : Fld := { kind := .clkR, off := 0x60, lo := 6, w := 1, acc := .ro }
def CLK_REF_STAT_LOOP : Fld := { kind := .clkR, off := 0x60, lo := 7, w := 1, acc := .ro }
def CLK_REF_STAT_QUALITY : Fld := { kind := .clkR, off := 0x60, lo := 8, w := 8, acc := .ro, rst := fun _ _ => 255 }
def CLK_REF_STAT_CLASS : Fld := { kind := .clkR, off := 0x60, lo := 16, w := 8, acc := .ro, rst := fun _ _ => 255 }
def CLK_REF_STAT_ACC : Fld := { kind := .clkR, off := 0x60, lo := 24, w := 8, acc := .ro, rst := fun _ _ => 254 }
def CLK_REF_OFFSET_OFFSET : Fld := { kind := .clkR, off := 0x64, w := 64, acc := .ro }
def CLK_REF_FREQ_FREQ : Fld := { kind := .clkR, off := 0x6c, w := 32, acc := .ro }
def CLK_REF_TREND_SLOPE : Fld := { kind := .clkR, off := 0x70, w := 16, acc := .ro }
def CLK_REF_TREND_CROSS : Fld := { kind := .clkR, off := 0x70, lo := 16, w := 16, acc := .ro, rst := fun _ _ => 65535 }
def CLK_REF_GM_IDENTITY : Fld := { kind := .clkR, off := 0x74, w := 64, acc := .ro }
def CLK_REF_COUNT_LOSSES : Fld := { kind := .clkR, off := 0x7c, w := 16, acc := .ro }
def CLK_REF_COUNT_QUARRELS : Fld := { kind := .clkR, off := 0x7c, lo := 16, w := 16, acc := .ro }

def LANE_CFG_TX_INV : Fld := { kind := .lane, off := 0x40, w := 1, acc := .rw }
def LANE_CFG_RX_INV_AUTO : Fld := { kind := .lane, off := 0x40, lo := 1, w := 1, acc := .rw, rst := fun _ _ => 1 }
def LANE_CFG_TX_FIXED : Fld := { kind := .lane, off := 0x40, lo := 2, w := 1, acc := .rw }
def LANE_CFG_LOOP : Fld := { kind := .lane, off := 0x40, lo := 3, w := 2, acc := .rw, legal := fun v => Nat.ble v 2 }
def LANE_CFG_PRESET_PRE : Fld := { kind := .lane, off := 0x40, lo := 8, w := 4, acc := .rw, rst := fun _ _ => 2, legal := fun v => Nat.ble v 6 }
def LANE_CFG_PRESET_POST : Fld := { kind := .lane, off := 0x40, lo := 16, w := 5, acc := .rw, rst := fun _ _ => 6, legal := fun v => Nat.ble v 12 }
def LANE_TX_ACT_PRE : Fld := { kind := .lane, off := 0x44, w := 4, acc := .ro }
def LANE_TX_ACT_POST : Fld := { kind := .lane, off := 0x44, lo := 8, w := 5, acc := .ro }
def LANE_TX_ACT_MAIN : Fld := { kind := .lane, off := 0x44, lo := 16, w := 6, acc := .ro }
def LANE_STAT_STATE : Fld := { kind := .lane, off := 0x48, w := 3, acc := .ro }
def LANE_STAT_LAST_FAIL : Fld := { kind := .lane, off := 0x48, lo := 3, w := 3, acc := .ro }
def LANE_STAT_SIGNAL : Fld := { kind := .lane, off := 0x48, lo := 6, w := 1, acc := .ro }
def LANE_STAT_RX_INV : Fld := { kind := .lane, off := 0x48, lo := 7, w := 1, acc := .ro }
def LANE_STAT_ATTEMPTS : Fld := { kind := .lane, off := 0x48, lo := 8, w := 8, acc := .ro }
def LANE_STAT_BACKOFF_MS : Fld := { kind := .lane, off := 0x48, lo := 16, w := 7, acc := .ro }
def LANE_STAT_LOGICAL : Fld := { kind := .lane, off := 0x48, lo := 24, w := 2, acc := .ro }
def LANE_FEC_CORR_COUNT : Fld := { kind := .lane, off := 0x4c, w := 32, acc := .ro }
def LANE_FEC_UNCORR_COUNT : Fld := { kind := .lane, off := 0x50, w := 32, acc := .ro }
def LANE_HDR_ERR_COUNT : Fld := { kind := .lane, off := 0x54, w := 32, acc := .ro }
def LANE_DOWNS_COUNT : Fld := { kind := .lane, off := 0x58, w := 32, acc := .ro }
def LANE_EYE_CTRL_START : Fld := { kind := .lane, off := 0x80, w := 1, acc := .wo }
def LANE_EYE_CTRL_ABORT : Fld := { kind := .lane, off := 0x80, lo := 1, w := 1, acc := .wo }
def LANE_EYE_CTRL_EYE : Fld := { kind := .lane, off := 0x80, lo := 2, w := 2, acc := .rw, rst := fun _ _ => 1, legal := fun v => Nat.ble v 2 }
def LANE_EYE_CTRL_PH_N : Fld := { kind := .lane, off := 0x80, lo := 4, w := 5, acc := .rw, rst := fun _ _ => 31 }
def LANE_EYE_CTRL_V_N : Fld := { kind := .lane, off := 0x80, lo := 9, w := 5, acc := .rw, rst := fun _ _ => 31 }
def LANE_EYE_CTRL_PH_STEP : Fld := { kind := .lane, off := 0x80, lo := 14, w := 4, acc := .rw, rst := fun _ _ => 2, legal := fun v => Nat.ble 1 v }
def LANE_EYE_CTRL_V_STEP : Fld := { kind := .lane, off := 0x80, lo := 18, w := 4, acc := .rw, rst := fun _ _ => 2, legal := fun v => Nat.ble 1 v }
def LANE_EYE_CTRL_DWELL : Fld := { kind := .lane, off := 0x80, lo := 22, w := 4, acc := .rw, rst := fun _ _ => 7, legal := fun v => Nat.ble 5 v && Nat.ble v 10 }
def LANE_EYE_STAT_BUSY : Fld := { kind := .lane, off := 0x84, w := 1, acc := .ro }
def LANE_EYE_STAT_DONE : Fld := { kind := .lane, off := 0x84, lo := 1, w := 1, acc := .ro }
def LANE_EYE_STAT_ABORTED : Fld := { kind := .lane, off := 0x84, lo := 2, w := 1, acc := .ro }
def LANE_EYE_STAT_REFUSED : Fld := { kind := .lane, off := 0x84, lo := 3, w := 1, acc := .ro }
def LANE_EYE_STAT_POINTS : Fld := { kind := .lane, off := 0x84, lo := 4, w := 11, acc := .ro }
def LANE_MARGIN_WIDTH : Fld := { kind := .lane, off := 0x90, w := 7, acc := .ro }
def LANE_MARGIN_HEIGHT : Fld := { kind := .lane, off := 0x90, lo := 7, w := 9, acc := .ro }
def LANE_MARGIN_BASE_WIDTH : Fld := { kind := .lane, off := 0x90, lo := 16, w := 7, acc := .ro }
def LANE_MARGIN_BASE_HEIGHT : Fld := { kind := .lane, off := 0x90, lo := 23, w := 9, acc := .ro }
def LANE_MARGIN_MIN_WIDTH : Fld := { kind := .lane, off := 0x98, w := 7, acc := .ro }
def LANE_MARGIN_MIN_HEIGHT : Fld := { kind := .lane, off := 0x98, lo := 7, w := 9, acc := .ro }
def LANE_MARGIN_CFG_PERIOD_H : Fld := { kind := .lane, off := 0x94, w := 8, acc := .rw, rst := fun _ _ => 24 }
def LANE_MARGIN_CFG_LIMIT_PCT : Fld := { kind := .lane, off := 0x94, lo := 8, w := 7, acc := .rw, rst := fun _ _ => 70, legal := fun v => Nat.ble 1 v && Nat.ble v 100 }
def LANE_MARGIN_CFG_REBASE : Fld := { kind := .lane, off := 0x94, lo := 15, w := 1, acc := .wo }
def LANE_SER_COUNT : Fld := { kind := .lane, off := 0x9c, w := 32, acc := .ro }
def LANE_EYE_RES_LO : Fld := { kind := .lane, off := 0x800, n := 512, step := 0x4, w := 16, acc := .ro }
def LANE_EYE_RES_HI : Fld := { kind := .lane, off := 0x800, n := 512, step := 0x4, lo := 16, w := 16, acc := .ro }

def NIF_CFG_SPEED : Fld := { kind := .nif, off := 0x40, w := 3, acc := .rws, legal := fun v => Nat.ble v 4 }
def NIF_CFG_FIRST_LANE : Fld := { kind := .nif, off := 0x40, lo := 4, w := 5, acc := .rws, rst := fun n _ => 2 * n }
def NIF_CFG_AN_EN : Fld := { kind := .nif, off := 0x40, lo := 9, w := 1, acc := .rws, rst := fun _ _ => 1 }
def NIF_CFG_FEC_OFF : Fld := { kind := .nif, off := 0x40, lo := 10, w := 1, acc := .rws }
def NIF_CFG_VLAN_EN : Fld := { kind := .nif, off := 0x40, lo := 11, w := 1, acc := .rws }
def NIF_CFG_VID : Fld := { kind := .nif, off := 0x40, lo := 12, w := 12, acc := .rws }
def NIF_IP4_ADDR : Fld := { kind := .nif, off := 0x44, w := 32, acc := .rws }
def NIF_MAC_LO_MAC : Fld := { kind := .nif, off := 0x48, w := 32, acc := .ro }
def NIF_MAC_HI_MAC : Fld := { kind := .nif, off := 0x4c, w := 32, acc := .ro }
def NIF_STAT_LINK : Fld := { kind := .nif, off := 0x50, w := 1, acc := .ro }
def NIF_STAT_SPEED_ACT : Fld := { kind := .nif, off := 0x50, lo := 1, w := 3, acc := .ro }
def NIF_STAT_AN_DONE : Fld := { kind := .nif, off := 0x50, lo := 4, w := 1, acc := .ro }
def NIF_STAT_FEC_ALIGNED : Fld := { kind := .nif, off := 0x50, lo := 5, w := 1, acc := .ro }
def NIF_STAT_IP4_LL : Fld := { kind := .nif, off := 0x50, lo := 6, w := 1, acc := .ro }
def NIF_STAT_OLD_QUERIER : Fld := { kind := .nif, off := 0x50, lo := 7, w := 1, acc := .ro }
def NIF_STAT_LINK_DOWNS : Fld := { kind := .nif, off := 0x50, lo := 16, w := 16, acc := .ro }
def NIF_RX_FRAMES_COUNT : Fld := { kind := .nif, off := 0x54, w := 32, acc := .ro }
def NIF_RX_DROP_COUNT : Fld := { kind := .nif, off := 0x58, w := 32, acc := .ro }
def NIF_FEC_CORR_COUNT : Fld := { kind := .nif, off := 0x5c, w := 32, acc := .ro }
def NIF_FEC_UNCORR_COUNT : Fld := { kind := .nif, off := 0x60, w := 32, acc := .ro }

def ING_CTRL_KIND : Fld := { kind := .ing, off := 0x40, w := 3, acc := .rws, legal := fun v => Nat.ble v 4 }
def ING_CTRL_DUAL : Fld := { kind := .ing, off := 0x40, lo := 3, w := 1, acc := .rws }
def ING_CTRL_ANC_EN : Fld := { kind := .ing, off := 0x40, lo := 4, w := 1, acc := .rws }
def ING_CTRL_TSMODE : Fld := { kind := .ing, off := 0x40, lo := 5, w := 2, acc := .rws, legal := fun v => Nat.ble v 2 }
def ING_CTRL_PT : Fld := { kind := .ing, off := 0x40, lo := 8, w := 7, acc := .rws, rst := fun _ _ => 96 }
def ING_CTRL_LAYER : Fld := { kind := .ing, off := 0x40, lo := 16, w := 12, acc := .rws }
def ING_FMT0_WIDTH : Fld := { kind := .ing, off := 0x44, w := 13, acc := .rws, rst := fun _ _ => 1920 }
def ING_FMT0_HEIGHT : Fld := { kind := .ing, off := 0x44, lo := 16, w := 13, acc := .rws, rst := fun _ _ => 1080 }
def ING_FMT1_SAMPLING : Fld := { kind := .ing, off := 0x48, w := 2, acc := .rws }
def ING_FMT1_DEPTH : Fld := { kind := .ing, off := 0x48, lo := 2, w := 2, acc := .rws, rst := fun _ _ => 1, legal := fun v => Nat.ble v 2 }
def ING_FMT1_BPM : Fld := { kind := .ing, off := 0x48, lo := 4, w := 1, acc := .rws }
def ING_FMT1_SCAN : Fld := { kind := .ing, off := 0x48, lo := 5, w := 2, acc := .rws, legal := fun v => Nat.ble v 2 }
def ING_FMT1_COLORIMETRY : Fld := { kind := .ing, off := 0x48, lo := 8, w := 3, acc := .rws, rst := fun _ _ => 1, legal := fun v => Nat.ble v 3 }
def ING_FMT1_TCS : Fld := { kind := .ing, off := 0x48, lo := 11, w := 2, acc := .rws, legal := fun v => Nat.ble v 2 }
def ING_FMT1_RANGE : Fld := { kind := .ing, off := 0x48, lo := 13, w := 1, acc := .rws }
def ING_RATE_NUM : Fld := { kind := .ing, off := 0x4c, w := 16, acc := .rws, rst := fun _ _ => 60 }
def ING_RATE_DEN : Fld := { kind := .ing, off := 0x4c, lo := 16, w := 16, acc := .rws, rst := fun _ _ => 1, legal := fun v => Nat.ble 1 v }
def ING_ASM_CTX : Fld := { kind := .ing, off := 0x50, w := 5, acc := .rws }
def ING_ASM_LOSS_MAX : Fld := { kind := .ing, off := 0x50, lo := 8, w := 7, acc := .rws, rst := fun _ _ => 25, legal := fun v => Nat.ble v 100 }
def ING_ASM_SKEW_MAX : Fld := { kind := .ing, off := 0x50, lo := 16, w := 4, acc := .rws, rst := fun _ _ => 10, legal := fun v => Nat.ble 1 v && Nat.ble v 10 }
def ING_ASM_PATH_TO : Fld := { kind := .ing, off := 0x50, lo := 20, w := 8, acc := .rws, rst := fun _ _ => 40, legal := fun v => Nat.ble 1 v }
def ING_SIG_MASK_LSB : Fld := { kind := .ing, off := 0x54, w := 3, acc := .rws, legal := fun v => Nat.ble v 4 }
def ING_SIG_PULSE_KIND : Fld := { kind := .ing, off := 0x54, lo := 3, w := 2, acc := .rws }
def ING_SIG_ANC_DID : Fld := { kind := .ing, off := 0x54, lo := 8, w := 8, acc := .rws }
def ING_SIG_ANC_SDID : Fld := { kind := .ing, off := 0x54, lo := 16, w := 8, acc := .rws }
def ING_PULSE_RGN_X0 : Fld := { kind := .ing, off := 0x58, w := 8, acc := .rws }
def ING_PULSE_RGN_Y0 : Fld := { kind := .ing, off := 0x58, lo := 8, w := 8, acc := .rws }
def ING_PULSE_RGN_W : Fld := { kind := .ing, off := 0x58, lo := 16, w := 8, acc := .rws, rst := fun _ _ => 1, legal := fun v => Nat.ble 1 v }
def ING_PULSE_RGN_H : Fld := { kind := .ing, off := 0x58, lo := 24, w := 8, acc := .rws, rst := fun _ _ => 1, legal := fun v => Nat.ble 1 v }
def ING_STAT_STATE : Fld := { kind := .ing, off := 0x60, w := 2, acc := .ro }
def ING_STAT_PATH0_UP : Fld := { kind := .ing, off := 0x60, lo := 2, w := 1, acc := .ro }
def ING_STAT_PATH1_UP : Fld := { kind := .ing, off := 0x60, lo := 3, w := 1, acc := .ro }
def ING_STAT_ANC_UP : Fld := { kind := .ing, off := 0x60, lo := 4, w := 1, acc := .ro }
def ING_STAT_TIMED : Fld := { kind := .ing, off := 0x60, lo := 5, w := 1, acc := .ro }
def ING_STAT_WBUF : Fld := { kind := .ing, off := 0x60, lo := 6, w := 2, acc := .ro }
def ING_STAT_SKEW : Fld := { kind := .ing, off := 0x60, lo := 8, w := 8, acc := .ro }
def ING_FRAMES_COUNT : Fld := { kind := .ing, off := 0x64, w := 32, acc := .ro }
def ING_DISCARDED_COUNT : Fld := { kind := .ing, off := 0x68, w := 32, acc := .ro }
def ING_PKT_LOST_COUNT : Fld := { kind := .ing, off := 0x6c, w := 32, acc := .ro }
def ING_PKT_REPAIRED_COUNT : Fld := { kind := .ing, off := 0x70, w := 32, acc := .ro }
def ING_LAST_A_TIME : Fld := { kind := .ing, off := 0x78, w := 64, acc := .ro }
def ING_LAST_C_TIME : Fld := { kind := .ing, off := 0x80, w := 64, acc := .ro }
def ING_SIGDIG_DIGEST : Fld := { kind := .ing, off := 0x88, w := 32, acc := .ro }
def ING_TC_TC : Fld := { kind := .ing, off := 0x8c, w := 32, acc := .ro }
def ING_NAME_TEXT : Fld := { kind := .ing, off := 0xa0, n := 8, step := 0x4, w := 32, acc := .rw }
def ING_FLOW_GRP_ADDR : Fld := { kind := .ing, off := 0x100, n := 3, step := 0x40, w := 128, acc := .rws }
def ING_FLOW_SRC_ADDR : Fld := { kind := .ing, off := 0x110, n := 3, step := 0x40, w := 128, acc := .rws }
def ING_FLOW_PORT_UDP : Fld := { kind := .ing, off := 0x120, n := 3, step := 0x40, w := 16, acc := .rws }
def ING_FLOW_PORT_NIF : Fld := { kind := .ing, off := 0x120, n := 3, step := 0x40, lo := 16, w := 4, acc := .rws }
def ING_FLOW_PORT_FAMILY : Fld := { kind := .ing, off := 0x120, n := 3, step := 0x40, lo := 20, w := 1, acc := .rws }
def ING_FLOW_PORT_SSM : Fld := { kind := .ing, off := 0x120, n := 3, step := 0x40, lo := 21, w := 1, acc := .rws }

def XSD_CTRL_LAYER : Fld := { kind := .xsdC, off := 0x40, w := 12, acc := .rws }
def XSD_CTRL_LAYER_EN : Fld := { kind := .xsdC, off := 0x40, lo := 12, w := 1, acc := .rws }
def XSD_STAT_STATE : Fld := { kind := .xsdC, off := 0x44, w := 2, acc := .ro }
def XSD_STAT_CAUSE : Fld := { kind := .xsdC, off := 0x44, lo := 4, w := 4, acc := .ro }
def XSD_STAT_PROFILE : Fld := { kind := .xsdC, off := 0x44, lo := 8, w := 8, acc := .ro }
def XSD_STAT_LEVEL : Fld := { kind := .xsdC, off := 0x44, lo := 16, w := 8, acc := .ro }
def XSD_FRAME_WH_W : Fld := { kind := .xsdC, off := 0x48, w := 13, acc := .ro }
def XSD_FRAME_WH_H : Fld := { kind := .xsdC, off := 0x48, lo := 16, w := 13, acc := .ro }
def XSD_FRAMES_COUNT : Fld := { kind := .xsdC, off := 0x4c, w := 32, acc := .ro }
def XSD_CONCEALED_COUNT : Fld := { kind := .xsdC, off := 0x50, w := 32, acc := .ro }
def XSD_DISCARDED_COUNT : Fld := { kind := .xsdC, off := 0x54, w := 32, acc := .ro }
def XSD_STATS_BASE_ADDR : Fld := { kind := .xsdC, off := 0x60, w := 64, acc := .rws }
def XSD_STATS_CFG_EN : Fld := { kind := .xsdC, off := 0x68, w := 1, acc := .rws }
def XSD_STATS_CFG_SIZE : Fld := { kind := .xsdC, off := 0x68, lo := 16, w := 16, acc := .rws }
def XSD_STATS_WR_IDX : Fld := { kind := .xsdC, off := 0x6c, w := 32, acc := .ro }

def XSD_LOAD_ALLOC : Fld := { kind := .xsdG, off := 0x40, w := 13, acc := .ro }
def XSD_LOAD_CONTEXTS : Fld := { kind := .xsdG, off := 0x40, lo := 16, w := 5, acc := .ro }

def VDC_LOAD_ALLOC : Fld := { kind := .vdc, off := 0xc0, w := 13, acc := .ro }
def VDC_LOAD_CONTEXTS : Fld := { kind := .vdc, off := 0xc0, lo := 16, w := 5, acc := .ro }
def VDC_STATS_BASE_ADDR : Fld := { kind := .vdc, off := 0x60, w := 64, acc := .rws }
def VDC_STATS_CFG_EN : Fld := { kind := .vdc, off := 0x68, w := 1, acc := .rws }
def VDC_STATS_CFG_SIZE : Fld := { kind := .vdc, off := 0x68, lo := 16, w := 16, acc := .rws }
def VDC_STATS_WR_IDX : Fld := { kind := .vdc, off := 0x6c, w := 32, acc := .ro }
def VDC_CTRL_LAYER : Fld := { kind := .vdc, off := 0x40, w := 12, acc := .rws }
def VDC_CTRL_LAYER_EN : Fld := { kind := .vdc, off := 0x40, lo := 12, w := 1, acc := .rws }
def VDC_CTRL_CONCEAL : Fld := { kind := .vdc, off := 0x40, lo := 13, w := 2, acc := .rws, legal := fun v => Nat.ble v 2 }
def VDC_CTRL_START : Fld := { kind := .vdc, off := 0x40, lo := 15, w := 1, acc := .rws }
def VDC_STAT_STATE : Fld := { kind := .vdc, off := 0x44, w := 2, acc := .ro }
def VDC_STAT_SUBST : Fld := { kind := .vdc, off := 0x44, lo := 2, w := 1, acc := .ro }
def VDC_STAT_STALLED : Fld := { kind := .vdc, off := 0x44, lo := 3, w := 1, acc := .ro }
def VDC_STAT_CAUSE : Fld := { kind := .vdc, off := 0x44, lo := 4, w := 4, acc := .ro }
def VDC_STAT_PROFILE : Fld := { kind := .vdc, off := 0x44, lo := 8, w := 8, acc := .ro }
def VDC_STAT_LEVEL : Fld := { kind := .vdc, off := 0x44, lo := 16, w := 8, acc := .ro }
def VDC_STAT_DPB : Fld := { kind := .vdc, off := 0x44, lo := 24, w := 5, acc := .ro }
def VDC_STAT_DEPTH10 : Fld := { kind := .vdc, off := 0x44, lo := 29, w := 1, acc := .ro }
def VDC_STAT_VUI_CD : Fld := { kind := .vdc, off := 0x44, lo := 30, w := 1, acc := .ro }
def VDC_FRAME_WH_W : Fld := { kind := .vdc, off := 0x48, w := 13, acc := .ro }
def VDC_FRAME_WH_H : Fld := { kind := .vdc, off := 0x48, lo := 16, w := 13, acc := .ro }
def VDC_PICTURES_COUNT : Fld := { kind := .vdc, off := 0x4c, w := 32, acc := .ro }
def VDC_CONCEALED_COUNT : Fld := { kind := .vdc, off := 0x50, w := 32, acc := .ro }
def VDC_ERRORS_COUNT : Fld := { kind := .vdc, off := 0x54, w := 32, acc := .ro }
def VDC_SUBSTITUTES_COUNT : Fld := { kind := .vdc, off := 0x58, w := 32, acc := .ro }
def VDC_STORE_ADDR : Fld := { kind := .vdc, off := 0x70, w := 64, acc := .rws }
def VDC_STORE_CFG_EXTRA : Fld := { kind := .vdc, off := 0x78, w := 5, acc := .rws, legal := fun v => Nat.ble v 16 }
def VDC_STORE_CFG_STRIDE : Fld := { kind := .vdc, off := 0x78, lo := 8, w := 20, acc := .rws }
def VDC_SLOTS_NEWEST : Fld := { kind := .vdc, off := 0x7c, w := 5, acc := .ro, rst := fun _ _ => 31 }
def VDC_SLOTS_HELD : Fld := { kind := .vdc, off := 0x7c, lo := 8, w := 19, acc := .ro }
def VDC_SLOTS_FREE : Fld := { kind := .vdc, off := 0x7c, lo := 27, w := 5, acc := .ro }

def VEC_STATS_BASE_ADDR : Fld := { kind := .vecC, off := 0x60, w := 64, acc := .rws }
def VEC_STATS_CFG_EN : Fld := { kind := .vecC, off := 0x68, w := 1, acc := .rws }
def VEC_STATS_CFG_CTU : Fld := { kind := .vecC, off := 0x68, lo := 1, w := 1, acc := .rws }
def VEC_STATS_CFG_SIZE : Fld := { kind := .vecC, off := 0x68, lo := 16, w := 16, acc := .rws }
def VEC_STATS_WR_IDX : Fld := { kind := .vecC, off := 0x6c, w := 32, acc := .ro }
def VEC_SRC_STAGE : Fld := { kind := .vecC, off := 0x40, w := 5, acc := .rws, legal := fun v => Nat.ble v 23 }
def VEC_SRC_KIND : Fld := { kind := .vecC, off := 0x40, lo := 5, w := 1, acc := .rws }
def VEC_SRC_PIC_DIV : Fld := { kind := .vecC, off := 0x40, lo := 8, w := 4, acc := .rws, rst := fun _ _ => 1, legal := fun v => Nat.ble 1 v }
def VEC_SRC_LAYER : Fld := { kind := .vecC, off := 0x40, lo := 16, w := 12, acc := .rws }
def VEC_SIZE_W : Fld := { kind := .vecC, off := 0x44, w := 13, acc := .rws, rst := fun _ _ => 1920, legal := fun v => Nat.ble 64 v && Nat.ble v 7680 && v % 2 == 0 }
def VEC_SIZE_H : Fld := { kind := .vecC, off := 0x44, lo := 16, w := 13, acc := .rws, rst := fun _ _ => 1080, legal := fun v => Nat.ble 64 v && Nat.ble v 4320 && v % 2 == 0 }
def VEC_CODEC_CODEC : Fld := { kind := .vecC, off := 0x48, w := 2, acc := .rws, legal := fun v => Nat.ble v 2 }
def VEC_CODEC_LEVEL : Fld := { kind := .vecC, off := 0x48, lo := 8, w := 8, acc := .rws, rst := fun _ _ => 41 }
def VEC_CODEC_IDR_PERIOD : Fld := { kind := .vecC, off := 0x48, lo := 16, w := 8, acc := .rws }
def VEC_CODEC_SLICE_ROWS : Fld := { kind := .vecC, off := 0x48, lo := 24, w := 4, acc := .rws, rst := fun _ _ => 1, legal := fun v => Nat.ble 1 v }
def VEC_CODEC_SEI_FULL : Fld := { kind := .vecC, off := 0x48, lo := 28, w := 1, acc := .rws, rst := fun _ _ => 1 }
def VEC_CODEC_SEI_EN : Fld := { kind := .vecC, off := 0x48, lo := 29, w := 1, acc := .rws, rst := fun _ _ => 1 }
def VEC_RC_MODE : Fld := { kind := .vecC, off := 0x4c, w := 2, acc := .rws, legal := fun v => Nat.ble v 2 }
def VEC_RC_QP_MIN : Fld := { kind := .vecC, off := 0x4c, lo := 8, w := 6, acc := .rws, rst := fun _ _ => 10, legal := fun v => Nat.ble v 51 }
def VEC_RC_QP_MAX : Fld := { kind := .vecC, off := 0x4c, lo := 16, w := 6, acc := .rws, rst := fun _ _ => 45, legal := fun v => Nat.ble v 51 }
def VEC_RC_QP_CONST : Fld := { kind := .vecC, off := 0x4c, lo := 24, w := 6, acc := .rws, rst := fun _ _ => 30 }
def VEC_BITRATE_RATE : Fld := { kind := .vecC, off := 0x50, w := 20, acc := .rws, rst := fun _ _ => 800 }
def VEC_CPB_SIZE : Fld := { kind := .vecC, off := 0x54, w := 24, acc := .rws, rst := fun _ _ => 4000 }
def VEC_OUT_DEST : Fld := { kind := .vecC, off := 0x58, w := 2, acc := .rws }
def VEC_OUT_PT : Fld := { kind := .vecC, off := 0x58, lo := 8, w := 7, acc := .rws, rst := fun _ _ => 97 }
def VEC_OUT_NIF : Fld := { kind := .vecC, off := 0x58, lo := 16, w := 4, acc := .rws }
def VEC_OUT_FAMILY : Fld := { kind := .vecC, off := 0x58, lo := 20, w := 1, acc := .rws }
def VEC_DST_PORT_UDP : Fld := { kind := .vecC, off := 0x5c, w := 16, acc := .rws }
def VEC_STAT_STATE : Fld := { kind := .vecC, off := 0x70, w := 2, acc := .ro }
def VEC_STAT_SENDING : Fld := { kind := .vecC, off := 0x70, lo := 2, w := 1, acc := .ro }
def VEC_STAT_LAST_QP : Fld := { kind := .vecC, off := 0x70, lo := 8, w := 8, acc := .ro }
def VEC_PICTURES_COUNT : Fld := { kind := .vecC, off := 0x74, w := 32, acc := .ro }
def VEC_CURTAIN_ROWS_COUNT : Fld := { kind := .vecC, off := 0x78, w := 32, acc := .ro }
def VEC_CTRL_FORCE_IDR : Fld := { kind := .vecC, off := 0x7c, w := 1, acc := .wo }
def VEC_DST_ADDR_ADDR : Fld := { kind := .vecC, off := 0x80, w := 128, acc := .rws }
def VEC_RING_BASE_ADDR : Fld := { kind := .vecC, off := 0x90, w := 64, acc := .rws }
def VEC_STORE_ADDR : Fld := { kind := .vecC, off := 0xa8, w := 64, acc := .rws }
def VEC_RING_SIZE_SIZE : Fld := { kind := .vecC, off := 0x98, w := 24, acc := .rws }
def VEC_STORE_SIZE_SIZE : Fld := { kind := .vecC, off := 0xb0, w := 24, acc := .rws }
def VEC_RING_WR_OFFSET : Fld := { kind := .vecC, off := 0x9c, w := 32, acc := .ro }
def VEC_RING_RD_OFFSET : Fld := { kind := .vecC, off := 0xa0, w := 32, acc := .rw }

def VEC_LOAD_ALLOC : Fld := { kind := .vecG, off := 0x40, w := 13, acc := .ro }
def VEC_LOAD_CONTEXTS : Fld := { kind := .vecG, off := 0x40, lo := 16, w := 5, acc := .ro }

def LFP_CFG_STAGE : Fld := { kind := .lfp, off := 0x40, w := 5, acc := .rws, rst := fun n _ => n / 4, legal := fun v => Nat.ble v 23 || v == 31 }
def LFP_STAT_CONTEXTS : Fld := { kind := .lfp, off := 0x44, w := 5, acc := .ro }
def LFP_STAT_LB_FREE : Fld := { kind := .lfp, off := 0x44, lo := 16, w := 9, acc := .ro, rst := fun _ _ => 256 }
def LFP_RATE_ALLOC : Fld := { kind := .lfp, off := 0x48, w := 11, acc := .ro }
def LFP_RATE_USED : Fld := { kind := .lfp, off := 0x48, lo := 16, w := 11, acc := .ro }
def LFP_UNDERRUNS_COUNT : Fld := { kind := .lfp, off := 0x4c, w := 32, acc := .ro }
def LFP_REJ_ENTRY : Fld := { kind := .lfp, off := 0x50, w := 12, acc := .ro }
def LFP_REJ_KIND : Fld := { kind := .lfp, off := 0x50, lo := 12, w := 1, acc := .ro }
def LFP_REJ_REASON : Fld := { kind := .lfp, off := 0x50, lo := 16, w := 8, acc := .ro }
def LFP_REJ_VALID : Fld := { kind := .lfp, off := 0x50, lo := 31, w := 1, acc := .w1c }
def LFP_CTX_LAYER : Fld := { kind := .lfp, off := 0x80, n := 16, step := 0x8, w := 12, acc := .ro }
def LFP_CTX_SLOT : Fld := { kind := .lfp, off := 0x80, n := 16, step := 0x8, lo := 12, w := 7, acc := .ro }
def LFP_CTX_VALID : Fld := { kind := .lfp, off := 0x80, n := 16, step := 0x8, lo := 19, w := 1, acc := .ro }
def LFP_CTX_DECIM : Fld := { kind := .lfp, off := 0x80, n := 16, step := 0x8, lo := 20, w := 2, acc := .ro }
def LFP_CTX_UNFIT : Fld := { kind := .lfp, off := 0x80, n := 16, step := 0x8, lo := 22, w := 1, acc := .ro }
def LFP_CTX_LB_OFF : Fld := { kind := .lfp, off := 0x84, n := 16, step := 0x8, w := 9, acc := .ro }
def LFP_CTX_LB_SIZE : Fld := { kind := .lfp, off := 0x84, n := 16, step := 0x8, lo := 16, w := 9, acc := .ro }
def LFP_HCOEF_EVEN : Fld := { kind := .lfp, off := 0x400, n := 256, step := 0x4, w := 12, acc := .rws }
def LFP_HCOEF_ODD : Fld := { kind := .lfp, off := 0x400, n := 256, step := 0x4, lo := 16, w := 12, acc := .rws, rst := fun _ k => if k % 4 = 1 then 0x400 else 0 }
def LFP_VCOEF_EVEN : Fld := { kind := .lfp, off := 0x800, n := 192, step := 0x4, w := 12, acc := .rws, rst := fun _ k => if k % 3 = 1 then 0x400 else 0 }
def LFP_VCOEF_ODD : Fld := { kind := .lfp, off := 0x800, n := 192, step := 0x4, lo := 16, w := 12, acc := .rws }

def STG_CFG_ROOT : Fld := { kind := .stg, off := 0x40, w := 11, acc := .rws }
def STG_CFG_ROOT_EN : Fld := { kind := .stg, off := 0x40, lo := 11, w := 1, acc := .rws }
def STG_CFG_ORDER : Fld := { kind := .stg, off := 0x40, lo := 12, w := 2, acc := .rws, legal := fun v => Nat.ble v 2 }
def STG_CFG_OUT_CSC : Fld := { kind := .stg, off := 0x40, lo := 16, w := 3, acc := .rws, legal := fun v => Nat.ble v 4 }
def STG_LEAD_LINES : Fld := { kind := .stg, off := 0x44, w := 8, acc := .rws, rst := fun _ _ => 8 }
def STG_BG_R : Fld := { kind := .stg, off := 0x48, w := 10, acc := .rws }
def STG_BG_G : Fld := { kind := .stg, off := 0x48, lo := 10, w := 10, acc := .rws }
def STG_BG_B : Fld := { kind := .stg, off := 0x48, lo := 20, w := 10, acc := .rws }
def STG_STAT_ORDINARY : Fld := { kind := .stg, off := 0x4c, w := 7, acc := .ro }
def STG_STAT_PROSC : Fld := { kind := .stg, off := 0x4c, lo := 8, w := 4, acc := .ro }
def STG_STAT_RUNNING : Fld := { kind := .stg, off := 0x4c, lo := 16, w := 1, acc := .ro }
def STG_STAT_STARVED : Fld := { kind := .stg, off := 0x4c, lo := 17, w := 1, acc := .ro }
def STG_FRAME_F : Fld := { kind := .stg, off := 0x50, w := 32, acc := .ro }
def STG_CUP_TIME_TIME : Fld := { kind := .stg, off := 0x54, w := 64, acc := .ro }
def STG_SIGBASE_ADDR : Fld := { kind := .stg, off := 0x5c, w := 64, acc := .rws }
def STG_SIGDIG_DIGEST : Fld := { kind := .stg, off := 0x64, w := 31, acc := .ro }
def STG_SIGDIG_LATE : Fld := { kind := .stg, off := 0x64, lo := 31, w := 1, acc := .ro }
def STG_UNDERRUNS_COUNT : Fld := { kind := .stg, off := 0x68, w := 32, acc := .ro }
def STG_Z_SLOT0 : Fld := { kind := .stg, off := 0x80, n := 16, step := 0x4, w := 6, acc := .rws, rst := fun _ w => 4 * w + 0 }
def STG_Z_SLOT1 : Fld := { kind := .stg, off := 0x80, n := 16, step := 0x4, lo := 8, w := 6, acc := .rws, rst := fun _ w => 4 * w + 1 }
def STG_Z_SLOT2 : Fld := { kind := .stg, off := 0x80, n := 16, step := 0x4, lo := 16, w := 6, acc := .rws, rst := fun _ w => 4 * w + 2 }
def STG_Z_SLOT3 : Fld := { kind := .stg, off := 0x80, n := 16, step := 0x4, lo := 24, w := 6, acc := .rws, rst := fun _ w => 4 * w + 3 }
def STG_PS_CTRL_COMMIT : Fld := { kind := .stg, off := 0x200, w := 1, acc := .wo, mids := [4] }
def STG_PS_CTRL_ARMED : Fld := { kind := .stg, off := 0x200, lo := 1, w := 1, acc := .ro }
def STG_PS_CTRL_STAGED : Fld := { kind := .stg, off := 0x200, lo := 2, w := 1, acc := .ro }
def STG_PS_CTRL_SEQ : Fld := { kind := .stg, off := 0x200, lo := 8, w := 8, acc := .ro }
def STG_PS_CTRL_REASON : Fld := { kind := .stg, off := 0x200, lo := 16, w := 8, acc := .ro }
def STG_PS_CFG_EN : Fld := { kind := .stg, off := 0x300, n := 8, step := 0x40, w := 1, acc := .rws }
def STG_PS_CFG_SRC : Fld := { kind := .stg, off := 0x300, n := 8, step := 0x40, lo := 1, w := 2, acc := .rws, legal := fun v => Nat.ble v 2 }
def STG_PS_CFG_LAYER : Fld := { kind := .stg, off := 0x300, n := 8, step := 0x40, lo := 3, w := 12, acc := .rws, rst := fun _ _ => 3840 }
def STG_PS_CFG_TRIG_EN : Fld := { kind := .stg, off := 0x300, n := 8, step := 0x40, lo := 16, w := 1, acc := .rws }
def STG_PS_CFG_TRIG_POL : Fld := { kind := .stg, off := 0x300, n := 8, step := 0x40, lo := 17, w := 1, acc := .rws }
def STG_PS_CFG_TRIG_SC : Fld := { kind := .stg, off := 0x300, n := 8, step := 0x40, lo := 18, w := 4, acc := .rws }
def STG_PS_CFG_CHECK : Fld := { kind := .stg, off := 0x300, n := 8, step := 0x40, lo := 24, w := 2, acc := .rws, legal := fun v => Nat.ble v 2 }
def STG_PS_CFG_STYLE : Fld := { kind := .stg, off := 0x300, n := 8, step := 0x40, lo := 26, w := 2, acc := .rws }
def STG_PS_CFG_SCALE : Fld := { kind := .stg, off := 0x300, n := 8, step := 0x40, lo := 28, w := 2, acc := .rws, rst := fun _ _ => 1, legal := fun v => Nat.ble 1 v }
def STG_PS_XY_X : Fld := { kind := .stg, off := 0x304, n := 8, step := 0x40, w := 13, acc := .rws, legal := fun v => Nat.ble v 7679 }
def STG_PS_XY_Y : Fld := { kind := .stg, off := 0x304, n := 8, step := 0x40, lo := 16, w := 13, acc := .rws, legal := fun v => Nat.ble v 4319 }
def STG_PS_WH_W : Fld := { kind := .stg, off := 0x308, n := 8, step := 0x40, w := 13, acc := .rws, legal := fun v => Nat.ble v 7680 }
def STG_PS_WH_H : Fld := { kind := .stg, off := 0x308, n := 8, step := 0x40, lo := 16, w := 13, acc := .rws, legal := fun v => Nat.ble v 4320 }
def STG_PS_MASK_CONTACTS : Fld := { kind := .stg, off := 0x30c, n := 8, step := 0x40, w := 16, acc := .rws }
def STG_PS_EXP0_CRC : Fld := { kind := .stg, off := 0x310, n := 8, step := 0x40, w := 32, acc := .rws }
def STG_PS_EXP1_CRC : Fld := { kind := .stg, off := 0x314, n := 8, step := 0x40, w := 32, acc := .rws }
def STG_PS_CRC_CRC : Fld := { kind := .stg, off := 0x318, n := 8, step := 0x40, w := 32, acc := .ro }
def STG_PS_RES_RESULT : Fld := { kind := .stg, off := 0x31c, n := 8, step := 0x40, w := 2, acc := .ro }
def STG_PS_RES_ALT : Fld := { kind := .stg, off := 0x31c, n := 8, step := 0x40, lo := 2, w := 1, acc := .ro }
def STG_PS_RES_MISMATCHES : Fld := { kind := .stg, off := 0x31c, n := 8, step := 0x40, lo := 16, w := 16, acc := .ro }
def STG_PS_TEXT_TEXT : Fld := { kind := .stg, off := 0x320, n := 8, step := 0x40, w := 256, acc := .rws }

def PRM_SCFG_FL_STEP : Fld := { kind := .prmS, off := 0x40, w := 4, acc := .rws, rst := fun _ _ => 8, legal := fun v => Nat.ble 1 v }
def PRM_SSTAT_WORST : Fld := { kind := .prmS, off := 0x44, w := 3, acc := .ro, rst := fun _ _ => 6 }
def PRM_SSTAT_UNCERTAIN : Fld := { kind := .prmS, off := 0x44, lo := 3, w := 1, acc := .ro }
def PRM_SSTAT_MAP_BUF : Fld := { kind := .prmS, off := 0x44, lo := 4, w := 1, acc := .ro }
def PRM_SSTAT_PLACEMENTS : Fld := { kind := .prmS, off := 0x44, lo := 16, w := 7, acc := .ro }
def PRM_MAP_FRAME_FRAME : Fld := { kind := .prmS, off := 0x48, w := 32, acc := .ro }
def PRM_VCOUNT0_LIVE : Fld := { kind := .prmS, off := 0x4c, w := 8, acc := .ro }
def PRM_VCOUNT0_LATE : Fld := { kind := .prmS, off := 0x4c, lo := 8, w := 8, acc := .ro }
def PRM_VCOUNT0_STALE : Fld := { kind := .prmS, off := 0x4c, lo := 16, w := 8, acc := .ro }
def PRM_VCOUNT0_FROZEN : Fld := { kind := .prmS, off := 0x4c, lo := 24, w := 8, acc := .ro }
def PRM_VCOUNT1_DEGRADED : Fld := { kind := .prmS, off := 0x50, w := 8, acc := .ro }
def PRM_VCOUNT1_DARK : Fld := { kind := .prmS, off := 0x50, lo := 8, w := 8, acc := .ro }
def PRM_VCOUNT1_STILL : Fld := { kind := .prmS, off := 0x50, lo := 16, w := 8, acc := .ro }
def PRM_PLACE_LAYER : Fld := { kind := .prmS, off := 0x100, n := 72, step := 0x4, w := 12, acc := .ro }
def PRM_PLACE_VERDICT : Fld := { kind := .prmS, off := 0x100, n := 72, step := 0x4, lo := 12, w := 3, acc := .ro }
def PRM_PLACE_UNCERTAIN : Fld := { kind := .prmS, off := 0x100, n := 72, step := 0x4, lo := 15, w := 1, acc := .ro }
def PRM_PLACE_REASON : Fld := { kind := .prmS, off := 0x100, n := 72, step := 0x4, lo := 16, w := 8, acc := .ro }
def PRM_PLACE_VALID : Fld := { kind := .prmS, off := 0x100, n := 72, step := 0x4, lo := 24, w := 1, acc := .ro }

def PRM_FLOOR_MIN_DIM : Fld := { kind := .prmG, off := 0x40, w := 10, acc := .rw, rst := fun _ _ => 256, mids := [4] }
def PRM_FLOOR_FL_REQUIRED : Fld := { kind := .prmG, off := 0x40, lo := 10, w := 1, acc := .rw, rst := fun _ _ => 1, mids := [4] }
def PRM_FLOOR_BADGE_REQUIRED : Fld := { kind := .prmG, off := 0x40, lo := 11, w := 1, acc := .rw, rst := fun _ _ => 1, mids := [4] }
def PRM_FLOOR_BORDER_REQUIRED : Fld := { kind := .prmG, off := 0x40, lo := 12, w := 1, acc := .rw, rst := fun _ _ => 1, mids := [4] }
def PRM_FLOOR_STALE_CAP : Fld := { kind := .prmG, off := 0x40, lo := 16, w := 8, acc := .rw, rst := fun _ _ => 50, legal := fun v => Nat.ble 1 v, mids := [4] }
def PRM_GSTAT_UNCERTAIN : Fld := { kind := .prmG, off := 0x44, w := 1, acc := .ro }
def PRM_GSTAT_PLACEMENTS : Fld := { kind := .prmG, off := 0x44, lo := 16, w := 11, acc := .ro }
def PRM_LOG_WR_IDX : Fld := { kind := .prmG, off := 0x48, w := 16, acc := .ro }
def PRM_LOG_WRAPS_COUNT : Fld := { kind := .prmG, off := 0x4c, w := 16, acc := .ro }
def PRM_LOG_WRAPS_CLEAR : Fld := { kind := .prmG, off := 0x4c, lo := 31, w := 1, acc := .wo }
def PRM_CLAMPS_LO_CLAMPED : Fld := { kind := .prmG, off := 0x50, w := 32, acc := .ro }
def PRM_CLAMPS_HI_CLAMPED : Fld := { kind := .prmG, off := 0x54, w := 32, acc := .ro }
def PRM_POL_CTRL_CLASS : Fld := { kind := .prmG, off := 0x400, n := 64, step := 0x20, w := 2, acc := .rws, rst := fun _ k => if k = 1 then 1 else if k = 2 then 2 else 0, legal := fun v => Nat.ble v 2 }
def PRM_POL_CTRL_USE_CONTENT : Fld := { kind := .prmG, off := 0x400, n := 64, step := 0x20, lo := 2, w := 1, acc := .rws, rst := fun _ k => if k = 1 then 0 else if k = 2 then 0 else 1 }
def PRM_POL_CTRL_USE_PULSE : Fld := { kind := .prmG, off := 0x400, n := 64, step := 0x20, lo := 3, w := 1, acc := .rws }
def PRM_POL_CTRL_USE_CODEC_STATS : Fld := { kind := .prmG, off := 0x400, n := 64, step := 0x20, lo := 4, w := 1, acc := .rws, rst := fun _ k => if k = 1 then 0 else if k = 2 then 0 else 1 }
def PRM_POL_CTRL_TIMED : Fld := { kind := .prmG, off := 0x400, n := 64, step := 0x20, lo := 5, w := 1, acc := .rws, rst := fun _ k => if k = 1 then 0 else if k = 2 then 0 else 1 }
def PRM_POL_CTRL_FREEZE_N : Fld := { kind := .prmG, off := 0x400, n := 64, step := 0x20, lo := 8, w := 6, acc := .rws, rst := fun _ _ => 8, legal := fun v => Nat.ble 1 v }
def PRM_POL_CTRL_CHANGE_MIN : Fld := { kind := .prmG, off := 0x400, n := 64, step := 0x20, lo := 16, w := 6, acc := .rws, rst := fun _ _ => 1, legal := fun v => Nat.ble 1 v }
def PRM_POL_CTRL_RECOVER_N : Fld := { kind := .prmG, off := 0x400, n := 64, step := 0x20, lo := 24, w := 4, acc := .rws, rst := fun _ k => if k = 1 then 1 else if k = 2 then 1 else 2, legal := fun v => Nat.ble 1 v }
def PRM_POL_LATE_LATE_T : Fld := { kind := .prmG, off := 0x404, n := 64, step := 0x20, w := 20, acc := .rws, rst := fun _ k => if k = 1 then 15000 else if k = 2 then 0 else 800 }
def PRM_POL_STALE_STALE_T : Fld := { kind := .prmG, off := 0x408, n := 64, step := 0x20, w := 20, acc := .rws, rst := fun _ k => if k = 1 then 30000 else if k = 2 then 0 else 2500 }
def PRM_POL_DARK_DARK_T : Fld := { kind := .prmG, off := 0x40c, n := 64, step := 0x20, w := 24, acc := .rws, rst := fun _ k => if k = 1 then 0 else if k = 2 then 0 else 10000 }
def PRM_POL_PULSE_PULSE_MAX : Fld := { kind := .prmG, off := 0x410, n := 64, step := 0x20, w := 16, acc := .rws, rst := fun _ _ => 200 }
def PRM_POL_PULSE_UNC_WIDEN : Fld := { kind := .prmG, off := 0x410, n := 64, step := 0x20, lo := 16, w := 8, acc := .rws, rst := fun _ _ => 20 }
def PRM_POL_DIM_DIM_STALE : Fld := { kind := .prmG, off := 0x414, n := 64, step := 0x20, w := 10, acc := .rws, rst := fun _ _ => 512 }
def PRM_POL_DIM_DIM_FROZEN : Fld := { kind := .prmG, off := 0x414, n := 64, step := 0x20, lo := 10, w := 10, acc := .rws, rst := fun _ _ => 512 }
def PRM_POL_DIM_DIM_DEGRADED : Fld := { kind := .prmG, off := 0x414, n := 64, step := 0x20, lo := 20, w := 10, acc := .rws, rst := fun _ _ => 128 }
def PRM_POL_MARKS_FL_CORNER : Fld := { kind := .prmG, off := 0x418, n := 64, step := 0x20, w := 2, acc := .rws, rst := fun _ _ => 3 }
def PRM_POL_MARKS_BADGE_CORNER : Fld := { kind := .prmG, off := 0x418, n := 64, step := 0x20, lo := 2, w := 2, acc := .rws }
def PRM_POL_MARKS_BADGE_SCALE : Fld := { kind := .prmG, off := 0x418, n := 64, step := 0x20, lo := 4, w := 2, acc := .rws, rst := fun _ _ => 1, legal := fun v => Nat.ble 1 v }
def PRM_POL_MARKS_FL_EN : Fld := { kind := .prmG, off := 0x418, n := 64, step := 0x20, lo := 6, w := 1, acc := .rws, rst := fun _ k => if k = 1 then 1 else if k = 2 then 0 else 1 }
def PRM_POL_MARKS_BADGE_EN : Fld := { kind := .prmG, off := 0x418, n := 64, step := 0x20, lo := 7, w := 1, acc := .rws, rst := fun _ _ => 1 }
def PRM_POL_MARKS_BORDER_EN : Fld := { kind := .prmG, off := 0x418, n := 64, step := 0x20, lo := 8, w := 1, acc := .rws, rst := fun _ _ => 1 }
def PRM_POL_MARKS_HATCH_EN : Fld := { kind := .prmG, off := 0x418, n := 64, step := 0x20, lo := 9, w := 1, acc := .rws, rst := fun _ _ => 1 }
def PRM_POL_MOTION_MOTION_MIN : Fld := { kind := .prmG, off := 0x41c, n := 64, step := 0x20, w := 16, acc := .rws, rst := fun _ _ => 64 }

def OHD_CTRL_LANES_EN : Fld := { kind := .ohd, off := 0x40, w := 1, acc := .rws }
def OHD_CTRL_FOURLANE : Fld := { kind := .ohd, off := 0x40, lo := 1, w := 1, acc := .rws }
def OHD_CTRL_MST : Fld := { kind := .ohd, off := 0x40, lo := 2, w := 1, acc := .rws }
def OHD_CTRL_FORMAT : Fld := { kind := .ohd, off := 0x40, lo := 3, w := 2, acc := .rws, legal := fun v => Nat.ble v 2 }
def OHD_CTRL_DEPTH8 : Fld := { kind := .ohd, off := 0x40, lo := 5, w := 1, acc := .rws }
def OHD_CTRL_GENLOCK : Fld := { kind := .ohd, off := 0x40, lo := 6, w := 1, acc := .rws }
def OHD_CTRL_GL_MODE : Fld := { kind := .ohd, off := 0x40, lo := 7, w := 1, acc := .rws }
def OHD_CTRL_RATES : Fld := { kind := .ohd, off := 0x40, lo := 8, w := 4, acc := .rws, rst := fun _ _ => 15 }
def OHD_CTRL_GL_SLEW : Fld := { kind := .ohd, off := 0x40, lo := 12, w := 10, acc := .rws, rst := fun _ _ => 100, legal := fun v => Nat.ble 1 v && Nat.ble v 1000 }
def OHD_PCLK_HZ : Fld := { kind := .ohd, off := 0x48, w := 32, acc := .rws, rst := fun _ _ => 148500000 }
def OHD_HTIM0_ACTIVE : Fld := { kind := .ohd, off := 0x4c, w := 14, acc := .rws, rst := fun _ _ => 1920 }
def OHD_HTIM0_TOTAL : Fld := { kind := .ohd, off := 0x4c, lo := 16, w := 14, acc := .rws, rst := fun _ _ => 2200 }
def OHD_VTIM0_ACTIVE : Fld := { kind := .ohd, off := 0x54, w := 14, acc := .rws, rst := fun _ _ => 1080 }
def OHD_VTIM0_TOTAL : Fld := { kind := .ohd, off := 0x54, lo := 16, w := 14, acc := .rws, rst := fun _ _ => 1125 }
def OHD_HTIM1_FRONT : Fld := { kind := .ohd, off := 0x50, w := 12, acc := .rws, rst := fun _ _ => 88 }
def OHD_HTIM1_SYNC : Fld := { kind := .ohd, off := 0x50, lo := 16, w := 12, acc := .rws, rst := fun _ _ => 44 }
def OHD_HTIM1_POL : Fld := { kind := .ohd, off := 0x50, lo := 28, w := 1, acc := .rws, rst := fun _ _ => 1 }
def OHD_VTIM1_FRONT : Fld := { kind := .ohd, off := 0x58, w := 12, acc := .rws, rst := fun _ _ => 4 }
def OHD_VTIM1_SYNC : Fld := { kind := .ohd, off := 0x58, lo := 16, w := 12, acc := .rws, rst := fun _ _ => 5 }
def OHD_VTIM1_POL : Fld := { kind := .ohd, off := 0x58, lo := 28, w := 1, acc := .rws, rst := fun _ _ => 1 }
def OHD_FRATE_NUM : Fld := { kind := .ohd, off := 0x5c, w := 16, acc := .rws, rst := fun _ _ => 60 }
def OHD_FRATE_DEN : Fld := { kind := .ohd, off := 0x5c, lo := 16, w := 16, acc := .rws, rst := fun _ _ => 1, legal := fun v => Nat.ble 1 v }
def OHD_GL_PHASE_PHASE : Fld := { kind := .ohd, off := 0x60, w := 32, acc := .rws }
def OHD_GL_ERR_ERR : Fld := { kind := .ohd, off := 0x64, w := 32, acc := .ro }
def OHD_STAT_LINK : Fld := { kind := .ohd, off := 0x68, w := 3, acc := .ro }
def OHD_STAT_RATE_ACT : Fld := { kind := .ohd, off := 0x68, lo := 3, w := 3, acc := .ro }
def OHD_STAT_OWNED : Fld := { kind := .ohd, off := 0x68, lo := 6, w := 1, acc := .ro }
def OHD_STAT_HPD : Fld := { kind := .ohd, off := 0x68, lo := 7, w := 3, acc := .ro, rst := fun _ _ => 5 }
def OHD_STAT_CURTAIN : Fld := { kind := .ohd, off := 0x68, lo := 10, w := 1, acc := .ro }
def OHD_STAT_CURT_REASON : Fld := { kind := .ohd, off := 0x68, lo := 11, w := 3, acc := .ro }
def OHD_STAT_GENLOCK : Fld := { kind := .ohd, off := 0x68, lo := 14, w := 2, acc := .ro }
def OHD_STAT_CHECK : Fld := { kind := .ohd, off := 0x68, lo := 16, w := 2, acc := .ro }
def OHD_STAT_SINKS : Fld := { kind := .ohd, off := 0x68, lo := 18, w := 2, acc := .ro }
def OHD_STAT_EDID_VALID : Fld := { kind := .ohd, off := 0x68, lo := 20, w := 1, acc := .ro }
def OHD_HPD_CFG_DEBOUNCE : Fld := { kind := .ohd, off := 0x70, w := 8, acc := .rw, rst := fun _ _ => 20, legal := fun v => Nat.ble 5 v && Nat.ble v 255 }
def OHD_HPD_CFG_CH_N : Fld := { kind := .ohd, off := 0x70, lo := 8, w := 5, acc := .rw, rst := fun _ _ => 6, legal := fun v => Nat.ble 2 v && Nat.ble v 31 }
def OHD_HPD_CFG_CH_WIN : Fld := { kind := .ohd, off := 0x70, lo := 16, w := 8, acc := .rw, rst := fun _ _ => 10, legal := fun v => Nat.ble 1 v && Nat.ble v 255 }
def OHD_CURT_FORCE_OPS : Fld := { kind := .ohd, off := 0x74, w := 1, acc := .rw }
def OHD_CURT_FORCE_SAFE : Fld := { kind := .ohd, off := 0x74, lo := 1, w := 1, acc := .rw, mids := [4] }
def OHD_CURT_TEXT_EN : Fld := { kind := .ohd, off := 0x74, lo := 2, w := 1, acc := .rw }
def OHD_CURT_RECOVER : Fld := { kind := .ohd, off := 0x74, lo := 4, w := 4, acc := .rw, rst := fun _ _ => 2, legal := fun v => Nat.ble 1 v }
def OHD_CURT_TEXT_TEXT : Fld := { kind := .ohd, off := 0x80, n := 8, step := 0x4, w := 32, acc := .rw }
def OHD_PREF0_PCLK : Fld := { kind := .ohd, off := 0xa4, w := 16, acc := .ro }
def OHD_PREF0_RATE : Fld := { kind := .ohd, off := 0xa4, lo := 16, w := 16, acc := .ro }
def OHD_PREF1_PCLK : Fld := { kind := .ohd, off := 0xa8, w := 16, acc := .ro }
def OHD_PREF1_RATE : Fld := { kind := .ohd, off := 0xa8, lo := 16, w := 16, acc := .ro }
def OHD_TX_CFG_EN : Fld := { kind := .ohd, off := 0xc0, w := 1, acc := .rws }
def OHD_TX_CFG_DUP_EN : Fld := { kind := .ohd, off := 0xc0, lo := 1, w := 1, acc := .rws }
def OHD_TX_CFG_FAMILY : Fld := { kind := .ohd, off := 0xc0, lo := 2, w := 1, acc := .rws }
def OHD_TX_CFG_NIF : Fld := { kind := .ohd, off := 0xc0, lo := 8, w := 4, acc := .rws }
def OHD_TX_CFG_DUP_NIF : Fld := { kind := .ohd, off := 0xc0, lo := 12, w := 4, acc := .rws }
def OHD_TX_CFG_PT : Fld := { kind := .ohd, off := 0xc0, lo := 16, w := 7, acc := .rws, rst := fun _ _ => 98 }
def OHD_TX_PORT_UDP : Fld := { kind := .ohd, off := 0xc4, w := 16, acc := .rws }
def OHD_TX_LOST_COUNT : Fld := { kind := .ohd, off := 0xc8, w := 32, acc := .ro }
def OHD_TX_ADDR_ADDR : Fld := { kind := .ohd, off := 0xd0, w := 128, acc := .rws }
def OHD_EDID_BYTES : Fld := { kind := .ohd, off := 0x400, n := 256, step := 0x4, w := 32, acc := .ro }

def CRC_CFG_WIDTH : Fld := { kind := .crc, off := 0x40, w := 2, acc := .rws, rst := fun _ _ => 2 }
def CRC_CFG_REFIN : Fld := { kind := .crc, off := 0x40, lo := 2, w := 1, acc := .rws, rst := fun _ _ => 1 }
def CRC_CFG_REFOUT : Fld := { kind := .crc, off := 0x40, lo := 3, w := 1, acc := .rws, rst := fun _ _ => 1 }
def CRC_CFG_FOLD : Fld := { kind := .crc, off := 0x40, lo := 4, w := 2, acc := .rws, legal := fun v => Nat.ble v 2 }
def CRC_CFG_TRIG : Fld := { kind := .crc, off := 0x40, lo := 6, w := 2, acc := .rws, legal := fun v => Nat.ble v 2 }
def CRC_CFG_CMP_EN : Fld := { kind := .crc, off := 0x40, lo := 8, w := 1, acc := .rws }
def CRC_CFG_SEV_CRIT : Fld := { kind := .crc, off := 0x40, lo := 9, w := 1, acc := .rws }
def CRC_CFG_STAGE : Fld := { kind := .crc, off := 0x40, lo := 16, w := 5, acc := .rws, legal := fun v => Nat.ble v 23 }
def CRC_LAYER_LAYER : Fld := { kind := .crc, off := 0x44, w := 12, acc := .rws }
def CRC_POLY_VALUE : Fld := { kind := .crc, off := 0x48, w := 64, acc := .rws, rst := fun _ _ => 79764919 }
def CRC_INIT_VALUE : Fld := { kind := .crc, off := 0x50, w := 64, acc := .rws, rst := fun _ _ => 4294967295 }
def CRC_XOROUT_VALUE : Fld := { kind := .crc, off := 0x58, w := 64, acc := .rws, rst := fun _ _ => 4294967295 }
def CRC_BASE_ADDR : Fld := { kind := .crc, off := 0x60, w := 40, acc := .rws, legal := fun v => v % 8 == 0 }
def CRC_SHAPE_LINE_BYTES : Fld := { kind := .crc, off := 0x68, w := 20, acc := .rws, rst := fun _ _ => 8, legal := fun v => v % 8 == 0 && Nat.ble 8 v }
def CRC_PITCH_PITCH : Fld := { kind := .crc, off := 0x6c, w := 20, acc := .rws, legal := fun v => v % 8 == 0 }
def CRC_LINES_LINES : Fld := { kind := .crc, off := 0x70, w := 16, acc := .rws, rst := fun _ _ => 1, legal := fun v => Nat.ble 1 v }
def CRC_SEQ_VALUE : Fld := { kind := .crc, off := 0x78, w := 64, acc := .rw }
def CRC_EXP_VALUE : Fld := { kind := .crc, off := 0x80, w := 64, acc := .rw }
def CRC_RESULT_VALUE : Fld := { kind := .crc, off := 0x88, w := 64, acc := .ro }
def CRC_STAT_STATE : Fld := { kind := .crc, off := 0x90, w := 2, acc := .ro }
def CRC_STAT_OUTCOME : Fld := { kind := .crc, off := 0x90, lo := 2, w := 3, acc := .ro }
def CRC_STAT_MISMATCHES : Fld := { kind := .crc, off := 0x90, lo := 16, w := 16, acc := .ro }
def CRC_RUNS_COUNT : Fld := { kind := .crc, off := 0x94, w := 32, acc := .ro }
def CRC_OVERRUNS_COUNT : Fld := { kind := .crc, off := 0x98, w := 32, acc := .ro }
def CRC_CTRL_START : Fld := { kind := .crc, off := 0x9c, w := 1, acc := .wo }
def CRC_CTRL_ABORT : Fld := { kind := .crc, off := 0x9c, lo := 1, w := 1, acc := .wo }

def MEM_CH_STAT_READY : Fld := { kind := .memC, off := 0x40, w := 1, acc := .ro }
def MEM_CH_STAT_UTIL : Fld := { kind := .memC, off := 0x40, lo := 8, w := 8, acc := .ro }
def MEM_CH_STAT_URGENT : Fld := { kind := .memC, off := 0x40, lo := 16, w := 8, acc := .ro }
def MEM_CE_COUNT_COUNT : Fld := { kind := .memC, off := 0x44, w := 32, acc := .ro }
def MEM_UE_COUNT_COUNT : Fld := { kind := .memC, off := 0x48, w := 32, acc := .ro }
def MEM_CE_LAST_ADDR : Fld := { kind := .memC, off := 0x50, w := 40, acc := .ro }
def MEM_CE_LAST_MID : Fld := { kind := .memC, off := 0x50, lo := 40, w := 6, acc := .ro }
def MEM_CE_LAST_WRITTEN_BACK : Fld := { kind := .memC, off := 0x50, lo := 46, w := 1, acc := .ro }
def MEM_UE_FIRST_ADDR : Fld := { kind := .memC, off := 0x58, w := 40, acc := .ro }
def MEM_UE_FIRST_MID : Fld := { kind := .memC, off := 0x58, lo := 40, w := 6, acc := .ro }
def MEM_UE_FIRST_VALID : Fld := { kind := .memC, off := 0x58, lo := 63, w := 1, acc := .w1c }
def MEM_HELD_INGEST : Fld := { kind := .memC, off := 0x60, w := 8, acc := .ro }
def MEM_HELD_CODEC : Fld := { kind := .memC, off := 0x60, lo := 8, w := 8, acc := .ro }
def MEM_HELD_SYSTEM : Fld := { kind := .memC, off := 0x60, lo := 16, w := 8, acc := .ro }
def MEM_HELD_SCRUB : Fld := { kind := .memC, off := 0x60, lo := 24, w := 8, acc := .ro }

def MEM_CFG_SCRUB_H : Fld := { kind := .memG, off := 0x40, w := 8, acc := .rwl, rst := fun _ _ => 24, legal := fun v => Nat.ble 1 v }
def MEM_CFG_DL_GUARD : Fld := { kind := .memG, off := 0x40, lo := 8, w := 6, acc := .rwl, rst := fun _ _ => 8, legal := fun v => Nat.ble 1 v }
def MEM_CFG_CE_LIMIT : Fld := { kind := .memG, off := 0x40, lo := 16, w := 16, acc := .rwl, rst := fun _ _ => 100 }
def MEM_WEIGHT0_LFP : Fld := { kind := .memG, off := 0x44, w := 4, acc := .rwl, rst := fun _ _ => 4, legal := fun v => Nat.ble 1 v }
def MEM_WEIGHT0_ING : Fld := { kind := .memG, off := 0x44, lo := 4, w := 4, acc := .rwl, rst := fun _ _ => 4, legal := fun v => Nat.ble 1 v }
def MEM_WEIGHT0_RELAY : Fld := { kind := .memG, off := 0x44, lo := 8, w := 4, acc := .rwl, rst := fun _ _ => 4, legal := fun v => Nat.ble 1 v }
def MEM_WEIGHT0_XSD : Fld := { kind := .memG, off := 0x44, lo := 12, w := 4, acc := .rwl, rst := fun _ _ => 4, legal := fun v => Nat.ble 1 v }
def MEM_WEIGHT0_VDC : Fld := { kind := .memG, off := 0x44, lo := 16, w := 4, acc := .rwl, rst := fun _ _ => 4, legal := fun v => Nat.ble 1 v }
def MEM_WEIGHT0_VEC : Fld := { kind := .memG, off := 0x44, lo := 20, w := 4, acc := .rwl, rst := fun _ _ => 4, legal := fun v => Nat.ble 1 v }
def MEM_WEIGHT0_SYSTEM : Fld := { kind := .memG, off := 0x44, lo := 24, w := 4, acc := .rwl, rst := fun _ _ => 4, legal := fun v => Nat.ble 1 v }
def MEM_SCRUB_PASSES : Fld := { kind := .memG, off := 0x48, w := 16, acc := .ro }
def MEM_SCRUB_PROGRESS : Fld := { kind := .memG, off := 0x48, lo := 16, w := 7, acc := .ro }
def MEM_SCRUB_BEHIND : Fld := { kind := .memG, off := 0x48, lo := 23, w := 1, acc := .ro }
def MEM_SRAM_CE_COUNT : Fld := { kind := .memG, off := 0x4c, w := 32, acc := .ro }
def MEM_SRAM_UE_COUNT : Fld := { kind := .memG, off := 0x50, w := 32, acc := .ro }
def MEM_SRAM_LAST_REGION : Fld := { kind := .memG, off := 0x54, w := 4, acc := .ro }
def MEM_SRAM_LAST_WORD : Fld := { kind := .memG, off := 0x54, lo := 4, w := 23, acc := .ro }

def PAIR_CFG_EN : Fld := { kind := .pair, off := 0x40, w := 1, acc := .rwl, rst := fun _ _ => 1 }
def PAIR_CFG_HANDBACK : Fld := { kind := .pair, off := 0x40, lo := 1, w := 1, acc := .rwl, rst := fun _ _ => 1 }
def PAIR_CFG_SO_ACTION : Fld := { kind := .pair, off := 0x40, lo := 2, w := 1, acc := .rwl, rst := fun _ _ => 1 }
def PAIR_CFG_SYNC_TO : Fld := { kind := .pair, off := 0x40, lo := 4, w := 4, acc := .rwl, rst := fun _ _ => 10, legal := fun v => Nat.ble 1 v }
def PAIR_CFG_HOLDOFF : Fld := { kind := .pair, off := 0x40, lo := 8, w := 8, acc := .rwl, rst := fun _ _ => 10 }
def PAIR_CFG_SETTLE : Fld := { kind := .pair, off := 0x40, lo := 16, w := 8, acc := .rwl, rst := fun _ _ => 10, legal := fun v => Nat.ble 1 v }
def PAIR_CFG_HB_WIN : Fld := { kind := .pair, off := 0x40, lo := 24, w := 8, acc := .rwl, rst := fun _ _ => 10, legal := fun v => Nat.ble 1 v }
def PAIR_CTRL_SWITCH : Fld := { kind := .pair, off := 0x44, w := 1, acc := .wo }
def PAIR_CTRL_CLEAR_FAULT : Fld := { kind := .pair, off := 0x44, lo := 1, w := 1, acc := .wo }
def PAIR_CTRL_RESYNC : Fld := { kind := .pair, off := 0x44, lo := 2, w := 1, acc := .wo }
def PAIR_STAT_PEER_ROLE : Fld := { kind := .pair, off := 0x48, w := 3, acc := .ro }
def PAIR_STAT_PATH_A : Fld := { kind := .pair, off := 0x48, lo := 3, w := 1, acc := .ro }
def PAIR_STAT_PATH_B : Fld := { kind := .pair, off := 0x48, lo := 4, w := 1, acc := .ro }
def PAIR_STAT_OWN_OUT : Fld := { kind := .pair, off := 0x48, lo := 5, w := 1, acc := .ro }
def PAIR_STAT_OWN_IN : Fld := { kind := .pair, off := 0x48, lo := 6, w := 1, acc := .ro }
def PAIR_STAT_READY : Fld := { kind := .pair, off := 0x48, lo := 7, w := 1, acc := .ro }
def PAIR_STAT_PEER_READY : Fld := { kind := .pair, off := 0x48, lo := 8, w := 1, acc := .ro }
def PAIR_STAT_SYNC : Fld := { kind := .pair, off := 0x48, lo := 9, w := 2, acc := .ro }
def PAIR_STAT_WAITING : Fld := { kind := .pair, off := 0x48, lo := 11, w := 1, acc := .ro }
def PAIR_STAT_REFUSED : Fld := { kind := .pair, off := 0x48, lo := 12, w := 1, acc := .ro }
def PAIR_STAT_REFUSE_CAUSE : Fld := { kind := .pair, off := 0x48, lo := 13, w := 2, acc := .ro }
def PAIR_STAT_DR_FAULT : Fld := { kind := .pair, off := 0x48, lo := 15, w := 1, acc := .ro }
def PAIR_STAT_PEER_DR_FAULT : Fld := { kind := .pair, off := 0x48, lo := 16, w := 1, acc := .ro }
def PAIR_STAT_RELEASE : Fld := { kind := .pair, off := 0x48, lo := 17, w := 1, acc := .ro }
def PAIR_STAT_TAKE : Fld := { kind := .pair, off := 0x48, lo := 18, w := 1, acc := .ro }
def PAIR_EPOCH_EPOCH : Fld := { kind := .pair, off := 0x4c, w := 32, acc := .ro }
def PAIR_COMMITTED_EPOCH : Fld := { kind := .pair, off := 0x50, w := 32, acc := .ro }
def PAIR_EPOCH_FILL_BYTES : Fld := { kind := .pair, off := 0x54, w := 23, acc := .ro }
def PAIR_EPOCH_FILL_HELD : Fld := { kind := .pair, off := 0x54, lo := 31, w := 1, acc := .ro }
def PAIR_TAKEOVER_TIME : Fld := { kind := .pair, off := 0x60, w := 64, acc := .ro }
def PAIR_TAKEOVER_BASE : Fld := { kind := .pair, off := 0x68, w := 32, acc := .ro }
def PAIR_TAKEOVER_CAUSE : Fld := { kind := .pair, off := 0x6c, w := 4, acc := .ro }
def PAIR_TAKEOVER_OUTCOME : Fld := { kind := .pair, off := 0x6c, lo := 4, w := 2, acc := .ro }
def PAIR_DR_MISMATCHES_COUNT : Fld := { kind := .pair, off := 0x70, w := 32, acc := .ro }
def PAIR_DR_EXCLUDED_COUNT : Fld := { kind := .pair, off := 0x74, w := 32, acc := .ro }
def PAIR_SO_LAST_OUTCOME : Fld := { kind := .pair, off := 0x78, w := 3, acc := .ro }
def PAIR_SO_LAST_STAGE : Fld := { kind := .pair, off := 0x78, lo := 3, w := 5, acc := .ro }
def PAIR_SO_LAST_TILE : Fld := { kind := .pair, off := 0x78, lo := 8, w := 13, acc := .ro }
def PAIR_HEADFAIL_HEADS : Fld := { kind := .pair, off := 0x7c, w := 24, acc := .ro }
def PAIR_HB_LOSSES_PATH_A : Fld := { kind := .pair, off := 0x80, w := 16, acc := .ro }
def PAIR_HB_LOSSES_PATH_B : Fld := { kind := .pair, off := 0x80, lo := 16, w := 16, acc := .ro }

def CHN_CFG_EN : Fld := { kind := .chn, off := 0x40, w := 1, acc := .rw, rst := fun _ _ => 1 }
def CHN_CFG_CAP_PERIOD : Fld := { kind := .chn, off := 0x40, lo := 8, w := 8, acc := .rw, rst := fun _ _ => 10, legal := fun v => Nat.ble 1 v }
def CHN_STAT_STATE : Fld := { kind := .chn, off := 0x44, w := 3, acc := .ro }
def CHN_STAT_REFUSED : Fld := { kind := .chn, off := 0x44, lo := 3, w := 1, acc := .ro }
def CHN_STAT_CAUSE : Fld := { kind := .chn, off := 0x44, lo := 4, w := 4, acc := .ro }
def CHN_STAT_PEER_PORT : Fld := { kind := .chn, off := 0x44, lo := 8, w := 2, acc := .ro }
def CHN_STAT_PEER_EJECTING : Fld := { kind := .chn, off := 0x44, lo := 10, w := 1, acc := .ro }
def CHN_STAT_SKEW : Fld := { kind := .chn, off := 0x44, lo := 16, w := 16, acc := .ro }
def CHN_LAT_TX : Fld := { kind := .chn, off := 0x48, w := 16, acc := .ro, rst := fun _ _ => 380 }
def CHN_LAT_RX : Fld := { kind := .chn, off := 0x48, lo := 16, w := 16, acc := .ro, rst := fun _ _ => 960 }
def CHN_FRAMES_TX_COUNT : Fld := { kind := .chn, off := 0x4c, w := 32, acc := .ro }
def CHN_FRAMES_RX_COUNT : Fld := { kind := .chn, off := 0x50, w := 32, acc := .ro }
def CHN_CRC_ERR_COUNT : Fld := { kind := .chn, off := 0x54, w := 32, acc := .ro }
def CHN_DISCARDED_COUNT : Fld := { kind := .chn, off := 0x58, w := 32, acc := .ro }
def CHN_EXPRESS_RX_COUNT : Fld := { kind := .chn, off := 0x5c, w := 32, acc := .ro }
def CHN_PEER_WORD : Fld := { kind := .chn, off := 0x100, n := 16, step := 0x4, w := 32, acc := .ro }
def CHN_OWN_WORD : Fld := { kind := .chn, off := 0x140, n := 16, step := 0x4, w := 32, acc := .ro }

def ENS_CFG_EN : Fld := { kind := .ens, off := 0x40, w := 1, acc := .rwl, rst := fun _ _ => 1 }
def ENS_CFG_CANDIDATE : Fld := { kind := .ens, off := 0x40, lo := 1, w := 1, acc := .rwl, rst := fun _ _ => 1 }
def ENS_CFG_UPLINK : Fld := { kind := .ens, off := 0x40, lo := 2, w := 1, acc := .rwl }
def ENS_CFG_SETTLE : Fld := { kind := .ens, off := 0x40, lo := 8, w := 8, acc := .rwl, rst := fun _ _ => 2, legal := fun v => Nat.ble 1 v }
def ENS_STAT_STATE : Fld := { kind := .ens, off := 0x44, w := 3, acc := .ro }
def ENS_STAT_LEAD : Fld := { kind := .ens, off := 0x44, lo := 3, w := 1, acc := .ro }
def ENS_STAT_ANCHOR : Fld := { kind := .ens, off := 0x44, lo := 4, w := 1, acc := .ro }
def ENS_STAT_CLOSED : Fld := { kind := .ens, off := 0x44, lo := 5, w := 1, acc := .ro }
def ENS_STAT_ISOLATED : Fld := { kind := .ens, off := 0x44, lo := 6, w := 1, acc := .ro }
def ENS_STAT_LEVEL : Fld := { kind := .ens, off := 0x44, lo := 8, w := 2, acc := .ro }
def ENS_STAT_LEAD_POS : Fld := { kind := .ens, off := 0x44, lo := 10, w := 3, acc := .ro }
def ENS_STAT_MEMBERS : Fld := { kind := .ens, off := 0x44, lo := 16, w := 8, acc := .ro }
def ENS_WIN_PATH : Fld := { kind := .ens, off := 0x60, n := 7, step := 0x4, w := 12, acc := .rwl }
def ENS_WIN_DEPTH : Fld := { kind := .ens, off := 0x60, n := 7, step := 0x4, lo := 12, w := 2, acc := .rwl }
def ENS_WIN_VALID : Fld := { kind := .ens, off := 0x60, n := 7, step := 0x4, lo := 14, w := 1, acc := .rwl }
def ENS_BOUNDARY_TIME : Fld := { kind := .ens, off := 0x80, w := 64, acc := .ro }
def ENS_GCUE_LAST_GROUP : Fld := { kind := .ens, off := 0x88, w := 6, acc := .ro }
def ENS_GCUE_LAST_REFUSERS : Fld := { kind := .ens, off := 0x88, lo := 8, w := 8, acc := .ro }
def ENS_GCUE_LAST_REFUSED : Fld := { kind := .ens, off := 0x88, lo := 16, w := 1, acc := .ro }
def ENS_RELAY_LOAD_PORT1 : Fld := { kind := .ens, off := 0x8c, w := 16, acc := .ro }
def ENS_RELAY_LOAD_PORT2 : Fld := { kind := .ens, off := 0x8c, lo := 16, w := 16, acc := .ro }
def ENS_RELAY_FRAMES_COUNT : Fld := { kind := .ens, off := 0x90, w := 32, acc := .ro }
def ENS_RELAY_FAILED_COUNT : Fld := { kind := .ens, off := 0x94, w := 32, acc := .ro }

def SIG_STATE_STATE0 : Fld := { kind := .sig, off := 0x40, n := 2, step := 0x4, w := 3, acc := .ro, rst := fun _ _ => 5 }
def SIG_STATE_STATE1 : Fld := { kind := .sig, off := 0x40, n := 2, step := 0x4, lo := 4, w := 3, acc := .ro, rst := fun _ _ => 5 }
def SIG_STATE_STATE2 : Fld := { kind := .sig, off := 0x40, n := 2, step := 0x4, lo := 8, w := 3, acc := .ro, rst := fun _ _ => 5 }
def SIG_STATE_STATE3 : Fld := { kind := .sig, off := 0x40, n := 2, step := 0x4, lo := 12, w := 3, acc := .ro, rst := fun _ _ => 5 }
def SIG_STATE_STATE4 : Fld := { kind := .sig, off := 0x40, n := 2, step := 0x4, lo := 16, w := 3, acc := .ro, rst := fun _ _ => 5 }
def SIG_STATE_STATE5 : Fld := { kind := .sig, off := 0x40, n := 2, step := 0x4, lo := 20, w := 3, acc := .ro, rst := fun _ _ => 5 }
def SIG_STATE_STATE6 : Fld := { kind := .sig, off := 0x40, n := 2, step := 0x4, lo := 24, w := 3, acc := .ro, rst := fun _ _ => 5 }
def SIG_STATE_STATE7 : Fld := { kind := .sig, off := 0x40, n := 2, step := 0x4, lo := 28, w := 3, acc := .ro, rst := fun _ _ => 5 }
def SIG_STATE_ASSERTED0 : Fld := { kind := .sig, off := 0x40, n := 2, step := 0x4, lo := 3, w := 1, acc := .ro }
def SIG_STATE_ASSERTED1 : Fld := { kind := .sig, off := 0x40, n := 2, step := 0x4, lo := 7, w := 1, acc := .ro }
def SIG_STATE_ASSERTED2 : Fld := { kind := .sig, off := 0x40, n := 2, step := 0x4, lo := 11, w := 1, acc := .ro }
def SIG_STATE_ASSERTED3 : Fld := { kind := .sig, off := 0x40, n := 2, step := 0x4, lo := 15, w := 1, acc := .ro }
def SIG_STATE_ASSERTED4 : Fld := { kind := .sig, off := 0x40, n := 2, step := 0x4, lo := 19, w := 1, acc := .ro }
def SIG_STATE_ASSERTED5 : Fld := { kind := .sig, off := 0x40, n := 2, step := 0x4, lo := 23, w := 1, acc := .ro }
def SIG_STATE_ASSERTED6 : Fld := { kind := .sig, off := 0x40, n := 2, step := 0x4, lo := 27, w := 1, acc := .ro }
def SIG_STATE_ASSERTED7 : Fld := { kind := .sig, off := 0x40, n := 2, step := 0x4, lo := 31, w := 1, acc := .ro }
def SIG_RAW_ACTIVE : Fld := { kind := .sig, off := 0x48, w := 16, acc := .ro }
def SIG_SUPPRESSED_COUNT : Fld := { kind := .sig, off := 0x4c, w := 16, acc := .ro }
def SIG_SUPPRESSED_CLEAR : Fld := { kind := .sig, off := 0x4c, lo := 31, w := 1, acc := .wo }
def SIG_CFG_EN : Fld := { kind := .sig, off := 0x100, n := 16, step := 0x8, w := 1, acc := .rw }
def SIG_CFG_ACTIVE_HIGH : Fld := { kind := .sig, off := 0x100, n := 16, step := 0x8, lo := 1, w := 1, acc := .rw }
def SIG_CFG_DEBOUNCE : Fld := { kind := .sig, off := 0x100, n := 16, step := 0x8, lo := 2, w := 8, acc := .rw, rst := fun _ _ => 20, legal := fun v => Nat.ble 1 v }
def SIG_CFG_CH_N : Fld := { kind := .sig, off := 0x100, n := 16, step := 0x8, lo := 10, w := 5, acc := .rw, rst := fun _ _ => 6, legal := fun v => Nat.ble 2 v }
def SIG_CFG_CH_WIN : Fld := { kind := .sig, off := 0x100, n := 16, step := 0x8, lo := 16, w := 8, acc := .rw, rst := fun _ _ => 10, legal := fun v => Nat.ble 1 v }
def SIG_STUCK_STUCK_T : Fld := { kind := .sig, off := 0x104, n := 16, step := 0x8, w := 17, acc := .rw, rst := fun _ _ => 3600, legal := fun v => Nat.ble 1 v && Nat.ble v 86400 }

def DBG_STAT_USED : Fld := { kind := .dbg, off := 0x40, w := 1, acc := .ro }
def DBG_STAT_ADMITTED : Fld := { kind := .dbg, off := 0x40, lo := 1, w := 1, acc := .ro }
def DBG_STAT_SLOTS : Fld := { kind := .dbg, off := 0x40, lo := 2, w := 9, acc := .ro }
def DBG_USES_COUNT : Fld := { kind := .dbg, off := 0x44, w := 32, acc := .ro }
def DBG_LAST_ADDR : Fld := { kind := .dbg, off := 0x48, w := 26, acc := .ro }
def DBG_LAST_SLOT : Fld := { kind := .dbg, off := 0x48, lo := 26, w := 9, acc := .ro }
def DBG_LAST_WRITE : Fld := { kind := .dbg, off := 0x48, lo := 35, w := 1, acc := .ro }
def DBG_IDCODE_IDCODE : Fld := { kind := .dbg, off := 0x50, w := 32, acc := .ro }

def LD_CTRL_VALID : Fld := { kind := .ld, off := 0x0, w := 1, acc := .rws }
def LD_CTRL_PROSC : Fld := { kind := .ld, off := 0x0, lo := 1, w := 1, acc := .rws }
def LD_CTRL_SOURCE : Fld := { kind := .ld, off := 0x0, lo := 2, w := 2, acc := .ro }
def LD_CTRL_POLICY : Fld := { kind := .ld, off := 0x0, lo := 4, w := 6, acc := .rws }
def LD_CTRL_CUE_GRP : Fld := { kind := .ld, off := 0x0, lo := 10, w := 6, acc := .rws }
def LD_CTRL_COMPRESSED : Fld := { kind := .ld, off := 0x0, lo := 16, w := 1, acc := .rws }
def LD_CTRL_ALPHA_MODE : Fld := { kind := .ld, off := 0x0, lo := 17, w := 3, acc := .rws, legal := fun v => Nat.ble v 3 }
def LD_CTRL_NBUF : Fld := { kind := .ld, off := 0x0, lo := 20, w := 2, acc := .rws, rst := fun _ _ => 3, legal := fun v => Nat.ble 1 v }
def LD_FMT_FORMAT : Fld := { kind := .ld, off := 0x4, w := 6, acc := .rws, rst := fun _ _ => 1 }
def LD_FMT_CSC : Fld := { kind := .ld, off := 0x4, lo := 8, w := 3, acc := .rws, legal := fun v => Nat.ble v 4 }
def LD_FMT_RANGE : Fld := { kind := .ld, off := 0x4, lo := 11, w := 1, acc := .rws, rst := fun _ _ => 1 }
def LD_SIZE_WIDTH : Fld := { kind := .ld, off := 0x8, w := 13, acc := .rws, legal := fun v => Nat.ble 16 v && Nat.ble v 7680 }
def LD_SIZE_HEIGHT : Fld := { kind := .ld, off := 0x8, lo := 16, w := 13, acc := .rws, legal := fun v => Nat.ble 16 v && Nat.ble v 4320 }
def LD_PITCH_PITCH : Fld := { kind := .ld, off := 0xc, w := 20, acc := .rws }
def LD_BUF_ADDR : Fld := { kind := .ld, off := 0x10, n := 3, step := 0x8, w := 64, acc := .rws }
def LD_PLANE2_OFFSET : Fld := { kind := .ld, off := 0x28, w := 32, acc := .rws }
def LD_PUBLISH_BUF : Fld := { kind := .ld, off := 0x2c, w := 2, acc := .rw }
def LD_PUBLISH_CHANGED : Fld := { kind := .ld, off := 0x2c, lo := 2, w := 1, acc := .rw }
def LD_PUBLISH_PUB : Fld := { kind := .ld, off := 0x2c, lo := 31, w := 1, acc := .wo }
def LD_CROP_XY_X : Fld := { kind := .ld, off := 0x30, w := 13, acc := .rws }
def LD_CROP_XY_Y : Fld := { kind := .ld, off := 0x30, lo := 16, w := 13, acc := .rws }
def LD_CROP_WH_W : Fld := { kind := .ld, off := 0x34, w := 13, acc := .rws }
def LD_CROP_WH_H : Fld := { kind := .ld, off := 0x34, lo := 16, w := 13, acc := .rws }
def LD_DST_XY_X : Fld := { kind := .ld, off := 0x38, w := 14, acc := .rws }
def LD_DST_XY_Y : Fld := { kind := .ld, off := 0x38, lo := 16, w := 14, acc := .rws }
def LD_DST_WH_W : Fld := { kind := .ld, off := 0x3c, w := 14, acc := .rws }
def LD_DST_WH_H : Fld := { kind := .ld, off := 0x3c, lo := 16, w := 14, acc := .rws }
def LD_XFORM_ROT : Fld := { kind := .ld, off := 0x40, w := 2, acc := .rws }
def LD_XFORM_MIRROR : Fld := { kind := .ld, off := 0x40, lo := 2, w := 1, acc := .rws }
def LD_XFORM_FILTER : Fld := { kind := .ld, off := 0x40, lo := 3, w := 2, acc := .rws, legal := fun v => Nat.ble v 2 }
def LD_XFORM_DECIM_OK : Fld := { kind := .ld, off := 0x40, lo := 5, w := 1, acc := .rws, rst := fun _ _ => 1 }
def LD_XFORM_ALPHA : Fld := { kind := .ld, off := 0x40, lo := 16, w := 10, acc := .rws, rst := fun _ _ => 1023 }
def LD_PHASE_HOFF : Fld := { kind := .ld, off := 0x44, w := 16, acc := .rws }
def LD_PHASE_VOFF : Fld := { kind := .ld, off := 0x44, lo := 16, w := 16, acc := .rws }
def LD_CSC_C00 : Fld := { kind := .ld, off := 0x50, w := 16, acc := .rws, rst := fun _ _ => 4096 }
def LD_CSC_C01 : Fld := { kind := .ld, off := 0x50, lo := 16, w := 16, acc := .rws }
def LD_CSC_C02 : Fld := { kind := .ld, off := 0x54, w := 16, acc := .rws }
def LD_CSC_C10 : Fld := { kind := .ld, off := 0x54, lo := 16, w := 16, acc := .rws }
def LD_CSC_C11 : Fld := { kind := .ld, off := 0x58, w := 16, acc := .rws, rst := fun _ _ => 4096 }
def LD_CSC_C12 : Fld := { kind := .ld, off := 0x58, lo := 16, w := 16, acc := .rws }
def LD_CSC_C20 : Fld := { kind := .ld, off := 0x5c, w := 16, acc := .rws }
def LD_CSC_C21 : Fld := { kind := .ld, off := 0x5c, lo := 16, w := 16, acc := .rws }
def LD_CSC_C22 : Fld := { kind := .ld, off := 0x60, w := 16, acc := .rws, rst := fun _ _ => 4096 }
def LD_CSC_IOFF0 : Fld := { kind := .ld, off := 0x60, lo := 16, w := 16, acc := .rws }
def LD_CSC_IOFF1 : Fld := { kind := .ld, off := 0x64, w := 16, acc := .rws }
def LD_CSC_IOFF2 : Fld := { kind := .ld, off := 0x64, lo := 16, w := 16, acc := .rws }
def LD_STAT_NEWEST : Fld := { kind := .ld, off := 0x80, w := 2, acc := .ro, rst := fun _ _ => 3 }
def LD_STAT_HELD : Fld := { kind := .ld, off := 0x80, lo := 2, w := 3, acc := .ro }
def LD_STAT_OLD_HELD : Fld := { kind := .ld, off := 0x80, lo := 5, w := 1, acc := .ro }
def LD_STAT_DECIM : Fld := { kind := .ld, off := 0x80, lo := 6, w := 2, acc := .ro }
def LD_STAT_UNFIT : Fld := { kind := .ld, off := 0x80, lo := 8, w := 1, acc := .ro }
def LD_STAT_STAGED : Fld := { kind := .ld, off := 0x80, lo := 9, w := 1, acc := .ro }
def LD_FRAME_WH_W : Fld := { kind := .ld, off := 0x84, w := 13, acc := .ro }
def LD_FRAME_WH_H : Fld := { kind := .ld, off := 0x84, lo := 16, w := 13, acc := .ro }
def LD_USER_TAG : Fld := { kind := .ld, off := 0xa0, n := 24, step := 0x4, w := 32, acc := .rw }

def SC_CTRL_VALID : Fld := { kind := .sc, off := 0x0, w := 1, acc := .rws }
def SC_CTRL_CUE_GRP : Fld := { kind := .sc, off := 0x0, lo := 8, w := 6, acc := .rws }
def SC_CTRL_COUNT : Fld := { kind := .sc, off := 0x0, lo := 16, w := 6, acc := .rws, legal := fun v => Nat.ble v 56 }
def SC_OFFSET_X : Fld := { kind := .sc, off := 0x4, w := 14, acc := .rws }
def SC_OFFSET_Y : Fld := { kind := .sc, off := 0x4, lo := 16, w := 14, acc := .rws }
def SC_CLIP_XY_X : Fld := { kind := .sc, off := 0x8, w := 14, acc := .rws }
def SC_CLIP_XY_Y : Fld := { kind := .sc, off := 0x8, lo := 16, w := 14, acc := .rws }
def SC_CLIP_WH_W : Fld := { kind := .sc, off := 0xc, w := 14, acc := .rws }
def SC_CLIP_WH_H : Fld := { kind := .sc, off := 0xc, lo := 16, w := 14, acc := .rws }
def SC_ALPHA_ALPHA : Fld := { kind := .sc, off := 0x10, w := 10, acc := .rws, rst := fun _ _ => 1023 }
def SC_CHILD_INDEX : Fld := { kind := .sc, off := 0x20, n := 56, step := 0x4, w := 12, acc := .rws }
def SC_CHILD_KIND : Fld := { kind := .sc, off := 0x20, n := 56, step := 0x4, lo := 12, w := 1, acc := .rws }
def SC_CHILD_HIDE : Fld := { kind := .sc, off := 0x20, n := 56, step := 0x4, lo := 13, w := 1, acc := .rws }

end Sys2Proof.Machine.F

namespace Sys2Proof.Machine

/-- Part 0 of the fields of the `hdr` tables. -/
def fields_hdr_0 : List Fld :=
  [F.PG_ID_LAYOUT, F.PG_ID_INST, F.PG_ID_TYPE, F.PG_CAPS_BLOCK, F.PG_CAPS_STAGED, F.PG_CAPS_LOCKABLE, F.PG_CAPS_RESETTABLE, F.PG_CTRL_ENABLE, F.PG_CTRL_SOFT_RESET, F.PG_CTRL_CUE_GRP, F.PG_CTRL_GRP_EN, F.PG_STAT_ENABLED, F.PG_STAT_RESET_BUSY, F.PG_STAT_STAGED, F.PG_STAT_ARMED, F.PG_STAT_BLOCK, F.PG_EVT_ERROR, F.PG_EVT_CUE_DONE, F.PG_EVT_CUE_REFUSED, F.PG_EVT_RESET_DONE, F.PG_EVT_BLOCK, F.PG_EVT_EN_ERROR, F.PG_EVT_EN_CUE_DONE, F.PG_EVT_EN_CUE_REFUSED, F.PG_EVT_EN_RESET_DONE, F.PG_EVT_EN_BLOCK, F.PG_ERRCNT_COUNT, F.PG_ERRCNT_CLEAR, F.PG_FIRST_ERR_CODE, F.PG_FIRST_ERR_DETAIL]
/-- Part 1 of the fields of the `hdr` tables. -/
def fields_hdr_1 : List Fld :=
  [F.PG_FIRST_ERR_SEV, F.PG_FIRST_ERR_VALID, F.PG_CUE_POINT, F.PG_CUE_STAGE, F.PG_CUE_ARM, F.PG_CUE_DISARM, F.PG_CUE_DISCARD, F.PG_CUE_SEQ, F.PG_LOCK_LOCKED, F.PG_LOCK_OWNER, F.PG_LOCK_DEBUG_ADMITTED, F.PG_LOCK_EPOCH]
/-- Every field of the `hdr` register tables, in the order of the spec. -/
def fields_hdr : List Fld := fields_hdr_0 ++ fields_hdr_1

/-- Part 0 of the fields of the `sys` tables. -/
def fields_sys_0 : List Fld :=
  [F.SYS_SWIN_BASE, F.SYS_SWIN_SPACE, F.SYS_FSWIN_BASE, F.SYS_GCUE_GROUP, F.SYS_GCUE_POINT, F.SYS_GCUE_STAGE, F.SYS_GCUE_ARM, F.SYS_GCUE_DISARM, F.SYS_GCUE_BUSY_LO_ARMED, F.SYS_GCUE_BUSY_HI_ARMED, F.SYS_GCUE_LAST_GROUP, F.SYS_GCUE_LAST_REASON, F.SYS_GCUE_LAST_REFUSED, F.SYS_PART_PART, F.SYS_VARIANT_FITTED_GIB, F.SYS_VARIANT_USABLE_GIB, F.SYS_VARIANT_GRADE, F.SYS_SILICON_STEP_NUM, F.SYS_SILICON_STEP_LETTER, F.SYS_BOARD_BOARD, F.SYS_SERIAL_LO_SERIAL, F.SYS_SERIAL_HI_SERIAL, F.SYS_MC_VER_MINOR, F.SYS_MC_VER_MAJOR, F.SYS_STRAPS_SEAT, F.SYS_STRAPS_SLOT, F.SYS_STRAPS_ENS_POS, F.SYS_HOST_CLAIM_CLAIM, F.SYS_HOST_CLAIM_BY, F.SYS_ROLE_ROLE]
/-- Part 1 of the fields of the `sys` tables. -/
def fields_sys_1 : List Fld :=
  [F.SYS_ROLE_PREV, F.SYS_STAT_OPERATING, F.SYS_STAT_SHOW, F.SYS_STAT_RESET_CAUSE, F.SYS_STAT_STRAP_DIFF, F.SYS_STAT_EJECTING, F.SYS_UPTIME_SECONDS, F.SYS_OPER_TIME_TIME, F.SYS_RESET_KEY, F.SYS_SHOW_STAT_SESSIONS, F.SYS_SHOW_STAT_JOINED, F.SYS_SHOW_STAT_HEADS, F.SYS_SHOW_STAT_DROPPED]
/-- Every field of the `sys` register tables, in the order of the spec. -/
def fields_sys : List Fld := fields_sys_0 ++ fields_sys_1

/-- Part 0 of the fields of the `err` tables. -/
def fields_err_0 : List Fld :=
  [F.ERR_CFG_MIN_SEV, F.ERR_CFG_SAFE_MIN_SEV, F.ERR_CFG_CLR_LOST, F.ERR_WR_IDX_IDX, F.ERR_RD_IDX_IDX, F.ERR_STAT_UNREAD, F.ERR_STAT_MOVES, F.ERR_LOST_A_INFO, F.ERR_LOST_A_NOTICE, F.ERR_LOST_A_WARNING, F.ERR_LOST_A_ERROR, F.ERR_LOST_B_CRITICAL, F.ERR_LOST_B_FATAL, F.ERR_SQ_STAT_COUNT, F.ERR_SQ_STAT_LOST, F.ERR_SQ_DATA_WORD, F.ERR_FATAL_WORD]
/-- Every field of the `err` register tables, in the order of the spec. -/
def fields_err : List Fld := fields_err_0

/-- Part 0 of the fields of the `acg0` tables. -/
def fields_acg0_0 : List Fld :=
  [F.ACG_MODE_MODE, F.ACG_MODE_STRAP, F.ACG_MODE_SAVED, F.ACG_EPOCH_VALUE, F.ACG_DIGEST_VALUE, F.ACG_FENCE_DRAINED, F.ACG_FENCE_OLDEST, F.ACG_PROP_CTRL_OPEN, F.ACG_PROP_CTRL_SUBMIT, F.ACG_PROP_CTRL_WITHDRAW, F.ACG_PROP_CTRL_REJECT, F.ACG_PROP_DIGEST_DIGEST, F.ACG_PROP_SIGN_DIGEST, F.ACG_PROP_STAT_STATE, F.ACG_PROP_STAT_PROPOSER, F.ACG_PROP_STAT_CAUSE, F.ACG_PROP_STAT_DETAIL, F.ACG_PROP_STAT_DETAIL2, F.ACG_PROP_SEQ_VALUE, F.ACG_PROP_LEFT_VALUE, F.ACG_VIOL_COUNT_COUNT, F.ACG_VIOL_COUNT_CLEAR, F.ACG_VFIRST_W0, F.ACG_VFIRST_W1, F.ACG_VFIRST_W2, F.ACG_VFIRST_W3, F.ACG_VFIRST_VALID]
/-- Every field of the `acg0` register tables, in the order of the spec. -/
def fields_acg0 : List Fld := fields_acg0_0

/-- Part 0 of the fields of the `acg3` tables. -/
def fields_acg3_0 : List Fld :=
  [F.ACG_VLOG_WR_IDX]
/-- Every field of the `acg3` register tables, in the order of the spec. -/
def fields_acg3 : List Fld := fields_acg3_0

/-- Part 0 of the fields of the `thm` tables. -/
def fields_thm_0 : List Fld :=
  [F.THM_STAT_LEVEL, F.THM_STAT_STEP, F.THM_STAT_HOT, F.THM_STAT_FAILED, F.THM_STAT_HOT_DIE, F.THM_CFG_HYST, F.THM_CFG_TEST_STEP, F.THM_THRESH_L1, F.THM_THRESH_L2, F.THM_THRESH_L3, F.THM_THRESH_L4, F.THM_AGE_SLOWDOWN, F.THM_AGE_LIFE_USED, F.THM_THROTTLED_SECONDS, F.THM_TEMP_TEMP, F.THM_TEMP_LEVEL, F.THM_TEMP_FAILED]
/-- Every field of the `thm` register tables, in the order of the spec. -/
def fields_thm : List Fld := fields_thm_0

/-- Part 0 of the fields of the `hsw` tables. -/
def fields_hsw_0 : List Fld :=
  [F.HSW_STAT_STATE, F.HSW_STAT_PRESENT, F.HSW_STAT_EJECT, F.HSW_STAT_PG12, F.HSW_STAT_AUX_OK, F.HSW_VIN_VALUE, F.HSW_IIN_VALUE, F.HSW_PIN_VALUE, F.HSW_LIMITS_UV_WARN, F.HSW_LIMITS_UV_OFF, F.HSW_LIMITS_OV_OFF, F.HSW_LIMITS_ITRIP, F.HSW_CTRL_EJECT, F.HSW_FAULT_CODE, F.HSW_FAULT_COUNT, F.HSW_FAULT_VALID, F.HSW_LIFE_INSERTIONS, F.HSW_LIFE_KHOURS]
/-- Every field of the `hsw` register tables, in the order of the spec. -/
def fields_hsw : List Fld := fields_hsw_0

/-- Part 0 of the fields of the `clkG` tables. -/
def fields_clkG_0 : List Fld :=
  [F.CLK_CFG_MODE, F.CLK_CFG_FORCE_REF, F.CLK_CFG_FOLLOW, F.CLK_CFG_STEP_EN, F.CLK_CFG_SLEW_MAX, F.CLK_SEL_WTR, F.CLK_SEL_SWITCH_PH, F.CLK_QUARREL_PHASE_T, F.CLK_QUARREL_FREQ_T, F.CLK_STEP_STEP_T, F.CLK_HO_CFG_LIMIT, F.CLK_GUARD_WARN_T, F.CLK_GUARD_DISQ_T, F.CLK_GUARD_GUARD_BW, F.CLK_STAT_STATE, F.CLK_STAT_SEL, F.CLK_STAT_SEL_VALID, F.CLK_STAT_UNCERTAIN, F.CLK_STAT_TOD_VALID, F.CLK_STAT_TRACE, F.CLK_STAT_LEARNED, F.CLK_STAT_BW_ACT, F.CLK_STAT_QUALITY_OUT, F.CLK_HO_TIME_INTERVAL, F.CLK_HO_QUAL_INTERVAL, F.CLK_DCO_FREQ, F.CLK_DCO_HO_FREQ, F.CLK_AGEING_RATE, F.CLK_OCXO_TEMP, F.CLK_OCXO_BINS]
/-- Part 1 of the fields of the `clkG` tables. -/
def fields_clkG_1 : List Fld :=
  [F.CLK_OCXO_WARM, F.CLK_LEARN_SAVE, F.CLK_LEARN_CLEAR, F.CLK_LEARN_SAVED_H, F.CLK_NOW_TIME, F.CLK_TOD_SEC_SEC, F.CLK_TOD_SEC_APPLY, F.CLK_UTC_OFFSET, F.CLK_UTC_ACT]
/-- Every field of the `clkG` register tables, in the order of the spec. -/
def fields_clkG : List Fld := fields_clkG_0 ++ fields_clkG_1

/-- Part 0 of the fields of the `clkR` tables. -/
def fields_clkR_0 : List Fld :=
  [F.CLK_REF_CFG_EN, F.CLK_REF_CFG_PRIORITY, F.CLK_REF_CFG_QUALITY, F.CLK_REF_CFG_BW, F.CLK_REF_CFG_TRACE, F.CLK_REF_CFG_DG_EN, F.CLK_REF_PTP_NIF, F.CLK_REF_PTP_PROFILE, F.CLK_REF_PTP_TRANSPORT, F.CLK_REF_PTP_DREQ_UNICAST, F.CLK_REF_PTP_DOMAIN, F.CLK_REF_PTP_ANN_TO, F.CLK_REF_IN_FORMAT, F.CLK_REF_DELAY_DELAY, F.CLK_REF_TOL_TOL, F.CLK_REF_TOL_QUAL_T, F.CLK_REF_STAT_STATE, F.CLK_REF_STAT_WATCH, F.CLK_REF_STAT_QUARREL, F.CLK_REF_STAT_OUTVOTED, F.CLK_REF_STAT_DRIFT_DQ, F.CLK_REF_STAT_LOOP, F.CLK_REF_STAT_QUALITY, F.CLK_REF_STAT_CLASS, F.CLK_REF_STAT_ACC, F.CLK_REF_OFFSET_OFFSET, F.CLK_REF_FREQ_FREQ, F.CLK_REF_TREND_SLOPE, F.CLK_REF_TREND_CROSS, F.CLK_REF_GM_IDENTITY]
/-- Part 1 of the fields of the `clkR` tables. -/
def fields_clkR_1 : List Fld :=
  [F.CLK_REF_COUNT_LOSSES, F.CLK_REF_COUNT_QUARRELS]
/-- Every field of the `clkR` register tables, in the order of the spec. -/
def fields_clkR : List Fld := fields_clkR_0 ++ fields_clkR_1

/-- Part 0 of the fields of the `lane` tables. -/
def fields_lane_0 : List Fld :=
  [F.LANE_CFG_TX_INV, F.LANE_CFG_RX_INV_AUTO, F.LANE_CFG_TX_FIXED, F.LANE_CFG_LOOP, F.LANE_CFG_PRESET_PRE, F.LANE_CFG_PRESET_POST, F.LANE_TX_ACT_PRE, F.LANE_TX_ACT_POST, F.LANE_TX_ACT_MAIN, F.LANE_STAT_STATE, F.LANE_STAT_LAST_FAIL, F.LANE_STAT_SIGNAL, F.LANE_STAT_RX_INV, F.LANE_STAT_ATTEMPTS, F.LANE_STAT_BACKOFF_MS, F.LANE_STAT_LOGICAL, F.LANE_FEC_CORR_COUNT, F.LANE_FEC_UNCORR_COUNT, F.LANE_HDR_ERR_COUNT, F.LANE_DOWNS_COUNT, F.LANE_EYE_CTRL_START, F.LANE_EYE_CTRL_ABORT, F.LANE_EYE_CTRL_EYE, F.LANE_EYE_CTRL_PH_N, F.LANE_EYE_CTRL_V_N, F.LANE_EYE_CTRL_PH_STEP, F.LANE_EYE_CTRL_V_STEP, F.LANE_EYE_CTRL_DWELL, F.LANE_EYE_STAT_BUSY, F.LANE_EYE_STAT_DONE]
/-- Part 1 of the fields of the `lane` tables. -/
def fields_lane_1 : List Fld :=
  [F.LANE_EYE_STAT_ABORTED, F.LANE_EYE_STAT_REFUSED, F.LANE_EYE_STAT_POINTS, F.LANE_MARGIN_WIDTH, F.LANE_MARGIN_HEIGHT, F.LANE_MARGIN_BASE_WIDTH, F.LANE_MARGIN_BASE_HEIGHT, F.LANE_MARGIN_MIN_WIDTH, F.LANE_MARGIN_MIN_HEIGHT, F.LANE_MARGIN_CFG_PERIOD_H, F.LANE_MARGIN_CFG_LIMIT_PCT, F.LANE_MARGIN_CFG_REBASE, F.LANE_SER_COUNT, F.LANE_EYE_RES_LO, F.LANE_EYE_RES_HI]
/-- Every field of the `lane` register tables, in the order of the spec. -/
def fields_lane : List Fld := fields_lane_0 ++ fields_lane_1

/-- Part 0 of the fields of the `nif` tables. -/
def fields_nif_0 : List Fld :=
  [F.NIF_CFG_SPEED, F.NIF_CFG_FIRST_LANE, F.NIF_CFG_AN_EN, F.NIF_CFG_FEC_OFF, F.NIF_CFG_VLAN_EN, F.NIF_CFG_VID, F.NIF_IP4_ADDR, F.NIF_MAC_LO_MAC, F.NIF_MAC_HI_MAC, F.NIF_STAT_LINK, F.NIF_STAT_SPEED_ACT, F.NIF_STAT_AN_DONE, F.NIF_STAT_FEC_ALIGNED, F.NIF_STAT_IP4_LL, F.NIF_STAT_OLD_QUERIER, F.NIF_STAT_LINK_DOWNS, F.NIF_RX_FRAMES_COUNT, F.NIF_RX_DROP_COUNT, F.NIF_FEC_CORR_COUNT, F.NIF_FEC_UNCORR_COUNT]
/-- Every field of the `nif` register tables, in the order of the spec. -/
def fields_nif : List Fld := fields_nif_0

/-- Part 0 of the fields of the `ing` tables. -/
def fields_ing_0 : List Fld :=
  [F.ING_CTRL_KIND, F.ING_CTRL_DUAL, F.ING_CTRL_ANC_EN, F.ING_CTRL_TSMODE, F.ING_CTRL_PT, F.ING_CTRL_LAYER, F.ING_FMT0_WIDTH, F.ING_FMT0_HEIGHT, F.ING_FMT1_SAMPLING, F.ING_FMT1_DEPTH, F.ING_FMT1_BPM, F.ING_FMT1_SCAN, F.ING_FMT1_COLORIMETRY, F.ING_FMT1_TCS, F.ING_FMT1_RANGE, F.ING_RATE_NUM, F.ING_RATE_DEN, F.ING_ASM_CTX, F.ING_ASM_LOSS_MAX, F.ING_ASM_SKEW_MAX, F.ING_ASM_PATH_TO, F.ING_SIG_MASK_LSB, F.ING_SIG_PULSE_KIND, F.ING_SIG_ANC_DID, F.ING_SIG_ANC_SDID, F.ING_PULSE_RGN_X0, F.ING_PULSE_RGN_Y0, F.ING_PULSE_RGN_W, F.ING_PULSE_RGN_H, F.ING_STAT_STATE]
/-- Part 1 of the fields of the `ing` tables. -/
def fields_ing_1 : List Fld :=
  [F.ING_STAT_PATH0_UP, F.ING_STAT_PATH1_UP, F.ING_STAT_ANC_UP, F.ING_STAT_TIMED, F.ING_STAT_WBUF, F.ING_STAT_SKEW, F.ING_FRAMES_COUNT, F.ING_DISCARDED_COUNT, F.ING_PKT_LOST_COUNT, F.ING_PKT_REPAIRED_COUNT, F.ING_LAST_A_TIME, F.ING_LAST_C_TIME, F.ING_SIGDIG_DIGEST, F.ING_TC_TC, F.ING_NAME_TEXT, F.ING_FLOW_GRP_ADDR, F.ING_FLOW_SRC_ADDR, F.ING_FLOW_PORT_UDP, F.ING_FLOW_PORT_NIF, F.ING_FLOW_PORT_FAMILY, F.ING_FLOW_PORT_SSM]
/-- Every field of the `ing` register tables, in the order of the spec. -/
def fields_ing : List Fld := fields_ing_0 ++ fields_ing_1

/-- Part 0 of the fields of the `xsdC` tables. -/
def fields_xsdC_0 : List Fld :=
  [F.XSD_CTRL_LAYER, F.XSD_CTRL_LAYER_EN, F.XSD_STAT_STATE, F.XSD_STAT_CAUSE, F.XSD_STAT_PROFILE, F.XSD_STAT_LEVEL, F.XSD_FRAME_WH_W, F.XSD_FRAME_WH_H, F.XSD_FRAMES_COUNT, F.XSD_CONCEALED_COUNT, F.XSD_DISCARDED_COUNT, F.XSD_STATS_BASE_ADDR, F.XSD_STATS_CFG_EN, F.XSD_STATS_CFG_SIZE, F.XSD_STATS_WR_IDX]
/-- Every field of the `xsdC` register tables, in the order of the spec. -/
def fields_xsdC : List Fld := fields_xsdC_0

/-- Part 0 of the fields of the `xsdG` tables. -/
def fields_xsdG_0 : List Fld :=
  [F.XSD_LOAD_ALLOC, F.XSD_LOAD_CONTEXTS]
/-- Every field of the `xsdG` register tables, in the order of the spec. -/
def fields_xsdG : List Fld := fields_xsdG_0

/-- Part 0 of the fields of the `vdc` tables. -/
def fields_vdc_0 : List Fld :=
  [F.VDC_LOAD_ALLOC, F.VDC_LOAD_CONTEXTS, F.VDC_STATS_BASE_ADDR, F.VDC_STATS_CFG_EN, F.VDC_STATS_CFG_SIZE, F.VDC_STATS_WR_IDX, F.VDC_CTRL_LAYER, F.VDC_CTRL_LAYER_EN, F.VDC_CTRL_CONCEAL, F.VDC_CTRL_START, F.VDC_STAT_STATE, F.VDC_STAT_SUBST, F.VDC_STAT_STALLED, F.VDC_STAT_CAUSE, F.VDC_STAT_PROFILE, F.VDC_STAT_LEVEL, F.VDC_STAT_DPB, F.VDC_STAT_DEPTH10, F.VDC_STAT_VUI_CD, F.VDC_FRAME_WH_W, F.VDC_FRAME_WH_H, F.VDC_PICTURES_COUNT, F.VDC_CONCEALED_COUNT, F.VDC_ERRORS_COUNT, F.VDC_SUBSTITUTES_COUNT, F.VDC_STORE_ADDR, F.VDC_STORE_CFG_EXTRA, F.VDC_STORE_CFG_STRIDE, F.VDC_SLOTS_NEWEST, F.VDC_SLOTS_HELD]
/-- Part 1 of the fields of the `vdc` tables. -/
def fields_vdc_1 : List Fld :=
  [F.VDC_SLOTS_FREE]
/-- Every field of the `vdc` register tables, in the order of the spec. -/
def fields_vdc : List Fld := fields_vdc_0 ++ fields_vdc_1

/-- Part 0 of the fields of the `vecC` tables. -/
def fields_vecC_0 : List Fld :=
  [F.VEC_STATS_BASE_ADDR, F.VEC_STATS_CFG_EN, F.VEC_STATS_CFG_CTU, F.VEC_STATS_CFG_SIZE, F.VEC_STATS_WR_IDX, F.VEC_SRC_STAGE, F.VEC_SRC_KIND, F.VEC_SRC_PIC_DIV, F.VEC_SRC_LAYER, F.VEC_SIZE_W, F.VEC_SIZE_H, F.VEC_CODEC_CODEC, F.VEC_CODEC_LEVEL, F.VEC_CODEC_IDR_PERIOD, F.VEC_CODEC_SLICE_ROWS, F.VEC_CODEC_SEI_FULL, F.VEC_CODEC_SEI_EN, F.VEC_RC_MODE, F.VEC_RC_QP_MIN, F.VEC_RC_QP_MAX, F.VEC_RC_QP_CONST, F.VEC_BITRATE_RATE, F.VEC_CPB_SIZE, F.VEC_OUT_DEST, F.VEC_OUT_PT, F.VEC_OUT_NIF, F.VEC_OUT_FAMILY, F.VEC_DST_PORT_UDP, F.VEC_STAT_STATE, F.VEC_STAT_SENDING]
/-- Part 1 of the fields of the `vecC` tables. -/
def fields_vecC_1 : List Fld :=
  [F.VEC_STAT_LAST_QP, F.VEC_PICTURES_COUNT, F.VEC_CURTAIN_ROWS_COUNT, F.VEC_CTRL_FORCE_IDR, F.VEC_DST_ADDR_ADDR, F.VEC_RING_BASE_ADDR, F.VEC_STORE_ADDR, F.VEC_RING_SIZE_SIZE, F.VEC_STORE_SIZE_SIZE, F.VEC_RING_WR_OFFSET, F.VEC_RING_RD_OFFSET]
/-- Every field of the `vecC` register tables, in the order of the spec. -/
def fields_vecC : List Fld := fields_vecC_0 ++ fields_vecC_1

/-- Part 0 of the fields of the `vecG` tables. -/
def fields_vecG_0 : List Fld :=
  [F.VEC_LOAD_ALLOC, F.VEC_LOAD_CONTEXTS]
/-- Every field of the `vecG` register tables, in the order of the spec. -/
def fields_vecG : List Fld := fields_vecG_0

/-- Part 0 of the fields of the `lfp` tables. -/
def fields_lfp_0 : List Fld :=
  [F.LFP_CFG_STAGE, F.LFP_STAT_CONTEXTS, F.LFP_STAT_LB_FREE, F.LFP_RATE_ALLOC, F.LFP_RATE_USED, F.LFP_UNDERRUNS_COUNT, F.LFP_REJ_ENTRY, F.LFP_REJ_KIND, F.LFP_REJ_REASON, F.LFP_REJ_VALID, F.LFP_CTX_LAYER, F.LFP_CTX_SLOT, F.LFP_CTX_VALID, F.LFP_CTX_DECIM, F.LFP_CTX_UNFIT, F.LFP_CTX_LB_OFF, F.LFP_CTX_LB_SIZE, F.LFP_HCOEF_EVEN, F.LFP_HCOEF_ODD, F.LFP_VCOEF_EVEN, F.LFP_VCOEF_ODD]
/-- Every field of the `lfp` register tables, in the order of the spec. -/
def fields_lfp : List Fld := fields_lfp_0

/-- Part 0 of the fields of the `stg` tables. -/
def fields_stg_0 : List Fld :=
  [F.STG_CFG_ROOT, F.STG_CFG_ROOT_EN, F.STG_CFG_ORDER, F.STG_CFG_OUT_CSC, F.STG_LEAD_LINES, F.STG_BG_R, F.STG_BG_G, F.STG_BG_B, F.STG_STAT_ORDINARY, F.STG_STAT_PROSC, F.STG_STAT_RUNNING, F.STG_STAT_STARVED, F.STG_FRAME_F, F.STG_CUP_TIME_TIME, F.STG_SIGBASE_ADDR, F.STG_SIGDIG_DIGEST, F.STG_SIGDIG_LATE, F.STG_UNDERRUNS_COUNT, F.STG_Z_SLOT0, F.STG_Z_SLOT1, F.STG_Z_SLOT2, F.STG_Z_SLOT3, F.STG_PS_CTRL_COMMIT, F.STG_PS_CTRL_ARMED, F.STG_PS_CTRL_STAGED, F.STG_PS_CTRL_SEQ, F.STG_PS_CTRL_REASON, F.STG_PS_CFG_EN, F.STG_PS_CFG_SRC, F.STG_PS_CFG_LAYER]
/-- Part 1 of the fields of the `stg` tables. -/
def fields_stg_1 : List Fld :=
  [F.STG_PS_CFG_TRIG_EN, F.STG_PS_CFG_TRIG_POL, F.STG_PS_CFG_TRIG_SC, F.STG_PS_CFG_CHECK, F.STG_PS_CFG_STYLE, F.STG_PS_CFG_SCALE, F.STG_PS_XY_X, F.STG_PS_XY_Y, F.STG_PS_WH_W, F.STG_PS_WH_H, F.STG_PS_MASK_CONTACTS, F.STG_PS_EXP0_CRC, F.STG_PS_EXP1_CRC, F.STG_PS_CRC_CRC, F.STG_PS_RES_RESULT, F.STG_PS_RES_ALT, F.STG_PS_RES_MISMATCHES, F.STG_PS_TEXT_TEXT]
/-- Every field of the `stg` register tables, in the order of the spec. -/
def fields_stg : List Fld := fields_stg_0 ++ fields_stg_1

/-- Part 0 of the fields of the `prmS` tables. -/
def fields_prmS_0 : List Fld :=
  [F.PRM_SCFG_FL_STEP, F.PRM_SSTAT_WORST, F.PRM_SSTAT_UNCERTAIN, F.PRM_SSTAT_MAP_BUF, F.PRM_SSTAT_PLACEMENTS, F.PRM_MAP_FRAME_FRAME, F.PRM_VCOUNT0_LIVE, F.PRM_VCOUNT0_LATE, F.PRM_VCOUNT0_STALE, F.PRM_VCOUNT0_FROZEN, F.PRM_VCOUNT1_DEGRADED, F.PRM_VCOUNT1_DARK, F.PRM_VCOUNT1_STILL, F.PRM_PLACE_LAYER, F.PRM_PLACE_VERDICT, F.PRM_PLACE_UNCERTAIN, F.PRM_PLACE_REASON, F.PRM_PLACE_VALID]
/-- Every field of the `prmS` register tables, in the order of the spec. -/
def fields_prmS : List Fld := fields_prmS_0

/-- Part 0 of the fields of the `prmG` tables. -/
def fields_prmG_0 : List Fld :=
  [F.PRM_FLOOR_MIN_DIM, F.PRM_FLOOR_FL_REQUIRED, F.PRM_FLOOR_BADGE_REQUIRED, F.PRM_FLOOR_BORDER_REQUIRED, F.PRM_FLOOR_STALE_CAP, F.PRM_GSTAT_UNCERTAIN, F.PRM_GSTAT_PLACEMENTS, F.PRM_LOG_WR_IDX, F.PRM_LOG_WRAPS_COUNT, F.PRM_LOG_WRAPS_CLEAR, F.PRM_CLAMPS_LO_CLAMPED, F.PRM_CLAMPS_HI_CLAMPED, F.PRM_POL_CTRL_CLASS, F.PRM_POL_CTRL_USE_CONTENT, F.PRM_POL_CTRL_USE_PULSE, F.PRM_POL_CTRL_USE_CODEC_STATS, F.PRM_POL_CTRL_TIMED, F.PRM_POL_CTRL_FREEZE_N, F.PRM_POL_CTRL_CHANGE_MIN, F.PRM_POL_CTRL_RECOVER_N, F.PRM_POL_LATE_LATE_T, F.PRM_POL_STALE_STALE_T, F.PRM_POL_DARK_DARK_T, F.PRM_POL_PULSE_PULSE_MAX, F.PRM_POL_PULSE_UNC_WIDEN, F.PRM_POL_DIM_DIM_STALE, F.PRM_POL_DIM_DIM_FROZEN, F.PRM_POL_DIM_DIM_DEGRADED, F.PRM_POL_MARKS_FL_CORNER, F.PRM_POL_MARKS_BADGE_CORNER]
/-- Part 1 of the fields of the `prmG` tables. -/
def fields_prmG_1 : List Fld :=
  [F.PRM_POL_MARKS_BADGE_SCALE, F.PRM_POL_MARKS_FL_EN, F.PRM_POL_MARKS_BADGE_EN, F.PRM_POL_MARKS_BORDER_EN, F.PRM_POL_MARKS_HATCH_EN, F.PRM_POL_MOTION_MOTION_MIN]
/-- Every field of the `prmG` register tables, in the order of the spec. -/
def fields_prmG : List Fld := fields_prmG_0 ++ fields_prmG_1

/-- Part 0 of the fields of the `ohd` tables. -/
def fields_ohd_0 : List Fld :=
  [F.OHD_CTRL_LANES_EN, F.OHD_CTRL_FOURLANE, F.OHD_CTRL_MST, F.OHD_CTRL_FORMAT, F.OHD_CTRL_DEPTH8, F.OHD_CTRL_GENLOCK, F.OHD_CTRL_GL_MODE, F.OHD_CTRL_RATES, F.OHD_CTRL_GL_SLEW, F.OHD_PCLK_HZ, F.OHD_HTIM0_ACTIVE, F.OHD_HTIM0_TOTAL, F.OHD_VTIM0_ACTIVE, F.OHD_VTIM0_TOTAL, F.OHD_HTIM1_FRONT, F.OHD_HTIM1_SYNC, F.OHD_HTIM1_POL, F.OHD_VTIM1_FRONT, F.OHD_VTIM1_SYNC, F.OHD_VTIM1_POL, F.OHD_FRATE_NUM, F.OHD_FRATE_DEN, F.OHD_GL_PHASE_PHASE, F.OHD_GL_ERR_ERR, F.OHD_STAT_LINK, F.OHD_STAT_RATE_ACT, F.OHD_STAT_OWNED, F.OHD_STAT_HPD, F.OHD_STAT_CURTAIN, F.OHD_STAT_CURT_REASON]
/-- Part 1 of the fields of the `ohd` tables. -/
def fields_ohd_1 : List Fld :=
  [F.OHD_STAT_GENLOCK, F.OHD_STAT_CHECK, F.OHD_STAT_SINKS, F.OHD_STAT_EDID_VALID, F.OHD_HPD_CFG_DEBOUNCE, F.OHD_HPD_CFG_CH_N, F.OHD_HPD_CFG_CH_WIN, F.OHD_CURT_FORCE_OPS, F.OHD_CURT_FORCE_SAFE, F.OHD_CURT_TEXT_EN, F.OHD_CURT_RECOVER, F.OHD_CURT_TEXT_TEXT, F.OHD_PREF0_PCLK, F.OHD_PREF0_RATE, F.OHD_PREF1_PCLK, F.OHD_PREF1_RATE, F.OHD_TX_CFG_EN, F.OHD_TX_CFG_DUP_EN, F.OHD_TX_CFG_FAMILY, F.OHD_TX_CFG_NIF, F.OHD_TX_CFG_DUP_NIF, F.OHD_TX_CFG_PT, F.OHD_TX_PORT_UDP, F.OHD_TX_LOST_COUNT, F.OHD_TX_ADDR_ADDR, F.OHD_EDID_BYTES]
/-- Every field of the `ohd` register tables, in the order of the spec. -/
def fields_ohd : List Fld := fields_ohd_0 ++ fields_ohd_1

/-- Part 0 of the fields of the `crc` tables. -/
def fields_crc_0 : List Fld :=
  [F.CRC_CFG_WIDTH, F.CRC_CFG_REFIN, F.CRC_CFG_REFOUT, F.CRC_CFG_FOLD, F.CRC_CFG_TRIG, F.CRC_CFG_CMP_EN, F.CRC_CFG_SEV_CRIT, F.CRC_CFG_STAGE, F.CRC_LAYER_LAYER, F.CRC_POLY_VALUE, F.CRC_INIT_VALUE, F.CRC_XOROUT_VALUE, F.CRC_BASE_ADDR, F.CRC_SHAPE_LINE_BYTES, F.CRC_PITCH_PITCH, F.CRC_LINES_LINES, F.CRC_SEQ_VALUE, F.CRC_EXP_VALUE, F.CRC_RESULT_VALUE, F.CRC_STAT_STATE, F.CRC_STAT_OUTCOME, F.CRC_STAT_MISMATCHES, F.CRC_RUNS_COUNT, F.CRC_OVERRUNS_COUNT, F.CRC_CTRL_START, F.CRC_CTRL_ABORT]
/-- Every field of the `crc` register tables, in the order of the spec. -/
def fields_crc : List Fld := fields_crc_0

/-- Part 0 of the fields of the `memC` tables. -/
def fields_memC_0 : List Fld :=
  [F.MEM_CH_STAT_READY, F.MEM_CH_STAT_UTIL, F.MEM_CH_STAT_URGENT, F.MEM_CE_COUNT_COUNT, F.MEM_UE_COUNT_COUNT, F.MEM_CE_LAST_ADDR, F.MEM_CE_LAST_MID, F.MEM_CE_LAST_WRITTEN_BACK, F.MEM_UE_FIRST_ADDR, F.MEM_UE_FIRST_MID, F.MEM_UE_FIRST_VALID, F.MEM_HELD_INGEST, F.MEM_HELD_CODEC, F.MEM_HELD_SYSTEM, F.MEM_HELD_SCRUB]
/-- Every field of the `memC` register tables, in the order of the spec. -/
def fields_memC : List Fld := fields_memC_0

/-- Part 0 of the fields of the `memG` tables. -/
def fields_memG_0 : List Fld :=
  [F.MEM_CFG_SCRUB_H, F.MEM_CFG_DL_GUARD, F.MEM_CFG_CE_LIMIT, F.MEM_WEIGHT0_LFP, F.MEM_WEIGHT0_ING, F.MEM_WEIGHT0_RELAY, F.MEM_WEIGHT0_XSD, F.MEM_WEIGHT0_VDC, F.MEM_WEIGHT0_VEC, F.MEM_WEIGHT0_SYSTEM, F.MEM_SCRUB_PASSES, F.MEM_SCRUB_PROGRESS, F.MEM_SCRUB_BEHIND, F.MEM_SRAM_CE_COUNT, F.MEM_SRAM_UE_COUNT, F.MEM_SRAM_LAST_REGION, F.MEM_SRAM_LAST_WORD]
/-- Every field of the `memG` register tables, in the order of the spec. -/
def fields_memG : List Fld := fields_memG_0

/-- Part 0 of the fields of the `pair` tables. -/
def fields_pair_0 : List Fld :=
  [F.PAIR_CFG_EN, F.PAIR_CFG_HANDBACK, F.PAIR_CFG_SO_ACTION, F.PAIR_CFG_SYNC_TO, F.PAIR_CFG_HOLDOFF, F.PAIR_CFG_SETTLE, F.PAIR_CFG_HB_WIN, F.PAIR_CTRL_SWITCH, F.PAIR_CTRL_CLEAR_FAULT, F.PAIR_CTRL_RESYNC, F.PAIR_STAT_PEER_ROLE, F.PAIR_STAT_PATH_A, F.PAIR_STAT_PATH_B, F.PAIR_STAT_OWN_OUT, F.PAIR_STAT_OWN_IN, F.PAIR_STAT_READY, F.PAIR_STAT_PEER_READY, F.PAIR_STAT_SYNC, F.PAIR_STAT_WAITING, F.PAIR_STAT_REFUSED, F.PAIR_STAT_REFUSE_CAUSE, F.PAIR_STAT_DR_FAULT, F.PAIR_STAT_PEER_DR_FAULT, F.PAIR_STAT_RELEASE, F.PAIR_STAT_TAKE, F.PAIR_EPOCH_EPOCH, F.PAIR_COMMITTED_EPOCH, F.PAIR_EPOCH_FILL_BYTES, F.PAIR_EPOCH_FILL_HELD, F.PAIR_TAKEOVER_TIME]
/-- Part 1 of the fields of the `pair` tables. -/
def fields_pair_1 : List Fld :=
  [F.PAIR_TAKEOVER_BASE, F.PAIR_TAKEOVER_CAUSE, F.PAIR_TAKEOVER_OUTCOME, F.PAIR_DR_MISMATCHES_COUNT, F.PAIR_DR_EXCLUDED_COUNT, F.PAIR_SO_LAST_OUTCOME, F.PAIR_SO_LAST_STAGE, F.PAIR_SO_LAST_TILE, F.PAIR_HEADFAIL_HEADS, F.PAIR_HB_LOSSES_PATH_A, F.PAIR_HB_LOSSES_PATH_B]
/-- Every field of the `pair` register tables, in the order of the spec. -/
def fields_pair : List Fld := fields_pair_0 ++ fields_pair_1

/-- Part 0 of the fields of the `chn` tables. -/
def fields_chn_0 : List Fld :=
  [F.CHN_CFG_EN, F.CHN_CFG_CAP_PERIOD, F.CHN_STAT_STATE, F.CHN_STAT_REFUSED, F.CHN_STAT_CAUSE, F.CHN_STAT_PEER_PORT, F.CHN_STAT_PEER_EJECTING, F.CHN_STAT_SKEW, F.CHN_LAT_TX, F.CHN_LAT_RX, F.CHN_FRAMES_TX_COUNT, F.CHN_FRAMES_RX_COUNT, F.CHN_CRC_ERR_COUNT, F.CHN_DISCARDED_COUNT, F.CHN_EXPRESS_RX_COUNT, F.CHN_PEER_WORD, F.CHN_OWN_WORD]
/-- Every field of the `chn` register tables, in the order of the spec. -/
def fields_chn : List Fld := fields_chn_0

/-- Part 0 of the fields of the `ens` tables. -/
def fields_ens_0 : List Fld :=
  [F.ENS_CFG_EN, F.ENS_CFG_CANDIDATE, F.ENS_CFG_UPLINK, F.ENS_CFG_SETTLE, F.ENS_STAT_STATE, F.ENS_STAT_LEAD, F.ENS_STAT_ANCHOR, F.ENS_STAT_CLOSED, F.ENS_STAT_ISOLATED, F.ENS_STAT_LEVEL, F.ENS_STAT_LEAD_POS, F.ENS_STAT_MEMBERS, F.ENS_WIN_PATH, F.ENS_WIN_DEPTH, F.ENS_WIN_VALID, F.ENS_BOUNDARY_TIME, F.ENS_GCUE_LAST_GROUP, F.ENS_GCUE_LAST_REFUSERS, F.ENS_GCUE_LAST_REFUSED, F.ENS_RELAY_LOAD_PORT1, F.ENS_RELAY_LOAD_PORT2, F.ENS_RELAY_FRAMES_COUNT, F.ENS_RELAY_FAILED_COUNT]
/-- Every field of the `ens` register tables, in the order of the spec. -/
def fields_ens : List Fld := fields_ens_0

/-- Part 0 of the fields of the `sig` tables. -/
def fields_sig_0 : List Fld :=
  [F.SIG_STATE_STATE0, F.SIG_STATE_STATE1, F.SIG_STATE_STATE2, F.SIG_STATE_STATE3, F.SIG_STATE_STATE4, F.SIG_STATE_STATE5, F.SIG_STATE_STATE6, F.SIG_STATE_STATE7, F.SIG_STATE_ASSERTED0, F.SIG_STATE_ASSERTED1, F.SIG_STATE_ASSERTED2, F.SIG_STATE_ASSERTED3, F.SIG_STATE_ASSERTED4, F.SIG_STATE_ASSERTED5, F.SIG_STATE_ASSERTED6, F.SIG_STATE_ASSERTED7, F.SIG_RAW_ACTIVE, F.SIG_SUPPRESSED_COUNT, F.SIG_SUPPRESSED_CLEAR, F.SIG_CFG_EN, F.SIG_CFG_ACTIVE_HIGH, F.SIG_CFG_DEBOUNCE, F.SIG_CFG_CH_N, F.SIG_CFG_CH_WIN, F.SIG_STUCK_STUCK_T]
/-- Every field of the `sig` register tables, in the order of the spec. -/
def fields_sig : List Fld := fields_sig_0

/-- Part 0 of the fields of the `dbg` tables. -/
def fields_dbg_0 : List Fld :=
  [F.DBG_STAT_USED, F.DBG_STAT_ADMITTED, F.DBG_STAT_SLOTS, F.DBG_USES_COUNT, F.DBG_LAST_ADDR, F.DBG_LAST_SLOT, F.DBG_LAST_WRITE, F.DBG_IDCODE_IDCODE]
/-- Every field of the `dbg` register tables, in the order of the spec. -/
def fields_dbg : List Fld := fields_dbg_0

/-- Part 0 of the fields of the `ld` tables. -/
def fields_ld_0 : List Fld :=
  [F.LD_CTRL_VALID, F.LD_CTRL_PROSC, F.LD_CTRL_SOURCE, F.LD_CTRL_POLICY, F.LD_CTRL_CUE_GRP, F.LD_CTRL_COMPRESSED, F.LD_CTRL_ALPHA_MODE, F.LD_CTRL_NBUF, F.LD_FMT_FORMAT, F.LD_FMT_CSC, F.LD_FMT_RANGE, F.LD_SIZE_WIDTH, F.LD_SIZE_HEIGHT, F.LD_PITCH_PITCH, F.LD_BUF_ADDR, F.LD_PLANE2_OFFSET, F.LD_PUBLISH_BUF, F.LD_PUBLISH_CHANGED, F.LD_PUBLISH_PUB, F.LD_CROP_XY_X, F.LD_CROP_XY_Y, F.LD_CROP_WH_W, F.LD_CROP_WH_H, F.LD_DST_XY_X, F.LD_DST_XY_Y, F.LD_DST_WH_W, F.LD_DST_WH_H, F.LD_XFORM_ROT, F.LD_XFORM_MIRROR, F.LD_XFORM_FILTER]
/-- Part 1 of the fields of the `ld` tables. -/
def fields_ld_1 : List Fld :=
  [F.LD_XFORM_DECIM_OK, F.LD_XFORM_ALPHA, F.LD_PHASE_HOFF, F.LD_PHASE_VOFF, F.LD_CSC_C00, F.LD_CSC_C01, F.LD_CSC_C02, F.LD_CSC_C10, F.LD_CSC_C11, F.LD_CSC_C12, F.LD_CSC_C20, F.LD_CSC_C21, F.LD_CSC_C22, F.LD_CSC_IOFF0, F.LD_CSC_IOFF1, F.LD_CSC_IOFF2, F.LD_STAT_NEWEST, F.LD_STAT_HELD, F.LD_STAT_OLD_HELD, F.LD_STAT_DECIM, F.LD_STAT_UNFIT, F.LD_STAT_STAGED, F.LD_FRAME_WH_W, F.LD_FRAME_WH_H, F.LD_USER_TAG]
/-- Every field of the `ld` register tables, in the order of the spec. -/
def fields_ld : List Fld := fields_ld_0 ++ fields_ld_1

/-- Part 0 of the fields of the `sc` tables. -/
def fields_sc_0 : List Fld :=
  [F.SC_CTRL_VALID, F.SC_CTRL_CUE_GRP, F.SC_CTRL_COUNT, F.SC_OFFSET_X, F.SC_OFFSET_Y, F.SC_CLIP_XY_X, F.SC_CLIP_XY_Y, F.SC_CLIP_WH_W, F.SC_CLIP_WH_H, F.SC_ALPHA_ALPHA, F.SC_CHILD_INDEX, F.SC_CHILD_KIND, F.SC_CHILD_HIDE]
/-- Every field of the `sc` register tables, in the order of the spec. -/
def fields_sc : List Fld := fields_sc_0

/-- The fields of one kind of register table. -/
def Kind.fields : Kind → List Fld
  | .hdr => fields_hdr
  | .sys => fields_sys
  | .err => fields_err
  | .acg0 => fields_acg0
  | .acg3 => fields_acg3
  | .thm => fields_thm
  | .hsw => fields_hsw
  | .clkG => fields_clkG
  | .clkR => fields_clkR
  | .lane => fields_lane
  | .nif => fields_nif
  | .ing => fields_ing
  | .xsdC => fields_xsdC
  | .xsdG => fields_xsdG
  | .vdc => fields_vdc
  | .vecC => fields_vecC
  | .vecG => fields_vecG
  | .lfp => fields_lfp
  | .stg => fields_stg
  | .prmS => fields_prmS
  | .prmG => fields_prmG
  | .ohd => fields_ohd
  | .crc => fields_crc
  | .memC => fields_memC
  | .memG => fields_memG
  | .pair => fields_pair
  | .chn => fields_chn
  | .ens => fields_ens
  | .sig => fields_sig
  | .dbg => fields_dbg
  | .ld => fields_ld
  | .sc => fields_sc

end Sys2Proof.Machine
end

