-- ==== Sys2Proof/Machine/State.lean ====
section
/-!
DEFINITION. The state of the module as plain data: the register file, and the state that the spec gives the blocks
beside their registers (queues, staged values, armed cues, frames, placements, state machines, timers), the frame store,
and the queue of waiting commands. Times are stage-time nanoseconds unless a field says otherwise.
-/

namespace Sys2Proof.Machine

/-- What the module sends out of a port while it runs one command; the list is emptied when the next command begins. -/
inductive Emit where
  /-- an MSI-X message with its vector (R45) -/
  | msix (vector : Nat)
  /-- the answer of a safety port READ or STATUS: data words and their check (R47) -/
  | safety (words : List Nat) (check : Nat)
  /-- bytes of an SMBus read with their packet error code, or NACK as the empty answer with `ok` false (R52) -/
  | smbus (ok : Bool) (bytes : List Nat)
  /-- a debug data register captured by the test access port: width and value (R426) -/
  | jtag (width value : Nat)
  /-- an answer to the reader of a register or frame-store word by another path: value and result, 0 completed, 2 refused where the port
  shows it, 4 uncorrectable (poisoned at host port A, R390) -/
  | word (value result : Nat)
  /-- an Ethernet packet sent on a NIF port: its kind (see `Net`) and its content as numbers -/
  | net (port kind : Nat) (body : List Nat)
  /-- a Chaino frame or express group sent on a Chaino port: channel and content -/
  | chaino (port channel : Nat) (body : List Nat)
  /-- a codeword sent on a Chaino lane: its 544 symbols in the order of sending (R311) -/
  | codeword (lane : Nat) (symbols : List Nat)
  /-- the control and status fields of the training frames that a Chaino lane sends (R307, R308) -/
  | training (lane control status : Nat)
  /-- a call-line frame (R331) -/
  | callLine (body : List Nat)
  /-- a DisplayPort AUX request of a head: I2C over AUX, address, write flag, bytes (R257) -/
  | aux (head : Nat) (i2c : Bool) (addr : Nat) (write : Bool) (body : List Nat)
  /-- what a head signals of a stream at the start of a frame, in its MSA and VSC SDP: stream, time slots, H_ACTIVE, H_TOTAL, H_FRONT, H_SYNC,
  V_ACTIVE, V_TOTAL, V_FRONT, V_SYNC, polarities, FORMAT, DEPTH8, and the OUT_CSC that gives colorimetry and range (R246, R248, R253) -/
  | msa (head stream : Nat) (values : List Nat)
  /-- the correction of a genlocked head for its next frame: lines added, and the pixel clock's offset in ppm (R252) -/
  | genlock (head lines : Nat) (ppm : Int)
  /-- OWN_OUT driven to a level (R334) -/
  | ownOut (level : Bool)
  /-- the 12 V power stage switched (R429, R432) -/
  | rail (on : Bool)
  /-- a burst granted at a frame-store channel: level 2 node, leaf, bytes (R394) -/
  | grant (channel node leaf bytes : Nat)
  deriving DecidableEq, Repr

/-- One event record (R65). -/
structure Rec where
  time : Nat
  code : Nat
  inst : Nat
  typ : Nat
  detail : Nat
  mid : Nat
  sev : Nat
  deriving DecidableEq, Repr

/-- A staged register word (R11, R12) and the MID that wrote it last (R415); the MGMT cycle of that write, 0 where the pair engine
staged it, and the word and MID that stood staged before that cycle. -/
structure Staged where
  data : Nat
  mid : Nat
  cycle : Nat := 0
  prev : Option (Nat × Nat) := none
  deriving DecidableEq, Repr

/-- The W1C flags of a word that events set in one MGMT cycle (R13), and for a capture register the values of the first of them (R57),
by register key. -/
structure Flagged where
  cycle : Nat
  mask : Nat
  vals : SMap Nat := []
  deriving DecidableEq, Repr

/-- An armed cue (R62): its point and stage, the stage time at which the arm completed, and the MID that armed it. -/
structure Cue where
  point : Nat
  stage : Nat
  time : Nat
  mid : Nat
  deriving DecidableEq, Repr

/-- State of the control model beside its registers (chapter "Ports, pages and cues"). -/
structure Ctl where
  /-- staged words by BAR0 offset -/
  staged : SMap Staged := []
  /-- armed page cues by page slot -/
  cues : SMap Cue := []
  /-- armed group cues by group -/
  groups : SMap Cue := []
  /-- the 256 slots of the ERR ring window -/
  ring : SMap Rec := []
  /-- the severe queue, oldest first -/
  severe : List Rec := []
  /-- the first fatal record is held in ERR_FATAL (R69) -/
  fatal : Bool := false
  /-- flags set by events, by the BAR0 offset of their word -/
  flagAt : SMap Flagged := []
  /-- snapshots of R24: the higher words captured when a lowest-addressed word was read, by BAR0 offset -/
  snaps : SMap Nat := []
  /-- host port A: link up, bus mastering enabled, MSI-X pending bits (R42) -/
  hostUp : Bool := false
  busMaster : Bool := false
  msixPending : List Nat := []
  /-- the MSI-X table of BAR4 (R41), by word -/
  msixTable : SMap Nat := []
  /-- the safety port's STATUS word: RESULT and WRITES (R47) -/
  spResult : Nat := 0
  spWrites : Nat := 0
  /-- PMBus: OPERATION byte, STATUS_WORD, STATUS_TEMPERATURE (R53) -/
  pmOperation : Nat := 0x80
  pmStatus : Nat := 0
  pmTemp : Nat := 0
  deriving DecidableEq, Repr

/-- One violation record (R416). -/
structure Viol where
  addr : Nat
  mid : Nat
  kind : Nat
  where_ : Nat
  region : Bool
  port : Nat
  time : Nat
  epoch : Nat
  repeats : Nat
  deriving DecidableEq, Repr

/-- The rule set, as the words of its image that differ from the reset image (R419, R420). -/
abbrev Image := SMap Nat

/-- State of access control beside its registers. -/
structure Acg where
  /-- the image in effect, by word index -/
  image : Image := []
  /-- the proposal area, by word index, while a proposal is open or submitted -/
  area : Image := []
  /-- stage time at which OPEN or SUBMITTED was entered -/
  since : Nat := 0
  /-- stage time of the last commit -/
  commitAt : Nat := 0
  /-- event 0x0105 of the last commit has been recorded -/
  fenceTold : Bool := false
  /-- violation log, by slot 0 to 63 -/
  log : SMap Viol := []
  /-- the MODE_NEXT saved in the EEPROM, if any -/
  savedMode : Option Nat := none
  /-- the MGMT cycle in which the present proposal was opened (R424) -/
  openCycle : Nat := 0
  /-- debug port: result and data of the previous operation -/
  dauResult : Nat := 0
  dauData : Nat := 0
  deriving DecidableEq, Repr

/-- A rectangle in head coordinates, or relative to it. -/
structure Rect where
  x : Int
  y : Int
  w : Nat
  h : Nat
  deriving DecidableEq, Repr

/-- How a frame lies in the frame store (R144): its description at the time it was written. -/
structure Layout where
  addr : Nat := 0
  fmt : Nat := 1
  csc : Nat := 0
  range : Nat := 1
  w : Nat := 0
  h : Nat := 0
  pitch : Nat := 0
  plane2 : Nat := 0
  compressed : Bool := false
  /-- the size of the buffers, LD_SIZE, when it was written -/
  bufW : Nat := 0
  bufH : Nat := 0
  deriving DecidableEq, Repr

/-- An eligible frame of a layer with its evidence and deadlines (R77 to R79, R83, R85, R144). -/
structure Frame where
  serial : Nat := 0
  buf : Nat := 0
  lay : Layout := {}
  arr : Nat := 0
  cap : Option Nat := none
  basis : Nat := 0
  unc : Bool := false
  late : Nat := 0
  stale : Nat := 0
  dark : Option Nat := none
  loss : List Nat := []
  conceal : List Nat := []
  sigs : List Nat := []
  motion : Nat := 0
  changed : Bool := true
  timingOk : Bool := true
  tc : Nat := 0
  rtp : Nat := 0
  /-- decoded while a grey substitute might contribute (R221) -/
  subst : Bool := false
  /-- its home decimated it (R373) -/
  decim : Bool := false
  deriving DecidableEq, Repr

/-- What the prompter holds of a layer. -/
structure LayerSt where
  newest : Option Frame := none
  /-- the eligible frame before it (R127) -/
  prev : Option Frame := none
  frames : Nat := 0
  identRun : Nat := 0
  changedRun : Nat := 0
  suspect : Bool := false
  frozen : Bool := false
  frozenWhy : Nat := 0
  /-- basis time of the last changed frame, from which the FROZEN badge counts (R91) -/
  changedAt : Nat := 0
  /-- deadlines use B = A since a stage-time step, until the next eligible frame (R82) -/
  stepped : Bool := false
  /-- last stamped change of the source pulse since the feeding channel was enabled (R84) -/
  pulseAt : Option Nat := none
  verdict : Nat := 0
  reason : Nat := 0
  /-- evidence of the last frame waits for the prompter's decision (R88) -/
  undecided : Bool := false
  deriving DecidableEq, Repr

/-- One placement: a slot of a stage (R72). -/
structure Place where
  layer : Nat
  vis : Rect
  alpha : Nat
  /-- destination rectangle in head coordinates, before clipping -/
  dst : Rect
  /-- scenes through which the placement was reached (R169) -/
  path : List Nat := []
  disp : Option Frame := none
  next : Option Frame := none
  /-- no frame counts until one newer than this serial number is eligible (soft reset of the PRM page) -/
  after : Nat := 0
  verdict : Nat := 0
  reason : Nat := 0
  unc : Bool := false
  /-- the changes of verdict within the frame on display, oldest first: time since power-up, verdict before, verdict after (R104) -/
  hist : List (Nat × Nat × Nat) := []
  /-- allocation (R155): pipe, context, allocated need and rate in pixels per frame, and the frame size it was made for -/
  pipe : Nat := 0
  ctx : Nat := 0
  need : Nat := 0
  rate : Nat := 0
  forW : Nat := 0
  forH : Nat := 0
  decim : Nat := 0
  /-- the pre-decimation of the frame on display -/
  shownDecim : Nat := 0
  /-- the last frame offered could not be latched (R159), and its serial number -/
  unfit : Bool := false
  unfitSerial : Nat := 0
  deriving DecidableEq, Repr

/-- One freshness map buffer (R103). -/
structure FMap where
  time : Nat := 0
  frame : Nat := 0
  across : Nat := 0
  down : Nat := 0
  bad : Nat := 0
  worst : Nat := 0
  unc : Bool := false
  crc : Nat := 0
  tiles : List Nat := []
  deriving DecidableEq, Repr

/-- One audit log record (R105), without its CRC word, which is computed when it is read. -/
structure Audit where
  time : Nat
  layer : Nat
  stage : Nat
  slot : Nat
  new : Nat
  old : Nat
  unc : Bool
  mid : Bool
  reason : Nat
  evidence : Nat
  damaged : Nat
  basis : Nat
  frame : Nat
  deriving DecidableEq, Repr

/-- State of the prompter beside its registers. -/
structure Prm where
  layers : SMap LayerSt := []
  /-- placements by stage × 72 + slot -/
  places : SMap Place := []
  /-- freshness maps by stage × 2 + buffer -/
  maps : SMap FMap := []
  /-- audit log by slot 0 to 4,095 -/
  log : SMap Audit := []
  /-- the last change of PRM_FLOOR: its fields before it by key, and when it was, since power-up (R101) -/
  floorWas : SMap Nat := []
  floorAt : Nat := 0
  deriving DecidableEq, Repr

/-- A frame in assembly in an ingest channel (R122). -/
structure Asm where
  rtp : Nat
  began : Nat
  buf : Nat
  /-- the frame's number in the channel, and the buffer's description as the frame began (R144) -/
  no : Nat := 0
  lay : Layout := {}
  /-- pixel spans received: line, first pixel, pixel count -/
  spans : List (Nat × Nat × Nat) := []
  outside : Bool := false
  dropped : Nat := 0
  /-- stage time at which the end of the frame was seen on path 0 and on path 1 -/
  end0 : Option Nat := none
  end1 : Option Nat := none
  /-- sequence number of its first packet; for each packet by its difference from that, the paths (bit 0, bit 1) that
  delivered it and when the first copy came -/
  firstSeq : Nat := 0
  seqs : SMap (Nat × Nat) := []
  /-- timestamp of the second field (R122) -/
  rtp2 : Option Nat := none
  deriving DecidableEq, Repr

/-- A completed frame that waits to become eligible, with the channel's values as it completed (R124, R129): KIND, the layer of KIND 1
or the decoder context, sampling, depth, rate and TSMODE. -/
structure Ready where
  f : Frame
  kind : Nat
  dest : Nat
  sampling : Nat
  depth : Nat
  num : Nat
  den : Nat
  tsmode : Nat
  deriving DecidableEq, Repr

/-- Internal state of one ingest channel. -/
structure IngCh where
  /-- frames in assembly, oldest first: a second one while a dual-path frame waits for its other path -/
  asms : List Asm := []
  /-- frames begun, and the timestamps of the last completed or discarded ones with their numbers, newest first -/
  begun : Nat := 0
  doneRtp : List (Nat × Nat) := []
  /-- highest sequence number of the last completed frame -/
  lastSeq : Option Nat := none
  ssrc0 : Option Nat := none
  ssrc1 : Option Nat := none
  ssrc2 : Option Nat := none
  last0 : Nat := 0
  last1 : Nat := 0
  lastAnc : Nat := 0
  /-- completed frames that wait to become eligible, oldest first (R124) -/
  ready : List Ready := []
  /-- previous pulse sample: region signatures or ancillary words (R135) -/
  pulse : Option (List Nat) := none
  /-- RTCP: PTP time and RTP timestamp of the latest sender report, and when it came (R131) -/
  sr : Option (Nat × Nat × Nat) := none
  deriving DecidableEq, Repr

/-- A session heard in an announcement (R137). -/
structure Session where
  id : Nat
  first : Nat
  last : Nat
  interval : Nat
  /-- the channel it is joined on -/
  chan : Option Nat
  port : Nat
  /-- its parameters (R138) -/
  sdp : Sdp
  deriving DecidableEq, Repr

/-- Internal state of one NIF port. -/
structure NifPort where
  dropAt : Option Nat := none
  dropWhy : Nat := 0
  fecAt : Option Nat := none
  fecCount : Nat := 0
  /-- groups joined with the sources of the membership (empty: EXCLUDE of none) (R113) -/
  groups : List (Nat × List Nat) := []
  /-- repeat reports due: group and time -/
  repeats : List (Nat × Nat) := []
  /-- when the last older-version query was heard (R114) -/
  oldAt : Nat := 0
  llAddr : Nat := 0
  /-- the last PTP event timestamp taken (R115) -/
  ptpStamp : Nat := 0
  deriving DecidableEq, Repr

/-- Internal state of one stage. -/
structure StgSt where
  /-- contexts are to be allocated at the next curtain-up (R155) -/
  allocDue : Bool := false
  /-- the allocation found by the check of the cue: slot, layer, pipe, context, offset, KiB, rate, width, height -/
  alloc : List (List Nat) := []
  /-- time since power-up at the first active pixel of the frame on display -/
  began : Nat := 0
  /-- the last active line of the frame on display has been fetched (R126) -/
  fetched : Bool := false
  /-- the head queue starved in the present frame (R179) -/
  starved : Bool := false
  /-- the frame whose signature array was reported late (R193) -/
  sigLate : Option Nat := none
  /-- stage time at which the armed proscenium commit was written -/
  commitAt : Nat := 0
  /-- proscenium slots: the last compare outcome (R195): 0 none since commit or enable, 1 match, 2 a mismatch that was recorded, 3 that with
  a commit or enable since -/
  psLast : SMap Nat := []
  /-- what was read and latched at the last curtain-up waits for the first active pixel (R175) -/
  switchDue : Bool := false
  /-- register fields read at the last curtain-up (R63, R143), and those of the frame on display -/
  latched : SMap Nat := []
  shown : SMap Nat := []
  /-- contact states read at the last curtain-up (R189), and those of the frame on display -/
  contacts : List Nat := []
  shownContacts : List Nat := []
  /-- time since power-up at the last curtain-up, and at that of the frame on display -/
  cupUp : Nat := 0
  shownUp : Nat := 0
  /-- the placements of the frame on display, by slot -/
  scene : List (Nat × Place) := []
  /-- lines of the frame on display that were not ready, with their slot (R178) -/
  under : List (Nat × Nat) := []
  deriving DecidableEq, Repr

/-- Internal state of one debounced line: a signal contact, an HPD line, PRESENT_N or EJECT_N (R196, R199). -/
structure Contact where
  /-- no sample has come since the line was restarted -/
  fresh : Bool := true
  level : Bool := false
  /-- consecutive samples at the present level -/
  run : Nat := 0
  /-- the level that last held for DEBOUNCE -/
  settled : Option Bool := none
  /-- an unsettled window is open since this time (R197) -/
  openAt : Option Nat := none
  /-- times of debounced changes within CH_WIN -/
  changes : List Nat := []
  /-- when ACTIVE or FOUND_ACTIVE was entered -/
  since : Nat := 0
  lastChange : Nat := 0
  /-- states left not long ago, latest first, each with the time since power-up at which it was left (R189) -/
  past : List (Nat × Nat) := []
  deriving DecidableEq, Repr

/-- What words 3 to 7 of a picture record hold of a decoded picture (R225). -/
structure PicStats where
  moved : Nat := 0
  intra : Nat := 0
  bits : Nat := 0
  /-- mean, least and greatest luma QP -/
  qp : Nat × Nat × Nat := (0, 0, 0)
  ptype : Nat := 0
  subst : Bool := false
  blocks : Nat := 0
  mv : Nat × Nat := (0, 0)
  deriving DecidableEq, Repr

/-- A picture of a VDC context's picture store (R211 to R213). A grey substitute has no slot: `slot` 31 (R221). -/
structure Pic where
  slot : Nat
  period : Nat
  poc : Nat
  isRef : Bool
  waiting : Bool
  recov : Bool
  nal : Nat
  reorder : Nat
  frame : Frame
  /-- the field, 1 top or 2 bottom, that alone has been decoded (R209) -/
  half : Option Nat
  stats : PicStats
  deriving DecidableEq, Repr

/-- Internal state of a VDC context. -/
structure VdcCtx where
  pics : List Pic := []
  /-- pictures since an IDR have one period number; order counts compare within it -/
  period : Nat := 0
  count : Nat := 0
  /-- a substitute may contribute to the next picture in decoding order -/
  tainted : Bool := false
  noRasl : Bool := false
  /-- the count, frame_num in H.264, order count in HEVC, at which the recovery point of an SEI is reached (R222) -/
  recover : Option Int := none
  /-- the access units that wait for a free slot, oldest first, and since when the first does -/
  wait : List (AccessUnit × Ready) := []
  stalledAt : Nat := 0
  stallTold : Bool := false
  arrivals : List Nat := []
  rateAt : Option Nat := none
  deriving DecidableEq, Repr

/-- One row of a picture being coded: its flag of R238, bits and QP, and for a curtain row which of its units are hatch. -/
structure VecRowSt where
  flag : Nat := 0
  bits : Nat := 0
  qp : Nat := 0
  coded : Bool := false
  hatch : List Bool := []
  input : List Nat := []
  stat : List Nat := []
  ctus : List (Nat × Nat × Nat × Nat) := []
  deriving DecidableEq, Repr

/-- A picture being coded by a VEC context. -/
structure VecPic where
  /-- the page's source, size, codec and rate-control registers, as the picture is coded (R229) -/
  conf : SMap Nat
  f : Nat
  time : Nat
  idr : Bool
  kind : Nat
  layer : Nat
  frame : Option Frame
  entry : List Nat
  bmax : Nat := 0
  /-- bytes of filler data after its last slice (R233) -/
  filler : Nat := 0
  rows : List VecRowSt := []
  ready : Nat := 0
  coded : Nat := 0
  sent : Nat := 0
  spent : Nat := 0
  clampedAt : Option Nat := none
  au : List Nat := []
  deriving DecidableEq, Repr

/-- Internal state of a VEC context. -/
structure VecCtx where
  pics : List VecPic := []
  prev : List (Nat × Nat) := []
  /-- bits in the HRD buffer and when they were counted -/
  hrd : Option (Nat × Nat) := none
  idrDue : Bool := true
  /-- the module has become ACTIVE and the context has sent nothing since (R229) -/
  netDue : Bool := false
  sinceIdr : Nat := 0
  count : Nat := 0
  seq : Nat := 0
  discarding : Bool := false
  discarded : Bool := false
  /-- the SEI that H.264 carries in the next access unit (R238) -/
  sei : List Nat := []
  deriving DecidableEq, Repr

/-- Thermal management beside its registers. -/
structure Thm where
  /-- when the step in effect last changed, and the step before -/
  stepAt : Nat := 0
  stepWas : Nat := 0
  /-- the throttle step of R454, before TEST_STEP -/
  step : Nat := 0
  stepFallAt : Nat := 0
  /-- the current interval of R454: when it began, and a sensor has stood at level 2 throughout -/
  intervalAt : Option Nat := none
  intervalHot : Bool := true
  /-- last conversions of each sensor in 0.1 °C, newest first, and when the last one completed -/
  conv : SMap (List Int) := []
  convAt : SMap Nat := []
  /-- last conversion outside the range; disagreement since; valid conversions since, of a failed sensor -/
  outside : List Nat := []
  apart : SMap Nat := []
  validAt : SMap Nat := []
  /-- every sensor has been below the thresholds of the level, less the hysteresis, since -/
  coolAt : Option Nat := none
  /-- the shutdown event was recorded -/
  shutAt : Option Nat := none
  ageTold : Bool := false
  lifeTold : Bool := false
  /-- equivalent life used, 2^-32 s, and as saved in the EEPROM (R460) -/
  life : Nat := 0
  lifeSaved : Nat := 0
  lifeSavedAt : Nat := 0
  /-- last LIFE_TICK, last temperature given to CLK, last ageing measurement -/
  lifeAt : Nat := 0
  passAt : Nat := 0
  ageAt : Nat := 0
  deriving DecidableEq, Repr

/-- A bring-up unit (R301): the lanes of a NIF port (0 to 15), of a head (16 to 39) or of a Chaino port (40 to 43). -/
structure LaneUnit where
  /-- as LANE_STAT.STATE -/
  state : Nat := 0
  /-- LANE pages of the unit since it was enabled -/
  lanes : List Nat := []
  /-- when the present step was entered -/
  since : Nat := 0
  /-- the last probe that sensed every termination -/
  probeAt : Option Nat := none
  /-- since when signal has been lost in BIT_LOCK, with the lane -/
  lostAt : Option Nat := none
  /-- consecutive failures n (R303) -/
  fails : Nat := 0
  /-- end of the back-off -/
  till : Nat := 0
  /-- step and cause reported last since enable or ACTIVE (R326) -/
  told : Option (Nat × Nat) := none
  deriving DecidableEq, Repr

/-- The receive stream of a Chaino lane (R310 to R313). -/
structure LineSt where
  /-- 0 HUNT, 1 CONFIRM, 2 LOCKED -/
  st : Nat := 0
  /-- logical lane of the marker -/
  logical : Nat := 0
  /-- CONFIRM: markers that matched -/
  seen : Nat := 0
  /-- codewords since the last marker position -/
  cws : Nat := 0
  /-- uncorrectable codewords: in CONFIRM all of them, in LOCKED those in a row -/
  bad : Nat := 0
  /-- markers missing in a row -/
  miss : Nat := 0
  /-- blocks decoded, and where invalid headers stood, newest first -/
  blocks : Nat := 0
  heads : List Nat := []
  /-- the last 58 scrambled bits, the oldest in bit 0 -/
  scr : Nat := 0
  /-- bits of a block that the last codeword left unfinished: value, count, and whether that codeword was uncorrectable -/
  part : Nat := 0
  partN : Nat := 0
  partBad : Bool := false
  /-- blocks that wait in the deskew buffer for those of the other lanes: header, descrambled payload, marked -/
  queue : List (Nat × Nat × Bool) := []
  deriving DecidableEq, Repr

/-- The transmit stream of a Chaino lane (R310 to R312): scrambler state, bits of the codeword being filled, and codewords sent in the
present alignment period. -/
structure LineTx where
  scr : Nat := 0
  part : Nat := 0
  partN : Nat := 0
  cws : Nat := 0
  deriving DecidableEq, Repr

/-- What a lane holds beside its page. -/
structure LaneSt where
  /-- LANE_CFG as it was when the unit last entered DETECT: RX_INV_AUTO, TX_FIXED, PRESET_PRE, PRESET_POST -/
  cfg : List Nat := []
  line : LineSt := {}
  tx : LineTx := {}
  /-- last valid training frame, ready frames in a row (R309), when the 16th came, and whether the block stream started -/
  frameAt : Nat := 0
  ready : Nat := 0
  readyAt : Nat := 0
  done : Bool := false
  /-- answers to tap requests in the status field (R308): for PRE and POST -/
  ansPre : Nat := 0
  ansPost : Nat := 0
  /-- the user scan in progress (R322): parameters taken at START, points done, and when the present point began -/
  scan : Option (List Nat) := none
  scanDone : Nat := 0
  pointAt : Nat := 0
  /-- a START that waits for the end of a quick scan (R324) -/
  queued : Bool := false
  /-- the last quick scan; a baseline exists; the next one sets it (R325) -/
  quickAt : Nat := 0
  /-- temperature of the lane's die sensor at the last quick scan, and the last extra one (R458) -/
  quickTemp : Int := 0
  extraAt : Nat := 0
  based : Bool := false
  rebase : Bool := false
  /-- EEPROM: baseline width and height, least width and height -/
  saved : Option (List Nat) := none
  /-- corrected symbols since the whole hour, and the hour -/
  hourCorr : Nat := 0
  hour : Nat := 0
  deriving DecidableEq, Repr

/-- A frame or express group that is being received (R315): channel, data blocks announced, CRC of an EXPRESS block, data blocks received
in order, and whether a block of it is marked. -/
structure RxUnit where
  chan : Nat
  len : Nat
  crc : Nat := 0
  data : List Nat := []
  bad : Bool := false
  deriving DecidableEq, Repr

/-- What a Chaino port holds beside its page. -/
structure ChnSt where
  /-- the frame and the express group that are open at the receiver -/
  frame : Option RxUnit := none
  group : Option RxUnit := none
  /-- blocks handed to the lanes so far: block i goes to logical lane i mod 4 (R314) -/
  txAt : Nat := 0
  /-- a capability frame of the partner has been accepted in this CAPS step -/
  accepted : Bool := false
  /-- refusal causes reported in this CAPS step -/
  told : List Nat := []
  capAt : Nat := 0
  /-- frame sequence numbers by channel -/
  seq : SMap Nat := []
  /-- the second of discards that event 0x0103 will report: its begin, count and first kind -/
  drops : Option (Nat × Nat × Nat) := none
  deriving DecidableEq, Repr

/-- An AUX transaction in progress: I2C over AUX or native, address, write, bytes, tries so far, and when it was sent (R257). -/
structure AuxReq where
  i2c : Bool
  addr : Nat
  write : Bool
  bytes : List Nat
  tries : Nat
  at_ : Nat
  deriving DecidableEq, Repr

/-- What an output head holds beside its page. -/
structure HeadSt where
  /-- first active pixel of the present frame -/
  frameAt : Nat := 0
  /-- timing and link fields committed by a cue, in force from the next vertical blanking (R253) -/
  pend : SMap Nat := []
  /-- frames in a row within 50 ns (R252) -/
  near : Nat := 0
  /-- lines added to the next vertical blanking, and the pixel clock's offset in ppm (R252) -/
  addLines : Nat := 0
  slew : Int := 0
  /-- the stage failed a pixel and RECOVER frames have not been in time since; frames in time (R264) -/
  starved : Bool := false
  good : Nat := 0
  /-- stored link setting (R261, R346): rate as RATE_ACT, lanes, MST, time slots and payload identifier of stream 0 and of stream 1, and one
  transmitter setting for each lane -/
  link : Option (List Nat) := none
  /-- the stored setting came from the partner -/
  fromPeer : Bool := false
  /-- training: the rate being tried, since when, and whether it is the one attempt of a link check -/
  try_ : Option Nat := none
  tryAt : Nat := 0
  /-- link check due (R262), and whether its one training runs -/
  checkAt : Option Nat := none
  checking : Bool := false
  /-- HPD line (R255), and the begin of a low pulse -/
  hpd : Contact := {}
  lowAt : Option Nat := none
  irq : Bool := false
  /-- AUX transaction in progress -/
  aux : Option AuxReq := none
  /-- the next EDID byte to read by E-DDC, and the bytes read (R259) -/
  ddcAt : Nat := 0
  ddc : List Nat := []
  /-- the MST sinks found, as the port numbers that lead to each (R248) -/
  sinks : List (List Nat) := []
  /-- DPCD bytes read from the sink -/
  dpcd : SMap Nat := []
  /-- ST 2110-20 output: packets of the frame sent or lost, sequence number, the second of lost packets -/
  txNext : Nat := 0
  txSeq : Nat := 0
  txDrops : Option (Nat × Nat) := none
  deriving DecidableEq, Repr

/-- A foreign master heard by a PTP instance: its last Announce, when it came and the one before (R273). -/
structure Foreign where
  ann : Announce
  at_ : Nat
  before : Option Nat
  deriving DecidableEq, Repr

/-- What CLK holds of a reference beside its page. Offsets are reference time minus stage time, ns. -/
structure RefSt where
  masters : List Foreign := []
  /-- sender of the master followed -/
  master : Option Nat := none
  /-- latest Sync exchange: origin and reception time; not yet part of a complete exchange -/
  sync : Option (Int × Int) := none
  syncNew : Bool := false
  /-- the Delay_Req in flight, the mean path delay, and a pair not yet part of a complete exchange -/
  dreqAt : Option Nat := none
  mpd : Int := 0
  pairNew : Bool := false
  /-- times of the last complete exchanges, newest first, and how many there were since ACQUIRING was entered -/
  exch : List Nat := []
  since : Nat := 0
  /-- Sync interval measured, ns -/
  syncAt : Nat := 0
  syncGap : Nat := 0
  /-- filtered offsets with their times, newest first -/
  offs : List (Nat × Int) := []
  /-- the conditions of R276 have held since; qualified -/
  okSince : Option Nat := none
  qualified : Bool := false
  /-- its frequency was last measured beyond the pull range (R276) -/
  far : Bool := false
  /-- house sync frames missing in a row; pulses off in a row; last pulse -/
  missing : Nat := 0
  off : Nat := 0
  pulseAt : Nat := 0
  tenMHz : Bool := true
  /-- drift guard: values of y, newest first, 0.001 ppb; |y| has been small since -/
  ys : List Int := []
  calmSince : Option Nat := none
  sampleAt : Nat := 0
  /-- REF6 and REF7: the source's clock state, selected reference, uncertainty, UTC offset; its link is up -/
  peer : Option (Nat × Nat × Bool × Int) := none
  deriving DecidableEq, Repr

/-- A pair of references compared by R280: beyond the threshold since, quarrelling, within half of it since. -/
structure QuarrelSt where
  badSince : Option Nat := none
  active : Bool := false
  goodSince : Option Nat := none
  deriving DecidableEq, Repr

/-- What CLK holds beside its pages. DCO values in 0.01 ppt. -/
structure ClkSt where
  refs : SMap RefSt := []
  quarrels : SMap QuarrelSt := []
  /-- last selector run; a run is due within 1 ms, and the cause of a selection it would make at once -/
  ranAt : Nat := 0
  runDue : Bool := false
  /-- the reference in use was lost or disabled since the last run -/
  lost : Bool := false
  /-- a better reference and since when every run has chosen it (R279) -/
  better : Option (Nat × Nat) := none
  /-- ACQUIRING entered, pulled in -/
  acqAt : Nat := 0
  pulled : Bool := false
  /-- the offset in use has been beyond STEP_T since (R277) -/
  jumpAt : Option Nat := none
  /-- the offset has been within the lock limit since (R282) -/
  nearSince : Option Nat := none
  lockedAt : Nat := 0
  lockedLong : Bool := false
  everLocked : Bool := false
  /-- DCO values in effect with the time of each, newest first (R288) -/
  hist : List (Nat × Int) := []
  hoAt : Nat := 0
  hoTemp : Int := 0
  updAt : Nat := 0
  /-- temperature compensation bins: 256 × value and number of updates (R289) -/
  bins : SMap (Int × Nat) := []
  binAt : Nat := 0
  /-- hourly samples of R290, newest first; since when ageing is predicted -/
  ages : List (Nat × Int) := []
  ageAt : Nat := 0
  rValid : Bool := false
  /-- EEPROM: table and rate; when they were saved; restored values that wait for 10 min of LOCKED -/
  saved : Option (List (Nat × Int × Nat) × Int) := none
  savedAt : Option Nat := none
  waiting : Bool := false
  /-- a time-of-day step: the whole second at which it takes effect, and SEC -/
  tod : Option (Nat × Nat) := none
  /-- leap flag of the master, the UTC day it was heard in, and the adjustment made -/
  leap : Int := 0
  leapDay : Int := 0
  leapAdj : Int := 0
  deriving DecidableEq, Repr

/-- A closed epoch that END will report: number, boundary time, its records and STORE writes, and F of every stage. -/
structure Closed where
  epoch : Nat
  time : Nat
  recs : List (Nat × Nat × Nat × Nat)
  stores : List (Nat × Bool × List Nat)
  fs : List Nat
  deriving DecidableEq, Repr

/-- A rehearsal set that this module has sent (R350): the set, when, the placements on display in its frame, and the tiles of a row. -/
structure OwnSet where
  set : Rehearsal
  at_ : Nat
  shown : List (Nat × Place)
  across : Nat
  deriving DecidableEq, Repr

/-- What the pair engine holds beside its page. -/
structure PairSt where
  /-- sequence numbers sent, and when -/
  seqA : Nat := 0
  seqB : Nat := 0
  sentA : Nat := 0
  sentB : Nat := 0
  /-- groups sent, newest first: SEQ and timing point (R333) -/
  txA : List (Nat × Nat) := []
  /-- the partner's last group counted: SEQ and reception -/
  rxA : Option (Nat × Nat) := none
  /-- the partner's last heartbeat counted -/
  beat : Option Beat := none
  /-- per path: last SEQ counted, when, and consecutive ones in time (R332) -/
  lastA : Option Nat := none
  lastB : Option Nat := none
  atA : Nat := 0
  atB : Nat := 0
  runA : Nat := 0
  runB : Nat := 0
  /-- when a path was last up -/
  heardAt : Nat := 0
  settleAt : Nat := 0
  formed : Bool := false
  /-- role reported last by event 0x0100, and the waiting event told -/
  roleTold : Nat := 1
  waitTold : Bool := false
  /-- in WINGS after a takeover of cause 3, until the thermal level is below 2 (R358) -/
  hot : Bool := false
  /-- OWN_IN has been deasserted since -/
  ownInAt : Nat := 0
  claimAt : Option Nat := none
  contested : Bool := false
  bothAt : Option Nat := none
  /-- the last two epoch boundaries -/
  boundaryAt : Nat := 0
  boundaryWas : Nat := 0
  /-- records and STORE writes of the current epoch, newest first -/
  recs : List (Nat × Nat × Nat × Nat) := []
  stores : List (Nat × Bool × List Nat) := []
  closed : Option Closed := none
  /-- host writes held until the next boundary, oldest first (R340): MID, to the frame store, address, the word or the bytes -/
  held : List (Nat × Bool × Nat × List Nat) := []
  /-- heads whose link setting is to be sent (R346) -/
  links : List Nat := []
  /-- a full sync is due at the next boundary; its boundary and begin -/
  syncDue : Bool := false
  syncS : Option Nat := none
  syncAt : Nat := 0
  /-- understudy: frames of epochs not yet committed, STORE writes that wait for a held buffer, the END that waits -/
  rx : List EpochFrame := []
  staging : List (Nat × Bool × List Nat) := []
  waitEnd : Option EpochEnd := none
  /-- ENDs that came during a full sync, oldest first -/
  ends : List EpochEnd := []
  /-- corrections of F to be made at a stage's next curtain-up: stage and what F grows by, modulo 2^32 (R347); own F values at the
  last boundary -/
  adopt : List (Nat × Nat) := []
  fMarks : List Nat := []
  digest : Option Nat := none
  ackDue : Option (Nat × Bool × Bool) := none
  everCommitted : Bool := false
  /-- a takeover decided by the understudy: cause, planned, and when -/
  take : Option (Nat × Bool × Nat) := none
  /-- the active module's planned takeover: cause, when TAKE came, and whether OWN_OUT was released for it -/
  release : Option Nat := none
  takeRx : Option Nat := none
  released : Bool := false
  /-- the last takeover by which this module became owner: when, cause, planned; and the last handback -/
  tookAt : Option (Nat × Nat × Bool) := none
  handAt : Option Nat := none
  /-- rehearsal: own sets by stage, stamps by stage, the dispute (stage, tile, last frame of the stage that it waits for), and the
  signatures by which it is decided: own stage and second path, the partner's stage and second path (R353) -/
  own : SMap OwnSet := []
  stamps : SMap Nat := []
  dispute : Option (Nat × Nat × Nat) := none
  opinion : Option (Nat × Nat × Nat × Nat) := none
  deriving DecidableEq, Repr

/-- A member heard on the ring: its last beacon, and for ports 1 and 2 the last SEQ counted and when (R363). -/
structure Member where
  beacon : Beacon
  on1 : Option (Nat × Nat) := none
  on2 : Option (Nat × Nat) := none
  /-- the position of its pair partner -/
  mate : Option Nat := none
  deriving DecidableEq, Repr

/-- A group cue at point 3 of an ensemble that has been checked (R378): the group, the MID that armed it, the boundary, the staged
words that it would apply, this member's own result, and the verdict once it is known. -/
structure GCheck where
  group : Nat
  mid : Nat
  boundary : Nat
  words : SMap Staged
  ok : Bool
  verdict : Option Bool := none
  deriving DecidableEq, Repr

/-- What an ensemble member holds beside its page. -/
structure EnsSt where
  seq : Nat := 0
  sentAt : Nat := 0
  /-- beacons sent on ports 1, 2 and 3, newest first: SEQ and timing point -/
  tx : SMap (List (Nat × Nat)) := []
  /-- the neighbour's last beacon on each port: its SEQ, reception time and place -/
  rx : SMap (Nat × Nat × Nat) := []
  members : SMap Member := []
  /-- the set of members heard last changed -/
  changedAt : Nat := 0
  joinedAt : Nat := 0
  lead : Option Nat := none
  /-- port 3 joins two rings: 0 no, 1 as the junction member, 2 as the anchor, 3 refused -/
  junction : Nat := 0
  refusedWhy : Nat := 0
  /-- the copy of the shared ranges is complete; the ensemble frame boundary at which the module becomes a member -/
  copied : Option Nat := none
  /-- the next ensemble frame boundary as the lead announced it: stage time and number -/
  boundary : Nat := 0
  number : Nat := 0
  /-- group cues at point 3 that have been checked for the coming boundary -/
  checks : List GCheck := []
  /-- layers this member has subscribed to -/
  subs : List Nat := []
  /-- what other members have reported of their placements and bindings, by sender and subject; what this member last reported -/
  reports : SMap Nat := []
  told : SMap Nat := []
  /-- layers whose binding here gives way at the next curtain-up (R372) -/
  giveUp : List Nat := []
  /-- relayed frames being received: by layer the buffer, whether a frame of it was discarded, and the bytes that have come; when event
  0x0103 was last told -/
  relay : SMap (Nat × Bool × Nat) := []
  relayTold : Option Nat := none
  deriving DecidableEq, Repr

/-- Memory controllers beside their pages. -/
structure MemSt where
  /-- tiles that an uncorrectable word of a codec cache cost a decoder context (0 to 15 XSD, 16 to 47 VDC), for its next picture (R392) -/
  cacheLost : SMap (List Nat) := []
  /-- arbitration tags and virtual times by channel × 2^24 + node (R394) -/
  tags : SMap Rat := []
  /-- the next address of the scrubber and when its pass began -/
  scrub : Nat := 0
  passAt : Nat := 0
  /-- corrected errors since event 0x0100, the event's time, and corrected errors in the present hour, by channel; 8 is SRAM -/
  ces : SMap Nat := []
  ceAt : SMap Nat := []
  hours : SMap Nat := []
  hourAt : SMap Nat := []
  heldAt : SMap Nat := []
  behindTold : Bool := false
  deriving DecidableEq, Repr

/-- A run of a check-value unit: region base, begin, expected value and sequence number taken at its start, and the layer and
buffer it holds (R399 to R401). -/
structure CrcRun where
  base : Nat
  began : Nat
  exp : Nat
  seq : Nat
  hold : Option (Nat × Nat)
  deriving DecidableEq, Repr

/-- What a check-value unit holds beside its page. -/
structure CrcSt where
  run : Option CrcRun := none
  /-- triggers that wait: region base, layer and buffer held -/
  trigs : List (Nat × Option (Nat × Nat)) := []
  /-- the last compared run mismatched and its record stands -/
  bad : Bool := false
  overs : Nat := 0
  oversAt : Option Nat := none
  deriving DecidableEq, Repr

/-- The hot-swap controller and the management controller beside the HSW page. -/
structure PwrSt where
  /-- the step of R429 reached, 0 before insertion -/
  at_ : Nat := 0
  since : Nat := 0
  /-- the 12 V rail is switched onto the module -/
  rail : Bool := false
  slot : Nat := 0
  present : Contact := {}
  eject : Contact := {}
  presentNow : Bool := false
  ejectNow : Bool := false
  /-- power-on is refused (R432, R457); PRESENT_N has been inactive since; a refusal was reported -/
  refused : Bool := false
  wentOut : Bool := false
  refusalTold : Bool := false
  /-- off by command (R445) -/
  byCommand : Bool := false
  good : Option Nat := none
  /-- time with 12 V good before the present power-up, kept in the EEPROM (HSW_LIFE.KHOURS) -/
  goodBefore : Nat := 0
  /-- when the 3.3 V auxiliary rail came up (R293) -/
  auxAt : Nat := 0
  resetN : Bool := false
  /-- a module reset that is due: its cause and its stage time -/
  reset : Option (Nat × Nat) := none
  /-- an eject warning: its carrier time and its source, 0 ejector, 1 PMBus, 2 HSW_CTRL.EJECT; and its stage time (R444) -/
  warned : Option (Nat × Nat) := none
  warnedAt : Nat := 0
  /-- straps reported last as different -/
  strapTold : Option Nat := none
  uvTold : Bool := false
  deriving DecidableEq, Repr

/-- The stand-alone show. -/
structure ShowSt where
  /-- the heads in use, the channels removed (R441), and what the show tiled last -/
  heads : List Nat := []
  removed : List Nat := []
  tiled : List (List Nat) := []
  /-- a cue of the show was refused: the reason and the stage -/
  refused : Option (Nat × Nat) := none
  /-- a claim came while the show ran (R442); stages whose slot 64 is still to be disabled -/
  claimed : Bool := false
  strips : List Nat := []
  textAt : Nat := 0
  flipAt : SMap Nat := []
  deriving DecidableEq, Repr

/-- Everything the module holds beside the frame store and the queue of commands. -/
structure Blk where
  /-- stage time, ns (R6) -/
  now : Nat := 0
  /-- ns since power-up, which no step of stage time moves -/
  up : Nat := 0
  /-- the model's own counter of free values used so far -/
  fresh : Nat := 0
  /-- register fields by key (`Fld.key`); an unlisted field holds its reset value -/
  regs : SMap Nat := []
  /-- what the present command has sent -/
  out : List Emit := []
  ctl : Ctl := {}
  acg : Acg := {}
  prm : Prm := {}
  ing : SMap IngCh := []
  nif : SMap NifPort := []
  sessions : List Session := []
  stg : SMap StgSt := []
  contacts : SMap Contact := []
  xsd : SMap Nat := []
  vdc : SMap VdcCtx := []
  vec : SMap VecCtx := []
  /-- the ready rows of all encoder contexts, context and row, in the order in which they became ready (R230) -/
  vecReady : List (Nat × Nat) := []
  thm : Thm := {}
  units : SMap LaneUnit := []
  lanes : SMap LaneSt := []
  chn : SMap ChnSt := []
  heads : SMap HeadSt := []
  /-- the heads may drive: OWN_OUT asserted, and after a claim its window has ended (R334) -/
  driving : Bool := false
  clk : ClkSt := {}
  pair : PairSt := {}
  ens : EnsSt := {}
  mem : MemSt := {}
  crc : SMap CrcSt := []
  pwr : PwrSt := {}
  show_ : ShowSt := {}
  deriving DecidableEq, Repr

/-- The frame store: the listed bytes, and by its index each 8-byte word that is uncorrectable (R390), with a bit for each of
its bytes written since. An unlisted byte reads as 0 (R386). -/
structure FrameStore where
  cells : List Host.Cell := []
  marked : SMap Nat := []
  deriving DecidableEq, Repr

/-- The state of the machine. -/
structure State where
  pending : List Instr
  blk : Blk
  store : FrameStore
  deriving DecidableEq, Repr

/-- No command of the module ends in a fault; the type is kept with one reason so that it is closed. -/
inductive Fault where
  /-- raised by nothing: no command stops the module (safe) -/
  | never
  deriving DecidableEq, Repr

/-- Why a command has no meaning in the model. -/
inductive Refusal where
  /-- a command whose meaning is not written, by the dispatch alone (safe: it stops instead of going on) -/
  | notModelled (mnemonic : String)
  deriving DecidableEq, Repr

/-- The module before its insertion, the power-up sequence of R429 before its first step: every register at its reset value, the
frame store clear (R386), no command waiting. -/
def State.reset : State := { pending := [], blk := {}, store := {} }

end Sys2Proof.Machine
end

