-- ==== Sys2Proof/Machine/Ops.lean ====
section
/-!
DEFINITION. The named operations over the register file and the frame store, the passing of time, and how a command's
effect becomes the next state.
-/

namespace Sys2Proof.Machine

/-! ### Registers -/

/-- The value of a register field: the stored one, or its reset value (R10). -/
def Blk.rd (b : Blk) (f : Fld) (i : Nat) (k : Nat := 0) : Nat := (mget b.regs (f.key i k)).getD (f.rst i k)

/-- Give a register field a value, cut to the field's width. -/
def Blk.wr (b : Blk) (f : Fld) (i : Nat) (v : Nat) (k : Nat := 0) : Blk :=
  { b with regs := mset b.regs (f.key i k) (v % 2 ^ f.w) }

/-- A one-bit field as a truth value. -/
def Blk.on (b : Blk) (f : Fld) (i : Nat) (k : Nat := 0) : Bool := b.rd f i k != 0

/-- Set a one-bit field. -/
def Blk.put (b : Blk) (f : Fld) (i : Nat) (v : Bool) (k : Nat := 0) : Blk := b.wr f i (b2n v) k

/-- Count up in a field that saturates at its greatest value. -/
def Blk.bump (b : Blk) (f : Fld) (i : Nat) (by_ : Nat := 1) (k : Nat := 0) : Blk :=
  b.wr f i (satAdd (b.rd f i k) by_ (2 ^ f.w - 1)) k

/-- Count up in a field that wraps. -/
def Blk.step (b : Blk) (f : Fld) (i : Nat) (by_ : Nat := 1) (k : Nat := 0) : Blk := b.wr f i (b.rd f i k + by_) k

/-- Return a field to its reset value. -/
def Blk.rstF (b : Blk) (f : Fld) (i : Nat) (k : Nat := 0) : Blk := { b with regs := mdel b.regs (f.key i k) }

/-- Return every register of a BAR0 range to its reset value. -/
def Blk.rstRange (b : Blk) (lo hi : Nat) : Blk :=
  { b with regs := b.regs.filter fun e => !(Nat.ble (lo * 32) e.1 && Nat.blt e.1 (hi * 32)) }

/-- The MGMT cycle of 5 ns in which the module is, counted from power-up. -/
def mgmtCycle (b : Blk) : Nat := b.up / 5 + 1

/-- An event sets W1C flags of a word; `vals` are what a capture register would take from it. -/
def flagSet (a m : Nat) (vals : SMap Nat) (b : Blk) : Blk :=
  let e : Flagged := match mget b.ctl.flagAt a with
    | some e =>
      if e.cycle = mgmtCycle b then { e with mask := Nat.lor e.mask m, vals := if e.vals = [] then vals else e.vals }
      else ⟨mgmtCycle b, m, vals⟩
    | none => ⟨mgmtCycle b, m, vals⟩
  { b with ctl := { b.ctl with flagAt := mset b.ctl.flagAt a e } }

/-- The flags of a word that events have set in the present MGMT cycle: a clear in the same cycle leaves them set (R13). -/
def freshFlags (b : Blk) (a : Nat) : Nat :=
  match mget b.ctl.flagAt a with
  | some e => if e.cycle = mgmtCycle b then e.mask else 0
  | none => 0

/-- A capture register is cleared; an event of the same MGMT cycle is captured in its place (R13, R57). -/
def recapture (a : Nat) (clear : Blk → Blk) (b : Blk) : Blk :=
  match mget b.ctl.flagAt a with
  | some e => if e.cycle = mgmtCycle b ∧ e.vals ≠ [] then { b with regs := mput e.vals b.regs } else clear b
  | none => clear b

/-- Send something out of a port. -/
def Blk.emit (b : Blk) (e : Emit) : Blk := { b with out := b.out ++ [e] }

/-- Take the number of a fresh free value (R-free: see the assumption log). -/
def Blk.useFresh (b : Blk) : Blk := { b with fresh := b.fresh + 1 }

/-- Time passes; what the command before sent is gone. -/
def Blk.tick (b : Blk) (dt : Nat) : Blk := { b with now := b.now + dt, up := b.up + dt, out := [] }

/-! ### The frame store -/

/-- Enter a byte in a canonical list of cells; 0, which an unlisted address reads as, is not listed (R386). -/
def cellsSet : List Host.Cell → Nat → BitVec 8 → List Host.Cell
  | [], a, v => if v = 0 then [] else [(a, v)]
  | (a', v') :: t, a, v =>
    if a < a' then (if v = 0 then (a', v') :: t else (a, v) :: (a', v') :: t)
    else if a = a' then (if v = 0 then t else (a, v) :: t)
    else (a', v') :: cellsSet t a v

/-- The byte at an address; an unlisted address reads as 0 (R386). -/
def cellsGet : List Host.Cell → Nat → BitVec 8
  | [], _ => 0
  | (a', v') :: t, a => if a = a' then v' else cellsGet t a

/-- Every address of a list of cells lies above a bound, rises strictly, and holds a byte other than 0. -/
def cellsWf : Nat → List Host.Cell → Bool
  | _, [] => true
  | lo, (a, v) :: t => Nat.ble lo a && v != 0 && cellsWf (a + 1) t

/-- The canonical form of the frame store: addresses strictly rising and no byte listed that an unlisted address
reads as. -/
def FrameStore.wf (m : FrameStore) : Bool := cellsWf 0 m.cells

/-- Read one byte. -/
def FrameStore.byte (m : FrameStore) (a : Nat) : Nat := (cellsGet m.cells a).toNat

/-- A write of one byte of an uncorrectable word: the word is good again once every byte of it has been written (R390). -/
def unmarkByte (l : SMap Nat) (a : Nat) : SMap Nat :=
  match mget l (a / 8) with
  | none => l
  | some k =>
    let k := Nat.lor k (2 ^ (a % 8))
    if k = 255 then mdel l (a / 8) else mset l (a / 8) k

/-- Write one byte. -/
def FrameStore.setByte (m : FrameStore) (a v : Nat) : FrameStore :=
  { cells := cellsSet m.cells a (BitVec.ofNat 8 v), marked := unmarkByte m.marked a }

/-- The word that holds a byte is uncorrectable. -/
def FrameStore.isMarked (m : FrameStore) (a : Nat) : Bool := (mget m.marked (a / 8)).isSome

/-- Mark a word uncorrectable. -/
def FrameStore.mark (m : FrameStore) (a : Nat) : FrameStore := { m with marked := mset m.marked (a / 8) 0 }

/-- Write bytes from an address upward. -/
def FrameStore.setBytes : FrameStore → Nat → List Nat → FrameStore
  | m, _, [] => m
  | m, a, v :: t => (m.setByte a v).setBytes (a + 1) t

/-- Read `n` bytes as a little-endian number (R8). -/
def FrameStore.leRead (m : FrameStore) (a : Nat) : Nat → Nat
  | 0 => 0
  | n + 1 => m.byte a + 256 * m.leRead (a + 1) n

/-- The bytes of a number, least significant first (R8). -/
def leBytes : Nat → Nat → List Nat
  | 0, _ => []
  | n + 1, v => v % 256 :: leBytes n (v / 256)

/-- Write `n` bytes of a number, least significant first (R8). -/
def FrameStore.leWrite (m : FrameStore) (a n v : Nat) : FrameStore := m.setBytes a (leBytes n v)

/-- Usable frame store in bytes (R2). -/
def usable (b : Blk) : Nat := b.rd F.SYS_VARIANT_USABLE_GIB 0 * 2 ^ 30

/-! ### From an effect to the next state -/

/-- A command that leaves the frame store alone. -/
def eff (dt : Nat) (s : State) (f : Blk → Blk) : Host.Outcome State Fault Refusal :=
  .next { s with blk := f (s.blk.tick dt) }

/-- A command that may also write the frame store. -/
def effM (dt : Nat) (s : State) (f : Blk → FrameStore → Blk × FrameStore) : Host.Outcome State Fault Refusal :=
  .next { s with blk := (f (s.blk.tick dt) s.store).1, store := (f (s.blk.tick dt) s.store).2 }

/-- The first of some reasons that is not 0. -/
def firstReason : List Nat → Nat
  | [] => 0
  | 0 :: l => firstReason l
  | (n + 1) :: _ => n + 1

end Sys2Proof.Machine
end

