-- ==== Sys2Proof/Machine/Flags.lean ====
section
/-!
DEFINITION. Event records, the ERR ring and the severe queue (R65 to R69), the page event flags, counters and first-error
captures (R57), and the MSI-X vectors (R45, R46).
-/

namespace Sys2Proof.Machine

/-! Severities of R66. -/

abbrev sevInfo : Nat := 0
abbrev sevNotice : Nat := 1
abbrev sevWarning : Nat := 2
abbrev sevError : Nat := 3
abbrev sevCritical : Nat := 4
abbrev sevFatal : Nat := 5

/-- The MSI-X vector of a page (R45); the ERR page sends vector 13 for its own flags. -/
def Page.vector (p : Page) : Nat :=
  match p.blk with
  | .sys => 2 | .hsw => 3 | .thm => 4 | .clk => 5 | .pair => 6 | .ens => 7 | .chn => 7 | .acg => 8 | .sig => 9
  | .mem => 10 | .crc => 11 | .dbg => 12 | .err => 13
  | .stg => 16 + p.inst | .prm => 40 + p.inst | .ohd => 65 + p.inst | .ing => 89 + p.inst | .nif => 153 + p.inst
  | .xsd => 169 + p.inst | .vdc => 186 + p.inst | .vec => 218 + p.inst | .lfp => 235 + p.inst | .lane => 331 + p.inst

/-- A block's own MID for word 3 of its records, 0 for a block without one (R65, R406). -/
def Block.mid : Block → Nat
  | .ing => 0x10 | .xsd => 0x11 | .vdc => 0x12 | .vec => 0x13 | .lfp => 0x14 | .stg => 0x15 | .pair => 0x16
  | .crc => 0x17 | .ens => 0x18 | .mem => 0x19 | .sys => 0 | .err => 0 | .acg => 0 | .thm => 0 | .hsw => 0 | .clk => 0
  | .lane => 0 | .nif => 0 | .prm => 0 | .ohd => 0 | .chn => 0 | .sig => 0 | .dbg => 0

/-- Send an MSI-X message, or hold it as a pending bit while the link is down or bus mastering is off (R42). -/
def sendVector (v : Nat) (b : Blk) : Blk :=
  if b.ctl.hostUp && b.ctl.busMaster then b.emit (.msix v)
  else { b with ctl := { b.ctl with msixPending := if b.ctl.msixPending.contains v then b.ctl.msixPending
    else b.ctl.msixPending ++ [v] } }

/-- The PG_EVT word of a page slot. -/
def evtWord (b : Blk) (s : Nat) : Nat :=
  b.rd F.PG_EVT_ERROR s + 2 * b.rd F.PG_EVT_CUE_DONE s + 4 * b.rd F.PG_EVT_CUE_REFUSED s
    + 8 * b.rd F.PG_EVT_RESET_DONE s + 65536 * b.rd F.PG_EVT_BLOCK s

/-- The PG_EVT_EN word of a page slot. -/
def evtEnWord (b : Blk) (s : Nat) : Nat :=
  b.rd F.PG_EVT_EN_ERROR s + 2 * b.rd F.PG_EVT_EN_CUE_DONE s + 4 * b.rd F.PG_EVT_EN_CUE_REFUSED s
    + 8 * b.rd F.PG_EVT_EN_RESET_DONE s + 65536 * b.rd F.PG_EVT_EN_BLOCK s

/-- Store a PG_EVT word. -/
def putEvt (s w : Nat) (b : Blk) : Blk :=
  ((((b.wr F.PG_EVT_ERROR s (bits w 0 1)).wr F.PG_EVT_CUE_DONE s (bits w 1 1)).wr F.PG_EVT_CUE_REFUSED s
    (bits w 2 1)).wr F.PG_EVT_RESET_DONE s (bits w 3 1)).wr F.PG_EVT_BLOCK s (bits w 16 16)

/-- Store a PG_EVT_EN word. -/
def putEvtEn (s w : Nat) (b : Blk) : Blk :=
  ((((b.wr F.PG_EVT_EN_ERROR s (bits w 0 1)).wr F.PG_EVT_EN_CUE_DONE s (bits w 1 1)).wr F.PG_EVT_EN_CUE_REFUSED s
    (bits w 2 1)).wr F.PG_EVT_EN_RESET_DONE s (bits w 3 1)).wr F.PG_EVT_EN_BLOCK s (bits w 16 16)

/-- PG_EVT AND PG_EVT_EN of a page slot (R46). -/
def evtMasked (b : Blk) (s : Nat) : Nat := Nat.land (evtWord b s) (evtEnWord b s)

/-- Set flags of a page's PG_EVT; its vector goes out when the masked value leaves zero (R46). -/
def setEvt (p : Page) (m : Nat) (b : Blk) : Blk :=
  let b' := flagSet (p.slot * 0x1000 + 0x10) m [] (putEvt p.slot (Nat.lor (evtWord b p.slot) m) b)
  if evtMasked b p.slot = 0 ∧ evtMasked b' p.slot ≠ 0 then sendVector p.vector b' else b'

/-- The block event bit `k` of a page, PG_EVT[16 + k]. -/
def evB (k : Nat) : Nat := 2 ^ (16 + k)

/-- After a write to PG_EVT or PG_EVT_EN the vector goes out again if enabled flags remain (R46). -/
def resendVector (p : Page) (b : Blk) : Blk := if evtMasked b p.slot ≠ 0 then sendVector p.vector b else b

/-- PG_ERRCNT, PG_FIRST_ERR and PG_EVT.ERROR for an event of severity warning or higher (R57). -/
def countErr (p : Page) (code sev detail : Nat) (b : Blk) : Blk :=
  if sev < sevWarning then b
  else
    let s := p.slot
    let b := b.bump F.PG_ERRCNT_COUNT s
    let b := if b.on F.PG_FIRST_ERR_VALID s then b
      else (((b.wr F.PG_FIRST_ERR_CODE s code).wr F.PG_FIRST_ERR_DETAIL s detail).wr
        F.PG_FIRST_ERR_SEV s sev).wr F.PG_FIRST_ERR_VALID s 1
    setEvt p 1 (flagSet (s * 0x1000 + 0x1C) (2 ^ 31) [(F.PG_FIRST_ERR_CODE.key s 0, code % 2 ^ 16),
      (F.PG_FIRST_ERR_DETAIL.key s 0, detail % 2 ^ 12), (F.PG_FIRST_ERR_SEV.key s 0, sev % 8)] b)

/-! ### The ring -/

/-- Unread records in the ring: ERR_WR_IDX − ERR_RD_IDX (R68). -/
def unread (b : Blk) : Nat := (b.rd F.ERR_WR_IDX_IDX 0 + 65536 - b.rd F.ERR_RD_IDX_IDX 0) % 65536

/-- The unread records, oldest first. -/
def unreadRecs (b : Blk) : List Rec :=
  (List.range (unread b)).filterMap fun j => mget b.ctl.ring ((b.rd F.ERR_RD_IDX_IDX 0 + j) % 256)

/-- Position of the oldest record of the lowest severity that is lower than `sev` (R67). -/
def victim (l : List Rec) (sev : Nat) : Option Nat :=
  let low := l.foldl (fun m r => Nat.min m r.sev) sev
  if low < sev then l.findIdx? (fun r => r.sev = low) else none

/-- A record lost from the ring is counted under its own severity, saturating at 255 (R67). -/
def countLost (sev : Nat) (b : Blk) : Blk :=
  match sev with
  | 0 => b.bump F.ERR_LOST_A_INFO 0
  | 1 => b.bump F.ERR_LOST_A_NOTICE 0
  | 2 => b.bump F.ERR_LOST_A_WARNING 0
  | 3 => b.bump F.ERR_LOST_A_ERROR 0
  | 4 => b.bump F.ERR_LOST_B_CRITICAL 0
  | _ => b.bump F.ERR_LOST_B_FATAL 0

/-- Write the unread records back into the ring slots from ERR_RD_IDX on. -/
def putUnread (l : List Rec) (b : Blk) : Blk :=
  let ring := (l.zipIdx).foldl (fun m e => mset m ((b.rd F.ERR_RD_IDX_IDX 0 + e.2) % 256) e.1) b.ctl.ring
  { b with ctl := { b.ctl with ring := ring } }

/-- A record reaches the ring: appended, or moved in over the oldest lowest-severity record, or discarded (R67). Vector
0 goes out when UNREAD leaves zero (R46). -/
def ringPut (r : Rec) (b : Blk) : Blk :=
  if unread b < 256 then
    let b' := { b with ctl := { b.ctl with ring := mset b.ctl.ring (b.rd F.ERR_WR_IDX_IDX 0 % 256) r } }
    let b' := b'.step F.ERR_WR_IDX_IDX 0
    if unread b = 0 then sendVector 0 b' else b'
  else
    let l := unreadRecs b
    match victim l r.sev with
    | none => countLost r.sev b
    | some k => countLost ((l[k]?.map (·.sev)).getD 0)
        ((putUnread (l.eraseIdx k ++ [r]) b).step F.ERR_STAT_MOVES 0)

/-- A record reaches the severe queue of 32 entries under the same rule (R67). -/
def severePut (r : Rec) (b : Blk) : Blk :=
  if b.ctl.severe.length < 32 then { b with ctl := { b.ctl with severe := b.ctl.severe ++ [r] } }
  else match victim b.ctl.severe r.sev with
    | none => b.bump F.ERR_SQ_STAT_LOST 0
    | some k => ({ b with ctl := { b.ctl with severe := b.ctl.severe.eraseIdx k ++ [r] } }).bump F.ERR_SQ_STAT_LOST 0

/-- SAFE_INT_N is asserted while the severe queue is not empty. -/
def safeInt (b : Blk) : Bool := !b.ctl.severe.isEmpty

/-- The four words of a record (R65). -/
def Rec.words (r : Rec) : List Nat :=
  [r.time % 2 ^ 32, (r.time / 2 ^ 32) % 2 ^ 32, r.code % 65536 + 65536 * (r.inst % 256) + 2 ^ 24 * (r.typ % 256),
   r.detail % 2 ^ 22 + 2 ^ 22 * (r.mid % 64) + 2 ^ 28 * (r.sev % 16)]

/-- Copy four words into a run of four one-word registers. -/
def putWords (f : Fld) (ws : List Nat) (b : Blk) : Blk :=
  (ws.zipIdx).foldl (fun b e => b.wr f 0 e.1 e.2) b

/-- Set SYS_ROLE, keeping the role before. -/
def setRole (r : Nat) (b : Blk) : Blk :=
  if b.rd F.SYS_ROLE_ROLE 0 = r then b
  else (b.wr F.SYS_ROLE_PREV 0 (b.rd F.SYS_ROLE_ROLE 0)).wr F.SYS_ROLE_ROLE 0 r

/-- Records of severity fatal: the first is kept in ERR_FATAL0–3, the module is not READY (R348), and one that owns its outputs takes
role CURTAIN (R37, R69). -/
def fatalAct (r : Rec) (b : Blk) : Blk :=
  if b.ctl.fatal then b
  else
    let b := putWords F.ERR_FATAL_WORD r.words { b with ctl := { b.ctl with fatal := true } }
    let b := b.wr F.PAIR_STAT_READY 0 0
    if b.rd F.SYS_ROLE_ROLE 0 = 3 then setRole 4 b else b

/-- A record reaches the ring and the severe queue as its severity selects (R65). -/
def deliver (r : Rec) (b : Blk) : Blk :=
  let b := if Nat.ble 2 r.sev || Nat.ble (b.rd F.ERR_CFG_MIN_SEV 0) r.sev then ringPut r b else b
  let b := if Nat.ble 5 r.sev || Nat.ble (b.rd F.ERR_CFG_SAFE_MIN_SEV 0) r.sev then severePut r b else b
  let b := if Nat.ble sevCritical r.sev then sendVector 1 b else b
  if r.sev = sevFatal then fatalAct r b else b

/-- A page raises an event: its record, its counters and captures, and the block flags in `evt` (R57, R65). -/
def raiseAs (mid : Nat) (p : Page) (code sev detail : Nat) (evt : Nat) (b : Blk) : Blk :=
  let b := deliver ⟨b.now, code, p.inst, p.blk.code, detail % 2 ^ 22, mid, sev⟩ b
  let b := countErr p code sev detail b
  if evt = 0 then b else setEvt p evt b

/-- A page raises an event under its block's own MID. -/
def raise (p : Page) (code sev detail : Nat) (evt : Nat) (b : Blk) : Blk := raiseAs p.blk.mid p code sev detail evt b

end Sys2Proof.Machine
end

