-- ==== Sys2Proof/Machine/Operands.lean ====
section
/-!
DEFINITION. What an address of the register space names (R54, R55, R44), which fields stand in a word, how a field is
read from and written into words, page capabilities (PG_CAPS), and the check-value computations used by several
chapters (R47, R103, R134, R397).
-/

namespace Sys2Proof.Machine

/-! ### Check values -/

/-- One step of a check register of width `w`: shift in one message bit. -/
def crcBit (w poly reg : Nat) (x : Nat) : Nat :=
  let fb := (reg / 2 ^ (w - 1) + x) % 2
  let r := (2 * reg) % 2 ^ w
  if fb = 1 then Nat.xor r poly else r

/-- The eight bits of a byte, in the order in which they enter. -/
def byteBits (refin : Bool) (v : Nat) : List Nat :=
  if refin then [v % 2, v / 2 % 2, v / 4 % 2, v / 8 % 2, v / 16 % 2, v / 32 % 2, v / 64 % 2, v / 128 % 2]
  else [v / 128 % 2, v / 64 % 2, v / 32 % 2, v / 16 % 2, v / 8 % 2, v / 4 % 2, v / 2 % 2, v % 2]

/-- One byte into the check register. -/
def crcByte (w poly : Nat) (refin : Bool) (reg v : Nat) : Nat := (byteBits refin v).foldl (crcBit w poly) reg

/-- The low `w` bits of a number in reverse order. -/
def revBits : Nat → Nat → Nat
  | 0, _ => 0
  | w + 1, v => (v % 2) * 2 ^ w + revBits w (v / 2)

/-- A check value over bytes (R397). -/
def crc (w poly init : Nat) (refin refout : Bool) (xorout : Nat) (l : List Nat) : Nat :=
  let r := l.foldl (crcByte w poly refin) (init % 2 ^ w)
  Nat.xor (if refout then revBits w r else r) (xorout % 2 ^ w)

/-- CRC-16 of the safety port (R47). -/
def crc16 : List Nat → Nat := crc 16 0x1021 0xFFFF false false 0

/-- CRC-32 of the freshness map and the proscenium check (R103, R194). -/
def crc32 : List Nat → Nat := crc 32 0x04C11DB7 0xFFFFFFFF true true 0xFFFFFFFF

/-- CRC-32C of signatures and digests (R134). -/
def crc32c : List Nat → Nat := crc 32 0x1EDC6F41 0xFFFFFFFF true true 0xFFFFFFFF

/-- CRC-8 of an SMBus packet error code, polynomial 0x07 (R52). PRESUMED: the SMBus specification's own. -/
def crc8 : List Nat → Nat := crc 8 0x07 0 false false 0

/-! ### Fields of a word -/

/-- A field found in a word: instance, index, and which word of the field it is. -/
structure Hit where
  f : Fld
  i : Nat
  k : Nat
  j : Nat

/-- Where a word offset of a table falls in a field: its index and word. -/
def Fld.hit (f : Fld) (o : Nat) : Option (Nat × Nat) :=
  if o < f.off then none
  else
    let d := o - f.off
    let k := if f.step = 0 then 0 else d / f.step
    let r := d - k * f.step
    if k < f.n ∧ r % 4 = 0 ∧ r / 4 < f.words then some (k, r / 4) else none

/-- The kind of the register table of a page beyond the header. -/
def Page.kind (p : Page) : Option Kind :=
  match p.blk with
  | .sys => some .sys | .err => some .err | .thm => some .thm | .hsw => some .hsw | .lane => some .lane
  | .nif => some .nif | .ing => some .ing | .vdc => some .vdc | .lfp => some .lfp | .stg => some .stg
  | .ohd => some .ohd | .crc => some .crc | .pair => some .pair | .chn => some .chn | .ens => some .ens
  | .sig => some .sig | .dbg => some .dbg
  | .acg => if p.inst = 0 then some .acg0 else if p.inst = 3 then some .acg3 else none
  | .clk => if p.inst = 0 then some .clkG else some .clkR
  | .xsd => if p.inst = 16 then some .xsdG else some .xsdC
  | .vec => if p.inst = 16 then some .vecG else some .vecC
  | .prm => if p.inst = 24 then some .prmG else some .prmS
  | .mem => if p.inst = 8 then some .memG else some .memC

/-- The fields of one table that stand in the word at an offset of instance `i`. -/
def hitsIn (kd : Kind) (i o : Nat) : List Hit :=
  kd.fields.filterMap fun f => (f.hit o).map fun e => ⟨f, i, e.1, e.2⟩

/-- What a BAR0 byte offset falls in. -/
inductive Target where
  /-- a page and an offset in it -/
  | page (p : Page) (off : Nat)
  /-- the ERR ring window -/
  | ring (off : Nat)
  /-- a layer descriptor -/
  | desc (i off : Nat)
  /-- a scene table entry -/
  | scene (i off : Nat)
  /-- a scene state entry word -/
  | sceneState (off : Nat)
  /-- the freshness window -/
  | fresh (off : Nat)
  /-- the protection proposal area -/
  | prop (off : Nat)
  /-- an ensemble member window -/
  | member (j off : Nat)
  /-- nothing (R44) -/
  | none_
  deriving DecidableEq, Repr

/-- The target of a BAR0 byte offset (R54, R55, R166, R169). -/
def target (a : Nat) : Target :=
  if a < 0x400000 then
    if 0x11000 ≤ a ∧ a < 0x12000 then .ring (a - 0x11000)
    else match pageOfSlot (a / 0x1000) with
      | some p => .page p (a % 0x1000)
      | none => .none_
  else if a < 0x500000 then .desc ((a - 0x400000) / 256) (a % 256)
  else if a < 0x580000 then .scene ((a - 0x500000) / 256) (a % 256)
  else if a < 0x584000 then .sceneState (a - 0x580000)
  else if a < 0x600000 then .none_
  else if a < 0x700000 then .fresh (a - 0x600000)
  else if a < 0x800000 then .prop (a - 0x700000)
  else if a < 0x4000000 then .member ((a - 0x800000) / 0x800000) (a % 0x800000)
  else .none_

/-- The fields that stand in the word at a BAR0 offset. -/
def hitsAt (a : Nat) : List Hit :=
  match target a with
  | .page p o =>
    if o < 0x40 then hitsIn .hdr p.slot o
    else match p.kind with
      | some kd => hitsIn kd p.inst o
      | none => []
  | .desc i o => hitsIn .ld i o
  | .scene i o => hitsIn .sc i o
  | _ => []

/-- ACG words that are views of the rule image and the violation log (R419, page tables of chapter 14). -/
def acgView (p : Page) (o : Nat) : Bool :=
  p.blk == .acg && ((p.inst == 1 && Nat.ble 0x800 o) || (p.inst == 2 && Nat.ble 0x400 o && Nat.blt o 0x850)
    || (p.inst == 3 && Nat.ble 0x400 o && Nat.blt o 0x800))

/-- A register table or region layout names this offset (R44). -/
def mapped (a : Nat) : Bool :=
  match target a with
  | .page p o => acgView p o || !(hitsAt a).isEmpty
  | .desc _ _ => !(hitsAt a).isEmpty
  | .scene _ _ => !(hitsAt a).isEmpty
  | .none_ => false
  | _ => true

/-- The 32 bits of word `j` of a field whose value is `v`. -/
def fldWord (f : Fld) (v j : Nat) : Nat := bits (v * 2 ^ f.lo) (32 * j) 32

/-- The value of a field after word `j` of its register is written with `data`. -/
def fldMerge (f : Fld) (v j data : Nat) : Nat := bits (setBits (v * 2 ^ f.lo) (32 * j) 32 data) f.lo f.w

/-- The stored fields of a word, put together; fields that read as 0 (WO) leave 0. -/
def rawWord (b : Blk) (a : Nat) : Nat :=
  (hitsAt a).foldl (fun acc h => if h.f.acc = .wo then acc else Nat.lor acc (fldWord h.f (b.rd h.f h.i h.k) h.j)) 0

/-! ### Page capabilities -/

/-- PG_CAPS.STAGED (each chapter's page paragraph). -/
def Page.stagedCap (p : Page) : Bool :=
  match p.blk with
  | .prm => true | .ing => true | .nif => true | .lfp => true | .stg => true | .vdc => true | .ohd => true
  | .crc => true
  | .xsd => p.inst != 16
  | .vec => p.inst != 16
  | _ => false

/-- PG_CAPS.RESETTABLE (R56 and each chapter's page paragraph). -/
def Page.resettable (p : Page) : Bool :=
  match p.blk with
  | .sys => false | .err => false | .acg => false | .thm => false | .hsw => false | .clk => false | .mem => false
  | .pair => false | .ens => false | .dbg => false
  | .xsd => p.inst != 16
  | .vec => p.inst != 16
  | _ => true

/-- PG_CAPS.LOCKABLE (each chapter's page paragraph). -/
def Page.lockable (p : Page) : Bool :=
  match p.blk with
  | .thm => true | .clk => true | .mem => true | .pair => true | .ens => true | .crc => true
  | _ => false

/-- PG_CAPS.BLOCK (each chapter's page paragraph). -/
def capsBlock (b : Blk) (p : Page) : Nat :=
  match p.blk with
  | .sys => 1 | .err => 0x100 | .thm => 0x27 | .hsw => 1 | .nif => 0x10 | .ing => 0x40 | .xsd => 0x10 | .vdc => 0x20
  | .vec => 0x10 | .lfp => 0x2010 | .stg => 0x840 | .prm => 72 + 64 * 256 | .crc => 0x40 | .pair => 2 | .chn => 4
  | .ens => 8 | .sig => 0x10 | .dbg => 1
  | .acg => if p.inst = 0 then 0x135 else 0
  | .ohd => if p.inst % 2 = 0 then 0x3F else 0x1F
  | .clk => if p.inst = 0 then 8 else [0, 0, 0, 0, 1, 2, 3, 4].getD (p.inst - 1) 0
  | .lane => if p.inst < 32 then 4 else if p.inst < 80 then 1 else 6
  | .mem => if p.inst = 8 then 8 else b.rd F.SYS_VARIANT_FITTED_GIB 0 / 8

end Sys2Proof.Machine
end

