-- ==== Sys2Proof/Machine/Contacts.lean ====
section
/-!
DEFINITION. The debounced-line state machine of R196 to R199, and the signal contacts of the SIG block.
-/

namespace Sys2Proof.Machine

/-! States of R196 as SIG_STATE codes them. -/

abbrev ctInactive : Nat := 0
abbrev ctActive : Nat := 1
abbrev ctFound : Nat := 2
abbrev ctStuck : Nat := 3
abbrev ctChatter : Nat := 4
abbrev ctDisabled : Nat := 5

/-- The state is asserted (R196). -/
def ctAsserted (s : Nat) : Bool := s == 1 || s == 2 || s == 3 || s == 4

/-- One sample of a line, every 100 µs; the first after a restart begins the first run. The run at the present level counts sample intervals; the unsettled window opens at
the first change after a level that held, and closes when that level holds again (R196, R197). `deb` is DEBOUNCE in
samples. -/
def Contact.sample (now deb : Nat) (level : Bool) (c : Contact) : Contact :=
  if c.fresh then { c with fresh := false, level := level, run := 0, lastChange := now }
  else if level = c.level then
    let c := { c with run := c.run + 1 }
    if deb ≤ c.run ∧ c.settled = some level then { c with openAt := none } else c
  else
    { c with level := level, run := 0, lastChange := now,
             openAt := match c.openAt with | some t => some t | none => some now }

/-- A line restarted as at enable: undecided, no sample taken. -/
def Contact.restart (c : Contact) : Contact := { past := c.past }

/-- A run has held for DEBOUNCE at a level that is not the one that held last. -/
def Contact.due (deb : Nat) (c : Contact) : Bool := !c.fresh && Nat.ble deb c.run && c.settled != some c.level

/-- What a debounced run does (R196, R197): the next state, and the line afterwards. `chWin` is in ns. -/
def Contact.debounced (now chN chWin state : Nat) (c : Contact) : Nat × Contact :=
  let changed := c.settled.isSome
  let win := if changed then (c.changes ++ [now]).filter fun t => Nat.ble now (t + chWin) else c.changes
  let c' := { c with settled := some c.level, openAt := none, changes := win }
  if changed ∧ chN ≤ win.length then (ctChatter, { c' with changes := [] })
  else if c.level then
    if c.settled.isNone then (ctFound, { c' with since := now })
    else if state = ctInactive then (ctActive, { c' with since := now })
    else (state, c')
  else (ctInactive, c')

/-- CHATTER ends after a quiet time, with the state of the level (R197). -/
def Contact.quiet (now quietNs : Nat) (c : Contact) : Bool := Nat.ble (c.lastChange + quietNs) now

/-- The line as it leaves CHATTER. -/
def Contact.leave (now : Nat) (c : Contact) : Nat × Contact :=
  (if c.level then ctActive else ctInactive,
   { c with settled := some c.level, openAt := none, changes := [], since := now })

/-! ### The SIG block -/

def sigPage : Page := ⟨.sig, 0⟩

/-- SIG_STATE.STATE of a contact. -/
def sigStateF (j : Nat) : Fld :=
  match j % 8 with
  | 0 => F.SIG_STATE_STATE0 | 1 => F.SIG_STATE_STATE1 | 2 => F.SIG_STATE_STATE2 | 3 => F.SIG_STATE_STATE3
  | 4 => F.SIG_STATE_STATE4 | 5 => F.SIG_STATE_STATE5 | 6 => F.SIG_STATE_STATE6 | _ => F.SIG_STATE_STATE7

/-- SIG_STATE.ASSERTED of a contact. -/
def sigAssertF (j : Nat) : Fld :=
  match j % 8 with
  | 0 => F.SIG_STATE_ASSERTED0 | 1 => F.SIG_STATE_ASSERTED1 | 2 => F.SIG_STATE_ASSERTED2 | 3 => F.SIG_STATE_ASSERTED3
  | 4 => F.SIG_STATE_ASSERTED4 | 5 => F.SIG_STATE_ASSERTED5 | 6 => F.SIG_STATE_ASSERTED6 | _ => F.SIG_STATE_ASSERTED7

/-- The state of a contact. -/
def sigState (b : Blk) (j : Nat) : Nat := b.rd (sigStateF j) 0 (j / 8)

/-- The sampled line of a contact. -/
def Blk.contact (b : Blk) (j : Nat) : Contact := mgetD b.contacts j {}

/-- Store a contact's line. -/
def Blk.putContact (b : Blk) (j : Nat) (c : Contact) : Blk := { b with contacts := mset b.contacts j c }

/-- Set the state of a contact, with its ASSERTED bit. -/
def putSigState (j s : Nat) (b : Blk) : Blk :=
  let old := sigState b j
  let b := (b.wr (sigStateF j) 0 s (j / 8)).put (sigAssertF j) 0 (ctAsserted s) (j / 8)
  if s = old then b
  else b.putContact j { b.contact j with past := (b.up, old) :: (b.contact j).past.filter fun e => Nat.blt b.up (e.1 + 234) }

/-- The state of a contact as a stage reads it at a curtain-up: changes less than 233.3 ns old are not yet seen (R189), so that the state
left by the earliest of them counts. -/
def contactSeen (b : Blk) (j : Nat) : Nat :=
  match ((b.contact j).past.filter fun e => Nat.blt b.up (e.1 + 234)).getLast? with
  | some e => e.2
  | none => sigState b j

/-- DEBOUNCE of a contact in samples of 100 µs. -/
def sigDeb (b : Blk) (j : Nat) : Nat := 10 * b.rd F.SIG_CFG_DEBOUNCE 0 j

/-- CH_WIN of a contact in ns. -/
def sigWin (b : Blk) (j : Nat) : Nat := 100000000 * b.rd F.SIG_CFG_CH_WIN 0 j

/-- The contact is judged: EN is 1 (R196). -/
def sigOn (b : Blk) (j : Nat) : Bool := b.on F.SIG_CFG_EN 0 j

/-- One contact's sample: a pin level, its raw bit, and in CHATTER the count of suppressed changes (R196, R197). -/
def sigSampleOne (levels j : Nat) (b : Blk) : Blk :=
  if sigOn b j then
    let act := bit levels j == b.on F.SIG_CFG_ACTIVE_HIGH 0 j
    let c := b.contact j
    let b := b.wr F.SIG_RAW_ACTIVE 0 (setBits (b.rd F.SIG_RAW_ACTIVE 0) j 1 (b2n act))
    let b := if sigState b j = ctChatter ∧ !c.fresh ∧ act ≠ c.level then b.bump F.SIG_SUPPRESSED_COUNT 0 else b
    b.putContact j (c.sample b.now (sigDeb b j) act)
  else b

/-- The event of a contact's change (R196, R202). -/
def sigEvent (code sev j extra evt : Nat) (b : Blk) : Blk := raise sigPage code sev (j + 16 * extra) evt b

/-- A contact enters a state by a debounced run: its event (R196). -/
def sigReport (j old new : Nat) (b : Blk) : Blk :=
  if new = ctChatter then sigEvent 0x104 sevWarning j 0 (evB 1) b
  else if new = ctFound then sigEvent 0x102 sevWarning j 0 (evB 0) b
  else if new = old then b
  else if new = ctActive then sigEvent 0x100 sevWarning j 0 (evB 0) b
  else if new = ctInactive then sigEvent 0x101 sevNotice j 0 (evB 0) b
  else b

/-- SIG_SAMPLE: every enabled contact takes the level of its pin. -/
def execSigSample (dt levels : Nat) (s : State) : Host.Outcome State Fault Refusal :=
  eff dt s (forEach (List.range 16) (sigSampleOne levels))

/-- The debounced run of a contact acts. -/
def contactDebounced (j : Nat) (b : Blk) : Blk :=
  let c := b.contact j
  let old := sigState b j
  if sigOn b j ∧ old ≠ ctChatter ∧ c.due (sigDeb b j) = true then
    let r := c.debounced b.now (b.rd F.SIG_CFG_CH_N 0 j) (sigWin b j) old
    sigReport j old r.1 (putSigState j r.1 (b.putContact j r.2))
  else b

/-- CONTACT_DEBOUNCED. -/
def execContactDebounced (dt c : Nat) (s : State) : Host.Outcome State Fault Refusal := eff dt s (contactDebounced c)

/-- A contact asserted for STUCK_T becomes STUCK (R196, R198). -/
def contactStuck (j : Nat) (b : Blk) : Blk :=
  let st := sigState b j
  if (st = ctActive ∨ st = ctFound) ∧ (b.contact j).since + b.rd F.SIG_STUCK_STUCK_T 0 j * 1000000000 ≤ b.now then
    sigEvent 0x103 sevWarning j 0 (evB 1) (putSigState j ctStuck b)
  else b

/-- CONTACT_STUCK. -/
def execContactStuck (dt c : Nat) (s : State) : Host.Outcome State Fault Refusal := eff dt s (contactStuck c)

/-- An unsettled window open for CH_WIN takes the contact to CHATTER (R197). -/
def unsettledTimeout (j : Nat) (b : Blk) : Blk :=
  let c := b.contact j
  match c.openAt with
  | some t =>
    if sigOn b j ∧ sigState b j ≠ ctChatter ∧ t + sigWin b j ≤ b.now then
      sigEvent 0x104 sevWarning j 0 (evB 1)
        (putSigState j ctChatter (b.putContact j { c with openAt := none, changes := [] }))
    else b
  | none => b

/-- UNSETTLED_TIMEOUT. -/
def execUnsettledTimeout (dt c : Nat) (s : State) : Host.Outcome State Fault Refusal := eff dt s (unsettledTimeout c)

/-- CHATTER ends: event 0x0105 with the new state (R196, R197). -/
def chatterEnd (j : Nat) (b : Blk) : Blk :=
  let c := b.contact j
  if sigState b j = ctChatter ∧ c.quiet b.now (Nat.max (sigWin b j) (100000 * sigDeb b j)) = true then
    let r := c.leave b.now
    sigEvent 0x105 sevNotice j r.1 0 (putSigState j r.1 (b.putContact j r.2))
  else b

/-- CHATTER_END. -/
def execChatterEnd (dt c : Nat) (s : State) : Host.Outcome State Fault Refusal := eff dt s (chatterEnd c)

/-- What a write of SIG_CFGk does beside storing it: a contact newly enabled, or with a new polarity, restarts; one with EN
at 0 is DISABLED (R196). -/
def contactConfigured (j : Nat) (oldEn oldPol : Bool) (b : Blk) : Blk :=
  if !sigOn b j then putSigState j ctDisabled b
  else if !oldEn || oldPol != b.on F.SIG_CFG_ACTIVE_HIGH 0 j then
    putSigState j ctInactive (b.putContact j (b.contact j).restart)
  else b

/-- Every enabled contact restarts as at enable: operating state reached, soft reset of the SIG page (R196, R199). -/
def contactsRestart (b : Blk) : Blk :=
  forEach (List.range 16) (fun j b => if sigOn b j then putSigState j ctInactive (b.putContact j (b.contact j).restart)
    else b) b

end Sys2Proof.Machine
end

