-- ==== Sys2Proof/Config.lean ====
section
/-!
DEFINITION. What an implementation fixes and the values that the spec leaves open. An opaque constant has no body that a
proof can see: a statement that holds, holds for every value.
-/

namespace Sys2Proof.Config

/-- A pixel of a badge-font glyph, for a character code, column and line of its 12 × 24 cell: the manual names the font and
the cell, not the shapes. -/
opaque glyph : Nat → Nat → Nat → Bool

/-- The host part of a link-local address claimed under RFC 3927, drawn at random: one value for each draw. -/
opaque linkLocal : Nat → Nat

/-- The random time of a repeated membership report, ns within 1 s (R113): one value for each draw. -/
opaque reportDelay : Nat → Nat

/-- The codec standards' interpolation at a quarter-pixel fraction, from the 8 × 8 reference samples around it (R217). -/
opaque interpolate : Nat → Nat → List Nat → Nat

/-- The same for a chroma sample, at an eighth-sample fraction, from the 4 × 4 reference samples around it (R217). -/
opaque interpolateChroma : Nat → Nat → List Nat → Nat

/-- Bits that the hypothetical reference decoder of an encoder context holds before its first picture (R233). -/
opaque hrdStart : Nat → Nat

/-- A component of the colour of the curtain's text, 10-bit full range (R265 names the box, not the text colour). -/
opaque curtainText : Nat → Nat

end Sys2Proof.Config
end

