-- ==== Sys2Proof/Machine/Access.lean ====
section
/-!
DEFINITION. Access control (chapter "Access control and countersigning"): slots, the rule image, the decision on an
access (R406 to R413), and violations (R416).
-/

namespace Sys2Proof.Machine

def acgPage : Page := ⟨.acg, 0⟩

/-! ### The rule image -/

/-- The words of the reset image (R420). -/
def resetImageWord (i : Nat) : Nat :=
  if i < 309 then 0xF else if i = 768 then 0x1FFB1FFB else if i = 770 then 10 + 256 * 60 else 0

/-- Word `i` of an image of 788 words (R419). -/
def imgWord (m : Image) (i : Nat) : Nat := if i < 788 then (mget m i).getD (resetImageWord i) else 0

/-- The bytes of an image, in address order. -/
def imgBytes (m : Image) : List Nat := (List.range 788).flatMap fun i => leBytes 4 (imgWord m i)

/-- The rule digest (R421). -/
def ruleDigest (m : Image) : Nat := crc32c (imgBytes m)

/-- The proposal digest: PROP_SEQ as 8 bytes before the image (R421). -/
def propDigest (seq : Nat) (m : Image) : Nat := crc32c (leBytes 8 seq ++ imgBytes m)

/-- The rule word of a slot. -/
def slotWord (b : Blk) (k : Nat) : Nat := imgWord b.acg.image k

/-- The slot of a BAR0 offset (R410). -/
def acgSlot (a : Nat) : Option Nat :=
  match target a with
  | .page p _ => some (match p.blk with
    | .sys => 0 | .err => 1 | .acg => 2 | .thm => 3 | .hsw => 4 | .clk => 5 + p.inst | .lane => 14 + p.inst / 4
    | .nif => 38 + p.inst | .ing => 54 + p.inst / 2 | .xsd => 86 + p.inst | .vdc => 103 + p.inst
    | .vec => 135 + p.inst | .lfp => 152 + p.inst / 4 | .stg => 176 + p.inst | .prm => 200 + p.inst
    | .ohd => 225 + p.inst | .crc => 249 + p.inst / 2 | .mem => 265 + p.inst | .pair => 274 | .chn => 275 + p.inst
    | .ens => 279 | .sig => 280 | .dbg => 281)
  | .ring _ => some 1
  | .desc i _ => some (282 + i / 256)
  | .scene i _ => some (298 + i / 256)
  | .sceneState _ => some 306
  | .fresh _ => some 306
  | .prop _ => some 307
  | .member _ _ => some 308
  | .none_ => none

/-- A slot word's LOCK bit. -/
def slotLocked (b : Blk) (k : Nat) : Bool := bit (slotWord b k) 10

/-- The MID that owns a slot, 0 when none. -/
def slotOwner (b : Blk) (k : Nat) : Nat :=
  match bits (slotWord b k) 8 2 with
  | 1 => 0x01
  | 2 => 0x04
  | _ => 0

/-- Debug is admitted to a slot (R419, R425). -/
def dbgAdmitted (b : Blk) (k : Nat) : Bool := bit (imgWord b.acg.image (772 + k / 32)) (k % 32)

/-- Slots admitted to debug. -/
def dbgSlots (b : Blk) : Nat := ((List.range 309).filter (dbgAdmitted b)).length

/-- The bit of a slot word that grants a MID a read or a write (R411). -/
def slotGrants (b : Blk) (k mid : Nat) (write : Bool) : Bool :=
  let w := slotWord b k
  let o := b2n write
  if mid = 0x01 then bit w o && !(write && k == 297)
  else if mid = 0x04 then bit w (2 + o)
  else if mid = 0x08 then bit w (4 + o) && !(write && k == 297)
  else false

/-- The slot rule for MIDs 0x01, 0x04 and 0x08 (R411). -/
def slotRule (b : Blk) (k mid : Nat) (write : Bool) : Bool :=
  if slotLocked b k then
    if mid = 0x08 then dbgAdmitted b k && slotGrants b k mid write
    else mid == slotOwner b k && slotGrants b k mid write
  else slotGrants b k mid write

/-- The offset lies in a page header, which every MID may read (R58). -/
def inHeader (a : Nat) : Bool :=
  match target a with
  | .page _ o => Nat.blt o 0x40
  | _ => false

/-- Words whose every field only MID 0x04 may write (R412): SYS_SWIN1–3, PRM_FLOOR, STG offsets 0x200 to 0x4FF. -/
def safeOnly (a : Nat) : Bool :=
  match target a with
  | .page p o =>
    (p.blk == .sys && Nat.ble 0x60 o && Nat.blt o 0x6C)
      || (p.blk == .prm && p.inst == 24 && o == 0x40)
      || (p.blk == .stg && Nat.ble 0x200 o && Nat.blt o 0x500)
  | _ => false

/-- A field that the fixed rules let only MID 0x04 write, in a word with other fields (R412). -/
def Fld.safeField (f : Fld) : Bool := f.mids == [4]

/-- A write by `mid` would change a restricted field of the word (R412). -/
def changesRestricted (b : Blk) (a mid data : Nat) : Bool :=
  (hitsAt a).any fun h => h.f.safeField && !(mid == 0x04 || mid == 0x20 || mid == 0)
    && (fldMerge h.f (b.rd h.f h.i h.k) h.j data != b.rd h.f h.i h.k)

/-- The word holds an RWL field (R411). -/
def hasRwl (a : Nat) : Bool := (hitsAt a).any fun h => h.f.acc == .rwl

/-- The decision on a register access: none when granted, else the kind of violation (R406, R411, R412, R416). -/
def regCheck (b : Blk) (mid a : Nat) (write : Bool) : Option Nat :=
  let kd := b2n write
  match acgSlot a with
  | none => none
  | some k =>
    if !write && inHeader a then none
    else if k = 2 then (if !write || mid == 0x01 || mid == 0x04 || mid == 0x20 then none else some 3)
    else if k = 306 then
      (if write || mid == 0x01 || mid == 0x04 || mid == 0x08 || mid == 0x30 || mid == 0x20 then none else some 0)
    else if k = 307 then none
    else if k = 308 then (if mid == 0x01 || mid == 0x04 then none else some kd)
    else if k = 281 then (if !write then none else if mid == 0x08 && slotRule b k mid true then none else some 3)
    else if write && safeOnly a && !(mid == 0x04 || mid == 0x20) then some 3
    else if mid = 0x20 then
      (if !(slotRule b k 0x01 write || slotRule b k 0x04 write) then some kd
       else if write && slotLocked b k && hasRwl a then some 2
       else none)
    else if mid = 0x30 then (if !write || k == 3 || k == 4 then none else some 1)
    else if mid = 0x01 ∨ mid = 0x04 ∨ mid = 0x08 then
      (if !slotRule b k mid write then some kd
       else if write && slotLocked b k && hasRwl a then some 2
       else none)
    else some kd

/-! ### The frame store -/

/-- The mask bit of a MID (R406); none for a MID that has none. -/
def maskBit (mid : Nat) : Option Nat :=
  if mid = 0x01 then some 0 else if mid = 0x04 then some 1 else if mid = 0x08 then some 2
  else if 0x10 ≤ mid ∧ mid ≤ 0x19 then some (mid - 0x10 + 3)
  else if mid = 0x30 then some 13 else none

/-- Base, size, read mask and write mask of a region (R419, `ACG_REGIONr`). -/
def region (m : Image) (r : Nat) : Nat × Nat × Nat × Nat :=
  (bits (imgWord m (512 + 4 * r)) 0 28, bits (imgWord m (513 + 4 * r)) 0 28, bits (imgWord m (514 + 4 * r)) 0 16,
   bits (imgWord m (514 + 4 * r)) 16 16)

/-- The enabled region that holds a frame-store byte address (R413). -/
def regionOf (m : Image) (a : Nat) : Option Nat :=
  (List.range 64).find? fun r =>
    let q := region m r
    q.2.1 != 0 && Nat.ble q.1 (a / 4096) && Nat.blt (a / 4096) (q.1 + q.2.1)

/-- The decision on a frame-store access (R412, R413): MID 0x20 has what 0x01 or 0x04 has (R406). -/
def fsGranted (b : Blk) (mid a : Nat) (write : Bool) : Bool :=
  if mid = 0x19 then true
  else
    let mask := match regionOf b.acg.image a with
      | some r => let q := region b.acg.image r; if write then q.2.2.2 else q.2.2.1
      | none => let d := imgWord b.acg.image 768; if write then d / 65536 else d % 65536
    if mid = 0x20 then bit mask 0 || bit mask 1
    else match maskBit mid with
      | none => false
      | some k => bit mask k

/-! ### Violations -/

/-- Two violations are the same for folding: MID, kind, slot or region, and address (R416). -/
def Viol.same (u v : Viol) : Bool :=
  u.mid == v.mid && u.kind == v.kind && u.where_ == v.where_ && u.region == v.region && u.addr == v.addr

/-- The four words of a violation record (R416). -/
def Viol.words (v : Viol) : List Nat :=
  [v.addr % 2 ^ 32,
   (v.addr / 2 ^ 32) % 256 + 256 * (v.mid % 64) + 2 ^ 14 * (v.kind % 8) + 2 ^ 17 * (v.where_ % 512)
     + 2 ^ 26 * b2n v.region + 2 ^ 27 * (v.port % 8),
   v.time % 2 ^ 32, v.epoch % 65536 + 65536 * (v.repeats % 65536)]

/-- The newest record of the violation log and its slot. -/
def newestViol (b : Blk) : Option (Nat × Viol) :=
  let i := (b.rd F.ACG_VLOG_WR_IDX 3 + 65535) % 65536 % 64
  (mget b.acg.log i).map fun v => (i, v)

/-- A violation is counted, and captured in ACG_VFIRST unless that holds one (R416). -/
def violCaptured (v : Viol) (b : Blk) : Blk :=
  let w := ({ v with repeats := 0 } : Viol).words
  let b := flagSet 0x20074 (2 ^ 31) [(F.ACG_VFIRST_W0.key 0 0, w.getD 0 0 % 2 ^ 32), (F.ACG_VFIRST_W1.key 0 0, w.getD 1 0 % 2 ^ 31),
    (F.ACG_VFIRST_W2.key 0 0, w.getD 2 0 % 2 ^ 32), (F.ACG_VFIRST_W3.key 0 0, w.getD 3 0 % 2 ^ 32)] (b.bump F.ACG_VIOL_COUNT_COUNT 0)
  if b.on F.ACG_VFIRST_VALID 0 then b
  else
    ((((b.wr F.ACG_VFIRST_W0 0 (w.getD 0 0)).wr F.ACG_VFIRST_W1 0 (w.getD 1 0)).wr F.ACG_VFIRST_W2 0 (w.getD 2 0)).wr
      F.ACG_VFIRST_W3 0 (w.getD 3 0)).wr F.ACG_VFIRST_VALID 0 1

/-- The newest record, where a violation repeats it within 1 ms (R416). -/
def violRepeats (v : Viol) (b : Blk) : Option (Nat × Viol) :=
  match newestViol b with
  | some (i, u) => if u.same v && Nat.ble v.time (u.time + 1000000) then some (i, u) else none
  | none => none

/-- A refused access: counted, captured in ACG_VFIRST, logged with repeats folded within 1 ms, and event 0x0100 for each
new record (R416). -/
def violation (v : Viol) (b : Blk) : Blk :=
  let c := violCaptured v b
  match violRepeats v b with
  | some (i, u) =>
    { c with acg := { c.acg with log := mset c.acg.log i { u with repeats := satAdd u.repeats 1 65535 } } }
  | none =>
    let i := c.rd F.ACG_VLOG_WR_IDX 3
    let d := { c with acg := { c.acg with log := mset c.acg.log (i % 64) v } }
    raiseAs v.mid acgPage 0x100 (if v.kind = 4 then sevCritical else sevWarning)
      (v.mid + 64 * v.where_ + 2 ^ 15 * b2n v.region + 2 ^ 16 * v.kind) (evB 0) (d.step F.ACG_VLOG_WR_IDX 3)

/-- A violation of a register access. -/
def regViolation (port mid a kind : Nat) (b : Blk) : Blk :=
  violation ⟨a, mid, kind, (acgSlot a).getD 0, false, port, b.now, b.rd F.ACG_EPOCH_VALUE 0, 0⟩ b

/-- A violation of a frame-store access; where no enabled region holds the bytes the region field is 0 (R416). -/
def fsViolation (port mid a kind : Nat) (b : Blk) : Blk :=
  violation ⟨a, mid, kind, (regionOf b.acg.image a).getD 0, true, port, b.now, b.rd F.ACG_EPOCH_VALUE 0, 0⟩ b

end Sys2Proof.Machine
end

