-- ==== Sys2Proof/Machine/Freshness.lean ====
section
/-!
DEFINITION. The prompter (chapter "The freshness contract"): effective policies and the stale floor, deadlines, evidence,
the verdict of a placement, the audit log, layer states and freshness maps. Drawing is in `Pixels`.
-/

namespace Sys2Proof.Machine

def prmGlobal : Page := ⟨.prm, 24⟩
def prmPage (st : Nat) : Page := ⟨.prm, st⟩

/-! ### Verdicts (R73) -/

/-- Rank of a verdict in the order of R73, 0 the best. -/
def vrank (v : Nat) : Nat :=
  match v with
  | 1 => 0 | 6 => 1 | 5 => 2 | 2 => 3 | 3 => 4 | 4 => 5 | _ => 6

/-- The worse of two verdicts (R73). -/
def vworse (a b : Nat) : Nat := if vrank a < vrank b then b else a

/-- The worst of a list of verdicts, STILL when there is none. -/
def vworst : List Nat → Nat
  | [] => 6
  | v :: t => t.foldl vworse v

/-! ### Effective policy values (R100) -/

/-- The values of a policy that the prompter uses, times in ns. -/
structure Eff where
  cls : Nat
  useContent : Bool
  usePulse : Bool
  useCodec : Bool
  timed : Bool
  freezeN : Nat
  changeMin : Nat
  recoverN : Nat
  motionMin : Nat
  late : Nat
  stale : Nat
  dark : Nat
  pulseMax : Nat
  widen : Nat
  dimStale : Nat
  dimFrozen : Nat
  dimDeg : Nat
  hatch : Bool
  fl : Bool
  badge : Bool
  border : Bool
  flCorner : Nat
  badgeCorner : Nat
  scale : Nat
  deriving DecidableEq, Repr

/-- The effective values of policy `p`: the written ones, and for the live classes the stale floor over them (R100). -/
def effPol (b : Blk) (p : Nat) : Eff :=
  let r (f : Fld) := b.rd f 24 p
  let cls := r F.PRM_POL_CTRL_CLASS
  let live := cls != 2
  let g (f : Fld) := b.rd f 24
  let cap := g F.PRM_FLOOR_STALE_CAP * 100000000
  let stale0 := r F.PRM_POL_STALE_STALE_T * 100000
  let stale := if live then Nat.min stale0 cap else stale0
  let late0 := r F.PRM_POL_LATE_LATE_T * 100000
  let dark0 := r F.PRM_POL_DARK_DARK_T * 1000000
  let dim (x : Nat) := if live then Nat.max x (g F.PRM_FLOOR_MIN_DIM) else x
  { cls := cls
    useContent := cls == 0 || r F.PRM_POL_CTRL_USE_CONTENT == 1
    usePulse := r F.PRM_POL_CTRL_USE_PULSE == 1
    useCodec := r F.PRM_POL_CTRL_USE_CODEC_STATS == 1
    timed := r F.PRM_POL_CTRL_TIMED == 1
    freezeN := r F.PRM_POL_CTRL_FREEZE_N
    changeMin := r F.PRM_POL_CTRL_CHANGE_MIN
    recoverN := r F.PRM_POL_CTRL_RECOVER_N
    motionMin := r F.PRM_POL_MOTION_MOTION_MIN
    late := if live then Nat.min late0 stale else late0
    stale := stale
    dark := if dark0 = 0 then 0 else if live then Nat.max dark0 stale else dark0
    pulseMax := r F.PRM_POL_PULSE_PULSE_MAX * 1000000
    widen := r F.PRM_POL_PULSE_UNC_WIDEN * 1000000
    dimStale := dim (r F.PRM_POL_DIM_DIM_STALE)
    dimFrozen := dim (r F.PRM_POL_DIM_DIM_FROZEN)
    dimDeg := r F.PRM_POL_DIM_DIM_DEGRADED
    hatch := r F.PRM_POL_MARKS_HATCH_EN == 1
    fl := r F.PRM_POL_MARKS_FL_EN == 1 || (live && g F.PRM_FLOOR_FL_REQUIRED == 1)
    badge := r F.PRM_POL_MARKS_BADGE_EN == 1 || (live && g F.PRM_FLOOR_BADGE_REQUIRED == 1)
    border := r F.PRM_POL_MARKS_BORDER_EN == 1 || (live && g F.PRM_FLOOR_BORDER_REQUIRED == 1)
    flCorner := r F.PRM_POL_MARKS_FL_CORNER
    badgeCorner := r F.PRM_POL_MARKS_BADGE_CORNER
    scale := r F.PRM_POL_MARKS_BADGE_SCALE }

/-- A written value of a live-class policy is clamped by the floor (R100). DESIGN CHOICE (log 78): a footlight, badge or border that the
floor forces on counts as a clamped value. -/
def polClamped (b : Blk) (p : Nat) : Bool :=
  let r (f : Fld) := b.rd f 24 p
  let g (f : Fld) := b.rd f 24
  let e := effPol b p
  r F.PRM_POL_CTRL_CLASS != 2 &&
    (e.stale != r F.PRM_POL_STALE_STALE_T * 100000 || e.late != r F.PRM_POL_LATE_LATE_T * 100000
      || e.dark != r F.PRM_POL_DARK_DARK_T * 1000000
      || e.dimStale != r F.PRM_POL_DIM_DIM_STALE || e.dimFrozen != r F.PRM_POL_DIM_DIM_FROZEN
      || (r F.PRM_POL_MARKS_FL_EN == 0 && g F.PRM_FLOOR_FL_REQUIRED == 1)
      || (r F.PRM_POL_MARKS_BADGE_EN == 0 && g F.PRM_FLOOR_BADGE_REQUIRED == 1)
      || (r F.PRM_POL_MARKS_BORDER_EN == 0 && g F.PRM_FLOOR_BORDER_REQUIRED == 1))

/-- The clamp bit of a policy, and event 0x0104 when it goes from 0 to 1 (R100). -/
def refreshClamp (p : Nat) (b : Blk) : Blk :=
  let f := if p < 32 then F.PRM_CLAMPS_LO_CLAMPED else F.PRM_CLAMPS_HI_CLAMPED
  let w := b.rd f 24
  let old := bit w (p % 32)
  let new := polClamped b p
  let b := b.wr f 24 (setBits w (p % 32) 1 (b2n new))
  if new && !old then raise prmGlobal 0x104 sevNotice p (evB 3) b else b

/-- The clamp bits of every policy. -/
def refreshClamps (b : Blk) : Blk := forEach (List.range 64) refreshClamp b

/-! ### Layers and placements -/

/-- What the prompter holds of a layer. -/
def Blk.layer (b : Blk) (l : Nat) : LayerSt := mgetD b.prm.layers l {}

/-- Store a layer's state. -/
def Blk.putLayer (b : Blk) (l : Nat) (x : LayerSt) : Blk :=
  { b with prm := { b.prm with layers := mset b.prm.layers l x } }

/-- A placement, by stage and slot. -/
def Blk.place (b : Blk) (st k : Nat) : Option Place := mget b.prm.places (st * 72 + k)

/-- Store a placement. -/
def Blk.putPlace (b : Blk) (st k : Nat) (x : Place) : Blk :=
  { b with prm := { b.prm with places := mset b.prm.places (st * 72 + k) x } }

/-- Every placement with its stage and slot. -/
def places (b : Blk) : List (Nat × Nat × Place) := b.prm.places.map fun e => (e.1 / 72, e.1 % 72, e.2)

/-- The placements of a layer. -/
def placesOf (b : Blk) (l : Nat) : List (Nat × Nat × Place) := (places b).filter fun e => e.2.2.layer == l

/-- The placements of a stage. -/
def placesAt (b : Blk) (st : Nat) : List (Nat × Nat × Place) := (places b).filter fun e => e.1 == st

/-- The effective policy of a layer. -/
def layerPol (b : Blk) (l : Nat) : Eff := effPol b (b.rd F.LD_CTRL_POLICY l)

/-- The time base is uncertain (R81). -/
def uncertain (b : Blk) : Bool := b.on F.PRM_GSTAT_UNCERTAIN 24

/-- Basis time and deadlines of a frame under a policy (R77, R79): `unc` says that B = A only because the time base is
uncertain. -/
def withDeadlines (e : Eff) (unc : Bool) (f : Frame) : Frame :=
  let useC := e.timed && f.cap.isSome && !unc
  let u := e.timed && f.cap.isSome && unc
  let basis := if useC then f.cap.getD 0 else f.arr
  let w := if u then e.widen else 0
  { f with basis := basis, unc := u, late := basis + e.late + w, stale := basis + e.stale + w,
           dark := if e.dark = 0 then none else some (basis + e.dark + w) }

/-- The time component of R86 with its reason (R106). -/
def timePart (now cls : Nat) : Option Frame → Nat × Nat
  | none => (0, 0x03)
  | some f =>
    if cls = 2 then (6, 0x07)
    else if (match f.dark with | some d => Nat.ble d now | none => false) then (0, 0x06)
    else if f.stale ≤ now then (3, 0x05)
    else if f.late ≤ now then (2, 0x04)
    else (1, 0x07)

/-- The cause of R85 that holds highest in its table, 0 when there is no damage. -/
def damageWhy (decim : Nat) : Option Frame → Nat
  | none => 0
  | some f =>
    if !f.loss.isEmpty then 0x0B else if !f.conceal.isEmpty then 0x0C else if f.subst then 0x0D
    else if decim ≠ 0 ∨ f.decim then 0x0E else 0

/-- The verdict of a frame on display with the layer's content and damage evidence, and its reason (R86). -/
def judge (now cls : Nat) (L : LayerSt) (decim : Nat) (d : Option Frame) : Nat × Nat :=
  let t := timePart now cls d
  let c := if L.frozen && cls != 2 then (4, L.frozenWhy) else (1, 0)
  let w := damageWhy decim d
  let g := if w = 0 then (1, 0) else (5, w)
  let x := if vrank c.1 < vrank t.1 ∨ c.1 = t.1 then t else c
  if vrank g.1 ≤ vrank x.1 then x else g

/-- The frame on display that counts for the verdict: one newer than a soft reset of the PRM page. -/
def Place.shown (p : Place) : Option Frame :=
  match p.disp with
  | some f => if p.after < f.serial then some f else none
  | none => none

/-- Verdict counters of a stage page, and its PRM_SSTAT (page tables of chapter 3). -/
def refreshStage (st : Nat) (b : Blk) : Blk :=
  let l := (placesAt b st).map (·.2.2)
  let n (v : Nat) := (l.filter (·.verdict == v)).length
  let b := (((b.wr F.PRM_VCOUNT0_LIVE st (n 1)).wr F.PRM_VCOUNT0_LATE st (n 2)).wr F.PRM_VCOUNT0_STALE st (n 3)).wr
    F.PRM_VCOUNT0_FROZEN st (n 4)
  let b := ((b.wr F.PRM_VCOUNT1_DEGRADED st (n 5)).wr F.PRM_VCOUNT1_DARK st (n 0)).wr F.PRM_VCOUNT1_STILL st (n 6)
  let b := ((b.wr F.PRM_SSTAT_WORST st (vworst (l.map (·.verdict)))).put F.PRM_SSTAT_UNCERTAIN st (l.any (·.unc))).wr
    F.PRM_SSTAT_PLACEMENTS st l.length
  b.wr F.PRM_GSTAT_PLACEMENTS 24 b.prm.places.length

/-- The verdict of a layer: the worst over its placements, or the one it would have with its newest frame on display
(layer state entry, word 0). -/
def layerVerdict (b : Blk) (l : Nat) : Nat :=
  match placesOf b l with
  | [] => (judge b.now (layerPol b l).cls (b.layer l) 0 (b.layer l).newest).1
  | ps => vworst (ps.map (·.2.2.verdict))

/-- Keep the layer's verdict and the reason of its last change. -/
def refreshLayer (l why : Nat) (b : Blk) : Blk :=
  let v := layerVerdict b l
  let L := b.layer l
  if v = L.verdict then b else b.putLayer l { L with verdict := v, reason := why }

/-- The words of PRM_PLACE for a slot. -/
def showPlace (st k : Nat) (b : Blk) : Blk :=
  match b.place st k with
  | some p => ((((b.wr F.PRM_PLACE_LAYER st p.layer k).wr F.PRM_PLACE_VERDICT st p.verdict k).put
      F.PRM_PLACE_UNCERTAIN st p.unc k).wr F.PRM_PLACE_REASON st p.reason k).wr F.PRM_PLACE_VALID st 1 k
  | none => ((((b.wr F.PRM_PLACE_LAYER st 0 k).wr F.PRM_PLACE_VERDICT st 0 k).wr F.PRM_PLACE_UNCERTAIN st 0 k).wr
      F.PRM_PLACE_REASON st 0 k).wr F.PRM_PLACE_VALID st 0 k

/-- The damaged tiles of a frame: lost or concealed (R85, R182). -/
def Frame.damaged (f : Frame) : List Nat := (f.loss ++ f.conceal).eraseDups

/-- Evidence bits of an audit record (R105). -/
def evidence (b : Blk) (l : Nat) (d : Option Frame) : Nat :=
  let L := b.layer l
  let e := layerPol b l
  b2n (match d with | some f => f.loss.isEmpty | none => false)
    + 2 * b2n (match d with | some f => f.timingOk | none => false)
    + 4 * b2n (match L.newest with | some f => f.changed | none => false)
    + 8 * b2n (match L.pulseAt with | some t => Nat.blt b.now (t + e.pulseMax) | none => false)

/-- Write an audit log record; when it is the first to overwrite records again, the wrap counts, sets LOG_WRAP and records event
0x0105 (R105, R107). -/
def auditPut (a : Audit) (b : Blk) : Blk :=
  let i := b.rd F.PRM_LOG_WR_IDX 24
  let wraps := i % 4096 == 0 && (mget b.prm.log 0).isSome
  let b := { b with prm := { b.prm with log := mset b.prm.log (i % 4096) a } }
  let b := b.step F.PRM_LOG_WR_IDX 24
  if wraps then
    let b := b.bump F.PRM_LOG_WRAPS_COUNT 24
    raise prmGlobal 0x105 sevInfo (b.rd F.PRM_LOG_WRAPS_COUNT 24) (evB 2) b
  else b

/-- An audit record of a placement. -/
def audit (st k : Nat) (p : Place) (old new why time : Nat) (mid : Bool) (b : Blk) : Blk :=
  auditPut { time := time, layer := p.layer, stage := st, slot := k, new := new, old := old, unc := p.unc, mid := mid,
             reason := why, evidence := evidence b p.layer p.disp,
             damaged := Nat.min 65535 (match p.disp with | some f => f.damaged.length | none => 0),
             basis := (match p.disp with | some f => f.basis | none => 0), frame := b.rd F.STG_FRAME_F st } b

/-- The internal state of a stage. -/
def Blk.stage (b : Blk) (st : Nat) : StgSt := mgetD b.stg st {}

/-- Store a stage's state. -/
def Blk.putStage (b : Blk) (st : Nat) (x : StgSt) : Blk := { b with stg := mset b.stg st x }

/-- The register is one that a stage reads at its curtain-up: its own page, its head's timing, the policy page, fetch pipes
and descriptors (R63, R90, R143, R253). -/
def stageReads (st key : Nat) : Bool :=
  let a := key / 32
  (Nat.ble (0x220000 + st * 0x1000) a && Nat.blt a (0x221000 + st * 0x1000))
    || (Nat.ble (0x260040 + st * 0x1000) a && Nat.blt a (0x260064 + st * 0x1000)) || (Nat.ble 0x258000 a && Nat.blt a 0x259000)
    || (Nat.ble 0x1C0000 a && Nat.blt a 0x220000) || (Nat.ble 0x400000 a && Nat.blt a 0x500000)

/-- The registers as read for the frame on display. -/
def Blk.viewed (b : Blk) (st : Nat) : Blk :=
  { b with regs := (b.regs.filter fun e => !stageReads st e.1) ++ (b.stage st).shown }

/-- A stage time as a time since power-up. -/
def upAt (b : Blk) (t : Nat) : Nat := b.up + t - b.now

/-- Judge a placement anew as of stage time `at_`; a change is written to the audit log with `time`, reported as event 0x0100 or
0x0101, and shown in the page's registers (R86, R105, R107). `cause` is the reason of an improvement, or of any change when `force`
is set; `mid` says that the change takes effect within a frame. -/
def rejudge (st k cause : Nat) (force mid : Bool) (at_ time : Nat) (b : Blk) : Blk :=
  match b.place st k with
  | none => b
  | some p =>
    let e := layerPol (b.viewed st) p.layer
    let r := judge at_ e.cls (b.layer p.layer) p.shownDecim p.shown
    let unc := match p.shown with | some f => f.unc | none => false
    if r.1 = p.verdict then
      if unc = p.unc then b else refreshStage st (showPlace st k (b.putPlace st k { p with unc := unc }))
    else
      let worse := Nat.blt (vrank p.verdict) (vrank r.1)
      let why := if force || (!worse && cause != 0) then cause else r.2
      let p' := { p with verdict := r.1, reason := why, unc := unc,
                         hist := if mid then p.hist ++ [(upAt b at_, p.verdict, r.1)] else p.hist }
      let b := audit st k p' p.verdict r.1 why time mid (b.putPlace st k p')
      let d := p.layer + 2 ^ 12 * r.1 + 2 ^ 15 * st
      let b := if worse then
          raise (prmPage st) 0x100 (if r.1 = 2 ∨ r.1 = 5 then sevNotice else sevWarning) d (evB 0) b
        else raise (prmPage st) 0x101 sevInfo d (evB 1) b
      refreshLayer p.layer why (refreshStage st (showPlace st k b))

/-- An entry of the frame on display whose placement a curtain-up has removed or given to another layer (R86). -/
def leftOver (b : Blk) (st : Nat) (e : Nat × Place) : Bool :=
  match b.place st e.1 with
  | some q => q.layer != e.2.layer
  | none => true

/-- Change the left-over placements of the frames on display, by stage and slot. -/
def mapLeft (f : Nat → Nat → Place → Place) (b : Blk) : Blk :=
  { b with stg := b.stg.map fun s =>
      (s.1, { s.2 with scene := s.2.scene.map fun e => if leftOver b s.1 e then (e.1, f s.1 e.1 e.2) else e }) }

/-- A left-over placement judged anew for the rows that remain of its frame (R86, R87). It is no placement any more, and its change
is neither logged nor reported (DESIGN CHOICE, log 78). -/
def Place.rejudged (b : Blk) (st at_ : Nat) (p : Place) : Place :=
  let r := judge at_ (layerPol (b.viewed st) p.layer).cls (b.layer p.layer) p.shownDecim p.shown
  if r.1 = p.verdict then p
  else { p with verdict := r.1, reason := r.2, hist := p.hist ++ [(upAt b at_, p.verdict, r.1)] }

/-- Judge every placement of a layer anew, and what is left over of removed ones. -/
def rejudgeLayer (l cause : Nat) (force : Bool) (b : Blk) : Blk :=
  let b := forEach (placesOf b l) (fun e b => rejudge e.1 e.2.1 cause force true b.now b.now b) b
  refreshLayer l cause (mapLeft (fun st _ p => if p.layer = l then p.rejudged b st b.now else p) b)

/-! ### Evidence and decisions -/

/-- Tiles whose signatures differ from the previous frame's; a tile without a counterpart differs (R83). -/
def changedTiles : List Nat → List Nat → Nat
  | [], l => l.length
  | l, [] => l.length
  | a :: s, c :: t => (if a = c then 0 else 1) + changedTiles s t

/-- A frame is changed: enough tiles, or enough motion where codec statistics count (R83). The first frame of a layer
counts as changed (DEDUCED). -/
def frameChanged (e : Eff) (prev : Option Frame) (f : Frame) : Bool :=
  match prev with
  | none => true
  | some g => Nat.ble e.changeMin (changedTiles g.sigs f.sigs) || (e.useCodec && Nat.ble e.motionMin f.motion)

/-- A frame becomes eligible on a layer: a capture time that does not advance is raised to its predecessor's (R78),
basis time and deadlines are set (R77, R79), runs are counted (R83), and the frame is the newest. -/
def makeEligible (l : Nat) (forced : Option Bool) (f : Frame) (b : Blk) : Blk :=
  let L := b.layer l
  let e := layerPol b l
  let cap := match f.cap, L.newest.bind (·.cap) with
    | some c, some p => some (Nat.max c p)
    | c, _ => c
  let f := { f with cap := cap, serial := L.frames + 1 }
  let ch := match forced with | some x => x | none => frameChanged e L.newest f
  let f := { withDeadlines e (uncertain b) f with changed := ch }
  let b := b.putLayer l { L with newest := some f, prev := L.newest, frames := L.frames + 1, stepped := false, undecided := true,
                                 identRun := if ch then 0 else L.identRun + 1, changedRun := if ch then L.changedRun + 1 else 0,
                                 changedAt := if ch then f.basis else L.changedAt }
  match placesOf b l with
  | [] => refreshLayer l 0x07 b
  | _ => b

/-- The freeze judgement of R84 at the present time. -/
def freezeStep (l : Nat) (b : Blk) : Blk :=
  let L := b.layer l
  let e := layerPol b l
  if e.cls = 2 then b.putLayer l { L with suspect := false, frozen := false }
  else
    let suspect := e.useContent && Nat.ble e.freezeN L.identRun
    let recent := e.usePulse && (match L.pulseAt with | some t => Nat.blt b.now (t + e.pulseMax) | none => false)
    let (frozen, why, rec) :=
      if e.usePulse && !recent then (true, 0x09, false)
      else if suspect && !recent then (true, 0x08, false)
      else if L.frozen && Nat.ble e.recoverN L.changedRun then (false, 0, true)
      else (L.frozen, L.frozenWhy, false)
    let was := L.frozen
    let b := b.putLayer l { L with suspect := suspect, frozen := frozen,
                                   frozenWhy := if frozen && !was then why else L.frozenWhy }
    if frozen = was then b else rejudgeLayer l (if rec then 0x0A else why) true b

/-- Recompute the deadlines of a layer's eligible frames and of its frames on display (R81). -/
def recomputeLayer (l : Nat) (unc : Bool) (b : Blk) : Blk :=
  let e := layerPol b l
  let L := b.layer l
  let b := b.putLayer l { L with newest := L.newest.map (withDeadlines e unc), prev := L.prev.map (withDeadlines e unc) }
  let b := forEach (placesOf b l) (fun x b => match b.place x.1 x.2.1 with
    | some p => b.putPlace x.1 x.2.1 { p with disp := p.disp.map (withDeadlines e unc),
                                              next := p.next.map (withDeadlines e unc) }
    | none => b) b
  mapLeft (fun _ _ p => if p.layer = l then { p with disp := p.disp.map (withDeadlines e unc) } else p) b

/-- Every layer that has a state or a placement. -/
def liveLayers (b : Blk) : List Nat :=
  (b.prm.layers.map (·.1) ++ b.prm.places.map (·.2.layer)).eraseDups

/-- The layers whose policy is timed. -/
def timedLayers (b : Blk) : List Nat := (liveLayers b).filter fun l => (layerPol b l).timed

/-- The time base becomes uncertain: event 0x0102, and the deadlines of every timed layer are recomputed (R81). -/
def timeUncertain (b : Blk) : Blk :=
  if uncertain b then b
  else
    let b := raise prmGlobal 0x102 sevWarning 0 (evB 0) (b.wr F.PRM_GSTAT_UNCERTAIN 24 1)
    forEach (timedLayers b) (fun l b => rejudgeLayer l 0x0F true (recomputeLayer l true b)) b

/-- The time base becomes certain again: event 0x0103; each layer returns with its next eligible frame (R81). DESIGN CHOICE (log 78):
the change of verdict that such a frame brings has reason 0x07; nothing writes reason 0x10. -/
def timeCertain (b : Blk) : Blk :=
  if uncertain b then raise prmGlobal 0x103 sevNotice 0 (evB 1) (b.wr F.PRM_GSTAT_UNCERTAIN 24 0) else b

/-- A signed shift of a stage time. -/
def shiftT (d : Int) (t : Nat) : Nat := (Int.ofNat t + d).toNat

/-- A frame whose times are shifted by a stage-time step (R284). -/
def Frame.shift (d : Int) (f : Frame) : Frame :=
  { f with arr := shiftT d f.arr, basis := shiftT d f.basis, late := shiftT d f.late, stale := shiftT d f.stale,
           dark := f.dark.map (shiftT d) }

/-- A placement that a stage-time step affects: the audit log records the step for it, with its change of verdict if it has one
(R82, R105). -/
def stepPlace (st k : Nat) (b : Blk) : Blk :=
  match b.place st k with
  | none => b
  | some p =>
    let p := { p with unc := match p.shown with | some f => f.unc | none => false }
    let b := refreshStage st (showPlace st k (b.putPlace st k p))
    let r := judge b.now (layerPol (b.viewed st) p.layer).cls (b.layer p.layer) p.shownDecim p.shown
    if r.1 = p.verdict then audit st k p p.verdict p.verdict 0x12 b.now false b else rejudge st k 0x12 true true b.now b.now b

/-- A stage-time step: every held arrival time and deadline moves with it, and the time base is uncertain for every
timed layer until its next eligible frame (R82, R284). DESIGN CHOICE (log 78): PRM_GSTAT.UNCERTAIN and event 0x0102 stand for R81's
state of the clock alone, and a step leaves them. -/
def prompterStep (d : Int) (b : Blk) : Blk :=
  let b := forEach (liveLayers b) (fun l b =>
    let L := b.layer l
    b.putLayer l { L with newest := L.newest.map (Frame.shift d), prev := L.prev.map (Frame.shift d), changedAt := shiftT d L.changedAt,
                          pulseAt := L.pulseAt.map (shiftT d) }) b
  let b := forEach (places b) (fun x b => match b.place x.1 x.2.1 with
    | some p => b.putPlace x.1 x.2.1 { p with disp := p.disp.map (Frame.shift d), next := p.next.map (Frame.shift d) }
    | none => b) b
  forEach (timedLayers b) (fun l b =>
    let b := recomputeLayer l true (b.putLayer l { b.layer l with stepped := true })
    rejudgeLayer l 0x12 true (forEach (placesOf b l) (fun x b => stepPlace x.1 x.2.1 b) b)) b

/-- Recompute a frame's deadlines under the policy in force, its time base uncertain as it was (R90). -/
def Frame.redo (b : Blk) (e : Eff) (l : Nat) (f : Frame) : Frame :=
  withDeadlines e (f.unc || uncertain b || (b.layer l).stepped) f

/-- The policy or the floor changed: a placement follows it from the frame latched at its stage's next curtain-up
(R90, R101). -/
def policyApply (st : Nat) (b : Blk) : Blk :=
  forEach (placesAt b st) (fun x b => match b.place x.1 x.2.1 with
    | some p =>
      let e := layerPol (b.viewed st) p.layer
      let L := b.layer p.layer
      let redo := Frame.redo b e p.layer
      let b := b.putPlace x.1 x.2.1 { p with disp := p.disp.map redo, next := p.next.map redo }
      let b := b.putLayer p.layer { L with newest := L.newest.map redo, prev := L.prev.map redo }
      rejudge x.1 x.2.1 0x11 true false b.now b.now b
    | none => b) b

/-- The eligible frames of the layers that no stage places follow the policies as they stand now, at once (R90). -/
def policyLoose (b : Blk) : Blk :=
  forEach ((liveLayers b).filter fun l => (placesOf b l).isEmpty) (fun l b =>
    let L := b.layer l
    let redo := Frame.redo b (layerPol b l) l
    b.putLayer l { L with newest := L.newest.map redo, prev := L.prev.map redo }) b

/-- The policy table or the floor changed: the clamp bits, and the deadlines of the frames of layers that no stage places
(R90, R100). -/
def policyChanged (b : Blk) : Blk := policyLoose (refreshClamps b)

/-- A placement is made: audit record with reason 0x01, verdict DARK until a frame comes on display (R105, R168). -/
def placeMade (st k : Nat) (p : Place) (b : Blk) : Blk :=
  let b := b.putPlace st k { p with reason := 0x01 }
  let b := audit st k p p.verdict p.verdict 0x01 b.now false b
  refreshLayer p.layer 0x01 (refreshStage st (showPlace st k b))

/-- The frame on display keeps what a placement shows, for its rows that remain (R86). -/
def keepShown (st k : Nat) (p : Place) (b : Blk) : Blk :=
  let s := b.stage st
  b.putStage st { s with scene := s.scene.map fun e => if e.1 = k ∧ e.2.layer = p.layer then
    (k, { e.2 with disp := p.disp, verdict := p.verdict, reason := p.reason, unc := p.unc, hist := p.hist }) else e }

/-- A placement is removed: audit record with reason 0x02 (R105, R168). -/
def placeGone (st k : Nat) (b : Blk) : Blk :=
  match b.place st k with
  | none => b
  | some p =>
    let b := keepShown st k p b
    let b := audit st k p p.verdict p.verdict 0x02 b.now false b
    let b := { b with prm := { b.prm with places := mdel b.prm.places (st * 72 + k) } }
    refreshLayer p.layer 0x02 (refreshStage st (showPlace st k b))

/-- The frames latched at the last curtain-up come on display (R86, R175); a change by the latch of another frame is timed at the
curtain-up point. -/
def comeOnDisplay (st : Nat) (b : Blk) : Blk :=
  forEach (placesAt b st) (fun x b => match b.place x.1 x.2.1 with
    | some p =>
      match p.next with
      | none => rejudge st x.2.1 0x07 false false b.now b.now
          (b.putPlace st x.2.1 { p with hist := [], shownDecim := p.decim })
      | some f => rejudge st x.2.1 0x07 false false b.now
          (if p.disp.any fun g => g.serial == f.serial then b.now else (b.viewed st).rd F.STG_CUP_TIME_TIME st)
          (b.putPlace st x.2.1 { p with disp := some f, next := none, hist := [], shownDecim := p.decim })
    | none => b) b

/-- Soft reset of a PRM stage page: every placement is judged as if placed now with no eligible frame (R56, chapter 3). -/
def prmSoftReset (st : Nat) (b : Blk) : Blk :=
  refreshStage st (forEach (placesAt b st) (fun x b => match b.place x.1 x.2.1 with
    | some p => showPlace st x.2.1 (rejudge st x.2.1 0x03 true true b.now b.now
        (b.putPlace st x.2.1 { p with after := (b.layer p.layer).frames }))
    | none => b) b)

/-! ### Freshness maps (R103, R104) -/

/-- The common part of two rectangles; empty as width or height 0. -/
def Rect.inter (r q : Rect) : Rect :=
  let x0 := max r.x q.x
  let y0 := max r.y q.y
  { x := x0, y := y0, w := (min (r.x + r.w) (q.x + q.w) - x0).toNat, h := (min (r.y + r.h) (q.y + q.h) - y0).toNat }

/-- A rectangle covers some pixel of the 64 × 64 tile at column `tx`, row `ty`. -/
def Rect.meetsTile (r : Rect) (tx ty : Nat) : Bool :=
  decide (r.x < 64 * (tx + 1) ∧ 64 * tx < r.x + r.w ∧ r.y < 64 * (ty + 1) ∧ 64 * ty < r.y + r.h)

/-- The verdict that a placement shows in a pixel that leaves the blender at a time since power-up (R87). -/
def Place.verdictAt (p : Place) (t : Nat) : Nat :=
  match (p.hist.filter fun h => Nat.ble h.1 t).getLast? with
  | some h => h.2.2
  | none => match p.hist with | [] => p.verdict | h :: _ => h.2.1

/-- A placement as a pixel shows it that leaves the blender at a time since power-up. -/
def Place.asOf (t : Nat) (p : Place) : Place :=
  { p with verdict := p.verdictAt t, hist := p.hist.filter fun h => Nat.ble h.1 t }

/-- The verdicts that a placement shows from one time since power-up to another, within the frame on display (R87, R104). -/
def Place.shows (p : Place) (t0 t1 : Nat) : List Nat :=
  p.verdictAt t0 :: (p.hist.filter fun h => Nat.blt t0 h.1 && Nat.ble h.1 t1).map (·.2.2)

/-- The verdicts that a placement shows in a tile, by when its first and last pixel there leave the blender (`at_ x y`). -/
def Place.showsIn (p : Place) (at_ : Nat → Nat → Nat) (tx ty : Nat) : List Nat :=
  let r := p.vis.inter { x := 64 * tx, y := 64 * ty, w := 64, h := 64 }
  if p.hist.isEmpty then [p.verdict]
  else p.shows (at_ r.x.toNat r.y.toNat) (at_ (r.x.toNat + r.w - 1) (r.y.toNat + r.h - 1))

/-- The byte of one tile (R104); `deg p tx ty` says that a placement's damaged tiles take in this one, `pro tx ty` that a proscenium
layer covers a pixel of it. -/
def mapTile (ps : List (Nat × Place)) (deg : Place → Nat → Nat → Bool) (pro : Nat → Nat → Bool) (at_ : Nat → Nat → Nat)
    (tx ty : Nat) : Nat :=
  let c := ps.filter fun e => e.1 < 64 && e.2.vis.meetsTile tx ty && e.2.alpha != 0
  let vs := c.map fun e => e.2.showsIn at_ tx ty
  vworst vs.flatten + 8 * b2n (c.any (·.2.unc)) + 16 * b2n (pro tx ty)
    + 32 * b2n (c.any fun e => (e.2.showsIn at_ tx ty).contains 5 && deg e.2 tx ty) + 64 * b2n (vs.any fun l => Nat.blt 1 l.length)
    + 128 * b2n c.isEmpty

/-- Write the freshness map of the frame just blended, frame number `f`, into its buffer and report it (R103). -/
def mapDone (st w h f time : Nat) (ps : List (Nat × Place)) (deg : Place → Nat → Nat → Bool) (pro : Nat → Nat → Bool)
    (at_ : Nat → Nat → Nat) (b : Blk) : Blk :=
  let tw := cdiv w 64
  let th := cdiv h 64
  let tiles := (List.range (tw * th)).map fun t => mapTile ps deg pro at_ (t % tw) (t / tw)
  let counted := tiles.filter fun v => !bit v 7
  let m : FMap := { time := time, frame := f, across := tw, down := th,
                    bad := (tiles.filter fun v => v % 8 != 1 && v % 8 != 6).length,
                    worst := vworst (counted.map (· % 8)), unc := tiles.any (bit · 3), crc := crc32 tiles, tiles := tiles }
  let b := { b with prm := { b.prm with maps := mset b.prm.maps (st * 2 + f % 2) m } }
  setEvt (prmPage st) (evB 2) ((b.wr F.PRM_SSTAT_MAP_BUF st (f % 2)).wr F.PRM_MAP_FRAME_FRAME st f)

/-! ### The freshness window as it is read (R102 to R105) -/

/-- The words of a layer state entry as this module's own placements make it. -/
def ownEntry (b : Blk) (l : Nat) : List Nat :=
  let L := b.layer l
  let n := L.newest
  let basis := match n with | some f => f.basis | none => 0
  -- a verdict that has changed since it was kept, on a layer that no stage places, has the reason that holds now
  let v := layerVerdict b l
  let why := if v = L.verdict then L.reason else (judge b.now (layerPol b l).cls L 0 n).2
  [v + 8 * b2n (match n with | some f => f.unc | none => false) + 16 * b2n L.suspect
     + 32 * b2n (match n with | some f => f.cap.isSome | none => false) + 256 * why
     + 65536 * Nat.min 63 L.identRun,
   Nat.min 65535 (match n with | some f => f.damaged.length | none => 0) + 65536 * (L.frames % 65536),
   basis % 2 ^ 32, basis / 2 ^ 32 % 2 ^ 32]

/-- Two members' reports of a layer (R371): the worse verdict of those that place it, with its reason, over both their placements. -/
def layerBoth (a c : Nat) : Nat :=
  let pa := a / 2 ^ 24
  let pc := c / 2 ^ 24
  let w := if pa = 0 then c else if pc = 0 then a else if vworse (a % 8) (c % 8) = a % 8 then a else c
  let unc := pa ≠ 0 ∧ bit a 3 ∨ pc ≠ 0 ∧ bit c 3
  setBits (w % 2 ^ 23) 3 1 (if unc then 1 else 0) + 2 ^ 23 * b2n (bit a 23 || bit c 23) + 2 ^ 24 * Nat.min 255 (pa + pc)

/-- The same of a scene, whose word holds its placements already. -/
def sceneBoth (a c : Nat) : Nat :=
  let pa := bits a 8 8
  let pc := bits c 8 8
  let v := if pa = 0 then c % 8 else if pc = 0 then a % 8 else vworse (a % 8) (c % 8)
  v + 8 * b2n (bit a 3 || bit c 3) + 16 * b2n (bit a 4) + 256 * Nat.min 255 (pa + pc)

/-- What members report by subject: layer entries, scene entries from 4,096 on, and the relay streams of bound layers from 8,192 on. -/
def reportBoth (idx a c : Nat) : Nat :=
  if idx < 4096 then layerBoth a c else if idx < 8192 then sceneBoth a c else Nat.max a c

/-- The key of a report: its sender's position, or 8 for the ring at the other end of port 3, and its subject. -/
def reportKey (origin idx : Nat) : Nat := origin * 16384 + idx

/-- A word with the reports of some senders on a subject taken in. -/
def withReports (b : Blk) (origins : List Nat) (idx w : Nat) : Nat :=
  origins.foldl (fun w o => match mget b.ens.reports (reportKey o idx) with | some r => reportBoth idx w r | none => w) w

/-- What this module itself reports of a layer: word 0 of its entry, in [23] that the layer is bound here, in [31:24] its placements. -/
def ownLayerReport (b : Blk) (bound : Bool) (l : Nat) : Nat :=
  let n := Nat.min 255 (placesOf b l).length
  if n = 0 ∧ !bound then 0 else (ownEntry b l).headD 0 % 2 ^ 22 + 2 ^ 23 * b2n bound + 2 ^ 24 * n

/-- The words of a layer state entry: on the lead, the worst over the placements of every member (R371). -/
def layerEntry (b : Blk) (l : Nat) : List Nat :=
  let e := ownEntry b l
  if !b.on F.ENS_STAT_LEAD 0 || b.ens.reports.isEmpty then e
  else
    let r := withReports b (List.range 9) l (ownLayerReport b false l)
    if r / 2 ^ 24 = 0 then e else setBits (e.headD 0) 0 16 (r % 2 ^ 16) :: e.drop 1

/-- The eight words of an audit record; the last is its CRC-32 (R105). -/
def Audit.words (a : Audit) : List Nat :=
  let w := [a.time % 2 ^ 32, a.time / 2 ^ 32 % 2 ^ 32,
    a.layer % 4096 + 2 ^ 12 * (a.stage % 32) + 2 ^ 17 * (a.slot % 128) + 2 ^ 24 * (a.new % 8) + 2 ^ 27 * (a.old % 8)
      + 2 ^ 30 * b2n a.unc + 2 ^ 31 * b2n a.mid,
    a.reason % 256 + 256 * (a.evidence % 16) + 65536 * (a.damaged % 65536),
    a.basis % 2 ^ 32, a.basis / 2 ^ 32 % 2 ^ 32, a.frame % 2 ^ 32]
  w ++ [crc32 (w.flatMap (leBytes 4))]

/-- One word of a freshness map buffer. -/
def FMap.word (m : FMap) (o : Nat) : Nat :=
  match o with
  | 0x00 => m.time % 2 ^ 32
  | 0x04 => m.time / 2 ^ 32 % 2 ^ 32
  | 0x08 => m.frame
  | 0x0C => m.across % 256 + 256 * (m.down % 256)
  | 0x10 => m.bad % 65536
  | 0x14 => m.worst + 8 * b2n m.unc
  | 0x18 => m.crc
  | _ =>
    if o < 0x40 then 0
    else
      let i := o - 0x40
      m.tiles.getD i 0 + 256 * m.tiles.getD (i + 1) 0 + 65536 * m.tiles.getD (i + 2) 0 + 2 ^ 24 * m.tiles.getD (i + 3) 0

/-- A word of the freshness window. -/
def freshWord (b : Blk) (o : Nat) : Nat :=
  if o < 0x10000 then (layerEntry b (o / 16)).getD (o % 16 / 4) 0
  else if o < 0xD0000 then
    let i := o - 0x10000
    match mget b.prm.maps (i / 0x8000 * 2 + i % 0x8000 / 0x4000) with
    | some m => m.word (i % 0x4000 / 4 * 4)
    | none => 0
  else if o < 0xF0000 then
    match mget b.prm.log ((o - 0xD0000) / 32) with
    | some a => a.words.getD (o % 32 / 4) 0
    | none => 0
  else 0

/-- The state entry of a scene over this module's own placements (R169). -/
def ownScene (b : Blk) (s : Nat) : List Nat :=
  let ps := (places b).filter fun e => e.2.2.path.contains s
  let staged := b.ctl.staged.any fun e => Nat.ble (0x500000 + 256 * s) e.1 && Nat.blt e.1 (0x500100 + 256 * s)
  [vworst (ps.map (·.2.2.verdict)) + 8 * b2n (ps.any (·.2.2.unc)) + 16 * b2n staged + 256 * Nat.min 255 ps.length,
   (List.range 24).foldl (fun a n => a + 2 ^ n * b2n (ps.any (·.1 == n))) 0]

/-- The state entry of a scene: on the lead, the worst over the placements of every member (R371). -/
def sceneEntry (b : Blk) (s : Nat) : List Nat :=
  let e := ownScene b s
  if !b.on F.ENS_STAT_LEAD 0 || b.ens.reports.isEmpty then e
  else
    let r := withReports b (List.range 9) (4096 + s) (e.headD 0)
    setBits (e.headD 0) 0 4 (r % 16) :: e.drop 1

end Sys2Proof.Machine
end

