-- ==== Sys2Proof/Machine/Pixels.lean ====
section
/-!
DEFINITION. Pixels: where samples lie in the frame store (R149), the lossless store format (R152 to R154), unpacking to 10
bits (R151), scaling (R160 to R162), colour conversion (R164, R165, R191), blending (R181) and the verdict marks (R91 to
R98), as functions of one pixel.
-/

namespace Sys2Proof.Machine

/-! ### Samples in the frame store (R149) -/

/-- Where a component of a pixel lies: byte address, first bit, width. Components are C0, C1, C2 (R, G, B or Cr, Y, Cb) and
A, numbered 0 to 3. -/
def sampleLoc (y : Layout) (px py c : Nat) : Nat × Nat × Nat :=
  let row := y.addr + py * y.pitch
  let n := if c = 1 then 2 * px + 1 else if c = 2 then 4 * (px / 2) else 4 * (px / 2) + 2
  let crow := y.addr + y.plane2 + (py / 2) * y.pitch
  match y.fmt with
  | 0x00 => (row + 4 * px, [16, 8, 0, 24].getD c 0, 8)
  | 0x01 => (row + 4 * px, [16, 8, 0, 24].getD c 0, 8)
  | 0x02 => (row + 4 * px, [20, 10, 0, 30].getD c 0, if c = 3 then 2 else 10)
  | 0x03 => (row + 4 * px, [20, 10, 0, 30].getD c 0, if c = 3 then 2 else 10)
  | 0x04 => (row + n, 0, 8)
  | 0x05 => (row + 4 * (n / 3), 10 * (n % 3), 10)
  | 0x06 => (row + 2 * n, 4, 12)
  | 0x07 => (row + 8 * px, [32, 16, 0, 48].getD c 0, 16)
  | 0x08 => if c = 1 then (row + px, 0, 8) else (crow + 2 * (px / 2) + (if c = 2 then 0 else 1), 0, 8)
  | _ => if c = 1 then (row + 2 * px, 0, 16) else (crow + 4 * (px / 2) + (if c = 2 then 0 else 2), 0, 16)

/-- Read a field of bits that begins `off` bits into the little-endian bytes at an address. -/
def getField (m : FrameStore) (l : Nat × Nat × Nat) : Nat := bits (m.leRead l.1 ((l.2.1 + l.2.2 + 7) / 8)) l.2.1 l.2.2

/-- Write such a field, leaving the bits around it. -/
def putField (m : FrameStore) (l : Nat × Nat × Nat) (v : Nat) : FrameStore :=
  let n := (l.2.1 + l.2.2 + 7) / 8
  m.leWrite l.1 n (setBits (m.leRead l.1 n) l.2.1 l.2.2 v)

/-- The width in bits of the stored samples of a format, and whether they stand left-aligned (R149). -/
def leftAligned (fmt : Nat) : Bool := fmt == 0x07 || fmt == 0x09

/-- Store a `d`-bit sample. -/
def putSample (m : FrameStore) (y : Layout) (px py c d v : Nat) : FrameStore :=
  let l := sampleLoc y px py c
  putField m l (if leftAligned y.fmt then v * 2 ^ (16 - d) else v)

/-- Read a `d`-bit sample back. -/
def getSample (m : FrameStore) (y : Layout) (px py c d : Nat) : Nat :=
  let v := getField m (sampleLoc y px py c)
  if leftAligned y.fmt then v / 2 ^ (16 - d) else v

/-- A format has an alpha component (R149). -/
def fmtAlpha (fmt : Nat) : Bool := fmt == 0x00 || fmt == 0x02 || fmt == 0x07

/-- The chroma of a format is shared: 4:2:2 or 4:2:0. -/
def fmtSub (fmt : Nat) : Bool := Nat.ble 0x04 fmt && fmt != 0x07 && Nat.ble fmt 0x09

/-- Bytes of one line of a format at a width (R149). -/
def lineBytes (fmt w : Nat) : Nat :=
  match fmt with
  | 0x04 => 2 * w
  | 0x05 => 16 * cdiv w 6
  | 0x06 => 4 * w
  | 0x07 => 8 * w
  | 0x08 => w
  | 0x09 => 2 * w
  | _ => 4 * w

/-! ### The lossless store format (R152 to R154) -/

/-- Decode tokens into pixels: `out` holds the pixels so far in reverse; none when the block is corrupt (R153, R154). -/
def decodeTokens : Nat → List Nat → List Nat → Option (List Nat)
  | 0, _, out => if out.length = 256 then some out.reverse else none
  | fuel + 1, l, out =>
    if out.length = 256 then some out.reverse
    else match l with
      | [] => none
      | ctl :: t =>
        let n := ctl % 64 + 1
        if 256 < out.length + n then none
        else match ctl / 64 with
          | 0 =>
            if t.length < 4 * n then none
            else decodeTokens fuel (t.drop (4 * n))
              ((List.range n).foldl (fun o i => (t.getD (4 * i) 0 + 256 * t.getD (4 * i + 1) 0
                + 65536 * t.getD (4 * i + 2) 0 + 2 ^ 24 * t.getD (4 * i + 3) 0) :: o) out)
          | 1 =>
            if t.length < 4 then none
            else
              let v := t.getD 0 0 + 256 * t.getD 1 0 + 65536 * t.getD 2 0 + 2 ^ 24 * t.getD 3 0
              decodeTokens fuel (t.drop 4) (List.replicate n v ++ out)
          | 2 =>
            if out.length < 64 then none
            else decodeTokens fuel t ((List.range n).foldl (fun o _ => o.getD 63 0 :: o) out)
          | _ => none

/-- The 256 pixel words of block (bx, by) of a compressed frame; none when it is corrupt (R152, R154). DESIGN CHOICE
(log 81): a block whose header value is reserved, 17 to 255, is corrupt. -/
def blockPixels (m : FrameStore) (y : Layout) (bx by_ : Nat) : Option (List Nat) :=
  let k := by_ * cdiv y.w 64 + bx
  let slot := y.addr + k * 1024
  let g := m.byte (y.addr + y.plane2 + k)
  if g = 16 then some ((List.range 256).map fun i => m.leRead (slot + 4 * i) 4)
  else if g = 0 ∨ 16 < g then none
  else decodeTokens 257 ((List.range (g * 64)).map fun i => m.byte (slot + i)) []

/-- A pixel word of a frame of format 0x00 to 0x03, compressed or not; none in a corrupt block. -/
def pixelWord (m : FrameStore) (y : Layout) (px py : Nat) : Option Nat :=
  if y.compressed then (blockPixels m y (px / 64) (py / 4)).map fun l => l.getD (py % 4 * 64 + px % 64) 0
  else some (m.leRead (y.addr + py * y.pitch + 4 * px) 4)

/-! ### Unpacking to 10 bits (R151) -/

/-- Reduce a sample of `n` bits, 12 or 16, to 10 with rounding and a clamp. -/
def reduce10 (n v : Nat) : Nat := Nat.min 1023 ((v + 2 ^ (n - 11)) / 2 ^ (n - 10))

/-- Extend alpha of `n` bits to 10 by replication. -/
def alpha10 (n v : Nat) : Nat :=
  if n = 2 then v * 341 else if n = 8 then v * 4 + v / 64 else if n = 10 then v else reduce10 n v

/-- A stored colour sample as 10 bits: by its width, and for 8 bits by RANGE. -/
def colour10 (range n v : Nat) : Nat :=
  if n = 8 then (if range = 0 then v * 4 else v * 4 + v / 64) else if n = 10 then v else reduce10 n v

/-- One component of one pixel as stored, taken to 10 bits, without chroma interpolation. -/
def rawComp (m : FrameStore) (y : Layout) (px py c : Nat) : Nat :=
  let l := sampleLoc y px py c
  colour10 y.range l.2.2 (getField m l)

/-- An unpacked pixel: C0, C1, C2 and alpha, 10 bits each; the last component says that the block was corrupt. -/
structure Px where
  c0 : Nat
  c1 : Nat
  c2 : Nat
  a : Nat
  corrupt : Bool := false
  deriving DecidableEq, Repr

/-- The chroma component of a pixel of a 4:2:2 or 4:2:0 line: co-sited on even pixels, the rounded mean of its neighbours on
odd ones, the left neighbour on the last (R151). -/
def chromaAt (m : FrameStore) (y : Layout) (px py c : Nat) : Nat :=
  if px % 2 = 0 then rawComp m y px py c
  else if px + 1 < y.w then (rawComp m y (px - 1) py c + rawComp m y (px + 1) py c + 1) / 2
  else rawComp m y (px - 1) py c

/-- Unpack a pixel of a frame (R151, R154). -/
def unpack (m : FrameStore) (y : Layout) (alphaMode px py : Nat) : Px :=
  if fmtSub y.fmt then ⟨chromaAt m y px py 0, rawComp m y px py 1, chromaAt m y px py 2, 1023, false⟩
  else if y.fmt = 0x07 then
    ⟨rawComp m y px py 0, rawComp m y px py 1, rawComp m y px py 2,
     if alphaMode = 0 then 1023 else alpha10 16 (getField m (sampleLoc y px py 3)), false⟩
  else match pixelWord m y px py with
    | none => ⟨64, 64, 64, 1023, true⟩
    | some w =>
      let g (c : Nat) := let l := sampleLoc y 0 0 c; bits w l.2.1 l.2.2
      let n (c : Nat) := (sampleLoc y 0 0 c).2.2
      ⟨colour10 y.range (n 0) (g 0), colour10 y.range (n 1) (g 1), colour10 y.range (n 2) (g 2),
       if alphaMode = 0 ∨ !fmtAlpha y.fmt then 1023 else alpha10 (n 3) (g 3), false⟩

/-! ### Filter coefficients (R161, R162) -/

/-- π scaled by 2 ^ 64, rounded to nearest. -/
def piFix : Int := 57952155664616982739

/-- The sine of `x` / 2 ^ 64 for |x| at most π × 2 ^ 64, scaled by 2 ^ 64, by its power series. -/
def sinFix (x : Int) : Int :=
  ((List.range 24).foldl (fun (acc : Int × Int) (k : Nat) =>
      (acc.1 + acc.2, -(acc.2 * x / 2 ^ 64 * x / 2 ^ 64) / ((2 * (k : Int) + 2) * (2 * (k : Int) + 3)))) ((0, x) : Int × Int)).1

/-- sin(π u) scaled by 2 ^ 64 for a rational u = `num` / `den`. -/
def sinPi (num : Int) (den : Nat) : Int :=
  let r := num % (2 * den)
  let r := if r > den then r - 2 * den else r
  sinFix (piFix * r / den)

/-- sinc of a rational, scaled by 2 ^ 64; 1 at 0. -/
def sinc (num : Int) (den : Nat) : Int :=
  if num = 0 then 2 ^ 64 else sinPi num den * 2 ^ 64 * den / (piFix * num)

/-- The Lanczos weight of a tap: L(s t) with t = `t64` / 64 and s = `s8` / 8, for `taps` taps, scaled by 2 ^ 64. -/
def lanczos (taps s8 : Nat) (t64 : Int) : Int :=
  let num := t64 * s8
  let a := taps / 2
  if num.natAbs < 512 * a then sinc num 512 * sinc num (512 * a) / 2 ^ 64 else 0

/-- An integer quotient rounded to nearest, halves away from zero. -/
def roundQ (n d : Int) : Int :=
  if 0 ≤ n * d then (2 * n.natAbs + d.natAbs : Nat) / (2 * d.natAbs : Nat) else -(((2 * n.natAbs + d.natAbs) / (2 * d.natAbs) : Nat) : Int)

/-- The scale factor s of R162 in eighths, for the ratio `d` / `w` of destination to source. -/
def scale8 (d w : Nat) : Nat :=
  if w ≤ d then 8 else if 3 * w ≤ 4 * d then 6 else if w ≤ 2 * d then 4 else if w ≤ 4 * d then 2 else 1

/-- The built-in coefficients of one phase (R162). -/
def builtinCoefs (taps s8 phase : Nat) : List Int :=
  let ws := (List.range taps).map fun (j : Nat) => lanczos taps s8 (((j : Int) - ((taps : Int) / 2 - 1)) * 64 - phase)
  let sum := ws.foldl (· + ·) 0
  let cs := ws.map fun w => roundQ (1024 * w) sum
  let big := (cs.zipIdx).foldl (fun (m : Nat × Nat) e => if m.2 < e.1.natAbs then (e.2, e.1.natAbs) else m) ((0, 0) : Nat × Nat)
  let rest := (cs.zipIdx).foldl (fun acc e => if e.2 = big.1 then acc else acc + e.1) 0
  (cs.zipIdx).map fun e => if e.2 = big.1 then 1024 - rest else e.1

/-- The custom coefficients of one phase of a pipe (R163): horizontal, 8 taps, or vertical, 6 taps. -/
def customCoefs (b : Blk) (pipe : Nat) (horiz : Bool) (phase : Nat) : List Int :=
  let taps := if horiz then 8 else 6
  (List.range taps).map fun j =>
    let i := phase * taps + j
    let f := if horiz then (if i % 2 = 0 then F.LFP_HCOEF_EVEN else F.LFP_HCOEF_ODD)
      else (if i % 2 = 0 then F.LFP_VCOEF_EVEN else F.LFP_VCOEF_ODD)
    sgn 12 (b.rd f pipe (i / 2))

/-! ### Scaling (R160, R161) -/

/-- The source position of destination pixel `i`, 16.16 fixed point (R160). -/
def scalePos (w d : Nat) (off : Int) (i : Nat) : Int :=
  let step : Int := (w * 65536 / d : Nat)
  i * step + (step - 65536) / 2 + off * 256

/-- Keep a source index inside a crop of `n` pixels. -/
def clampIx (n : Nat) (x : Int) : Nat := (clampI 0 ((n : Int) - 1) x).toNat

/-- One filtered component: the sum over taps around position `p`, rounded, clamped to 10 bits (R161). -/
def filterAt (taps : Nat) (coefs : List Int) (n : Nat) (p : Int) (src : Nat → Nat) : Nat :=
  let c := p / 65536
  let s : Int := (coefs.zipIdx).foldl (fun (acc : Int) (e : Int × Nat) =>
    acc + e.1 * Int.ofNat (src (clampIx n (c - (Int.ofNat taps / 2 - 1) + Int.ofNat e.2)))) 0
  (clampI 0 1023 ((s + 512) / 1024)).toNat

/-- The 64-step phase of a position (R160). -/
def phaseOf (p : Int) : Nat := (p / 1024 % 64).toNat

/-- Pixel of a destination axis under a filter: built-in or custom coefficients, or the nearest pixel (R161). -/
def axisAt (taps filter : Nat) (custom : Nat → List Int) (w d : Nat) (off : Int) (i : Nat) (src : Nat → Nat) : Nat :=
  let p := scalePos w d off i
  if w = d ∧ off = 0 then src (clampIx w i)
  else if filter = 2 then src (clampIx w ((p + 32768) / 65536))
  else filterAt taps (if filter = 1 then custom (phaseOf p) else builtinCoefs taps (scale8 d w) (phaseOf p)) w p src

/-- What a placement's fetch needs to know: its crop, orientation and pre-decimation. -/
structure Fetch where
  lay : Layout
  alphaMode : Nat
  cx : Nat
  cy : Nat
  cw : Nat
  ch : Nat
  rot : Nat
  mirror : Bool
  filter : Nat
  hoff : Int
  voff : Int
  decim : Nat
  pipe : Nat
  dw : Nat
  dh : Nat

/-- Size of the rotated crop. -/
def Fetch.rotW (f : Fetch) : Nat := if f.rot % 2 = 0 then f.cw else f.ch
def Fetch.rotH (f : Fetch) : Nat := if f.rot % 2 = 0 then f.ch else f.cw

/-- The source pixel of a pixel of the mirrored, rotated crop. -/
def Fetch.source (f : Fetch) (x y : Nat) : Nat × Nat :=
  let (u, v) := match f.rot with
    | 0 => (x, y)
    | 1 => (y, f.ch - 1 - x)
    | 2 => (f.cw - 1 - x, f.ch - 1 - y)
    | _ => (f.cw - 1 - y, x)
  let u := if f.mirror then f.cw - 1 - u else u
  (f.cx + u, f.cy + v)

/-- A component of an unpacked pixel: 0 to 2 colour, 3 alpha. -/
def Px.comp (p : Px) (c : Nat) : Nat := match c with | 0 => p.c0 | 1 => p.c1 | 2 => p.c2 | _ => p.a

/-- A component of the rotated crop at (x, y), pre-decimated by 2 ^ k along the line (R158). -/
def Fetch.decimated (m : FrameStore) (f : Fetch) (c x y : Nat) : Nat :=
  let n := 2 ^ f.decim
  let g (i : Nat) := let q := f.source (Nat.min (x * n + i) (f.rotW - 1)) y; (unpack m f.lay f.alphaMode q.1 q.2).comp c
  if f.decim = 0 then g 0 else ((List.range n).foldl (fun a i => a + g i) 0 + n / 2) / n

/-- A component of destination pixel (i, j): vertical, then horizontal scaling (steps 5 and 6 of a fetch pipe). -/
def Fetch.scaled (b : Blk) (m : FrameStore) (f : Fetch) (c i j : Nat) : Nat :=
  let w := cdiv f.rotW (2 ^ f.decim)
  axisAt 8 f.filter (customCoefs b f.pipe true) w f.dw f.hoff i fun x =>
    axisAt 6 f.filter (customCoefs b f.pipe false) f.rotH f.dh f.voff j fun y => f.decimated m c x y

/-- The source pixel under the centre tap of destination pixel (i, j) (R182). -/
def Fetch.centre (f : Fetch) (i j : Nat) : Nat × Nat :=
  let n := 2 ^ f.decim
  let x := clampIx (cdiv f.rotW n) (scalePos (cdiv f.rotW n) f.dw f.hoff i / 65536)
  let y := clampIx f.rotH (scalePos f.rotH f.dh f.voff j / 65536)
  f.source (Nat.min (x * n) (f.rotW - 1)) y

/-! ### Words that do not read (R390, R414) -/

/-- A pixel of a frame is read from the 8-byte word with index `w`. -/
def pixelNeeds (m : FrameStore) (y : Layout) (px py w : Nat) : Bool :=
  if y.compressed then
    let k := py / 4 * cdiv y.w 64 + px / 64
    let head := y.addr + y.plane2 + k
    let slot := y.addr + k * 1024
    let g := m.byte head
    w == head / 8 || (Nat.ble (slot / 8) w && Nat.blt w ((slot + (if g = 16 then 1024 else 64 * g)) / 8))
  else
    let hit (px c : Nat) : Bool :=
      let l := sampleLoc y px py c
      Nat.ble ((l.1 + l.2.1 / 8) / 8) w && Nat.ble w ((l.1 + (l.2.1 + l.2.2 + 7) / 8 - 1) / 8)
    [0, 1, 2, 3].any fun c =>
      if c = 3 then fmtAlpha y.fmt && hit px 3
      else if fmtSub y.fmt ∧ c ≠ 1 ∧ px % 2 = 1 then hit (px - 1) c || (Nat.blt (px + 1) y.w && hit (px + 1) c)
      else hit px c

/-- The rows of the rotated crop on which a destination line depends (R160, R161). -/
def Fetch.rows (f : Fetch) (j : Nat) : List Nat :=
  let p := scalePos f.rotH f.dh f.voff j
  if f.rotH = f.dh ∧ f.voff = 0 then [clampIx f.rotH j]
  else if f.filter = 2 then [clampIx f.rotH ((p + 32768) / 65536)]
  else (List.range 6).map fun (e : Nat) => clampIx f.rotH (p / 65536 - 2 + e)

/-- Some source pixel of a destination line meets a test. -/
def Fetch.lineAny (f : Fetch) (j : Nat) (bad : Nat → Nat → Bool) : Bool :=
  (f.rows j).any fun y => (List.range f.rotW).any fun x => let q := f.source x y; bad q.1 q.2

/-- Every fetch pipe may read the whole frame store: the rule image refuses MID 0x14 nothing. -/
def fetchFree (b : Blk) : Bool :=
  bit (imgWord b.acg.image 768) 7 && (List.range 64).all fun r => (region b.acg.image r).2.1 == 0 || bit (region b.acg.image r).2.2.1 7

/-- A destination line needs a word that is uncorrectable or that MID 0x14 may not read: it is handled as a line not ready (R390, R414). -/
def lineUnread (b : Blk) (m : FrameStore) (f : Fetch) (j : Nat) : Bool :=
  (!m.marked.isEmpty && f.lineAny j fun px py => m.marked.any fun e => pixelNeeds m f.lay px py e.1)
    || (!fetchFree b && f.lineAny j fun px py => !fsGranted b 0x14 (sampleLoc f.lay px py 0).1 false)

/-- A tile of a decoded frame holds a word that is uncorrectable (R390). -/
def tileUnread (m : FrameStore) (y : Layout) (t : Nat) : Bool :=
  !m.marked.isEmpty && (List.range 64).any fun j => (List.range 64).any fun i =>
    let px := 64 * (t % cdiv y.w 64) + i
    let py := 64 * (t / cdiv y.w 64) + j
    Nat.blt px y.w && Nat.blt py y.h && m.marked.any fun e => pixelNeeds m y px py e.1

/-! ### Colour (R164, R165, R191) -/

/-- Kr and Kb in 1/10,000 for a standard: 1 BT.601, 2 BT.709, 3 BT.2020 (R164). -/
def krkb (std : Nat) : Int × Int :=
  match std with
  | 1 => (2990, 1140)
  | 2 => (2126, 722)
  | _ => (2627, 593)

/-- An arithmetic shift by 12 with rounding, clamped to 10 bits. -/
def out10 (x : Int) : Nat := (clampI 0 1023 ((x + 2048) / 4096)).toNat

/-- A 10-bit pixel with components C0, C1, C2 as 10-bit full-range R'G'B' (R164, R165). -/
def toRgb (b : Blk) (layer csc range : Nat) (c0 c1 c2 : Nat) : Nat × Nat × Nat :=
  if csc = 4 then
    let k (f : Fld) : Int := sgn 16 (b.rd f layer)
    let x0 := (c0 : Int) + k F.LD_CSC_IOFF0
    let x1 := (c1 : Int) + k F.LD_CSC_IOFF1
    let x2 := (c2 : Int) + k F.LD_CSC_IOFF2
    (out10 (k F.LD_CSC_C00 * x0 + k F.LD_CSC_C01 * x1 + k F.LD_CSC_C02 * x2),
     out10 (k F.LD_CSC_C10 * x0 + k F.LD_CSC_C11 * x1 + k F.LD_CSC_C12 * x2),
     out10 (k F.LD_CSC_C20 * x0 + k F.LD_CSC_C21 * x1 + k F.LD_CSC_C22 * x2))
  else if csc = 0 then
    if range = 1 then (c0, c1, c2)
    else (out10 (((c0 : Int) - 64) * 4783), out10 (((c1 : Int) - 64) * 4783), out10 (((c2 : Int) - 64) * 4783))
  else
    let (kr, kb) := krkb csc
    let kg := 10000 - kr - kb
    let yo : Int := if range = 0 then 64 else 0
    let ys : Int := if range = 0 then 876 else 1023
    let cs : Int := if range = 0 then 896 else 1023
    let cy := roundQ (4096 * 1023) ys
    let rCr := roundQ (4096 * 1023 * 2 * (10000 - kr)) (10000 * cs)
    let gCb := -roundQ (4096 * 1023 * 2 * kb * (10000 - kb)) (10000 * kg * cs)
    let gCr := -roundQ (4096 * 1023 * 2 * kr * (10000 - kr)) (10000 * kg * cs)
    let bCb := roundQ (4096 * 1023 * 2 * (10000 - kb)) (10000 * cs)
    let y := cy * ((c1 : Int) - yo)
    let cb := (c2 : Int) - 512
    let cr := (c0 : Int) - 512
    (out10 (y + rCr * cr), out10 (y + gCb * cb + gCr * cr), out10 (y + bCb * cb))

/-- The stage's output conversion of a 10-bit full-range R'G'B' pixel (R191). -/
def outConv (csc : Nat) (p : Nat × Nat × Nat) : Nat × Nat × Nat :=
  let (r, g, bl) := p
  match csc with
  | 0 => p
  | 1 => (64 + (r * 3507 + 2048) / 4096, 64 + (g * 3507 + 2048) / 4096, 64 + (bl * 3507 + 2048) / 4096)
  | _ =>
    let (kr, kb) := krkb (if csc = 2 then 2 else if csc = 3 then 3 else 1)
    let kg := 10000 - kr - kb
    let q (n d : Int) := roundQ n d
    let f (off : Int) (cr cg cb : Int) : Nat :=
      (clampI 0 1023 (off + (cr * r + cg * g + cb * bl + 2048) / 4096)).toNat
    let yv := f 64 (q (4096 * 876 * kr) (1023 * 10000)) (q (4096 * 876 * kg) (1023 * 10000)) (q (4096 * 876 * kb) (1023 * 10000))
    let cbv := f 512 (-q (4096 * 896 * kr) (1023 * 2 * (10000 - kb))) (-q (4096 * 896 * kg) (1023 * 2 * (10000 - kb)))
      (q (4096 * 896) (1023 * 2))
    let crv := f 512 (q (4096 * 896) (1023 * 2)) (-q (4096 * 896 * kg) (1023 * 2 * (10000 - kr)))
      (-q (4096 * 896 * kb) (1023 * 2 * (10000 - kr)))
    (yv, cbv, crv)

/-! ### Blending and marks (R91 to R98, R181, R182) -/

/-- (x × y + 511) div 1,023 (R167). -/
def mulA (x y : Nat) : Nat := (x * y + 511) / 1023

/-- Blend one component (R181). -/
def blendC (mode s d al a : Nat) : Nat :=
  match mode with
  | 0 => (s * a + d * (1023 - a) + 511) / 1023
  | 1 => let A := mulA al a; (s * A + d * (1023 - A) + 511) / 1023
  | 2 => let A := mulA al a; Nat.min 1023 (mulA s a + mulA d (1023 - A))
  | _ => let A := if 512 ≤ al then a else 0; (s * A + d * (1023 - A) + 511) / 1023

/-- Dim one component by D / 1,024 (R92). -/
def dimC (v d : Nat) : Nat := v * (1024 - d) / 1024

/-- The mark colour of a verdict (R94). -/
def markColour (v : Nat) : Nat × Nat × Nat :=
  match v with
  | 2 => (1023, 896, 0)
  | 3 => (1023, 512, 0)
  | 4 => (1023, 0, 1023)
  | 5 => (0, 896, 1023)
  | _ => (896, 0, 0)

/-- A head pixel belongs to the hatch of a verdict (R93). -/
def inHatch (v x y : Nat) : Bool :=
  let s := x + y
  let d := ((x : Int) - y) % 32
  match v with
  | 2 => Nat.blt (s % 32) 2
  | 3 => Nat.blt (s % 32) 8
  | 4 => Nat.blt (s % 32) 4 || decide (d < 4)
  | 5 => decide (d < 4)
  | _ => Nat.blt (s % 64) 4

/-- The decimal digits of a number as character codes. -/
def digitsOf (n : Nat) : List Nat := (Nat.toDigits 10 n).map (·.toNat)

/-- Character codes of a text. -/
def codes (s : String) : List Nat := s.toList.map (·.toNat)

/-- The age shown in a badge (R97), for an age in ns. -/
def ageText (ns : Nat) : List Nat :=
  let ms := ns / 1000000
  if ms < 1000 then digitsOf ms ++ codes " MS"
  else if ms < 100000 then digitsOf (ms / 1000) ++ codes "." ++ digitsOf (ms / 100 % 10) ++ codes " S"
  else if ms < 6000000 then digitsOf (ms / 60000) ++ codes " MIN"
  else if ms < 3600000000 then digitsOf (ms / 3600000) ++ codes " H"
  else codes "999+ H"

/-- The badge text of a placement (R91, R97, R81); empty when the verdict has none. -/
def badgeText (b : Blk) (at_ : Nat) (p : Place) : List Nat :=
  let L := b.layer p.layer
  let unc := if p.unc then codes " ?" else []
  let age := match p.shown with
    | some f => codes " " ++ ageText (at_ - (if p.verdict = 4 then L.changedAt else f.basis))
    | none => []
  match p.verdict with
  | 2 => codes "LATE" ++ age ++ unc
  | 3 => codes "STALE" ++ age ++ unc
  | 4 => codes "FROZEN" ++ age ++ unc
  | 0 => codes "DARK" ++ age ++ unc
  | 5 => codes "DEGRADED " ++ (match damageWhy p.shownDecim p.shown with
      | 0x0B => codes "LOSS" | 0x0C => codes "CONCEALED" | 0x0D => codes "NO REF" | _ => codes "DECIMATED") ++ unc
  | _ => []

/-- Top left corner of a box of a size at a corner of an area, inset by 8, and whether it lies wholly within (R96, R98). -/
def cornerBox (v : Rect) (corner w h : Nat) : Option (Int × Int) :=
  if v.w < w + 8 ∨ v.h < h + 8 then none
  else some (if corner % 2 = 0 then v.x + 8 else v.x + v.w - 8 - w, if corner / 2 = 0 then v.y + 8 else v.y + v.h - 8 - h)

/-- The badge as drawn: its text, scale and corner; lowered in scale, then cut to one letter, to fit (R96). -/
def badgeFit (v : Rect) (corner scale : Nat) (t : List Nat) : Option (List Nat × Nat × (Int × Int)) :=
  let box (t : List Nat) (s : Nat) := cornerBox v corner (t.length * 12 * s + 8 * s) (24 * s + 8 * s)
  let try_ (t : List Nat) (s : Nat) := (box t s).map fun c => (t, s, c)
  if t.isEmpty then none
  else
    let a := (List.range scale).reverse.findSome? fun s => try_ t (s + 1)
    a.orElse fun _ => try_ (t.take 1) 1

/-- A glyph pixel of a text drawn in cells of 12 × 24 times a scale, at (x, y) within the text. -/
def textPixel (t : List Nat) (scale x y : Nat) : Bool :=
  Nat.blt y (24 * scale) && (match t[x / (12 * scale)]? with
    | some ch => Config.glyph ch (x % (12 * scale) / scale) (y / scale)
    | none => false)

/-- The stage time at which the age in a placement's badge is taken: the curtain-up point of the frame, or the last change within it
(R80). -/
def badgeTime (b : Blk) (st : Nat) (p : Place) : Nat :=
  (match p.hist.getLast? with | some h => h.1 | none => (mgetD b.stg st {}).shownUp) + b.now - b.up

/-- Marks of a placement over a blended pixel at (x, y) of the head: hatch, border, footlight, badge (R91, R100, R182). DESIGN CHOICE
(log 78): the background of a badge mixes with what is drawn beneath it, marks included. -/
def drawMarks (b : Blk) (st : Nat) (p : Place) (e : Eff) (damagedHere : Bool) (x y : Nat) (c : Nat × Nat × Nat) :
    Nat × Nat × Nat :=
  let v := p.verdict
  let mc := markColour v
  let s := e.scale
  let badge := if e.badge && v != 1 && v != 6 then badgeFit p.vis e.badgeCorner s (badgeText b (badgeTime b st p) p) else none
  let hatchOn := match v with
    | 2 => e.hatch
    | 5 => damagedHere && (e.hatch || (e.cls != 2 && e.dimDeg == 0 && badge.isNone))
    | 3 => true
    | 4 => true
    | 0 => true
    | _ => false
  let borderOn := match v with
    | 2 => e.border || (e.cls != 2 && !e.hatch && badge.isNone)
    | 3 => e.border
    | 4 => e.border
    | 0 => e.border
    | _ => false
  let c := if hatchOn && inHatch v x y then mc else c
  let r := p.vis
  let edge := decide ((x : Int) < r.x + 4 ∨ r.x + r.w - 4 ≤ x ∨ (y : Int) < r.y + 4 ∨ r.y + r.h - 4 ≤ y)
  let c := if borderOn && edge then mc else c
  let c := if e.fl && v != 6 then
      match cornerBox r e.flCorner (38 * s) (8 * s) with
      | some (fx, fy) =>
        let dx := (x : Int) - fx
        let dy := (y : Int) - fy
        if decide (0 ≤ dx ∧ dx < 38 * s ∧ 0 ≤ dy ∧ dy < 8 * s) then
          let cell := dx.toNat / (10 * s)
          let ix := dx.toNat % (10 * s)
          let iy := dy.toNat
          if ix < 8 * s then
            let step := b.rd F.PRM_SCFG_FL_STEP st
            let lit := (v == 1 || v == 5) && cell == (if step = 0 then 0 else b.rd F.STG_FRAME_F st / step % 4)
            let rim := Nat.blt ix s || Nat.ble (7 * s) ix || Nat.blt iy s || Nat.ble (7 * s) iy
            if lit then (1023, 1023, 1023) else if rim then (512, 512, 512) else c
          else c
        else c
      | none => c
    else c
  match badge with
  | some (t, sc, bx, by_) =>
    let dx := (x : Int) - bx
    let dy := (y : Int) - by_
    let bw := t.length * 12 * sc + 8 * sc
    if decide (0 ≤ dx ∧ dx < bw ∧ 0 ≤ dy ∧ dy < 32 * sc) then
      let d (q : Nat) := (q * 256 + 512) / 1024
      let ix := dx.toNat
      let iy := dy.toNat
      if Nat.ble (4 * sc) ix && Nat.ble (4 * sc) iy && textPixel t sc (ix - 4 * sc) (iy - 4 * sc) then mc
      else (d c.1, d c.2.1, d c.2.2)
    else c
  | none => c

end Sys2Proof.Machine
end

