-- ==== Sys2Proof/Machine/Layers.lean ====
section
/-!
DEFINITION. Layers, scenes and fetch pipes (chapter "Layers, fetch pipes and scenes"): who writes a layer, which buffers are
held, flattening (R167), context allocation (R155, R156), latching at run time (R158, R159), and the checks of a cue.
-/

namespace Sys2Proof.Machine

/-! ### Stage geometry, from the head's timing (R173) -/

/-- Active width and height of a stage. -/
def stageW (b : Blk) (st : Nat) : Nat := b.rd F.OHD_HTIM0_ACTIVE st
def stageH (b : Blk) (st : Nat) : Nat := b.rd F.OHD_VTIM0_ACTIVE st

/-- Frame rate of a head as a ratio: the genlocked rate, or the pixel clock over the totals. -/
def headRate (b : Blk) (h : Nat) : Nat × Nat :=
  if b.on F.OHD_CTRL_GENLOCK h then (b.rd F.OHD_FRATE_NUM h, b.rd F.OHD_FRATE_DEN h)
  else (b.rd F.OHD_PCLK_HZ h, b.rd F.OHD_HTIM0_TOTAL h * b.rd F.OHD_VTIM0_TOTAL h)

/-- `x` times a ratio, rounded up. -/
def mulUp (x : Nat) (r : Nat × Nat) : Nat := cdiv (x * r.1) r.2

/-- Frame period of a head in ns. -/
def framePeriod (b : Blk) (h : Nat) : Nat := let r := headRate b h; if r.1 = 0 then 0 else 1000000000 * r.2 / r.1

/-- PG_CTRL.ENABLE in effect. -/
def enabled (b : Blk) (p : Page) : Bool := b.on F.PG_CTRL_ENABLE p.slot

/-! ### Who writes a layer (R146) -/

/-- The ingest channel bound to a layer. -/
def ingWriter (b : Blk) (l : Nat) : Option Nat :=
  (List.range 64).find? fun c => enabled b ⟨.ing, c⟩ && b.rd F.ING_CTRL_KIND c == 1 && b.rd F.ING_CTRL_LAYER c == l

/-- The JPEG XS context bound to a layer (R203). -/
def xsdWriter (b : Blk) (l : Nat) : Option Nat :=
  (List.range 16).find? fun c => enabled b ⟨.xsd, c⟩ && b.on F.XSD_CTRL_LAYER_EN c && b.rd F.XSD_CTRL_LAYER c == l

/-- The block decoder context bound to a layer (R203). -/
def vdcWriter (b : Blk) (l : Nat) : Option Nat :=
  (List.range 32).find? fun c => enabled b ⟨.vdc, c⟩ && b.on F.VDC_CTRL_LAYER_EN c && b.rd F.VDC_CTRL_LAYER c == l

/-- How many writers a layer has. -/
def writerCount (b : Blk) (l : Nat) : Nat :=
  ((List.range 64).filter fun c => enabled b ⟨.ing, c⟩ && b.rd F.ING_CTRL_KIND c == 1 && b.rd F.ING_CTRL_LAYER c == l).length
    + ((List.range 16).filter fun c => enabled b ⟨.xsd, c⟩ && b.on F.XSD_CTRL_LAYER_EN c && b.rd F.XSD_CTRL_LAYER c == l).length
    + ((List.range 32).filter fun c => enabled b ⟨.vdc, c⟩ && b.on F.VDC_CTRL_LAYER_EN c && b.rd F.VDC_CTRL_LAYER c == l).length

/-- LD_CTRL.SOURCE: 0 host, 1 ingest channel, 2 XSD, 3 VDC. -/
def sourceOf (b : Blk) (l : Nat) : Nat :=
  if (ingWriter b l).isSome then 1 else if (xsdWriter b l).isSome then 2 else if (vdcWriter b l).isSome then 3 else 0

/-- The layer that an ingest channel feeds: its own for KIND 1, its decoder context's otherwise. -/
def chanLayer (b : Blk) (c : Nat) : Option Nat :=
  match b.rd F.ING_CTRL_KIND c with
  | 1 => some (b.rd F.ING_CTRL_LAYER c)
  | 2 => if b.on F.XSD_CTRL_LAYER_EN (b.rd F.ING_ASM_CTX c) then some (b.rd F.XSD_CTRL_LAYER (b.rd F.ING_ASM_CTX c)) else none
  | 3 => if b.on F.VDC_CTRL_LAYER_EN (b.rd F.ING_ASM_CTX c) then some (b.rd F.VDC_CTRL_LAYER (b.rd F.ING_ASM_CTX c)) else none
  | 4 => if b.on F.VDC_CTRL_LAYER_EN (b.rd F.ING_ASM_CTX c) then some (b.rd F.VDC_CTRL_LAYER (b.rd F.ING_ASM_CTX c)) else none
  | _ => none

/-- The channel that feeds a decoder context: XSD by KIND 2, VDC by KIND 3 or 4 (R203). -/
def feeder (b : Blk) (xs : Bool) (x : Nat) : Option Nat :=
  (List.range 64).find? fun c => enabled b ⟨.ing, c⟩ && b.rd F.ING_ASM_CTX c == x
    && (if xs then b.rd F.ING_CTRL_KIND c == 2 else b.rd F.ING_CTRL_KIND c == 3 || b.rd F.ING_CTRL_KIND c == 4)

/-- The format that an ingest channel writes, by sampling and depth (R150). -/
def ingFormat (sampling depth : Nat) : Nat :=
  match sampling, depth with
  | 0, 0 => 0x04 | 0, 1 => 0x05 | 0, _ => 0x06
  | 2, 0 => 0x08 | 2, _ => 0x09
  | _, 0 => 0x01 | _, 1 => 0x03 | _, _ => 0x07

/-- The format in which a layer's frames are written: LD_FMT.FORMAT, which is ignored where a decoder context writes the layer (R208).
Of a VDC stream's depth only its frames tell: without a 10-bit one, 8 bits; an XSD context without a channel writes no format
(DEDUCED, log 80). -/
def writtenFmt (b : Blk) (l : Nat) : Option Nat :=
  match xsdWriter b l, vdcWriter b l with
  | some x, _ => (feeder b true x).map fun c => ingFormat (b.rd F.ING_FMT1_SAMPLING c) (b.rd F.ING_FMT1_DEPTH c)
  | none, some _ => some (if ((b.layer l).newest.map fun f => f.lay.fmt) = some 9 then 9 else 8)
  | none, none => some (b.rd F.LD_FMT_FORMAT l)

/-- A decoder context writes the layer. -/
def decoderLayer (b : Blk) (l : Nat) : Bool := (xsdWriter b l).isSome || (vdcWriter b l).isSome

/-! ### Buffers (R126, R144) -/

/-- The description of a buffer of a layer, with a frame size. -/
def layoutOf (b : Blk) (l buf w h : Nat) : Layout :=
  { addr := b.rd F.LD_BUF_ADDR l buf, fmt := b.rd F.LD_FMT_FORMAT l, csc := b.rd F.LD_FMT_CSC l, range := b.rd F.LD_FMT_RANGE l,
    w := w, h := h, pitch := b.rd F.LD_PITCH_PITCH l, plane2 := b.rd F.LD_PLANE2_OFFSET l,
    compressed := b.on F.LD_CTRL_COMPRESSED l, bufW := b.rd F.LD_SIZE_WIDTH l, bufH := b.rd F.LD_SIZE_HEIGHT l }

/-- The frames of a layer that stages hold: latched for the next frame, or on display until their last active line has been
fetched (R126), on heads whose timing generator runs; and those that an encoder context has not read whole (R227). -/
def heldFrames (b : Blk) (l : Nat) : List Frame :=
  ((placesOf b l).flatMap fun e =>
      let s := mgetD b.stg e.1 ({} : StgSt)
      if !enabled b ⟨.ohd, e.1⟩ then []
      else (if !s.fetched || (s.switchDue && e.2.2.next.isNone) then e.2.2.disp.toList else []) ++ e.2.2.next.toList)
    ++ (b.stg.flatMap fun e => if e.2.fetched || !enabled b ⟨.ohd, e.1⟩ then []
      else (e.2.scene.filter (·.2.layer == l)).flatMap fun p => p.2.disp.toList)
    ++ b.vec.flatMap fun e => (e.2.pics.filter fun p => p.kind == 1 && p.layer == l && Nat.blt p.ready p.rows.length).flatMap fun p => p.frame.toList

/-- A check-value unit holds the buffer at an address for a run (R399). -/
def crcHolds (b : Blk) (l addr : Nat) : Bool :=
  b.crc.any fun e => (match e.2.run with | some r => r.hold == some (l, addr) | none => false)
    || e.2.trigs.any fun t => t.2 == some (l, addr)

/-- A stage or a check-value unit holds the buffer (R126, R399). -/
def bufHeld (b : Blk) (l buf : Nat) : Bool :=
  ((heldFrames b l).any fun f => f.lay.addr == b.rd F.LD_BUF_ADDR l buf) || crcHolds b l (b.rd F.LD_BUF_ADDR l buf)

/-- The eligible frames of a layer whose buffers no writer takes: the newest, and the one before it while a curtain-up of the present
instant would latch that one (R126, R127). -/
def keptFrames (b : Blk) (l : Nat) : List Frame :=
  match (b.layer l).newest with
  | some f => f :: (if f.arr = b.now then (b.layer l).prev.toList else [])
  | none => []

/-- The lowest buffer that holds neither the newest eligible frame nor a held one (R126), and is none of those at the addresses `busy`. -/
def freeBufBut (b : Blk) (l : Nat) (busy : List Nat) : Option Nat :=
  (List.range (b.rd F.LD_CTRL_NBUF l)).find? fun k =>
    !bufHeld b l k && !((keptFrames b l).map fun f => f.lay.addr).contains (b.rd F.LD_BUF_ADDR l k)
      && !busy.contains (b.rd F.LD_BUF_ADDR l k)

/-- The lowest buffer of a layer that a frame may begin in (R126). -/
def freeBuf (b : Blk) (l : Nat) : Option Nat := freeBufBut b l []

/-- A frame was written under values of LD_BUF0 to LD_BUF2, LD_FMT, LD_SIZE, LD_PITCH or LD_PLANE2 that a cue has replaced (R144). A slot
of a picture store beyond the layer's three buffers has no LD_BUF, and a decoder's frame a format of its own (R208). -/
def replaced (b : Blk) (l : Nat) (f : Frame) : Bool :=
  let y := layoutOf b l f.buf f.lay.w f.lay.h
  { y with addr := if f.buf < 3 then y.addr else f.lay.addr, fmt := if decoderLayer b l then f.lay.fmt else y.fmt,
           compressed := f.lay.compressed } != f.lay

/-- A stage holds a frame written under replaced values (R144). -/
def oldHeld (b : Blk) (l : Nat) : Bool := (heldFrames b l).any (replaced b l)

/-- The LD_STAT word and its neighbour LD_FRAME_WH as they read. -/
def ldStatWord (b : Blk) (l : Nat) : Nat :=
  let L := b.layer l
  (match L.newest with | some f => f.buf | none => 3)
    + 4 * (b2n (bufHeld b l 0) + 2 * b2n (bufHeld b l 1) + 4 * b2n (bufHeld b l 2))
    + 32 * b2n (oldHeld b l) + 64 * maxD ((placesOf b l).map (·.2.2.decim)) + 256 * b2n ((placesOf b l).any (·.2.2.unfit))
    + 512 * b2n (b.ctl.staged.any fun e => Nat.ble (0x400000 + 256 * l) e.1 && Nat.blt e.1 (0x400100 + 256 * l))

def ldFrameWord (b : Blk) (l : Nat) : Nat :=
  match (b.layer l).newest with | some f => f.lay.w + 65536 * f.lay.h | none => 0

/-! ### Publishing (R147) -/

def lfpPage (p : Nat) : Page := ⟨.lfp, p⟩

/-- A publish is refused: BUF not below NBUF, a stage holds it, or the layer has another writer (R147). -/
def publishRefused (b : Blk) (l buf : Nat) : Bool :=
  Nat.ble (b.rd F.LD_CTRL_NBUF l) buf || bufHeld b l buf || sourceOf b l != 0

/-- A write of LD_PUBLISH with PUB at 1 (R147): `arr` is its arrival time, and `ident` its epoch and record index (R343,
R350). The frame's description stands in `v`. DESIGN CHOICE (log 81): a refusal is recorded on pipe 0, and the frame has the size LD_SIZE. -/
def publish (mid l buf arr ident : Nat) (changed : Bool) (v b : Blk) : Blk :=
  if publishRefused b l buf then raiseAs mid (lfpPage 0) 0x104 sevNotice l 0 b
  else makeEligible l (some changed)
    { buf := buf, lay := layoutOf v l buf (v.rd F.LD_SIZE_WIDTH l) (v.rd F.LD_SIZE_HEIGHT l), arr := arr, rtp := ident } b

/-! ### Rectangles and flattening (R167) -/

/-- A rectangle without pixels. -/
def Rect.empty (r : Rect) : Bool := r.w == 0 || r.h == 0

/-- One ordinary placement made by flattening. -/
structure Flat where
  layer : Nat
  vis : Rect
  alpha : Nat
  dst : Rect
  path : List Nat
  deriving DecidableEq, Repr

/-- Children of a scene that are in use and not hidden: index and kind. -/
def sceneKids (b : Blk) (s : Nat) : List (Nat × Nat) :=
  (List.range (b.rd F.SC_CTRL_COUNT s)).filterMap fun k =>
    if b.on F.SC_CHILD_HIDE s k then none else some (b.rd F.SC_CHILD_INDEX s k, b.rd F.SC_CHILD_KIND s k)

/-- The destination rectangle of a descriptor at an origin. -/
def dstRect (b : Blk) (l : Nat) (ox oy : Int) : Rect :=
  { x := ox + sgn 14 (b.rd F.LD_DST_XY_X l), y := oy + sgn 14 (b.rd F.LD_DST_XY_Y l),
    w := b.rd F.LD_DST_WH_W l, h := b.rd F.LD_DST_WH_H l }

/-- Flatten a scene; fuel bounds the depth, which R168 keeps finite. -/
def flatten : Nat → Blk → Nat → Int → Int → Rect → Nat → List Nat → List Flat
  | 0, _, _, _, _, _, _, _ => []
  | fuel + 1, b, s, ox0, oy0, clip0, alpha0, path0 =>
    let ox := ox0 + sgn 14 (b.rd F.SC_OFFSET_X s)
    let oy := oy0 + sgn 14 (b.rd F.SC_OFFSET_Y s)
    let cw := b.rd F.SC_CLIP_WH_W s
    let clip := if cw = 0 then clip0 else clip0.inter
      { x := ox + sgn 14 (b.rd F.SC_CLIP_XY_X s), y := oy + sgn 14 (b.rd F.SC_CLIP_XY_Y s), w := cw, h := b.rd F.SC_CLIP_WH_H s }
    let alpha := mulA alpha0 (b.rd F.SC_ALPHA_ALPHA s)
    let path := s :: path0
    (sceneKids b s).flatMap fun c =>
      if c.2 = 1 then flatten fuel b c.1 ox oy clip alpha path
      else
        let d := dstRect b c.1 ox oy
        let v := d.inter clip
        let a := mulA (b.rd F.LD_XFORM_ALPHA c.1) alpha
        if v.empty || a == 0 then [] else [⟨c.1, v, a, d, path⟩]

/-- The ordinary placements of a stage (R167). -/
def flatStage (b : Blk) (st : Nat) : List Flat :=
  if b.on F.STG_CFG_ROOT_EN st then
    flatten 2049 b (b.rd F.STG_CFG_ROOT st) 0 0 { x := 0, y := 0, w := stageW b st, h := stageH b st } 1023 []
  else []

/-- The scenes reachable from a scene through children that are not hidden. -/
def reach : Nat → Blk → Nat → List Nat
  | 0, _, s => [s]
  | fuel + 1, b, s => s :: ((sceneKids b s).filter (·.2 = 1)).flatMap fun c => if c.1 < 2048 then reach fuel b c.1 else []

/-- A path from a scene through its children comes back to it (R168): some path is longer than there are scenes. -/
def deepPath : Nat → Blk → Nat → Bool
  | 0, _, _ => true
  | fuel + 1, b, s => ((sceneKids b s).filter (·.2 = 1)).any fun c => Nat.blt c.1 2048 && deepPath fuel b c.1

/-- The reason for which a scene's children refuse a cue, 0 for none (R168). -/
def sceneBad (b : Blk) (s : Nat) : Nat :=
  if deepPath 2049 b s then 0x42
  else
    let kids := sceneKids b s
    if kids.any fun c => if c.2 = 1 then Nat.ble 2048 c.1 || !b.on F.SC_CTRL_VALID c.1 else !b.on F.LD_CTRL_VALID c.1 then 0x48
    else if kids.any fun c => c.2 == 0 && b.on F.LD_CTRL_PROSC c.1 then 0x45
    else 0

/-! ### Context allocation (R155, R156) -/

/-- The crop of a layer for a frame size: the crop rectangle, or the whole frame when it follows it. -/
def cropOf (b : Blk) (l w h : Nat) : Nat × Nat × Nat × Nat :=
  if b.rd F.LD_CROP_WH_W l = 0 ∧ b.rd F.LD_CROP_WH_H l = 0 then (0, 0, w, h)
  else (b.rd F.LD_CROP_XY_X l, b.rd F.LD_CROP_XY_Y l, b.rd F.LD_CROP_WH_W l, b.rd F.LD_CROP_WH_H l)

/-- The frame size that a check uses: the newest eligible frame's, or LD_SIZE (R156). -/
def sizeFor (b : Blk) (l : Nat) : Nat × Nat :=
  match (b.layer l).newest with
  | some f => (f.lay.w, f.lay.h)
  | none => (b.rd F.LD_SIZE_WIDTH l, b.rd F.LD_SIZE_HEIGHT l)

/-- Width held and lines read of a crop, rotated, for pre-decimation k (R156). -/
def heldWH (b : Blk) (l w h k : Nat) : Nat × Nat :=
  let c := cropOf b l w h
  let t := b.rd F.LD_XFORM_ROT l % 2 = 1
  (cdiv (if t then c.2.2.2 else c.2.2.1) (2 ^ k), if t then c.2.2.1 else c.2.2.2)

/-- Line buffer need in KiB of a placement whose frames have a format (R156). -/
def needKiB (b : Blk) (l fmt w h k : Nat) : Nat :=
  let c := cropOf b l w h
  let bp := if fmtAlpha fmt && b.rd F.LD_CTRL_ALPHA_MODE l != 0 then 5 else 4
  let lines := if b.rd F.LD_XFORM_ROT l % 2 = 1 then 24 else if b.rd F.LD_DST_WH_H l = c.2.2.2 then 2 else 8
  cdiv ((heldWH b l w h k).1 * bp * lines) 1024

/-- Pixels per frame of a placement: its rate of R156 without the factor f, the stage's frame rate, which the contexts of a pipe
share. -/
def needPixels (b : Blk) (l w h k : Nat) (vis : Rect) : Nat :=
  let q := heldWH b l w h k
  Nat.max (q.1 * q.2) (vis.w * vis.h)

/-- Both scale ratios of a placement lie within 1/16 to 16 (R157). -/
def ratioOk (b : Blk) (l w h k : Nat) : Bool :=
  let q := heldWH b l w h k
  let ok (d s : Nat) := Nat.ble s (16 * d) && Nat.ble d (16 * s)
  ok (b.rd F.LD_DST_WH_W l) q.1 && ok (b.rd F.LD_DST_WH_H l) q.2

/-- What one pipe has given out so far; rates in pixels per frame. -/
structure PipeUse where
  pipe : Nat
  ctxs : Nat := 0
  kib : Nat := 0
  rate : Nat := 0
  deriving DecidableEq, Repr

/-- Rate capacity of a pipe in pixels a second. -/
abbrev pipeRate : Nat := 1200000000

/-- Rate capacity of a pipe of a stage in pixels per frame. -/
def pipePixels (b : Blk) (st : Nat) : Nat := let r := headRate b st; if r.1 = 0 then 2 ^ 64 else pipeRate * r.2 / r.1

/-- Pixels per frame of a stage as Mpix/s, rounded up. -/
def pixelsToM (b : Blk) (st n : Nat) : Nat := let r := headRate b st; cdiv (n * r.1) (1000000 * r.2)

/-- One context given to a placement. -/
structure Grant where
  slot : Nat
  layer : Nat
  pipe : Nat
  ctx : Nat
  off : Nat
  kib : Nat
  rate : Nat
  w : Nat
  h : Nat
  deriving DecidableEq, Repr

/-- Give one placement the lowest pipe with a free context, line buffer and rate (R155); else the refusal reason. -/
def allocOne (b : Blk) (st : Nat) (acc : Except (Nat × Nat) (List PipeUse × List Grant)) (p : Nat × Nat × Rect) :
    Except (Nat × Nat) (List PipeUse × List Grant) :=
  match acc with
  | .error e => .error e
  | .ok (us, gs) =>
    let sz := sizeFor b p.2.1
    let need := needKiB b p.2.1 ((writtenFmt b p.2.1).getD 1) sz.1 sz.2 0
    let rate := needPixels b p.2.1 sz.1 sz.2 0 p.2.2
    let roomy := us.filter fun u => Nat.blt u.ctxs 16 && Nat.ble (u.rate + rate) (pipePixels b st)
    match roomy.find? fun u => Nat.ble (u.kib + need) 256 with
    | some u =>
      .ok (us.map fun x => if x.pipe = u.pipe then { x with ctxs := x.ctxs + 1, kib := x.kib + need, rate := x.rate + rate } else x,
           gs ++ [⟨p.1, p.2.1, u.pipe, u.ctxs, u.kib, need, rate, sz.1, sz.2⟩])
    | none => .error (p.1, if roomy.isEmpty then 0x07 else 0x04)

/-- The pipes of a stage, lowest first. -/
def pipesOf (b : Blk) (st : Nat) : List Nat := (List.range 96).filter fun p => b.rd F.LFP_CFG_STAGE p == st

/-- The descriptor-fed proscenium slots of a stage that draw: slot, layer, visible area (R183, R184). -/
def proscFed (b : Blk) (st : Nat) : List (Nat × Nat × Rect) :=
  (List.range 8).filterMap fun k =>
    if b.on F.STG_PS_CFG_EN st k && b.rd F.STG_PS_CFG_SRC st k == 0 then
      let l := b.rd F.STG_PS_CFG_LAYER st k
      some (64 + k, l, (dstRect b l 0 0).inter { x := 0, y := 0, w := stageW b st, h := stageH b st })
    else none

/-- Allocate a stage's placements, proscenium slots first (R155): the contexts given, or the first slot that fits no pipe
with its reason. -/
def allocate (b : Blk) (st : Nat) : Except (Nat × Nat) (List Grant) :=
  let l := proscFed b st ++ ((flatStage b st).zipIdx.map fun e => (e.2, e.1.layer, e.1.vis))
  match l.foldl (allocOne b st) (.ok ((pipesOf b st).map fun p => { pipe := p }, [])) with
  | .ok r => .ok r.2
  | .error e => .error e

/-- Pipes that a stage gives up: they hold contexts of its placements and serve it no longer, and the stage that they serve now, if any,
has not yet allocated on them. -/
def pipesLeft (b : Blk) (st : Nat) : List Nat :=
  (((placesAt b st).map (·.2.2.pipe)).eraseDups.filter fun p =>
    b.rd F.LFP_CFG_STAGE p != st && (b.rd F.LFP_CFG_STAGE p == 31 || (b.stage (b.rd F.LFP_CFG_STAGE p)).allocDue))

/-- Show an allocation in some pipes' registers: contexts, line buffer, rate (LFP page tables). -/
def showAlloc (st : Nat) (pipes : List Nat) (gs : List Grant) (b : Blk) : Blk :=
  forEach pipes (fun p b =>
    let mine := gs.filter (·.pipe == p)
    let b := forEach (List.range 16) (fun k b =>
      match mine.find? (·.ctx == k) with
      | some g => ((((((b.wr F.LFP_CTX_LAYER p g.layer k).wr F.LFP_CTX_SLOT p g.slot k).wr F.LFP_CTX_VALID p 1 k).wr
          F.LFP_CTX_DECIM p 0 k).wr F.LFP_CTX_UNFIT p 0 k).wr F.LFP_CTX_LB_OFF p g.off k).wr F.LFP_CTX_LB_SIZE p g.kib k
      | none => ((((((b.wr F.LFP_CTX_LAYER p 0 k).wr F.LFP_CTX_SLOT p 0 k).wr F.LFP_CTX_VALID p 0 k).wr
          F.LFP_CTX_DECIM p 0 k).wr F.LFP_CTX_UNFIT p 0 k).wr F.LFP_CTX_LB_OFF p 0 k).wr F.LFP_CTX_LB_SIZE p 0 k) b
    let kib := mine.foldl (fun a g => a + g.kib) 0
    let rate := mine.foldl (fun a g => a + g.rate) 0
    ((b.wr F.LFP_STAT_CONTEXTS p mine.length).wr F.LFP_STAT_LB_FREE p (256 - kib)).wr F.LFP_RATE_ALLOC p (pixelsToM b st rate)) b

/-! ### Latching (R127, R158, R159) -/

/-- The throttle step as a curtain-up sees it: a change in the same cycle is not yet seen (R455). -/
def stepSeen (b : Blk) : Nat := if b.thm.stepAt = b.now ∧ b.thm.stepAt ≠ 0 then b.thm.stepWas else b.rd F.THM_STAT_STEP 0

/-- The eighths of the fetch rate that a throttle step leaves to a placement; proscenium contexts keep all of it (R454,
R456). -/
def fetchEighths (b : Blk) (k : Nat) : Nat :=
  if 64 ≤ k then 8 else match stepSeen b with | 5 => 7 | 6 => 6 | 7 => 4 | _ => 8

/-- The least pre-decimation with which a frame fits a placement's allocation and the pipe's spare rate (R158). -/
def fitDecim (b : Blk) (p : Place) (f : Frame) (spare share : Nat) : Option Nat :=
  let top := if b.on F.LD_XFORM_DECIM_OK p.layer then 4 else 1
  (List.range top).find? fun k =>
    Nat.ble (needKiB b p.layer f.lay.fmt f.lay.w f.lay.h k) p.need
      && Nat.ble (needPixels b p.layer f.lay.w f.lay.h k p.vis) ((p.rate + spare) * share / 8)
      && ratioOk b p.layer f.lay.w f.lay.h k

/-- The pixels per frame of a stage's pipe that no context was given. -/
def pipeSpare (b : Blk) (st pipe : Nat) : Nat :=
  let used := ((places b).filter (fun e => e.2.2.pipe == pipe && e.2.2.need != 0)).foldl (fun a e => a + e.2.2.rate) 0
  pipePixels b st - used

/-- Latch one placement of a stage at its curtain-up (step 6 of R175). `spare` holds what the contexts before it on the pipe
left of the pipe's unallocated rate. -/
def latchOne (st k : Nat) (acc : Blk × SMap Nat) : Blk × SMap Nat :=
  let b := acc.1
  match b.place st k with
  | none => acc
  | some p =>
    let L := b.layer p.layer
    let cand := match L.newest with
      | some f => if f.arr = b.now then L.prev else some f
      | none => none
    match cand with
    | none => acc
    | some f =>
      if f.serial ≤ p.after then acc
      else
      let spare := mgetD acc.2 p.pipe (pipeSpare b st p.pipe)
      let share := fetchEighths b k
      let same := f.lay.w == p.forW && f.lay.h == p.forH && share == 8
      match (if same then some 0 else fitDecim b p f spare share) with
      | some d =>
        let take := needPixels b p.layer f.lay.w f.lay.h d p.vis - p.rate
        let b := b.putPlace st k { p with next := some f, decim := d, unfit := false }
        let b := (b.wr F.LFP_CTX_DECIM p.pipe d p.ctx).wr F.LFP_CTX_UNFIT p.pipe 0 p.ctx
        let b := if d = p.decim then b
          else raise (lfpPage p.pipe) 0x105 sevNotice (p.layer + 2 ^ 12 * d + 2 ^ 15 * p.pipe) (evB 2) b
        (b, mset acc.2 p.pipe (if same then spare else spare - take))
      | none =>
        let b' := (b.putPlace st k { p with unfit := true, unfitSerial := f.serial }).wr F.LFP_CTX_UNFIT p.pipe 1 p.ctx
        (if p.unfit ∧ p.unfitSerial = f.serial then b'
         else raise (lfpPage p.pipe) 0x101 sevWarning (p.layer + 2 ^ 15 * p.pipe)
           (evB 0) b', acc.2)

/-- Latch every placement of a stage, in ascending pipe and context order. -/
def latchAll (st : Nat) (b : Blk) : Blk :=
  let ks := (placesAt b st).map (fun e => (e.2.2.pipe * 16 + e.2.2.ctx, e.2.1))
  let ordered := ks.mergeSort (fun x y => Nat.ble x.1 y.1)
  (ordered.foldl (fun acc e => latchOne st e.2 acc) (b, [])).1

/-- The rate of the frames latched, shown per pipe (LFP_RATE.USED). -/
def showUsed (st : Nat) (pipes : List Nat) (b : Blk) : Blk :=
  forEach pipes (fun p b =>
    let r := ((placesAt b st).filter (·.2.2.pipe == p)).foldl (fun a e =>
      match e.2.2.next with
      | some f => a + needPixels b e.2.2.layer f.lay.w f.lay.h e.2.2.decim e.2.2.vis
      | none => a) 0
    b.wr F.LFP_RATE_USED p (pixelsToM b st r)) b

/-! ### Checks of a cue (R145, R146, R148, R150, R152, R157, R168, R170) -/

/-- The descriptor is VALID or a placement or drawing proscenium slot names it. -/
def ldInUse (b : Blk) (l : Nat) : Bool :=
  b.on F.LD_CTRL_VALID l || !(placesOf b l).isEmpty

/-- Bytes that a frame of LD_SIZE takes in a buffer. -/
def frameBytes (b : Blk) (l : Nat) : Nat :=
  let fmt := (writtenFmt b l).getD 1
  let w := b.rd F.LD_SIZE_WIDTH l
  let h := b.rd F.LD_SIZE_HEIGHT l
  let pitch := b.rd F.LD_PITCH_PITCH l
  if b.on F.LD_CTRL_COMPRESSED l then
    Nat.max (cdiv w 64 * cdiv h 4 * 1024) (b.rd F.LD_PLANE2_OFFSET l + cdiv w 64 * cdiv h 4)
  else if fmt = 8 ∨ fmt = 9 then Nat.max (h * pitch) (b.rd F.LD_PLANE2_OFFSET l + cdiv h 2 * pitch)
  else h * pitch

/-- The reason for which a descriptor refuses a cue, 0 for none: judged on the values the cue would leave (R145 to R152). -/
def ldBad (b : Blk) (l : Nat) : Nat :=
  let src := sourceOf b l
  let fmt := (writtenFmt b l).getD 1
  let comp := b.on F.LD_CTRL_COMPRESSED l
  let nbuf := b.rd F.LD_CTRL_NBUF l
  let w := b.rd F.LD_SIZE_WIDTH l
  let h := b.rd F.LD_SIZE_HEIGHT l
  let use_ := ldInUse b l
  if 9 < fmt ∨ 4 < b.rd F.LD_FMT_CSC l ∨ 2 < b.rd F.LD_XFORM_FILTER l ∨ 3 < b.rd F.LD_CTRL_ALPHA_MODE l ∨ nbuf = 0 then 0x01
  else if b.on F.LD_CTRL_PROSC l && Nat.blt l 3840 then 0x45
  else if b.on F.LD_CTRL_PROSC l && b.rd F.LD_CTRL_ALPHA_MODE l != 0 && b.rd F.LD_CTRL_ALPHA_MODE l != 3 then 0x41
  else if comp && (src != 0 || Nat.blt 3 fmt) then 0x44
  else if Nat.blt 1 (writerCount b l) then 0x49
  else if src != 0 && (effPol b (b.rd F.LD_CTRL_POLICY l)).cls == 2 then 0x140
  else if src != 0 && nbuf != 3 then 0x47
  else if use_ && (match ingWriter b l with
      | some c => ingFormat (b.rd F.ING_FMT1_SAMPLING c) (b.rd F.ING_FMT1_DEPTH c) != fmt
      | none => false) then 0x43
  else if !use_ then 0
  else
    let crop := !(b.rd F.LD_CROP_WH_W l == 0 && b.rd F.LD_CROP_WH_H l == 0)
    if (List.range nbuf).any (fun k => b.rd F.LD_BUF_ADDR l k % 256 != 0
        || Nat.blt (usable b) (b.rd F.LD_BUF_ADDR l k + frameBytes b l)) then 0x47
    else if !comp && (b.rd F.LD_PITCH_PITCH l % 256 != 0 || (match writtenFmt b l with | some f => Nat.blt (b.rd F.LD_PITCH_PITCH l) (lineBytes f w) | none => false)) then 0x47
    else if (comp || fmt == 8 || fmt == 9) && b.rd F.LD_PLANE2_OFFSET l % 256 != 0 then 0x47
    else if crop && (Nat.blt w (b.rd F.LD_CROP_XY_X l + b.rd F.LD_CROP_WH_W l)
        || Nat.blt h (b.rd F.LD_CROP_XY_Y l + b.rd F.LD_CROP_WH_H l)) then 0x47
    else if b.rd F.LD_DST_WH_W l == 0 || b.rd F.LD_DST_WH_H l == 0 then 0x47
    else 0

/-- A refused descriptor or scene entry: LFP_REJ of pipe 0 holds the first, and event 0x0102 (R170, R171). -/
def lfpReject (mid entry kind reason : Nat) (b : Blk) : Blk :=
  let b := if b.on F.LFP_REJ_VALID 0 then b
    else (((b.wr F.LFP_REJ_ENTRY 0 entry).wr F.LFP_REJ_KIND 0 kind).wr F.LFP_REJ_REASON 0 reason).wr F.LFP_REJ_VALID 0 1
  let b := flagSet 0x1C0050 (2 ^ 31) [(F.LFP_REJ_ENTRY.key 0 0, entry % 2 ^ 12), (F.LFP_REJ_KIND.key 0 0, kind % 2),
    (F.LFP_REJ_REASON.key 0 0, reason % 2 ^ 8)] b
  raiseAs mid (lfpPage 0) 0x102 sevWarning (entry + 2 ^ 12 * kind + 2 ^ 13 * (reason % 256)) (evB 1) b

/-- Some phase of a pipe's custom set does not sum to 1,024 (R163). -/
def coefsBad (b : Blk) (pipe : Nat) : Bool :=
  (List.range 64).any fun ph => (customCoefs b pipe true ph).foldl (· + ·) 0 != 1024
    || (customCoefs b pipe false ph).foldl (· + ·) 0 != 1024

/-! ### Meanings -/

/-- CORRUPT_BLOCK (R154, R171): the block is filled with the DARK fill, as `unpack` draws it; event 0x0103; the verdict stays. -/
def execCorruptBlock (dt pipe layer : Nat) (s : State) : Host.Outcome State Fault Refusal :=
  eff dt s (raise (lfpPage pipe) 0x103 sevWarning (layer + 2 ^ 15 * pipe) 0)

end Sys2Proof.Machine
end

