-- ==== Sys2Proof/Machine/Ingest.lean ====
section
/-!
DEFINITION. Network ports and ingest channels (chapter "Network ports and ingest"): the filter of received frames, group
membership, RTP merge and frame assembly, capture times, signatures and source pulses.
-/

namespace Sys2Proof.Machine

def nifPage (n : Nat) : Page := ⟨.nif, n⟩
def ingPage (c : Nat) : Page := ⟨.ing, c⟩

/-! What a NIF port sends, as `Emit.net` numbers it (R111). -/

abbrev netReport : Nat := 1
abbrev netLeave : Nat := 2
abbrev netArp : Nat := 3
abbrev netProbe : Nat := 4
abbrev netPtp : Nat := 5
abbrev netVideo : Nat := 6
abbrev netRtp : Nat := 7

/-- The internal state of a port. -/
def Blk.port (b : Blk) (n : Nat) : NifPort := mgetD b.nif n {}

/-- Store a port's state. -/
def Blk.putPort (b : Blk) (n : Nat) (x : NifPort) : Blk := { b with nif := mset b.nif n x }

/-- The internal state of an ingest channel. -/
def Blk.chan (b : Blk) (c : Nat) : IngCh := mgetD b.ing c {}

/-- Store a channel's state. -/
def Blk.putChan (b : Blk) (c : Nat) (x : IngCh) : Blk := { b with ing := mset b.ing c x }

/-- An event of a NIF page: the detail holds the port (R141). -/
def nifEvent (n code sev d evt : Nat) (b : Blk) : Blk := raise (nifPage n) code sev (d % 65536 + 65536 * n) evt b

/-- An event of an ING page: the detail holds the channel (R140). -/
def ingEvent (c code sev d evt : Nat) (b : Blk) : Blk := raise (ingPage c) code sev (d % 65536 + 65536 * c) evt b

/-- The port's link is up. -/
def linkUp (b : Blk) (n : Nat) : Bool := b.on F.NIF_STAT_LINK n

/-! ### Addresses (R112) -/

/-- The port's MAC address. -/
def macOf (b : Blk) (n : Nat) : Nat := b.rd F.NIF_MAC_LO_MAC n + 2 ^ 32 * (b.rd F.NIF_MAC_HI_MAC n % 65536)

/-- The port's IPv4 address in use: the one written, or the one claimed. -/
def ip4Of (b : Blk) (n : Nat) : Nat :=
  if b.rd F.NIF_IP4_ADDR n ≠ 0 then b.rd F.NIF_IP4_ADDR n
  else if b.on F.NIF_STAT_IP4_LL n then (b.port n).llAddr else 0

/-- The link-local IPv6 address formed from the MAC address by EUI-64. -/
def ip6Of (b : Blk) (n : Nat) : Nat :=
  let m := macOf b n
  0xFE80 * 2 ^ 112 + (Nat.xor (m / 2 ^ 40) 2) * 2 ^ 56 + bits m 24 16 * 2 ^ 40 + 0xFFFE * 2 ^ 24 + m % 2 ^ 24

/-- Claim an address in 169.254.1.0 to 169.254.254.255: a fresh random draw (R112). -/
def claimLinkLocal (n : Nat) (b : Blk) : Blk :=
  let a := 0xA9FE0100 + Config.linkLocal b.fresh % 0xFE00
  let b := (b.useFresh.putPort n { b.port n with llAddr := a }).wr F.NIF_STAT_IP4_LL n 1
  b.emit (.net n netProbe [a])

/-! ### Group membership (R113) -/

/-- The flows of a channel that receive: flow 0, flow 1 with DUAL, flow 2 with ANC_EN. -/
def flowsOf (b : Blk) (c : Nat) : List Nat :=
  if enabled b (ingPage c) && b.rd F.ING_CTRL_KIND c != 0 then
    [0] ++ (if b.on F.ING_CTRL_DUAL c then [1] else []) ++ (if b.on F.ING_CTRL_ANC_EN c then [2] else [])
  else []

/-- Every enabled flow, as channel and number. -/
def allFlows (b : Blk) : List (Nat × Nat) := (List.range 64).flatMap fun c => (flowsOf b c).map fun k => (c, k)

/-- The sources of a port's membership of a group: the union of its flows' sources, none (EXCLUDE of none) when some flow
takes any source. -/
def memberSources (b : Blk) (n g : Nat) : List Nat :=
  let fs := (allFlows b).filter fun e => b.rd F.ING_FLOW_PORT_NIF e.1 e.2 == n && b.rd F.ING_FLOW_GRP_ADDR e.1 e.2 == g
  if fs.any fun e => !b.on F.ING_FLOW_PORT_SSM e.1 e.2 then []
  else (fs.map fun e => b.rd F.ING_FLOW_SRC_ADDR e.1 e.2).eraseDups

/-- The groups that enabled flows name on a port, each with its sources. -/
def wantedGroups (b : Blk) (n : Nat) : List (Nat × List Nat) :=
  let gs := ((allFlows b).filter fun e => b.rd F.ING_FLOW_PORT_NIF e.1 e.2 == n).map fun e => b.rd F.ING_FLOW_GRP_ADDR e.1 e.2
  gs.eraseDups.map fun g => (g, memberSources b n g)

/-- A report of one group, in the querier's version. -/
def sendReport (n : Nat) (e : Nat × List Nat) (b : Blk) : Blk :=
  if linkUp b n then b.emit (.net n netReport ([b.rd F.NIF_STAT_OLD_QUERIER n, e.1] ++ e.2)) else b

/-- First reports of memberships, each to be repeated once at a random time within 1 s (R113). -/
def joinReports (n : Nat) (gs : List (Nat × List Nat)) (b : Blk) : Blk :=
  forEach gs (fun e b =>
    let due := b.now + Config.reportDelay b.fresh % 1000000001
    sendReport n e (b.useFresh.putPort n { b.port n with repeats := (b.port n).repeats ++ [(e.1, due)] })) b

/-- After a cue: reports for the groups a port newly joins or joins otherwise, and leave reports for the groups no flow names any
longer. -/
def refreshPortGroups (n : Nat) (b : Blk) : Blk :=
  let old := (b.port n).groups
  let new := wantedGroups b n
  if new = old then b
  else
    let b := b.putPort n { b.port n with groups := new }
    let b := joinReports n (new.filter fun e => !old.contains e) b
    forEach (old.filter fun e => !(new.map (·.1)).contains e.1) (fun e b =>
      let b := b.putPort n { b.port n with repeats := (b.port n).repeats.filter (·.1 != e.1) }
      if linkUp b n then b.emit (.net n netLeave [e.1]) else b) b

/-- Memberships of every port after a cue. -/
def refreshGroups (b : Blk) : Blk := forEach (List.range 16) refreshPortGroups b

/-- An older version of IGMP or MLD (R114). Versions: 0 IGMPv3, 1 IGMPv1, 2 IGMPv2, 3 MLDv1, 4 MLDv2. -/
def olderVersion (version : Nat) : Bool := Nat.ble 1 version && Nat.ble version 3

/-- A group that a query of a version asks for: its own family's, all of them for group 0. -/
def queried (version group g : Nat) : Bool := (Nat.ble 3 version == Nat.ble (2 ^ 32) g) && (group == 0 || g == group)

/-- A query is answered (R113, R114). Group 0 is a general query. -/
def queryRx (n version group : Nat) (b : Blk) : Blk :=
  if !linkUp b n then b
  else
    let b := if !olderVersion version then b
      else
        let b' := b.putPort n { b.port n with oldAt := b.now }
        if b.on F.NIF_STAT_OLD_QUERIER n then b'
        else nifEvent n 0x103 sevNotice version 0 (b'.wr F.NIF_STAT_OLD_QUERIER n 1)
    forEach ((b.port n).groups.filter fun e => queried version group e.1) (sendReport n) b

/-- QUERY_RX. -/
def execQueryRx (dt port version group : Nat) (s : State) : Host.Outcome State Fault Refusal :=
  eff dt s (queryRx port version group)

/-- The older-version querier present time-out of RFC 3376 and RFC 3810 with their defaults: 2 × 125 s + 10 s. PRESUMED. -/
abbrev olderQuerierNs : Nat := 260000000000

/-- OLD_QUERIER_TIMEOUT (R114). -/
def execOldQuerierTimeout (dt port : Nat) (s : State) : Host.Outcome State Fault Refusal :=
  eff dt s fun b => if (b.port port).oldAt + olderQuerierNs ≤ b.now then b.wr F.NIF_STAT_OLD_QUERIER port 0 else b

/-- REPORT_REPEAT (R113): a repeat that is due goes out. -/
def execReportRepeat (dt port group : Nat) (s : State) : Host.Outcome State Fault Refusal :=
  eff dt s fun b =>
    let p := b.port port
    if p.repeats.any fun e => e.1 == group && Nat.ble e.2 b.now then
      let b := b.putPort port { p with repeats := p.repeats.filter fun e => !(e.1 == group && Nat.ble e.2 b.now) }
      forEach (p.groups.filter (·.1 == group)) (sendReport port) b
    else b

/-! ### Received frames (R110, R115) -/

/-- The destination is one that the port accepts. -/
def destOk (b : Blk) (n : Nat) : EthDest → Bool
  | .group a => (b.port n).groups.any (·.1 == a)
  | .ptp _ => true
  | .solicit a => (a != 0 && a == ip4Of b n) || a == ip6Of b n
  | .query => true
  | .sap => b.rd F.SYS_STAT_SHOW 0 == 1
  | .other => false

/-- The network header is one that the port accepts: no fragment, no option but Router Alert (148) of IGMP, no extension header but
hop-by-hop (0) of MLD. -/
def ipOk (f : EthRx) : Bool :=
  match f.ip with
  | .v4 fragment options => !fragment && options.all fun o => o == 148 && f.dest == .query
  | .v6 extensions => extensions.all fun e => e == 0 && f.dest == .query
  | .other => true

/-- The UDP checksum is correct, or 0 over IPv4. -/
def udpOk (f : EthRx) : Bool :=
  match f.udp, f.ip with
  | none, _ => true
  | some (sum, ok), .v4 _ _ => ok || sum == 0
  | some (_, ok), _ => ok

/-- The drop reason of a received frame, 0 when it is accepted (R110). -/
def dropReason (b : Blk) (n : Nat) (f : EthRx) : Nat :=
  if !f.fcsOk then 1
  else if f.len < 64 ∨ 9216 < f.len then 2
  else if f.tags ≠ (if b.on F.NIF_CFG_VLAN_EN n then [b.rd F.NIF_CFG_VID n] else []) then 3
  else if !ipOk f then 4
  else if !udpOk f then 5
  else if !destOk b n f.dest then 6
  else 0

/-- ETH_FRAME_RX (R110, R115). -/
def ethFrameRx (n : Nat) (f : EthRx) (b : Blk) : Blk :=
  if !linkUp b n then b
  else match dropReason b n f with
    | 0 =>
      let b := b.bump F.NIF_RX_FRAMES_COUNT n
      match f.dest with
      | .ptp true => b.putPort n { b.port n with ptpStamp := b.now }
      | _ => b
    | why =>
      let p := b.port n
      let b := b.bump F.NIF_RX_DROP_COUNT n
      match p.dropAt with
      | some _ => b
      | none => b.putPort n { p with dropAt := some b.now, dropWhy := why }

/-- ETH_FRAME_RX. -/
def execEthFrameRx (dt port : Nat) (f : EthRx) (s : State) : Host.Outcome State Fault Refusal := eff dt s (ethFrameRx port f)

/-- DROP_REPORT (R110): the second that began with the first drop is over. -/
def execDropReport (dt port : Nat) (s : State) : Host.Outcome State Fault Refusal :=
  eff dt s fun b =>
    let p := b.port port
    match p.dropAt with
    | some t => if t + 1000000000 ≤ b.now then
        nifEvent port 0x105 sevNotice p.dropWhy (evB 1) (b.putPort port { p with dropAt := none, dropWhy := 0 })
      else b
    | none => b

/-- ARP_REPLY (R111): a request for the port's own address is answered with its MAC address. -/
def execArpReply (dt port : Nat) (v6 : Bool) (addr : Nat) (s : State) : Host.Outcome State Fault Refusal :=
  eff dt s fun b =>
    if linkUp b port && (if v6 then addr == ip6Of b port else addr != 0 && addr == ip4Of b port) then
      b.emit (.net port netArp [b2n v6, addr, macOf b port])
    else b

/-- ADDR_CONFLICT (R141); a claimed address is given up and another claimed (R112). -/
def execAddrConflict (dt port : Nat) (s : State) : Host.Outcome State Fault Refusal :=
  eff dt s fun b =>
    let b := nifEvent port 0x104 sevWarning 0 0 b
    if b.on F.NIF_STAT_IP4_LL port then claimLinkLocal port b else b

/-- The memberships of a port whose link has come up are reported (R113). -/
def rejoinGroups (n : Nat) (b : Blk) : Blk :=
  let new := wantedGroups b n
  joinReports n new (b.putPort n { b.port n with groups := new, repeats := [] })

/-- NIF_LINK_UP (R141, R112, R113). -/
def execNifLinkUp (dt port : Nat) (s : State) : Host.Outcome State Fault Refusal :=
  eff dt s fun b =>
    if enabled b (nifPage port) && b.rd F.NIF_CFG_SPEED port != 0 && !linkUp b port then
      let sp := b.rd F.NIF_CFG_SPEED port
      let b := ((b.wr F.NIF_STAT_LINK port 1).wr F.NIF_STAT_SPEED_ACT port sp).put F.NIF_STAT_AN_DONE port
        (b.on F.NIF_CFG_AN_EN port)
      let b := b.put F.NIF_STAT_FEC_ALIGNED port (!(sp == 1 && b.on F.NIF_CFG_FEC_OFF port))
      let b := nifEvent port 0x100 sevNotice sp (evB 0) b
      rejoinGroups port (if b.rd F.NIF_IP4_ADDR port = 0 then claimLinkLocal port b else b)
    else b

/-- The link of a port goes down (R141). -/
def nifDown (n cause : Nat) (b : Blk) : Blk :=
  if linkUp b n then
    let b := (((b.wr F.NIF_STAT_LINK n 0).wr F.NIF_STAT_SPEED_ACT n 0).wr F.NIF_STAT_AN_DONE n 0).wr F.NIF_STAT_FEC_ALIGNED n 0
    nifEvent n 0x101 sevWarning cause (evB 0) ((b.wr F.NIF_STAT_IP4_LL n 0).bump F.NIF_STAT_LINK_DOWNS n)
  else b

/-- NIF_LINK_DOWN. -/
def execNifLinkDown (dt port cause : Nat) (s : State) : Host.Outcome State Fault Refusal := eff dt s (nifDown port cause)

/-- FEC_REPORT (R141): counts, and the event at most once a second. -/
def execFecReport (dt port corrected codewords : Nat) (s : State) : Host.Outcome State Fault Refusal :=
  eff dt s fun b =>
    let b := (b.bump F.NIF_FEC_CORR_COUNT port corrected).bump F.NIF_FEC_UNCORR_COUNT port codewords
    let p := b.port port
    let n := p.fecCount + codewords
    if n != 0 && (match p.fecAt with | some t => Nat.ble (t + 1000000000) b.now | none => true) then
      nifEvent port 0x102 sevNotice (Nat.min 65535 n) 0 (b.putPort port { p with fecAt := some b.now, fecCount := 0 })
    else b.putPort port { p with fecCount := n }

/-! ### Formats and limits of a channel (R116 to R118, R135, R139) -/

/-- Bits per sample of a channel. -/
def ingDepth (b : Blk) (c : Nat) : Nat := 8 + 2 * b.rd F.ING_FMT1_DEPTH c

/-- Frame period of a channel in ns. -/
def ingPeriod (b : Blk) (c : Nat) : Nat := 1000000000 * b.rd F.ING_RATE_DEN c / b.rd F.ING_RATE_NUM c

/-- Pixel rate of a channel as a ratio (R118). -/
def ingRate (b : Blk) (c : Nat) : Nat × Nat :=
  (b.rd F.ING_FMT0_WIDTH c * b.rd F.ING_FMT0_HEIGHT c * b.rd F.ING_RATE_NUM c, b.rd F.ING_RATE_DEN c)

/-- The sum of some ratios. -/
def sumRatio (l : List (Nat × Nat)) : Nat × Nat :=
  l.foldl (fun (a : Nat × Nat) (r : Nat × Nat) => (a.1 * r.2 + r.1 * a.2, a.2 * r.2)) (0, 1)

/-- Pixel rates as ratios lie together within a limit. -/
def sumWithin (l : List (Nat × Nat)) (top : Nat) : Bool :=
  Nat.ble (sumRatio l).1 (top * (sumRatio l).2)

/-- The sum of some pixel rates in Mpix/s, rounded up. -/
def mpixUp (l : List (Nat × Nat)) : Nat := cdiv (sumRatio l).1 (1000000 * (sumRatio l).2)

/-- Frame rate from 23.976 Hz to 120 Hz. -/
def rateOk (num den : Nat) : Bool := den != 0 && Nat.ble (23976 * den) (1000 * num) && Nat.ble num (120 * den)

/-- Frame size and scan within R117. -/
def sizeOk (w h sampling scan : Nat) : Bool :=
  Nat.ble 16 w && Nat.ble w 7680 && Nat.ble 16 h && Nat.ble h 4320 && w % 2 == 0 && (sampling != 2 || h % 2 == 0)
    && (scan == 0 || (Nat.ble w 1920 && Nat.ble h 1080))

/-- The reason for which an ING page refuses a cue, 0 for none. -/
def ingBad (b : Blk) (c : Nat) : Nat :=
  let kind := b.rd F.ING_CTRL_KIND c
  let w := b.rd F.ING_FMT0_WIDTH c
  let h := b.rd F.ING_FMT0_HEIGHT c
  let ctx := b.rd F.ING_ASM_CTX c
  let pk := b.rd F.ING_SIG_PULSE_KIND c
  if 4 < kind ∨ b.rd F.ING_CTRL_TSMODE c = 3 ∨ b.rd F.ING_FMT1_DEPTH c = 3 ∨ b.rd F.ING_FMT1_SCAN c = 3
      ∨ 3 < b.rd F.ING_FMT1_COLORIMETRY c ∨ b.rd F.ING_FMT1_TCS c = 3 ∨ b.rd F.ING_RATE_DEN c = 0
      ∨ 100 < b.rd F.ING_ASM_LOSS_MAX c ∨ b.rd F.ING_ASM_SKEW_MAX c = 0 ∨ 10 < b.rd F.ING_ASM_SKEW_MAX c
      ∨ b.rd F.ING_ASM_PATH_TO c = 0 ∨ 4 < b.rd F.ING_SIG_MASK_LSB c ∨ pk = 3
      ∨ b.rd F.ING_PULSE_RGN_W c = 0 ∨ b.rd F.ING_PULSE_RGN_H c = 0 then 0x01
  else if !sizeOk w h (b.rd F.ING_FMT1_SAMPLING c) (b.rd F.ING_FMT1_SCAN c)
      || !rateOk (b.rd F.ING_RATE_NUM c) (b.rd F.ING_RATE_DEN c) then 0x40
  else if kind = 2 ∧ b.rd F.ING_FMT1_SAMPLING c = 2 then 0x40
  else if cdiv w 64 < b.rd F.ING_PULSE_RGN_X0 c + b.rd F.ING_PULSE_RGN_W c
      ∨ cdiv h 64 < b.rd F.ING_PULSE_RGN_Y0 c + b.rd F.ING_PULSE_RGN_H c then 0x40
  else if kind = 2 ∧ 15 < ctx then 0x43
  else if !enabled b (ingPage c) || kind == 0 then 0
  else if 2 ≤ kind ∧ (List.range 64).any (fun d => d != c && enabled b (ingPage d)
      && (if kind = 2 then b.rd F.ING_CTRL_KIND d == 2 else Nat.ble 3 (b.rd F.ING_CTRL_KIND d) && Nat.ble (b.rd F.ING_CTRL_KIND d) 4)
      && b.rd F.ING_ASM_CTX d == ctx) then 0x41
  else if kind = 1 ∧ (b.rd F.LD_SIZE_WIDTH (b.rd F.ING_CTRL_LAYER c) < w ∨ b.rd F.LD_SIZE_HEIGHT (b.rd F.ING_CTRL_LAYER c) < h)
    then 0x42
  else if !sumWithin [ingRate b c] 2000000000 then 0x07
  else if !sumWithin (((List.range 64).filter fun d => enabled b (ingPage d)
      && (b.rd F.ING_CTRL_KIND d == 1 || b.rd F.ING_CTRL_KIND d == 2)).map (ingRate b)) 12400000000 then 0x07
  else 0

/-- Lanes of a port by its speed (R108). -/
def nifLanes (speed : Nat) : Nat := if speed = 3 then 2 else if speed = 4 then 4 else 1

/-- The lanes that an enabled port uses. -/
def portLanes (b : Blk) (n : Nat) : List Nat :=
  if enabled b (nifPage n) && b.rd F.NIF_CFG_SPEED n != 0 then
    fromTo (b.rd F.NIF_CFG_FIRST_LANE n) (nifLanes (b.rd F.NIF_CFG_SPEED n))
  else []

/-- The reason for which a NIF page refuses a cue, 0 for none (R108). A FIRST_LANE that is no multiple of the lane count has
the same reason as a shared lane (DEDUCED). -/
def nifBad (b : Blk) (n : Nat) : Nat :=
  let sp := b.rd F.NIF_CFG_SPEED n
  let mine := portLanes b n
  if 4 < sp ∨ (b.on F.NIF_CFG_FEC_OFF n = true ∧ sp ≠ 1 ∧ sp ≠ 0) then 0x01
  else if mine.isEmpty then 0
  else if b.rd F.NIF_CFG_FIRST_LANE n % nifLanes sp ≠ 0 ∨ 32 < b.rd F.NIF_CFG_FIRST_LANE n + nifLanes sp then 0x40
  else if (List.range 16).any fun m => m != n && (portLanes b m).any mine.contains then 0x40
  else 0

/-! ### Assembly (R119 to R129) -/

/-- A path of a channel is up. -/
def pathUp (b : Blk) (c k : Nat) : Bool := if k = 0 then b.on F.ING_STAT_PATH0_UP c else b.on F.ING_STAT_PATH1_UP c

/-- Set a path's state. -/
def putPath (c k : Nat) (v : Bool) (b : Blk) : Blk :=
  if k = 0 then b.put F.ING_STAT_PATH0_UP c v else b.put F.ING_STAT_PATH1_UP c v

/-- Count discarded frames. -/
def countDiscard (c n : Nat) (b : Blk) : Blk := b.bump F.ING_DISCARDED_COUNT c n

/-- A frame is discarded: counted, with event 0x0100 (R123, R126, R129). -/
def discardFrame (c why : Nat) (b : Blk) : Blk := ingEvent c 0x100 sevWarning why (evB 1) (countDiscard c 1 b)

/-- Remember timestamps of a frame whose later packets are to be discarded (R122, R129); the skew of R120 spans less than four
frames. -/
def remember (c : Nat) (ts : List Nat) (no : Nat) (b : Blk) : Blk :=
  let x := b.chan c
  b.putChan c { x with doneRtp := (ts.map (fun t => (t, no)) ++ x.doneRtp).take 8 }

/-- The timestamps of a frame in assembly. -/
def Asm.stamps (a : Asm) : List Nat := a.rtp :: a.rtp2.toList

/-- Packets of the frame were dropped for want of reassembly memory: event 0x0108 (R128). -/
def tellDropped (c : Nat) (a : Asm) (b : Blk) : Blk :=
  if a.dropped = 0 then b else ingEvent c 0x108 sevWarning (Nat.min 65535 a.dropped) 0 b

/-- The frames in assembly are discarded by a cue or a soft reset (R129, chapter 4). -/
def dropAsms (c why : Nat) (b : Blk) : Blk :=
  let x := b.chan c
  forEach x.asms (fun a b => discardFrame c why (tellDropped c a (remember c a.stamps a.no b))) (b.putChan c { x with asms := [] })

/-- The channel receives: it is enabled, with a KIND. -/
def ingOn (b : Blk) (c : Nat) : Bool := enabled b (ingPage c) && b.rd F.ING_CTRL_KIND c != 0

/-- What a newly enabled channel starts from, and what a disabled one shows (R121): packets of a discarded frame stay known (R129). -/
def ingRestart (c : Nat) (b : Blk) : Blk :=
  let on := ingOn b c
  let x := b.chan c
  let b := b.putChan c { ready := x.ready, begun := x.begun, doneRtp := x.doneRtp }
  let b := (putPath c 1 false (putPath c 0 false b)).wr F.ING_STAT_STATE c (b2n on)
  let b := ((b.wr F.ING_STAT_TIMED c 0).wr F.ING_STAT_ANC_UP c 0).wr F.ING_STAT_SKEW c 0
  match chanLayer b c with
  | some l => b.putLayer l { b.layer l with pulseAt := none }
  | none => b

/-- Where the samples of one pixel group go: pixel column offset, line offset and component, in the order the source packs
them (R134). -/
def groupPlan (sampling : Nat) : List (Nat × Nat × Nat) :=
  match sampling with
  | 0 => [(0, 0, 2), (0, 0, 1), (0, 0, 0), (1, 0, 1)]
  | 1 => [(0, 0, 2), (0, 0, 1), (0, 0, 0)]
  | 2 => [(0, 0, 1), (1, 0, 1), (0, 1, 1), (1, 1, 1), (0, 0, 2), (0, 0, 0)]
  | _ => [(0, 0, 0), (0, 0, 1), (0, 0, 2)]

/-- Pixels across one pixel group, and lines. -/
def groupW (sampling : Nat) : Nat := if sampling = 0 ∨ sampling = 2 then 2 else 1
def groupH (sampling : Nat) : Nat := if sampling = 2 then 2 else 1

/-- A buffer of a frame store region may be written by the ingest engines at an address (R413). -/
def ingMayWrite (b : Blk) (a : Nat) : Bool := fsGranted b 0x10 a true && Nat.blt a (usable b)

/-- A channel writes the alpha of format 0x07 as 0xFFFF (R150). -/
def putAlpha (y : Layout) (px py : Nat) (m : FrameStore) : FrameStore :=
  if y.fmt = 7 then putField m (sampleLoc y px py 3) 0xFFFF else m

/-- Place one pixel group of a row; samples outside the frame or refused by access control are not written. -/
def putGroup (b : Blk) (y : Layout) (sampling d px py : Nat) (vals : List Nat) (m : FrameStore) : FrameStore :=
  ((groupPlan sampling).zip vals).foldl (fun m e =>
    let x := px + e.1.1
    let ly := py + e.1.2.1
    if x < y.w ∧ ly < y.h ∧ ingMayWrite b (sampleLoc y x ly e.1.2.2).1 then putAlpha y x ly (putSample m y x ly e.1.2.2 d e.2) else m) m

/-- Place the samples of a row from a pixel on. -/
def putRow (b : Blk) (y : Layout) (sampling d py : Nat) : Nat → Nat → List Nat → FrameStore → FrameStore
  | 0, _, _, m => m
  | fuel + 1, px, vals, m =>
    if vals.isEmpty then m
    else putRow b y sampling d py fuel (px + groupW sampling) (vals.drop (groupPlan sampling).length)
      (putGroup b y sampling d px py (vals.take (groupPlan sampling).length) m)

/-- Pixels that a row of samples covers. -/
def rowPixels (sampling n : Nat) : Nat := cdiv n (groupPlan sampling).length * groupW sampling

/-- The frame layout that a channel writes into a buffer, in the format of its sampling and depth (R150), as a frame begins (R144). -/
def ingLayout (b : Blk) (c buf : Nat) : Layout :=
  { layoutOf b (b.rd F.ING_CTRL_LAYER c) buf (b.rd F.ING_FMT0_WIDTH c) (b.rd F.ING_FMT0_HEIGHT c) with
    fmt := ingFormat (b.rd F.ING_FMT1_SAMPLING c) (b.rd F.ING_FMT1_DEPTH c) }

/-- The frame line of a payload line: fields and segments interleave (R122). -/
def frameLine (b : Blk) (c line : Nat) (field2 : Bool) : Nat :=
  if b.rd F.ING_FMT1_SCAN c = 0 then line else 2 * line + b2n field2

/-- Some pixel of a packet lies outside the configured frame (R125). -/
def packetOutside (b : Blk) (c : Nat) (p : RtpPkt) : Bool :=
  let s := b.rd F.ING_FMT1_SAMPLING c
  p.rows.any fun r => Nat.ble (b.rd F.ING_FMT0_HEIGHT c) (frameLine b c r.1 p.field2)
    || Nat.blt (b.rd F.ING_FMT0_WIDTH c) (r.2.1 + rowPixels s r.2.2.length)

/-- The spans of a packet's rows, one for each line they cover. -/
def packetSpans (b : Blk) (c : Nat) (p : RtpPkt) : List (Nat × Nat × Nat) :=
  let s := b.rd F.ING_FMT1_SAMPLING c
  p.rows.flatMap fun r => (List.range (groupH s)).map fun j =>
    (frameLine b c r.1 p.field2 + j, r.2.1, rowPixels s r.2.2.length)

/-- Write a packet's pixels into the frame store, with one violation for each row that access control refuses. -/
def placePixels (c : Nat) (y : Layout) (p : RtpPkt) (b : Blk) (m : FrameStore) : Blk × FrameStore :=
  let s := b.rd F.ING_FMT1_SAMPLING c
  let d := ingDepth b c
  p.rows.foldl (fun (acc : Blk × FrameStore) r =>
    let py := frameLine b c r.1 p.field2
    let m := putRow acc.1 y s d py r.2.2.length r.2.1 r.2.2 acc.2
    let a := (sampleLoc y r.2.1 py 1).1
    if py < y.h ∧ r.2.1 < y.w ∧ !fsGranted acc.1 0x10 a true then (fsViolation 4 0x10 a 1 acc.1, m) else (acc.1, m)) (b, m)

/-- The pixel columns of a line that no span covers. -/
def missingOn (a : Asm) (w line : Nat) : List Nat :=
  let sp := a.spans.filter (·.1 == line)
  (List.range w).filter fun x => !sp.any fun e => Nat.ble e.2.1 x && Nat.blt x (e.2.1 + e.2.2)

/-- The tiles of a frame that hold a missing pixel, in ascending order (R123). -/
def lossMap (a : Asm) (w h : Nat) : List Nat :=
  let tw := cdiv w 64
  let rows := (List.range h).map fun y => (y, missingOn a w y)
  (List.range (tw * cdiv h 64)).filter fun t =>
    rows.any fun r => r.1 / 64 == t / tw && r.2.any fun x => x / 64 == t % tw

/-- Fill the missing pixels with mid-grey: every component at half of full scale (R123). -/
def fillGrey (b : Blk) (a : Asm) (y : Layout) (sampling d : Nat) (m : FrameStore) : FrameStore :=
  (List.range y.h).foldl (fun m py => (missingOn a y.w py).foldl (fun m px =>
    [0, 1, 2].foldl (fun m k =>
      let own := k = 1 ∨ groupW sampling = 1 ∨ (px % 2 = 0 ∧ py % groupH sampling = 0)
      if own ∧ ingMayWrite b (sampleLoc y px py k).1 then putAlpha y px py (putSample m y px py k d (2 ^ (d - 1))) else m) m) m) m

/-- Sequence numbers of a channel are modulo this: 32 bits for KIND 1, 16 otherwise (R120). -/
def seqMod (b : Blk) (c : Nat) : Nat := if b.rd F.ING_CTRL_KIND c = 1 then 2 ^ 32 else 65536

/-- A sequence difference as a signed number offset by half the range, so that an earlier packet sorts before. -/
def seqPos (md first seq : Nat) : Nat := (seq + md + md / 2 - first % md) % md

/-- Packets of a frame that neither path delivered: gaps from the last packet of the frame before up to its own last. -/
def lostPackets (b : Blk) (c : Nat) (a : Asm) : Nat :=
  let md := seqMod b c
  let ks := a.seqs.map (·.1)
  let top := maxD ks
  let low := match (b.chan c).lastSeq with
    | some q => let p := seqPos md a.firstSeq q; if p < minD top ks then p + 1 else minD top ks
    | none => minD top ks
  top + 1 - low - (ks.filter (Nat.ble low)).length

/-- Packets that one path alone supplied while both are up (R120). -/
def repairedPackets (b : Blk) (c : Nat) (a : Asm) : Nat :=
  if b.on F.ING_CTRL_DUAL c && pathUp b c 0 && pathUp b c 1 then (a.seqs.filter fun e => e.2.1 == 1 || e.2.1 == 2).length else 0

/-- A completed frame waits, with the channel's present values (R124, R129). -/
def awaitEligible (c : Nat) (f : Frame) (b : Blk) : Blk :=
  let kind := b.rd F.ING_CTRL_KIND c
  let q : Ready := { f := f, kind := kind, dest := if kind = 1 then b.rd F.ING_CTRL_LAYER c else b.rd F.ING_ASM_CTX c,
                     sampling := b.rd F.ING_FMT1_SAMPLING c, depth := b.rd F.ING_FMT1_DEPTH c, num := b.rd F.ING_RATE_NUM c,
                     den := b.rd F.ING_RATE_DEN c, tsmode := b.rd F.ING_CTRL_TSMODE c }
  b.putChan c { b.chan c with ready := (b.chan c).ready ++ [q] }

/-- A frame in assembly completes (R122, R123): counts, the grey fill and the loss map; over LOSS_MAX it is discarded, else it
waits to become eligible. For a decoder's stream the loss map only says that packets are missing. -/
def completeFrame (c : Nat) (a : Asm) (b : Blk) (m : FrameStore) : Blk × FrameStore :=
  let b := remember c a.stamps a.no b
  let gap := if lostPackets b c a = 0 then [] else [0]
  let b := (b.bump F.ING_PKT_LOST_COUNT c (lostPackets b c a)).bump F.ING_PKT_REPAIRED_COUNT c (repairedPackets b c a)
  let md := seqMod b c
  let b := b.putChan c { b.chan c with lastSeq := some ((maxD (a.seqs.map (·.1)) + a.firstSeq + md - md / 2) % md) }
  let b := tellDropped c a b
  if b.rd F.ING_CTRL_KIND c = 1 then
    let y := a.lay
    let loss := lossMap a y.w y.h
    let m := fillGrey b a y (b.rd F.ING_FMT1_SAMPLING c) (ingDepth b c) m
    if b.rd F.ING_ASM_LOSS_MAX c * (cdiv y.w 64 * cdiv y.h 64) < 100 * loss.length then (discardFrame c 1 b, m)
    else (awaitEligible c { buf := a.buf, lay := y, loss := loss, rtp := a.rtp } b, m)
  else (awaitEligible c { rtp := a.rtp, loss := gap } b, m)

/-- A completion condition of R122 other than the time-outs holds, on the paths' state now. -/
def asmEnded (b : Blk) (c : Nat) (a : Asm) : Bool :=
  if !b.on F.ING_CTRL_DUAL c then a.end0.isSome
  else match pathUp b c 0, pathUp b c 1 with
    | true, true => a.end0.isSome && a.end1.isSome
    | true, false => a.end0.isSome
    | false, true => a.end1.isSome
    | false, false => false

/-- Complete the frames in assembly that a condition names, oldest first. -/
def completeWhere (c : Nat) (cond : Blk → Asm → Bool) (b : Blk) (m : FrameStore) : Blk × FrameStore :=
  let x := b.chan c
  let out := x.asms.filter (cond b)
  let b' := b.putChan c { x with asms := x.asms.filter fun a => !cond b a }
  out.foldl (fun acc a => completeFrame c a acc.1 acc.2) (b', m)

/-- The end of a frame is seen on a path at the present time. -/
def Asm.seeEnd (now k : Nat) (a : Asm) : Asm :=
  if k = 0 then { a with end0 := match a.end0 with | some t => some t | none => some now }
  else { a with end1 := match a.end1 with | some t => some t | none => some now }

/-- Change the frame in assembly that owns a timestamp. -/
def onAsm (c ts : Nat) (f : Asm → Asm) (b : Blk) : Blk :=
  let x := b.chan c
  b.putChan c { x with asms := x.asms.map fun a => if a.stamps.contains ts then f a else a }

/-- The SSRC that a flow is locked to (R119). -/
def IngCh.lock (x : IngCh) (k : Nat) : Option Nat := match k with | 0 => x.ssrc0 | 1 => x.ssrc1 | _ => x.ssrc2

/-- Lock a flow to an SSRC. -/
def IngCh.lockTo (x : IngCh) (k ssrc : Nat) : IngCh :=
  match k with
  | 0 => { x with ssrc0 := some ssrc }
  | 1 => { x with ssrc1 := some ssrc }
  | _ => { x with ssrc2 := some ssrc }

/-- Another SSRC on a flow (R119): the frame in assembly is discarded, with event 0x0106. The ancillary flow has no frame in assembly
(DEDUCED, log 79). -/
def ssrcChanged (c k : Nat) (b : Blk) : Blk :=
  let x := b.chan c
  if k = 2 then ingEvent c 0x106 sevNotice k 0 b
  else
    let b := forEach x.asms (tellDropped c) (b.putChan c { x with asms := [], lastSeq := none })
    ingEvent c 0x106 sevNotice k 0 (countDiscard c x.asms.length b)

/-- Source, version and payload type of an RTP packet of a flow, and the SSRC lock (R114, R119); false when it is not accepted. -/
def flowAccept (c k src version pt ssrc : Nat) (b : Blk) : Blk × Bool :=
  if b.on F.ING_FLOW_PORT_SSM c k ∧ src ≠ b.rd F.ING_FLOW_SRC_ADDR c k then (b, false)
  else if version ≠ 2 ∨ pt ≠ b.rd F.ING_CTRL_PT c then (b.bump F.ING_PKT_LOST_COUNT c, false)
  else
    let lock := (b.chan c).lock k
    let b := b.putChan c ((b.chan c).lockTo k ssrc)
    (if lock.isSome ∧ lock ≠ some ssrc then ssrcChanged c k b else b, true)

/-- Acceptance of a packet of flow 0 or 1. -/
def rtpAccept (c : Nat) (p : RtpPkt) (b : Blk) : Blk × Bool := flowAccept c p.flow p.src p.version p.pt p.ssrc b

/-- An accepted packet keeps its path up, or brings it up (R121). -/
def pathSeen (c k : Nat) (b : Blk) : Blk :=
  let x := b.chan c
  let b := b.putChan c (if k = 0 then { x with last0 := b.now } else { x with last1 := b.now })
  let b := b.wr F.ING_STAT_STATE c 2
  if pathUp b c k then b else ingEvent c 0x102 sevNotice k (evB 2) (putPath c k true b)

/-- The lowest buffer that the channel may begin a frame in (R126): none that a frame in assembly or one waiting to become eligible
is in. -/
def ingFreeBuf (b : Blk) (c : Nat) : Option Nat :=
  let x := b.chan c
  freeBufBut b (b.rd F.ING_CTRL_LAYER c)
    ((x.asms.map fun a => a.lay.addr) ++ (x.ready.filter (·.kind == 1)).map fun q => q.f.lay.addr)

/-- A packet with a new timestamp begins a frame, or finds no buffer (R122, R126). -/
def beginFrame (c : Nat) (p : RtpPkt) (b : Blk) : Blk :=
  let x := { b.chan c with begun := (b.chan c).begun + 1 }
  let a : Asm := { rtp := p.ts, began := b.now, buf := 0, no := x.begun, firstSeq := p.seq }
  if b.rd F.ING_CTRL_KIND c ≠ 1 then b.putChan c { x with asms := x.asms ++ [a] }
  else match ingFreeBuf b c with
    | some k => (b.putChan c { x with asms := x.asms ++ [{ a with buf := k, lay := ingLayout b c k }] }).wr F.ING_STAT_WBUF c k
    | none => discardFrame c 2 (remember c [p.ts] x.begun (b.putChan c x))

/-- A packet of a frame in assembly: the merge (R120), and its pixels unless they are a second copy or do not fit (R128). -/
def takePacket (c : Nat) (a : Asm) (p : RtpPkt) (b : Blk) (m : FrameStore) : Blk × FrameStore :=
  let pos := seqPos (seqMod b c) a.firstSeq p.seq
  match mget a.seqs pos with
  | some (mask, t) =>
    let new := Nat.lor mask (2 ^ p.flow)
    let b := if new = 3 ∧ mask ≠ 3 then b.wr F.ING_STAT_SKEW c (Nat.min 255 ((b.now - t) / 1000000)) else b
    (onAsm c p.ts (fun a => { a with seqs := mset a.seqs pos (new, t) }) b, m)
  | none =>
    let b := onAsm c p.ts (fun a => { a with seqs := mset a.seqs pos (2 ^ p.flow, b.now) }) b
    if p.overflow then (onAsm c p.ts (fun a => { a with dropped := a.dropped + 1 }) (b.bump F.ING_PKT_LOST_COUNT c), m)
    else if b.rd F.ING_CTRL_KIND c ≠ 1 then (b, m)
    else
      let out := packetOutside b c p
      let b := if out && !a.outside then ingEvent c 0x103 sevWarning 0 0 b else b
      let b := onAsm c p.ts (fun a => { a with spans := a.spans ++ packetSpans b c p, outside := a.outside || out }) b
      placePixels c a.lay p b m

/-- The frame in assembly that a packet's timestamp belongs to. -/
def asmOf (b : Blk) (c ts : Nat) : Option Asm := (b.chan c).asms.find? fun a => a.stamps.contains ts

/-- A second field joins the newest frame in assembly, whose second timestamp is not yet known (R122). -/
def joinField (c : Nat) (p : RtpPkt) (b : Blk) : Blk × Bool :=
  let x := b.chan c
  match x.asms.getLast? with
  | some a =>
    if p.field2 ∧ b.rd F.ING_FMT1_SCAN c ≠ 0 ∧ a.rtp2 = none then
      (b.putChan c { x with asms := x.asms.dropLast ++ [{ a with rtp2 := some p.ts }] }, true)
    else (b, false)
  | none => (b, false)

/-- The marker ends the frame: any marker when progressive, the second field's otherwise (DEDUCED). -/
def endsFrame (b : Blk) (c : Nat) (p : RtpPkt) : Bool := p.marker && (b.rd F.ING_FMT1_SCAN c == 0 || p.field2)

/-- The number of a completed or discarded frame that a timestamp belongs to. -/
def doneNo (b : Blk) (c ts : Nat) : Option Nat := ((b.chan c).doneRtp.find? fun e => e.1 == ts).map (·.2)

/-- A packet of frame number `no` is seen on a path: that is a next-frame packet for each frame in assembly before it (R122). -/
def endsBefore (c k no : Nat) (b : Blk) (m : FrameStore) : Blk × FrameStore :=
  let x := b.chan c
  let b := b.putChan c { x with asms := x.asms.map fun a => if a.no < no then a.seeEnd b.now k else a }
  completeWhere c (fun b a => asmEnded b c a) b m

/-- RTP_PACKET_RX (R119 to R128). -/
def rtpPacketRx (c : Nat) (p : RtpPkt) (b : Blk) (m : FrameStore) : Blk × FrameStore :=
  if !(flowsOf b c).contains p.flow || Nat.ble 2 p.flow then (b, m)
  else
    let r := rtpAccept c p b
    if !r.2 then (r.1, m)
    else
      let b := pathSeen c p.flow r.1
      match doneNo b c p.ts with
      | some no => endsBefore c p.flow no b m
      | none =>
        let known := (asmOf b c p.ts).isSome
        let j := if known then (b, true) else joinField c p b
        let q : Blk × FrameStore :=
          if j.2 then endsBefore c p.flow (((asmOf j.1 c p.ts).map (·.no)).getD 0) j.1 m
          else
            let e := endsBefore c p.flow ((j.1.chan c).begun + 1) j.1 m
            (beginFrame c p e.1, e.2)
        match asmOf q.1 c p.ts with
        | none => q
        | some a =>
          let t := takePacket c a p q.1 q.2
          if endsFrame t.1 c p then
            completeWhere c (fun b a => asmEnded b c a) (onAsm c p.ts (Asm.seeEnd t.1.now p.flow) t.1) t.2
          else t

/-- RTP_PACKET_RX. -/
def execRtpPacketRx (dt chan : Nat) (p : RtpPkt) (s : State) : Host.Outcome State Fault Refusal :=
  effM dt s (rtpPacketRx chan p)

/-- PATH_DOWN (R121): a path that delivered nothing for PATH_TO; for the ancillary flow, ANC_UP. The frames in assembly are
judged again on the paths that are up. -/
def pathDown (c k : Nat) (b : Blk) (m : FrameStore) : Blk × FrameStore :=
  let x := b.chan c
  let limit := 1000000 * b.rd F.ING_ASM_PATH_TO c
  if k = 2 then (if x.lastAnc + limit ≤ b.now then b.wr F.ING_STAT_ANC_UP c 0 else b, m)
  else if pathUp b c k ∧ (if k = 0 then x.last0 else x.last1) + limit ≤ b.now then
    let b := ingEvent c 0x101 sevWarning k (evB 2) (putPath c k false b)
    let b := if pathUp b c 0 || pathUp b c 1 then b else b.wr F.ING_STAT_STATE c 1
    completeWhere c (fun b a => asmEnded b c a) b m
  else (b, m)

/-- PATH_DOWN. -/
def execPathDown (dt chan path : Nat) (s : State) : Host.Outcome State Fault Refusal := effM dt s (pathDown chan path)

/-- SKEW_MAX in ns. -/
def skewNs (b : Blk) (c : Nat) : Nat := 1000000 * b.rd F.ING_ASM_SKEW_MAX c

/-- SKEW_MAX has passed since the end was seen on the first path, with both paths up (R122). -/
def skewDue (c : Nat) (b : Blk) (a : Asm) : Bool :=
  b.on F.ING_CTRL_DUAL c && pathUp b c 0 && pathUp b c 1
    && (a.end0.toList ++ a.end1.toList).any fun t => Nat.ble (t + skewNs b c) b.now

/-- SKEW_TIMEOUT. -/
def execSkewTimeout (dt chan : Nat) (s : State) : Host.Outcome State Fault Refusal :=
  effM dt s (completeWhere chan (skewDue chan))

/-- Two frame periods plus SKEW_MAX have passed since the frame began (R122). -/
def asmDue (c : Nat) (b : Blk) (a : Asm) : Bool := Nat.ble (a.began + 2 * ingPeriod b c + skewNs b c) b.now

/-- ASSEMBLY_TIMEOUT. -/
def execAssemblyTimeout (dt chan : Nat) (s : State) : Host.Outcome State Fault Refusal :=
  effM dt s (completeWhere chan (asmDue chan))

/-! ### Capture time (R130 to R133) -/

/-- The capture time of R130 in ns: the latest instant not after A + 1 s whose count of 90 kHz ticks is `ts` modulo
2 ^ 32. An instant before stage time 0 is taken as 0 (DEDUCED). -/
def capture1 (ts a : Nat) : Nat :=
  let top := (9 * (a + 1000000001) - 1) / 100000
  let n := (top + 2 ^ 32 - ts % 2 ^ 32) % 2 ^ 32
  if top < n then 0 else (top - n) * 100000 / 9

/-- The capture time of R131: the report's PTP time plus the signed difference of timestamps at 90 kHz. -/
def capture2 (ts ptp rtp : Nat) : Nat :=
  (Int.ofNat ptp + (sgn 32 ((ts + 2 ^ 32 - rtp % 2 ^ 32) % 2 ^ 32) * 100000).fdiv 9).toNat

/-- The capture time that a channel supplies in a TSMODE for a frame that becomes eligible at `a`, before R132. -/
def captureOf (b : Blk) (c mode ts a : Nat) : Option Nat :=
  match mode with
  | 1 => some (capture1 ts a)
  | 2 => match (b.chan c).sr with
    | some (ptp, rtp, at_) => if a < at_ + 30000000000 then some (capture2 ts ptp rtp) else none
    | none => none
  | _ => none

/-- PTP time in ns of an NTP timestamp in units of 2 ^ -32 s (R131). -/
def ntpToPtp (b : Blk) (ntp : Nat) : Nat :=
  (Int.ofNat (ntp * 1000000000 / 2 ^ 32) - 2208988800000000000 + sgn 16 (b.rd F.CLK_UTC_ACT 0) * 1000000000).toNat

/-- RTCP_SR_RX (R131). -/
def execRtcpSrRx (dt chan ntp rtp : Nat) (s : State) : Host.Outcome State Fault Refusal :=
  eff dt s fun b => if (flowsOf b chan).isEmpty then b
    else b.putChan chan { b.chan chan with sr := some (ntpToPtp b ntp, rtp, b.now) }

/-- RTCP_SR_EXPIRY (R131). -/
def execRtcpSrExpiry (dt chan : Nat) (s : State) : Host.Outcome State Fault Refusal :=
  eff dt s fun b =>
    match (b.chan chan).sr with
    | some (_, _, t) => if t + 30000000000 ≤ b.now then
        (b.putChan chan { b.chan chan with sr := none }).wr F.ING_STAT_TIMED chan 0 else b
    | none => b

/-- The interval from a predecessor departs from the frame period by more than 25 % (R133). -/
def cadenceBad (num den : Nat) (d : Int) : Bool :=
  decide (1000000000 * den < 4 * (d * num - 1000000000 * den).natAbs)

/-- What R133 finds in the times of a frame with C `cap` and arrival `a` after its predecessor on the layer, whose C is as stored under
R78: 1 not advancing, 2 cadence, 0 neither. -/
def timingFault (num den : Nat) (cap : Option Nat) (a : Nat) (pred : Option Frame) : Nat :=
  match pred with
  | none => 0
  | some p =>
    match cap, p.cap with
    | some t, some q => if t ≤ q then 1 else if cadenceBad num den (Int.ofNat t - Int.ofNat q) then 2 else 0
    | _, _ => if cadenceBad num den (Int.ofNat a - Int.ofNat p.arr) then 2 else 0

/-- Times of a completed frame of a channel as it becomes eligible on layer `l` (R130 to R133): the frame, here `f`, with C and its
timing evidence. -/
def frameTimes (c l : Nat) (q : Ready) (f : Frame) (b : Blk) : Blk × Frame :=
  let a := b.now
  let c0 := captureOf b c q.tsmode f.rtp a
  let ahead := match c0 with | some t => Nat.blt a t | none => false
  let cap := c0.map (Nat.min a)
  let b := if ahead then ingEvent c 0x104 sevWarning 0 0 b else b
  let bad := timingFault q.num q.den cap a (b.layer l).newest
  let b := if bad = 0 then b else ingEvent c 0x105 sevNotice bad 0 b
  (b, { f with arr := a, cap := cap, timingOk := bad == 0 })

/-! ### Content evidence (R134, R135) -/

/-- The samples of a tile in the order of R134, as 16-bit values with the low bits masked. -/
def tileSamples (m : FrameStore) (y : Layout) (sampling d mask tx ty : Nat) : List Nat :=
  let gw := groupW sampling
  let gh := groupH sampling
  (List.range (64 / gh)).flatMap fun j => (List.range (64 / gw)).flatMap fun i =>
    let px := 64 * tx + i * gw
    let py := 64 * ty + j * gh
    if px < y.w ∧ py < y.h then
      (groupPlan sampling).map fun e => getSample m y (px + e.1) (py + e.2.1) e.2.2 d / 2 ^ mask * 2 ^ mask
    else []

/-- The tile signatures of a frame of a sampling and a sample width (R134). -/
def frameSigs (b : Blk) (c sampling d : Nat) (y : Layout) (m : FrameStore) : List Nat :=
  let tw := cdiv y.w 64
  (List.range (tw * cdiv y.h 64)).map fun t =>
    crc32c ((tileSamples m y sampling d (b.rd F.ING_SIG_MASK_LSB c) (t % tw) (t / tw)).flatMap (leBytes 2))

/-- The signatures of the pulse region (R135). -/
def regionSigs (b : Blk) (c tw : Nat) (sigs : List Nat) : List Nat :=
  (List.range (b.rd F.ING_PULSE_RGN_H c)).flatMap fun j => (List.range (b.rd F.ING_PULSE_RGN_W c)).map fun i =>
    sigs.getD ((b.rd F.ING_PULSE_RGN_Y0 c + j) * tw + b.rd F.ING_PULSE_RGN_X0 c + i) 0

/-- A sample of the channel's pulse; a sample that differs from the one before is stamped now (R135). -/
def pulseSample (c : Nat) (v : List Nat) (b : Blk) : Blk :=
  let x := b.chan c
  let b' := b.putChan c { x with pulse := some v }
  match x.pulse, chanLayer b c with
  | some w, some l => if v = w then b' else b'.putLayer l { b'.layer l with pulseAt := some b.now }
  | _, _ => b'

/-- What every eligible frame of a channel leaves in its registers; C is as stored under R78. -/
def showEligible (c l : Nat) (f : Frame) (b : Blk) : Blk :=
  let cap := match (b.layer l).newest with | some g => g.cap | none => none
  let b := (b.bump F.ING_FRAMES_COUNT c).wr F.ING_LAST_A_TIME c f.arr
  let b := (b.wr F.ING_LAST_C_TIME c (cap.getD 0)).put F.ING_STAT_TIMED c cap.isSome
  setEvt (ingPage c) (evB 0) b

/-- Take the oldest waiting frame of a channel that a test picks. -/
def takeReady (c : Nat) (pick : Ready → Bool) (b : Blk) : Option (Ready × Blk) :=
  let x := b.chan c
  (x.ready.find? pick).map fun q => (q, b.putChan c { x with ready := x.ready.eraseP pick })

/-- FRAME_ELIGIBLE for KIND 1 (R124): the oldest completed frame of the channel becomes eligible, under the values with which it
completed (R129). -/
def frameEligible (c : Nat) (b : Blk) (m : FrameStore) : Blk :=
  match takeReady c (·.kind == 1) b with
  | none => b
  | some (q, b) =>
    let t := frameTimes c q.dest q q.f b
    let sigs := frameSigs t.1 c q.sampling (8 + 2 * q.depth) q.f.lay m
    let f := { t.2 with sigs := sigs, tc := t.1.rd F.ING_TC_TC c }
    let b := t.1.wr F.ING_SIGDIG_DIGEST c (crc32c (sigs.flatMap (leBytes 4)))
    let b := if b.rd F.ING_SIG_PULSE_KIND c = 1 then pulseSample c (regionSigs b c (cdiv f.lay.w 64) sigs) b else b
    showEligible c q.dest f (makeEligible q.dest none f b)

/-- The ST 12-2 timecode in sixteen user data words: each digit in bits 7 to 4 of every second word (PRESUMED). -/
def timecode (udw : List Nat) : Nat :=
  let n (i : Nat) := bits (udw.getD (2 * i) 0) 4 4
  n 0 + 16 * (n 1 % 4) + 2 ^ 8 * n 2 + 2 ^ 12 * (n 3 % 8) + 2 ^ 16 * n 4 + 2 ^ 20 * (n 5 % 8) + 2 ^ 24 * n 6 + 2 ^ 28 * (n 7 % 4)

/-- The RFC 8331 packets of an RTP packet: the timecode, and the ancillary pulse of the first with its DID and SDID (R135, R136). -/
def ancData (c : Nat) (l : List (Nat × Nat × List Nat)) (b : Blk) : Blk :=
  let b := match (l.filter fun e => e.1 == 0x60 && e.2.1 == 0x60).getLast? with
    | some e => b.wr F.ING_TC_TC c (timecode e.2.2)
    | none => b
  match l.find? fun e => e.1 == b.rd F.ING_SIG_ANC_DID c && e.2.1 == b.rd F.ING_SIG_ANC_SDID c with
  | some e => if b.rd F.ING_SIG_PULSE_KIND c = 2 then pulseSample c e.2.2 b else b
  | none => b

/-- An RTP packet of the ancillary flow (R114, R119, R135, R136). -/
def ancPacketRx (c : Nat) (p : AncPkt) (b : Blk) : Blk :=
  if !(flowsOf b c).contains 2 then b
  else
    let r := flowAccept c 2 p.src p.version p.pt p.ssrc b
    if !r.2 then r.1
    else ancData c p.anc ((r.1.putChan c { r.1.chan c with lastAnc := r.1.now }).wr F.ING_STAT_ANC_UP c 1)

/-- ANC_PACKET_RX. -/
def execAncPacketRx (dt chan : Nat) (p : AncPkt) (s : State) : Host.Outcome State Fault Refusal :=
  eff dt s (ancPacketRx chan p)

end Sys2Proof.Machine
end

