-- ==== Sys2Proof/Machine/Prompter.lean ====
section
/-!
DEFINITION. The prompter's commands (chapter "The freshness contract"): deadlines, decisions on evidence, pulses.
-/

namespace Sys2Proof.Machine

/-- The deadlines of a frame that stage time has passed, in their order. -/
def passedDeadlines (now : Nat) (f : Frame) : List Nat :=
  ([f.late, f.stale] ++ f.dark.toList).filter fun d => Nat.ble d now

/-- A deadline makes the verdict of a placement worse. -/
def deadlineBites (b : Blk) (st d : Nat) (p : Place) : Bool :=
  Nat.blt (vrank p.verdict) (vrank (judge d (layerPol (b.viewed st) p.layer).cls (b.layer p.layer) p.shownDecim p.shown).1)

/-- The deadlines of a placement's frame on display that have passed (R87, R89, R105): each takes effect, and is timed, at the deadline
itself, within the frame. What is left over in the slot from a removed placement follows its own frame's deadlines (R86). -/
def deadlinePassed (st k : Nat) (b : Blk) : Blk :=
  let b := match b.place st k with
    | some p => refreshLayer p.layer 0 (forEach (match p.shown with | some f => passedDeadlines b.now f | none => []) (fun d b =>
        match b.place st k with
        | some p => if deadlineBites b st d p then rejudge st k 0 false true d d b else b
        | none => b) b)
    | none => b
  mapLeft (fun st' k' p => if st' = st ∧ k' = k then
    forEach (match p.shown with | some f => passedDeadlines b.now f | none => [])
      (fun d p => if deadlineBites b st d p then p.rejudged b st d else p) p else p) b

/-- DEADLINE_PASSED. -/
def execDeadlinePassed (dt stage slot : Nat) (s : State) : Host.Outcome State Fault Refusal := eff dt s (deadlinePassed stage slot)

/-- PROMPTER_DECISION (R88): freezing, recovery and damage follow from the newest frame's evidence. -/
def prompterDecision (l : Nat) (b : Blk) : Blk :=
  let b := freezeStep l b
  let b := b.putLayer l { b.layer l with undecided := false }
  rejudgeLayer l 0 false b

/-- PROMPTER_DECISION. -/
def execPrompterDecision (dt layer : Nat) (s : State) : Host.Outcome State Fault Refusal := eff dt s (prompterDecision layer)

/-- PULSE_CHANGE (R84): the stamped change moves the pulse deadline and may contradict a suspicion. -/
def execPulseChange (dt layer : Nat) (s : State) : Host.Outcome State Fault Refusal := eff dt s (freezeStep layer)

/-- PULSE_DEADLINE_PASSED (R84). -/
def execPulseDeadlinePassed (dt layer : Nat) (s : State) : Host.Outcome State Fault Refusal := eff dt s (freezeStep layer)

end Sys2Proof.Machine
end

