-- ==== Sys2Proof/Machine/Compose.lean ====
section
/-!
DEFINITION. What a stage draws (chapter "Stages and the proscenium"): placements with their marks, proscenium slots, the
pixel that leaves the stage, region checks and tile signatures, as functions of the frame on display.
-/

namespace Sys2Proof.Machine

abbrev Rgb := Nat × Nat × Nat

def stgPage (st : Nat) : Page := ⟨.stg, st⟩

/-- The placements of the frame on display, with the verdicts in force now (R87). -/
def onDisplay (b : Blk) (st : Nat) : List (Nat × Place) :=
  (b.stage st).scene.map fun e => (e.1, match b.place st e.1 with
    | some q => if q.layer = e.2.layer then
        { e.2 with disp := q.disp, verdict := q.verdict, reason := q.reason, unc := q.unc, hist := q.hist }
      else e.2
    | none => e.2)

/-- When the pixels of the frame on display leave the blender (R87): the time since power-up of its first, pixels of a line, and
the time of a pixel as a ratio, in ns. -/
def scanClock (b : Blk) (st : Nat) : Nat × Nat × Nat × Nat :=
  let r := headRate b st
  let ht := b.rd F.OHD_HTIM0_TOTAL st
  ((b.stage st).began, ht, 1000000000 * r.2, r.1 * b.rd F.OHD_VTIM0_TOTAL st * ht)

/-- When a pixel leaves the blender. -/
def scanTime (c : Nat × Nat × Nat × Nat) (x y : Nat) : Nat := c.1 + c.2.2.1 * (y * c.2.1 + x) / c.2.2.2

/-- The placements as the pixel at (x, y) shows them (R87). -/
def onPixel (b : Blk) (st x y : Nat) : List (Nat × Place) :=
  (onDisplay b st).map fun e => (e.1, e.2.asOf (scanTime (scanClock b st) x y))

/-- A pixel of the head lies in a rectangle. -/
def Rect.has (r : Rect) (x y : Nat) : Bool := decide (r.x ≤ x ∧ (x : Int) < r.x + r.w ∧ r.y ≤ y ∧ (y : Int) < r.y + r.h)

/-- What the fetch of a placement's frame needs, by the descriptor read for the frame on display (R143). -/
def fetchOf (v : Blk) (p : Place) (f : Frame) : Fetch :=
  let l := p.layer
  let c := cropOf v l f.lay.w f.lay.h
  { lay := f.lay, alphaMode := v.rd F.LD_CTRL_ALPHA_MODE l, cx := c.1, cy := c.2.1, cw := c.2.2.1, ch := c.2.2.2,
    rot := v.rd F.LD_XFORM_ROT l, mirror := v.on F.LD_XFORM_MIRROR l, filter := v.rd F.LD_XFORM_FILTER l,
    hoff := sgn 16 (v.rd F.LD_PHASE_HOFF l), voff := sgn 16 (v.rd F.LD_PHASE_VOFF l), decim := p.shownDecim, pipe := p.pipe,
    dw := p.dst.w, dh := p.dst.h }

/-- The dark fill (R94). -/
def darkFill : Rgb := (64, 64, 64)

/-- The colour of a placement's frame at a head pixel, in 10-bit full-range R'G'B', and its alpha; the DARK fill, opaque, where the
source pixel under the centre tap lies in a corrupt block (R154). -/
def placeColour (v : Blk) (m : FrameStore) (p : Place) (f : Frame) (x y : Nat) : Rgb × Nat :=
  let q := fetchOf v p f
  let i := ((x : Int) - p.dst.x).toNat
  let j := ((y : Int) - p.dst.y).toNat
  let c (k : Nat) := q.scaled v m k i j
  let s := q.centre i j
  if (unpack m q.lay q.alphaMode s.1 s.2).corrupt then (darkFill, 1023)
  else (toRgb v p.layer f.lay.csc f.lay.range (c 0) (c 1) (c 2), if q.alphaMode = 0 then 1023 else c 3)

/-- A source tile of a frame is damaged. -/
def Frame.hurt (f : Frame) (t : Nat) : Bool := f.loss.contains t || f.conceal.contains t

/-- The source pixel under a head pixel's centre tap lies in a damaged source tile (R182). -/
def centreHurt (v : Blk) (p : Place) (f : Frame) (x y : Nat) : Bool :=
  let s := (fetchOf v p f).centre ((x : Int) - p.dst.x).toNat ((y : Int) - p.dst.y).toNat
  f.hurt (s.2 / 64 * cdiv f.lay.w 64 + s.1 / 64)

/-- A stage tile is damaged for a placement (R182): by the whole layer's damage, or by a visible pixel of it. -/
def tileHurt (v : Blk) (p : Place) (tx ty : Nat) : Bool :=
  match p.disp with
  | none => false
  | some f =>
    f.subst || p.shownDecim != 0
      || (List.range 64).any fun j => (List.range 64).any fun i =>
        p.vis.has (64 * tx + i) (64 * ty + j) && centreHurt v p f (64 * tx + i) (64 * ty + j)

/-- A line of a placement was not ready when the blender needed it (R178), or one of its words does not read (R390, R414). -/
def lineLost (b v : Blk) (m : FrameStore) (st k : Nat) (p : Place) (y : Nat) : Bool :=
  (b.stage st).under.contains (k, y) || (match p.shown with
    | some f => p.verdict != 0 && lineUnread b m (fetchOf v p f) ((y : Int) - p.dst.y).toNat
    | none => false)

/-- One blend step (R181, R182): the placement over the incoming pixel. -/
def blendStep (b v : Blk) (m : FrameStore) (st k : Nat) (p : Place) (x y : Nat) (d : Rgb) : Rgb :=
  if !p.vis.has x y then d
  else if lineLost b v m st k p y then (if inHatch 0 x y then markColour 0 else darkFill)
  else
    let e := layerPol v p.layer
    let hurt := p.verdict == 5 && tileHurt v p (x / 64) (y / 64)
    let base := match p.verdict, p.shown with
      | 0, _ => darkFill
      | _, none => darkFill
      | w, some f =>
        let q := placeColour v m p f x y
        let dim := match w with
          | 3 => e.dimStale
          | 4 => e.dimFrozen
          | 5 => if hurt then e.dimDeg else 0
          | _ => 0
        let s := (dimC q.1.1 dim, dimC q.1.2.1 dim, dimC q.1.2.2 dim)
        let mode := v.rd F.LD_CTRL_ALPHA_MODE p.layer
        (blendC mode s.1 d.1 q.2 p.alpha, blendC mode s.2.1 d.2.1 q.2 p.alpha, blendC mode s.2.2 d.2.2 q.2 p.alpha)
    drawMarks v st { p with verdict := if p.shown.isNone then 0 else p.verdict } e hurt x y base

/-- Ordinary slots from the bottom upward (R180). -/
def stackOrder (v : Blk) (st : Nat) : List Nat :=
  match v.rd F.STG_CFG_ORDER st with
  | 0 => List.range 64
  | 1 => (List.range 64).reverse
  | _ => (List.range 64).map fun j =>
    v.rd (match j % 4 with | 0 => F.STG_Z_SLOT0 | 1 => F.STG_Z_SLOT1 | 2 => F.STG_Z_SLOT2 | _ => F.STG_Z_SLOT3) st (j / 4)

/-! ### Proscenium slots (R183, R184, R189, R190) -/

/-- The state of a contact as the frame on display shows it. -/
def shownContact (b : Blk) (st j : Nat) : Nat := (b.stage st).shownContacts.getD j ctInactive

/-- A contact's banner is unstable (R190). -/
def unstable (s : Nat) : Bool := s == ctStuck || s == ctChatter

/-- Asserted contacts of a slot's mask, ascending. -/
def bandContacts (cs : Nat → Nat) (v : Blk) (st k : Nat) : List Nat :=
  (List.range 16).filter fun j => bit (v.rd F.STG_PS_MASK_CONTACTS st k) j && ctAsserted (cs j)

/-- A slot draws: EN, and its trigger or its contacts let it (R189). -/
def psDraws (cs : Nat → Nat) (v : Blk) (st k : Nat) : Bool :=
  v.on F.STG_PS_CFG_EN st k
    && (!v.on F.STG_PS_CFG_TRIG_EN st k
      || ctAsserted (cs (v.rd F.STG_PS_CFG_TRIG_SC st k)) != v.on F.STG_PS_CFG_TRIG_POL st k)
    && (v.rd F.STG_PS_CFG_SRC st k != 2 || !(bandContacts cs v st k).isEmpty)

/-- The rectangle of a text banner or contact list, before clipping. -/
def psRect (v : Blk) (st k : Nat) : Rect :=
  { x := v.rd F.STG_PS_XY_X st k, y := v.rd F.STG_PS_XY_Y st k, w := v.rd F.STG_PS_WH_W st k, h := v.rd F.STG_PS_WH_H st k }

/-- One band of a contact list: its rectangle, its text, and whether it carries the unstable border. -/
structure Band where
  r : Rect
  text : List Nat
  shaky : Bool

/-- The bands of a contact list (R184, R190). -/
def bands (cs : Nat → Nat) (v : Blk) (st k : Nat) : List Band :=
  let r := psRect v st k
  let bh := 32 * v.rd F.STG_PS_CFG_SCALE st k
  let on := bandContacts cs v st k
  let fit := r.h / bh
  let row (i : Nat) : Rect := { r with y := r.y + i * bh, h := bh }
  let one (i j : Nat) : Band := ⟨row i, codes "CONTACT " ++ digitsOf j ++ codes " ACTIVE", unstable (cs j)⟩
  if on.length ≤ fit then (on.zipIdx).map fun e => one e.2 e.1
  else if fit = 0 then []
  else ((on.take (fit - 1)).zipIdx).map (fun e => one e.2 e.1)
    ++ [⟨row (fit - 1), digitsOf on.length ++ codes " CONTACTS ACTIVE", (on.drop (fit - 1)).any fun j => unstable (cs j)⟩]

/-- Characters of the badge font (R96). -/
def inFont (ch : Nat) : Bool :=
  (Nat.ble 65 ch && Nat.ble ch 90) || (Nat.ble 48 ch && Nat.ble ch 57) || ch == 32 || ch == 46 || ch == 58 || ch == 63 || ch == 43

/-- The text of a slot: its bytes up to the first zero, with characters outside the font as spaces. -/
def psText (v : Blk) (st k : Nat) : List Nat :=
  let by_ := leBytes 32 (v.rd F.STG_PS_TEXT_TEXT st k)
  (by_.takeWhile (· != 0)).map fun ch => if inFont ch then ch else 32

/-- Text and background colours of a style (R184). -/
def styleColours (style : Nat) : Rgb × Rgb :=
  match style with
  | 0 => ((1023, 1023, 1023), (768, 0, 0))
  | 1 => ((0, 0, 0), (1023, 768, 0))
  | 2 => ((1023, 1023, 1023), (0, 0, 640))
  | _ => ((0, 0, 0), (1023, 1023, 1023))

/-- A pixel lies within 4 pixels of an edge of an area (R190). -/
def Rect.rim (r : Rect) (x y : Nat) : Bool :=
  decide ((x : Int) < r.x + 4 ∨ r.x + r.w - 4 ≤ x ∨ (y : Int) < r.y + 4 ∨ r.y + r.h - 4 ≤ y)

/-- A pixel of a banner over its rectangle, with the unstable border inside its area (R184, R190). -/
def bannerPixel (area r : Rect) (text : List Nat) (style scale : Nat) (shaky : Bool) (x y : Nat) : Rgb :=
  let dx := (x : Int) - r.x
  let dy := (y : Int) - r.y
  let col := styleColours style
  if shaky && area.rim x y then (1023, 512, 0)
  else
    let t := text.take ((r.w - 8 * scale) / (12 * scale))
    let tx := dx - 8 * scale
    let ty := dy - ((r.h : Int) - 24 * scale) / 2
    if 0 ≤ tx ∧ 0 ≤ ty ∧ textPixel t scale tx.toNat ty.toNat then col.1 else col.2

/-- The unstable border of a slot with a trigger (R190). -/
def trigShaky (cs : Nat → Nat) (v : Blk) (st k : Nat) : Bool :=
  v.on F.STG_PS_CFG_TRIG_EN st k && unstable (cs (v.rd F.STG_PS_CFG_TRIG_SC st k))

/-- The whole stage as a rectangle. -/
def stageRect (b : Blk) (st : Nat) : Rect := { x := 0, y := 0, w := stageW (b.viewed st) st, h := stageH (b.viewed st) st }

/-- The opaque pixel of a proscenium slot, none where it is absent; a line that is not ready is filled, whatever its key (R178). -/
def psPixel (b v : Blk) (m : FrameStore) (st k : Nat) (ps : List (Nat × Place)) (x y : Nat) : Option Rgb :=
  let cs := shownContact b st
  if !psDraws cs v st k then none
  else match v.rd F.STG_PS_CFG_SRC st k with
    | 0 => match ps.find? (·.1 == 64 + k) with
      | some (_, p) =>
        if !p.vis.has x y then none
        else
          if trigShaky cs v st k && p.vis.rim x y then some (1023, 512, 0)
          else
            let key := !lineLost b v m st (64 + k) p y && match p.verdict, p.shown with
              | 0, _ => false
              | _, none => false
              | _, some f => v.rd F.LD_CTRL_ALPHA_MODE p.layer == 3 && Nat.blt (placeColour v m p f x y).2 512
            if key then none else some (blendStep b v m st (64 + k) { p with alpha := 1023 } x y (0, 0, 0))
      | none => none
    | 1 =>
      let r := psRect v st k
      if r.has x y then
        some (bannerPixel (r.inter (stageRect b st)) r (psText v st k) (v.rd F.STG_PS_CFG_STYLE st k) (v.rd F.STG_PS_CFG_SCALE st k) (trigShaky cs v st k) x y)
      else none
    | _ => (bands cs v st k).findSome? fun d =>
      if d.r.has x y then
        some (bannerPixel d.r d.r d.text (v.rd F.STG_PS_CFG_STYLE st k) (v.rd F.STG_PS_CFG_SCALE st k)
          (d.shaky || trigShaky cs v st k) x y)
      else none

/-! ### The stage's pixel -/

/-- The pixel after the last blend step, and whether a proscenium slot covers it opaquely. -/
def stageRgb (b : Blk) (m : FrameStore) (st x y : Nat) : Rgb × Bool :=
  let v := b.viewed st
  let ps := onPixel b st x y
  let bg : Rgb := (v.rd F.STG_BG_R st, v.rd F.STG_BG_G st, v.rd F.STG_BG_B st)
  let base := (stackOrder v st).foldl (fun d k => match ps.find? (·.1 == k) with
    | some (_, p) => blendStep b v m st k p x y d
    | none => d) bg
  match (List.range 8).reverse.findSome? fun k => psPixel b v m st k ps x y with
  | some c => (c, true)
  | none => (base, false)

/-- The converted samples of a pixel (R191), and whether the proscenium covers it. -/
def stagePixel (b : Blk) (m : FrameStore) (st x y : Nat) : Rgb × Bool :=
  let p := stageRgb b m st x y
  (outConv ((b.viewed st).rd F.STG_CFG_OUT_CSC st) p.1, p.2)

/-- The bytes of a converted pixel: C0, C1, C2 as 16-bit little-endian values (R193, R194). -/
def sampleBytes (c : Rgb) : List Nat := leBytes 2 c.1 ++ leBytes 2 c.2.1 ++ leBytes 2 c.2.2

/-- The pixels of a rectangle in raster order. -/
def rasterOf (r : Rect) : List (Nat × Nat) :=
  (List.range r.h).flatMap fun (j : Nat) => (List.range r.w).map fun (i : Nat) => ((r.x + (i : Int)).toNat, (r.y + (j : Int)).toNat)

/-- The signature of a stage tile (R193). -/
def stageTileSig (b : Blk) (m : FrameStore) (st w h tx ty : Nat) : Nat :=
  let r : Rect := { x := 64 * tx, y := 64 * ty, w := Nat.min 64 (w - 64 * tx), h := Nat.min 64 (h - 64 * ty) }
  crc32c ((rasterOf r).flatMap fun q => sampleBytes (stagePixel b m st q.1 q.2).1)

/-- The signature array of the frame on display (R193). -/
def stageSigs (b : Blk) (m : FrameStore) (st : Nat) : List Nat :=
  let w := stageW (b.viewed st) st
  let h := stageH (b.viewed st) st
  (List.range (cdiv w 64 * cdiv h 64)).map fun t => stageTileSig b m st w h (t % cdiv w 64) (t / cdiv w 64)

/-- The region of a proscenium slot that draws, as rectangles in raster order (R194). -/
def psRegion (b v : Blk) (st k : Nat) (ps : List (Nat × Place)) : List Rect :=
  let clip := stageRect b st
  match v.rd F.STG_PS_CFG_SRC st k with
  | 0 => match ps.find? (·.1 == 64 + k) with
    | some (_, p) => [p.vis.inter clip]
    | none => []
  | 1 => [(psRect v st k).inter clip]
  | _ => (bands (shownContact b st) v st k).map fun d => d.r.inter clip

/-- The region's CRC (R194). -/
def psCrc (b : Blk) (m : FrameStore) (st k : Nat) : Nat :=
  let v := b.viewed st
  let ps := onDisplay b st
  crc32 (((psRegion b v st k ps).flatMap rasterOf).flatMap fun q =>
    let c := stagePixel b m st q.1 q.2
    if c.2 then sampleBytes c.1 else [255, 255, 255, 255, 255, 255])

end Sys2Proof.Machine
end

