-- ==== Sys2Proof/Machine/Stages.lean ====
section
/-!
DEFINITION. A stage's frame (chapter "Stages and the proscenium"): what happens at a curtain-up point after the cues, how the
latched frame comes on display, fetch underruns, freshness maps, tile signatures and proscenium checks.
-/

namespace Sys2Proof.Machine

/-- An event of a STG page: the detail holds the stage (R201). -/
def stgEvent (st code sev d evt : Nat) (b : Blk) : Blk := raise (stgPage st) code sev (d % 2 ^ 17 + 2 ^ 17 * st) evt b

/-- The stage runs: its page is enabled and its head's timing generator runs (R173). -/
def stageRuns (b : Blk) (st : Nat) : Bool :=
  enabled b (stgPage st) && enabled b ⟨.ohd, st⟩
    && !(st % 2 == 1 && enabled b ⟨.ohd, st - 1⟩ && b.on F.OHD_CTRL_FOURLANE (st - 1))

/-! ### Allocation at the curtain-up (R155, R167) -/

/-- The placement that a grant makes, from the flattened tree or the proscenium slot. -/
def grantPlace (b : Blk) (st : Nat) (flats : List Flat) (g : List Nat) : Option Place :=
  let slot := g.getD 0 0
  let base : Option Place :=
    if 64 ≤ slot then
      ((proscFed b st).find? (·.1 == slot)).map fun e =>
        { layer := e.2.1, vis := e.2.2, alpha := 1023, dst := dstRect b e.2.1 0 0 }
    else (flats[slot]?).map fun f => { layer := f.layer, vis := f.vis, alpha := f.alpha, dst := f.dst, path := f.path }
  base.map fun p => { p with pipe := g.getD 2 0, ctx := g.getD 3 0, need := g.getD 5 0, rate := g.getD 6 0, forW := g.getD 7 0,
                             forH := g.getD 8 0 }

/-- A grant as numbers, and back. -/
def Grant.nums (g : Grant) : List Nat := [g.slot, g.layer, g.pipe, g.ctx, g.off, g.kib, g.rate, g.w, g.h]
def grantOf (l : List Nat) : Grant :=
  ⟨l.getD 0 0, l.getD 1 0, l.getD 2 0, l.getD 3 0, l.getD 4 0, l.getD 5 0, l.getD 6 0, l.getD 7 0, l.getD 8 0⟩

/-- Keep from the placement that stood in the slot what belongs to the same layer's placement. -/
def keepPlace (old : Option Place) (p : Place) : Place × Bool :=
  match old with
  | some q => if q.layer = p.layer then
      ({ p with disp := q.disp, next := q.next, after := q.after, verdict := q.verdict, reason := q.reason, unc := q.unc,
                hist := q.hist, decim := q.decim, shownDecim := q.shownDecim }, true)
    else (p, false)
  | none => (p, false)

/-- Make a stage's placements anew from the allocation that the cue's check found. -/
def reallocate (st : Nat) (b : Blk) : Blk :=
  let s := b.stage st
  let flats := flatStage b st
  let new := s.alloc.filterMap fun g => (grantPlace b st flats g).map fun p => (g.getD 0 0, p)
  let left := pipesLeft b st
  let gone := (placesAt b st).filter fun e => !new.any fun n => n.1 == e.2.1 && n.2.layer == e.2.2.layer
  let b := forEach gone (fun e b => placeGone st e.2.1 b) b
  let b := forEach new (fun n b =>
    let k := keepPlace (b.place st n.1) n.2
    if k.2 then b.putPlace st n.1 k.1 else placeMade st n.1 k.1 b) b
  showUsed st left (showAlloc st (pipesOf b st ++ left) (s.alloc.map grantOf) (b.putStage st { b.stage st with allocDue := false }))

/-- Every placement of a stage is removed. -/
def clearStage (st : Nat) (b : Blk) : Blk :=
  let ps := pipesOf b st ++ pipesLeft b st
  showUsed st ps <| showAlloc st ps [] (forEach (placesAt b st) (fun e b => placeGone st e.2.1 b) b)

/-- What a stage reads at its curtain-up (R63, R143); a change of PRM_FLOOR less than its crossing time old, 2 MGMT and 4 CORE cycles, is
not yet among it (R22, R101). -/
def stageSnapshot (b : Blk) (st : Nat) : SMap Nat :=
  let b := if b.up < b.prm.floorAt + 14 then { b with regs := mput b.prm.floorWas b.regs } else b
  let layers := (placesAt b st).map (·.2.2.layer)
  let pipes := pipesOf b st
  b.regs.filter fun e =>
    let a := e.1 / 32
    stageReads st e.1
      && (if 0x400000 ≤ a ∧ a < 0x500000 then layers.contains ((a - 0x400000) / 256)
        else if 0x1C0000 ≤ a ∧ a < 0x220000 then pipes.contains ((a - 0x1C0000) / 0x1000)
        else true)

/-! ### The frame on display (R175) -/

/-- A placement's policy values differ from those of the frame before, or that frame did not show it. -/
def policyMoved (scene : List (Nat × Place)) (old new : Blk) (st : Nat) : Bool :=
  (placesAt new st).any fun e =>
    !(scene.any fun x => x.2.layer == e.2.2.layer) || layerPol old e.2.2.layer != layerPol new e.2.2.layer

/-- A proscenium slot of the frame on display is checked: it draws, with CHECK 1 or 2 (R194). -/
def psChecked (b : Blk) (st k : Nat) : Bool :=
  let v := b.viewed st
  !(b.stage st).shown.isEmpty && psDraws (shownContact b st) v st k && v.rd F.STG_PS_CFG_CHECK st k != 0

/-- A slot that the last frame did not check has no result (STG_PSk_RES). -/
def psUnchecked (st k : Nat) (b : Blk) : Blk :=
  if psChecked b st k then b else (b.wr F.STG_PS_RES_RESULT st 0 k).wr F.STG_PS_RES_ALT st 0 k

/-- The first active pixel: what was read and latched at the last curtain-up comes on display (R175, R86, R90). -/
def switchFrame (st : Nat) (b : Blk) : Blk :=
  let s := b.stage st
  if !s.switchDue then b
  else
    let old := b.viewed st
    let b := forEach (List.range 8) (psUnchecked st) b
    let b := b.putStage st { s with switchDue := false, shown := s.latched, shownContacts := s.contacts, under := [], began := b.up,
                                    shownUp := s.cupUp, fetched := false }
    let b := comeOnDisplay st b
    let b := if policyMoved s.scene old (b.viewed st) st then policyApply st b else b
    b.putStage st { b.stage st with scene := (placesAt b st).map (·.2) }

/-- A stage that has stopped delivers nothing more after its frame. -/
def stopFrame (st : Nat) (b : Blk) : Blk :=
  b.putStage st { b.stage st with scene := [], shown := [], latched := [], switchDue := false, under := [] }

/-- Steps 3 to 7 of R175 at the present instant. -/
def curtainSteps (st : Nat) (b : Blk) : Blk :=
  let b := switchFrame st b
  let b := b.step F.STG_FRAME_F st
  let b := if (b.stage st).allocDue then reallocate st b else b
  let b := latchAll st b
  let b := showUsed st (pipesOf b st) (b.wr F.STG_CUP_TIME_TIME st b.now)
  let cs := (List.range 16).map (contactSeen b)
  let snap := stageSnapshot b st
  let b := b.putStage st { b.stage st with latched := snap, contacts := cs, switchDue := true, cupUp := b.up }
  let b := (b.wr F.STG_STAT_ORDINARY st ((placesAt b st).filter (·.2.1 < 64)).length).wr F.STG_STAT_PROSC st
    ((List.range 8).filter fun k => psDraws (fun j => cs.getD j 0) b st k).length
  setEvt (stgPage st) (evB 0) b

/-! ### Meanings -/

/-- A line of the frame on display is not ready (R178, R171): it is drawn as the dark fill with hatch, counted, and reported by
the pipe. -/
def lineNotReady (st slot line : Nat) (b : Blk) : Blk :=
  match (b.stage st).scene.find? (·.1 == slot) with
  | some (_, p) =>
    let t := b.stage st
    let b := b.putStage st { t with under := t.under ++ [(slot, line)] }
    let b := (b.bump F.STG_UNDERRUNS_COUNT st).bump F.LFP_UNDERRUNS_COUNT p.pipe
    raise (lfpPage p.pipe) 0x100 sevError (p.layer + 2 ^ 15 * p.pipe) 0 b
  | none => b

/-- LINE_NOT_READY. -/
def execLineNotReady (dt stage slot line : Nat) (s : State) : Host.Outcome State Fault Refusal :=
  eff dt s (lineNotReady stage slot line)

/-- A proscenium layer covers a pixel of a tile (R104). -/
def proscCovers (b : Blk) (m : FrameStore) (st tx ty : Nat) : Bool :=
  let v := b.viewed st
  ((List.range 8).filter (psDraws (shownContact b st) v st)).any fun k =>
    ((psRegion b v st k (onDisplay b st)).map fun r => r.inter { x := 64 * tx, y := 64 * ty, w := 64, h := 64 }).any fun r =>
      (rasterOf r).any fun q => (psPixel b v m st k (onPixel b st q.1 q.2) q.1 q.2).isSome

/-- MAP_COMPLETE (R103, R104). -/
def mapComplete (st : Nat) (b : Blk) (m : FrameStore) : Blk :=
  if (b.stage st).shown.isEmpty then b
  else
    let v := b.viewed st
    mapDone st (stageW v st) (stageH v st) (v.rd F.STG_FRAME_F st) (v.rd F.STG_CUP_TIME_TIME st) (onDisplay b st)
      (fun p tx ty => tileHurt v p tx ty) (proscCovers b m st) (scanTime (scanClock b st)) b

/-- MAP_COMPLETE. -/
def execMapComplete (dt stage : Nat) (s : State) : Host.Outcome State Fault Refusal :=
  effM dt s fun b m => (mapComplete stage b m, m)

/-- SIGNATURE_ARRAY_DONE (R193): the array of the frame on display goes to the frame store under MID 0x15, as access control
lets it, and STG_SIGDIG takes its digest. -/
def signatureArrayDone (st : Nat) (b : Blk) (m : FrameStore) : Blk × FrameStore :=
  if (b.stage st).shown.isEmpty then (b, m)
  else
    let v := b.viewed st
    let base := v.rd F.STG_SIGBASE_ADDR st + v.rd F.STG_FRAME_F st % 2 * 0x8000
    let bytes := (stageSigs b m st).flatMap (leBytes 4)
    let m' := (bytes.zipIdx).foldl (fun m e =>
      if fsGranted b 0x15 (base + e.2) true && Nat.blt (base + e.2) (usable b) then m.setByte (base + e.2) e.1 else m) m
    let b := if fsGranted b 0x15 base true then b else fsViolation 4 0x15 base 1 b
    ((b.wr F.STG_SIGDIG_DIGEST st (crc32c bytes)).put F.STG_SIGDIG_LATE st
      ((b.stage st).sigLate == some (v.rd F.STG_FRAME_F st)), m')

/-- SIGNATURE_ARRAY_DONE. -/
def execSignatureArrayDone (dt stage : Nat) (s : State) : Host.Outcome State Fault Refusal := effM dt s (signatureArrayDone stage)

/-- The array of the frame on display is not complete 100 µs after its last active pixel (R193). -/
def signatureArrayLate (st : Nat) (b : Blk) : Blk :=
  let f := (b.viewed st).rd F.STG_FRAME_F st
  stgEvent st 0x105 sevWarning (f % 65536) 0 ((b.putStage st { b.stage st with sigLate := some f }).wr F.STG_SIGDIG_LATE st 1)

/-- SIGNATURE_ARRAY_LATE (R193). -/
def execSignatureArrayLate (dt stage : Nat) (s : State) : Host.Outcome State Fault Refusal := eff dt s (signatureArrayLate stage)

/-- PS_CHECK (R195): the region's CRC against the expected value. -/
def psCheck (st k : Nat) (b : Blk) (m : FrameStore) : Blk :=
  let v := b.viewed st
  let chk := v.rd F.STG_PS_CFG_CHECK st k
  if !psChecked b st k then psUnchecked st k b
  else
    let c := psCrc b m st k
    let b := b.wr F.STG_PS_CRC_CRC st c k
    if chk = 2 then (b.wr F.STG_PS_RES_RESULT st 3 k).wr F.STG_PS_RES_ALT st 0 k
    else
      let alt := trigShaky (shownContact b st) v st k
      let want := v.rd (if alt then F.STG_PS_EXP1_CRC else F.STG_PS_EXP0_CRC) st k
      let s := b.stage st
      let last := mgetD s.psLast k 0
      let b := (b.put F.STG_PS_RES_ALT st alt k).putStage st { s with psLast := mset s.psLast k (if c = want then 1 else 2) }
      if c = want then
        let b := (b.wr F.STG_PS_RES_RESULT st 1 k).wr F.STG_PS_RES_MISMATCHES st 0 k
        if 2 ≤ last then stgEvent st 0x104 sevNotice k 0 b else b
      else
        let b := (b.wr F.STG_PS_RES_RESULT st 2 k).bump F.STG_PS_RES_MISMATCHES st 1 k
        if last = 2 then b else stgEvent st 0x103 sevCritical (k + 8 * b2n alt) (evB 1) b

/-- PS_CHECK. -/
def execPsCheck (dt stage k : Nat) (s : State) : Host.Outcome State Fault Refusal :=
  effM dt s fun b m => (psCheck stage k b m, m)

/-! ### Checks of a cue or commit (R176, R180, R186, R200) -/

/-- The curtain-up lead: lines from the curtain-up point to the first active pixel, in ns, against 20 µs (R176). -/
def leadOk (b : Blk) (st : Nat) : Bool :=
  let lines := b.rd F.STG_LEAD_LINES st + (b.rd F.OHD_VTIM0_TOTAL st - b.rd F.OHD_VTIM0_ACTIVE st)
  let r := headRate b st
  Nat.ble (20 * b.rd F.OHD_VTIM0_TOTAL st * r.1) (1000000 * lines * r.2)

/-- A commit, or an enable of the stage: the next mismatch of each slot is recorded again, and the next match after one that was recorded
(R195). -/
def psRearm (st : Nat) (b : Blk) : Blk :=
  b.putStage st { b.stage st with psLast := ((b.stage st).psLast.filter fun e => Nat.ble 2 e.2).map fun e => (e.1, 3) }

/-- The curtain-up point does not lie within the frame, or too late (R176). -/
def leadBad (b : Blk) (st : Nat) : Bool :=
  Nat.ble (b.rd F.OHD_VTIM0_ACTIVE st) (b.rd F.STG_LEAD_LINES st) || !leadOk b st

/-- ROOT_EN names a root scene that is not VALID (R200). -/
def rootBad (b : Blk) (st : Nat) : Bool := b.on F.STG_CFG_ROOT_EN st && !b.on F.SC_CTRL_VALID (b.rd F.STG_CFG_ROOT st)

/-- The reason for which a STG page's own fields refuse a cue, 0 for none. -/
def stgBad (b : Blk) (st : Nat) : Nat :=
  if b.rd F.STG_CFG_ORDER st = 3 ∨ 4 < b.rd F.STG_CFG_OUT_CSC st then 0x01
  else if leadBad b st then 0x40
  else if b.rd F.STG_CFG_ORDER st = 2 ∧ (stackOrder b st).eraseDups.length ≠ 64 then 0x41
  else if rootBad b st then 0x45
  else if !(b.on F.STG_CFG_ROOT_EN st && deepPath 2049 b (b.rd F.STG_CFG_ROOT st)) && Nat.blt 64 (flatStage b st).length then 0x05
  else 0

/-- The reason for which a proscenium slot's values refuse a commit, 0 for none. -/
def psSlotBad (b : Blk) (st k : Nat) : Nat :=
  let l := b.rd F.STG_PS_CFG_LAYER st k
  if b.rd F.STG_PS_CFG_SRC st k = 3 ∨ b.rd F.STG_PS_CFG_CHECK st k = 3 ∨ b.rd F.STG_PS_CFG_SCALE st k = 0
      ∨ 7679 < b.rd F.STG_PS_XY_X st k ∨ 4319 < b.rd F.STG_PS_XY_Y st k ∨ 7680 < b.rd F.STG_PS_WH_W st k
      ∨ 4320 < b.rd F.STG_PS_WH_H st k then 0x01
  else if !b.on F.STG_PS_CFG_EN st k then 0
  else if b.rd F.STG_PS_CFG_SRC st k = 0 then
    if l < 3840 ∨ !b.on F.LD_CTRL_PROSC l ∨ !b.on F.LD_CTRL_VALID l then 0x42
    else if sourceOf b l ≠ 0 ∨ (layerPol b l).cls ≠ 2 then 0x43
    else 0
  else if b.rd F.STG_PS_WH_W st k = 0 ∨ b.rd F.STG_PS_WH_H st k = 0 then 0x44
  else 0

/-- Store the allocation found for a stage, to be made at its next curtain-up (R155). -/
def planAlloc (st : Nat) (b : Blk) : Blk :=
  match allocate b st with
  | .ok gs => b.putStage st { b.stage st with allocDue := true, alloc := gs.map Grant.nums }
  | .error _ => b

end Sys2Proof.Machine
end

