-- ==== Sys2Proof/Machine/Codec.lean ====
section
/-!
DEFINITION. The block video codec (chapter "Block video codec"): JPEG XS and H.264 / HEVC decoder contexts with their
picture stores and damage, picture records, and the encoder with its latch, rate control, slices and freshness SEI.
-/

namespace Sys2Proof.Machine

def xsdPage (x : Nat) : Page := ⟨.xsd, x⟩
def vdcPage (x : Nat) : Page := ⟨.vdc, x⟩
def vecPage (x : Nat) : Page := ⟨.vec, x⟩

def xsdEvent (x code sev d evt : Nat) (b : Blk) : Blk := raise (xsdPage x) code sev (d % 2 ^ 18 + 2 ^ 18 * x) evt b
def vdcEvent (x code sev d evt : Nat) (b : Blk) : Blk := raise (vdcPage x) code sev (d % 2 ^ 17 + 2 ^ 17 * x) evt b
def vecEvent (x code sev d evt : Nat) (b : Blk) : Blk := raise (vecPage x) code sev (d % 2 ^ 18 + 2 ^ 18 * x) evt b

def Blk.vdcCtx (b : Blk) (x : Nat) : VdcCtx := mgetD b.vdc x {}
def Blk.putVdc (b : Blk) (x : Nat) (v : VdcCtx) : Blk := { b with vdc := mset b.vdc x v }
def Blk.vecCtx (b : Blk) (x : Nat) : VecCtx := mgetD b.vec x {}
def Blk.putVec (b : Blk) (x : Nat) (v : VecCtx) : Blk := { b with vec := mset b.vec x v }

/-! ### Binding (R203) -/

def xsdBound (b : Blk) (x : Nat) : Bool := enabled b (xsdPage x) && b.on F.XSD_CTRL_LAYER_EN x
def vdcBound (b : Blk) (x : Nat) : Bool := enabled b (vdcPage x) && b.on F.VDC_CTRL_LAYER_EN x

/-- Write one byte of the frame store as an engine, where access control and the capacity let it. -/
def engineByte (b : Blk) (mid a v : Nat) (m : FrameStore) : FrameStore :=
  if fsGranted b mid a true && Nat.blt a (usable b) then m.setByte a v else m

/-- Write bytes as an engine; a refused first byte is a violation (R413, R416). -/
def engineWrite (mid a : Nat) (l : List Nat) (b : Blk) (m : FrameStore) : Blk × FrameStore :=
  (if fsGranted b mid a true then b else fsViolation 4 mid a 1 b,
   (l.zipIdx).foldl (fun m e => engineByte b mid (a + e.2) e.1 m) m)

/-- Store a sample as an engine. -/
def engineSample (b : Blk) (mid : Nat) (y : Layout) (px py c d v : Nat) (m : FrameStore) : FrameStore :=
  let a := (sampleLoc y px py c).1
  if fsGranted b mid a true && Nat.blt a (usable b) then putSample m y px py c d v else m

/-! ### Picture records (R225) -/

/-- A picture record of 64 bytes from its words 0 to 7. -/
def recordBytes (ws : List Nat) : List Nat :=
  let body := ((ws.take 8 ++ List.replicate 7 0).take 15).flatMap (leBytes 4)
  body ++ leBytes 4 (crc32 body)

/-- Where the registers of a context's statistics ring stand. -/
structure StatRegs where
  base : Fld
  en : Fld
  size : Fld
  wr : Fld

def xsdStats : StatRegs := ⟨F.XSD_STATS_BASE_ADDR, F.XSD_STATS_CFG_EN, F.XSD_STATS_CFG_SIZE, F.XSD_STATS_WR_IDX⟩
def vdcStats : StatRegs := ⟨F.VDC_STATS_BASE_ADDR, F.VDC_STATS_CFG_EN, F.VDC_STATS_CFG_SIZE, F.VDC_STATS_WR_IDX⟩
def vecStats : StatRegs := ⟨F.VEC_STATS_BASE_ADDR, F.VEC_STATS_CFG_EN, F.VEC_STATS_CFG_SIZE, F.VEC_STATS_WR_IDX⟩

/-- Write 64-byte entries into a statistics ring. -/
def statEntries (r : StatRegs) (mid x : Nat) : List (List Nat) → Blk → FrameStore → Blk × FrameStore
  | [], b, m => (b, m)
  | e :: t, b, m =>
    let n := b.rd r.size x * 64
    if !b.on r.en x || n == 0 then (b, m)
    else
      let i := b.rd r.wr x
      let w := engineWrite mid (b.rd r.base x + i % n * 64) e b m
      statEntries r mid x t (w.1.step r.wr x) w.2

/-! ### JPEG XS (R206, R208, R210, R216, R217, R219, R220) -/

/-- The level of a picture header is at most 8k-2 (R206). PRESUMED: the level codes of ISO/IEC 21122-2. -/
def xsdLevelOk (plev : Nat) : Bool := [0x04, 0x10, 0x20, 0x24, 0x28, 0x30, 0x34].contains plev

/-- Why a codestream is refused, 0 when it is accepted (R206, R220); `fields` are the codestreams of its frame. -/
def xsdCause (b : Blk) (c l fields : Nat) (cs : Codestream) : Nat :=
  if 4 < cs.profile then 1
  else if !xsdLevelOk cs.plev then 2
  else if cs.sampling ≠ b.rd F.ING_FMT1_SAMPLING c ∨ cs.depth ≠ b.rd F.ING_FMT1_DEPTH c ∨ cs.sampling = 2 then 3
  else if b.rd F.ING_FMT0_WIDTH c < cs.w ∨ b.rd F.ING_FMT0_HEIGHT c < fields * cs.h ∨ b.rd F.LD_SIZE_WIDTH l < cs.w
      ∨ b.rd F.LD_SIZE_HEIGHT l < fields * cs.h then 4
  else 0

/-- Place the samples of decoded rows under an engine's MID. -/
def engineRows (b : Blk) (mid : Nat) (y : Layout) (sampling d : Nat) (rows : List (Nat × Nat × List Nat)) (m : FrameStore) :
    FrameStore :=
  rows.foldl (fun m r =>
    (r.2.2.zipIdx).foldl (fun m e =>
      let n := (groupPlan sampling).length
      let g := (groupPlan sampling).getD (e.2 % n) (0, 0, 0)
      let px := r.2.1 + e.2 / n * groupW sampling + g.1
      let py := r.1 + g.2.1
      if px < y.w ∧ py < y.h then engineSample b mid y px py g.2.2 d e.1 m else m) m) m

/-- Fill lines with mid-grey under an engine's MID (R217). -/
def greyLines (b : Blk) (mid : Nat) (y : Layout) (d : Nat) (lines : List Nat) (m : FrameStore) : FrameStore :=
  lines.foldl (fun m py => (List.range y.w).foldl (fun m px =>
    [0, 1, 2].foldl (fun m k =>
      if k = 1 ∨ !fmtSub y.fmt ∨ px % 2 = 0 then engineSample b mid y px py k d (2 ^ (d - 1)) m else m) m) m) m

/-- A waiting codestream or access unit is a decoder context's. -/
def fedTo (xs : Bool) (x : Nat) (q : Ready) : Bool :=
  q.dest == x && (if xs then q.kind == 2 else q.kind == 3 || q.kind == 4)

/-- A context that restarts takes none of what waits for it (R215). -/
def dropFed (xs : Bool) (x : Nat) (b : Blk) : Blk :=
  forEach ((List.range 64).filter fun c => (b.chan c).ready.any (fedTo xs x)) (fun c b =>
    b.putChan c { b.chan c with ready := (b.chan c).ready.filter fun q => !fedTo xs x q }) b

/-- The signature samples of a tile of a decoded frame: luma in raster order, then Cb and Cr of the tile's chroma area, interleaved
(R214); of R'G'B', which has no chroma, in the order of R134 (DEDUCED, log 82). -/
def planarTile (m : FrameStore) (y : Layout) (sampling d mask tx ty : Nat) : List Nat :=
  let cut (v : Nat) := v / 2 ^ mask * 2 ^ mask
  let at_ (sx sy : Nat) (cs : List Nat) : List Nat :=
    (List.range (64 / sy)).flatMap fun j => (List.range (64 / sx)).flatMap fun i =>
      let px := 64 * tx + sx * i
      let py := 64 * ty + sy * j
      if px < y.w ∧ py < y.h then cs.map fun c => cut (getSample m y px py c d) else []
  if sampling = 3 then at_ 1 1 [0, 1, 2]
  else at_ 1 1 [1] ++ at_ (groupW sampling) (groupH sampling) [2, 0]

/-- The tile signatures that a decoder computes, with ING_SIG.MASK_LSB of the feeding channel (R214). -/
def decodedSigs (b : Blk) (c sampling d : Nat) (y : Layout) (m : FrameStore) : List Nat :=
  let tw := cdiv y.w 64
  (List.range (tw * cdiv y.h 64)).map fun k =>
    crc32c ((planarTile m y sampling d (b.rd F.ING_SIG_MASK_LSB c) (k % tw) (k / tw)).flatMap (leBytes 2))

/-- A decoded frame becomes eligible, with the times that ING derives from its own timestamp and the signatures of its samples
(R214). -/
def decodedEligible (c l sampling d : Nat) (q : Ready) (f : Frame) (b : Blk) (m : FrameStore) : Blk :=
  let t := frameTimes c l q f b
  let sigs := decodedSigs t.1 c sampling d f.lay m
  let g := { t.2 with sigs := sigs, tc := t.1.rd F.ING_TC_TC c }
  let b := t.1.wr F.ING_SIGDIG_DIGEST c (crc32c (sigs.flatMap (leBytes 4)))
  showEligible c l g (makeEligible l none g b)

/-- The codestreams of a frame woven into one: line l of field k of n is line n l + k (R206). -/
def weave (n : Nat) (cs : List Codestream) : List (Nat × Nat × List Nat) :=
  cs.zipIdx.flatMap fun e => e.1.rows.map fun r => (n * r.1 + e.2, r.2)

/-- The lines that the codestreams of a frame lost, in the frame. -/
def lostLines (n h : Nat) (cs : List Codestream) : List Nat :=
  (cs.zipIdx.flatMap fun e => e.1.lost.flatMap fun p => (fromTo p.1 p.2).map fun y => n * y + e.2).filter (· < h)

/-- The tiles of a frame that some line crosses (R218). -/
def tilesOfLines (w h : Nat) (lines : List Nat) : List Nat :=
  let tw := cdiv w 64
  (List.range (tw * cdiv h 64)).filter fun t => lines.any fun y => y / 64 == t / tw

/-- Event 0x0100 of a codestream, with the lowest class found (R216). -/
def xsdErrors (x tiles : Nat) (errs : List Nat) (b : Blk) : Blk :=
  if errs.isEmpty then b else xsdEvent x 0x100 sevNotice (minD 15 errs % 16 + 16 * Nat.min 16383 tiles) (evB 1) b

/-- A frame of codestreams that are accepted: it goes into a buffer of the layer and becomes eligible (R210, R216 to R219, R225). -/
def xsdDecode (x c l : Nat) (first : Codestream) (cs : List Codestream) (errs : List Nat) (q : Ready) (b : Blk) (m : FrameStore) :
    Blk × FrameStore :=
  let d := 8 + 2 * first.depth
  let h := cs.length * first.h
  let lost := lostLines cs.length h cs
  let hidden := (tilesOfLines first.w h lost ++ mgetD b.mem.cacheLost x []).eraseDups
  let b := { b with mem := { b.mem with cacheLost := mdel b.mem.cacheLost x } }
  let b := xsdErrors x hidden.length errs b
  match freeBuf b l with
  | none => (xsdEvent x 0x102 sevWarning 0 0 (b.bump F.XSD_DISCARDED_COUNT x), m)
  | some k =>
    let y := { layoutOf b l k first.w h with fmt := ingFormat first.sampling first.depth, compressed := false }
    let m := greyLines b 0x11 y d lost (engineRows b 0x11 y first.sampling d (weave cs.length cs) m)
    let b := if fsGranted b 0x11 y.addr true then b else fsViolation 4 0x11 y.addr 1 b
    let b := if hidden.isEmpty then b else b.bump F.XSD_CONCEALED_COUNT x
    let b := (b.wr F.XSD_FRAME_WH_W x first.w).wr F.XSD_FRAME_WH_H x h
    let n := mgetD b.xsd x 0
    let b := { b with xsd := mset b.xsd x ((n + 1) % 2 ^ 32) }
    let coded := cs.foldl (fun a e => a + e.bits) 0
    let ws := [b.now % 2 ^ 32, b.now / 2 ^ 32, n, 0, coded % 2 ^ 32, 0, Nat.min 65535 hidden.length, 0]
    let (b, m) := statEntries xsdStats 0x11 x [recordBytes ws] b m
    if b.rd F.ING_ASM_LOSS_MAX c * (cdiv first.w 64 * cdiv h 64) < 100 * hidden.length then
      (xsdEvent x 0x103 sevWarning (Nat.min 65535 hidden.length) (evB 1) (b.bump F.XSD_DISCARDED_COUNT x), m)
    else
      (setEvt (xsdPage x) (evB 0) ((decodedEligible c l first.sampling d q
        { q.f with buf := k, lay := y, loss := [], conceal := hidden } b m).bump F.XSD_FRAMES_COUNT x), m)

/-- XSD_FRAME_DONE (R205 to R220): one codestream, or the two field codestreams of an interlaced or PsF frame, in display order. What a
context that is not bound is fed goes unused (R203). -/
def xsdFrameDone (x : Nat) (cs : List Codestream) (b : Blk) (m : FrameStore) : Blk × FrameStore :=
  match feeder b true x with
  | none => (b, m)
  | some c =>
    match takeReady c (fedTo true x) b, cs with
    | none, _ => (b, m)
    | some _, [] => (b, m)
    | some (q, b), first :: _ =>
      let l := b.rd F.XSD_CTRL_LAYER x
      let errs := cs.flatMap (·.errors) ++ (if q.f.loss.isEmpty then [] else [1])
      if !xsdBound b x then (b, m)
      else if cs.any (·.headerLost) then (xsdErrors x 0 (errs ++ [8]) (b.bump F.XSD_DISCARDED_COUNT x), m)
      else
        let b := (b.wr F.XSD_STAT_PROFILE x first.ppih).wr F.XSD_STAT_LEVEL x first.plev
        match firstReason (cs.map (xsdCause b c l cs.length)) with
        | 0 => xsdDecode x c l first cs errs q (b.wr F.XSD_STAT_STATE x 2) m
        | why =>
          let told := b.rd F.XSD_STAT_STATE x == 3 && b.rd F.XSD_STAT_CAUSE x == why
          let b := (xsdErrors x 0 errs b).wr F.XSD_STAT_STATE x 3
          let b := b.wr F.XSD_STAT_CAUSE x why
          (if told then b else xsdEvent x 0x101 sevWarning why (evB 2) b, m)

/-- An XSD context restarts (R215). -/
def xsdRestart (x : Nat) (b : Blk) : Blk :=
  (dropFed true x b).wr F.XSD_STAT_STATE x (b2n (xsdBound b x && (feeder b true x).isSome))

/-! ### The picture store of a VDC context (R211, R212) -/

/-- Slots of a context. -/
def vdcSlots (b : Blk) (x : Nat) : Nat := 3 + b.rd F.VDC_STORE_CFG_EXTRA x

/-- The frame-store address of a slot. -/
def slotAddr (b : Blk) (x j : Nat) : Nat :=
  if j < 3 then b.rd F.LD_BUF_ADDR (b.rd F.VDC_CTRL_LAYER x) j
  else b.rd F.VDC_STORE_ADDR x + (j - 3) * b.rd F.VDC_STORE_CFG_STRIDE x * 4096

/-- A stage or an encoder context holds a slot. -/
def slotHeld (b : Blk) (x j : Nat) : Bool :=
  (heldFrames b (b.rd F.VDC_CTRL_LAYER x)).any fun f => f.lay.addr == slotAddr b x j

/-- A slot holds the newest eligible frame. -/
def slotNewest (b : Blk) (x j : Nat) : Bool :=
  match (b.layer (b.rd F.VDC_CTRL_LAYER x)).newest with | some f => f.lay.addr == slotAddr b x j | none => false

/-- A slot is free (R212). -/
def slotFree (b : Blk) (x j : Nat) : Bool :=
  !((b.vdcCtx x).pics.any fun p => p.slot == j && (p.isRef || p.waiting)) && !slotHeld b x j && !slotNewest b x j

/-- The VDC_SLOTS word as it reads: a context that writes no layer has no slots. -/
def vdcSlotsWord (b : Blk) (x : Nat) : Nat :=
  if !vdcBound b x then 31
  else
    let js := List.range (vdcSlots b x)
    (match js.find? (slotNewest b x) with | some j => j | none => 31)
      + (js.filter (slotHeld b x)).foldl (fun a j => a + 2 ^ (8 + j)) 0 + 2 ^ 27 * ((js.filter (slotFree b x)).length % 32)

/-- The reason for which a VDC page refuses a cue, 0 for none (R211, R241). -/
def vdcBad (b : Blk) (x : Nat) : Nat :=
  let l := b.rd F.VDC_CTRL_LAYER x
  let ex := b.rd F.VDC_STORE_CFG_EXTRA x
  if b.rd F.VDC_CTRL_CONCEAL x = 3 ∨ 16 < ex ∨ (b.on F.VDC_STATS_CFG_EN x = true ∧ b.rd F.VDC_STATS_CFG_SIZE x = 0) then 0x01
  else if !vdcBound b x then 0
  else
    let need := b.rd F.LD_PLANE2_OFFSET l + b.rd F.LD_PITCH_PITCH l * cdiv (b.rd F.LD_SIZE_HEIGHT l) 2
    if b.rd F.LD_PLANE2_OFFSET l < b.rd F.LD_PITCH_PITCH l * b.rd F.LD_SIZE_HEIGHT l then 0x40
    else if b.rd F.VDC_STORE_CFG_STRIDE x * 4096 < need then 0x40
    else if (List.range (vdcSlots b x)).any fun j => Nat.blt (usable b) (slotAddr b x j + need) then 0x40
    else 0

/-! ### Decoding an access unit (R207, R212 to R223) -/

/-- Luma sample rate of level 5.1 (R204). PRESUMED from the standards: 983,040 macroblocks a second in H.264,
534,773,760 samples a second in HEVC. -/
def level51Rate (kind : Nat) : Nat := if kind = 3 then 983040 * 256 else 534773760

/-- Pictures of the DPB at an H.264 level: the level's macroblocks over those of a picture, at most 16. PRESUMED from the standard. -/
def levelDpb (level w h : Nat) : Nat :=
  let mbs := match ([(9, 396), (10, 396), (11, 900), (12, 2376), (13, 2376), (20, 2376), (21, 4752), (22, 8100), (30, 8100), (31, 18000),
    (32, 20480), (40, 32768), (41, 32768), (42, 34816), (50, 110400), (51, 184320)] : List (Nat × Nat)).find? (·.1 == level) with
    | some e => e.2
    | none => 184320
  Nat.min 16 (mbs / Nat.max 1 (cdiv w 16 * cdiv h 16))

/-- DPB size of the stream of an access unit. -/
def auDpb (h264 : Bool) (au : AccessUnit) : Nat :=
  match au.restrict with
  | some r => r.2
  | none => if h264 then levelDpb au.level au.w au.h else 0

/-- Pictures that the stream's reordering lets wait for output (R213). -/
def auReorder (h264 : Bool) (au : AccessUnit) : Nat :=
  if h264 && au.profile == 66 then 0
  else match au.restrict with
    | some r => r.1
    | none => if h264 then levelDpb au.level au.w au.h else 0

/-- Width and height after the conformance window or frame cropping (R209). -/
def auOutW (au : AccessUnit) : Nat := au.w - au.crop.1 - au.crop.2.1
def auOutH (au : AccessUnit) : Nat := au.h - au.crop.2.2.1 - au.crop.2.2.2

/-- The line of the frame in which a row of the picture lies: every second one for a field (R209). -/
def auLine (au : AccessUnit) (j : Nat) : Nat := if au.field = 0 then j else 2 * j + (au.field - 1)

/-- The picture is an IDR. -/
def auIdr (h264 : Bool) (au : AccessUnit) : Bool := if h264 then au.nal == 5 else au.nal == 19 || au.nal == 20

/-- The picture is an IRAP picture that begins a new order count: an IDR, or in HEVC a BLA. -/
def auRestarts (h264 : Bool) (au : AccessUnit) : Bool := auIdr h264 au || (!h264 && Nat.ble 16 au.nal && Nat.ble au.nal 18)

/-- The picture is an IDR, or in HEVC an IRAP picture. -/
def auIrap (h264 : Bool) (au : AccessUnit) : Bool := auRestarts h264 au || (!h264 && au.nal == 21)

/-- The picture is a RASL picture. -/
def auRasl (h264 : Bool) (au : AccessUnit) : Bool := !h264 && (au.nal == 8 || au.nal == 9)

/-- What R225 counts as the type of a picture: 0 IDR, 1 other intra, 2 P, 3 B. -/
def auPtype (h264 : Bool) (au : AccessUnit) : Nat := if auIdr h264 au then 0 else 1 + au.slices

/-- A NAL unit is dropped under R207: SVC, MVC and auxiliary pictures in H.264, upper layers in HEVC. -/
def nalDropped (h264 : Bool) (n : NalUnit) : Bool :=
  if h264 then [14, 15, 19, 20].contains n.typ else n.layer != 0

/-- A NAL unit has an invalid header (R216): the forbidden bit, or a reserved type. PRESUMED: the reserved types of the standards. -/
def nalBad (h264 : Bool) (n : NalUnit) : Bool :=
  n.forbidden || (if h264 then [17, 18, 21, 22, 23].contains n.typ
    else (Nat.ble 10 n.typ && Nat.ble n.typ 15) || (Nat.ble 22 n.typ && Nat.ble n.typ 31) || (Nat.ble 41 n.typ && Nat.ble n.typ 47))

/-- The NAL units that are decoded. -/
def auUnits (h264 : Bool) (au : AccessUnit) : List NalUnit := au.nals.filter fun n => !nalDropped h264 n && !nalBad h264 n

/-- The error classes of an access unit, but for absent references (R216). -/
def auClasses (h264 : Bool) (au : AccessUnit) : List Nat :=
  au.errors ++ ((auUnits h264 au).flatMap (·.errors)) ++ (if au.nals.any fun n => !nalDropped h264 n && nalBad h264 n then [2] else [])

/-- The lost blocks of an access unit. -/
def auGone (h264 : Bool) (au : AccessUnit) : List LostBlock := au.lost ++ (auUnits h264 au).flatMap (·.lost)

/-- The reference decoder is that of KIND 3, H.264. -/
def isH264 (b : Blk) (c : Nat) : Bool := b.rd F.ING_CTRL_KIND c == 3

/-- Why a stream is refused, 0 when it is accepted (R207, R220). An unconstrained Baseline stream has cause 5 where it uses what
constrains it, else 1 (DEDUCED, log 82). -/
def vdcCause (b : Blk) (x c : Nat) (au : AccessUnit) : Nat :=
  let l := b.rd F.VDC_CTRL_LAYER x
  let h264 := isH264 b c
  let odd := if h264 then au.profile == 66 && (au.fmo || au.aso || au.redundant) else au.fieldSeq
  let profOk := if h264 then (au.profile == 66 && au.constrained) || au.profile == 77 || au.profile == 100
    else au.profile == 1 || au.profile == 2 || au.profile == 3
  if odd && h264 then 5
  else if !profOk then 1
  else if (if h264 then 51 else 153) < au.level then 2
  else if !(au.depth == (8, 8) || (!h264 && au.depth == (10, 10))) || Nat.blt 1 au.chroma || (!h264 && au.chroma == 0) then 3
  else if b.rd F.ING_FMT0_WIDTH c < auOutW au ∨ b.rd F.ING_FMT0_HEIGHT c < auOutH au ∨ b.rd F.LD_SIZE_WIDTH l < auOutW au
      ∨ b.rd F.LD_SIZE_HEIGHT l < auOutH au ∨ vdcSlots b x < auDpb h264 au + 2 then 4
  else if odd then 5
  else 0

/-- Pictures of the present period that are references. -/
def refPics (v : VdcCtx) : List Pic := v.pics.filter fun p => p.isRef && p.period == v.period

/-- Sample of a reference picture, grey for a substitute. -/
def refSample (m : FrameStore) (p : Option Pic) (d c : Nat) (px py : Int) : Nat :=
  match p with
  | none => 2 ^ (d - 1)
  | some p =>
    if p.slot = 31 then 2 ^ (d - 1)
    else
      let y := p.frame.lay
      getSample m y (clampIx y.w px) (clampIx y.h py) c d

/-- The middle of some numbers, the lower of two middles; 0 for none. -/
def medianI (l : List Int) : Int := (l.mergeSort (fun a c => decide (a ≤ c)))[(l.length - 1) / 2]?.getD 0

/-- A chroma sample of a reference picture by its own coordinates. -/
def refChroma (m : FrameStore) (p : Option Pic) (d c : Nat) (cx cy : Int) : Nat := refSample m p d c (2 * cx) (2 * cy)

/-- The samples of a square of `n` around a position, for the interpolation of the codec standard. -/
def around (n : Nat) (before : Int) (f : Int → Int → Nat) (x y : Int) : List Nat :=
  (List.range (n * n)).map fun i => f (x + (i % n : Nat) - before) (y + (i / n : Nat) - before)

/-- A concealed sample of frame line `py`, column `px` (R217): by motion, by copy, or grey. A motion vector with a fraction of a sample
takes the codec standard's interpolation of the reference samples around it, which the manual does not give; a field takes the lines of
its own parity (DEDUCED, log 82). -/
def concealSample (m : FrameStore) (how d : Nat) (intra field : Bool) (first recent : Option Pic) (k : LostBlock) (c px py : Nat) : Nat :=
  match how with
  | 2 => 2 ^ (d - 1)
  | 1 => refSample m recent d c px py
  | _ =>
    if intra then 2 ^ (d - 1)
    else
      let mx := medianI (k.mvs.map (·.1))
      let my := medianI (k.mvs.map (·.2))
      let s : Int := if field then 2 else 1
      if c = 1 then
        if mx % 4 = 0 ∧ my % 4 = 0 then refSample m first d 1 (px + mx / 4) (py + s * (my / 4))
        else Config.interpolate (mx % 4).toNat (my % 4).toNat
          (around 8 3 (fun i j => refSample m first d 1 i (py + s * (j - py))) (px + mx / 4) (py + my / 4)) % 2 ^ d
      else
        let cx : Int := px / 2 + mx / 8
        let cy : Int := py / 2
        if mx % 8 = 0 ∧ my % 8 = 0 then refChroma m first d c cx (cy + s * (my / 8))
        else Config.interpolateChroma (mx % 8).toNat (my % 8).toNat
          (around 4 1 (fun i j => refChroma m first d c i (cy + s * (j - cy))) cx (cy + my / 8)) % 2 ^ d

/-- Store a sample of the coded picture where the window of R209 keeps it. -/
def vdcPut (b : Blk) (y : Layout) (au : AccessUnit) (px py c d v : Nat) (m : FrameStore) : FrameStore :=
  if au.crop.1 ≤ px ∧ px < au.crop.1 + y.w ∧ au.crop.2.2.1 ≤ py ∧ py < au.crop.2.2.1 + y.h then
    engineSample b 0x12 y (px - au.crop.1) (py - au.crop.2.2.1) c d v m
  else m

/-- Write the samples of an access unit and conceal its lost blocks. -/
def vdcWrite (b : Blk) (x : Nat) (h264 : Bool) (y : Layout) (au : AccessUnit) (first recent : Option Pic) (m : FrameStore) :
    FrameStore :=
  let d := au.depth.1
  let m := (auUnits h264 au).foldl (fun m n => n.luma.foldl (fun m r => (r.2.2.zipIdx).foldl (fun m e =>
    vdcPut b y au (r.2.1 + e.2) (auLine au r.1) 1 d e.1 m) m) m) m
  let ch (m : FrameStore) (r : Nat × Nat × List Nat) : FrameStore := (r.2.2.zipIdx).foldl (fun m e =>
    vdcPut b y au (2 * (r.2.1 + e.2 / 2)) (2 * auLine au r.1) (if e.2 % 2 = 0 then 2 else 0) d e.1 m) m
  let neutral := (List.range (cdiv au.h (if au.field = 0 then 2 else 4))).map fun j =>
    (j, 0, List.replicate (2 * cdiv au.w 2) (2 ^ (d - 1)))
  let m := if au.chroma = 0 then neutral.foldl ch m else (auUnits h264 au).foldl (fun m n => n.cbcr.foldl ch m) m
  (auGone h264 au).foldl (fun m k => (List.range k.h).foldl (fun m j => (List.range k.w).foldl (fun m i =>
    let px := k.x + i
    let py := auLine au (k.y + j)
    let cy := 2 * auLine au ((k.y + j) / 2)
    let v (c py : Nat) := concealSample m (b.rd F.VDC_CTRL_CONCEAL x) d (au.slices == 0) (au.field != 0) first recent k c
      (px - au.crop.1) (py - au.crop.2.2.1)
    let m' := vdcPut b y au px py 1 d (v 1 py) m
    if px % 2 = 0 ∧ (k.y + j) % 2 = 0 then vdcPut b y au px cy 0 d (v 0 cy) (vdcPut b y au px cy 2 d (v 2 cy) m') else m') m) m) m

/-- A tile of the cropped frame takes in a pixel of a lost block. -/
def lostInTile (au : AccessUnit) (tw t : Nat) (k : LostBlock) : Bool :=
  let x0 := au.crop.1 + 64 * (t % tw)
  let y0 := au.crop.2.2.1 + 64 * (t / tw)
  k.x < x0 + 64 && x0 < k.x + k.w && (List.range k.h).any fun j => Nat.ble y0 (auLine au (k.y + j)) && Nat.blt (auLine au (k.y + j)) (y0 + 64)

/-- The concealed tiles of a picture (R218): those of lost blocks, those that a codec cache lost, and those that depend on a concealed or
an uncorrectable tile (R390, R392). -/
def concealTiles (h264 : Bool) (v : VdcCtx) (au : AccessUnit) (m : FrameStore) (cache : List Nat) : List Nat :=
  let tw := cdiv (auOutW au) 64
  let own := (List.range (tw * cdiv (auOutH au) 64)).filter fun t => (auGone h264 au).any (lostInTile au tw t) || cache.contains t
  ((auUnits h264 au).flatMap (·.uses)).foldl (fun acc u =>
    let bad := if u.2.1 = 0 then acc.contains u.2.2
      else match (refPics v).find? (·.poc == u.2.1 - 1) with
        | some p => p.frame.conceal.contains u.2.2 || tileUnread m p.frame.lay u.2.2
        | none => false
    if bad && !acc.contains u.1 then acc ++ [u.1] else acc) own

/-- The references of an access unit that the store lacks. -/
def missingRefs (v : VdcCtx) (au : AccessUnit) : List Nat := au.refs.filter fun r => !(refPics v).any (·.poc == r)

/-- A grey substitute for a missing reference (R221). -/
def insertSubstitute (x : Nat) (poc : Nat) (b : Blk) : Blk :=
  let v := b.vdcCtx x
  let b := b.putVdc x { v with tainted := true, pics := v.pics ++
    [{ slot := 31, period := v.period, poc := poc, isRef := true, waiting := false, recov := false, nal := 0, reorder := 0,
       frame := {}, half := none, stats := {} }] }
  vdcEvent x 0x102 sevWarning 0 (evB 1) ((b.wr F.VDC_STAT_SUBST x 1).bump F.VDC_SUBSTITUTES_COUNT x)

/-- Event 0x0100 of an access unit, with the lowest class found (R216). -/
def vdcErrors (x nal : Nat) (errs : List Nat) (b : Blk) : Blk :=
  if errs.isEmpty then b
  else vdcEvent x 0x100 sevNotice (minD 15 errs % 16 + 16 * (nal % 256)) (evB 1) (b.bump F.VDC_ERRORS_COUNT x)

/-- Pictures that neither refer nor wait leave the store. -/
def tidy (pics : List Pic) : List Pic := pics.filter fun p => p.isRef || p.waiting || p.half.isSome

/-- The count by which an SEI's recovery point is reached: frame_num in H.264, the order count in HEVC (R222). -/
def auTick (h264 : Bool) (au : AccessUnit) : Int := if h264 then au.frameNum else au.poc

/-- The picture reaches the recovery point of an SEI before it, or its own. -/
def reached (h264 : Bool) (v : VdcCtx) (au : AccessUnit) : Bool :=
  let at_ (t : Int) : Bool :=
    if h264 then decide ((auTick h264 au - t) % Nat.max 1 au.maxFrameNum < Nat.max 1 (au.maxFrameNum / 2))
    else decide (t ≤ auTick h264 au)
  (match v.recover with | some t => at_ t | none => false) || au.sei == some 0

/-- The picture is a recovery point (R222). -/
def recovers (h264 : Bool) (v : VdcCtx) (au : AccessUnit) : Bool := auIrap h264 au || reached h264 v au

/-- What an access unit that is taken does to the count of an SEI: a recovery point ends it, an SEI begins one. -/
def vdcCount (x : Nat) (h264 : Bool) (au : AccessUnit) (b : Blk) : Blk :=
  let v := b.vdcCtx x
  let v := if recovers h264 v au then { v with recover := none } else v
  b.putVdc x (match au.sei with
    | some n => if n = 0 then v else { v with recover := some (auTick h264 au + n) }
    | none => v)

/-- The store as an access unit finds it: a picture that begins a new order count releases every reference, another one those that it
neither refers to nor keeps; a CRA picture settles whether its RASL pictures are output (R212, R222). -/
def vdcBegin (x : Nat) (h264 : Bool) (au : AccessUnit) (b : Blk) : Blk :=
  let v := b.vdcCtx x
  let v : VdcCtx := if !recovers h264 v au then v
    else { v with tainted := false,
                  noRasl := if auIrap h264 au then b.on F.VDC_STAT_SUBST x || v.pics.isEmpty || au.nal != 21 else v.noRasl }
  let v : VdcCtx := if auRestarts h264 au then { v with period := v.period + 1, pics := v.pics.map fun p => { p with isRef := false } }
    else { v with pics := v.pics.map fun p =>
      { p with isRef := p.isRef && p.period == v.period && (au.keep.contains p.poc || au.refs.contains p.poc || p.half.isSome) } }
  b.putVdc x { v with pics := tidy v.pics }

/-- The first field with which an access unit's field makes a frame (R209). -/
def fieldMate (v : VdcCtx) (au : AccessUnit) : Option Pic :=
  if !au.second then none
  else v.pics.find? fun p => p.period == v.period && p.poc == au.poc && (match p.half with | some f => f != au.field | none => false)

/-- The statistics of two fields of a frame together (log 82). -/
def PicStats.both (a c : PicStats) : PicStats :=
  { moved := Nat.min 65535 (a.moved + c.moved), intra := Nat.min 65535 (a.intra + c.intra), bits := a.bits + c.bits,
    qp := ((a.qp.1 + c.qp.1) / 2, Nat.min a.qp.2.1 c.qp.2.1, Nat.max a.qp.2.2 c.qp.2.2), ptype := a.ptype,
    subst := a.subst || c.subst, blocks := Nat.min 65535 (a.blocks + c.blocks),
    mv := ((a.mv.1 + c.mv.1) / 2, (a.mv.2 + c.mv.2) / 2) }

/-- Decode an access unit into a slot: `mate` is the first field of its frame, if it completes one. -/
def vdcDecode (x c j : Nat) (au : AccessUnit) (q : Ready) (mate : Option Pic) (b : Blk) (m : FrameStore) : Blk × FrameStore :=
  let h264 := isH264 b c
  let recov := recovers h264 (b.vdcCtx x) au
  let b := vdcCount x h264 au b
  let absent := missingRefs (b.vdcCtx x) au
  let b := vdcErrors x au.nal (auClasses h264 au ++ (if q.f.loss.isEmpty then [] else [1]) ++ (if absent.isEmpty then [] else [6])) b
  let b := forEach absent (insertSubstitute x) b
  let v := b.vdcCtx x
  let first := au.refs.head?.bind fun r => (refPics v).find? (·.poc == r)
  let recent := (refPics v).reverse.find? (·.slot != 31)
  let l := b.rd F.VDC_CTRL_LAYER x
  let y : Layout := match mate with
    | some p => p.frame.lay
    | none => { layoutOf b l 0 (auOutW au) (auOutH au) with addr := slotAddr b x j, fmt := if au.depth.1 = 10 then 9 else 8, compressed := false }
  let m := vdcWrite b x h264 y au first recent m
  let b := if fsGranted b 0x12 y.addr true then b else fsViolation 4 0x12 y.addr 1 b
  let own := concealTiles h264 v au m (mgetD b.mem.cacheLost (16 + x) [])
  let b := { b with mem := { b.mem with cacheLost := mdel b.mem.cacheLost (16 + x) } }
  let hidden := match mate with | some p => (p.frame.conceal ++ own).eraseDups | none => own
  let b := if own.isEmpty then b
    else vdcEvent x 0x101 sevNotice (Nat.min 65535 own.length) (evB 1) (b.bump F.VDC_CONCEALED_COUNT x)
  let b := ((b.wr F.VDC_STAT_PROFILE x au.profile).wr F.VDC_STAT_LEVEL x au.level).wr F.VDC_STAT_DPB x (auDpb h264 au)
  let b := (b.put F.VDC_STAT_DEPTH10 x (au.depth.1 == 10)).put F.VDC_STAT_VUI_CD x au.vuiCd
  let b := (b.wr F.VDC_STAT_STATE x 2).wr F.VDC_STAT_STALLED x 0
  let st : PicStats := { moved := Nat.min 65535 au.moved, intra := Nat.min 65535 au.intra, bits := au.bits, qp := au.qp,
                         ptype := auPtype h264 au, subst := v.tainted, blocks := Nat.min 65535 au.blocks, mv := au.mv }
  let st := match mate with | some p => p.stats.both st | none => st
  let fr := { q.f with buf := Nat.min j 3, lay := y, loss := [], conceal := hidden, motion := st.moved, subst := st.subst }
  let pic : Pic := { slot := j, period := v.period, poc := au.poc, isRef := au.isRef || (mate.map (·.isRef)).getD false, waiting := true,
                     recov := (recov && absent.isEmpty) || (mate.map (·.recov)).getD false, nal := au.nal, reorder := auReorder h264 au,
                     frame := { fr with rtp := (mate.map (·.frame.rtp)).getD q.f.rtp },
                     half := if au.field = 0 ∨ mate.isSome then none else some au.field, stats := st }
  let others := v.pics.filter fun p => !(p.slot == j && p.half.isSome)
  let kept := others.map fun p => { p with isRef := p.isRef && p.period == v.period && au.keep.contains p.poc }
  (b.putVdc x { v with pics := tidy kept ++ [pic] }, m)

/-- A first field whose frame is not completed: its frame is its lines, with mid-grey between them, concealed (DESIGN CHOICE, log 82). -/
def closeHalf (x : Nat) (b : Blk) (m : FrameStore) : Blk × FrameStore :=
  let v := b.vdcCtx x
  match v.pics.find? (·.half.isSome) with
  | none => (b, m)
  | some p =>
    let y := p.frame.lay
    let d := if y.fmt = 9 then 10 else 8
    let other := if p.half = some 1 then 1 else 0
    let m := (List.range (cdiv y.h 2)).foldl (fun m j => (List.range y.w).foldl (fun m px =>
      let m := if 2 * j + other < y.h then engineSample b 0x12 y px (2 * j + other) 1 d (2 ^ (d - 1)) m else m
      if px % 2 = 0 ∧ j % 2 = other ∧ 2 * j < y.h then
        engineSample b 0x12 y px (2 * j) 0 d (2 ^ (d - 1)) (engineSample b 0x12 y px (2 * j) 2 d (2 ^ (d - 1)) m)
      else m) m) m
    let all := List.range (cdiv y.w 64 * cdiv y.h 64)
    (b.putVdc x { v with pics := v.pics.map fun q => if q.half.isSome then
      { q with half := none, frame := { q.frame with conceal := all } } else q }, m)

/-- The lowest free slot. -/
def freeSlot (b : Blk) (x : Nat) : Option Nat := (List.range (vdcSlots b x)).find? (slotFree b x)

/-- Pictures of the last second against the declared rate; event 0x0107 at most once a second (R241). -/
def vdcPace (x c : Nat) (b : Blk) : Blk :=
  let v := b.vdcCtx x
  let arr := (v.arrivals ++ [b.now]).filter fun t => Nat.blt b.now (t + 1000000000)
  let many := Nat.blt (b.rd F.ING_RATE_NUM c) (arr.length * b.rd F.ING_RATE_DEN c)
  let due := match v.rateAt with | some t => Nat.ble (t + 1000000000) b.now | none => true
  let b := b.putVdc x { v with arrivals := arr, rateAt := if many && due then some b.now else v.rateAt }
  if many && due then vdcEvent x 0x107 sevNotice 0 0 b else b

/-- What becomes of an access unit that is next to be decoded (R207, R216, R220, R222, R223): it is decoded, refused or passed over, or
none is the answer, and it waits for a slot. -/
def vdcUnit (x c : Nat) (au : AccessUnit) (q : Ready) (b : Blk) (m : FrameStore) : Option (Blk × FrameStore) :=
  let h264 := isH264 b c
  let st := b.rd F.VDC_STAT_STATE x
  let errs := auClasses h264 au ++ (if q.f.loss.isEmpty then [] else [1])
  match vdcCause b x c au with
  | 0 =>
    let v := b.vdcCtx x
    if (st = 3 ∧ !auIrap h264 au) ∨ (st = 1 ∧ !b.on F.VDC_CTRL_START x ∧ !recovers h264 v au) ∨ (auRasl h264 au && v.noRasl) then
      some (vdcCount x h264 au (vdcErrors x au.nal errs b), m)
    else match fieldMate v au with
      | some p => some (vdcDecode x c p.slot au q (some p) b m)
      | none =>
        let r := closeHalf x b m
        let b := vdcBegin x h264 au r.1
        (freeSlot b x).map fun j => vdcDecode x c j au q none b r.2
  | why =>
    let told := st == 3 && b.rd F.VDC_STAT_CAUSE x == why
    let b := ((vdcErrors x au.nal errs b).wr F.VDC_STAT_STATE x 3).wr F.VDC_STAT_CAUSE x why
    some (if told then b else vdcEvent x 0x104 sevWarning why (evB 3) b, m)

/-- The access units that wait are decoded in arrival order as far as slots are free (R205, R212): what is left waits since `t`. -/
def vdcDrain (x c : Nat) : List (AccessUnit × Ready) → Nat → Blk → FrameStore → Blk × FrameStore
  | [], _, b, m => (b.putVdc x { b.vdcCtx x with wait := [], stallTold := false }, m)
  | (au, q) :: rest, t, b, m =>
    match vdcUnit x c au q b m with
    | some r => vdcDrain x c rest r.1.now r.1 r.2
    | none => (b.putVdc x { b.vdcCtx x with wait := (au, q) :: rest, stalledAt := t }, m)

/-- VDC_ACCESS_UNIT (R207, R212, R216 to R223). What a context that is not bound is fed goes unused (R203). -/
def vdcAccessUnit (x : Nat) (au : AccessUnit) (b : Blk) (m : FrameStore) : Blk × FrameStore :=
  match feeder b false x with
  | none => (b, m)
  | some c =>
    match takeReady c (fedTo false x) b with
    | none => (b, m)
    | some (q, b) =>
      if !vdcBound b x then (b, m)
      else
        let b := vdcPace x c b
        let v := b.vdcCtx x
        match v.wait with
        | [] => vdcDrain x c [(au, q)] b.now b m
        | w => (b.putVdc x { v with wait := w ++ [(au, q)] }, m)

/-- VDC_ACCESS_UNIT. -/
def execVdcAccessUnit (dt ctx : Nat) (au : AccessUnit) (s : State) : Host.Outcome State Fault Refusal :=
  effM dt s (vdcAccessUnit ctx au)

/-- The picture that reordering permits to go out: the first in output order, when more wait than the stream reorders or an
older period is still waiting (R213). -/
def nextOutput (v : VdcCtx) : Option Pic :=
  let w := v.pics.filter fun p => p.waiting && p.half.isNone
  let first := w.foldl (fun (acc : Option Pic) p => match acc with
    | none => some p
    | some q => if p.period < q.period ∨ (p.period = q.period ∧ p.poc < q.poc) then some p else some q) none
  match first, w.getLast? with
  | some p, some n => if n.reorder < w.length ∨ p.period < v.period then some p else none
  | _, _ => none

/-- Words 3 to 7 of the picture record of a decoded picture (R225). -/
def PicStats.words (s : PicStats) (concealed : Nat) : List Nat :=
  [s.moved + 65536 * s.intra, s.bits % 2 ^ 32,
   s.qp.1 % 256 + 256 * (s.qp.2.1 % 256) + 65536 * (s.qp.2.2 % 256) + 2 ^ 24 * (s.ptype % 8) + 2 ^ 27 * b2n s.subst,
   Nat.min 65535 concealed + 65536 * s.blocks, s.mv.1 % 65536 + 65536 * (s.mv.2 % 65536)]

/-- VDC_PICTURE_OUTPUT (R213, R214, R218, R219, R222). -/
def vdcPictureOutput (x : Nat) (b : Blk) (m : FrameStore) : Blk × FrameStore :=
  let v := b.vdcCtx x
  match nextOutput v, feeder b false x with
  | some p, some c =>
    let l := b.rd F.VDC_CTRL_LAYER x
    let gone := (v.pics.map fun q => if q.period = p.period ∧ q.poc = p.poc ∧ q.slot = p.slot then { q with waiting := false } else q)
    let b := b.putVdc x { v with pics := tidy gone, count := (v.count + 1) % 2 ^ 32 }
    let y := p.frame.lay
    let b := (b.wr F.VDC_FRAME_WH_W x y.w).wr F.VDC_FRAME_WH_H x y.h
    let b := if p.recov && b.on F.VDC_STAT_SUBST x then
        vdcEvent x 0x103 sevNotice (p.nal % 64) (evB 2) (b.wr F.VDC_STAT_SUBST x 0)
      else b
    let n := p.frame.conceal.length
    let q := statEntries vdcStats 0x12 x
      [recordBytes ([b.now % 2 ^ 32, b.now / 2 ^ 32, v.count] ++ p.stats.words n)] b m
    let b := q.1
    if b.rd F.ING_ASM_LOSS_MAX c * (cdiv y.w 64 * cdiv y.h 64) < 100 * n then
      (vdcEvent x 0x105 sevWarning (Nat.min 65535 n) (evB 1) b, q.2)
    else
      let r : Ready := { f := p.frame, kind := b.rd F.ING_CTRL_KIND c, dest := x, sampling := 2, depth := b2n (y.fmt == 9),
                         num := b.rd F.ING_RATE_NUM c, den := b.rd F.ING_RATE_DEN c, tsmode := b.rd F.ING_CTRL_TSMODE c }
      (setEvt (vdcPage x) (evB 0) ((decodedEligible c l 2 (if y.fmt = 9 then 10 else 8) r p.frame b q.2).bump F.VDC_PICTURES_COUNT x),
       q.2)
  | _, _ => (b, m)

/-- VDC_STALL (R212): the context has waited 50 ms for a slot. -/
def execVdcStall (dt ctx : Nat) (s : State) : Host.Outcome State Fault Refusal :=
  eff dt s fun b =>
    let v := b.vdcCtx ctx
    if !v.wait.isEmpty && !v.stallTold && Nat.blt (v.stalledAt + 50000000) b.now then
      vdcEvent ctx 0x106 sevWarning 0 0 ((b.putVdc ctx { v with stallTold := true }).wr F.VDC_STAT_STALLED ctx 1)
    else b

/-- VDC_SLOT_FREE (R212): with a slot free, the access units that wait are decoded. -/
def vdcSlotFree (x : Nat) (b : Blk) (m : FrameStore) : Blk × FrameStore :=
  match (b.vdcCtx x).wait, feeder b false x with
  | [], _ => (b, m)
  | w, some c => vdcDrain x c w (b.vdcCtx x).stalledAt b m
  | _, none => (b, m)

/-- VDC_SLOT_FREE. -/
def execVdcSlotFree (dt ctx : Nat) (s : State) : Host.Outcome State Fault Refusal := effM dt s (vdcSlotFree ctx)

/-- A VDC context restarts: its store is emptied and it waits for a recovery point (R215, R223). -/
def vdcRestart (x : Nat) (b : Blk) : Blk :=
  let v := b.vdcCtx x
  let b := (dropFed false x b).putVdc x { count := v.count }
  ((b.wr F.VDC_STAT_STATE x (b2n (vdcBound b x && (feeder b false x).isSome))).wr F.VDC_STAT_SUBST x 0).wr F.VDC_STAT_STALLED x 0

/-! ### Capacity (R204) -/

/-- The declared rate of a decoder context, from the channel that feeds it. -/
def ctxRate (b : Blk) (xs : Bool) (x : Nat) : Nat × Nat := match feeder b xs x with | some c => ingRate b c | none => (0, 1)

/-- Input size of an encoder context. -/
def vecInSize (b : Blk) (x : Nat) : Nat × Nat :=
  if b.on F.VEC_SRC_KIND x then sizeFor b (b.rd F.VEC_SRC_LAYER x)
  else (stageW b (b.rd F.VEC_SRC_STAGE x), stageH b (b.rd F.VEC_SRC_STAGE x))

/-- Picture rate of an encoder context as a ratio. -/
def vecPicRate (b : Blk) (x : Nat) : Nat × Nat :=
  let r := headRate b (b.rd F.VEC_SRC_STAGE x)
  (r.1, r.2 * b.rd F.VEC_SRC_PIC_DIV x)

/-- Coded sample rate of an encoder context, as a ratio. -/
def vecRate (b : Blk) (x : Nat) : Nat × Nat :=
  let r := vecPicRate b x
  (b.rd F.VEC_SIZE_W x * b.rd F.VEC_SIZE_H x * r.1, r.2)

/-- The encoder contexts that are enabled. -/
def vecsOn (b : Blk) : List Nat := (List.range 16).filter fun k => enabled b (vecPage k)

/-- H.264 is coded (VEC_CODEC.CODEC 2). -/
def vecH264 (b : Blk) (x : Nat) : Bool := b.rd F.VEC_CODEC_CODEC x == 2

/-- Greatest luma sample rate and picture size of a level. PRESUMED from the standards. -/
def levelLimits (h264 : Bool) (level : Nat) : Option (Nat × Nat) :=
  if h264 then
    (([(10, 1485, 99), (11, 3000, 396), (12, 6000, 396), (13, 11880, 396), (20, 11880, 396), (21, 19800, 792), (22, 20250, 1620),
       (30, 40500, 1620), (31, 108000, 3600), (32, 216000, 5120), (40, 245760, 8192), (41, 245760, 8192), (42, 522240, 8704),
       (50, 589824, 22080), (51, 983040, 36864)] : List (Nat × Nat × Nat)).find? (·.1 == level)).map
      fun e => (e.2.1 * 256, e.2.2 * 256)
  else
    (([(10, 552960, 36864), (20, 3686400, 122880), (21, 7372800, 245760), (30, 16588800, 552960), (31, 33177600, 983040),
       (40, 66846720, 2228224), (41, 133693440, 2228224), (50, 267386880, 8912896), (51, 534773760, 8912896)] :
       List (Nat × Nat × Nat)).find? (·.1 == level)).map fun e => (e.2.1, e.2.2)

/-- CTU or macroblock size. -/
def unitSize (h264 : Bool) : Nat := if h264 then 16 else 64

/-- Units across, and rows. -/
def vecUnits (b : Blk) (x : Nat) : Nat := cdiv (b.rd F.VEC_SIZE_W x) (unitSize (vecH264 b x))
def vecRows (b : Blk) (x : Nat) : Nat := cdiv (b.rd F.VEC_SIZE_H x) (unitSize (vecH264 b x))

/-- The curtain reserve of rows `r` to the last (R234): the slices counted are those that take in such a row. -/
def reserveFrom (b : Blk) (x r : Nat) : Nat :=
  let n := vecRows b x
  let sr := b.rd F.VEC_CODEC_SLICE_ROWS x
  if n ≤ r ∨ sr = 0 then 0
  else (n - r) * vecUnits b x * (if vecH264 b x then 16 else 48) + 400 * (cdiv n sr - r / sr)

/-- The greatest size of one row coded as a curtain row. -/
def reserveRow (b : Blk) (x r : Nat) : Nat :=
  vecUnits b x * (if vecH264 b x then 16 else 48) + (if r % b.rd F.VEC_CODEC_SLICE_ROWS x = 0 then 400 else 0)

/-- The reason for which a VEC page refuses a cue, 0 for none (R204, R228, R234, R242). A rate beyond LEVEL has reason 0x41
(DEDUCED: R204 gives 0x07 for it too). -/
def vecBad (b : Blk) (x : Nat) : Nat :=
  let w := b.rd F.VEC_SIZE_W x
  let h := b.rd F.VEC_SIZE_H x
  let st := b.rd F.VEC_SRC_STAGE x
  let mode := b.rd F.VEC_RC_MODE x
  if 23 < st ∨ b.rd F.VEC_SRC_PIC_DIV x = 0 ∨ b.rd F.VEC_CODEC_CODEC x = 3 ∨ b.rd F.VEC_CODEC_SLICE_ROWS x = 0 ∨ mode = 3
      ∨ w % 2 = 1 ∨ h % 2 = 1 ∨ w < 64 ∨ 7680 < w ∨ h < 64 ∨ 4320 < h ∨ 51 < b.rd F.VEC_RC_QP_MIN x
      ∨ 51 < b.rd F.VEC_RC_QP_MAX x ∨ b.rd F.VEC_RC_QP_MAX x < b.rd F.VEC_RC_QP_MIN x
      ∨ (b.on F.VEC_STATS_CFG_EN x = true ∧ b.rd F.VEC_STATS_CFG_SIZE x = 0) then 0x01
  else if 51 < b.rd F.VEC_CODEC_LEVEL x then 0x41
  else if !enabled b (vecPage x) then 0
  else if (if b.on F.VEC_SRC_KIND x then !b.on F.LD_CTRL_VALID (b.rd F.VEC_SRC_LAYER x) else false)
      || !enabled b (stgPage st) then 0x42
  else
    let s := vecInSize b x
    if s.1 < w ∨ 8 * w < s.1 ∨ s.2 < h ∨ 8 * h < s.2 then 0x43
    else
      let pr := vecPicRate b x
      match levelLimits (vecH264 b x) (b.rd F.VEC_CODEC_LEVEL x) with
      | none => 0x41
      | some (rate, size) =>
        if !sumWithin [vecRate b x] rate || Nat.blt size (w * h) then 0x41
        else if b.rd F.VEC_BITRATE_RATE x * 10000 * pr.2 < 2 * reserveFrom b x 0 * pr.1 then 0x40
        else
          let deep := if b.rd F.VEC_CODEC_CODEC x = 1 then 2 else 1
          let ring := Nat.ble 2 (b.rd F.VEC_OUT_DEST x)
          let rb := b.rd F.VEC_RING_BASE_ADDR x
          let rs := b.rd F.VEC_RING_SIZE_SIZE x * 4096
          let sb := b.rd F.VEC_STORE_ADDR x
          let ss := b.rd F.VEC_STORE_SIZE_SIZE x * 4096
          if sb % 4096 ≠ 0 ∨ usable b < sb + ss ∨ ss < 2 * (w * h * 3 / 2 * deep) then 0x44
          else if ring && (rb % 4096 != 0 || rs == 0 || Nat.blt (usable b) (rb + rs)) then 0x44
          else if !sumWithin ((vecsOn b).map (vecRate b)) 2000000000 then 0x07
          else 0

/-- The XSD and VDC limits of R204, with reason 0x07. -/
def decoderBad (b : Blk) (xs : Bool) (x : Nat) : Nat :=
  let one := if xs then 2000000000 else match feeder b false x with
    | some c => level51Rate (b.rd F.ING_CTRL_KIND c)
    | none => 0
  let all := (List.range (if xs then 16 else 32)).map (ctxRate b xs)
  if sumWithin [ctxRate b xs x] one && sumWithin all 4000000000 then 0 else 0x07

/-- The reason for which an XSD page refuses a cue. -/
def xsdBad (b : Blk) (x : Nat) : Nat := if b.on F.XSD_STATS_CFG_EN x && b.rd F.XSD_STATS_CFG_SIZE x == 0 then 0x01 else 0

/-- The words XSD_LOAD, VDC_LOAD and VEC_LOAD as they read: ALLOC and CONTEXTS saturate (DESIGN CHOICE, log 82: CONTEXTS has 5 bits and
VDC 32 contexts). -/
def loadWord (rates : List (Nat × Nat)) (contexts : Nat) : Nat :=
  Nat.min 8191 (mpixUp rates) + 65536 * Nat.min 31 contexts
def xsdLoadWord (b : Blk) : Nat :=
  loadWord (((List.range 16).filter fun x => enabled b (xsdPage x)).map (ctxRate b true))
    ((List.range 16).filter fun x => xsdBound b x && (feeder b true x).isSome).length
def vdcLoadWord (b : Blk) : Nat :=
  loadWord (((List.range 32).filter fun x => enabled b (vdcPage x)).map (ctxRate b false))
    ((List.range 32).filter fun x => vdcBound b x && (feeder b false x).isSome).length
def vecLoadWord (b : Blk) : Nat := loadWord ((vecsOn b).map (vecRate b)) (vecsOn b).length

/-- A stage's timing or frame, or a layer's frame, that a context codes comes from a page or descriptor of a cue (R204). -/
def vecTouched (b : Blk) (pages : List Page) (lds : List Nat) (x : Nat) : Bool :=
  let st := b.rd F.VEC_SRC_STAGE x
  enabled b (vecPage x) && !pages.contains (vecPage x)
    && (pages.contains ⟨.ohd, st⟩ || pages.contains (stgPage st)
      || (b.on F.VEC_SRC_KIND x && lds.contains (b.rd F.VEC_SRC_LAYER x)))

/-! ### The encoder's input (R227, R228) -/

/-- A sample of a context's input before scaling: stage samples, or a layer's R'G'B' (R164). -/
def vecRaw (b : Blk) (m : FrameStore) (x : Nat) (p : VecPic) (c px py : Nat) : Nat :=
  let t := if p.kind = 0 then (stagePixel b m (b.rd F.VEC_SRC_STAGE x) px py).1
    else match p.frame with
      | some f =>
        let q := unpack m f.lay (b.rd F.LD_CTRL_ALPHA_MODE p.layer) px py
        toRgb b p.layer f.lay.csc f.lay.range q.c0 q.c1 q.c2
      | none => (0, 0, 0)
  match c with | 0 => t.1 | 1 => t.2.1 | _ => t.2.2

/-- A scaled input pixel as Y, Cb, Cr of 10 bits. -/
def vecYuv (b : Blk) (m : FrameStore) (x : Nat) (p : VecPic) (i j : Nat) : Rgb :=
  let s := match p.frame with | some f => (f.lay.w, f.lay.h) | none => vecInSize b x
  let comp (c : Nat) := axisAt 8 0 (fun _ => []) s.1 (b.rd F.VEC_SIZE_W x) 0 i fun px =>
    axisAt 6 0 (fun _ => []) s.2 (b.rd F.VEC_SIZE_H x) 0 j fun py => vecRaw b m x p c px py
  let t := (comp 0, comp 1, comp 2)
  let csc := if p.kind = 0 then (b.viewed (b.rd F.VEC_SRC_STAGE x)).rd F.STG_CFG_OUT_CSC (b.rd F.VEC_SRC_STAGE x) else 0
  if 2 ≤ csc then t
  else outConv 2 (if csc = 1 then toRgb b 0 0 0 t.1 t.2.1 t.2.2 else t)

/-- The input samples of one row of units: luma, then Cb and Cr of each 2 × 2 group, at the coded depth (R228). -/
def vecRowInput (b : Blk) (m : FrameStore) (x : Nat) (p : VecPic) (r : Nat) : List Nat :=
  let u := unitSize (vecH264 b x)
  let w := b.rd F.VEC_SIZE_W x
  let h := Nat.min u (b.rd F.VEC_SIZE_H x - r * u)
  let fin (v : Nat) := if b.rd F.VEC_CODEC_CODEC x = 1 then v else Nat.min 255 ((v + 2) / 4)
  let g (i j : Nat) := vecYuv b m x p i (r * u + j)
  let luma := (List.range h).flatMap fun j => (List.range w).map fun i => fin (g i j).1
  let mean (f : Rgb → Nat) (i j : Nat) :=
    (f (g (2 * i) (2 * j)) + f (g (2 * i + 1) (2 * j)) + f (g (2 * i) (2 * j + 1)) + f (g (2 * i + 1) (2 * j + 1)) + 2) / 4
  let chroma := (List.range (h / 2)).flatMap fun j => (List.range (w / 2)).flatMap fun i =>
    [fin (mean (·.2.1) i j), fin (mean (·.2.2) i j)]
  luma ++ chroma

/-- The throttle sheds the encoder (R239, R454). -/
def encoderShed (b : Blk) : Bool := b.rd F.THM_STAT_STEP 0 != 0

/-- The page's registers that a picture keeps for as long as it is being coded (R229). -/
def vecKept : List Fld :=
  [F.VEC_SRC_STAGE, F.VEC_SRC_KIND, F.VEC_SRC_PIC_DIV, F.VEC_SRC_LAYER, F.VEC_SIZE_W, F.VEC_SIZE_H, F.VEC_CODEC_CODEC, F.VEC_CODEC_LEVEL,
   F.VEC_CODEC_IDR_PERIOD, F.VEC_CODEC_SLICE_ROWS, F.VEC_CODEC_SEI_FULL, F.VEC_CODEC_SEI_EN, F.VEC_RC_MODE, F.VEC_RC_QP_MIN,
   F.VEC_RC_QP_MAX, F.VEC_RC_QP_CONST, F.VEC_BITRATE_RATE, F.VEC_CPB_SIZE]

/-- The values of those registers. -/
def vecConf (b : Blk) (x : Nat) : SMap Nat := vecKept.foldl (fun m f => mset m (f.key x 0) (b.rd f x)) []

/-- The registers as a picture of a context is coded under them. -/
def vecView (b : Blk) (x : Nat) (p : VecPic) : Blk :=
  vecKept.foldl (fun e f => e.wr f x (mgetD p.conf (f.key x 0) (b.rd f x))) b

/-- Bits in the HRD buffer at a time: what it held, refilled at BITRATE up to the CPB size (R233). What it holds at the first picture
the manual does not say. -/
def hrdBits (b : Blk) (x at_ : Nat) : Nat :=
  let cpb := b.rd F.VEC_CPB_SIZE x * 1000
  match (b.vecCtx x).hrd with
  | some (v, t) => Nat.min cpb (v + (at_ - t) * b.rd F.VEC_BITRATE_RATE x / 100000)
  | none => Config.hrdStart x % (cpb + 1)

/-- VEC_PICTURE_LATCH at the curtain-up of a stage (R227, R229, R239). -/
def vecLatch (st x : Nat) (b : Blk) : Blk :=
  let f := b.rd F.STG_FRAME_F st
  if !enabled b (vecPage x) || b.rd F.VEC_SRC_STAGE x != st || f % b.rd F.VEC_SRC_PIC_DIV x != 0 then b
  else if encoderShed b then
    (b.putVec x { b.vecCtx x with idrDue := true }).wr F.VEC_STAT_STATE x 3
  else
    let v := b.vecCtx x
    let kind := b.rd F.VEC_SRC_KIND x
    let l := b.rd F.VEC_SRC_LAYER x
    let cand := match (b.layer l).newest with
      | some g => if g.arr = b.now then (b.layer l).prev else some g
      | none => none
    if kind = 1 ∧ cand.isNone then
      vecEvent x 0x104 sevNotice l 0 (b.wr F.VEC_STAT_STATE x 1)
    else
      let per := b.rd F.VEC_CODEC_IDR_PERIOD x
      let net := v.netDue && b.rd F.VEC_OUT_DEST x % 2 == 1
      let idr := v.idrDue || net || (per != 0 && Nat.ble per (v.sinceIdr + 1))
      let p : VecPic := { conf := vecConf b x, f := f, time := b.now, idr := idr, kind := kind, layer := l,
                          frame := if kind = 1 then cand else none, entry := if kind = 1 then layerEntry b l else [],
                          rows := List.replicate (vecRows b x) {} }
      (b.putVec x { v with pics := v.pics ++ [p], idrDue := false, netDue := v.netDue && !net,
                           sinceIdr := if idr then 0 else v.sinceIdr + 1 }).wr F.VEC_STAT_STATE x 2

/-- The picture that a step acts on: the first whose rows meet a test. -/
def vecOn (x : Nat) (want : VecPic → Bool) (f : VecPic → VecPic) (b : Blk) : Blk :=
  let v := b.vecCtx x
  match v.pics.findIdx? want with
  | some i => b.putVec x { v with pics := v.pics.set i (f (v.pics.getD i (v.pics.headD
      { conf := [], f := 0, time := 0, idr := false, kind := 0, layer := 0, frame := none, entry := [] }))) }
  | none => b

/-- The tapped head shows its curtain (R19, R192): the samples are under the curtain. -/
def tapMarked (b : Blk) (x : Nat) : Bool := b.on F.OHD_STAT_CURTAIN (b.rd F.VEC_SRC_STAGE x)

/-- The last input line on which a row's filter taps depend (R160, R230). -/
def rowLastLine (b : Blk) (x : Nat) (r : Nat) : Nat :=
  let h := b.rd F.VEC_SIZE_H x
  let s := (vecInSize b x).2
  let last := Nat.min h ((r + 1) * unitSize (vecH264 b x)) - 1
  if s = h then clampIx s last else clampIx s (scalePos s h 0 last / 65536 + 3)

/-- The frame of a stage picture is on display, and a line of it has entered the tap. -/
def lineEntered (b : Blk) (st f line : Nat) : Bool :=
  b.rd F.STG_FRAME_F st == f && !(b.stage st).switchDue && Nat.ble (scanTime (scanClock b st) 0 (line + 1)) b.up

/-- A flat row: each unit of the hatch is of the DARK hatch colour of R94, the others of the DARK fill (R236); luma, then Cb and Cr. -/
def curtainRow (b : Blk) (x r : Nat) (hatch : List Bool) : List Nat :=
  let u := unitSize (vecH264 b x)
  let w := b.rd F.VEC_SIZE_W x
  let h := Nat.min u (b.rd F.VEC_SIZE_H x - r * u)
  let fin (v : Nat) := if b.rd F.VEC_CODEC_CODEC x = 1 then v else Nat.min 255 ((v + 2) / 4)
  let c (i : Nat) : Rgb := outConv (if b.rd F.VEC_SRC_KIND x = 0 then Nat.max 2
    ((b.viewed (b.rd F.VEC_SRC_STAGE x)).rd F.STG_CFG_OUT_CSC (b.rd F.VEC_SRC_STAGE x)) else 2)
    (if hatch.getD (i / u) false then markColour 0 else darkFill)
  ((List.range h).flatMap fun _ => (List.range w).map fun i => fin (c i).1)
    ++ (List.range (h / 2)).flatMap fun _ => (List.range (w / 2)).flatMap fun i => [fin (c (2 * i)).2.1, fin (c (2 * i)).2.2]

/-- A row of a layer's picture depends on a word that does not read (R390). -/
def vecUnread (b : Blk) (m : FrameStore) (x : Nat) (p : VecPic) (r : Nat) : Bool :=
  match p.frame with
  | some f =>
    let u := unitSize (vecH264 b x)
    let q : Fetch := { lay := f.lay, alphaMode := 0, cx := 0, cy := 0, cw := f.lay.w, ch := f.lay.h, rot := 0, mirror := false, filter := 0,
                       hoff := 0, voff := 0, decim := 0, pipe := 0, dw := b.rd F.VEC_SIZE_W x, dh := b.rd F.VEC_SIZE_H x }
    !m.marked.isEmpty && (List.range (Nat.min u (b.rd F.VEC_SIZE_H x - r * u))).any fun j =>
      q.lineAny (r * u + j) fun px py => m.marked.any fun e => pixelNeeds m f.lay px py e.1
  | none => false

/-- VEC_ROW_READY (R230, R237): the row's last input line has entered, or its frame lies in its buffer; its samples are those of R228, or
it is to be a curtain row because a pixel of the tap was lost or a word of its layer or of the reference store is uncorrectable (3) or is marked as under the curtain (4). It takes its place among the ready rows. -/
def vecRowReady (x row : Nat) (lost : Bool) (b : Blk) (m : FrameStore) : Blk :=
  let v := b.vecCtx x
  let next (p : VecPic) : Bool := p.ready == row && Nat.blt row p.rows.length
  match v.pics.find? next with
  | none => b
  | some p =>
    let e := vecView b x p
    let st := e.rd F.VEC_SRC_STAGE x
    if p.kind = 0 ∧ !lineEntered b st p.f (rowLastLine e x row) then b
    else
      let flag := if lost || vecUnread e m x p row then 3 else if p.kind = 0 && tapMarked e x then 4 else 0
      let input := if flag = 0 then vecRowInput e m x p row else []
      let b := vecOn x next (fun p => { p with ready := row + 1, rows := lset p.rows row { flag := flag, input := input } }) b
      { b with vecReady := b.vecReady ++ [(x, row)] }

/-- VEC_ROW_READY. -/
def execVecRowReady (dt ctx row : Nat) (lost : Bool) (s : State) : Host.Outcome State Fault Refusal :=
  effM dt s fun b m => (vecRowReady ctx row lost b m, m)

/-! ### Rate control (R233 to R237) -/

/-- 2 ^ (d / 6) scaled by 2 ^ 32, to the nearest below. -/
def sixth (d : Int) : Nat :=
  let k := d / 6
  let r := ([4294967296, 4820937917, 5411319706, 6074000999, 6817835604, 7652762089].getD (d % 6).toNat 4294967296 : Nat)
  if 0 ≤ k then r * 2 ^ k.toNat else r / 2 ^ (-k).toNat

/-- The bits estimated for rows `r` to the last at a QP, from the previous picture's rows (R235). -/
def estimate (prev : List (Nat × Nat)) (r qp : Nat) : Nat :=
  (prev.drop r).foldl (fun a e => a + e.1 * sixth (Int.ofNat e.2 - Int.ofNat qp) / 2 ^ 32) 0

/-- A curtain row's units: hatch where the manual's diagonal has it (R236). -/
def curtainUnits (h264 : Bool) (n row : Nat) : List Bool :=
  (List.range n).map fun cx => if h264 then (cx / 4 + row / 4) % 4 == 0 else (cx + row) % 4 == 0

/-- The estimate for a row and the rows after it at a QP leaves the curtain reserve of the rows after it (R235). -/
def fits (b : Blk) (x row qp : Nat) (p : VecPic) (prev : List (Nat × Nat)) : Bool :=
  Nat.ble (estimate prev row qp + p.spent + reserveFrom b x (row + 1)) p.bmax

/-- The QP that the mode uses for a row (R233): the model's with CBR; QP_CONST while the budget allows it, else the model's where that is
higher, with capped VBR; QP_CONST with constant QP. It stays within QP_MIN and QP_MAX. -/
def rowQp (b : Blk) (x row : Nat) (p : VecPic) (prev : List (Nat × Nat)) (r : VecRow) : Nat :=
  let lim (q : Nat) := Nat.min (b.rd F.VEC_RC_QP_MAX x) (Nat.max (b.rd F.VEC_RC_QP_MIN x) q)
  let k := b.rd F.VEC_RC_QP_CONST x
  match b.rd F.VEC_RC_MODE x with
  | 0 => lim r.qp
  | 1 => if fits b x row (lim k) p prev then lim k else lim (Nat.max k r.qp)
  | _ => lim k

/-- How a row is coded: flag, bits and QP, and whether it is the first clamped row (R233, R235, R237). A curtain row costs at most its
reserve (R234). -/
def rowChoice (b : Blk) (x row : Nat) (p : VecPic) (prev : List (Nat × Nat)) (r : VecRow) : Nat × Nat × Nat × Bool :=
  let top := b.rd F.VEC_RC_QP_MAX x
  let flag0 := ((p.rows[row]?).map (·.flag)).getD 0
  let cost := Nat.min (reserveRow b x row) r.curtain.bits
  let qp := rowQp b x row p prev r
  if flag0 = 3 ∨ flag0 = 4 then (flag0, cost, top, false)
  else if b.rd F.VEC_RC_MODE x = 2 then (0, r.normal.bits, qp, false)
  else
    let first := p.clampedAt.isNone && !fits b x row qp p prev
    let clamp := first || p.clampedAt.isSome
    let bits := if clamp then r.clamped.bits else r.normal.bits
    if p.bmax < p.spent + bits + reserveFrom b x (row + 1) then (2, cost, top, first)
    else (if clamp then 1 else 0, bits, if clamp then top else qp, first)

/-- Rows of a picture with a flag. -/
def rowsWith (p : VecPic) (k : Nat) : List Nat := (p.rows.zipIdx.filter fun e => e.1.flag == k).map (·.2)

/-- The motion statistic of a picture coded from a layer is evidence of that layer, also when it has moved on (R83, R224): M stands with the
frame it was coded from, and motion of MOTION_MIN or more counts as a change. -/
def layerMotion (l : Nat) (of : Frame) (moved : Nat) (b : Blk) : Blk :=
  let L := b.layer l
  let e := layerPol b l
  match L.newest with
  | none => b
  | some f =>
    let same := f.serial == of.serial
    let moves := e.useCodec && Nat.ble e.motionMin moved && !(same && f.changed)
    let L := if same then { L with newest := some { f with motion := moved, changed := f.changed || moves } } else L
    b.putLayer l (if moves then { L with identRun := if same then 0 else f.serial - of.serial, changedRun := L.changedRun + 1,
                                         changedAt := Nat.max L.changedAt of.basis, undecided := true }
      else L)

/-- Bytes of filler data that keep the rate constant (R233): the bits by which the HRD buffer would pass its size before the next picture
is removed. -/
def fillerBytes (b : Blk) (x left : Nat) : Nat :=
  if b.rd F.VEC_RC_MODE x ≠ 0 then 0
  else
    let r := vecPicRate b x
    let later := left + (if r.1 = 0 then 0 else b.rd F.VEC_BITRATE_RATE x * 10000 * r.2 / r.1)
    cdiv (later - b.rd F.VEC_CPB_SIZE x * 1000) 8

/-- The picture record of a coded picture (R225), and the CTU records after it (R226). -/
def vecRecords (b : Blk) (x count : Nat) (p : VecPic) : List (List Nat) :=
  let n := p.rows.length
  let qps := p.rows.map (·.qp)
  let mean := if n = 0 then 0 else qps.foldl (· + ·) 0 / n
  let st (k : Nat) := (p.rows.map fun r => r.stat.getD k 0).foldl (· + ·) 0
  let ws := [p.time % 2 ^ 32, p.time / 2 ^ 32, count, Nat.min 65535 (st 0) + 65536 * Nat.min 65535 (st 1), p.spent % 2 ^ 32,
    mean + 256 * minD 0 qps + 65536 * maxD qps + 2 ^ 24 * (if p.idr then 0 else 2) + 2 ^ 28 * b2n p.clampedAt.isSome
      + 2 ^ 29 * b2n (p.rows.any fun r => Nat.ble 2 r.flag),
    Nat.min 65535 (rowsWith p 3).length + 65536 * Nat.min 65535 (n * vecUnits b x),
    (if n = 0 then 0 else st 2 / n % 65536 + 65536 * (st 3 / n % 65536))]
  let ctus := p.rows.flatMap fun r => r.ctus.map fun c =>
    leBytes 4 c.1 ++ leBytes 4 (r.qp % 64 + 64 * (if 2 ≤ r.flag then 3 else c.2.1 % 3) + 256 * b2n (r.flag == 1)) ++ leBytes 4 c.2.2.1
      ++ leBytes 4 c.2.2.2
  recordBytes ws :: (if b.on F.VEC_STATS_CFG_CTU x then (List.range (cdiv ctus.length 4)).map fun i =>
      let e := ((ctus.drop (4 * i)).take 4).flatten
      e ++ List.replicate (64 - e.length) 0
    else [])

/-- A picture is complete: counts, events of its curtain rows, HRD, statistics (R225, R226, R233, R235, R237). -/
def vecComplete (x : Nat) (p : VecPic) (b : Blk) (m : FrameStore) : Blk × FrameStore :=
  let v := b.vecCtx x
  let e := vecView b x p
  let many := rowsWith p 2
  let lost := rowsWith p 3
  let b := if many.isEmpty then b else vecEvent x 0x101 sevWarning (many.length % 256 + 256 * (many.headD 0 % 256)) (evB 1) b
  let b := if lost.isEmpty then b else vecEvent x 0x102 sevWarning (lost.length % 256) (evB 2) b
  let n := p.rows.length
  let mean := if n = 0 then 0 else (p.rows.map (·.qp)).foldl (· + ·) 0 / n
  let b := ((b.bump F.VEC_PICTURES_COUNT x).bump F.VEC_CURTAIN_ROWS_COUNT x (many.length + lost.length + (rowsWith p 4).length)).wr
    F.VEC_STAT_LAST_QP x mean
  let fill := fillerBytes e x (p.bmax - p.spent)
  let b := vecOn x (fun q => q.f == p.f && q.time == p.time) (fun q => { q with filler := fill }) b
  let b := b.putVec x { b.vecCtx x with prev := p.rows.map fun r => (r.bits, r.qp), hrd := some (p.bmax - p.spent - 8 * fill, p.time),
                                        count := (v.count + 1) % 2 ^ 32 }
  let b := setEvt (vecPage x) (evB 0) b
  let moved := Nat.min 65535 ((p.rows.map fun r => r.stat.getD 0 0).foldl (· + ·) 0)
  let b := match p.frame with
    | some f => layerMotion p.layer f moved b
    | none => b
  statEntries vecStats 0x13 x (vecRecords e x v.count p) b m

/-- The 16 × 16 areas of a row. -/
def rowAreas (b : Blk) (x row : Nat) : Nat :=
  let u := unitSize (vecH264 b x)
  cdiv (b.rd F.VEC_SIZE_W x) 16 * cdiv (Nat.min u (b.rd F.VEC_SIZE_H x - row * u)) 16

/-- The coding of a row that leaves, by its flag. -/
def rowTaken (r : VecRow) (flag : Nat) : RowCode := if 2 ≤ flag then r.curtain else if flag = 1 then r.clamped else r.normal

/-- VEC_ROW_CODED (R230, R235 to R237): the row that became ready first, of all contexts. -/
def vecRowCoded (x row : Nat) (r : VecRow) (b : Blk) (m : FrameStore) : Blk × FrameStore :=
  let v := b.vecCtx x
  let mine (p : VecPic) := p.coded == row && Nat.blt row p.ready
  match v.pics.find? mine with
  | none => (b, m)
  | some p =>
    if b.vecReady.head? ≠ some (x, row) then (b, m)
    else
      let e := vecView b x p
      let p := if row = 0 then { p with bmax := hrdBits e x p.time } else p
      let c := rowChoice e x row p v.prev r
      let b := { b with vecReady := b.vecReady.drop 1 }
      let b := if c.2.2.2 then vecEvent x 0x100 sevNotice (row % 256) (evB 1) b else b
      let as := rowTaken r c.1
      let cell := if 2 ≤ c.1 then curtainUnits (vecH264 e x) (vecUnits e x) row else []
      let st := if 2 ≤ c.1 then [0, rowAreas e x row, 0, 0] else [as.moved, as.intra, as.mv.1, as.mv.2]
      let old := (p.rows[row]?).getD {}
      let input := if 2 ≤ c.1 then curtainRow e x row cell else old.input
      let p' := { p with coded := row + 1, spent := p.spent + c.2.1, clampedAt := if c.2.2.2 then some row else p.clampedAt,
                         rows := lset p.rows row { old with flag := c.1, bits := c.2.1, qp := c.2.2.1, coded := true, hatch := cell,
                                                            input := input, stat := st, ctus := as.ctus } }
      let b := vecOn x mine (fun _ => p') b
      if p'.coded = p'.rows.length then vecComplete x p' b m else (b, m)

/-- VEC_ROW_CODED. -/
def execVecRowCoded (dt ctx row : Nat) (r : VecRow) (s : State) : Host.Outcome State Fault Refusal :=
  effM dt s (vecRowCoded ctx row r)

/-! ### Output (R231, R232, R238) -/

/-- The UUID of the freshness SEI. -/
def seiUuid : List Nat := [0xA7, 0x3E, 0x91, 0x0C, 0x52, 0xD4, 0x4B, 0x18, 0x8F, 0x26, 0xC0, 0x7B, 0x35, 0xE9, 0x61, 0xAD]

/-- The payload of the freshness SEI of a picture, after the UUID (R238). -/
def seiPayload (b : Blk) (x : Nat) (p : VecPic) : List Nat :=
  let e := vecView b x p
  let full := e.on F.VEC_CODEC_SEI_FULL x
  let st := e.rd F.VEC_SRC_STAGE x
  let mp := mgetD b.prm.maps (st * 2 + p.f % 2) {}
  let tap := p.kind == 0
  let entry := layerEntry b p.layer
  let body := leBytes 2 1 ++ [if tap then 0 else 1, b2n full] ++ leBytes 4 p.f ++ leBytes 8 p.time
    ++ leBytes 4 (if tap then cdiv (stageW b st) 64 + 256 * cdiv (stageH b st) 64 else p.layer)
    ++ leBytes 4 (if tap then mp.word 0x10 else 0) ++ leBytes 4 (if tap then mp.word 0x14 else entry.getD 0 0 % 16)
    ++ leBytes 2 p.rows.length ++ [0, 0] ++ p.rows.map (·.flag)
    ++ (if full then (if tap then mp.tiles else p.entry.flatMap (leBytes 4)) else [])
  body ++ leBytes 4 (crc32 body)

/-- Emulation prevention of the NAL unit syntax. -/
def escape : Nat → List Nat → List Nat
  | _, [] => []
  | z, v :: t => if 2 ≤ z ∧ v ≤ 3 then 3 :: v :: escape (if v = 0 then 1 else 0) t else v :: escape (if v = 0 then z + 1 else 0) t

/-- The SEI NAL unit of a picture: suffix SEI in HEVC, SEI in H.264. -/
def seiNal (b : Blk) (x : Nat) (p : VecPic) : List Nat :=
  let body := seiUuid ++ seiPayload b x p
  let n := body.length
  let msg := [5] ++ List.replicate (n / 255) 255 ++ [n % 255] ++ body ++ [0x80]
  (if vecH264 (vecView b x p) x then [0x06] else [0x50, 0x01]) ++ escape 0 msg

/-- A number as bits, the most significant first. -/
def bitsOf (n v : Nat) : List Bool := (List.range n).map fun i => bit v (n - 1 - i)

/-- The fields of the VUI that tell how the samples are to be taken (R228), in both codecs: video_signal_type_present_flag to
matrix_coefficients, with the matrix used, narrow range, and primaries and transfer unspecified; chroma_loc_info_present_flag, and centre
siting for both fields. PRESUMED: the syntax and codes of the standards. -/
def vuiBits (matrix : Nat) : List Bool :=
  [true] ++ bitsOf 3 5 ++ [false, true] ++ bitsOf 8 2 ++ bitsOf 8 2 ++ bitsOf 8 matrix ++ [true] ++ bitsOf 3 2 ++ bitsOf 3 2

/-- matrix_coefficients of the matrix that a picture's samples were made with (R191, R228). -/
def vecMatrix (b : Blk) (x : Nat) (p : VecPic) : Nat :=
  let st := (vecView b x p).rd F.VEC_SRC_STAGE x
  if p.kind ≠ 0 then 1
  else match (b.viewed st).rd F.STG_CFG_OUT_CSC st with
    | 3 => 9
    | 4 => 6
    | _ => 1

/-- Bits packed into bytes, after the stop bit. -/
def packBits (l : List Bool) : List Nat :=
  let l := l ++ [true]
  (List.range (cdiv l.length 8)).map fun i => (List.range 8).foldl (fun a j => 2 * a + b2n (l.getD (8 * i + j) false)) 0

/-- The NAL unit of a parameter set. -/
def paramNal (s : ParamSet) (matrix : Nat) : List Nat :=
  s.header ++ escape 0 (packBits (s.pre ++ (if s.sps then vuiBits matrix else []) ++ s.post))

/-- The NAL unit of so many bytes of filler data. -/
def fillerNal (h264 : Bool) (n : Nat) : List (List Nat) :=
  if n = 0 then [] else
    let hd := if h264 then [0x0C] else [0x4C, 0x01]
    [hd ++ List.replicate (n - hd.length - 1) 0xFF ++ [0x80]]

/-- A NAL unit cut into RTP payloads of at most 1,400 bytes: FU-A of RFC 6184, or fragmentation units of RFC 7798 (R231). -/
def nalPayloads (h264 : Bool) (nal : List Nat) : List (List Nat) :=
  if nal.length ≤ 1400 then [nal]
  else
    let hd := if h264 then 1 else 2
    let body := nal.drop hd
    let n := 1400 - hd - 1
    let k := cdiv body.length n
    (List.range k).map fun i =>
      let se := (if i = 0 then 128 else 0) + (if i + 1 = k then 64 else 0)
      let h0 := nal.headD 0
      (if h264 then [h0 / 32 * 32 + 28, se + h0 % 32] else [h0 / 128 * 128 + 49 * 2 + h0 % 2, nal.getD 1 0, se + h0 / 2 % 64])
        ++ (body.drop (n * i)).take n

/-- OWN_OUT is asserted. -/
def ownOut (b : Blk) : Bool := b.on F.PAIR_STAT_OWN_OUT 0

/-- Send NAL units as RTP packets: marker on the last of the access unit, timestamp of R231. -/
def sendNals (x : Nat) (p : VecPic) (last h264 : Bool) (nals : List (List Nat)) (b : Blk) : Blk :=
  let ps := nals.flatMap (nalPayloads h264)
  let ts := p.time * 9 / 100000 % 2 ^ 32
  let port := b.rd F.VEC_OUT_NIF x
  forEach ps.zipIdx (fun e b =>
    let v := b.vecCtx x
    let mk := b2n (last && e.2 + 1 == ps.length)
    (b.putVec x { v with seq := (v.seq + 1) % 65536 }).emit (.net port netRtp
      ([b.rd F.VEC_OUT_FAMILY x, b.rd F.VEC_DST_ADDR_ADDR x, b.rd F.VEC_DST_PORT_UDP x, b.rd F.VEC_OUT_PT x, mk, v.seq, ts] ++ e.1))) b

/-- Unread bytes of the recording ring. -/
def ringUsed (b : Blk) (x : Nat) : Nat :=
  let n := b.rd F.VEC_RING_SIZE_SIZE x * 4096
  (b.rd F.VEC_RING_WR_OFFSET x + n - b.rd F.VEC_RING_RD_OFFSET x % n) % n

/-- Write bytes into the recording ring from WR on, wrapping. -/
def ringWrite (x : Nat) (l : List Nat) (b : Blk) (m : FrameStore) : Blk × FrameStore :=
  let n := b.rd F.VEC_RING_SIZE_SIZE x * 4096
  let base := b.rd F.VEC_RING_BASE_ADDR x
  let wr := b.rd F.VEC_RING_WR_OFFSET x
  let m := (l.zipIdx).foldl (fun m e => engineByte b 0x13 (base + (wr + e.2) % n) e.1 m) m
  let b := if fsGranted b 0x13 (base + wr % n) true then b else fsViolation 4 0x13 (base + wr % n) 1 b
  (b.wr F.VEC_RING_WR_OFFSET x ((wr + l.length) % n), m)

/-- A whole access unit goes into the recording ring, or is discarded (R232). -/
def recordUnit (x : Nat) (p : VecPic) (au : List Nat) (b : Blk) (m : FrameStore) : Blk × FrameStore :=
  let v := b.vecCtx x
  let n := b.rd F.VEC_RING_SIZE_SIZE x * 4096
  let flags := b2n p.idr + 2 * b2n p.clampedAt.isSome + 4 * b2n (p.rows.any fun r => Nat.ble 2 r.flag) + 8 * b2n v.discarded
  let h := leBytes 8 p.time ++ leBytes 4 p.f ++ leBytes 4 au.length ++ leBytes 4 flags ++ List.replicate 8 0
  let all := h ++ leBytes 4 (crc32 h) ++ au ++ List.replicate ((32 - au.length % 32) % 32) 0
  if n = 0 then (b, m)
  else if (v.discarded && !p.idr) || Nat.ble (n - ringUsed b x) all.length then
    let b := b.putVec x { v with discarding := true, discarded := true, idrDue := true }
    (if v.discarding then b else vecEvent x 0x103 sevWarning 0 (evB 2) b, m)
  else ringWrite x all (b.putVec x { v with discarding := false, discarded := false }) m

/-- The bytes of NAL units in Annex B format. -/
def annexB (nals : List (List Nat)) : List Nat := nals.flatMap fun n => [0, 0, 0, 1] ++ n

/-- VEC_SLICE_OUT (R230 to R233, R238): the next slice whose rows are all coded leaves, the parameter sets before the first of an IDR; with
the last one, the freshness SEI, filler data and the recording ring's access unit. -/
def vecSliceOut (x : Nat) (sets : List ParamSet) (nals : List (List Nat)) (b : Blk) (m : FrameStore) : Blk × FrameStore :=
  let v := b.vecCtx x
  match v.pics with
  | [] => (b, m)
  | p :: rest =>
    let e := vecView b x p
    let sr := e.rd F.VEC_CODEC_SLICE_ROWS x
    let upto := Nat.min p.rows.length ((p.sent + 1) * sr)
    if p.coded < upto ∨ p.rows.length ≤ p.sent * sr then (b, m)
    else
      let last := upto == p.rows.length
      let h264 := vecH264 e x
      let own := if e.on F.VEC_CODEC_SEI_EN x && last then [seiNal b x p] else []
      let pre := (if p.idr && p.sent == 0 then sets.map fun s => paramNal s (vecMatrix b x p) else [])
        ++ if h264 && p.sent == 0 && !v.sei.isEmpty then [v.sei] else []
      let out := pre ++ nals ++ (if h264 then [] else own) ++ (if last then fillerNal h264 p.filler else [])
      let dest := b.rd F.VEC_OUT_DEST x
      let net := dest % 2 == 1 && ownOut b && linkUp b (b.rd F.VEC_OUT_NIF x)
      let b := b.put F.VEC_STAT_SENDING x net
      let b := if net then sendNals x p last h264 out b else b
      let v := b.vecCtx x
      let au := p.au ++ annexB out
      if last then
        let b := b.putVec x { v with pics := rest, sei := if h264 then own.headD [] else [] }
        if 2 ≤ dest then recordUnit x p au b m else (b, m)
      else (b.putVec x { v with pics := { p with sent := p.sent + 1, au := au } :: rest }, m)

/-- VEC_SLICE_OUT. -/
def execVecSliceOut (dt ctx : Nat) (sets : List ParamSet) (nals : List (List Nat)) (s : State) : Host.Outcome State Fault Refusal :=
  effM dt s (vecSliceOut ctx sets nals)

/-- The next picture is an IDR (R229). -/
def vecForceIdr (x : Nat) (b : Blk) : Blk := b.putVec x { b.vecCtx x with idrDue := true }

/-- The context stops, and its next picture is an IDR (soft reset of the page, disable). -/
def vecStop (x : Nat) (b : Blk) : Blk :=
  let v := b.vecCtx x
  let b := { b with vecReady := b.vecReady.filter fun e => e.1 != x }
  (b.putVec x { count := v.count, seq := v.seq, netDue := v.netDue }).wr F.VEC_STAT_STATE x (b2n (enabled b (vecPage x)))

/-- The module becomes ACTIVE: the first network output of each context is an IDR (R229). -/
def vecActive (b : Blk) : Blk := forEach (List.range 16) (fun x b => b.putVec x { b.vecCtx x with netDue := true }) b

end Sys2Proof.Machine
end

