-- ==== Sys2Proof/Machine/LineCode.lean ====
section
/-!
DEFINITION. The line code of the Chaino link layer: RS(544,514) (R311), 66-bit blocks and the scrambler (R310), alignment markers
(R312), block lock (R313), and the blocks of frames and express groups (R315).
-/

namespace Sys2Proof.Machine

/-! ### GF(2¹⁰) and RS(544,514) (R311)

PRESUMED, from IEEE 802.3 clause 91, which R311 names: field polynomial x¹⁰ + x³ + 1, generator polynomial with the roots α⁰ to α²⁹, and
the symbol sent first as the coefficient of the highest power (log 85). -/

/-- v × α. -/
def gfX (v : Nat) : Nat := if 2 * v < 1024 then 2 * v else Nat.xor (2 * v) 0x409

/-- A product in GF(2¹⁰). -/
def gfMul (a c : Nat) : Nat :=
  (List.range 10).foldl (fun acc i => Nat.xor (gfX acc) (if c.testBit (9 - i) then a else 0)) 0

/-- αⁿ. -/
def gfAlpha (n : Nat) : Nat := (List.range (n % 1023)).foldl (fun v _ => gfX v) 1

/-- The inverse of a nonzero element: its power 1,022. -/
def gfInv (a : Nat) : Nat :=
  ((List.range 9).foldl (fun (e : Nat × Nat) _ => let q := gfMul e.1 e.1; (q, gfMul e.2 q)) (a, 1)).2

/-- The value of a polynomial, highest coefficient first, at a point. -/
def polyAt (l : List Nat) (x : Nat) : Nat := l.foldl (fun acc c => Nat.xor (gfMul acc x) c) 0

/-- A sum of polynomials, lowest coefficient first. -/
def polyAdd : List Nat → List Nat → List Nat
  | [], q => q
  | p, [] => p
  | a :: p, c :: q => Nat.xor a c :: polyAdd p q

/-- A polynomial times a constant. -/
def polyScale (k : Nat) (p : List Nat) : List Nat := p.map (gfMul k)

/-- A product of polynomials, lowest coefficient first. -/
def polyMul : List Nat → List Nat → List Nat
  | [], _ => []
  | a :: p, q => polyAdd (polyScale a q) (0 :: polyMul p q)

/-- The generator polynomial, lowest coefficient first. -/
def rsGen : List Nat := (List.range 30).foldl (fun g j => polyMul [gfAlpha j, 1] g) [1]

/-- One step of the division by the generator: the remainder, highest coefficient first. -/
def rsStep (gen : List Nat) (r : List Nat) (m : Nat) : List Nat :=
  let q := Nat.xor (r.headD 0) m
  ((r.drop 1 ++ [0]).zip gen).map fun (e : Nat × Nat) => Nat.xor e.1 (gfMul q e.2)

/-- The 30 parity symbols of 514 message symbols. -/
def rsParity (msg : List Nat) : List Nat :=
  let gen := (rsGen.reverse).drop 1
  msg.foldl (rsStep gen) (List.replicate 30 0)

/-- A codeword: the message symbols, then the parity symbols. -/
def rsEncode (msg : List Nat) : List Nat := msg ++ rsParity msg

/-- The 30 syndromes of a received word. -/
def rsSyndromes (cw : List Nat) : List Nat := (List.range 30).map fun j => polyAt cw (gfAlpha j)

/-- The error locator search of Berlekamp and Massey: locator, its predecessor, length, gap, and the predecessor's discrepancy. -/
structure Locator where
  c : List Nat := [1]
  prev : List Nat := [1]
  len : Nat := 0
  gap : Nat := 1
  d : Nat := 1
  deriving DecidableEq, Repr

/-- One syndrome more. -/
def locatorStep (syn : List Nat) (x : Locator) (n : Nat) : Locator :=
  let d := ((x.c.zipIdx).take (x.len + 1)).foldl (fun a e => if e.2 ≤ n then Nat.xor a (gfMul e.1 (syn.getD (n - e.2) 0)) else a) 0
  if d = 0 then { x with gap := x.gap + 1 }
  else
    let c := polyAdd x.c (List.replicate x.gap 0 ++ polyScale (gfMul d (gfInv x.d)) x.prev)
    if 2 * x.len ≤ n then ⟨c, x.c, n + 1 - x.len, 1, d⟩ else { x with c := c, gap := x.gap + 1 }

/-- The errors of a received word as (index in the word, value); none where it is uncorrectable: more than 15 symbols in error. -/
def rsErrors (cw : List Nat) : Option (List (Nat × Nat)) :=
  let syn := rsSyndromes cw
  if syn.all (· == 0) then some []
  else
    let x := (List.range 30).foldl (locatorStep syn) {}
    let c := (x.c.take (x.len + 1)).reverse
    let omega := ((polyMul syn x.c).take 30).reverse
    let slope := ((x.c.zipIdx).map fun e => if e.2 % 2 = 1 then e.1 else 0).drop 1
    let roots := (List.range 544).filter fun i => polyAt c (gfAlpha (1023 - i)) == 0
    if 15 < x.len ∨ roots.length ≠ x.len then none
    else some (roots.map fun i =>
      let inv := gfAlpha (1023 - i)
      (543 - i, gfMul (gfAlpha i) (gfMul (polyAt omega inv) (gfInv (polyAt slope.reverse inv)))))

/-- A received word with its errors corrected. -/
def rsCorrect (cw : List Nat) (errs : List (Nat × Nat)) : List Nat :=
  errs.foldl (fun l e => l.set e.1 (Nat.xor (l.getD e.1 0) e.2)) cw

/-! ### Bits and blocks (R310) -/

/-- The bits of symbols in the order of sending, the first in bit 0: the first bit sent of a symbol is its bit 0 (R311). -/
def symbolBits (l : List Nat) : Nat := l.foldr (fun s acc => s % 1024 + 1024 * acc) 0

/-- The symbols that bits make. -/
def bitSymbols : Nat → Nat → List Nat
  | 0, _ => []
  | n + 1, v => v % 1024 :: bitSymbols n (v / 1024)

/-- Header of a data block, 0 then 1, and of a control block, 1 then 0, with the bit sent first in bit 0 (R310). -/
abbrev hdrData : Nat := 2
abbrev hdrControl : Nat := 1

/-- The self-synchronous scrambler 1 + x³⁹ + x⁵⁸ (R310), one bit at a time: `s` holds the last 58 bits sent, the oldest in bit 0; `n` bits of
`v`, bit 0 first. The answer is the bits sent and the state after them. -/
def scramble : Nat → Nat → Nat → Nat × Nat
  | 0, s, _ => (0, s)
  | n + 1, s, v =>
    let o := (v + s / 2 ^ 19 + s) % 2
    let r := scramble n (s / 2 + 2 ^ 57 * o) (v / 2)
    (o + 2 * r.1, r.2)

/-- The descrambler: each bit is the bit received plus those 39 and 58 before it. -/
def descramble : Nat → Nat → Nat → Nat × Nat
  | 0, s, _ => (0, s)
  | n + 1, s, v =>
    let r := descramble n (s / 2 + 2 ^ 57 * (v % 2)) (v / 2)
    ((v + s / 2 ^ 19 + s) % 2 + 2 * r.1, r.2)

/-- Cut `n` blocks of 66 bits off a stream: header and payload. -/
def cutBlocks : Nat → Nat → List (Nat × Nat)
  | 0, _ => []
  | n + 1, v => (v % 4, v / 4 % 2 ^ 64) :: cutBlocks n (v / 2 ^ 66)

/-! ### Alignment markers (R312) -/

/-- The payload of the marker of logical lane L. -/
def markerPayload (l : Nat) : Nat := 0xD2 + 2 ^ 8 * l + 2 ^ 16 * 0x5C3AF0C6 + 2 ^ 48 * (65535 - (0xD2 + 2 ^ 8 * l))

/-- Bits in which two payloads differ. -/
def bitsApart (a c : Nat) : Nat := ((List.range 64).filter fun i => Nat.testBit a i != Nat.testBit c i).length

/-- A block matches the marker of lane L: both header bits, and all but at most 3 payload bits. -/
def markerMatch (l hdr payload : Nat) : Bool := hdr == hdrControl && Nat.ble (bitsApart payload (markerPayload l)) 3

/-- The lane whose marker a block matches. The payloads of two lanes differ in as few as 2 bits, so that a block may match the markers of
several: it is taken for the nearest, and of equally near ones for the lowest. DESIGN CHOICE: R312 is silent on it (log 85). -/
def markerLane (hdr payload : Nat) : Option Nat :=
  ((List.range 4).filter fun l => markerMatch l hdr payload).foldl (fun (a : Option Nat) l => match a with
    | some k => if bitsApart payload (markerPayload l) < bitsApart payload (markerPayload k) then some l else some k
    | none => some l) none

/-! ### Block lock (R313) -/

abbrev lineHunt : Nat := 0
abbrev lineConfirm : Nat := 1
abbrev lineLocked : Nat := 2

/-- Codewords of an alignment period (R311). -/
abbrev periodWords : Nat := 2112

/-- Invalid headers of `n` blocks in a row: where they stood, and whether 32 of them ever lie within 1,024 blocks. -/
def headersBad : Nat → Nat → List Nat → List Nat × Bool
  | 0, _, l => (l, false)
  | n + 1, at_, l =>
    let l := (at_ :: l).take 32
    let r := headersBad n (at_ + 1) l
    (r.1, r.2 || (l.length == 32 && Nat.blt at_ (l.getLastD 0 + 1024)))

/-- The lane hunts again. -/
def LineSt.again (_ : LineSt) : LineSt := {}

/-- One observation of a lane (R313). -/
def lineStep (x : LineSt) (o : LineObs) : LineSt :=
  match x.st, o with
  | 0, .marker h p => match markerLane h p with
    | some l => { x with st := lineConfirm, logical := l, seen := 1, cws := 0, bad := 0 }
    | none => x
  | 1, .codewords n ok => { x with cws := x.cws + n, bad := if ok then x.bad else x.bad + n }
  | 1, .marker h p =>
    if x.cws < periodWords then x
    else if x.cws ≠ periodWords ∨ !markerMatch x.logical h p then x.again
    else if x.seen < 2 then { x with seen := x.seen + 1, cws := 0 }
    else if x.bad < 4 then { x with st := lineLocked, seen := 3, cws := 0, bad := 0, miss := 0, blocks := 0, heads := [] }
    else x.again
  | 2, .codewords n ok =>
    if n = 0 then x
    else
      let bad := if ok then 0 else x.bad + n
      if 4 ≤ bad then x.again else { x with cws := x.cws + n, bad := bad }
  | 2, .marker h p =>
    let miss := if markerMatch x.logical h p then 0 else x.miss + 1
    if 3 ≤ miss then x.again else { x with cws := 0, miss := miss }
  | 2, .headers n ok =>
    if ok then { x with blocks := x.blocks + n }
    else
      let r := headersBad n x.blocks x.heads
      if r.2 then x.again else { x with blocks := x.blocks + n, heads := r.1 }
  | _, _ => x

/-- A lane after what it observed in turn. -/
def lineRun (x : LineSt) (l : List LineObs) : LineSt := l.foldl lineStep x

/-! ### Control blocks (R315) -/

/-- A control block type that R315 names. -/
def typeKnown (t : Nat) : Bool := t == 0x1E || t == 0x78 || t == 0x87 || t == 0x4B

/-- A decoded block is valid: a data block, or a control block of a known type. -/
def blockValid (hdr payload : Nat) : Bool := hdr == hdrData || (hdr == hdrControl && typeKnown (payload % 256))

/-- The 8 payload bytes of data blocks, byte 0 in bits [7:0]. -/
def dataBytes (l : List Nat) : List Nat := l.flatMap (leBytes 8)

/-- Bytes as 32-bit words, little-endian, the last one padded. -/
def byteWords : List Nat → List Nat
  | [] => []
  | [a] => [a % 256]
  | [a, c] => [a % 256 + 2 ^ 8 * (c % 256)]
  | [a, c, d] => [a % 256 + 2 ^ 8 * (c % 256) + 2 ^ 16 * (d % 256)]
  | a :: c :: d :: e :: t => (a % 256 + 2 ^ 8 * (c % 256) + 2 ^ 16 * (d % 256) + 2 ^ 24 * (e % 256)) :: byteWords t

/-- 32-bit words as data blocks, the last one padded (R315: the owner of a channel pads its frames to whole blocks). -/
def wordBlocks : List Nat → List Nat
  | [] => []
  | [a] => [a % 2 ^ 32]
  | a :: c :: t => (a % 2 ^ 32 + 2 ^ 32 * (c % 2 ^ 32)) :: wordBlocks t

/-- The 32-bit words of data blocks. -/
def blockWords (l : List Nat) : List Nat := l.flatMap fun v => [v % 2 ^ 32, v / 2 ^ 32]

/-- The blocks of a frame: START, data blocks and TERM, as header and payload. -/
def frameBlocks (chan seq : Nat) (data : List Nat) : List (Nat × Nat) :=
  (hdrControl, 0x78 + 2 ^ 8 * (chan % 256) + 2 ^ 16 * (data.length % 65536) + 2 ^ 32 * (seq % 65536)) :: data.map (fun d => (hdrData, d))
    ++ [(hdrControl, 0x87 + 2 ^ 8 * (chan % 256) + 2 ^ 16 * crc32c (dataBytes data))]

/-- The blocks of an express group. -/
def groupBlocks (chan : Nat) (data : List Nat) : List (Nat × Nat) :=
  (hdrControl, 0x4B + 2 ^ 8 * (chan % 256) + 2 ^ 16 * (data.length % 4) + 2 ^ 24 * crc32c (chan % 256 :: dataBytes data))
    :: data.map (fun d => (hdrData, d))

/-! ### Transmission (R310 to R312) -/

/-- Put 66 bits into the codeword that a lane fills; a full one is encoded and sent. -/
def txBits (hdr payload : Nat) (x : LineTx) : LineTx × List (List Nat) :=
  let v := x.part + 2 ^ x.partN * (hdr + 4 * payload)
  let n := x.partN + 66
  if 5140 ≤ n then
    ({ x with part := v / 2 ^ 5140, partN := n - 5140, cws := (x.cws + 1) % periodWords }, [rsEncode (bitSymbols 514 (v % 2 ^ 5140))])
  else ({ x with part := v, partN := n }, [])

/-- Send one block on logical lane L: before the first block of an alignment period the marker, unscrambled; the block's payload is
scrambled. -/
def txBlock (l hdr payload : Nat) (x : LineTx) : LineTx × List (List Nat) :=
  let a := if x.cws = 0 ∧ x.partN = 0 then txBits hdrControl (markerPayload l) x else (x, [])
  let s := scramble 64 a.1.scr payload
  let r := txBits hdr s.1 { a.1 with scr := s.2 }
  (r.1, a.2 ++ r.2)

/-! ### Reception (R310, R311, R313) -/

/-- What a lane makes of a codeword: the stream after it, symbols corrected, whether it was uncorrectable, and invalid headers. Blocks that
have a bit in an uncorrectable codeword are marked. -/
def rxCodeword (cw : List Nat) (x : LineSt) : LineSt × Nat × Bool × Nat :=
  let errs := rsErrors cw
  let bad := errs.isNone
  let msg := symbolBits ((rsCorrect cw (errs.getD [])).take 514)
  let all := x.part + 2 ^ x.partN * msg
  let n := (x.partN + 5140) / 66
  let blocks := cutBlocks n all
  let first := x.cws = 0 ∨ x.cws = periodWords
  let y := if x.cws = periodWords then (match blocks with | e :: _ => lineStep x (.marker e.1 e.2) | [] => x) else x
  let y := lineStep y (.codewords 1 (!bad))
  let r := ((if first then blocks.drop 1 else blocks).zipIdx).foldl
    (fun (a : LineSt × List (Nat × Nat × Bool) × Nat) (e : (Nat × Nat) × Nat) =>
      let d := descramble 64 a.1.scr e.1.2
      let ok := blockValid e.1.1 d.1
      (lineStep { a.1 with scr := d.2 } (.headers 1 ok), a.2.1 ++ [(e.1.1, d.1, bad || (e.2 == 0 && !first && x.partN != 0 && x.partBad))],
        if ok then a.2.2 else a.2.2 + 1)) (y, [], 0)
  let z := { r.1 with part := all / 2 ^ (66 * n), partN := x.partN + 5140 - 66 * n, partBad := bad, queue := x.queue ++ r.2.1 }
  (if r.1.st = lineLocked then z else r.1, (errs.getD []).length, bad, r.2.2)

end Sys2Proof.Machine
end

