-- ==== Sys2Proof/Machine/Lanes.lean ====
section
/-!
DEFINITION. Serial lanes and the Chaino link layer: bring-up units (R301 to R306), training (R307 to R309), the capability
exchange (R319 to R321), sending and receiving frames and express groups (R314 to R318), eye scans (R322, R323) and margin tracking
(R324, R325).
-/

namespace Sys2Proof.Machine

def lanePage (l : Nat) : Page := ⟨.lane, l⟩
def chnPage (p : Nat) : Page := ⟨.chn, p⟩

/-! ### Units -/

abbrev stOff : Nat := 0
abbrev stDetect : Nat := 1
abbrev stTrain : Nat := 2
abbrev stBit : Nat := 3
abbrev stBlock : Nat := 4
abbrev stCaps : Nat := 5
abbrev stActive : Nat := 6
abbrev stBackoff : Nat := 7

/-- Kind of a unit: 0 network, 1 display, 2 Chaino. -/
def unitKind (u : Nat) : Nat := if u < 16 then 0 else if u < 40 then 1 else 2

/-- The Chaino unit of a port. -/
def chnUnit (p : Nat) : Nat := 40 + p

/-- The unit of a head. -/
def headUnit (h : Nat) : Nat := 16 + h

/-- A head is unavailable because its neighbour uses its lanes (R244). -/
def headTaken (b : Blk) (h : Nat) : Bool :=
  h % 2 == 1 && enabled b ⟨.ohd, h - 1⟩ && b.on F.OHD_CTRL_FOURLANE (h - 1)

/-- The LANE pages that a unit uses by its owner's registers (R301, R108, R244). -/
def unitLanes (b : Blk) (u : Nat) : List Nat :=
  if u < 16 then portLanes b u
  else if u < 40 then fromTo (32 + 2 * (u - 16)) (if b.on F.OHD_CTRL_FOURLANE (u - 16) then 4 else 2)
  else fromTo (80 + 4 * (u - 40)) 4

/-- The unit's owner enables it (R301). -/
def unitEnabled (b : Blk) (u : Nat) : Bool :=
  if u < 16 then !(portLanes b u).isEmpty
  else if u < 40 then b.on F.OHD_CTRL_LANES_EN (u - 16) && b.driving && enabled b ⟨.ohd, u - 16⟩ && !headTaken b (u - 16)
  else b.on F.CHN_CFG_EN (u - 40)

def Blk.unit (b : Blk) (u : Nat) : LaneUnit := mgetD b.units u {}
def Blk.putUnit (b : Blk) (u : Nat) (x : LaneUnit) : Blk := { b with units := mset b.units u x }
def Blk.lane (b : Blk) (l : Nat) : LaneSt := mgetD b.lanes l {}
def Blk.putLane (b : Blk) (l : Nat) (x : LaneSt) : Blk := { b with lanes := mset b.lanes l x }
def Blk.cport (b : Blk) (p : Nat) : ChnSt := mgetD b.chn p {}
def Blk.putCport (b : Blk) (p : Nat) (x : ChnSt) : Blk := { b with chn := mset b.chn p x }

/-- The unit that a lane belongs to at present. -/
def unitOfLane (b : Blk) (l : Nat) : Option Nat := (b.units.find? fun e => e.2.lanes.contains l).map (·.1)

/-- An event of a LANE page: the detail holds the page number (R326). -/
def laneEvent (l code sev d evt : Nat) (b : Blk) : Blk := raise (lanePage l) code sev (d % 2 ^ 15 + 2 ^ 15 * l) evt b

/-- An event of a unit, raised once, by its lowest LANE page (DEDUCED). -/
def unitEvent (u code sev d evt : Nat) (b : Blk) : Blk :=
  match (b.unit u).lanes with
  | l :: _ => laneEvent l code sev d evt b
  | [] => b

/-- An event of a CHN page: the detail holds the port (R327). -/
def chnEvent (p code sev d evt : Nat) (b : Blk) : Blk := raise (chnPage p) code sev (d % 2 ^ 20 + 2 ^ 20 * p) evt b

/-- A unit enters a step: LANE_STAT.STATE of its lanes, CHN_STAT.STATE of a Chaino port. -/
def unitStep (u st : Nat) (b : Blk) : Blk :=
  let x := b.unit u
  let b := b.putUnit u { x with state := st, since := b.now, probeAt := none, lostAt := none }
  let b := forEach x.lanes (fun l b => b.wr F.LANE_STAT_STATE l st) b
  if unitKind u = 2 then b.wr F.CHN_STAT_STATE (u - 40) st else b

/-- Fields of LANE_CFG that take effect when the unit enters DETECT (chapter 10, LANE pages). -/
def laneCfgNow (b : Blk) (l : Nat) : List Nat :=
  [b.rd F.LANE_CFG_RX_INV_AUTO l, b.rd F.LANE_CFG_TX_FIXED l, b.rd F.LANE_CFG_PRESET_PRE l, b.rd F.LANE_CFG_PRESET_POST l]

/-- A field of LANE_CFG in effect. -/
def laneCfg (b : Blk) (l k : Nat) : Nat := (b.lane l).cfg.getD k 0

/-- The module departs (R306, R443): no unit begins its bring-up. -/
def departing (b : Blk) : Bool := b.on F.SYS_STAT_EJECTING 0

/-- Entering DETECT: LANE_CFG takes effect, and the counts of training begin anew. -/
def enterDetect (u : Nat) (b : Blk) : Blk :=
  let b := forEach (b.unit u).lanes (fun l b =>
    b.putLane l { b.lane l with ready := 0, done := false, ansPre := 0, ansPost := 0, cfg := laneCfgNow b l, line := {} }) b
  let b := if unitKind u = 2 then
      let p := u - 40
      let b := b.putCport p { b.cport p with accepted := false, told := [], frame := none, group := none }
      (b.wr F.CHN_STAT_REFUSED p 0).wr F.CHN_STAT_CAUSE p 0
    else b
  unitStep u stDetect b

/-- Transmitter taps of a lane from its preset. -/
def loadPreset (l : Nat) (b : Blk) : Blk :=
  let pre := laneCfg b l 2
  let post := laneCfg b l 3
  ((b.wr F.LANE_TX_ACT_PRE l pre).wr F.LANE_TX_ACT_POST l post).wr F.LANE_TX_ACT_MAIN l (40 - pre - post)

/-- Entering TRAIN. -/
def enterTrain (u : Nat) (b : Blk) : Blk :=
  let b := forEach (b.unit u).lanes (fun l b =>
    let b := b.putLane l { b.lane l with frameAt := b.now, ready := 0, done := false }
    if unitKind u = 2 then loadPreset l b else b) b
  unitStep u stTrain b

/-- The owner enables a unit: it starts at DETECT with n at 0 (R303). -/
def unitStart (u : Nat) (b : Blk) : Blk :=
  enterDetect u (b.putUnit u { lanes := unitLanes b u })

/-- Scans of a unit's lanes end, aborted, when it leaves ACTIVE (R322). -/
def endScan (l : Nat) (b : Blk) : Blk :=
  let x := b.lane l
  match x.scan with
  | some _ =>
    let b := b.putLane l { x with scan := none, queued := false }
    laneEvent l 0x104 sevInfo 1 (evB 3) ((b.wr F.LANE_EYE_STAT_BUSY l 0).wr F.LANE_EYE_STAT_ABORTED l 1)
  | none => if x.queued then b.putLane l { x with queued := false } else b

/-- Severity of a down event (R326, R327). -/
def downSev (cause : Nat) : Nat := if cause = 5 ∨ cause = 6 then sevNotice else sevWarning

/-- An ACTIVE unit leaves ACTIVE: its down events and counts (R305, R326, R327); the port of a network unit goes down. -/
def leaveActive (u cause : Nat) (b : Blk) : Blk :=
  if (b.unit u).state ≠ stActive then b
  else
    let b := forEach (b.unit u).lanes (fun l b => endScan l (b.bump F.LANE_DOWNS_COUNT l)) b
    let b := unitEvent u 0x102 (downSev cause) cause (evB 1) b
    if unitKind u = 2 then chnEvent (u - 40) 0x101 (downSev cause) cause (evB 1) b
    else if unitKind u = 0 then nifDown u (if cause = 6 then 3 else cause) b
    else b

/-- A loss takes an ACTIVE unit to DETECT without back-off (R305); of a departing module to OFF (R306). -/
def unitDown (u cause : Nat) (b : Blk) : Blk :=
  if (b.unit u).state ≠ stActive then b
  else if departing b then unitStep u stOff (leaveActive u cause b)
  else enterDetect u (leaveActive u cause b)

/-- The owner disables a unit: it is OFF (R305 cause 6). -/
def unitStop (u : Nat) (b : Blk) : Blk :=
  let b := unitStep u stOff (leaveActive u 6 b)
  let b := if unitKind u = 2 then b.wr F.CHN_STAT_PEER_EJECTING (u - 40) 0 else b
  b.putUnit u {}

/-- The owner's registers changed: start, stop or restart the unit. -/
def unitRefresh (u : Nat) (b : Blk) : Blk :=
  if unitEnabled b u then
    if (b.unit u).state = stOff then (if departing b then b else unitStart u b)
    else if (b.unit u).lanes ≠ unitLanes b u then unitStart u (unitStop u b)
    else b
  else if (b.unit u).state = stOff then b
  else unitStop u b

/-- A step fails: the unit goes to BACKOFF for min(2 ^ (n − 1), 64) ms (R302, R303), with event 0x0100 for the first failure
since enable or ACTIVE and when the step or cause changes (R326). -/
def unitFail (u step cause : Nat) (b : Blk) : Blk :=
  let x := b.unit u
  let n := x.fails + 1
  let ms := Nat.min 64 (2 ^ Nat.min 6 (n - 1))
  let b := unitStep u stBackoff b
  let b := b.putUnit u { b.unit u with fails := n, till := b.now + ms * 1000000, told := some (step, cause) }
  let b := forEach x.lanes (fun l b =>
    ((b.wr F.LANE_STAT_LAST_FAIL l step).bump F.LANE_STAT_ATTEMPTS l).wr F.LANE_STAT_BACKOFF_MS l ms) b
  if x.told = some (step, cause) then b
  else
    let att := match x.lanes with | l :: _ => b.rd F.LANE_STAT_ATTEMPTS l | [] => 0
    unitEvent u 0x100 sevNotice (step + 8 * att + 2 ^ 11 * cause) (evB 1) b

/-- A unit becomes ACTIVE: event 0x0101 (R302, R326). -/
def unitActive (u : Nat) (b : Blk) : Blk :=
  let b := unitStep u stActive b
  let b := b.putUnit u { b.unit u with told := none }
  let b := forEach (b.unit u).lanes (fun l b => b.wr F.LANE_STAT_ATTEMPTS l 0) b
  unitEvent u 0x101 sevInfo 0 (evB 0) b

/-- Every unit in steps 1 to 5 stops when the module departs (R306); it fails with cause 5. -/
def unitsDepart (b : Blk) : Blk :=
  forEach (b.units.map (·.1)) (fun u b =>
    let st := (b.unit u).state
    if 1 ≤ st ∧ st ≤ 5 then
      let step := if st = stCaps then 5 else st
      let b := unitStep u stOff (unitFail u step 5 b)
      b.putUnit u { b.unit u with fails := 0 }
    else if st = stBackoff then unitStep u stOff b
    else b) b

/-- A soft reset of a LANE page: the unit goes down, the lane's counters clear, and the unit restarts at DETECT with n at 0. -/
def laneSoftReset (l : Nat) (b : Blk) : Blk :=
  let u := unitOfLane b l
  let b := match u with | some u => leaveActive u 6 b | none => b
  let b := b.putLane l { saved := (b.lane l).saved, based := (b.lane l).based }
  match u with
  | some u => if unitEnabled b u then unitStart u b else b
  | none => b

/-- A soft reset of a CHN page. -/
def chnSoftReset (p : Nat) (b : Blk) : Blk :=
  let b := b.putCport p {}
  if unitEnabled b (chnUnit p) then unitStart (chnUnit p) (leaveActive (chnUnit p) 6 b) else b

/-! ### Bring-up commands -/

/-- DETECT_PROBE: one probe of every lane of a unit; the second of two that sense every termination, at least 100 µs apart,
passes DETECT (R302). A display unit passes when its HPD and OWN_OUT let it. An enabled unit that is OFF starts. -/
def detectProbe (u : Nat) (sensed : Bool) (b : Blk) : Blk :=
  let b := if (b.unit u).state = stOff && unitEnabled b u && !departing b then unitStart u b else b
  let x := b.unit u
  if x.state ≠ stDetect ∨ unitKind u = 1 then b
  else if !sensed then b.putUnit u { x with probeAt := none }
  else match x.probeAt with
    | some t =>
      if t + 100000 ≤ b.now then
        if unitKind u = 0 && b.on F.NIF_CFG_AN_EN u then unitStep u stCaps b else enterTrain u b
      else b
    | none => b.putUnit u { x with probeAt := some b.now }

/-- DETECT_PROBE. -/
def execDetectProbe (dt unit : Nat) (sensed : Bool) (s : State) : Host.Outcome State Fault Refusal :=
  eff dt s (detectProbe unit sensed)

/-- Step and cause of the failure that the present instant brings, if any (R302). A port that refuses the partner's
capability frame stays in CAPS without a time-out (R321). -/
def stepFailure (b : Blk) (u : Nat) : Option (Nat × Nat) :=
  let x := b.unit u
  let past (t : Nat) : Bool := Nat.ble (x.since + t) b.now
  if unitKind u = 1 then none
  else if x.state = stDetect then (if past 1000000 then some (1, 1) else none)
  else if x.state = stTrain then
    if x.lanes.any fun l => !(b.lane l).done && Nat.ble ((b.lane l).frameAt + 2000000) b.now then some (2, 2)
    else if past 500000000 then some (2, 1) else none
  else if x.state = stBit then
    match x.lostAt with
    | some t => if t + 1000000 ≤ b.now then some (3, 3) else if past 20000000 then some (3, 1) else none
    | none => if past 20000000 then some (3, 1) else none
  else if x.state = stBlock then (if past 10000000 then some (4, 1) else none)
  else if x.state = stCaps then
    if unitKind u = 2 ∧ b.rd F.CHN_STAT_REFUSED (u - 40) = 1 then none
    else if past 50000000 then some (5, 1) else none
  else none

/-- BRINGUP_TIMEOUT (R302). -/
def execBringupTimeout (dt unit : Nat) (s : State) : Host.Outcome State Fault Refusal :=
  eff dt s fun b =>
    match stepFailure b unit with
    | some (step, cause) => unitFail unit step cause b
    | none => b

/-- BACKOFF_EXPIRY (R303). -/
def execBackoffExpiry (dt unit : Nat) (s : State) : Host.Outcome State Fault Refusal :=
  eff dt s fun b =>
    let x := b.unit unit
    if x.state = stBackoff ∧ x.till ≤ b.now then
      let b := enterDetect unit b
      if unitKind unit = 1 then b.wr F.OHD_STAT_LINK (unit - 16) 2 else b
    else b

/-- A tap request: the tap after it and the answer, 1 updated, 2 at minimum, 3 at maximum (R308). -/
def tapMove (req v top : Nat) : Nat × Nat :=
  if req = 1 then (if v < top then (v + 1, 1) else (v, 3))
  else if req = 2 then (if 0 < v then (v - 1, 1) else (v, 2))
  else (v, 0)

/-- The responder's part of a control field: PRE, POST and PRESET requests (R308). A request is applied once, and its answer
stands until hold comes. -/
def tapRequest (l control : Nat) (b : Blk) : Blk :=
  let x := b.lane l
  let rp := bits control 0 2
  let rq := bits control 2 2
  let fixed := laneCfg b l 1 = 1
  let b := if bit control 4 && !fixed then loadPreset l b else b
  let pre := tapMove rp (b.rd F.LANE_TX_ACT_PRE l) 6
  let post := tapMove rq (b.rd F.LANE_TX_ACT_POST l) 12
  let np := if fixed ∨ x.ansPre ≠ 0 then b.rd F.LANE_TX_ACT_PRE l else pre.1
  let nq := if fixed ∨ x.ansPost ≠ 0 then b.rd F.LANE_TX_ACT_POST l else post.1
  let ap := if rp = 0 ∨ rp = 3 then 0 else if x.ansPre ≠ 0 then x.ansPre else if fixed then 1 else pre.2
  let aq := if rq = 0 ∨ rq = 3 then 0 else if x.ansPost ≠ 0 then x.ansPost else if fixed then 1 else post.2
  (((b.wr F.LANE_TX_ACT_PRE l np).wr F.LANE_TX_ACT_POST l nq).wr F.LANE_TX_ACT_MAIN l (40 - np - nq)).putLane l
    { x with ansPre := ap, ansPost := aq }

/-- TRAINING_FRAME (R304, R307 to R309): a frame with `bad` marker UI in error, inverted or not, its control and status
fields, and whether this end's receiver is trained. A valid frame ends a back-off. The module's own frames answer with its status; its
control field holds, since what the module asks of the partner's taps is its receiver's to decide. For a network unit it also shows that
the auto-negotiation pages are done (DEDUCED). -/
def trainingFrame (l bad : Nat) (inverted : Bool) (control status : Nat) (trained : Bool) (b : Blk) : Blk :=
  match unitOfLane b l with
  | none => b
  | some u =>
    let ok := Nat.ble bad 2 && (!inverted || laneCfg b l 0 == 1)
    if !ok || unitKind u == 1 then b
    else
      let st := (b.unit u).state
      let b := if st = stBackoff ∨ (unitKind u = 0 ∧ st = stCaps) then enterTrain u b else b
      if (b.unit u).state ≠ stTrain then b
      else
        let b := (b.wr F.LANE_STAT_SIGNAL l 1).put F.LANE_STAT_RX_INV l inverted
        let b := if unitKind u = 2 then tapRequest l control b else b
        let x := b.lane l
        let run := if bit status 4 && trained then x.ready + 1 else 0
        let b := b.putLane l { x with frameAt := b.now, ready := run, readyAt := if run = 16 then b.now else x.readyAt }
        if unitKind u = 2 then b.emit (.training l 0 (x.ansPre + 4 * x.ansPost + 16 * b2n trained)) else b

/-- TRAINING_FRAME. -/
def execTrainingFrame (dt lane bad : Nat) (inverted : Bool) (control status : Nat) (trained : Bool) (s : State) :
    Host.Outcome State Fault Refusal := eff dt s (trainingFrame lane bad inverted control status trained)

/-- TRAINING_COMPLETE (R309): 256 training frames of 77.1 ns after the sixteenth ready frame in a row a lane starts its block
stream; when every lane of the unit has, TRAIN passes (R302). Network lanes complete as their clause has it. -/
def trainingComplete (l : Nat) (b : Blk) : Blk :=
  match unitOfLane b l with
  | none => b
  | some u =>
    let x := b.lane l
    let ok := (b.unit u).state == stTrain && !x.done
      && (unitKind u == 0 || (unitKind u == 2 && Nat.ble 16 x.ready && Nat.ble (x.readyAt + 19738) b.now))
    if !ok then b
    else
      let b := b.putLane l { x with done := true, tx := {} }
      if (b.unit u).lanes.all fun k => (b.lane k).done then unitStep u stBit b else b

/-- TRAINING_COMPLETE. -/
def execTrainingComplete (dt lane : Nat) (s : State) : Host.Outcome State Fault Refusal := eff dt s (trainingComplete lane)

/-- BIT_LOCK (R302): clock recovery and adaptation have converged on every lane. -/
def execBitLock (dt unit : Nat) (s : State) : Host.Outcome State Fault Refusal :=
  eff dt s fun b => if unitKind unit ≠ 1 ∧ (b.unit unit).state = stBit then unitStep unit stBlock b else b

/-- The lanes of a Chaino unit hunt (R313): each takes up what it observes, and the scrambled bits before the block that locked it. -/
def huntLanes (lanes : List Nat) (hunts : List LaneHunt) (b : Blk) : Blk :=
  forEach (lanes.zip hunts) (fun e b =>
    let x := b.lane e.1
    let y := lineRun x.line e.2.obs
    b.putLane e.1 { x with line := if y.st = lineLocked then { y with scr := e.2.tail % 2 ^ 58 } else y }) b

/-- Every lane of a Chaino unit is in block lock, and their markers name all four logical lanes (R313, R314). -/
def lanesLocked (b : Blk) (lanes : List Nat) : Bool :=
  lanes.all (fun l => (b.lane l).line.st == lineLocked)
    && (List.range 4).all fun k => lanes.any fun l => (b.lane l).line.logical == k

/-- BLOCK_LOCK (R302, R313, R314, R318): what the lanes hunt through, the skew measured in 0.1 ns, and the deskew delay of logical lane 0 in
0.1 ns. A skew above 180 ns fails the step. A network unit locks as its clause has it. -/
def blockLock (u skew delay : Nat) (hunts : List LaneHunt) (b : Blk) : Blk :=
  if (b.unit u).state ≠ stBlock ∨ unitKind u = 1 then b
  else if unitKind u = 0 then (if 1800 < skew then unitFail u 4 4 b else unitActive u b)
  else
    let b := huntLanes (b.unit u).lanes hunts b
    if !lanesLocked b (b.unit u).lanes then b
    else if 1800 < skew then unitFail u 4 4 b
    else
      let p := u - 40
      let b := (b.wr F.CHN_STAT_SKEW p skew).wr F.CHN_LAT_RX p (960 + delay)
      let b := forEach (b.unit u).lanes (fun l b => b.wr F.LANE_STAT_LOGICAL l (b.lane l).line.logical) b
      unitStep u stCaps (b.putCport p { b.cport p with accepted := false, told := [], frame := none, group := none })

/-- BLOCK_LOCK. -/
def execBlockLock (dt unit skew delay : Nat) (hunts : List LaneHunt) (s : State) : Host.Outcome State Fault Refusal :=
  eff dt s (blockLock unit skew delay hunts)

/-- Block lock of a Chaino lane is lost once it hunts again (R313); a network lane has its standard's equivalent. -/
def lockLost (u l : Nat) (b : Blk) : Bool := unitKind u != 2 || (b.lane l).line.st != lineLocked

/-- SIGNAL_LOSS (R305, R302): the signal of a lane is lost (cause 1), or its block lock (cause 2), which on a Chaino lane is what it observes.
A Chaino port whose partner announced its departure goes down with cause 5 (R306). In BIT_LOCK the loss begins its 1.0 ms. -/
def signalLoss (l cause : Nat) (obs : List LineObs) (b : Blk) : Blk :=
  match unitOfLane b l with
  | none => b
  | some u =>
    let b := if cause = 1 then b.wr F.LANE_STAT_SIGNAL l 0
      else if unitKind u = 2 then b.putLane l { b.lane l with line := lineRun (b.lane l).line obs }
      else b
    let x := b.unit u
    if x.state = stActive then
      if cause = 1 then unitDown u (if unitKind u = 2 ∧ b.on F.CHN_STAT_PEER_EJECTING (u - 40) then 5 else 1) b
      else if lockLost u l b then unitDown u 2 b
      else b
    else if x.state = stBit ∧ cause = 1 ∧ x.lostAt = none then b.putUnit u { x with lostAt := some b.now }
    else b

/-- SIGNAL_LOSS. -/
def execSignalLoss (dt lane cause : Nat) (obs : List LineObs) (s : State) : Host.Outcome State Fault Refusal :=
  eff dt s (signalLoss lane cause obs)

/-- ACTIVE_HOLD (R303). -/
def execActiveHold (dt unit : Nat) (s : State) : Host.Outcome State Fault Refusal :=
  eff dt s fun b =>
    let x := b.unit unit
    if x.state = stActive ∧ x.since + 1000000000 ≤ b.now then b.putUnit unit { x with fails := 0 } else b

/-! ### The Chaino link layer -/

/-- Channels carried on a port (R317). -/
def chnCarries (p c : Nat) : Bool := if p = 0 then Nat.ble c 3 else c == 0 || (Nat.ble 4 c && Nat.ble c 6)

/-- The port is ACTIVE. -/
def chnUp (b : Blk) (p : Nat) : Bool := (b.unit (chnUnit p)).state == stActive

/-- The words of the capability frame that the module sends on a port (R319). -/
def capWords (b : Blk) (p : Nat) : List Nat :=
  let acc := (b.cport p).accepted || chnUp b p
  let w := [0x4F4E4843, 0x0100 + 65536 * b.rd F.SYS_PART_PART 0, b.rd F.SYS_SERIAL_LO_SERIAL 0, b.rd F.SYS_SERIAL_HI_SERIAL 0,
    p + 256 * (b.rd F.SYS_STRAPS_SEAT 0 + 16 * b.rd F.SYS_STRAPS_SLOT 0) + 65536 * b.rd F.SYS_STRAPS_ENS_POS 0
      + 2 ^ 24 * b.rd F.SYS_ROLE_ROLE 0,
    b.rd F.SYS_VARIANT_USABLE_GIB 0 + 65536 * b.rd F.CLK_STAT_QUALITY_OUT 0 + 2 ^ 24 * (if b.rd F.ENS_STAT_STATE 0 = 0 ∨ b.rd F.ENS_STAT_STATE 0 = 4 then 0xFF
      else b.rd F.ENS_STAT_LEVEL 0),
    (if p = 0 then 0x0F else 0x71), 0xF + 256 * (b2n acc + 2 * b.rd F.SYS_STAT_EJECTING 0),
    (if acc then b.rd F.CHN_PEER_WORD p 2 else 0), (if acc then b.rd F.CHN_PEER_WORD p 3 else 0),
    b.now % 2 ^ 32, b.now / 2 ^ 32 % 2 ^ 32, 0, 0, 0]
  w ++ [crc32c (w.flatMap (leBytes 4))]

/-- Hand one block of a port to its logical lane (R314), which sends the codewords that it completes. The IDLE blocks of R315 that fill the
time between frames are not sent (see the log). -/
def sendBlock (p : Nat) (e : Nat × Nat) (b : Blk) : Blk :=
  let x := b.cport p
  let k := x.txAt % 4
  let l := 80 + 4 * p + k
  let r := txBlock k e.1 e.2 (b.lane l).tx
  let b := (b.putLane l { b.lane l with tx := r.1 }).putCport p { x with txAt := x.txAt + 1 }
  forEach r.2 (fun cw b => b.emit (.codeword l cw)) b

/-- Send blocks in order. -/
def sendBlocks (p : Nat) (l : List (Nat × Nat)) (b : Blk) : Blk := forEach l (fun e b => sendBlock p e b) b

/-- Send a frame on a channel of a port: its sequence number goes up and CHN_FRAMES_TX counts (R315). -/
def chnSend (p c : Nat) (words : List Nat) (b : Blk) : Blk :=
  let x := b.cport p
  let b := b.putCport p { x with seq := mset x.seq c ((mgetD x.seq c 0 + 1) % 65536) }
  sendBlocks p (frameBlocks c (mgetD x.seq c 0) (wordBlocks words)) ((b.emit (.chaino p c words)).bump F.CHN_FRAMES_TX_COUNT p)

/-- Send an express group: no sequence number, no frame count. -/
def chnExpress (p c : Nat) (words : List Nat) (b : Blk) : Blk :=
  sendBlocks p (groupBlocks c (wordBlocks words)) (b.emit (.chaino p c words))

/-- GOODBYE on every ACTIVE Chaino port (R306): an express group of channel 0 with N = 0. -/
def sendGoodbyes (b : Blk) : Blk :=
  forEach (List.range 4) (fun p b => if chnUp b p then chnExpress p 0 [] b else b) b

/-- Event 0x0103 for a second of discards that has ended (R327). -/
def chnReport (p : Nat) (b : Blk) : Blk :=
  match (b.cport p).drops with
  | some (t, n, k) =>
    if t + 1000000000 ≤ b.now then
      chnEvent p 0x103 sevNotice (Nat.min 65535 n + 65536 * k) 0 (b.putCport p { b.cport p with drops := none })
    else b
  | none => b

/-- A frame or group is discarded: kind 1 CRC or marked block, 2 malformed, 3 channel (R316, R327). -/
def chnDiscard (p kind : Nat) (b : Blk) : Blk :=
  let b := b.bump (if kind = 1 then F.CHN_CRC_ERR_COUNT else F.CHN_DISCARDED_COUNT) p
  let x := b.cport p
  b.putCport p { x with drops := match x.drops with | some (t, n, k) => some (t, n + 1, k) | none => some (b.now, 1, kind) }

/-- CAP_FRAME_SEND (R320): every 10 µs in CAPS, every CAP_PERIOD when ACTIVE. -/
def capFrameSend (p : Nat) (b : Blk) : Blk :=
  let st := (b.unit (chnUnit p)).state
  let gap := if st = stCaps then 10000 else b.rd F.CHN_CFG_CAP_PERIOD p * 100000
  let b := chnReport p b
  if (st = stCaps ∨ st = stActive) ∧ ((b.cport p).capAt = 0 ∨ (b.cport p).capAt + gap ≤ b.now) then
    let w := capWords b p
    let b := (w.zipIdx).foldl (fun b e => b.wr F.CHN_OWN_WORD p e.1 e.2) b
    chnSend p 0 w (b.putCport p { b.cport p with capAt := b.now })
  else b

/-- CAP_FRAME_SEND. -/
def execCapFrameSend (dt port : Nat) (s : State) : Host.Outcome State Fault Refusal := eff dt s (capFrameSend port)

/-- The refusal cause of a capability frame, 0 when it passes (R321). -/
def capCause (b : Blk) (p : Nat) (w : List Nat) : Nat :=
  let g (k : Nat) := w.getD k 0
  if g 0 ≠ 0x4F4E4843 ∨ bits (g 1) 8 8 ≠ 1 then 1
  else if bits (g 1) 16 16 ≠ 0x0960 then 2
  else if bits (g 4) 0 8 ≠ (if p = 1 then 2 else if p = 2 then 1 else p) then 3
  else if g 2 = b.rd F.SYS_SERIAL_LO_SERIAL 0 ∧ g 3 = b.rd F.SYS_SERIAL_HI_SERIAL 0 then 4
  else if bits (g 7) 0 8 ≠ 0xF then 5
  else 0

/-- The fields whose change takes an ACTIVE port down: all but role, quality, level, flags and time (R320). -/
def capIdentity (w : List Nat) : List Nat :=
  let g (k : Nat) := w.getD k 0
  [g 0, g 1, g 2, g 3, g 4 % 2 ^ 24, g 5 % 65536, g 6, g 7 % 256, g 7 / 65536, g 8, g 9, g 12, g 13, g 14]

/-- Keep a capability frame of the partner. -/
def capKeep (p : Nat) (w : List Nat) (b : Blk) : Blk :=
  ((w.zipIdx).foldl (fun b e => b.wr F.CHN_PEER_WORD p e.1 e.2) b).wr F.CHN_STAT_PEER_PORT p (bits (w.getD 4 0) 0 2)

/-- CAPABILITY_FRAME (R320, R321): 16 words received whole. A frame whose own check value fails is discarded (DEDUCED). -/
def capabilityFrame (p : Nat) (w : List Nat) (b : Blk) : Blk :=
  let st := (b.unit (chnUnit p)).state
  if st ≠ stCaps ∧ st ≠ stActive then b
  else if w.length ≠ 16 ∨ w.getD 15 0 ≠ crc32c ((w.take 15).flatMap (leBytes 4)) then chnDiscard p 1 b
  else
    let b := b.bump F.CHN_FRAMES_RX_COUNT p
    if st = stActive then
      let old := (List.range 16).map fun k => b.rd F.CHN_PEER_WORD p k
      if capIdentity old = capIdentity w then capKeep p w b else unitDown (chnUnit p) 7 b
    else
      let why := capCause b p w
      if why ≠ 0 then
        let b := (b.wr F.CHN_STAT_REFUSED p 1).wr F.CHN_STAT_CAUSE p why
        if (b.cport p).told.contains why then b
        else chnEvent p 0x102 sevWarning why (evB 2) (b.putCport p { b.cport p with told := why :: (b.cport p).told })
      else
        let b := capKeep p w ((b.wr F.CHN_STAT_REFUSED p 0).wr F.CHN_STAT_CAUSE p 0)
        let b := b.putCport p { b.cport p with accepted := true }
        if bit (w.getD 7 0) 8 && w.getD 8 0 == b.rd F.SYS_SERIAL_LO_SERIAL 0 && w.getD 9 0 == b.rd F.SYS_SERIAL_HI_SERIAL 0 then
          chnEvent p 0x100 sevNotice (bits (w.getD 4 0) 0 2) (evB 0)
            ((unitActive (chnUnit p) b).wr F.CHN_STAT_PEER_EJECTING p 0)
        else b

/-- CAPABILITY_FRAME. -/
def execCapabilityFrame (dt port : Nat) (words : List Nat) (s : State) : Host.Outcome State Fault Refusal :=
  eff dt s (capabilityFrame port words)

/-- GOODBYE_RX (R306): event 0x0104. -/
def goodbyeRx (p : Nat) (b : Blk) : Blk :=
  if chnUp b p then chnEvent p 0x104 sevNotice 0 (evB 3) ((b.wr F.CHN_STAT_PEER_EJECTING p 1).bump F.CHN_EXPRESS_RX_COUNT p) else b

/-! ### Reception (R310, R311, R314 to R316) -/

/-- One codeword arrives on a lane: LANE_FEC_CORR, LANE_FEC_UNCORR and LANE_HDR_ERR count (R311, R313), and its blocks wait in the deskew
buffer. An ACTIVE unit whose lane loses block lock goes down (R305). -/
def laneCodeword (u l : Nat) (cw : List Nat) (b : Blk) : Blk :=
  let x := b.lane l
  if x.line.st ≠ lineLocked then b
  else
    let r := rxCodeword cw x.line
    let b := ((b.bump F.LANE_FEC_CORR_COUNT l r.2.1).bump F.LANE_FEC_UNCORR_COUNT l (b2n r.2.2.1)).bump F.LANE_HDR_ERR_COUNT l r.2.2.2
    let b := b.putLane l { x with line := r.1, hourCorr := x.hourCorr + r.2.1 }
    if lockLost u l b then unitDown u 2 b else b

/-- A unit of reception is complete: marked or with a failed CRC, on a channel not carried, or received whole (R316). The owners of the
channels other than channel 0 have commands of their own for what they receive. -/
def frameWhole (p : Nat) (x : RxUnit) (crc : Nat) (b : Blk) : Blk :=
  if x.bad ∨ crc ≠ crc32c (dataBytes x.data) then chnDiscard p 1 b
  else if !chnCarries p x.chan then chnDiscard p 3 b
  else if x.chan = 0 ∧ x.len = 8 then capabilityFrame p (blockWords x.data) b
  else b.bump F.CHN_FRAMES_RX_COUNT p

/-- A group of channel 0 with no data block is a GOODBYE (R306). -/
def groupWhole (p : Nat) (x : RxUnit) (b : Blk) : Blk :=
  if x.bad ∨ x.crc ≠ crc32c (x.chan :: dataBytes x.data) then chnDiscard p 1 b
  else if !chnCarries p x.chan then chnDiscard p 3 b
  else if x.chan = 0 ∧ x.len = 0 ∧ chnUp b p then goodbyeRx p b
  else b.bump F.CHN_EXPRESS_RX_COUNT p

/-- A data block: of the express group that is open, else of the frame (R315). A frame with more data blocks than LENGTH is malformed. -/
def dataBlock (p v : Nat) (marked : Bool) (b : Blk) : Blk :=
  let c := b.cport p
  match c.group, c.frame with
  | some g, _ =>
    let g := { g with data := g.data ++ [v], bad := g.bad || marked }
    if g.data.length = g.len then groupWhole p g (b.putCport p { c with group := none })
    else b.putCport p { c with group := some g }
  | none, some f =>
    let f := { f with data := f.data ++ [v], bad := f.bad || marked }
    if f.len < f.data.length then chnDiscard p (if f.bad then 1 else 2) (b.putCport p { c with frame := none })
    else b.putCport p { c with frame := some f }
  | none, none => b

/-- A group whose data blocks do not follow its EXPRESS block directly is discarded. -/
def groupCut (p : Nat) (b : Blk) : Blk :=
  match (b.cport p).group with
  | some _ => chnDiscard p 1 (b.putCport p { b.cport p with group := none })
  | none => b

/-- A control block (R315, R316). -/
def controlBlock (p v : Nat) (marked : Bool) (b : Blk) : Blk :=
  let b := groupCut p b
  let c := b.cport p
  match v % 256 with
  | 0x78 =>
    let b := if c.frame.isSome then chnDiscard p 2 b else b
    b.putCport p { b.cport p with frame := some { chan := bits v 8 8, len := bits v 16 16, bad := marked } }
  | 0x87 =>
    match c.frame with
    | some f =>
      let b := b.putCport p { c with frame := none }
      if f.bad || marked then chnDiscard p 1 b
      else if f.data.length ≠ f.len ∨ bits v 8 8 ≠ f.chan ∨ f.len = 0 ∨ 1024 < f.len then chnDiscard p 2 b
      else frameWhole p f (bits v 16 32) b
    | none => b
  | 0x4B =>
    let g : RxUnit := { chan := bits v 8 8, len := bits v 16 2, crc := bits v 24 32, bad := marked }
    if g.len = 0 then groupWhole p g b else b.putCport p { b.cport p with group := some g }
  | _ => b

/-- One block of a port, in the order of the logical lanes. A block with an invalid header belongs to nothing; a group that is open is cut. -/
def portBlock (p : Nat) (e : Nat × Nat × Bool) (b : Blk) : Blk :=
  if e.1 = hdrData then dataBlock p e.2.1 e.2.2 b
  else if e.1 = hdrControl then controlBlock p e.2.1 e.2.2 b
  else groupCut p b

/-- The lane of a port that carries a logical lane (R314). -/
def logicalLane (b : Blk) (p k : Nat) : Nat :=
  ((fromTo (80 + 4 * p) 4).find? fun l => (b.lane l).line.logical == k).getD (80 + 4 * p + k)

/-- Take rows of four blocks, one of each logical lane, out of the deskew buffer (R314). -/
def takeRows (p : Nat) : Nat → Blk → Blk
  | 0, b => b
  | n + 1, b =>
    let ls := (List.range 4).map (logicalLane b p)
    let heads := ls.map fun l => (b.lane l).line.queue.head?
    if lanesLocked b ls && heads.all Option.isSome then
      let b := forEach ls (fun l b =>
        let x := b.lane l
        b.putLane l { x with line := { x.line with queue := x.line.queue.drop 1 } }) b
      takeRows p n (forEach (heads.filterMap id) (fun e b => portBlock p e b) b)
    else b

/-- The codewords of the four lanes of a port, in the order of CL(4p) to CL(4p + 3). -/
def laneCodewords (p : Nat) (codewords : List (List (List Nat))) (b : Blk) : Blk :=
  forEach ((fromTo (80 + 4 * p) 4).zip codewords) (fun e b => forEach e.2 (fun cw b => laneCodeword (chnUnit p) e.1 cw b) b) b

/-- Codewords arrive on a port while it is in CAPS or ACTIVE. -/
def portRx (p : Nat) (codewords : List (List (List Nat))) (b : Blk) : Blk :=
  let b := chnReport p b
  let st := (b.unit (chnUnit p)).state
  if st ≠ stCaps ∧ st ≠ stActive then b
  else
    let b := laneCodewords p codewords b
    takeRows p ((b.lane (logicalLane b p 0)).line.queue.length) b

/-- CHAINO_FRAME_RX (R310, R311, R314 to R316): the codewords that bring a frame to its end; it is received whole and delivered to its
channel, or discarded. -/
def chainoFrameRx (p : Nat) (codewords : List (List (List Nat))) (b : Blk) : Blk := portRx p codewords b

/-- CHAINO_FRAME_RX. -/
def execChainoFrameRx (dt port : Nat) (codewords : List (List (List Nat))) (s : State) : Host.Outcome State Fault Refusal :=
  eff dt s (chainoFrameRx port codewords)

/-- EXPRESS_GROUP_RX (R310, R311, R315, R316, R318): the codewords that bring an express group; it may stand between the blocks of a
frame. Its time stamp is the stage time of the command. -/
def expressGroupRx (p : Nat) (codewords : List (List (List Nat))) (b : Blk) : Blk := portRx p codewords b

/-! ### Eye scans -/

/-- A network lane that runs NRZ. -/
def laneNrz (b : Blk) (l : Nat) : Bool :=
  match unitOfLane b l with
  | some u => unitKind u == 0 && b.rd F.NIF_CFG_SPEED u == 1
  | none => false

/-- ns for `n` unit intervals of a lane: 26.5625 GBd, or 25.78125 GBd for NRZ, rounded up. -/
def uiNs (nrz : Bool) (n : Nat) : Nat := if nrz then cdiv (n * 32) 825 else cdiv (n * 16) 425

/-- The time of one scan point: 10 µs and 10 ^ DWELL unit intervals (R322). -/
def pointNs (nrz : Bool) (dwell : Nat) : Nat := 10000 + uiNs nrz (10 ^ dwell)

/-- The lane's unit is ACTIVE. -/
def laneActive (b : Blk) (l : Nat) : Bool :=
  match unitOfLane b l with
  | some u => (b.unit u).state == stActive
  | none => false

/-- The reading of the die sensor beside a network or Chaino lane, 0.1 °C: sensors 12 to 15, in lane order, 12 lanes each. -/
def laneTemp (b : Blk) (l : Nat) : Int := sgn 16 (b.rd F.THM_TEMP_TEMP 0 (12 + (if l < 32 then l else l - 48) / 12 % 4))

/-- An extra quick scan (R458): the sensor has moved by 20 °C since the last quick scan, at most once per hour. -/
def extraDue (b : Blk) (l : Nat) : Bool :=
  let x := b.lane l
  x.based && Nat.ble 200 (laneTemp b l - x.quickTemp).natAbs && Nat.ble (x.extraAt + 3600000000000) b.now

/-- The quick scan of a lane is due or running: a multiple of PERIOD_H hours has passed since the last (R324), or an extra one is
due. -/
def quickDue (b : Blk) (l : Nat) : Bool :=
  let h := b.rd F.LANE_MARGIN_CFG_PERIOD_H l * 3600000000000
  laneActive b l && (Nat.blt l 32 || Nat.ble 80 l)
    && ((h != 0 && Nat.blt ((b.lane l).quickAt / h) (b.now / h)) || extraDue b l)

/-- A user scan begins: its parameters are taken and every entry is cleared (R322, R323). -/
def scanBegin (l : Nat) (b : Blk) : Blk :=
  let g (f : Fld) := b.rd f l
  let b := b.putLane l { b.lane l with
                         scan := some [g F.LANE_EYE_CTRL_PH_N + 1, g F.LANE_EYE_CTRL_V_N + 1, g F.LANE_EYE_CTRL_DWELL], scanDone := 0, pointAt := b.now,
                         queued := false }
  let b := b.rstRange (0x80000 + l * 0x1000 + 0x800) (0x80000 + l * 0x1000 + 0x1000)
  ((((b.wr F.LANE_EYE_STAT_BUSY l 1).wr F.LANE_EYE_STAT_DONE l 0).wr F.LANE_EYE_STAT_ABORTED l 0).wr
    F.LANE_EYE_STAT_REFUSED l 0).wr F.LANE_EYE_STAT_POINTS l 0

/-- A write of START (R322): ignored while BUSY, refused, begun, or held until a quick scan ends (R324). -/
def eyeStart (l : Nat) (b : Blk) : Blk :=
  if b.on F.LANE_EYE_STAT_BUSY l then b
  else if !laneActive b l ∨ (32 ≤ l ∧ l < 80) ∨ (laneNrz b l ∧ b.rd F.LANE_EYE_CTRL_EYE l ≠ 1) then
    b.wr F.LANE_EYE_STAT_REFUSED l 1
  else if quickDue b l then
    (b.putLane l { b.lane l with queued := true }).wr F.LANE_EYE_STAT_REFUSED l 0
  else scanBegin l b

/-- A write of ABORT ends a scan (R322). -/
def eyeAbort (l : Nat) (b : Blk) : Blk := endScan l b

/-- EYE_POINT_DONE (R323): the entry of the point, and after the last one the end of the scan. -/
def eyePointDone (l errs : Nat) (b : Blk) : Blk :=
  let x := b.lane l
  match x.scan with
  | none => b
  | some q =>
    let np := q.getD 0 1
    if b.now < x.pointAt + pointNs (laneNrz b l) (q.getD 2 5) then b
    else
      let e := x.scanDone / np * 32 + x.scanDone % np
      let b := b.wr (if e % 2 = 0 then F.LANE_EYE_RES_LO else F.LANE_EYE_RES_HI) l (Nat.min 4095 errs) (e / 2)
      let n := x.scanDone + 1
      let b := b.wr F.LANE_EYE_STAT_POINTS l n
      if n = np * q.getD 1 1 then
        let b := b.putLane l { x with scan := none, scanDone := n }
        laneEvent l 0x104 sevInfo 0 (evB 3) ((b.wr F.LANE_EYE_STAT_BUSY l 0).wr F.LANE_EYE_STAT_DONE l 1)
      else b.putLane l { x with scanDone := n, pointAt := b.now }

/-- EYE_POINT_DONE. -/
def execEyePointDone (dt lane errs : Nat) (s : State) : Host.Outcome State Fault Refusal := eff dt s (eyePointDone lane errs)

/-- Consecutive zero entries of a list from its front. -/
def zeroRun : List Nat → Nat
  | [] => 0
  | x :: t => if x = 0 then zeroRun t + 1 else 0

/-- Consecutive zero-error points that include the point at index 32; 0 when that point has errors (R324). -/
def zeroSpan (l : List Nat) : Nat :=
  if l.getD 32 1 ≠ 0 then 0 else zeroRun (l.drop 32) + zeroRun ((l.take 32).reverse)

/-- QUICK_SCAN (R324, R325): disagreements at 64 phase points and 64 voltage points. -/
def quickScan (l : Nat) (ph vo : List Nat) (b : Blk) : Blk :=
  if !quickDue b l || b.on F.LANE_EYE_STAT_BUSY l then b
  else
    let w := zeroSpan ph
    let h := 2 * zeroSpan vo
    let x := b.lane l
    let b := (b.wr F.LANE_MARGIN_WIDTH l w).wr F.LANE_MARGIN_HEIGHT l h
    let fresh := !x.based || x.rebase
    let b := if fresh then
        (((b.wr F.LANE_MARGIN_BASE_WIDTH l w).wr F.LANE_MARGIN_BASE_HEIGHT l h).wr F.LANE_MARGIN_MIN_WIDTH l w).wr
          F.LANE_MARGIN_MIN_HEIGHT l h
      else (b.wr F.LANE_MARGIN_MIN_WIDTH l (Nat.min w (b.rd F.LANE_MARGIN_MIN_WIDTH l))).wr F.LANE_MARGIN_MIN_HEIGHT l
        (Nat.min h (b.rd F.LANE_MARGIN_MIN_HEIGHT l))
    let b := b.putLane l { x with quickAt := b.now, based := true, rebase := false, quickTemp := laneTemp b l,
                                  extraAt := if extraDue b l then b.now else x.extraAt }
    let pct := b.rd F.LANE_MARGIN_CFG_LIMIT_PCT l
    let low := w * 100 < pct * b.rd F.LANE_MARGIN_BASE_WIDTH l ∨ h * 100 < pct * b.rd F.LANE_MARGIN_BASE_HEIGHT l ∨ w < 8 ∨ h < 12
    let b := if low then laneEvent l 0x103 sevWarning (Nat.min 63 w + 64 * (h / 2)) (evB 2) b else b
    if (b.lane l).queued then scanBegin l b else b

/-- QUICK_SCAN. -/
def execQuickScan (dt lane : Nat) (phase volt : List Nat) (s : State) : Host.Outcome State Fault Refusal :=
  eff dt s (quickScan lane phase volt)

/-- Baselines and least values go to the EEPROM (R325). -/
def marginsSave (b : Blk) : Blk :=
  forEach ((b.lanes.filter (·.2.based)).map (·.1)) (fun l b =>
    let v := [b.rd F.LANE_MARGIN_BASE_WIDTH l, b.rd F.LANE_MARGIN_BASE_HEIGHT l, b.rd F.LANE_MARGIN_MIN_WIDTH l,
      b.rd F.LANE_MARGIN_MIN_HEIGHT l]
    b.putLane l { b.lane l with saved := some v }) b

/-- They are restored at power-up (R325). -/
def marginsRestore (b : Blk) : Blk :=
  forEach (b.lanes.map (·.1)) (fun l b => match (b.lane l).saved with
    | some v => (((((b.wr F.LANE_MARGIN_BASE_WIDTH l (v.getD 0 0)).wr F.LANE_MARGIN_BASE_HEIGHT l (v.getD 1 0)).wr
        F.LANE_MARGIN_MIN_WIDTH l (v.getD 2 0)).wr F.LANE_MARGIN_MIN_HEIGHT l (v.getD 3 0)).putLane l
          { b.lane l with based := true })
    | none => b) b

/-- LANE_SER_HOUR (R325). -/
def execLaneSerHour (dt lane : Nat) (s : State) : Host.Outcome State Fault Refusal :=
  eff dt s fun b =>
    let x := b.lane lane
    let h := b.now / 3600000000000
    if 80 ≤ lane ∧ lane < 96 ∧ x.hour < h then
      (b.wr F.LANE_SER_COUNT lane (Nat.min (2 ^ 32 - 1) x.hourCorr)).putLane lane { x with hourCorr := 0, hour := h }
    else b

end Sys2Proof.Machine
end

