-- ==== Sys2Proof/Machine/Heads.lean ====
section
/-!
DEFINITION. Output heads (chapter "Output heads"): timing and genlock, the curtain, hot-plug detect, AUX, EDID, link training
and the ST 2110-20 output.
-/

namespace Sys2Proof.Machine

def ohdPage (h : Nat) : Page := ⟨.ohd, h⟩

/-- An event of an OHD page: the detail holds the head (R271). -/
def ohdEvent (h code sev d evt : Nat) (b : Blk) : Blk := raise (ohdPage h) code sev (d % 2 ^ 17 + 2 ^ 17 * h) evt b

def Blk.head (b : Blk) (h : Nat) : HeadSt := mgetD b.heads h {}
def Blk.putHead (b : Blk) (h : Nat) (x : HeadSt) : Blk := { b with heads := mset b.heads h x }

/-- The head's timing generator runs (R244, R173). -/
def headRuns (b : Blk) (h : Nat) : Bool := enabled b (ohdPage h) && !headTaken b h

/-! ### Rates and capacity (R245, R247) -/

/-- Payload rate per lane in 100 kb/s by RATE_ACT code 1 to 4 (R245). -/
def laneRate (r : Nat) : Nat := match r with | 1 => 64800 | 2 => 96970 | 3 => 130909 | 4 => 193939 | _ => 0

/-- Bits per pixel of the link format (R246). -/
def linkBits (b : Blk) (h : Nat) : Nat :=
  let d8 := b.on F.OHD_CTRL_DEPTH8 h
  if b.rd F.OHD_CTRL_FORMAT h = 2 then (if d8 then 16 else 20) else (if d8 then 24 else 30)

/-- Lanes of the link (R244). -/
def linkLanes (b : Blk) (h : Nat) : Nat := if b.on F.OHD_CTRL_FOURLANE h then 4 else 2

/-- The pixel clock as a ratio, Hz (R250). -/
def pixClock (b : Blk) (h : Nat) : Nat × Nat :=
  if b.on F.OHD_CTRL_GENLOCK h then
    (b.rd F.OHD_HTIM0_TOTAL h * b.rd F.OHD_VTIM0_TOTAL h * b.rd F.OHD_FRATE_NUM h, b.rd F.OHD_FRATE_DEN h)
  else (b.rd F.OHD_PCLK_HZ h, 1)

/-- Time slots of one of two streams for a capacity of `c` × 100 kb/s (R247). -/
def mstSlots (clk : Nat × Nat) (bpp c : Nat) : Nat := cdiv (64 * clk.1 * bpp) (2 * clk.2 * c * 100000) + 1

/-- A rate carries the mode (R247). -/
def rateCarries (b : Blk) (h r : Nat) : Bool :=
  let c := linkLanes b h * laneRate r
  let p := pixClock b h
  if b.on F.OHD_CTRL_MST h then Nat.ble (2 * mstSlots p (linkBits b h) c) 63
  else Nat.ble (p.1 * linkBits b h) (c * 100000 * p.2)

/-- Rates set in RATES, as codes, highest first. -/
def ratesSet (b : Blk) (h : Nat) : List Nat := [4, 3, 2, 1].filter fun r => bit (b.rd F.OHD_CTRL_RATES h) (r - 1)

/-- A rate that the sink offers: HBR3 by DPCD 0x00001, UHBR rates by 0x02215. PRESUMED: the DPCD's own bit places. -/
def sinkRate (b : Blk) (h r : Nat) : Bool :=
  let d := (b.head h).dpcd
  match r with
  | 1 => Nat.ble 0x1E (mgetD d 0x00001 0)
  | 2 => bit (mgetD d 0x02215 0) 0
  | 3 => bit (mgetD d 0x02215 0) 2
  | 4 => bit (mgetD d 0x02215 0) 1
  | _ => false

/-- The rates to try, highest first: permitted, offered by the sink, and carrying the mode (R258). -/
def ratesToTry (b : Blk) (h : Nat) : List Nat := (ratesSet b h).filter fun r => sinkRate b h r && rateCarries b h r

/-! ### The format sent (R246) -/

/-- A 10-bit sample as 8 bits (R246). -/
def depth8 (v : Nat) : Nat := Nat.min 255 ((v + 2) / 4)

/-- A chroma sample of a pixel pair for 4:2:2 (R246). -/
def pairChroma (a c : Nat) : Nat := (a + c + 1) / 2

/-- Streams of a link, and where each begins in the head's lines (R248). -/
def streamX (b : Blk) (h s : Nat) : Nat := if b.on F.OHD_CTRL_MST h then s * (b.rd F.OHD_HTIM0_ACTIVE h / 2) else 0

/-- Streams that the link carries: with MST one for each sink found, at most two (R248). -/
def streams (b : Blk) (h : Nat) : Nat := if b.on F.OHD_CTRL_MST h then Nat.min 2 (b.head h).sinks.length else 1

/-! ### Checks of a cue (R31, R32, R244, R246 to R249, R269) -/

/-- The active pixel rate of a stage as a ratio, pixels per second. -/
def activeRate (b : Blk) (h : Nat) : Nat × Nat :=
  let r := headRate b h
  (b.rd F.OHD_HTIM0_ACTIVE h * b.rd F.OHD_VTIM0_ACTIVE h * r.1, r.2)

/-- Enabled stages with running heads. -/
def ratedStages (b : Blk) : List Nat :=
  (List.range 24).filter fun st => enabled b ⟨.stg, st⟩ && headRuns b st

/-- The pixel rates of R31 hold. -/
def pixelRatesOk (b : Blk) : Bool :=
  let l := (ratedStages b).map (activeRate b)
  l.all (fun r => Nat.ble r.1 (1200000000 * r.2)) && sumWithin l 12400000000

/-- Timing within R249. -/
def timingOk (b : Blk) (h : Nat) : Bool :=
  let g (f : Fld) := b.rd f h
  let ha := g F.OHD_HTIM0_ACTIVE
  let ht := g F.OHD_HTIM0_TOTAL
  let va := g F.OHD_VTIM0_ACTIVE
  let p := pixClock b h
  ha % 2 == 0 && ht % 2 == 0 && g F.OHD_HTIM1_FRONT % 2 == 0 && g F.OHD_HTIM1_SYNC % 2 == 0
    && Nat.ble 64 ha && Nat.ble ha 7680 && Nat.ble 64 va && Nat.ble va 4320
    && Nat.ble (ha + g F.OHD_HTIM1_FRONT + g F.OHD_HTIM1_SYNC + 2) ht
    && Nat.ble (va + g F.OHD_VTIM1_FRONT + g F.OHD_VTIM1_SYNC + 1) (g F.OHD_VTIM0_TOTAL)
    && Nat.ble (g F.OHD_VTIM0_TOTAL) 8191
    && p.2 != 0 && Nat.ble (50000000 * p.2) p.1 && Nat.ble p.1 (1200000000 * p.2)

/-- Pixels of one packet of the ST 2110-20 output (R267). -/
def txPixels (b : Blk) (h : Nat) : Nat := if b.rd F.STG_CFG_OUT_CSC h < 2 then 320 else 480

/-- Packets of a frame. -/
def txPackets (b : Blk) (h : Nat) : Nat :=
  b.rd F.OHD_VTIM0_ACTIVE h * cdiv (b.rd F.OHD_HTIM0_ACTIVE h) (txPixels b h)

/-- Rate of a NIF port in 10 kb/s by SPEED (R108). -/
def portRate (speed : Nat) : Nat := match speed with | 1 => 2500000 | 2 => 5000000 | 3 => 10000000 | 4 => 20000000 | _ => 0

/-- The ST 2110-20 output fits its ports (R269). -/
def txFits (b : Blk) (h : Nat) : Bool :=
  let n := b.rd F.OHD_TX_CFG_NIF h
  let d := b.rd F.OHD_TX_CFG_DUP_NIF h
  if b.on F.OHD_TX_CFG_DUP_EN h && n == d then false
  else if !b.on F.OHD_TX_CFG_EN h then true
  else
    let a := activeRate b h
    let r := headRate b h
    let bps := a.1 * (if b.rd F.STG_CFG_OUT_CSC h < 2 then 30 else 20) + txPackets b h * 480 * r.1
    let fits (n : Nat) : Bool := Nat.ble (bps * 10) (9 * portRate (b.rd F.NIF_CFG_SPEED n) * 10000 * a.2)
    fits n && (!b.on F.OHD_TX_CFG_DUP_EN h || fits d)

/-- The reason for which an OHD page refuses a cue, 0 for none (R64, R270). -/
def ohdBad (b : Blk) (h : Nat) : Nat :=
  let g (f : Fld) := b.rd f h
  if g F.OHD_CTRL_FORMAT = 3 ∨ g F.OHD_CTRL_GL_SLEW = 0 ∨ 1000 < g F.OHD_CTRL_GL_SLEW ∨ g F.OHD_FRATE_DEN = 0 then 0x01
  else if !timingOk b h then 0x40
  else if b.on F.OHD_CTRL_FOURLANE h && h % 2 == 1 then 0x42
  else if b.on F.OHD_CTRL_MST h && b.rd F.OHD_HTIM0_ACTIVE h % 4 != 0 then 0x42
  else if enabled b (ohdPage h) && ((h % 2 == 0 && b.on F.OHD_CTRL_FOURLANE h && enabled b (ohdPage (h + 1)))
      || headTaken b h) then 0x03
  else if (ratesSet b h).isEmpty || !rateCarries b h ((ratesSet b h).headD 0) then 0x41
  else if (if g F.OHD_CTRL_FORMAT = 0 then decide (2 ≤ b.rd F.STG_CFG_OUT_CSC h) else decide (b.rd F.STG_CFG_OUT_CSC h < 2)) then 0x44
  else if !txFits b h then 0x43
  else if !pixelRatesOk b then 0x02
  else 0

/-! ### Links -/

/-- Every lane of the unit takes the transmitter settings (LANE_TX_ACT). -/
def putDrive (h : Nat) (drive : List Nat) (b : Blk) : Blk :=
  ((unitLanes b (headUnit h)).zip drive).foldl (fun b e => b.wr F.LANE_TX_ACT_PRE e.1 e.2) b

/-- Nothing of a head's training, check or AUX is under way any more. -/
def headQuiet (h : Nat) (b : Blk) : Blk :=
  b.putHead h { b.head h with try_ := none, checkAt := none, checking := false, aux := none }

/-- The head stops transmitting: link off, or idle while it is enabled. -/
def linkDown (h cause : Nat) (b : Blk) : Blk :=
  let u := headUnit h
  let b := (headQuiet h b).wr F.OHD_STAT_RATE_ACT h 0
  if unitEnabled b u then
    let b := if (b.unit u).state = stOff then unitStart u b else enterDetect u (leaveActive u cause b)
    b.wr F.OHD_STAT_LINK h 1
  else if (b.unit u).state = stOff then b.wr F.OHD_STAT_LINK h 0
  else unitStop u (b.wr F.OHD_STAT_LINK h 0)

/-- HPD is asserted: ACTIVE, FOUND_ACTIVE, or CHATTER, which leaves the link as it was (R256). -/
def hpdAsserted (b : Blk) (h : Nat) : Bool := ctAsserted (b.rd F.OHD_STAT_HPD h)

/-- The head may read its sink and train: it drives, its pins are used, and its HPD is not CHATTER (R244, R256, R260). -/
def auxUsable (b : Blk) (h : Nat) : Bool := b.driving && !headTaken b h && b.rd F.OHD_STAT_HPD h != ctChatter

/-- Send an AUX transaction (R257), where the head may. -/
def auxSend (h : Nat) (i2c : Bool) (addr : Nat) (write : Bool) (bytes : List Nat) (tries : Nat) (b : Blk) : Blk :=
  if !auxUsable b h then b.putHead h { b.head h with aux := none }
  else (b.emit (.aux h i2c addr write bytes)).putHead h
    { b.head h with aux := some { i2c := i2c, addr := addr, write := write, bytes := bytes, tries := tries, at_ := b.now } }

/-- Read the sink: capabilities first (R256), then its EDID; the link trains from the capabilities. -/
def readSink (h : Nat) (b : Blk) : Blk :=
  if !auxUsable b h || !hpdAsserted b h then b
  else
    let u := headUnit h
    let b := b.putHead h { b.head h with dpcd := [], try_ := none, ddcAt := 0, ddc := [], sinks := [] }
    let b := if unitEnabled b u then
        let b := if (b.unit u).state = stOff then unitStart u b else b
        (unitStep u stCaps b).wr F.OHD_STAT_LINK h 2
      else b
    auxSend h false 0x00000 false (List.replicate 16 0) 0 b

/-- Begin an attempt at a rate. -/
def tryRate (h r : Nat) (b : Blk) : Blk :=
  let b := (unitStep (headUnit h) stTrain b).wr F.OHD_STAT_LINK h 2
  b.putHead h { b.head h with try_ := some r, tryAt := b.now }

/-- The sink's capabilities have been read. -/
def capsRead (b : Blk) (h : Nat) : Bool := (mget (b.head h).dpcd 0x00001).isSome && (mget (b.head h).dpcd 0x02215).isSome

/-- Begin training (R258): at the highest rate common to RATES and the sink that carries the mode; the capabilities are read first where
they have not been. -/
def trainBegin (h : Nat) (b : Blk) : Blk :=
  if !auxUsable b h then b
  else if !capsRead b h then readSink h b
  else
    let b := if (b.unit (headUnit h)).state = stOff then unitStart (headUnit h) b else b
    match ratesToTry b h with
    | r :: _ => tryRate h r b
    | [] => ohdEvent h 0x10E sevWarning 0 (evB 1) (b.wr F.OHD_STAT_LINK h 1)

/-! ### The topology of an MST link (R248) -/

/-- Depth-first discovery in ascending port order through at most three branch devices: `topo` lists for each branch device its ports, as
port number, kind (1 a sink, 2 a branch device, else nothing) and the branch device's place in the list. The answer is the sinks found,
as the ports that lead to them, and the branch devices asked. -/
def mstFind : Nat → List (List (Nat × Nat × Nat)) → Nat → List Nat → List (List Nat) × List (List Nat) → List (List Nat) × List (List Nat)
  | 0, _, _, _, acc => acc
  | fuel + 1, topo, k, path, acc =>
    if 3 ≤ acc.2.length then acc
    else
      (((topo.getD k []).mergeSort fun a c => Nat.ble a.1 c.1).foldl (fun acc p =>
        if p.2.1 = 1 then (acc.1 ++ [path ++ [p.1]], acc.2)
        else if p.2.1 = 2 then mstFind fuel topo p.2.2 (path ++ [p.1]) acc
        else acc) (acc.1, acc.2 ++ [path]))

/-- The head asks the branch devices with LINK_ADDRESS messages, and holds the sinks that it finds. PRESUMED: request identifier 1, after
the ports of the message's path. -/
def mstDiscover (h : Nat) (topo : List (List (Nat × Nat × Nat))) (b : Blk) : Blk :=
  let r := mstFind 4 topo 0 [] ([], [])
  let b := forEach r.2 (fun path b => b.emit (.aux h false 0x01000 true (path ++ [1]))) b
  (b.putHead h { b.head h with sinks := r.1 }).wr F.OHD_STAT_SINKS h (Nat.min 2 r.1.length)

/-- The link is valid at a rate with per-lane settings. -/
def linkOn (h r : Nat) (drive : List Nat) (b : Blk) : Blk :=
  putDrive h drive ((unitActive (headUnit h) b).wr F.OHD_STAT_LINK h 3 |>.wr F.OHD_STAT_RATE_ACT h r)

/-- The result of a link check (R262): event 0x010C. -/
def checkResult (h r : Nat) (b : Blk) : Blk :=
  let b := b.putHead h { b.head h with checkAt := none, checking := false }
  ohdEvent h 0x10C (if r = 3 then sevError else sevNotice) r (evB 3) (b.wr F.OHD_STAT_CHECK h r)

/-- Time slots and payload identifiers of the two streams at a rate; 0 where the link has none (R247, R248). -/
def payloads (b : Blk) (h r : Nat) : List Nat :=
  let n := mstSlots (pixClock b h) (linkBits b h) (linkLanes b h * laneRate r)
  let k := if b.on F.OHD_CTRL_MST h then streams b h else 0
  [if 1 ≤ k then n else 0, b2n (Nat.ble 1 k), if 2 ≤ k then n else 0, if 2 ≤ k then 2 else 0]

/-- An attempt succeeded (R258): event 0x0105, and the setting is stored (R261). -/
def trainOk (h r : Nat) (topo : List (List (Nat × Nat × Nat))) (drive : List Nat) (b : Blk) : Blk :=
  let mst := b.on F.OHD_CTRL_MST h
  let b := if mst then mstDiscover h topo b else (b.putHead h { b.head h with sinks := [] }).wr F.OHD_STAT_SINKS h 0
  let x := b.head h
  let b := b.putHead h { x with try_ := none, fromPeer := false,
                                link := some (r :: linkLanes b h :: b2n mst :: (payloads b h r ++ drive)) }
  let b := ohdEvent h 0x105 sevInfo (r + 8 * b2n mst) (evB 1) (linkOn h r drive b)
  if x.checking then checkResult h 2 b else b

/-- An attempt failed (R258, R262): the next lower rate, or event 0x0106 and the back-off; the one attempt of a link check
that fails ends the check with result 3. -/
def trainBad (h r : Nat) (b : Blk) : Blk :=
  let x := b.head h
  let b := b.putHead h { x with try_ := none }
  let none_ (b : Blk) : Blk := unitFail (headUnit h) 2 1 (b.wr F.OHD_STAT_LINK h 4 |>.wr F.OHD_STAT_RATE_ACT h 0)
  if x.checking then checkResult h 3 (none_ b)
  else if !auxUsable b h then none_ b
  else match (ratesToTry b h).filter (fun q => Nat.blt q r) with
    | q :: _ => tryRate h q b
    | [] => ohdEvent h 0x106 sevWarning 0 (evB 1) (none_ b)

/-- LINK_TRAINING's effect: result 0 begins a training that is due (capabilities read, HPD asserted, no link), 1 and 2 end
the attempt in progress. -/
def linkTraining (h result : Nat) (topo : List (List (Nat × Nat × Nat))) (drive : List Nat) (b : Blk) : Blk :=
  let x := b.head h
  let st := (b.unit (headUnit h)).state
  if !unitEnabled b (headUnit h) then b
  else match result, x.try_ with
    | 0, none =>
      if hpdAsserted b h && (st == stDetect || st == stCaps) && capsRead b h then trainBegin h b else b
    | 1, some r => trainOk h r topo drive b
    | 2, some r => trainBad h r b
    | _, _ => b

/-- An attempt ends after 100 ms (R258). -/
def attemptTimeout (h : Nat) (b : Blk) : Blk :=
  match (b.head h).try_ with
  | some r => if (b.head h).tryAt + 100000000 ≤ b.now then trainBad h r b else b
  | none => b

/-- HEAD_RESUME (R261): a head that may drive, with HPD asserted, drives its stored setting, and checks the link 1.0 ms later
(R262); without a stored setting it reads the sink and trains. -/
def headResume (h : Nat) (b : Blk) : Blk :=
  let u := headUnit h
  if !unitEnabled b u || !hpdAsserted b h || b.rd F.OHD_STAT_LINK h == 3 || (b.head h).try_.isSome then b
  else match (b.head h).link with
    | some (r :: _ :: mst :: _ :: id0 :: _ :: id1 :: drive) =>
      if mst == b.rd F.OHD_CTRL_MST h then
        let b := if (b.unit u).state = stOff then unitStart u b else b
        let b := b.putHead h { b.head h with checkAt := some (b.now + 1000000), checking := false,
                                             sinks := List.replicate (b2n (id0 != 0) + b2n (id1 != 0)) [] }
        let b := b.wr F.OHD_STAT_SINKS h (b.head h).sinks.length
        linkOn h r drive (b.wr F.OHD_STAT_CHECK h 0)
      else readSink h b
    | _ => if (b.unit u).state = stCaps then b else readSink h b

/-- HEAD_RESUME. -/
def execHeadResume (dt head : Nat) (s : State) : Host.Outcome State Fault Refusal := eff dt s (headResume head)

/-- Lanes of a link without lock, as bits, by DPCD 0x00202 and 0x00203. PRESUMED: the DPCD's own bit places; each lane has clock recovery,
equalisation and symbol lock. -/
def lanesLost (n : Nat) (status : List Nat) : Nat :=
  (List.range n).foldl (fun a k => if bits (status.getD (k / 2) 0) (k % 2 * 4) 3 = 7 then a else a + 2 ^ k) 0

/-- The bytes at 0x00202 to 0x00204 report lock and equalisation of every lane, and interlane alignment (R262). -/
def statusGood (n : Nat) (status : List Nat) : Bool := lanesLost n status == 0 && bit (status.getD 2 0) 0

/-- The link check that is due (R262): the head reads 0x00202 to 0x00204, of which `status` are the bytes; the check is passed, or makes
one training attempt at the highest common rate. -/
def linkCheck (h : Nat) (status : List Nat) (b : Blk) : Blk :=
  let x := b.head h
  match x.checkAt with
  | some t =>
    if b.now < t then b
    else
      let b := b.emit (.aux h false 0x00202 false [0, 0, 0])
      if statusGood (linkLanes b h) status then checkResult h 1 b
      else
        let b := b.putHead h { x with checkAt := none, checking := true }
        let r := b.rd F.OHD_STAT_RATE_ACT h
        tryRate h (match ratesToTry b h with | q :: _ => q | [] => r) (leaveActive (headUnit h) 2 b)
  | none => b

/-- OWN_OUT begins or ceases to let the heads drive (R260). -/
def setDriving (v : Bool) (b : Blk) : Blk :=
  let b := { b with driving := v }
  forEach (List.range 24) (fun h b =>
    if v then
      if unitEnabled b (headUnit h) then (unitStart (headUnit h) b).wr F.OHD_STAT_LINK h 1 else b
    else linkDown h 6 b) b

/-! ### Hot-plug detect (R255, R256) -/

/-- HPD judgement starts as at enable (R199): on a head that is unavailable the pin is not used (R244). -/
def hpdRestart (h : Nat) (b : Blk) : Blk :=
  if headTaken b h then b.wr F.OHD_STAT_HPD h ctDisabled
  else (b.putHead h { b.head h with hpd := (b.head h).hpd.restart, lowAt := none, irq := false }).wr F.OHD_STAT_HPD h ctInactive

/-- DEBOUNCE in samples, and CH_WIN in ns. -/
def hpdDeb (b : Blk) (h : Nat) : Nat := b.rd F.OHD_HPD_CFG_DEBOUNCE h
def hpdWin (b : Blk) (h : Nat) : Nat := b.rd F.OHD_HPD_CFG_CH_WIN h * 100000000

/-- One sample of a head's HPD line: a low pulse from 0.25 ms up to DEBOUNCE is an IRQ_HPD (R255). -/
def hpdSampleOne (levels h : Nat) (b : Blk) : Blk :=
  if b.rd F.OHD_STAT_HPD h = ctDisabled then b
  else
    let x := b.head h
    let lv := bit levels h
    let fell := x.hpd.level && !lv && x.hpd.settled == some true
    let rose := !x.hpd.level && lv
    let pulse := match x.lowAt with
      | some t => rose && Nat.ble (t + 250000) b.now && Nat.blt b.now (t + 100000 * hpdDeb b h)
      | none => false
    b.putHead h { x with hpd := x.hpd.sample b.now (hpdDeb b h) lv,
                         lowAt := if fell then some b.now else if lv then none else x.lowAt, irq := x.irq || pulse }

/-- HPD_SAMPLE. -/
def execHpdSample (dt levels : Nat) (s : State) : Host.Outcome State Fault Refusal :=
  eff dt s (forEach (List.range 24) (hpdSampleOne levels))

/-- What the head does on entering an HPD state (R256). -/
def hpdAct (h st : Nat) (b : Blk) : Blk :=
  if st = ctActive ∨ st = ctFound then readSink h b
  else if st = ctInactive then
    let b := (b.wr F.OHD_STAT_EDID_VALID h 0).wr F.OHD_STAT_SINKS h 0
    linkDown h 2 b
  else b

/-- The HPD state that the present instant brings: the end of chatter, a debounced run, or an unsettled window of CH_WIN
(R196, R197). -/
def hpdNext (b : Blk) (h : Nat) : Option (Nat × Contact) :=
  let c := (b.head h).hpd
  let st := b.rd F.OHD_STAT_HPD h
  if st = ctDisabled then none
  else if st = ctChatter then
    if c.quiet b.now (Nat.max (hpdWin b h) (100000 * hpdDeb b h)) then some (c.leave b.now) else none
  else if c.due (hpdDeb b h) then some (c.debounced b.now (b.rd F.OHD_HPD_CFG_CH_N h) (hpdWin b h) st)
  else match c.openAt with
    | some t => if t + hpdWin b h ≤ b.now then some (ctChatter, { c with openAt := none, changes := [] }) else none
    | none => none

/-- HPD_STATE_CHANGE (R256, R271). -/
def hpdStateChange (h : Nat) (b : Blk) : Blk :=
  match hpdNext b h with
  | none => b
  | some (st, c) =>
    let old := b.rd F.OHD_STAT_HPD h
    let b := (b.putHead h { b.head h with hpd := c, irq := (b.head h).irq && st != ctInactive }).wr F.OHD_STAT_HPD h st
    if old = ctChatter then hpdAct h st (ohdEvent h 0x104 sevNotice st (evB 0) b)
    else if st = old then b
    else if st = ctActive then hpdAct h st (ohdEvent h 0x100 sevNotice 0 (evB 0) b)
    else if st = ctFound then hpdAct h st (ohdEvent h 0x102 sevNotice 0 (evB 0) b)
    else if st = ctChatter then ohdEvent h 0x103 sevWarning 0 (evB 0) b
    else hpdAct h st (ohdEvent h 0x101 sevWarning 0 (evB 0) b)

/-- HPD_STATE_CHANGE. -/
def execHpdStateChange (dt head : Nat) (s : State) : Host.Outcome State Fault Refusal := eff dt s (hpdStateChange head)

/-- IRQ_HPD (R256): the sink's status is read, of which `status` are the bytes from 0x00200 on; lanes without lock are reported and the
link trains again. In CHATTER the pulse is ignored. -/
def irqHpd (h : Nat) (status : List Nat) (b : Blk) : Blk :=
  let x := b.head h
  if !x.irq then b
  else
    let b := b.putHead h { x with irq := false }
    if !auxUsable b h then b
    else
      let b := b.emit (.aux h false 0x00200 false (List.replicate 8 0))
      let lost := lanesLost (linkLanes b h) (status.drop 2)
      if lost = 0 ∨ b.rd F.OHD_STAT_LINK h ≠ 3 then b
      else
        let b := ohdEvent h 0x107 sevWarning (lost % 16) (evB 1) b
        trainBegin h ((unitDown (headUnit h) 2 b).wr F.OHD_STAT_RATE_ACT h 0)

/-- IRQ_HPD. -/
def execIrqHpd (dt head : Nat) (status : List Nat) (s : State) : Host.Outcome State Fault Refusal := eff dt s (irqHpd head status)

/-! ### AUX and EDID (R257, R259) -/

/-- The head uses this AUX transaction (R257): its addresses lie in a range of the table. -/
def auxAllowed (i2c : Bool) (addr n : Nat) (write : Bool) : Bool :=
  let within (lo hi : Nat) : Bool := Nat.ble lo addr && Nat.ble (addr + Nat.max 1 n) (hi + 1)
  if i2c then addr == 0x50 || (addr == 0x30 && write)
  else if write then
    within 0x00100 0x00108 || within 0x02002 0x0200F || within 0x00111 0x00111 || within 0x001C0 0x001C2 || within 0x00600 0x00600
      || within 0x01000 0x0102F || within 0x01400 0x0142F
  else
    within 0 0x0000F || within 0x02200 0x0220F || within 0x02215 0x02215 || within 0x00021 0x00021 || within 0x00200 0x00207
      || within 0x02002 0x0200F || within 0x002C0 0x002C0 || within 0x01000 0x0102F || within 0x01400 0x0142F

/-- A transaction failed: the capability reads fail, and the unit backs off (R302); an EDID that cannot be read is not valid. -/
def auxFailed (h : Nat) (b : Blk) : Blk :=
  let i2c := match (b.head h).aux with | some q => q.i2c | none => false
  let b := b.putHead h { b.head h with aux := none }
  if i2c then b.wr F.OHD_STAT_EDID_VALID h 0
  else if (b.unit (headUnit h)).state = stCaps then unitFail (headUnit h) 5 1 (b.wr F.OHD_STAT_LINK h 4)
  else b

/-- Try again, at most 7 times (R257). -/
def auxRetry (h : Nat) (b : Blk) : Blk :=
  match (b.head h).aux with
  | some q => if q.tries < 7 then auxSend h q.i2c q.addr q.write q.bytes (q.tries + 1) b else auxFailed h b
  | none => b

/-- Bytes that a native read brought. -/
def dpcdPut (h addr : Nat) (bytes : List Nat) (b : Blk) : Blk :=
  let x := b.head h
  b.putHead h { x with dpcd := (bytes.zipIdx).foldl (fun m e => mset m (addr + e.2) (e.1 % 256)) x.dpcd }

/-- Bytes of EDID to read: block 0, and up to 7 extension blocks as it declares (R259). -/
def edidLength (l : List Nat) : Nat := 128 * Nat.min 8 (1 + l.getD 126 0)

/-- The next step of reading the EDID by E-DDC (R257, R259): the segment pointer and the offset at the begin of a segment, then 16 bytes at
a time. -/
def ddcNext (h : Nat) (b : Blk) : Blk :=
  let x := b.head h
  if x.ddcAt < 128 ∨ x.ddcAt < edidLength x.ddc then auxSend h true 0x50 false (List.replicate 16 0) 0 b else b

/-- What the head sends after a transaction that was acknowledged: the capabilities, 0x02200, the UHBR rates, the MST capability, then the
EDID where it is read over AUX itself (R256, R257, R259). -/
def auxFollow (h : Nat) (i2c : Bool) (addr n : Nat) (write : Bool) (b : Blk) : Blk :=
  let x := b.head h
  match i2c, write, addr with
  | false, false, 0x00000 => if (mget x.dpcd 0x02215).isSome then b else auxSend h false 0x02200 false (List.replicate 16 0) 0 b
  | false, false, 0x02200 => if (mget x.dpcd 0x02215).isSome then b else auxSend h false 0x02215 false [0] 0 b
  | false, false, 0x02215 => auxSend h false 0x00021 false [0] 0 b
  | false, false, 0x00021 => if b.on F.OHD_CTRL_MST h then b else auxSend h true 0x50 true [0] 0 b
  | true, true, 0x30 => auxSend h true 0x50 true [0] 0 b
  | true, true, 0x50 => ddcNext h b
  | true, false, 0x50 =>
    if x.ddcAt % 256 < n ∧ x.ddcAt < edidLength x.ddc then auxSend h true 0x30 true [x.ddcAt / 256] 0 b else ddcNext h b
  | _, _, _ => b

/-- AUX_TRANSACTION (R257): the head performs a transaction; reply 0 is ACK with the bytes, 1 DEFER, 2 NACK (PRESUMED: failed
at once), 3 none yet. -/
def auxTransaction (h : Nat) (i2c : Bool) (addr : Nat) (write : Bool) (bytes : List Nat) (reply : Nat) (b : Blk) : Blk :=
  if !auxUsable b h || !auxAllowed i2c addr bytes.length write then b
  else
    let b := match (b.head h).aux with
      | some q => if q.addr = addr ∧ q.write = write ∧ q.i2c = i2c then b else auxSend h i2c addr write bytes 0 b
      | none => auxSend h i2c addr write bytes 0 b
    match reply with
    | 0 =>
      let b := b.putHead h { b.head h with aux := none }
      let b := if write then b
        else if i2c then
          let x := b.head h
          b.putHead h { x with ddcAt := x.ddcAt + bytes.length, ddc := x.ddc ++ bytes.map (· % 256) }
        else dpcdPut h addr bytes b
      auxFollow h i2c addr bytes.length write b
    | 1 => auxRetry h b
    | 2 => auxFailed h b
    | _ => b

/-- AUX_TRANSACTION. -/
def execAuxTransaction (dt head : Nat) (i2c : Bool) (addr : Nat) (write : Bool) (bytes : List Nat) (reply : Nat) (s : State) :
    Host.Outcome State Fault Refusal := eff dt s (auxTransaction head i2c addr write bytes reply)

/-- AUX_TIMEOUT (R257): 400 µs without a reply. -/
def auxTimeout (h : Nat) (b : Blk) : Blk :=
  match (b.head h).aux with
  | some q => if q.at_ + 400000 ≤ b.now then auxRetry h b else b
  | none => b

/-- AUX_TIMEOUT. -/
def execAuxTimeout (dt head : Nat) (s : State) : Host.Outcome State Fault Refusal := eff dt s (auxTimeout head)

/-- A display timing: horizontal and vertical active, total, front porch, sync width and polarity, and the clock in kHz. -/
structure Mode where
  ha : Nat
  ht : Nat
  hf : Nat
  hs : Nat
  hp : Nat
  va : Nat
  vt : Nat
  vf : Nat
  vs : Nat
  vp : Nat
  khz : Nat
  deriving DecidableEq, Repr

/-- The 18-byte detailed timing at an offset of block 0. PRESUMED: the EDID standard's layout. -/
def dtdAt (e : List Nat) (o : Nat) : Option Mode :=
  let g (k : Nat) := e.getD (o + k) 0
  let clk := (g 0 + 256 * g 1) * 10
  if clk = 0 then none
  else
    let ha := g 2 + 256 * (g 4 / 16)
    let va := g 5 + 256 * (g 7 / 16)
    some { ha := ha, ht := ha + g 3 + 256 * (g 4 % 16), hf := g 8 + 256 * bits (g 11) 6 2, hs := g 9 + 256 * bits (g 11) 4 2,
           hp := bits (g 17) 1 1, va := va, vt := va + g 6 + 256 * (g 7 % 16), vf := g 10 / 16 + 16 * bits (g 11) 2 2,
           vs := g 10 % 16 + 16 * bits (g 11) 0 2, vp := bits (g 17) 2 1, khz := clk }

/-- The Type VII timings of a DisplayID data block, `n` descriptors of 20 bytes from an offset. PRESUMED: DisplayID's own
layout. -/
def typeVII (e : List Nat) : Nat → Nat → Option Mode
  | 0, _ => none
  | n + 1, o =>
    let g (k : Nat) := e.getD (o + k) 0
    let two (k : Nat) := g k + 256 * g (k + 1)
    if bit (g 3) 7 then
      some { ha := two 4 + 1, ht := two 4 + two 6 + 2, hf := two 8 % 2 ^ 15 + 1, hs := two 10 + 1, hp := two 8 / 2 ^ 15,
             va := two 12 + 1, vt := two 12 + two 14 + 2, vf := two 16 % 2 ^ 15 + 1, vs := two 18 + 1, vp := two 16 / 2 ^ 15,
             khz := g 0 + 256 * g 1 + 65536 * g 2 + 1 }
    else typeVII e n (o + 20)

/-- The preferred Type VII timing among the data blocks of a DisplayID section from an offset on. -/
def displayIdFind (e : List Nat) : Nat → Nat → Option Mode
  | 0, _ => none
  | fuel + 1, o =>
    let len := e.getD (o + 2) 0
    if 125 ≤ o ∨ (e.getD o 0 = 0 ∧ len = 0) then none
    else
      match if e.getD o 0 = 0x22 then typeVII e (len / 20) (o + 3) else none with
      | some t => some t
      | none => displayIdFind e fuel (o + 3 + len)

/-- A block's bytes sum to 0 modulo 256. -/
def edidSumOk (l : List Nat) : Bool := l.length == 128 && (l.foldl (· + ·) 0) % 256 == 0

/-- The preferred timing (R259). -/
def preferred (blocks : List (List Nat)) : Option Mode :=
  match (blocks.drop 1).findSome? fun l => if l.getD 0 0 = 0x70 then displayIdFind l 32 5 else none with
  | some t => some t
  | none =>
    let e := blocks.headD []
    [54, 72, 90, 108].findSome? fun o => dtdAt e o

/-- EDID_READ (R259): the blocks as read, as block 0 declares, up to 8; with MST those of stream 0's sink, by REMOTE_I2C_READ (`remote`). -/
def edidRead (h : Nat) (remote : List Nat) (b : Blk) : Blk :=
  if !auxUsable b h || !hpdAsserted b h then b
  else
    let raw := if b.on F.OHD_CTRL_MST h then remote else (b.head h).ddc
    let n := Nat.min (edidLength raw / 128) (cdiv raw.length 128)
    let l := (List.range n).map fun k => (List.range 128).map fun i => raw.getD (128 * k + i) 0
    let bytes := l.flatten
    let b := b.rstRange (0x260000 + h * 0x1000 + 0x400) (0x260000 + h * 0x1000 + 0x800)
    let b := forEach (List.range (l.length * 32)) (fun w b => b.wr F.OHD_EDID_BYTES h
      (bytes.getD (4 * w) 0 + 256 * bytes.getD (4 * w + 1) 0 + 65536 * bytes.getD (4 * w + 2) 0
        + 2 ^ 24 * bytes.getD (4 * w + 3) 0) w) b
    let badBlocks := (List.range l.length).filter fun k => !edidSumOk (l.getD k [])
    let b := b.put F.OHD_STAT_EDID_VALID h (badBlocks.isEmpty && !l.isEmpty)
    let b := forEach badBlocks (fun k b => ohdEvent h 0x10A sevNotice k 0 b) b
    let good := if edidSumOk (l.headD []) then l.filter edidSumOk else []
    match if good.isEmpty then none else preferred good with
    | some t =>
      (((b.wr F.OHD_PREF0_PCLK h t.ha).wr F.OHD_PREF0_RATE h t.va).wr F.OHD_PREF1_PCLK h (rdiv t.khz 100)).wr F.OHD_PREF1_RATE h
        (if t.ht * t.vt = 0 then 0 else rdiv (t.khz * 100000) (t.ht * t.vt))
    | none => (((b.wr F.OHD_PREF0_PCLK h 0).wr F.OHD_PREF0_RATE h 0).wr F.OHD_PREF1_PCLK h 0).wr F.OHD_PREF1_RATE h 0

/-- EDID_READ. -/
def execEdidRead (dt head : Nat) (remote : List Nat) (s : State) : Host.Outcome State Fault Refusal :=
  eff dt s (edidRead head remote)

/-! ### Timing (R249 to R253) -/

/-- Fields that take effect at the head's next vertical blanking (R253). -/
def headTimed (key : Nat) (h : Nat) : Bool :=
  let a := key / 32
  Nat.ble (0x260040 + h * 0x1000) a && Nat.blt a (0x260064 + h * 0x1000)

/-- Set the genlock state; a change records event 0x010B. -/
def setGenlock (h v : Nat) (b : Blk) : Blk :=
  if b.rd F.OHD_STAT_GENLOCK h = v then b
  else ohdEvent h 0x10B sevNotice v 0 (b.wr F.OHD_STAT_GENLOCK h v)

/-- Genlock takes effect or ends, or stage time steps: PULLING until LOCKED holds (R252). -/
def genlockRestart (h : Nat) (b : Blk) : Blk :=
  let b := b.putHead h { b.head h with near := 0, addLines := 0, slew := 0 }
  setGenlock h (if headRuns b h && b.on F.OHD_CTRL_GENLOCK h then 1 else 0) b

/-- What of a head's registers makes its link train again (R253). -/
def linkKey (b : Blk) (h : Nat) : List Nat :=
  [b.rd F.OHD_CTRL_RATES h, linkLanes b h, b.rd F.OHD_CTRL_MST h]
    ++ (if b.on F.OHD_CTRL_MST h then
      [b.rd F.OHD_HTIM0_ACTIVE h, b.rd F.OHD_HTIM0_TOTAL h, b.rd F.OHD_HTIM1_FRONT h, b.rd F.OHD_HTIM1_SYNC h,
       b.rd F.OHD_VTIM0_ACTIVE h, b.rd F.OHD_VTIM0_TOTAL h, b.rd F.OHD_VTIM1_FRONT h, b.rd F.OHD_VTIM1_SYNC h,
       (pixClock b h).1, (pixClock b h).2] else [])

/-- A head whose timing generator does not run has no vertical blanking to wait for: what it held takes effect (R253). -/
def pendFlush (h : Nat) (b : Blk) : Blk :=
  let x := b.head h
  if headRuns b h || x.pend.isEmpty then b
  else ({ b with regs := mput x.pend b.regs }).putHead h { x with pend := [] }

/-- A head's neighbour takes its lanes and pins, or gives them back (R244). -/
def neighbourMoved (n : Nat) (b : Blk) : Blk :=
  let b := if headTaken b n then pendFlush n (linkDown n 6 b) else b
  hpdRestart n b

/-- After a change of a head's timing, link or enable: genlock, lane units of the head and its neighbour, HPD of the
neighbour. -/
def headChanged (h : Nat) (old : Blk) (b : Blk) : Blk :=
  let b := pendFlush h b
  let b := if old.on F.OHD_CTRL_GENLOCK h == b.on F.OHD_CTRL_GENLOCK h && headRuns old h == headRuns b h then b
    else genlockRestart h b
  let u := headUnit h
  let was := unitEnabled old u
  let is := unitEnabled b u
  let b :=
    if was && !is then linkDown h 6 b
    else if !was && is then
      let b := (unitStart u b).wr F.OHD_STAT_LINK h 1
      readSink h b
    else if is && linkKey old h != linkKey b h then
      let b := linkDown h 6 b
      let b := if (b.unit u).lanes ≠ unitLanes b u then unitStart u (unitStop u b) else b
      if hpdAsserted b h then trainBegin h b else b
    else b
  if h % 2 = 0 ∧ headTaken old (h + 1) ≠ headTaken b (h + 1) then neighbourMoved (h + 1) b else b

/-- A cue's values for a head's timing and link fields: held until the next vertical blanking, or taken at once while the
timing generator does not run (R253). -/
def headCommit (h : Nat) (vals : SMap Nat) (ran : Bool) (b : Blk) : Blk :=
  if ran then
    let x := b.head h
    b.putHead h { x with pend := mput vals x.pend }
  else { b with regs := mput vals b.regs }

/-- The start of vertical blanking: the held fields take effect (R253). -/
def headBlank (h : Nat) (b : Blk) : Blk :=
  let x := b.head h
  if x.pend.isEmpty then b
  else
    let b' := { b with regs := mput x.pend b.regs }
    headChanged h b (b'.putHead h { x with pend := [] })

/-- Phase error of a frame that starts now: ns from the nearest nominal start (R251). -/
def phaseError (b : Blk) (h : Nat) : Int :=
  let num := b.rd F.OHD_FRATE_NUM h
  let per := b.rd F.OHD_FRATE_DEN h * 1000000000
  if num = 0 then 0
  else
    let ph : Int := b.rd F.OHD_GL_PHASE_PHASE h
    let t : Int := (b.now : Int) - ph
    let k := t * num / per
    let at_ (k : Int) : Int := t - k * per / num
    if (at_ k).natAbs ≤ (at_ (k + 1)).natAbs then at_ k else at_ (k + 1)

/-- The measured phase error of a genlocked head and its correction (R252): a late head's clock is offset upward. DESIGN CHOICE (log 83): of
the offsets up to GL_SLEW, the least that removes the error within one frame. -/
def genlockFrame (h : Nat) (b : Blk) : Blk :=
  if !b.on F.OHD_CTRL_GENLOCK h then b
  else
    let e := phaseError b h
    let x := b.head h
    let v := b.rd F.OHD_VTIM0_TOTAL h
    let num := b.rd F.OHD_FRATE_NUM h
    let per := if num = 0 then 0 else b.rd F.OHD_FRATE_DEN h * 1000000000 / num
    let line := if v = 0 then 0 else per / v
    let near := if e.natAbs ≤ 50 then x.near + 1 else 0
    let far := Nat.blt line e.natAbs && b.rd F.OHD_CTRL_GL_MODE h == 0 && line != 0
    let gap := if e < 0 then e.natAbs else per - e.natAbs
    let ppm : Int := Nat.min (b.rd F.OHD_CTRL_GL_SLEW h) (if per = 0 then 0 else cdiv (e.natAbs * 1000000) per)
    let x := { x with near := near, addLines := if far then Nat.min (v - 1) (gap / line) else 0,
                      slew := if far then 0 else if e < 0 then -ppm else ppm }
    let b := ((b.putHead h x).emit (.genlock h x.addLines x.slew)).wr F.OHD_GL_ERR_ERR h (enc 32 (clampI (-2147483648) 2147483647 e))
    if 60 ≤ near then setGenlock h 2 b else if 1000 < e.natAbs then setGenlock h 1 b else b

/-! ### The curtain (R263 to R265) -/

/-- The reasons for the curtain that hold at a frame start, highest first; `stopped` says that the stage delivers nothing. -/
def curtainWhy (b : Blk) (h : Nat) : Nat :=
  if b.on F.OHD_CURT_FORCE_SAFE h then 5
  else if b.on F.OHD_CURT_FORCE_OPS h then 4
  else if b.rd F.SYS_ROLE_ROLE 0 = 4 then 3
  else if (b.head h).starved then 2
  else if !stageRuns b h || (b.stage h).shown.isEmpty then 1
  else 0

/-- The curtain comes on, changes its reported reason, or goes off (R264). -/
def setCurtain (h why : Nat) (b : Blk) : Blk :=
  let old := b.rd F.OHD_STAT_CURT_REASON h
  if why = old then b
  else
    let b := (b.wr F.OHD_STAT_CURT_REASON h why).put F.OHD_STAT_CURTAIN h (why != 0)
    if why = 0 then ohdEvent h 0x109 sevNotice 0 (evB 2) b else ohdEvent h 0x108 sevWarning why (evB 2) b

/-- Whether the frame that ended was delivered in time, counted toward the return after reason 2 (R264). -/
def judgeFrame (h : Nat) (b : Blk) : Blk :=
  let x := b.head h
  let s := b.stage h
  let x := if !x.starved then x
    else if s.starved || s.shown.isEmpty || !stageRuns b h then { x with good := 0 }
    else if b.rd F.OHD_CURT_RECOVER h ≤ x.good + 1 then { x with starved := false, good := 0 }
    else { x with good := x.good + 1 }
  ((b.putHead h x).putStage h { s with starved := false }).put F.STG_STAT_STARVED h s.starved

/-- Event 0x010D for a second of unsent packets that has ended (R268). -/
def txReport (h : Nat) (b : Blk) : Blk :=
  match (b.head h).txDrops with
  | some (t, n) =>
    if t + 1000000000 ≤ b.now then
      ohdEvent h 0x10D sevNotice (Nat.min 65535 n) 0 (b.putHead h { b.head h with txDrops := none })
    else b
  | none => b

/-- The streams of a link that is up, with what the MSA and the VSC SDP of a frame signal of each: with MST the horizontal timing is halved
(R246, R248, R253). -/
def signalStreams (h : Nat) (b : Blk) : Blk :=
  if b.rd F.OHD_STAT_LINK h ≠ 3 then b
  else
    let g (f : Fld) := b.rd f h
    let half (f : Fld) := if b.on F.OHD_CTRL_MST h then b.rd f h / 2 else b.rd f h
    let slots := ((b.head h).link.getD []).drop 3
    forEach (List.range (streams b h)) (fun s b => b.emit (.msa h s
      [slots.getD (2 * s) 0, half F.OHD_HTIM0_ACTIVE, half F.OHD_HTIM0_TOTAL, half F.OHD_HTIM1_FRONT, half F.OHD_HTIM1_SYNC,
       g F.OHD_VTIM0_ACTIVE, g F.OHD_VTIM0_TOTAL, g F.OHD_VTIM1_FRONT, g F.OHD_VTIM1_SYNC, g F.OHD_HTIM1_POL, g F.OHD_VTIM1_POL,
       g F.OHD_CTRL_FORMAT, g F.OHD_CTRL_DEPTH8, g F.STG_CFG_OUT_CSC])) b

/-- The first active pixel of a frame: genlock, the stage's switch, and the curtain. -/
def headFrame (h : Nat) (b : Blk) : Blk :=
  let b := genlockFrame h (judgeFrame h b)
  let b := txReport h (b.putHead h { b.head h with frameAt := b.now, txNext := 0 })
  let b := if stageRuns b h then switchFrame h b else stopFrame h b
  signalStreams h (setCurtain h (curtainWhy b h) b)

/-- HEAD_FRAME_START: the start of vertical blanking, or of line 0 (R253, R252, R263). -/
def execHeadFrameStart (dt head : Nat) (blank : Bool) (s : State) : Host.Outcome State Fault Refusal :=
  eff dt s fun b =>
    if !headRuns b head then b
    else if blank then
      let b := headBlank head b
      b.putStage head { b.stage head with fetched := true }
    else headFrame head b

/-- HEAD_QUEUE_STARVED (R179, R263): the stage records event 0x0100 and the head shows its curtain from that pixel. -/
def headQueueStarved (h line : Nat) (b : Blk) : Blk :=
  if !headRuns b h || !stageRuns b h || (b.stage h).shown.isEmpty then b
  else
    let s := b.stage h
    let b := b.putStage h { s with starved := true }
    let b := if s.starved then b else stgEvent h 0x100 sevError line (evB 3) b
    let b := b.putHead h { b.head h with starved := true, good := 0 }
    setCurtain h (Nat.max 2 (b.rd F.OHD_STAT_CURT_REASON h)) b

/-- HEAD_QUEUE_STARVED. -/
def execHeadQueueStarved (dt stage line : Nat) (s : State) : Host.Outcome State Fault Refusal :=
  eff dt s (headQueueStarved stage line)

/-- The text of a curtain reason (R263). -/
def curtainReason (why : Nat) : List Nat :=
  codes (match why with
    | 1 => "STAGE STOPPED" | 2 => "NO PICTURE" | 3 => "MODULE CURTAIN" | 4 => "HELD BY HOST" | 5 => "HELD BY SAFETY" | _ => "")

/-- Two decimal digits. -/
def twoDigits (n : Nat) : List Nat := [48 + n / 10 % 10, 48 + n % 10]

/-- The UTC time of day in seconds (R265, R298). -/
def utcOfDay (b : Blk) : Nat := (((b.now / 1000000000 : Nat) : Int) - sgn 16 (b.rd F.CLK_UTC_ACT 0)).toNat % 86400

/-- The lines of the curtain's text (R265). -/
def curtainLines (b : Blk) (h why : Nat) : List (List Nat) :=
  let text := (((List.range 8).flatMap fun k => leBytes 4 (b.rd F.OHD_CURT_TEXT_TEXT h k)).takeWhile (· != 0)).map fun c =>
    if inFont c then c else 32
  let t := utcOfDay b
  [codes "HEAD " ++ digitsOf h ++ codes "  " ++ curtainReason why]
    ++ (if b.on F.OHD_CURT_TEXT_EN h && !text.isEmpty then [text] else [])
    ++ [twoDigits (t / 3600) ++ codes ":" ++ twoDigits (t / 60 % 60) ++ codes ":" ++ twoDigits (t % 60)]

/-- A pixel of the curtain, 10-bit full-range R'G'B' (R265): its boxes centred, with the odd pixel on the right and below
(DEDUCED). -/
def curtainRgb (b : Blk) (h why x y : Nat) : Rgb :=
  let w := b.rd F.OHD_HTIM0_ACTIVE h
  let ht := b.rd F.OHD_VTIM0_ACTIVE h
  let s := if 1080 ≤ ht then 2 else 1
  let ls := curtainLines b h why
  let boxH := 32 * s
  let total := ls.length * boxH + (ls.length - 1) * 8 * s
  let top := (ht - total) / 2
  let base : Rgb := if inHatch 0 x y then markColour 0 else darkFill
  match (ls.zipIdx).findSome? fun (e : List Nat × Nat) =>
      let bw := 12 * s * e.1.length + 8 * s
      let x0 := (w - bw) / 2
      let y0 := top + e.2 * (boxH + 8 * s)
      if x0 ≤ x ∧ x < x0 + bw ∧ y0 ≤ y ∧ y < y0 + boxH then
        let tx := x - x0
        let ty := y - y0
        if 4 * s ≤ tx ∧ tx + 4 * s < bw ∧ 4 * s ≤ ty ∧ ty + 4 * s < boxH ∧ textPixel e.1 s (tx - 4 * s) (ty - 4 * s) then
          some ((Config.curtainText 0, Config.curtainText 1, Config.curtainText 2) : Rgb)
        else some (0, 0, 0)
      else none with
  | some c => c
  | none => base

/-- The samples that the head shows at a pixel: the stage's, or the curtain's (R265, R191). -/
def headPixel (b : Blk) (m : FrameStore) (h x y : Nat) : Rgb :=
  let why := b.rd F.OHD_STAT_CURT_REASON h
  if why = 0 then (stagePixel b m h x y).1 else outConv (b.rd F.STG_CFG_OUT_CSC h) (curtainRgb b h why x y)

/-- The samples of a pixel of a stream on the link, in the format of R246; with 4:2:2 an even pixel carries the chroma of its pair, whose
mean is of the 10-bit samples (DEDUCED, log 83). With MST each stream is one half of the head's picture, its curtain too (R248, R265). -/
def linkPixel (b : Blk) (m : FrameStore) (h s x y : Nat) : List Nat :=
  let px (x : Nat) := headPixel b m h (streamX b h s + x) y
  let p := px x
  let q := px (x + 1)
  let fin (v : Nat) := if b.on F.OHD_CTRL_DEPTH8 h then depth8 v else v
  (if b.rd F.OHD_CTRL_FORMAT h ≠ 2 then [p.1, p.2.1, p.2.2]
    else if x % 2 = 0 then [p.1, pairChroma p.2.1 q.2.1, pairChroma p.2.2 q.2.2]
    else [p.1]).map fin

/-- The head pipeline delay in ps at a rate (R254): the sum of its parts. -/
def pipelineSum (b : Blk) (h r : Nat) : Nat :=
  let p := pixClock b h
  32 * (2 * p.2 * 1000000000000) / p.1 + (if r ≤ 1 then 360000 else 420000) + (if b.on F.OHD_CTRL_MST h then 60000 else 0)

/-! ### ST 2110-20 output (R267, R268) -/

/-- 10-bit samples as octets, first sample in the most significant bits. -/
def packTens (l : List Nat) : List Nat :=
  let n := l.length
  let v := l.foldl (fun a x => a * 1024 + x % 1024) 0
  (leBytes (n * 10 / 8) v).reverse

/-- A pixel group: two pixels of 4:2:2, as Cb, Y, Cr, Y, or four of RGB; pixels past the line end are 0. -/
def txGroup (b : Blk) (m : FrameStore) (h w x y : Nat) : List Nat :=
  let px (k : Nat) : Rgb := if x + k < w then headPixel b m h (x + k) y else (0, 0, 0)
  if b.rd F.STG_CFG_OUT_CSC h < 2 then
    packTens ((List.range 4).flatMap fun k => let p := px k; [p.1, p.2.1, p.2.2])
  else
    let p := px 0
    let q := px 1
    packTens [pairChroma p.2.1 q.2.1, p.1, pairChroma p.2.2 q.2.2, q.1]

/-- Packet `n` of a frame: line, first pixel, and payload (R267). -/
def txPayload (b : Blk) (m : FrameStore) (h n : Nat) : Nat × Nat × List Nat :=
  let w := b.rd F.OHD_HTIM0_ACTIVE h
  let per := txPixels b h
  let row := cdiv w per
  let y := n / row
  let x := n % row * per
  let g := if b.rd F.STG_CFG_OUT_CSC h < 2 then 4 else 2
  (y, x, (List.range (cdiv (Nat.min per (w - x)) g)).flatMap fun k => txGroup b m h w (x + g * k) y)

/-- TX_PACKET (R267, R268): the next packet of the frame leaves through its ports, or is counted when the packetiser could
not take its pixels or the port cannot send. -/
def txPacket (h : Nat) (lost : Bool) (b : Blk) (m : FrameStore) : Blk :=
  let x := b.head h
  let n := x.txNext
  if !b.on F.OHD_TX_CFG_EN h || !headRuns b h || !ownOut b || Nat.ble (txPackets b h) n then b
  else
    let p := b.rd F.OHD_TX_CFG_NIF h
    let ports := p :: (if b.on F.OHD_TX_CFG_DUP_EN h then [b.rd F.OHD_TX_CFG_DUP_NIF h] else [])
    let b := b.putHead h { x with txNext := n + 1, txSeq := (x.txSeq + 1) % 2 ^ 32 }
    let pay := txPayload b m h n
    let cup := if !(b.stage h).shown.isEmpty then (b.viewed h).rd F.STG_CUP_TIME_TIME h else x.frameAt
    let body := [b.rd F.OHD_TX_CFG_FAMILY h, b.rd F.OHD_TX_ADDR_ADDR h, b.rd F.OHD_TX_PORT_UDP h, b.rd F.OHD_TX_CFG_PT h, b2n (n + 1 == txPackets b h),
      x.txSeq, cup * 9 / 100000 % 2 ^ 32, pay.1, pay.2.1] ++ pay.2.2
    forEach ports (fun q b =>
      if lost || !linkUp b q then
        let x := b.head h
        let d := match x.txDrops with | some (t, k) => some (t, k + 1) | none => some (b.now, 1)
        txReport h ((b.bump F.OHD_TX_LOST_COUNT h).putHead h { x with txDrops := d })
      else b.emit (.net q 6 body)) b

/-- TX_PACKET. -/
def execTxPacket (dt head : Nat) (lost : Bool) (s : State) : Host.Outcome State Fault Refusal :=
  effM dt s fun b m => (txPacket head lost b m, m)

/-- A soft reset of an OHD page: transmission stops, the page's registers from offset 0x040 on return to their reset values
(R56), HPD judgement restarts; a neighbour whose pins it used has them back (R244). `taken` says that the neighbour was unavailable. -/
def ohdSoftReset (h : Nat) (taken : Bool) (b : Blk) : Blk :=
  let b := if (b.unit (headUnit h)).state = stOff then b else unitStop (headUnit h) b
  let b := (b.rstRange (0x260040 + h * 0x1000) (0x261000 + h * 0x1000)).putHead h { hpd := (b.head h).hpd }
  let b := hpdRestart h (b.put F.OHD_STAT_OWNED h (ownOut b))
  if taken && !headTaken b (h + 1) then neighbourMoved (h + 1) b else b

end Sys2Proof.Machine
end

