-- ==== Sys2Proof/Machine/Clock.lean ====
section
/-!
DEFINITION. Timekeeping (chapter "Timekeeping and reference selection"): references, qualification, the selector, clock
states, steps of stage time, holdover, learning, the drift guard, time of day and UTC. What a measurement's filter and the
loop compute comes with the command that carries the measurement.
-/

namespace Sys2Proof.Machine

def clkPage : Page := ⟨.clk, 0⟩
def refPage (k : Nat) : Page := ⟨.clk, k + 1⟩

def Blk.ref (b : Blk) (k : Nat) : RefSt := mgetD b.clk.refs k {}
def Blk.putRef (b : Blk) (k : Nat) (x : RefSt) : Blk := { b with clk := { b.clk with refs := mset b.clk.refs k x } }

/-- An event of CLK, raised by the global page (R300). -/
def clkEvent (code sev d evt : Nat) (b : Blk) : Blk := raise clkPage code sev d evt b

/-! ### Names -/

abbrev ckWarmup : Nat := 0
abbrev ckFreerun : Nat := 1
abbrev ckAcquiring : Nat := 2
abbrev ckLocked : Nat := 3
abbrev ckHoldover : Nat := 4
abbrev ckExpired : Nat := 5

/-- A 64-bit two's complement register as an integer, and back. -/
def rdInt (b : Blk) (f : Fld) (i : Nat) : Int := sgn f.w (b.rd f i)
def wrInt (f : Fld) (i : Nat) (v : Int) (b : Blk) : Blk := b.wr f i (enc f.w v)

def clkState (b : Blk) : Nat := b.rd F.CLK_STAT_STATE 0

/-- The reference in use. -/
def refInUse (b : Blk) : Option Nat := if b.on F.CLK_STAT_SEL_VALID 0 then some (b.rd F.CLK_STAT_SEL 0) else none

/-- Registers of reference k stand on CLK page k + 1. -/
def rr (b : Blk) (f : Fld) (k : Nat) : Nat := b.rd f (k + 1)

/-- STEP_T in ns. -/
def stepT (b : Blk) : Nat := b.rd F.CLK_STEP_STEP_T 0 * 1000

/-- The DCO value in effect. -/
def dcoNow (b : Blk) : Int := rdInt b F.CLK_DCO_FREQ 0

/-- A new DCO value, kept within ±1,000 ppm (R286), with 80 s of history for R288. -/
def setDco (v : Int) (b : Blk) : Blk :=
  let v := clampI (-100000000000) 100000000000 v
  let b := wrInt F.CLK_DCO_FREQ 0 v b
  let old := b.clk.hist
  let keep := old.takeWhile fun e => Nat.ble b.now (e.1 + 100000000000)
  { b with clk := { b.clk with hist := (b.now, v) :: keep ++ (old.drop keep.length).take 1 } }

/-! ### Quality (R274, R275) -/

/-- Class rank of a clockClass; none when it is not qualified. -/
def classRank (c : Nat) : Option Nat :=
  if c = 6 then some 1 else if c = 7 then some 2 else if c = 13 then some 3 else if c = 14 then some 4
  else if c = 52 ∨ c = 187 then some 6 else if c = 58 ∨ c = 193 then some 7 else if c < 128 then some 9
  else if c = 248 then some 10 else if c = 255 then none else some 11

/-- Accuracy rank of a clockAccuracy. -/
def accRank (a : Nat) : Nat := if a ≤ 0x20 then 0 else if a ≤ 0x2E then a - 0x20 else 15

/-- A quality byte with its accuracy rank raised by 1, saturating at 15. -/
def raiseAcc (q : Nat) : Nat := q / 16 * 16 + Nat.min 15 (q % 16 + 1)

/-- The advertised quality (R275). -/
def advertised (b : Blk) : Nat :=
  match clkState b with
  | 3 => match refInUse b with | some k => raiseAcc (rr b F.CLK_REF_STAT_QUALITY k) | none => 0x8F
  | 2 => 0x8F | 4 => 0x8F | 5 => 0xCF | 1 => 0xDF | _ => 0xEF

/-! ### Loop bandwidth (R285) -/

/-- Bandwidth of a code in mHz. -/
def bwMilli (c : Nat) : Nat :=
  match c with
  | 0 => 1 | 1 => 3 | 2 => 10 | 3 => 30 | 4 => 100 | 5 => 300 | 6 => 1000 | 7 => 3000 | 8 => 10000 | 9 => 30000
  | 10 => 100000 | 11 => 300000 | 12 => 1000000 | _ => 4000000

/-- The greatest code whose bandwidth does not exceed `m` mHz. -/
def bwCode (m : Nat) : Nat := ((List.range 14).filter fun c => Nat.ble (bwMilli c) m).foldl Nat.max 0

/-- The greatest bandwidth code of a reference (R272): Sync exchanges per second ÷ 20 for PTP. -/
def bwTop (b : Blk) (k : Nat) : Nat :=
  if k < 4 then let g := (b.ref k).syncGap; if g = 0 then 0 else bwCode (1000000000000 / (20 * g))
  else if k = 4 then 11 else 13

/-- The bandwidth code in effect. -/
def bwAct (b : Blk) : Nat :=
  match refInUse b with
  | none => 0
  | some k =>
    let bw := Nat.min 13 (rr b F.CLK_REF_CFG_BW k)
    let top := bwTop b k
    let c := Nat.min bw top
    let c := if rr b F.CLK_REF_STAT_WATCH k = 1 then Nat.min c (b.rd F.CLK_GUARD_GUARD_BW 0) else c
    if clkState b = ckAcquiring then Nat.min (c + 3) top else c

/-! ### Temperature and ageing model (R288 to R290) -/

/-- The learned bins as (centre in 0.01 °C, value): a bin counts after 64 updates. -/
def learnedBins (b : Blk) : List (Int × Int) :=
  (b.clk.bins.filter fun e => Nat.ble 64 e.2.2).map fun e => ((e.1 : Int) * 100 - 950, e.2.1 / 256)

/-- A straight line through two points at `t`. -/
def lineAt (p q : Int × Int) (t : Int) : Int := p.2 + (q.2 - p.2) * (t - p.1) / (q.1 - p.1)

/-- The compensation from learned bins in rising order: interpolated, and extended from the two nearest beyond them. -/
def compAt (t : Int) : List (Int × Int) → Int
  | p :: q :: r => if t ≤ q.1 ∨ r = [] then lineAt p q t else compAt t (q :: r)
  | _ => 0

/-- m(T) (R289); 0 with fewer than two learned bins. -/
def comp (b : Blk) (t : Int) : Int := compAt t (learnedBins b)

/-- OCXO enclosure temperature, 0.01 °C. -/
def ocxoTemp (b : Blk) : Int := rdInt b F.CLK_OCXO_TEMP 0

/-- The ageing over a time by the learned rate: r is in 0.0001 ppb per day (R290). -/
def ageing (b : Blk) (ns : Nat) : Int :=
  if b.clk.rValid then rdInt b F.CLK_AGEING_RATE 0 * 10 * (ns : Int) / 86400000000000 else 0

/-- The least-squares slope per hour of timed values, as a ratio: Σ (t − t̄)(v − v̄) ÷ Σ (t − t̄)², with t in ns. -/
def timedSlope (l : List (Nat × Int)) : Int × Int :=
  let n : Int := l.length
  let st := l.foldl (fun (a : Int) (e : Nat × Int) => a + (e.1 : Int)) 0
  let sv := l.foldl (fun (a : Int) (e : Nat × Int) => a + e.2) 0
  let stv := l.foldl (fun (a : Int) (e : Nat × Int) => a + (e.1 : Int) * e.2) 0
  let stt := l.foldl (fun (a : Int) (e : Nat × Int) => a + (e.1 : Int) * (e.1 : Int)) 0
  ((n * stv - st * sv) * 3600000000000, n * stt - st * st)

/-- The least-squares slope of equally spaced values, oldest first, as a ratio. -/
def slopeOf (l : List Int) : Int × Int :=
  let n : Int := l.length
  let s := (l.zipIdx).foldl (fun (a : Int) (e : Int × Nat) => a + (2 * (e.2 : Int) - (n - 1)) * e.1) 0
  if l.length < 2 then (0, 1) else (6 * s, n * (n * n - 1))

/-- LEARNED (R290). -/
def learned (b : Blk) : Bool := b.clk.rValid && Nat.ble 2 (learnedBins b).length

/-- The qualified interval in seconds: the longest t with e(t) within LIMIT (R292). -/
def qualInterval (b : Blk) : Nat :=
  let lim := b.rd F.CLK_HO_CFG_LIMIT 0
  let go (f a : Nat) : Nat :=
    let ff := 172800 * f
    (Nat.sqrt (ff * ff + 4 * a * (lim * 100000 * 172800)) - ff) / (2 * a)
  if b.on F.CLK_STAT_LEARNED 0 then go 15 2 else if b.clk.lockedLong then go 110 50 else 0

/-! ### What follows from the clock's state -/

/-- Time base uncertain (R299). In HOLDOVER and ACQUIRING it keeps the state it had. -/
def uncertainNow (b : Blk) : Bool :=
  let st := clkState b
  let src := match refInUse b with
    | some k => if k = 4 ∨ k = 5 then rr b F.CLK_REF_CFG_TRACE k == 0
                else if 6 ≤ k then (match (b.ref k).peer with | some p => p.2.2.1 | none => false) else false
    | none => false
  st == ckWarmup || st == ckFreerun || st == ckExpired || !b.on F.CLK_STAT_TOD_VALID 0 || src
    || ((st == ckHoldover || st == ckAcquiring) && b.on F.CLK_STAT_UNCERTAIN 0)

/-- The UTC offset that the present reference gives (R298). -/
def utcSource (b : Blk) : Int :=
  match refInUse b with
  | some k =>
    if k < 4 then
      match (b.ref k).masters.find? (fun (m : Foreign) => some m.ann.sender == (b.ref k).master) with
      | some m => if m.ann.utcValid then m.ann.utc + b.clk.leapAdj else rdInt b F.CLK_UTC_OFFSET 0
      | none => rdInt b F.CLK_UTC_OFFSET 0
    else if 6 ≤ k then (match (b.ref k).peer with | some p => p.2.2.2 | none => rdInt b F.CLK_UTC_OFFSET 0)
    else rdInt b F.CLK_UTC_OFFSET 0
  | none => rdInt b F.CLK_UTC_OFFSET 0

/-- CLK_UTC.ACT follows its source; a change records event 0x010A. -/
def refreshUtc (b : Blk) : Blk :=
  let v := enc 16 (utcSource b)
  if v = b.rd F.CLK_UTC_ACT 0 then b else clkEvent 0x10A sevNotice v 0 (b.wr F.CLK_UTC_ACT 0 v)

/-- A reference's STATE: 0 disabled, 1 absent, 2 qualifying, 3 candidate, 4 in use, 5 excluded. -/
def refStateOf (b : Blk) (k : Nat) : Nat :=
  if rr b F.CLK_REF_CFG_EN k = 0 then 0
  else if rr b F.CLK_REF_STAT_OUTVOTED k = 1 ∨ rr b F.CLK_REF_STAT_DRIFT_DQ k = 1 ∨ rr b F.CLK_REF_STAT_LOOP k = 1 then 5
  else if refInUse b = some k then 4
  else if rr b F.CLK_REF_STAT_QUARREL k = 1 then 5
  else if (b.ref k).qualified then 3
  else if (b.ref k).okSince.isSome then 2
  else 1

/-- Registers that report what the rest of CLK holds. -/
def clkRefresh (b : Blk) : Blk :=
  let b := forEach (List.range 8) (fun k b => b.wr F.CLK_REF_STAT_STATE (k + 1) (refStateOf b k)) b
  let b := b.put F.CLK_STAT_LEARNED 0 (learned b)
  let b := (b.wr F.CLK_STAT_QUALITY_OUT 0 (advertised b)).wr F.CLK_STAT_BW_ACT 0 (bwAct b)
  let b := if clkState b = ckHoldover ∨ clkState b = ckExpired then b else b.wr F.CLK_HO_QUAL_INTERVAL 0 (qualInterval b)
  let b := b.wr F.CLK_OCXO_BINS 0 (learnedBins b).length
  let b := refreshUtc b
  let b := match refInUse b with
    | some k => b.put F.CLK_STAT_TRACE 0 (Nat.blt k 4 || ((k == 4 || k == 5) && rr b F.CLK_REF_CFG_TRACE k == 1)
        || (Nat.ble 6 k && match (b.ref k).peer with | some p => !p.2.2.1 | none => false))
    | none => b
  let u := uncertainNow b
  let b := b.put F.CLK_STAT_UNCERTAIN 0 u
  if u then timeUncertain b else timeCertain b

/-- The clock enters a state: event 0x0100 (R282). Holdover begins with the value of R288. -/
def setClock (st : Nat) (b : Blk) : Blk :=
  let old := clkState b
  if st = old then b
  else
    let b := clkEvent 0x100 (if st = ckFreerun ∨ st = ckExpired then sevWarning else sevNotice) (st + 8 * old) (evB 0)
      (b.wr F.CLK_STAT_STATE 0 st)
    let b := if st = ckLocked then { b with clk := { b.clk with lockedAt := b.now, everLocked := true, jumpAt := none } } else b
    let b := if st = ckAcquiring then
        let b := { b with clk := { b.clk with acqAt := b.now, pulled := false, nearSince := none, jumpAt := none } }
        forEach (List.range 8) (fun k b => b.putRef k { b.ref k with since := 0 }) b
      else b
    if st = ckFreerun then
      let b := { b with clk := { b.clk with lockedLong := false } }
      if b.clk.everLocked then b else setDco 0 b
    else b

/-- LOCKED for 10 min without a break (R282). -/
def noteLocked (b : Blk) : Blk :=
  if clkState b = ckLocked ∧ b.clk.lockedAt + 600000000000 ≤ b.now then { b with clk := { b.clk with lockedLong := true } } else b

/-- The time-weighted mean of the DCO values over the 64 s that end 16 s before an instant (R288). -/
def meanDco (hist : List (Nat × Int)) (t : Nat) (dflt : Int) : Int :=
  let lo := t - 80000000000
  let hi := t - 16000000000
  let r := hist.foldl (fun (a : Int × Int × Nat) (e : Nat × Int) =>
    let from_ := Nat.max e.1 lo
    let to_ := Nat.min a.2.2 hi
    let w : Int := if from_ < to_ then ((to_ - from_ : Nat) : Int) else 0
    (a.1 + e.2 * w, a.2.1 + w, Nat.min a.2.2 e.1)) (0, 0, t)
  if r.2.1 = 0 then dflt else r.1 / r.2.1

/-- Entry into HOLDOVER: CLK_DCO_HO and the qualified interval (R288, R292). -/
def enterHoldover (watch : Bool) (b : Blk) : Blk :=
  let v := if watch then comp b (ocxoTemp b) + ageing b (b.now - b.clk.ageAt) else meanDco b.clk.hist b.now (dcoNow b)
  let b := (wrInt F.CLK_DCO_HO_FREQ 0 v b).wr F.CLK_HO_TIME_INTERVAL 0 0
  let b := b.wr F.CLK_HO_QUAL_INTERVAL 0 (qualInterval b)
  let b := { b with clk := { b.clk with hoAt := b.now, hoTemp := ocxoTemp b, updAt := b.now } }
  setDco v (setClock ckHoldover b)

/-- No reference is selected, or MODE is 2 (R282). -/
def clockUnselected (watch : Bool) (b : Blk) : Blk :=
  let b := noteLocked b
  let st := clkState b
  if st = ckAcquiring ∨ st = ckLocked then
    if b.clk.lockedLong || b.on F.CLK_STAT_LEARNED 0 then enterHoldover watch b else setClock ckFreerun b
  else b

/-! ### Qualification (R276) -/

/-- The reference stops being qualified: LOSSES, event 0x0109 with a cause (0: none recorded), and a run of the selector is
due when it was in use. -/
def disqualify (k cause : Nat) (b : Blk) : Blk :=
  let x := b.ref k
  if !x.qualified then b.putRef k { x with okSince := none }
  else
    let b := b.putRef k { x with okSince := none, qualified := false }
    let b := b.bump F.CLK_REF_COUNT_LOSSES (k + 1)
    let used := refInUse b == some k
    let b := if cause = 0 then b
      else setEvt (refPage k) (evB 1) (clkEvent 0x109 (if used then sevWarning else sevNotice) (k + 8 * cause) 0 b)
    if used then { b with clk := { b.clk with runDue := true, lost := true } } else b

/-- The conditions of R276 hold at present: their time begins. -/
def refOk (k : Nat) (b : Blk) : Blk :=
  let x := b.ref k
  if rr b F.CLK_REF_CFG_EN k = 1 ∧ x.okSince = none ∧ !x.far then b.putRef k { x with okSince := some b.now } else b

/-- The conditions of R276 are broken for a reference not yet qualified: their time begins again. -/
def refBroken (k : Nat) (b : Blk) : Blk := b.putRef k { b.ref k with okSince := none }

/-- REF_QUALIFIED (R276): QUAL_T, or 1 s for REF6 and REF7, has passed; not while drift-disqualified (R295). -/
def refQualified (k : Nat) (b : Blk) : Blk :=
  let x := b.ref k
  let t := if 6 ≤ k then 1000000000 else rr b F.CLK_REF_TOL_QUAL_T k * 1000000000
  match x.okSince with
  | some t0 =>
    if rr b F.CLK_REF_CFG_EN k = 1 ∧ !x.qualified ∧ t0 + t ≤ b.now ∧ rr b F.CLK_REF_STAT_DRIFT_DQ k = 0 then
      let b := b.putRef k { x with qualified := true, ys := [] }
      let b := setEvt (refPage k) (evB 0) (clkEvent 0x108 sevInfo k 0 b)
      clkRefresh (if refInUse b = none then { b with clk := { b.clk with runDue := true } } else b)
    else b
  | none => b

/-- REF_QUALIFIED. -/
def execRefQualified (dt ref : Nat) (s : State) : Host.Outcome State Fault Refusal := eff dt s (refQualified ref)

/-- The spread of the last 16 filtered offsets. -/
def refSpread (x : RefSt) : Nat :=
  let l := (x.offs.take 16).map (·.2)
  match l with
  | [] => 0
  | a :: t => (t.foldl (fun (m : Int) (y : Int) => if m < y then y else m) a
      - t.foldl (fun (m : Int) (y : Int) => if y < m then y else m) a).toNat

/-- A disqualification condition of R276 holds: absent, announce timeout, class or timescale, pull range (measured by the
reference's input), spread, jump, partner or lead state. -/
def disqualHolds (b : Blk) (k cause : Nat) : Bool :=
  let x := b.ref k
  match cause with
  | 1 => if k < 4 then !(x.exch.headD 0 + 2000000000 > b.now) else if k = 4 then Nat.ble 4 x.missing
         else if k = 5 then !x.tenMHz || Nat.ble 2 x.off else x.peer == none
  | 2 => Nat.blt k 4 && x.master == none
  | 3 => Nat.blt k 4 && (x.masters.any fun (m : Foreign) => some m.ann.sender == x.master && (m.ann.cls == 255 || !m.ann.ptp))
  | 4 => Nat.blt k 4 && x.far
  | 5 => Nat.blt k 4 && Nat.blt 10000 (refSpread x)
  | 7 => Nat.ble 6 k && (match x.peer with | some p => p.1 != ckLocked && p.1 != ckHoldover | none => false)
  | _ => false

/-- A reference's frequency from what the compensated OCXO predicts, 0.001 ppb: the pull range is ±20 ppm (R276). -/
def pullRange (k : Nat) (freq : Int) (b : Blk) : Blk := b.putRef k { b.ref k with far := Nat.blt 20000000 freq.natAbs }

/-- REF_DISQUALIFIED: a disqualification condition of R276 is tested; `freq` is the frequency measured, which cause 4 tests. -/
def execRefDisqualified (dt ref cause : Nat) (freq : Int) (s : State) : Host.Outcome State Fault Refusal :=
  eff dt s fun b =>
    let b := if cause = 4 then pullRange ref freq b else b
    if disqualHolds b ref cause then clkRefresh (disqualify ref cause b) else b

/-! ### Measurements -/

/-- Quality in effect with CLASS and ACC. -/
def setQuality (k q cls acc : Nat) (b : Blk) : Blk :=
  ((b.wr F.CLK_REF_STAT_QUALITY (k + 1) q).wr F.CLK_REF_STAT_CLASS (k + 1) cls).wr F.CLK_REF_STAT_ACC (k + 1) acc

/-- Lock limit in ns and lock time in ns of a reference (R282). -/
def lockLimit (k : Nat) : Nat × Nat :=
  if k < 4 then (1000, 60000000000) else if k < 6 then (100, 10000000000) else (20, 1000000000)

/-- The steering that reaches the DCO: in ACQUIRING within SLEW_MAX of the compensated OCXO (R283). -/
def limitedDco (b : Blk) (v : Int) : Int :=
  if clkState b = ckAcquiring then
    let c := comp b (ocxoTemp b)
    let m : Int := b.rd F.CLK_CFG_SLEW_MAX 0 * 100000000
    clampI (c - m) (c + m) v
  else v

/-- A filtered offset of a reference is measured, and `dco` is what the loop makes of it. In use: beyond STEP_T while LOCKED
it does not reach the loop (R277); the lock condition is timed (R282); the DCO takes the loop's value (R285, R286). -/
def measured (k : Nat) (off dco : Int) (b : Blk) : Blk :=
  let x := b.ref k
  let b := b.putRef k { x with offs := ((b.now, off) :: x.offs).take 256 }
  let b := wrInt F.CLK_REF_OFFSET_OFFSET (k + 1) off b
  let b := noteLocked b
  if refInUse b ≠ some k ∨ (clkState b ≠ ckLocked ∧ clkState b ≠ ckAcquiring) then b
  else if clkState b = ckLocked ∧ stepT b < off.natAbs then
    if b.clk.jumpAt = none then { b with clk := { b.clk with jumpAt := some b.now } } else b
  else
    let near := off.natAbs ≤ (lockLimit k).1
    let b := { b with clk := { b.clk with jumpAt := none,
                                          nearSince := if near then (match b.clk.nearSince with | some t => some t | none => some b.now) else none } }
    setDco (limitedDco b dco) b

/-- A reference's cable delay or path asymmetry is subtracted (CLK_REF_DELAY). -/
def lessDelay (b : Blk) (k : Nat) (off : Int) : Int := if 6 ≤ k then off else off - rdInt b F.CLK_REF_DELAY_DELAY (k + 1)

/-- The master followed has a clockClass and a timescale that qualify (R273, R274). -/
def masterOk (b : Blk) (k : Nat) : Bool :=
  (b.ref k).masters.any fun (m : Foreign) => some m.ann.sender == (b.ref k).master && m.ann.cls != 255 && m.ann.ptp

/-- An exchange that is complete counts once for its Sync exchange and its pair (R273). -/
def completeExchange (k : Nat) (b : Blk) : Blk :=
  let x := b.ref k
  if x.syncNew && x.pairNew then
    let ex := (b.now :: x.exch).take 16
    let steady := Nat.ble 4 ex.length && Nat.ble b.now (ex.getD 3 0 + 2000000000)
    let b := b.putRef k { x with syncNew := false, pairNew := false, exch := ex, since := x.since + 1 }
    if 10000 < refSpread (b.ref k) then disqualify k 5 b
    else if steady && masterOk b k then refOk k b
    else if x.qualified then b else refBroken k b
  else b

/-- The NIF port of a PTP instance. -/
def ptpPort (b : Blk) (k : Nat) : Nat := rr b F.CLK_REF_PTP_NIF k

/-- PTP_SYNC (R273): a Sync exchange of the master followed, which left it at `t1` and carries the time stamp that its NIF port took
of it (R115). The offset measured is reference time minus stage time with the mean path delay of the latest pair; `adjust` is what
minimum-delay filtering adds to it, and `dco` the loop's value. A port without link hears nothing. -/
def ptpSync (k : Nat) (t1 adjust dco : Int) (b : Blk) : Blk :=
  let x := b.ref k
  if 4 ≤ k ∨ rr b F.CLK_REF_CFG_EN k = 0 ∨ x.master = none ∨ !linkUp b (ptpPort b k) then b
  else
    let t2 : Int := (b.port (ptpPort b k)).ptpStamp
    let x := { x with sync := some (t1, t2), syncNew := true, syncAt := b.now, syncGap := if x.syncAt = 0 then 0 else b.now - x.syncAt }
    let off := lessDelay b k (t1 + x.mpd - t2 + adjust)
    clkRefresh (completeExchange k (measured k off dco (b.putRef k x)))

/-- PTP_SYNC. -/
def execPtpSync (dt ref : Nat) (t1 adjust dco : Int) (s : State) : Host.Outcome State Fault Refusal :=
  eff dt s (ptpSync ref t1 adjust dco)

/-- PTP_DELAY_REQ (R273). -/
def execPtpDelayReq (dt ref : Nat) (s : State) : Host.Outcome State Fault Refusal :=
  eff dt s fun b =>
    if 4 ≤ ref ∨ rr b F.CLK_REF_CFG_EN ref = 0 ∨ !linkUp b (ptpPort b ref) then b
    else match (b.ref ref).master with
      | some m =>
        let uni := rr b F.CLK_REF_PTP_PROFILE ref = 0 ∧ rr b F.CLK_REF_PTP_DREQ_UNICAST ref = 1
        let b := b.putRef ref { b.ref ref with dreqAt := some b.now }
        b.emit (.net (rr b F.CLK_REF_PTP_NIF ref) 5 [rr b F.CLK_REF_PTP_DOMAIN ref, if uni then m else 0, b.now,
          rr b F.CLK_REF_PTP_TRANSPORT ref])
      | none => b

/-- PTP_DELAY_RESP (R273): the mean path delay from the latest Sync and the pair just completed. -/
def ptpDelayResp (k : Nat) (t4 : Int) (b : Blk) : Blk :=
  let x := b.ref k
  match x.dreqAt, x.sync with
  | some t3, some (t1, t2) =>
    clkRefresh (completeExchange k (b.putRef k { x with dreqAt := none, pairNew := true, mpd := ((t2 - t1) + (t4 - t3)) / 2 }))
  | _, _ => b

/-- PTP_DELAY_RESP. -/
def execPtpDelayResp (dt ref : Nat) (t4 : Int) (s : State) : Host.Outcome State Fault Refusal := eff dt s (ptpDelayResp ref t4)

/-- The first master is better (R273). PRESUMED: the dataset comparison of IEEE 1588-2019. -/
def annBetter (a c : Announce) : Bool :=
  if a.gm = c.gm then Nat.blt a.steps c.steps || (a.steps == c.steps && Nat.blt a.sender c.sender)
  else
    let l := [(a.prio1, c.prio1), (a.cls, c.cls), (a.acc, c.acc), (a.var, c.var), (a.prio2, c.prio2), (a.gm, c.gm)]
    match l.find? fun e => e.1 != e.2 with
    | some e => Nat.blt e.1 e.2
    | none => false

/-- The best of the masters from which two Announce messages came within four intervals. PRESUMED: IEEE 1588's threshold. -/
def bestMaster (now : Nat) (l : List Foreign) : Option Foreign :=
  (l.filter fun (m : Foreign) => match m.before with
    | some t => Nat.ble now (t + 4 * m.ann.interval + m.ann.interval)
    | none => false).foldl (fun (a : Option Foreign) (m : Foreign) => match a with
      | some c => if annBetter m.ann c.ann then some m else some c
      | none => some m) none

/-- An Announce message that an instance hears (R273): on its port, in its domain and over its transport, with an interval of 2^−7 s
to 2 s. -/
def announceHeard (b : Blk) (k : Nat) (a : Announce) : Bool :=
  a.port == ptpPort b k && linkUp b a.port && a.domain == rr b F.CLK_REF_PTP_DOMAIN k && a.transport == rr b F.CLK_REF_PTP_TRANSPORT k
    && Nat.ble 7812500 a.interval && Nat.ble a.interval 2000000000

/-- PTP_ANNOUNCE (R273, R274, R276, R298): at most 8 foreign masters are kept. -/
def ptpAnnounce (k : Nat) (a : Announce) (b : Blk) : Blk :=
  let x := b.ref k
  if 4 ≤ k ∨ rr b F.CLK_REF_CFG_EN k = 0 ∨ !announceHeard b k a then b
  else
    let known := x.masters.find? fun (m : Foreign) => m.ann.sender == a.sender
    let ms := match known with
      | some _ => x.masters.map fun (m : Foreign) => if m.ann.sender = a.sender then ⟨a, b.now, some m.at_⟩ else m
      | none => if x.masters.length < 8 then x.masters ++ [⟨a, b.now, none⟩] else x.masters
    let best := bestMaster b.now ms
    let sender := best.map (·.ann.sender)
    let moved := sender != x.master
    let x := { x with masters := ms, master := sender }
    let x := if moved then { x with sync := none, syncNew := false, pairNew := false, dreqAt := none, exch := [], offs := [] } else x
    let b := b.putRef k x
    match best with
    | none => clkRefresh b
    | some m =>
      let bad := m.ann.cls == 255 || !m.ann.ptp
      let q := match classRank m.ann.cls with | some r => r * 16 + accRank m.ann.acc | none => 0xFF
      let b := (setQuality k q m.ann.cls m.ann.acc b).wr F.CLK_REF_GM_IDENTITY (k + 1) m.ann.gm
      let b := if bad then disqualify k 3 b else b
      let b := if refInUse b = some k ∧ m.ann.sender = a.sender then
          let day := ((b.now / 1000000000 : Nat) - m.ann.utc) / 86400
          { b with clk := { b.clk with
                            leapAdj := if known.any fun (q : Foreign) => q.ann.utc != a.utc then 0 else b.clk.leapAdj,
                            leapDay := if a.leap ≠ b.clk.leap then day else b.clk.leapDay, leap := a.leap } }
        else b
      clkRefresh b

/-- PTP_ANNOUNCE. -/
def execPtpAnnounce (dt ref : Nat) (a : Announce) (s : State) : Host.Outcome State Fault Refusal := eff dt s (ptpAnnounce ref a)

/-- ANNOUNCE_TIMEOUT (R276): the master followed has been silent for ANN_TO intervals. -/
def execAnnounceTimeout (dt ref : Nat) (s : State) : Host.Outcome State Fault Refusal :=
  eff dt s fun b =>
    let x := b.ref ref
    match x.masters.find? fun (m : Foreign) => some m.ann.sender == x.master with
    | some m =>
      if m.at_ + rr b F.CLK_REF_PTP_ANN_TO ref * m.ann.interval ≤ b.now then
        let b := b.putRef ref { x with master := none, masters := x.masters.filter fun (q : Foreign) => q.ann.sender != m.ann.sender }
        clkRefresh (disqualify ref 2 b)
      else b
    | none => b

/-- EXCHANGE_TIMEOUT (R276): no complete exchange for 2 s. -/
def execExchangeTimeout (dt ref : Nat) (s : State) : Host.Outcome State Fault Refusal :=
  eff dt s fun b =>
    if ref < 4 ∧ (b.ref ref).exch.headD 0 + 2000000000 ≤ b.now then clkRefresh (disqualify ref 1 b) else b

/-- The frame period of a REF4 format as a ratio of seconds. -/
def houseFrame (fmt : Nat) : Nat × Nat :=
  match fmt with
  | 0 => (1, 25) | 1 => (1001, 30000) | 2 => (1, 50) | 3 => (1001, 60000) | 4 => (1, 60) | 5 => (1, 50) | 6 => (1001, 60000)
  | _ => (1, 60)

/-- A difference reduced to within half a period (num / den seconds). -/
def reduceBy (d : Int) (p : Nat × Nat) : Int :=
  let per : Int := p.1 * 1000000000
  let x := (d * p.2) % per
  (if per < 2 * x then x - per else x) / p.2

/-- HOUSE_SYNC_FRAME (R276): a frame that matches FORMAT with line and frame frequency in the pull range, or a missing one. -/
def houseSync (good : Bool) (filtered dco : Int) (b : Blk) : Blk :=
  let x := b.ref 4
  if rr b F.CLK_REF_CFG_EN 4 = 0 then b
  else if good then
    let q := rr b F.CLK_REF_CFG_QUALITY 4
    let b := setQuality 4 q (q / 16) (q % 16) (b.putRef 4 { x with missing := 0 })
    clkRefresh (measured 4 (reduceBy (lessDelay b 4 filtered) (houseFrame (rr b F.CLK_REF_IN_FORMAT 4))) dco (refOk 4 b))
  else
    let b := b.putRef 4 { x with missing := x.missing + 1 }
    clkRefresh (if 4 ≤ x.missing + 1 then disqualify 4 1 b else if x.qualified then b else refBroken 4 b)

/-- HOUSE_SYNC_FRAME. -/
def execHouseSyncFrame (dt : Nat) (good : Bool) (filtered dco : Int) (s : State) : Host.Outcome State Fault Refusal :=
  eff dt s (houseSync good filtered dco)

/-- REF5 uses its pulse per second. -/
def ppsEn (b : Blk) : Bool := bit (rr b F.CLK_REF_IN_FORMAT 5) 0

/-- REF5 without PPS qualifies on 10 MHz alone (R276). -/
def f10mOk (b : Blk) : Blk :=
  if rr b F.CLK_REF_CFG_EN 5 = 1 ∧ !ppsEn b ∧ (b.ref 5).tenMHz then
    let q := rr b F.CLK_REF_CFG_QUALITY 5
    refOk 5 (setQuality 5 q (q / 16) (q % 16) b)
  else b

/-- F10M_LOSS (R276): 10 MHz absent for 10 µs, or present again within the pull range. Without PPS its offset reads 0, and `dco` is what
the loop makes of its frequency. -/
def f10mLoss (lost : Bool) (dco : Int) (b : Blk) : Blk :=
  let b := b.putRef 5 { b.ref 5 with tenMHz := !lost }
  if lost then clkRefresh (disqualify 5 1 b)
  else if rr b F.CLK_REF_CFG_EN 5 = 1 ∧ !ppsEn b then clkRefresh (measured 5 0 dco (f10mOk b))
  else b

/-- F10M_LOSS. -/
def execF10mLoss (dt : Nat) (lost : Bool) (dco : Int) (s : State) : Host.Outcome State Fault Refusal := eff dt s (f10mLoss lost dco)

/-- PPS_PULSE (R276): `count` periods of 10 MHz since the pulse before. -/
def ppsPulse (count : Nat) (filtered dco : Int) (b : Blk) : Blk :=
  let x := b.ref 5
  if rr b F.CLK_REF_CFG_EN 5 = 0 ∨ !ppsEn b ∨ !x.tenMHz then b
  else
    let ok := Nat.ble 9999999 count && Nat.ble count 10000001
    let b := b.putRef 5 { x with pulseAt := b.now, off := if ok then 0 else x.off + 1 }
    let q := rr b F.CLK_REF_CFG_QUALITY 5
    let b := setQuality 5 q (q / 16) (q % 16) b
    if ok then clkRefresh (measured 5 (reduceBy (lessDelay b 5 filtered) (1, 1)) dco (refOk 5 b))
    else clkRefresh (if 2 ≤ x.off + 1 then disqualify 5 1 b else if x.qualified then b else refBroken 5 b)

/-- PPS_PULSE. -/
def execPpsPulse (dt count : Nat) (filtered dco : Int) (s : State) : Host.Outcome State Fault Refusal :=
  eff dt s (ppsPulse count filtered dco)

/-- PPS_TIMEOUT (R276). -/
def execPpsTimeout (dt : Nat) (s : State) : Host.Outcome State Fault Refusal :=
  eff dt s fun b =>
    if ppsEn b && Nat.ble ((b.ref 5).pulseAt + 1500000000) b.now then clkRefresh (disqualify 5 1 b) else b

/-- A time transfer of REF6 or REF7: the source's clock state, quality, selected reference, uncertainty and UTC offset, with
the filtered offset and the loop's value (R272, R276, R298). -/
def peerTime (k state quality sel : Nat) (unc : Bool) (utc filtered dco : Int) (b : Blk) : Blk :=
  if rr b F.CLK_REF_CFG_EN k = 0 then b
  else
    let b := setQuality k quality (quality / 16) (quality % 16) (b.putRef k { b.ref k with peer := some (state, sel, unc, utc) })
    if state = ckLocked ∨ state = ckHoldover then clkRefresh (measured k filtered dco (refOk k b))
    else clkRefresh (disqualify k 7 b)

/-- The path of REF6 or REF7 is lost (R276). -/
def peerLost (k : Nat) (b : Blk) : Blk :=
  let b := b.putRef k { b.ref k with peer := none }
  clkRefresh (disqualify k 1 b)

/-! ### Jumps (R277) -/

/-- The offset of the reference in use is beyond STEP_T. -/
def jumped (b : Blk) : Bool :=
  match refInUse b with
  | some k => clkState b == ckLocked && Nat.blt (stepT b) (rdInt b F.CLK_REF_OFFSET_OFFSET (k + 1)).natAbs
  | none => false

/-- REF_JUMP: the jump of the reference in use begins; the DCO holds. -/
def execRefJump (dt : Nat) (s : State) : Host.Outcome State Fault Refusal :=
  eff dt s fun b =>
    if jumped b && b.clk.jumpAt == none then { b with clk := { b.clk with jumpAt := some b.now } } else b

/-- JUMP_TIMEOUT: still beyond STEP_T after 2 s. -/
def execJumpTimeout (dt : Nat) (s : State) : Host.Outcome State Fault Refusal :=
  eff dt s fun b =>
    match b.clk.jumpAt, refInUse b with
    | some t, some k =>
      if jumped b ∧ t + 2000000000 ≤ b.now then
        clkRefresh (disqualify k 6 { b with clk := { b.clk with jumpAt := none } })
      else b
    | _, _ => b

/-! ### The selector (R278 to R281) -/

/-- The mean offset of a reference over the last 16 s. -/
def meanOff (b : Blk) (k : Nat) : Int :=
  let l := (b.ref k).offs.filter fun e => Nat.ble b.now (e.1 + 16000000000)
  if l.isEmpty then rdInt b F.CLK_REF_OFFSET_OFFSET (k + 1)
  else l.foldl (fun (a : Int) (e : Nat × Int) => a + e.2) 0 / (l.length : Int)

/-- REF5 without PPS: frequencies are compared. -/
def freqOnly (b : Blk) (k : Nat) : Bool := k == 5 && !ppsEn b

/-- How far two references differ, and the threshold: phase in ns, or frequency in 0.001 ppb (R280). -/
def refDiff (b : Blk) (i j : Nat) : Nat × Nat :=
  if freqOnly b i || freqOnly b j then
    ((rdInt b F.CLK_REF_FREQ_FREQ (i + 1) - rdInt b F.CLK_REF_FREQ_FREQ (j + 1)).natAbs, b.rd F.CLK_QUARREL_FREQ_T 0 * 10)
  else
    let d := meanOff b i - meanOff b j
    let d := if i = 4 ∨ j = 4 then reduceBy d (houseFrame (rr b F.CLK_REF_IN_FORMAT 4)) else d
    (d.natAbs, b.rd F.CLK_QUARREL_PHASE_T 0)

/-- Key of a pair of references, the lower first. -/
def pairKey (i j : Nat) : Nat := Nat.min i j * 8 + Nat.max i j

def Blk.quarrel (b : Blk) (i j : Nat) : QuarrelSt := mgetD b.clk.quarrels (pairKey i j) {}

/-- Two references are compared at a run of the selector (R280): events 0x0103 and 0x0104. -/
def comparePair (i j : Nat) (b : Blk) : Blk :=
  let q := b.quarrel i j
  let d := refDiff b i j
  let beyond := Nat.blt d.2 d.1
  let far := !(freqOnly b i || freqOnly b j) && Nat.blt (stepT b) d.1
  let close := Nat.ble (2 * d.1) d.2
  let bad := if beyond then some (q.badSince.getD b.now) else none
  let good := if close then some (q.goodSince.getD b.now) else none
  let starts := !q.active && (far || (match bad with | some t => Nat.ble (t + 16000000000) b.now | none => false))
  let ends := q.active && (match good with | some t => Nat.ble (t + 60000000000) b.now | none => false)
  let act := if starts then true else if ends then false else q.active
  let b := { b with clk := { b.clk with quarrels := mset b.clk.quarrels (pairKey i j) ⟨bad, act, good⟩ } }
  if starts then
    clkEvent 0x103 sevWarning (i + 8 * j) (evB 3)
      ((b.bump F.CLK_REF_COUNT_QUARRELS (i + 1)).bump F.CLK_REF_COUNT_QUARRELS (j + 1))
  else if ends then clkEvent 0x104 sevNotice (i + 8 * j) (evB 3) b
  else b

/-- The pairs of a list. -/
def pairsOf : List Nat → List (Nat × Nat)
  | [] => []
  | x :: t => t.map (fun y => (x, y)) ++ pairsOf t

/-- The subsets of a list. -/
def subsets : List Nat → List (List Nat)
  | [] => [[]]
  | x :: t => let r := subsets t; r.map (x :: ·) ++ r

/-- No two of a set quarrel. -/
def agreeAll (b : Blk) (l : List Nat) : Bool := (pairsOf l).all fun e => !(b.quarrel e.1 e.2).active

/-- The largest agreeing set that holds more than half, if any (R281). -/
def majority (b : Blk) (l : List Nat) : Option (List Nat) :=
  let ok := (subsets l).filter fun s => Nat.blt l.length (2 * s.length) && agreeAll b s
  ok.foldl (fun (a : Option (List Nat)) (s : List Nat) => match a with
    | some m => if m.length < s.length then some s else some m
    | none => some s) none

/-- This module leads an ensemble; it is a member of one (R278). -/
def isLead (b : Blk) : Bool := b.on F.ENS_STAT_LEAD 0
def isMember (b : Blk) : Bool := b.rd F.ENS_STAT_STATE 0 == 3

/-- Removed by the loop rule of R278. -/
def loopRule (b : Blk) (k : Nat) : Bool :=
  if k = 6 then (match (b.ref 6).peer with | some p => p.2.1 == 6 || (p.2.1 == 7 && isLead b) | none => false)
  else if k = 7 then isLead b || !isMember b
  else false

/-- Enabled and qualified, not drift-disqualified and not removed by the loop rule. -/
def baseCands (b : Blk) : List Nat :=
  (List.range 8).filter fun k => rr b F.CLK_REF_CFG_EN k == 1 && (b.ref k).qualified && rr b F.CLK_REF_STAT_DRIFT_DQ k == 0
    && !loopRule b k

/-- The members of a list with the lowest quality value. -/
def bestQuality (b : Blk) (l : List Nat) : List Nat :=
  let q := l.foldl (fun a k => Nat.min a (rr b F.CLK_REF_STAT_QUALITY k)) 255
  l.filter fun k => rr b F.CLK_REF_STAT_QUALITY k == q

/-- The lowest PRIORITY, then the lowest number. -/
def byPriority (b : Blk) (l : List Nat) : Option Nat :=
  l.foldl (fun (a : Option Nat) k => match a with
    | some c => if rr b F.CLK_REF_CFG_PRIORITY k < rr b F.CLK_REF_CFG_PRIORITY c then some k else some c
    | none => some k) none

/-- Mark a reference OUTVOTED or not; event 0x0105 when it becomes so (R281). -/
def setOutvoted (k : Nat) (v : Bool) (b : Blk) : Blk :=
  let old := rr b F.CLK_REF_STAT_OUTVOTED k = 1
  let b := b.put F.CLK_REF_STAT_OUTVOTED (k + 1) v
  if v && !old then clkEvent 0x105 sevWarning k (evB 3) b else b

/-- The quarrel and majority rules over the references of best quality (R280, R281): outvoted ones, those marked QUARREL, and
those left to choose from. -/
def judgeBest (b : Blk) (best : List Nat) : List Nat × List Nat × List Nat :=
  let used := match refInUse b with | some k => if best.contains k then some k else none | none => none
  if agreeAll b best then ([], [], best)
  else
    match if 3 ≤ best.length then majority b best else none with
    | some s => (best.filter (!s.contains ·), [], s)
    | none =>
      match used with
      | some k =>
        let foes := best.filter fun j => j != k && (b.quarrel k j).active
        let worst := foes.foldl (fun (a : Option Nat) j => match a with
          | some c => if (refDiff b k c).1 < (refDiff b k j).1 then some j else some c
          | none => some j) none
        match worst with
        | some j => ([], [j], [k])
        | none => ([], [], [k])
      | none => ([], best, [])

/-- What the selector chooses: the choice, and its cause when it is taken at once (3 majority, 4 forced, 5 follow, 2 better). -/
def choose (b : Blk) (left : List Nat) (cands : List Nat) : Option Nat × Nat :=
  let mode := b.rd F.CLK_CFG_MODE 0
  if 2 ≤ mode then (none, 4)
  else if mode = 1 then
    let k := b.rd F.CLK_CFG_FORCE_REF 0
    (if cands.contains k then some k else none, 4)
  else if isMember b && !isLead b && cands.contains 7 then (some 7, 5)
  else if b.rd F.SYS_ROLE_ROLE 0 == 2 && b.on F.CLK_CFG_FOLLOW 0 && cands.contains 6 then (some 6, 5)
  else (byPriority b left, 2)

/-- A reference is taken into use, or none: event 0x0101 and the clock's state (R279, R282). -/
def takeRef (r : Option Nat) (cause : Nat) (b : Blk) : Blk :=
  let old := refInUse b
  let watch := match old with | some k => rr b F.CLK_REF_STAT_WATCH k == 1 | none => false
  let b := { b with clk := { b.clk with better := none, lost := false, nearSince := none, jumpAt := none } }
  match r with
  | some k =>
    let b := (b.wr F.CLK_STAT_SEL 0 k).wr F.CLK_STAT_SEL_VALID 0 1
    let b := clkEvent 0x101 sevNotice (k + 16 * cause) (evB 1) b
    let st := clkState b
    if st = ckFreerun ∨ st = ckHoldover ∨ st = ckExpired then setClock ckAcquiring b
    else if st = ckLocked ∧ b.rd F.CLK_SEL_SWITCH_PH 0 < (rdInt b F.CLK_REF_OFFSET_OFFSET (k + 1)).natAbs then setClock ckAcquiring b
    else b
  | none =>
    let b := b.wr F.CLK_STAT_SEL_VALID 0 0
    let b := clkEvent 0x101 sevNotice (8 + 16 * cause) (evB 1) b
    clockUnselected watch b

/-- The LOOP flags and the comparisons of a run. Of a pair that is not compared, the times of R280 begin again. -/
def selectorCompare (b : Blk) : Blk :=
  let b := { b with clk := { b.clk with ranAt := b.now, runDue := false } }
  let b := forEach (List.range 8) (fun k b =>
    b.put F.CLK_REF_STAT_LOOP (k + 1) (loopRule b k && (b.ref k).qualified && rr b F.CLK_REF_CFG_EN k == 1)) b
  let pairs := pairsOf (bestQuality b (baseCands b))
  let keys := pairs.map fun e => pairKey e.1 e.2
  let idle : Nat × QuarrelSt → Nat × QuarrelSt := fun e => if keys.contains e.1 then e else (e.1, ⟨none, e.2.active, none⟩)
  let b := { b with clk := { b.clk with quarrels := b.clk.quarrels.map idle } }
  forEach pairs (fun e b => comparePair e.1 e.2 b) b

/-- The OUTVOTED and QUARREL flags of a run. -/
def selectorMark (out quar : List Nat) (b : Blk) : Blk :=
  forEach (List.range 8) (fun k b => (setOutvoted k (out.contains k) b).put F.CLK_REF_STAT_QUARREL (k + 1)
    (quar.contains k)) b

/-- A reference other than the one in use has been chosen: it waits for WTR (R279). -/
def selectorWait (k cause : Nat) (b : Blk) : Blk :=
  let since := match b.clk.better with | some (r, t) => if r = k then t else b.now | none => b.now
  if since + b.rd F.CLK_SEL_WTR 0 * 1000000000 ≤ b.now then takeRef (some k) cause b
  else { b with clk := { b.clk with better := some (k, since) } }

/-- What becomes of the choice of a run (R279). -/
def selectorTake (c : Option Nat × Nat) (cands out : List Nat) (b : Blk) : Blk :=
  match refInUse b, c.1 with
  | none, some k => takeRef (some k) 6 b
  | none, none => b
  | some u, r =>
    if !cands.contains u || b.clk.lost || Nat.ble 2 (b.rd F.CLK_CFG_MODE 0) then
      takeRef r (if 1 ≤ b.rd F.CLK_CFG_MODE 0 then 4 else if out.contains u then 3 else 1) b
    else match r with
      | some k =>
        if k = u then { b with clk := { b.clk with better := none } }
        else if c.2 = 4 then takeRef (some k) 4 b
        else selectorWait k c.2 b
      | none => takeRef none (if c.2 = 4 then 4 else 1) b

/-- One run of the selector. -/
def selectorRun (b : Blk) : Blk :=
  let b := selectorCompare b
  let base := baseCands b
  let j := judgeBest b (bestQuality b base)
  let b := selectorMark j.1 j.2.1 b
  let cands := base.filter fun k => !j.1.contains k && !j.2.1.contains k
  let b := selectorTake (choose b j.2.2 cands) cands j.1 b
  clkRefresh (if b.rd F.CLK_CFG_MODE 0 = 3 ∧ clkState b ≠ ckWarmup then setClock ckFreerun b else b)

/-- SELECTOR_RUN (R278): due every 1 s, and at once on the causes of R278. -/
def execSelectorRun (dt : Nat) (s : State) : Host.Outcome State Fault Refusal :=
  eff dt s fun b => if b.clk.runDue || Nat.ble (b.clk.ranAt + 1000000000) b.now then selectorRun b else b

/-- A write changed CLK's registers: a reference disabled or enabled, MODE or FORCE_REF. -/
def clkConfigured (k : Nat) (b : Blk) : Blk :=
  let b := if k < 8 ∧ rr b F.CLK_REF_CFG_EN k = 0 then
      let used := refInUse b == some k
      let b := b.putRef k { tenMHz := (b.ref k).tenMHz }
      let b := ((b.put F.CLK_REF_STAT_WATCH (k + 1) false).put F.CLK_REF_STAT_QUARREL (k + 1) false).put
        F.CLK_REF_STAT_OUTVOTED (k + 1) false
      let b := b.put F.CLK_REF_STAT_DRIFT_DQ (k + 1) false
      if used then { b with clk := { b.clk with runDue := true, lost := true } } else b
    else if k = 5 then f10mOk b
    else b
  let b := if (k = 4 ∨ k = 5) ∧ (b.ref k).okSince.isSome then
      let q := rr b F.CLK_REF_CFG_QUALITY k
      setQuality k q (q / 16) (q % 16) b
    else b
  clkRefresh b

/-- A change of MODE, FORCE_REF or role makes a run due (R278). -/
def selectorDue (b : Blk) : Blk := { b with clk := { b.clk with runDue := true } }

/-! ### Clock states (R282, R283, R293) -/

/-- CLOCK_LOCKED. -/
def execClockLocked (dt : Nat) (s : State) : Host.Outcome State Fault Refusal :=
  eff dt s fun b =>
    match refInUse b, b.clk.nearSince with
    | some k, some t =>
      if clkState b = ckAcquiring ∧ t + (lockLimit k).2 ≤ b.now then clkRefresh (setClock ckLocked b) else b
    | _, _ => b

/-- The oven is ready: the clock leaves WARMUP (R282, R293). -/
def ocxoReady (b : Blk) : Blk :=
  let b := b.wr F.CLK_OCXO_WARM 0 1
  if clkState b = ckWarmup then
    let b := setClock ckFreerun b
    let b := if (refInUse b).isSome ∧ b.rd F.CLK_CFG_MODE 0 < 2 then setClock ckAcquiring b else b
    clkRefresh b
  else b

/-- OCXO_READY. -/
def execOcxoReady (dt : Nat) (s : State) : Host.Outcome State Fault Refusal := eff dt s ocxoReady

/-- Shift a time by a step. -/
def Asm.shift (d : Int) (a : Asm) : Asm :=
  { a with began := shiftT d a.began, end0 := a.end0.map (shiftT d), end1 := a.end1.map (shiftT d),
           seqs := a.seqs.map fun e => (e.1, e.2.1, shiftT d e.2.2) }

/-- The arrival times that an ingest channel holds (R284). -/
def IngCh.shift (d : Int) (c : IngCh) : IngCh :=
  { c with asms := c.asms.map (Asm.shift d), last0 := shiftT d c.last0, last1 := shiftT d c.last1, lastAnc := shiftT d c.lastAnc,
           ready := c.ready.map fun q => { q with f := q.f.shift d },
           sr := c.sr.map fun e => (e.1, e.2.1, shiftT d e.2.2) }

/-- The arrival times that a decoder context holds (R284). -/
def VdcCtx.shift (d : Int) (c : VdcCtx) : VdcCtx :=
  { c with pics := c.pics.map fun p => { p with frame := p.frame.shift d }, wait := c.wait.map fun e => (e.1, { e.2 with f := e.2.f.shift d }),
           arrivals := c.arrivals.map (shiftT d), stalledAt := shiftT d c.stalledAt, rateAt := c.rateAt.map (shiftT d) }

/-- The frames that a stage holds (R284). -/
def StgSt.shift (d : Int) (x : StgSt) : StgSt :=
  { x with scene := x.scene.map fun e => (e.1, { e.2 with disp := e.2.disp.map (Frame.shift d), next := e.2.next.map (Frame.shift d) }) }

/-- The times of a reference that CLK counts from: what has lasted a while has lasted as long after a step. DESIGN CHOICE: R284 names
the blocks whose times move, and is silent on CLK's own (log 84). -/
def RefSt.shift (d : Int) (x : RefSt) : RefSt :=
  { x with masters := x.masters.map fun m => { m with at_ := shiftT d m.at_, before := m.before.map (shiftT d) },
           sync := x.sync.map fun e => (e.1, e.2 + d), dreqAt := x.dreqAt.map (shiftT d), exch := x.exch.map (shiftT d),
           syncAt := if x.syncAt = 0 then 0 else shiftT d x.syncAt,
           offs := x.offs.map fun e => (shiftT d e.1, e.2 - d), okSince := x.okSince.map (shiftT d), pulseAt := shiftT d x.pulseAt,
           calmSince := x.calmSince.map (shiftT d), sampleAt := shiftT d x.sampleAt }

/-- The times that the clock itself counts from, likewise. -/
def ClkSt.shift (d : Int) (c : ClkSt) : ClkSt :=
  { c with refs := c.refs.map fun e => (e.1, e.2.shift d),
           quarrels := c.quarrels.map fun e => (e.1, ⟨e.2.badSince.map (shiftT d), e.2.active, e.2.goodSince.map (shiftT d)⟩),
           ranAt := shiftT d c.ranAt, better := c.better.map fun e => (e.1, shiftT d e.2), acqAt := shiftT d c.acqAt,
           jumpAt := c.jumpAt.map (shiftT d), nearSince := c.nearSince.map (shiftT d), lockedAt := shiftT d c.lockedAt,
           hist := c.hist.map fun e => (shiftT d e.1, e.2), hoAt := shiftT d c.hoAt, updAt := shiftT d c.updAt,
           binAt := shiftT d c.binAt, ages := c.ages.map fun e => (shiftT d e.1, e.2), ageAt := shiftT d c.ageAt,
           savedAt := c.savedAt.map (shiftT d) }

/-- A step of stage time (R283, R284): event 0x0102; what ING, XSD, VDC, PRM and STG hold moves with it, the time base is
uncertain for each timed layer, genlocked heads pull in anew, and the offsets of the references shrink by the step. -/
def stageStep (d : Int) (b : Blk) : Blk :=
  let b := { b with now := shiftT d b.now }
  let b := { b with ing := b.ing.map fun e => (e.1, e.2.shift d), vdc := b.vdc.map fun e => (e.1, e.2.shift d),
                    stg := b.stg.map fun e => (e.1, e.2.shift d) }
  let b := prompterStep d b
  let b := { b with clk := b.clk.shift d }
  let b := forEach (List.range 8) (fun k b =>
    if (b.ref k).offs.isEmpty then b else wrInt F.CLK_REF_OFFSET_OFFSET (k + 1) (rdInt b F.CLK_REF_OFFSET_OFFSET (k + 1) - d) b) b
  let b := forEach (List.range 24) (fun h b => if headRuns b h && b.on F.OHD_CTRL_GENLOCK h then genlockRestart h b else b) b
  clkEvent 0x102 sevWarning (Nat.min (2 ^ 21 - 1) (d.natAbs / 1000) + 2 ^ 21 * b2n (decide (d < 0))) (evB 2) b

/-- PULL_IN (R283): after 4 complete exchanges, or 1 s, the clock steps or begins to slew, once for each entry. -/
def pullIn (b : Blk) : Blk :=
  match refInUse b with
  | none => b
  | some k =>
    let ready := if k < 4 then Nat.ble 4 (b.ref k).since else Nat.ble (b.clk.acqAt + 1000000000) b.now
    if clkState b ≠ ckAcquiring ∨ b.clk.pulled ∨ !ready then b
    else
      let off := rdInt b F.CLK_REF_OFFSET_OFFSET (k + 1)
      let b := { b with clk := { b.clk with pulled := true } }
      let b := if b.on F.CLK_CFG_STEP_EN 0 && Nat.blt (stepT b) off.natAbs then stageStep off b else b
      clkRefresh (if k < 4 ∨ 6 ≤ k then b.wr F.CLK_STAT_TOD_VALID 0 1 else b)

/-- PULL_IN. -/
def execPullIn (dt : Nat) (s : State) : Host.Outcome State Fault Refusal := eff dt s pullIn

/-! ### Holdover and learning (R288 to R292) -/

/-- HOLDOVER_UPDATE (R288): every 1 s in holdover, the DCO value and the elapsed time. -/
def holdoverUpdate (b : Blk) : Blk :=
  if (clkState b ≠ ckHoldover ∧ clkState b ≠ ckExpired) ∨ b.now < b.clk.updAt + 1000000000 then b
  else
    let v := rdInt b F.CLK_DCO_HO_FREQ 0 + comp b (ocxoTemp b) - comp b b.clk.hoTemp + ageing b (b.now - b.clk.hoAt)
    let b := { b with clk := { b.clk with updAt := b.now } }
    (setDco v b).wr F.CLK_HO_TIME_INTERVAL 0 (Nat.min (2 ^ 24 - 1) ((b.now - b.clk.hoAt) / 1000000000))

/-- HOLDOVER_UPDATE. -/
def execHoldoverUpdate (dt : Nat) (s : State) : Host.Outcome State Fault Refusal := eff dt s holdoverUpdate

/-- HOLDOVER_EXPIRED (R282). -/
def execHoldoverExpired (dt : Nat) (s : State) : Host.Outcome State Fault Refusal :=
  eff dt s fun b =>
    let el := (b.now - b.clk.hoAt) / 1000000000
    if clkState b = ckHoldover ∧ b.rd F.CLK_HO_QUAL_INTERVAL 0 ≤ el then
      clkRefresh (setClock ckExpired (b.wr F.CLK_HO_TIME_INTERVAL 0 (Nat.min (2 ^ 24 - 1) el)))
    else b

/-- A drift watch is in force on the reference in use. -/
def watching (b : Blk) : Bool :=
  match refInUse b with | some k => rr b F.CLK_REF_STAT_WATCH k == 1 | none => false

/-- The bin of a temperature: 96 bins of 1 °C from −10 °C. -/
def binOf (t : Int) : Option Nat := if -1000 ≤ t ∧ t < 8600 then some ((t + 1000) / 100).toNat else none

/-- TEMP_BIN_UPDATE (R289). -/
def tempBinUpdate (b : Blk) : Blk :=
  if clkState b ≠ ckLocked ∨ watching b ∨ b.now < b.clk.binAt + 16000000000 then b
  else match binOf (ocxoTemp b) with
    | none => b
    | some i =>
      let s := dcoNow b - ageing b (b.now - b.clk.ageAt)
      let e := mgetD b.clk.bins i (256 * s, 0)
      clkRefresh { b with clk := { b.clk with binAt := b.now, bins := mset b.clk.bins i (e.1 + (256 * s - e.1) / 256, e.2 + 1) } }

/-- TEMP_BIN_UPDATE. -/
def execTempBinUpdate (dt : Nat) (s : State) : Host.Outcome State Fault Refusal := eff dt s tempBinUpdate

/-- AGEING_SAMPLE (R290): every hour in LOCKED; the slope over the last 7 days is the rate, valid after 24 samples. -/
def ageingSample (b : Blk) : Blk :=
  let last := match b.clk.ages with | e :: _ => e.1 | [] => 0
  if clkState b ≠ ckLocked ∨ (b.clk.ages ≠ [] ∧ b.now < last + 3600000000000) then b
  else
    let s := dcoNow b - comp b (ocxoTemp b)
    let ages := ((b.now, s) :: b.clk.ages.filter fun e => Nat.ble b.now (e.1 + 604800000000000)).take 169
    let sl := timedSlope ages
    -- 0.01 ppt per hour to 0.0001 ppb per day: 24 / 10
    let r := if sl.2 = 0 then 0 else sl.1 * 24 / (sl.2 * 10)
    let valid := Nat.ble 24 ages.length
    let b := { b with clk := { b.clk with ages := ages, rValid := b.clk.rValid || valid, ageAt := if valid then b.now else b.clk.ageAt } }
    clkRefresh (if valid then wrInt F.CLK_AGEING_RATE 0 r b else b)

/-- AGEING_SAMPLE. -/
def execAgeingSample (dt : Nat) (s : State) : Host.Outcome State Fault Refusal := eff dt s ageingSample

/-- The table and r go to the EEPROM (R291), and the lane margins with them (R325). -/
def learningSave (b : Blk) : Blk :=
  let v := (b.clk.bins.map fun e => (e.1, e.2.1, e.2.2), if b.clk.rValid then rdInt b F.CLK_AGEING_RATE 0 else 0)
  let b := { b with clk := { b.clk with saved := some v, savedAt := some b.now } }
  clkEvent 0x10C sevInfo 0 0 (marginsSave b)

/-- CLK_LEARN.SAVED_H: hours since the last save, saturating; its reset value where nothing was saved since power-up. -/
def savedHours (b : Blk) : Nat := match b.clk.savedAt with | some t => Nat.min 65535 ((b.now - t) / 3600000000000) | none => 65535

/-- LEARNING_SAVE (R291): every 24 h of stage time. -/
def execLearningSave (dt : Nat) (s : State) : Host.Outcome State Fault Refusal :=
  eff dt s fun b => if b.clk.savedAt.getD 0 + 86400000000000 ≤ b.now then learningSave b else b

/-- CLK_LEARN.CLEAR discards the table and r, in use and in the EEPROM (R291). -/
def learningClear (b : Blk) : Blk :=
  clkRefresh (wrInt F.CLK_AGEING_RATE 0 0 { b with clk := { b.clk with bins := [], ages := [], rValid := false, saved := none,
                                                                       waiting := false } })

/-- LEARNING_RESTORE (R291): after 10 min LOCKED, restored values within 0.5 ppb of the DCO value take effect; others are
discarded. -/
def learningRestore (b : Blk) : Blk :=
  match b.clk.saved with
  | some (bins, r) =>
    if b.clk.waiting ∧ clkState b = ckLocked ∧ b.clk.lockedAt + 600000000000 ≤ b.now then
      let b' := { b with clk := { b.clk with waiting := false, bins := bins.map fun (e : Nat × Int × Nat) => (e.1, e.2.1, e.2.2),
                                             rValid := true, ageAt := b.now } }
      let d := dcoNow b - comp b' (ocxoTemp b)
      if d.natAbs ≤ 50000 then clkEvent 0x10C sevInfo 1 0 (clkRefresh (wrInt F.CLK_AGEING_RATE 0 r b'))
      else clkEvent 0x10C sevInfo 3 0 { b with clk := { b.clk with waiting := false } }
    else b
  | none => b

/-- LEARNING_RESTORE. -/
def execLearningRestore (dt : Nat) (s : State) : Host.Outcome State Fault Refusal := eff dt s learningRestore

/-! ### The drift guard (R294, R295) -/

/-- Predicted crossing in s, if it is computed. -/
def crossing (tol : Int) (yNow : Int) (s : Int × Int) : Option Nat :=
  if s.1 = 0 ∨ (0 < yNow ∧ s.1 < 0) ∨ (yNow < 0 ∧ 0 < s.1) then none
  else some (((tol - yNow.natAbs) * 16 * s.2 / (s.1.natAbs : Int)).toNat)

/-- DRIFT_SAMPLE (R294, R295): y in 0.001 ppb, every 16 s. -/
def driftSample (k : Nat) (y : Int) (b : Blk) : Blk :=
  let x := b.ref k
  let dq := rr b F.CLK_REF_STAT_DRIFT_DQ k = 1
  if rr b F.CLK_REF_CFG_EN k = 0 ∨ rr b F.CLK_REF_CFG_DG_EN k = 0 ∨ (!x.qualified && !dq) ∨ b.now < x.sampleAt + 16000000000 then b
  else
    let ys := (y :: x.ys).take 256
    let old := ys.reverse
    let long := slopeOf old
    let short := slopeOf ((ys.take 16).reverse)
    let n : Int := old.length
    let sum := old.foldl (fun (a : Int) (v : Int) => a + v) 0
    let yNow := sum / n + (if long.2 = 0 then 0 else long.1 * (n - 1) / (2 * long.2))
    let same := (0 < long.1 ∧ 0 < short.1) ∨ (long.1 < 0 ∧ short.1 < 0)
    let conf := decide (ys.length = 256) && decide same
      && decide (long.1.natAbs * short.2.natAbs ≤ 2 * short.1.natAbs * long.2.natAbs)
    let tol : Int := rr b F.CLK_REF_TOL_TOL k * 10
    let tx := crossing tol yNow long
    let calm := if 2 * y.natAbs < tol.natAbs && !conf then some (x.calmSince.getD b.now) else none
    let b := b.putRef k { x with ys := ys, sampleAt := b.now, calmSince := calm }
    let b := wrInt F.CLK_REF_FREQ_FREQ (k + 1) y b
    let b := wrInt F.CLK_REF_TREND_SLOPE (k + 1)
      (clampI (-32768) 32767 (if long.2 = 0 then 0 else long.1 * 225 / (long.2 * 10))) b
    let b := b.wr F.CLK_REF_TREND_CROSS (k + 1) (match tx with | some t => Nat.min 65535 (t / 10) | none => 65535)
    let warn := b.rd F.CLK_GUARD_WARN_T 0 * 10
    let disq := b.rd F.CLK_GUARD_DISQ_T 0 * 10
    let within (t : Nat) : Bool := conf && (match tx with | some v => Nat.ble v t | none => false)
    -- a watch ends although the reference is disqualified
    let b := if dq && !within (2 * warn) then b.put F.CLK_REF_STAT_WATCH (k + 1) false else b
    if dq then
      match calm with
      | some t => if t + 3600000000000 ≤ b.now then clkRefresh (b.put F.CLK_REF_STAT_DRIFT_DQ (k + 1) false) else b
      | none => b
    else if within disq ∨ tol ≤ yNow.natAbs then
      let b := (b.put F.CLK_REF_STAT_DRIFT_DQ (k + 1) true)
      let b := clkEvent 0x107 sevError k (evB 4) b
      clkRefresh ((disqualify k 0 b).putRef k { (disqualify k 0 b).ref k with calmSince := none })
    else if rr b F.CLK_REF_STAT_WATCH k = 0 then
      if within warn then
        clkRefresh (clkEvent 0x106 sevWarning (k + 8 * Nat.min 65535 (tx.getD 0 / 10)) (evB 4)
          (b.put F.CLK_REF_STAT_WATCH (k + 1) true))
      else b
    else if !within (2 * warn) then clkRefresh (b.put F.CLK_REF_STAT_WATCH (k + 1) false)
    else b

/-- DRIFT_SAMPLE. -/
def execDriftSample (dt ref : Nat) (y : Int) (s : State) : Host.Outcome State Fault Refusal := eff dt s (driftSample ref y)

/-! ### Time of day and UTC (R297, R298) -/

/-- A write of APPLY (R297). -/
def todApply (b : Blk) : Blk :=
  let refuse := match refInUse b with | some k => Nat.blt k 4 || Nat.ble 6 k | none => false
  if refuse then clkEvent 0x10B sevNotice 0 0 b
  else { b with clk := { b.clk with tod := some (b.now / 1000000000 + 1, b.rd F.CLK_TOD_SEC_SEC 0) } }

/-- TOD_STEP_APPLY (R297). -/
def todStepApply (b : Blk) : Blk :=
  match b.clk.tod with
  | some (n, sec) =>
    if n * 1000000000 ≤ b.now then
      let b := { b with clk := { b.clk with tod := none } }
      clkRefresh ((stageStep ((sec : Int) * 1000000000 - n * 1000000000) b).wr F.CLK_STAT_TOD_VALID 0 1)
    else b
  | none => b

/-- TOD_STEP_APPLY. -/
def execTodStepApply (dt : Nat) (s : State) : Host.Outcome State Fault Refusal := eff dt s todStepApply

/-- LEAP_ADJUST (R298): the UTC day in which the flag was heard has ended; with leap59 it ends one second early. -/
def leapAdjust (b : Blk) : Blk :=
  let utc : Int := (b.now / 1000000000 : Nat) - rdInt b F.CLK_UTC_ACT 0
  let day := (utc + (if b.clk.leap < 0 then 1 else 0)) / 86400
  match refInUse b with
  | some k =>
    if k < 4 ∧ b.clk.leap ≠ 0 ∧ b.clk.leapDay < day then
      refreshUtc { b with clk := { b.clk with leapAdj := b.clk.leapAdj + b.clk.leap, leap := 0 } }
    else b
  | none => b

/-- LEAP_ADJUST. -/
def execLeapAdjust (dt : Nat) (s : State) : Host.Outcome State Fault Refusal := eff dt s leapAdjust

end Sys2Proof.Machine
end

