-- ==== Sys2Proof/Machine/Pair.lean ====
section
/-!
DEFINITION. The pair engine (chapter "Active and understudy"): forming and settling, heartbeats, the ownership interlock,
the sending side of the epoch copy, the dress rehearsal, takeover and handback.
-/

namespace Sys2Proof.Machine

def pairPage : Page := ⟨.pair, 0⟩

/-- An event of the PAIR page (R361). -/
def pairEvent (code sev d evt : Nat) (b : Blk) : Blk := raise pairPage code sev d evt b

/-! Roles of R35. -/

abbrev roOff : Nat := 0
abbrev roWings : Nat := 1
abbrev roUnderstudy : Nat := 2
abbrev roActive : Nat := 3
abbrev roCurtain : Nat := 4

def role (b : Blk) : Nat := b.rd F.SYS_ROLE_ROLE 0
def partnerPath (b : Blk) : Bool := b.on F.PAIR_STAT_PATH_A 0 || b.on F.PAIR_STAT_PATH_B 0
def ownIn (b : Blk) : Bool := b.on F.PAIR_STAT_OWN_IN 0
def Blk.pr (b : Blk) : PairSt := b.pair
def Blk.putPr (b : Blk) (x : PairSt) : Blk := { b with pair := x }

/-- A partner is heard while either path is up, on a module that may pair (R328, R329). -/
def heard (b : Blk) : Bool := partnerPath b && b.on F.PAIR_CFG_EN 0

/-! ### Roles -/

/-- A change of role is reported once, by event 0x0100 with the takeover cause (R361). -/
def roleReport (cause : Nat) (b : Blk) : Blk :=
  let r := role b
  let old := b.pr.roleTold
  if r = old then b
  else
    let b := selectorDue (b.putPr { b.pr with roleTold := r })
    pairEvent 0x100 (if r = roCurtain ∨ r = roWings then sevWarning else sevNotice) (r + 8 * old + 64 * cause) (evB 0) b

/-- The module takes a role. -/
def takeRole (r cause : Nat) (b : Blk) : Blk := roleReport cause (setRole r b)

/-- The level of OWN_OUT, with OHD_STAT.OWNED. -/
def setOwnOut (v : Bool) (b : Blk) : Blk :=
  if ownOut b == v then b
  else
    let b := (b.put F.PAIR_STAT_OWN_OUT 0 v).emit (.ownOut v)
    forEach (List.range 24) (fun h b => b.put F.OHD_STAT_OWNED h v) b

/-- OWN_OUT is deasserted, and the heads stop (R260, R334). -/
def dropOwnership (b : Blk) : Blk :=
  let b := b.putPr { b.pr with claimAt := none, contested := false, bothAt := none }
  setOwnOut false (if b.driving then setDriving false b else b)

/-- OWN_IN has been deasserted without a break for 2 µs (R334). -/
def ownInFree (b : Blk) : Bool := !ownIn b && Nat.ble (b.pr.ownInAt + 2000) b.now

/-- The module takes ownership, in role CURTAIN when it holds a fatal record (R37); the claim window begins (R334), and an ACTIVE
module's encoders code an IDR first (R229, R356). -/
def takeOwnership (r cause : Nat) (b : Blk) : Blk :=
  let b := takeRole (if b.ctl.fatal then roCurtain else r) cause b
  let b := if role b = roActive then vecActive b else b
  setOwnOut true (b.putPr { b.pr with claimAt := some b.now, contested := false, bothAt := none })

/-! ### READY (R348) -/

/-- The conditions of R348. -/
def readyNow (b : Blk) : Bool :=
  role b == roUnderstudy && b.rd F.PAIR_STAT_SYNC 0 == 2 && clkState b == ckLocked
    && (refInUse b == some 6 || (refInUse b == some 7 && isMember b))
    && ((List.range 24).all fun h => !headRuns b h || b.rd F.OHD_STAT_GENLOCK h == 2)
    && b.pr.digest == some (ruleDigest b.acg.image)
    && Nat.blt (b.rd F.THM_STAT_LEVEL 0) 3 && !b.ctl.fatal && !b.on F.PAIR_STAT_DR_FAULT 0

/-- PAIR_STAT.READY. -/
def refreshReady (b : Blk) : Blk := b.put F.PAIR_STAT_READY 0 (readyNow b)

/-! ### Forming and settling (R328, R329) -/

/-- The partner's usable capacity as its capability frame gives it, and its SEAT. -/
def peerCapacity (b : Blk) : Option Nat := if chnUp b 0 then some (b.rd F.CHN_PEER_WORD 0 5 % 65536) else none
def peerSeat (b : Blk) : Option Nat :=
  if chnUp b 0 then some (bits (b.rd F.CHN_PEER_WORD 0 4) 8 1) else if partnerPath b then b.pr.beat.map (·.seat) else none

/-- Why the pairing is refused, 0 for no reason (R328). -/
def pairRefusal (b : Blk) : Nat :=
  if (peerCapacity b).isSome && peerCapacity b != some (b.rd F.SYS_VARIANT_USABLE_GIB 0) then 1
  else if (peerSeat b).isSome && peerSeat b == some (b.rd F.SYS_STRAPS_SEAT 0) then 2
  else 0

/-- PAIR_FORM (R328): a pair forms, is refused, or a refusal ends. -/
def pairForm (b : Blk) : Blk :=
  if !b.on F.PAIR_CFG_EN 0 || !(chnUp b 0 || partnerPath b) then
    ((b.wr F.PAIR_STAT_REFUSED 0 0).wr F.PAIR_STAT_REFUSE_CAUSE 0 0).putPr { b.pr with formed := false }
  else
    let why := pairRefusal b
    let told := b.on F.PAIR_STAT_REFUSED 0 && b.rd F.PAIR_STAT_REFUSE_CAUSE 0 == why
    let b' := ((b.put F.PAIR_STAT_REFUSED 0 (why != 0)).wr F.PAIR_STAT_REFUSE_CAUSE 0 why).putPr { b.pr with formed := why == 0 }
    if why = 0 then b'
    else
      let b' := if told then b' else pairEvent 0x103 sevWarning why 0 b'
      if role b' = roUnderstudy then takeRole roWings 0 (b'.wr F.PAIR_STAT_SYNC 0 0) else b'

/-- PAIR_FORM. -/
def execPairForm (dt : Nat) (s : State) : Host.Outcome State Fault Refusal := eff dt s pairForm

/-- The module becomes understudy: a full sync is needed (R338, R344). -/
def becomeUnderstudy (b : Blk) : Blk :=
  let b := b.putPr { b.pr with rx := [], staging := [], waitEnd := none, ends := [], take := none, syncS := none, ackDue := some (b.rd F.PAIR_COMMITTED_EPOCH 0, false, true),
                               syncAt := b.now }
  takeRole roUnderstudy 0 (b.wr F.PAIR_STAT_SYNC 0 1)

/-- The table of R329 for a module in WINGS. -/
def settleWings (b : Blk) : Blk :=
  let refused := b.on F.PAIR_STAT_REFUSED 0
  if refused || b.on F.SYS_STAT_EJECTING 0 || !b.on F.SYS_STAT_OPERATING 0 || b.rd F.ENS_STAT_STATE 0 == 2 then b
  else if heard b then
    let pr := b.rd F.PAIR_STAT_PEER_ROLE 0
    if pr = roActive ∨ pr = roCurtain then
      (if b.pr.hot && Nat.ble 2 (b.rd F.THM_STAT_LEVEL 0) then b else becomeUnderstudy (b.putPr { b.pr with hot := false }))
    else if pr = roWings then
      if b.rd F.SYS_STRAPS_SEAT 0 = 0 then (if ownInFree b then takeOwnership roActive 0 b else b) else becomeUnderstudy b
    else b
  else if ownIn b then
    if b.pr.waitTold then b else pairEvent 0x10C sevWarning 0 0 (b.putPr { b.pr with waitTold := true })
  else
    let from_ := Nat.max b.pr.heardAt (b.rd F.SYS_OPER_TIME_TIME 0)
    if from_ + b.rd F.PAIR_CFG_SETTLE 0 * 100000000 ≤ b.now && ownInFree b then takeOwnership roActive 0 b else b

/-! ### Planned takeover: the active side (R354, R355) -/

/-- A takeover that is refused: event 0x0109 with bit [4] (R354). -/
def takeoverRefused (cause : Nat) (b : Blk) : Blk :=
  pairEvent 0x109 sevWarning (cause + 16) (evB 4) ((b.wr F.PAIR_TAKEOVER_CAUSE 0 cause).wr F.PAIR_TAKEOVER_OUTCOME 0 3)

/-- No planned takeover of cause 1, 3 or 6 begins for HOLDOFF after a handback (R359). -/
def heldOff (b : Blk) : Bool :=
  match b.pr.handAt with
  | some t => Nat.blt b.now (t + b.rd F.PAIR_CFG_HOLDOFF 0 * 1000000000)
  | none => false

/-- The owner begins a planned takeover (R354): RELEASE is set. Causes 2, 4 and 7 do not need a READY partner. -/
def beginPlanned (cause : Nat) (b : Blk) : Blk :=
  let owner := role b == roActive || (role b == roCurtain && cause == 2)
  if !owner || !ownOut b || !heard b || b.pr.release.isSome then b
  else if (cause = 1 ∨ cause = 3 ∨ cause = 6) ∧ (!b.on F.PAIR_STAT_PEER_READY 0 ∨ heldOff b) then takeoverRefused cause b
  else (b.putPr { b.pr with release := some cause, takeRx := none }).wr F.PAIR_STAT_RELEASE 0 1

/-- A write of SWITCH (R354): without a partner, or on a module that is not active, it is refused. -/
def pairSwitch (b : Blk) : Blk :=
  if role b = roActive ∧ heard b then beginPlanned 1 b else takeoverRefused 1 b

/-- The cause of a planned takeover as its understudy sees it (DEDUCED: the heartbeat carries no cause). -/
def plannedCause (b : Blk) : Nat :=
  match b.pr.beat with
  | some p => if p.fatal ∨ p.role = roCurtain then 2 else if p.ejecting then 4 else if p.drFault then 6
    else if 3 ≤ p.therm then 3
    else if (match b.pr.handAt with | some _ => true | none => false) then 7 else 1
  | none => 1

/-- The unready rule lets this module become ACTIVE (R354). -/
def unreadyOk (b : Blk) : Bool := b.pr.everCommitted && !b.ctl.fatal && !b.on F.PAIR_STAT_DR_FAULT 0

/-- Both sides of the handshake of R355, from the partner's last heartbeat. -/
def handshake (b : Blk) : Blk :=
  match b.pr.beat with
  | none => b
  | some p =>
    let b := if b.pr.release.isSome && p.take && b.pr.takeRx == none then b.putPr { b.pr with takeRx := some b.now } else b
    if role b = roUnderstudy then
      if p.release then
        if b.pr.take.isSome then b
        else (b.putPr { b.pr with take := some (plannedCause b, true, b.now) }).wr F.PAIR_STAT_TAKE 0 1
      else match b.pr.take with
        | some (_, true, _) => (b.putPr { b.pr with take := none }).wr F.PAIR_STAT_TAKE 0 0
        | _ => b
    else b

/-- TAKEOVER_RELEASE (R355): RELEASE and TAKE as the handshake stands. -/
def execTakeoverRelease (dt : Nat) (s : State) : Host.Outcome State Fault Refusal :=
  eff dt s fun b =>
    let b := if role b = roCurtain ∧ b.ctl.fatal then beginPlanned 2 b else b
    handshake b

/-- ROLE_SETTLE (R329): due every 50 µs. -/
def pairSettle (b : Blk) : Blk :=
  let b := roleReport 0 (b.putPr { b.pr with settleAt := b.now })
  let b := if role b = roWings then settleWings b else b
  let b := if role b = roCurtain ∧ b.ctl.fatal then beginPlanned 2 b else b
  refreshReady b

/-- ROLE_SETTLE. -/
def execRoleSettle (dt : Nat) (s : State) : Host.Outcome State Fault Refusal :=
  eff dt s fun b => if b.pr.settleAt = 0 ∨ b.pr.settleAt + 50000 ≤ b.now then pairSettle b else b

/-! ### Heartbeats (R330 to R333) -/

/-- Bytes 2, 3 and 5 of R330. -/
def beatFlags (b : Blk) : List Nat :=
  [role b + 8 * b2n (ownOut b) + 16 * b.rd F.PAIR_STAT_READY 0 + 32 * b.rd F.SYS_STRAPS_SEAT 0 + 64 * b.rd F.CLK_STAT_UNCERTAIN 0
     + 128 * b.rd F.SYS_STAT_EJECTING 0,
   clkState b + 8 * b.rd F.THM_STAT_LEVEL 0 + 64 * b2n b.ctl.fatal + 128 * b.rd F.PAIR_STAT_PATH_B 0,
   b.rd F.PAIR_STAT_RELEASE 0 + 2 * b.rd F.PAIR_STAT_TAKE 0 + 4 * b.rd F.PAIR_STAT_DR_FAULT 0
     + 8 * b2n (b.rd F.PAIR_STAT_SYNC 0 == 2)]

/-- The 24 payload bytes of a heartbeat (R330). -/
def beatBytes (b : Blk) : List Nat :=
  let fl := beatFlags b
  let prev := match b.pr.txA with | e :: _ => e.2 | [] => 0
  let rx := b.pr.rxA.getD (0, 0)
  leBytes 2 b.pr.seqA ++ [fl.getD 0 0, fl.getD 1 0, b.rd F.CLK_STAT_QUALITY_OUT 0, fl.getD 2 0] ++ leBytes 2 rx.1
    ++ leBytes 4 (prev % 2 ^ 32) ++ leBytes 4 (rx.2 % 2 ^ 32) ++ leBytes 4 (b.rd F.PAIR_EPOCH_EPOCH 0)
    ++ leBytes 4 (b.rd F.PAIR_COMMITTED_EPOCH 0)

/-- HEARTBEAT_SEND (R330): every 8 µs while port 0 is ACTIVE. The timing point is taken at the pins (R318). -/
def heartbeatSend (b : Blk) : Blk :=
  if !chnUp b 0 || !b.on F.PAIR_CFG_EN 0 || (b.pr.sentA != 0 && Nat.blt b.now (b.pr.sentA + 8000)) then b
  else
    let b := refreshReady b
    let b' := chnExpress 0 1 (byteWords (beatBytes b)) b
    let x := b'.pr
    let at_ := b.now + rdiv (b.rd F.CHN_LAT_TX 0) 10
    b'.putPr { x with sentA := b.now, txA := ((x.seqA, at_) :: x.txA).take 16, seqA := (x.seqA + 1) % 65536 }

/-- HEARTBEAT_SEND. -/
def execHeartbeatSend (dt : Nat) (s : State) : Host.Outcome State Fault Refusal := eff dt s heartbeatSend

/-- The 10 bytes of a call-line frame (R331). -/
def callBytes (b : Blk) : List Nat :=
  let p := b.pr.seqB % 256 :: beatFlags b ++ leBytes 2 (b.rd F.PAIR_EPOCH_EPOCH 0 % 65536)
  [0x55, 0xD5] ++ p ++ leBytes 2 (crc16 p)

/-- CALL_FRAME_SEND (R331): every 50 µs. -/
def callFrameSend (b : Blk) : Blk :=
  if b.pr.sentB != 0 && Nat.blt b.now (b.pr.sentB + 50000) then b
  else
    let b := refreshReady b
    (b.emit (.callLine (callBytes b))).putPr { b.pr with sentB := b.now, seqB := (b.pr.seqB + 1) % 256 }

/-- CALL_FRAME_SEND. -/
def execCallFrameSend (dt : Nat) (s : State) : Host.Outcome State Fault Refusal := eff dt s callFrameSend

/-- A path comes up: event 0x0102; its loss and recovery drive R357. -/
def pathRise (a : Bool) (b : Blk) : Blk :=
  let f := if a then F.PAIR_STAT_PATH_A else F.PAIR_STAT_PATH_B
  if b.on f 0 then b
  else
    let was := partnerPath b
    let b := pairEvent 0x102 sevNotice (b2n (!a)) (evB 1) (b.wr f 0 1)
    let b := b.wr F.PAIR_STAT_WAITING 0 0
    -- paths recover: epochs resume, and an understudy that missed one asks for a full sync (R357)
    if was then b
    else if role b = roUnderstudy ∧ b.rd F.PAIR_STAT_SYNC 0 = 3 then
      (b.wr F.PAIR_STAT_SYNC 0 1).putPr { b.pr with ackDue := some (b.rd F.PAIR_COMMITTED_EPOCH 0, false, true), syncAt := b.now,
                                                    rx := [], staging := [], waitEnd := none, ends := [], syncS := none }
    else if role b = roActive ∧ b.rd F.PAIR_STAT_SYNC 0 = 3 then b.wr F.PAIR_STAT_SYNC 0 1
    else b

/-- What the partner says of itself, by either path. -/
def peerSays (p : Beat) (b : Blk) : Blk :=
  let moved := b.rd F.PAIR_STAT_PEER_ROLE 0 != p.role
  let b := (b.wr F.PAIR_STAT_PEER_ROLE 0 p.role).put F.PAIR_STAT_PEER_READY 0 p.ready
  let b := b.put F.PAIR_STAT_PEER_DR_FAULT 0 p.drFault
  let b := pairForm (b.putPr { b.pr with beat := some p, heardAt := b.now })
  let b := handshake b
  if moved then pairSettle b else b

/-- The two-way measurement of R333, ns: partner's stage time minus own. The upper bits come from the partner's capability
frame. -/
def pairOffset (b : Blk) (t1 t2 t3 t4 : Nat) : Int :=
  let d1 := sgn 32 ((t1 + 2 ^ 32 - t2 % 2 ^ 32) % 2 ^ 32)
  let d2 := sgn 32 ((t4 + 2 ^ 32 - t3 % 2 ^ 32) % 2 ^ 32)
  let low := (d1 + d2) / 2
  let cap : Int := (b.rd F.CHN_PEER_WORD 0 10 + 2 ^ 32 * b.rd F.CHN_PEER_WORD 0 11 : Nat)
  let hi := (cap - b.now - low + 2 ^ 31) / 2 ^ 32
  low + hi * 2 ^ 32

/-- HEARTBEAT_RX (R330, R332, R333): a valid group counts when its SEQ differs from the last one counted. `sel` is the partner's selected
reference, which R278 needs and no message carries, `utc` its UTC offset and `dco` what the loop makes of the measurement. -/
def heartbeatRx (p : Beat) (sel : Nat) (utc dco : Int) (b : Blk) : Blk :=
  if !chnUp b 0 || !b.on F.PAIR_CFG_EN 0 || b.pr.lastA == some p.seq then b
  else
    let x := b.pr
    let t := b.now - rdiv (b.rd F.CHN_LAT_RX 0) 10
    let run := if x.lastA.isSome && Nat.ble b.now (x.atA + 16000) then x.runA + 1 else 1
    let prev := x.rxA
    let sent := x.txA.find? fun e => e.1 == p.peerSeq
    let b := b.putPr { x with lastA := some p.seq, atA := b.now, runA := run, rxA := some (p.seq, t) }
    let b := if 8 ≤ run then pathRise true b else b
    let b := if b.on F.PAIR_STAT_PATH_A 0 then
        match prev, sent with
        | some (q, t2), some (_, t3) =>
          if (q + 1) % 65536 = p.seq then
            peerTime 6 p.clk p.quality sel p.unc utc (pairOffset b p.txPrev t2 t3 p.rxTime) dco b
          else b
        | _, _ => b
      else b
    peerSays p b

/-- HEARTBEAT_RX. -/
def execHeartbeatRx (dt : Nat) (p : Beat) (sel : Nat) (utc dco : Int) (s : State) : Host.Outcome State Fault Refusal :=
  eff dt s (heartbeatRx p sel utc dco)

/-- CALL_FRAME_RX (R331, R332). -/
def callFrameRx (p : Beat) (b : Blk) : Blk :=
  if !b.on F.PAIR_CFG_EN 0 || b.pr.lastB == some (p.seq % 256) then b
  else
    let x := b.pr
    let run := if x.lastB.isSome && Nat.ble b.now (x.atB + 100000) then x.runB + 1 else 1
    let b := b.putPr { x with lastB := some (p.seq % 256), atB := b.now, runB := run }
    let b := if 4 ≤ run then pathRise false b else b
    let p' : Beat := match b.pr.beat with
      | some q => { p with quality := q.quality, peerSeq := q.peerSeq, txPrev := q.txPrev, rxTime := q.rxTime,
                           committed := q.committed }
      | none => p
    peerSays p' b

/-- CALL_FRAME_RX. -/
def execCallFrameRx (dt : Nat) (p : Beat) (s : State) : Host.Outcome State Fault Refusal := eff dt s (callFrameRx p)

/-- HEARTBEAT_PATH_LOST (R332, R357): path A after 32 µs, path B after 200 µs. -/
def pathLost (a : Bool) (b : Blk) : Blk :=
  let f := if a then F.PAIR_STAT_PATH_A else F.PAIR_STAT_PATH_B
  let due := if a then b.pr.atA + 32000 else b.pr.atB + 200000
  if !b.on f 0 || Nat.blt b.now due then b
  else
    let x := b.pr
    let b := (b.wr f 0 0).bump (if a then F.PAIR_HB_LOSSES_PATH_A else F.PAIR_HB_LOSSES_PATH_B) 0
    let b := b.putPr (if a then { x with runA := 0, heardAt := b.now } else { x with runB := 0, heardAt := b.now })
    let b := pairEvent 0x101 sevWarning (b2n (!a)) (evB 1) b
    let b := if a then peerLost 6 b else b
    if partnerPath b then b
    else
      let b := ((b.wr F.PAIR_STAT_PEER_ROLE 0 0).wr F.PAIR_STAT_PEER_READY 0 0).putPr { b.pr with beat := none, release := none,
                                                                                                  takeRx := none }
      let b := b.wr F.PAIR_STAT_RELEASE 0 0
      let b := match b.pr.take with
        | some (_, true, _) => (b.putPr { b.pr with take := none }).wr F.PAIR_STAT_TAKE 0 0
        | _ => b
      let b := if b.rd F.PAIR_STAT_SYNC 0 = 0 then b else b.wr F.PAIR_STAT_SYNC 0 3
      if role b = roUnderstudy ∧ ownIn b then
        pairEvent 0x10C sevWarning 0 0 (b.wr F.PAIR_STAT_WAITING 0 1)
      else b

/-- HEARTBEAT_PATH_LOST. -/
def execHeartbeatPathLost (dt : Nat) (pathA : Bool) (s : State) : Host.Outcome State Fault Refusal := eff dt s (pathLost pathA)

/-! ### The interlock (R334) -/

/-- CLAIM_WINDOW_END: 5 µs after OWN_OUT was asserted the heads may drive. -/
def execClaimWindowEnd (dt : Nat) (s : State) : Host.Outcome State Fault Refusal :=
  eff dt s fun b =>
    match b.pr.claimAt with
    | some t =>
      if t + 5000 ≤ b.now ∧ !b.pr.contested ∧ ownOut b then
        setDriving true (b.putPr { b.pr with claimAt := none })
      else b
    | none => b

/-- OWN_CONTEST: OWN_IN is sensed asserted. Within the claim window, or after both pins have been asserted for 5 µs, the
module with SEAT 1 withdraws; the one with SEAT 0 keeps OWN_OUT, and one that has not begun to drive waits. -/
def ownContest (b : Blk) : Blk :=
  let b := b.wr F.PAIR_STAT_OWN_IN 0 1
  if !ownOut b then b.putPr { b.pr with bothAt := none }
  else
    let x := b.pr
    let inWindow := match x.claimAt with | some t => Nat.ble b.now (t + 5000) | none => false
    let both := match x.bothAt with | some t => Nat.ble (t + 5000) b.now | none => false
    if inWindow || both then
      if b.rd F.SYS_STRAPS_SEAT 0 = 1 then
        let b := pairEvent 0x10D sevWarning 1 0 (dropOwnership b)
        if role b = roCurtain ∧ b.ctl.fatal then b else becomeUnderstudy b
      else b.putPr { x with contested := x.claimAt.isSome, bothAt := some (x.bothAt.getD b.now) }
    else b.putPr { x with bothAt := some (x.bothAt.getD b.now) }

/-- OWN_CONTEST. -/
def execOwnContest (dt : Nat) (s : State) : Host.Outcome State Fault Refusal := eff dt s ownContest

/-- OWN_IN_DEASSERTED: OWN_IN has stayed deasserted for 2 µs; a contested claim of the module with SEAT 0 ends, and it
drives. -/
def ownInDeasserted (b : Blk) : Blk :=
  let b := (b.wr F.PAIR_STAT_OWN_IN 0 0).putPr { b.pr with ownInAt := b.now - 2000, bothAt := none, waitTold := false }
  if ownOut b ∧ b.pr.contested ∧ b.rd F.SYS_STRAPS_SEAT 0 = 0 then
    setDriving true (b.putPr { b.pr with contested := false, claimAt := none })
  else b

/-- OWN_IN_DEASSERTED. -/
def execOwnInDeasserted (dt : Nat) (s : State) : Host.Outcome State Fault Refusal := eff dt s ownInDeasserted

/-! ### Takeover (R354 to R358) -/

/-- UNCONTROLLED_TAKEOVER (R356): both paths lost, OWN_IN deasserted for 2 µs: decided, and the frames of the epoch in
progress are discarded. -/
def uncontrolled (b : Blk) : Blk :=
  if role b = roUnderstudy ∧ !partnerPath b ∧ ownInFree b ∧ b.pr.take = none then
    b.putPr { b.pr with take := some (5, false, b.now), rx := [], waitEnd := none, ends := [] }
  else b

/-- UNCONTROLLED_TAKEOVER. -/
def execUncontrolledTakeover (dt : Nat) (s : State) : Host.Outcome State Fault Refusal := eff dt s uncontrolled

/-! ### A pair in an ensemble (R38, R367) -/

def ensPage : Page := ⟨.ens, 0⟩

/-- An event of the ENS page (R383). -/
def ensEvent (code sev d evt : Nat) (b : Blk) : Blk := raise ensPage code sev d evt b

def Blk.putEns (b : Blk) (x : EnsSt) : Blk := { b with ens := x }

def ownPos (b : Blk) : Nat := b.rd F.SYS_STRAPS_ENS_POS 0

/-- The ring position of the pair partner, from its capability frame (R319). -/
def partnerPos (b : Blk) : Option Nat := if b.pr.formed && chnUp b 0 then some (bits (b.rd F.CHN_PEER_WORD 0 4) 16 3) else none

/-- The lead in office changes: event 0x0102 on every member (R367). -/
def setLead (pos : Nat) (b : Blk) : Blk :=
  let mine := pos == ownPos b && role b != roUnderstudy
  if b.ens.lead = some pos ∧ b.on F.ENS_STAT_LEAD 0 = mine then b
  else
    let told := b.ens.lead != some pos
    let b := ((b.putEns { b.ens with lead := some pos }).wr F.ENS_STAT_LEAD_POS 0 pos).put F.ENS_STAT_LEAD 0 mine
    let b := selectorDue b
    if told then ensEvent 0x102 sevWarning pos (evB 1) b else b

/-- A lead that hands the pair's ownership to its partner is lead no more: the partner is, from the take point on (R367). -/
def leadHanded (b : Blk) : Blk :=
  match b.ens.lead, partnerPos b with
  | some l, some q =>
    if l = q ∧ (role b = roActive ∨ role b = roCurtain) then setLead (ownPos b) b
    else if l = ownPos b ∧ role b = roUnderstudy then setLead q b
    else b
  | _, _ => b

/-- The understudy takes over at its boundary (R354, R356): ACTIVE when READY or by the unready rule, else CURTAIN. -/
def takePoint (cause : Nat) (planned : Bool) (b : Blk) : Blk :=
  let ready := b.on F.PAIR_STAT_READY 0
  let needs := cause == 2 || cause == 4 || cause == 5
  let r := if ready || (needs && unreadyOk b) || cause == 7 then roActive else roCurtain
  let b := if planned then b else b.putPr { b.pr with rx := [], staging := [], waitEnd := none, ends := [] }
  let b := b.putPr { b.pr with take := none, tookAt := some (b.now, cause, planned),
                               handAt := if cause = 7 then some b.now else b.pr.handAt }
  let b := (b.wr F.PAIR_STAT_TAKE 0 0).wr F.PAIR_STAT_WAITING 0 0
  let b := ((b.wr F.PAIR_TAKEOVER_TIME 0 b.now).wr F.PAIR_TAKEOVER_BASE 0 (b.rd F.PAIR_COMMITTED_EPOCH 0)).wr
    F.PAIR_TAKEOVER_CAUSE 0 cause
  let b := leadHanded (takeOwnership r cause b)
  let b := b.wr F.PAIR_TAKEOVER_OUTCOME 0 (if role b = roActive then 1 else 2)
  let b := pairEvent 0x109 sevWarning (cause + 32 * b2n (!ready && needs)) (evB 4) b
  b.put F.PAIR_STAT_READY 0 false

/-- The former owner's role after a planned takeover (R358, R443). A module in CURTAIN that has handed over stays there. -/
def formerRole (cause : Nat) (b : Blk) : Blk :=
  let b := (b.putPr { b.pr with release := none, takeRx := none, released := false }).wr F.PAIR_STAT_RELEASE 0 0
  if role b = roCurtain then b
  else match cause with
  | 2 => b
  | 3 => takeRole roWings cause (b.putPr { b.pr with hot := true })
  | 4 => takeRole roWings cause b
  | 6 => takeRole roUnderstudy cause ((b.wr F.PAIR_STAT_SYNC 0 2).wr F.PAIR_STAT_DR_FAULT 0 1)
  | _ => takeRole roUnderstudy cause (b.wr F.PAIR_STAT_SYNC 0 2)

/-- TAKE_POINT (R356): the epoch boundary at which ownership passes. On the understudy it lies at least 20 µs after the
decision, and for a planned takeover RELEASE still stands; on the former owner, OWN_OUT has been released. -/
def takePointCmd (b : Blk) : Blk :=
  let b := refreshReady b
  if b.pr.released then leadHanded (formerRole (b.pr.release.getD 1) b)
  else if role b ≠ roUnderstudy then b
  else match b.pr.take with
    | some (cause, planned, t) =>
      let live := !planned || (match b.pr.beat with | some p => p.release | none => false)
      if t + 20000 ≤ b.now ∧ live ∧ ownInFree b then takePoint cause planned b else b
    | none => b

/-- TAKE_POINT. -/
def execTakePoint (dt : Nat) (s : State) : Host.Outcome State Fault Refusal := eff dt s takePointCmd

/-! ### The epoch copy: the active side (R336 to R341) -/

/-- A copied range (R336). -/
def copiedRange (a : Nat) : Bool :=
  match target a with
  | .page p o =>
    if o < 0x40 then
      (o == 0x08 || o == 0x20) && (match p.blk with
        | .prm => true | .stg => true | .lfp => true | .ohd => true | .ing => true | .xsd => true | .vdc => true | .vec => true
        | .crc => true | .sig => true | _ => false)
    else match p.blk with
      | .prm => true | .stg => true | .lfp => true | .ohd => true | .ing => true | .xsd => true | .vdc => true | .vec => true
      | .crc => true | .sig => true
      | .sys => o == 0x80
      | _ => false
  | .desc _ _ => true
  | .scene _ _ => true
  | _ => false

/-- A host's write to a copied range is discarded on this module (R337, R355). -/
def copyDiscards (b : Blk) : Bool :=
  role b == roUnderstudy || (role b == roWings && heard b && !b.on F.PAIR_STAT_REFUSED 0) || b.pr.released

/-- Epochs are sent: an owner with a formed pair and a path up (R336, R357). -/
def copying (b : Blk) : Bool := (role b == roActive || role b == roCurtain) && b.pr.formed && chnUp b 0 && partnerPath b

/-- A record of the current epoch (R339, R340): BYTES grows by 8. -/
def addRecord (r : Nat × Nat × Nat × Nat) (b : Blk) : Blk :=
  let x := b.pr
  (b.putPr { x with recs := r :: x.recs }).wr F.PAIR_EPOCH_FILL_BYTES 0 (8 * (x.recs.length + 1))

/-- The epoch has no room for `n` more records (R340). -/
def epochFull (b : Blk) (n : Nat) : Bool := Nat.blt 4194304 (8 * (b.pr.recs.length + n))

/-- A host write is held until the next boundary: event 0x010E once (R340). -/
def holdWrite (mid : Nat) (store : Bool) (a : Nat) (l : List Nat) (b : Blk) : Blk :=
  let first := !b.on F.PAIR_EPOCH_FILL_HELD 0
  let b := (b.putPr { b.pr with held := b.pr.held ++ [(mid, store, a, l)] }).wr F.PAIR_EPOCH_FILL_HELD 0 1
  if first then pairEvent 0x10E sevNotice (b.rd F.PAIR_EPOCH_EPOCH 0 % 65536) 0 b else b

/-- A host's write to a copied range is discarded: PAIR event 0x0106 (R337, R355). -/
def discardCopy (mid a : Nat) (b : Blk) : Blk := raiseAs mid pairPage 0x106 sevNotice (a / 4) 0 b

/-- A write of epoch `e` stamps the stages that it concerns: its own pages; layers, scenes and the policy page concern every running
stage that places them (R350). -/
def stampWrite (e a : Nat) (b : Blk) : Blk :=
  let sts : List Nat := match target a with
    | .page p _ => match p.blk with
      | .stg => [p.inst] | .ohd => [p.inst]
      | .prm => if p.inst = 24 then List.range 24 else [p.inst]
      | .lfp => [b.rd F.LFP_CFG_STAGE p.inst]
      | _ => []
    | .desc i _ => ((placesOf b i).map (·.1)).eraseDups
    | .scene i _ => (((places b).filter fun x => x.2.2.path.contains i).map (·.1)).eraseDups
    | _ => []
  if sts.isEmpty then b
  else b.putPr { b.pr with stamps := sts.foldl (fun m s => mset m s e) b.pr.stamps }

/-- EPOCH_CRC (R341): over the epoch number, the record bytes in order, and address, length and data of each STORE frame. -/
def epochCrc (e : Nat) (recs : List (Nat × Nat × Nat × Nat)) (stores : List (Nat × Bool × List Nat)) : Nat :=
  crc32c (leBytes 8 e
    ++ (recs.flatMap fun r => leBytes 4 (r.2.2.1 % 2 ^ 24 + 2 ^ 24 * (r.2.1 % 64) + 2 ^ 30 * (r.1 % 4)) ++ leBytes 4 r.2.2.2)
    ++ stores.flatMap fun s => leBytes 5 s.1 ++ leBytes 2 s.2.2.length ++ s.2.2)

/-- The words of a record. -/
def recWords (r : Nat × Nat × Nat × Nat) : List Nat :=
  [r.2.2.1 % 2 ^ 24 + 2 ^ 24 * (r.2.1 % 64) + 2 ^ 30 * (r.1 % 4), r.2.2.2]

/-- The stored link setting of a head as it is sent (R346): rate, channel coding (0 8b/10b, 1 128b/132b), lanes, MST, time slots and
payload identifier of each stream, and the setting of each lane as in LANE_TX_ACT. -/
def linkWords (b : Blk) (h : Nat) : List Nat :=
  match (b.head h).link with
  | some (r :: l) => r :: b2n (Nat.ble 2 r) :: l
  | _ => []

/-- Cut a list into pieces. -/
def chunks {α : Type} : Nat → Nat → List α → List (List α)
  | 0, _, _ => []
  | fuel + 1, n, l => if l.isEmpty then [] else l.take n :: chunks fuel n (l.drop n)

/-- The frames of a closed epoch in order of index: RECORDS, STORE and LINK frames (R339, R346). -/
def epochFrames (b : Blk) (c : Closed) : List EpochFrame :=
  let rs := chunks (c.recs.length + 1) 1023 c.recs
  let n := rs.length
  let recF := (rs.zipIdx).map fun e => EpochFrame.records c.epoch e.2 e.1
  let stF := (c.stores.zipIdx).map fun e => EpochFrame.store c.epoch (n + e.2) e.1.1 e.1.2.1 e.1.2.2
  let lnF := (b.pr.links.zipIdx).map fun e => EpochFrame.link c.epoch (n + c.stores.length + e.2) e.1 (linkWords b e.1)
  recF ++ stF ++ lnF

/-- The words of a frame of channel 2. -/
def epochFrameWords : EpochFrame → List Nat
  | .records e i l => [1 + 65536 * i, e % 2 ^ 32] ++ l.flatMap recWords
  | .store e i a u l => [2 + 65536 * i, e % 2 ^ 32, a % 2 ^ 32, a / 2 ^ 32 % 256 + 256 * (l.length % 8192) + 2 ^ 21 * b2n u] ++ byteWords l
  | .image e i o l => [4 + 65536 * i, e % 2 ^ 32, o, 0] ++ l
  | .link e i h l => [5 + 65536 * i, e % 2 ^ 32, h, 0] ++ l

/-- EPOCH_END_SEND (R341): the frames of the closed epoch and END. -/
def epochEndSend (b : Blk) : Blk :=
  match b.pr.closed with
  | none => b
  | some c =>
    if !copying b && !b.pr.released then b.putPr { b.pr with closed := none }
    else
      let fs := epochFrames b c
      let b := forEach fs (fun f b => chnSend 0 2 (epochFrameWords f) b) b
      let b := b.putPr { b.pr with closed := none, links := [] }
      chnSend 0 2 ([3 + 65536 * fs.length, c.epoch % 2 ^ 32, c.epoch % 2 ^ 32, c.epoch / 2 ^ 32, c.time % 2 ^ 32,
        c.time / 2 ^ 32 % 2 ^ 32, (c.recs.filter (·.1 != 2)).length, (c.stores.foldl (fun a s => a + s.2.2.length) 0), fs.length,
        ruleDigest b.acg.image] ++ c.fs ++ [epochCrc c.epoch c.recs c.stores]) b

/-- EPOCH_END_SEND: due within 20 µs after the boundary. -/
def execEpochEndSend (dt : Nat) (s : State) : Host.Outcome State Fault Refusal := eff dt s epochEndSend

/-- Close the current epoch at a boundary (R338, R341). -/
def closeEpoch (b : Blk) : Blk :=
  let x := b.pr
  let c : Closed := { epoch := b.rd F.PAIR_EPOCH_EPOCH 0, time := b.now, recs := x.recs.reverse, stores := x.stores.reverse,
                      fs := (List.range 24).map fun st => if stageRuns b st then b.rd F.STG_FRAME_F st else 0 }
  (b.putPr { x with closed := if copying b || x.released then some c else none, recs := [], stores := [] }).wr
    F.PAIR_EPOCH_FILL_BYTES 0 0

/-- OWN_RELEASE (R355): 10 µs before the boundary at least 100 µs after TAKE was received, the owner deasserts OWN_OUT; or at
18.0 ms after an eject warning (R444). END of the current epoch goes out at once. -/
def ownRelease (b : Blk) : Blk :=
  match b.pr.release, b.pr.takeRx with
  | some _, some t =>
    if !b.pr.released ∧ t + 90000 ≤ b.now then
      let b := forEach b.pr.held (fun h b => discardCopy h.1 h.2.2.1 b) b
      let b := (b.putPr { b.pr with released := true, held := [] }).wr F.PAIR_EPOCH_FILL_HELD 0 0
      let b := closeEpoch b
      epochEndSend (dropOwnership b)
    else b
  | _, _ => b

/-- OWN_RELEASE. -/
def execOwnRelease (dt : Nat) (s : State) : Host.Outcome State Fault Refusal := eff dt s ownRelease

/-- EPOCH_ACK_RX (R339, R344): the last acknowledged epoch, or a full sync to begin at the next boundary. -/
def epochAckRx (e : Nat) (ok sync : Bool) (b : Blk) : Blk :=
  if role b ≠ roActive ∧ role b ≠ roCurtain then b
  else
    let b := if ok then b.wr F.PAIR_COMMITTED_EPOCH 0 e else b
    let b := if ok then
        match b.pr.syncS with
        | some s => if s ≤ e then (b.wr F.PAIR_STAT_SYNC 0 2).putPr { b.pr with syncS := none } else b
        | none => b
      else b
    if sync then (b.wr F.PAIR_STAT_SYNC 0 1).putPr { b.pr with syncDue := true } else b

/-- EPOCH_ACK_RX. -/
def execEpochAckRx (dt epoch : Nat) (ok sync : Bool) (s : State) : Host.Outcome State Fault Refusal :=
  eff dt s (epochAckRx epoch ok sync)

/-! ### Dress rehearsal (R350, R351) -/

/-- The age of a badge as a count and its unit: 1 MS, 2 S in tenths, 3 MIN, 4 H (R350, R97). -/
def badgeAge (ns : Nat) : Nat :=
  let ms := ns / 1000000
  if ms < 1000 then ms + 2 ^ 24
  else if ms < 100000 then ms / 100 + 2 * 2 ^ 24
  else if ms < 6000000 then ms / 60000 + 3 * 2 ^ 24
  else Nat.min 1000 (ms / 3600000) + 4 * 2 ^ 24

/-- The frame identity of a placement entry (R350): for a published frame its epoch and record index, which its `rtp` field
holds. -/
def frameIdent (b : Blk) (p : Place) (f : Frame) : Nat :=
  if sourceOf b p.layer = 0 then f.rtp % 2 ^ 32 else crc32c (f.sigs.flatMap (leBytes 4))

/-- A placement entry (R350). -/
def placeEntry (b : Blk) (st : Nat) (e : Nat × Place) : Nat × List Nat :=
  let p := e.2
  let at_ := b.rd F.STG_CUP_TIME_TIME st
  let hasAge := p.verdict == 0 || p.verdict == 2 || p.verdict == 3 || p.verdict == 4
  let L := b.layer p.layer
  (e.1, [p.layer + 4096 + 2 ^ 13 * p.verdict + 2 ^ 16 * b2n p.unc + 2 ^ 17 * b2n (!p.hist.isEmpty) + 2 ^ 18 * p.shownDecim,
    (match p.disp with | some f => frameIdent b p f | none => 0),
    (match p.shown with
      | some f => if hasAge then badgeAge (at_ - (if p.verdict = 4 then L.changedAt else f.basis)) else 0
      | none => 0),
    crc32c ((match p.disp with | some f => f.loss ++ f.conceal | none => []).flatMap (leBytes 2))])

/-- The rehearsal set of the frame on display of a stage. -/
def rehearsalSet (b : Blk) (m : FrameStore) (st : Nat) : Rehearsal :=
  let v := b.viewed st
  let down := cdiv (stageH v st) 64
  let across := cdiv (stageW v st) 64
  let lines := (b.stage st).under.map fun e => e.2 / 64
  { f := v.rd F.STG_FRAME_F st, stamp := mgetD b.pr.stamps st 0, so := none, places := (onDisplay b st).map (placeEntry b st),
    marked := (List.range (across * down)).filter fun t => (b.stage st).starved || lines.contains (t / across),
    sigs := stageSigs b m st }

/-- The 16 bytes of each placement entry, slots 0 to 71 in order (R350). -/
def entryWords (r : Rehearsal) : List Nat :=
  (List.range 72).flatMap fun k => match r.places.find? (·.1 == k) with | some e => e.2 | none => [0, 0, 0, 0]

/-- The 1,020 bytes whose bit t is set for a marked tile t (R350). -/
def markWords (r : Rehearsal) : List Nat :=
  (List.range 255).map fun w => (List.range 32).foldl (fun a k => a + 2 ^ k * b2n (r.marked.contains (32 * w + k))) 0

/-- A placement counts for a tile (R104): a layer's placement that covers some pixel of it with an ALPHA that is not 0. -/
def counted (e : Nat × Place) (tx ty : Nat) : Bool := Nat.blt e.1 64 && e.2.vis.meetsTile tx ty && e.2.alpha != 0

/-- The placements of a tile among those on display, proscenium slots among them. -/
def tilePlaces (shown : List (Nat × Place)) (tx ty : Nat) : List (Nat × Place) := shown.filter fun e => e.2.vis.meetsTile tx ty

/-- The pipe of the second path for a tile (R352): the lowest of STAGE 31, else the lowest of any other stage, with a free context, line
buffer for each placement of the tile, and no placement of the tile. -/
def secondPipe (b : Blk) (st tx ty : Nat) : Option Nat :=
  let mine := tilePlaces (onDisplay b st) tx ty
  let need := mine.foldl (fun a e => Nat.max a e.2.need) 0
  let free (p : Nat) : Bool :=
    let held := (places b).filter fun e => e.2.2.pipe == p && b.rd F.LFP_CFG_STAGE p == e.1
    !(mine.map (·.2.pipe)).contains p && Nat.blt held.length 16 && Nat.ble ((held.map (·.2.2.need)).sum + need) 256
  match (List.range 96).find? fun p => b.rd F.LFP_CFG_STAGE p == 31 && free p with
  | some p => some p
  | none => (List.range 96).find? fun p => free p

/-- The second opinion on the disputed tile that a set of a stage carries (R350): what the second path gave, where there is one. -/
def setOpinion (b : Blk) (st second : Nat) : Option (Nat × Nat) :=
  match b.pr.dispute with
  | some (s, t, _) =>
    let across := cdiv (stageW (b.viewed st) st) 64
    if s = st ∧ (secondPipe b st (t % across) (t / across)).isSome then some (t, second % 2 ^ 32) else none
  | none => none

/-- REHEARSAL_SEND (R350): the set of the frame on display; `second` is the signature that the second path gave for the disputed tile. -/
def rehearsalSend (st second : Nat) (b : Blk) (m : FrameStore) : Blk :=
  if !stageRuns b st || (b.stage st).shown.isEmpty || !b.pr.formed || !chnUp b 0 then b
  else
    let r := { rehearsalSet b m st with so := setOpinion b st second }
    let own : OwnSet := { set := r, at_ := b.now, shown := onDisplay b st, across := cdiv (stageW (b.viewed st) st) 64 }
    let b := b.putPr { b.pr with own := mset b.pr.own st own }
    let head (part : Nat) : List Nat := [st + 256 * part + 65536 * (r.f % 65536), r.f / 65536 % 65536]
    let b := chnSend 0 3 (head 0 ++ [r.stamp, (match r.so with | some e => e.1 + 8192 | none => 0),
      (match r.so with | some e => e.2 | none => 0), 0] ++ entryWords r ++ markWords r) b
    forEach (List.range 4) (fun k b => chnSend 0 3 (head (k + 1) ++ (r.sigs.drop (2046 * k)).take 2046) b) b

/-- REHEARSAL_SEND. -/
def execRehearsalSend (dt stage second : Nat) (s : State) : Host.Outcome State Fault Refusal :=
  effM dt s fun b m => (rehearsalSend stage second b m, m)

/-- A tile is compared (R351): equal stamps, not marked in either set, and the placements that count for it have identical
entries without a verdict change in the frame. -/
def tileCompared (x : OwnSet) (y : Rehearsal) (t : Nat) : Bool :=
  let counts := x.shown.filter fun e => counted e (t % x.across) (t / x.across)
  x.set.stamp == y.stamp && !x.set.marked.contains t && !y.marked.contains t
    && counts.all fun e =>
      let p := (x.set.places.find? (·.1 == e.1)).map (·.2)
      let q := (y.places.find? (·.1 == e.1)).map (·.2)
      p.isSome && p == q && !bit ((p.getD []).headD 0) 17

/-- The signatures of the disputed tile in two sets of one frame, when it is compared in it (R353). -/
def opinionOf (b : Blk) (st : Nat) (x : OwnSet) (y : Rehearsal) : Option (Nat × Nat × Nat × Nat) :=
  match b.pr.dispute, x.set.so, y.so with
  | some (s, t, _), some (t1, xs), some (t2, ys) =>
    if s = st ∧ t1 = t ∧ t2 = t ∧ tileCompared x y t = true then some (x.set.sigs.getD t 0, xs, y.sigs.getD t 0, ys) else none
  | _, _, _ => none

/-- REHEARSAL_COMPARE (R351): the partner's set against the own set of the same frame. The first mismatch is taken up as a dispute. -/
def rehearsalCompare (st : Nat) (y : Rehearsal) (b : Blk) : Blk :=
  match mget b.pr.own st with
  | none => b
  | some x =>
    if x.set.f ≠ y.f then b
    else
      let ts := List.range x.set.sigs.length
      let cmp := ts.filter (tileCompared x y)
      let bad := cmp.filter fun t => x.set.sigs[t]? != y.sigs[t]?
      let op := match opinionOf b st x y with | some o => some o | none => b.pr.opinion
      let b := b.putPr { b.pr with own := mdel b.pr.own st, opinion := op }
      let b := (b.bump F.PAIR_DR_EXCLUDED_COUNT 0 (ts.length - cmp.length)).bump F.PAIR_DR_MISMATCHES_COUNT 0 bad.length
      match bad with
      | [] => b
      | t :: _ =>
        let b := pairEvent 0x107 sevNotice (st + 32 * t) (evB 3) b
        if b.pr.dispute = none then b.putPr { b.pr with dispute := some (st, t, b.rd F.STG_FRAME_F st + 16), opinion := none } else b

/-- REHEARSAL_COMPARE. -/
def execRehearsalCompare (dt stage : Nat) (r : Rehearsal) (s : State) : Host.Outcome State Fault Refusal :=
  eff dt s (rehearsalCompare stage r)

/-- REHEARSAL_TIMEOUT (R351): the partner's set has not arrived within 2 frame times. -/
def execRehearsalTimeout (dt stage : Nat) (s : State) : Host.Outcome State Fault Refusal :=
  eff dt s fun b =>
    match mget b.pr.own stage with
    | some x =>
      if x.at_ + 2 * framePeriod b stage ≤ b.now then
        (b.putPr { b.pr with own := mdel b.pr.own stage }).bump F.PAIR_DR_EXCLUDED_COUNT 0 x.set.sigs.length
      else b
    | none => b

/-! ### Second opinion (R352, R353) -/

/-- The second opinion is decided (R353): PAIR_SO_LAST, event 0x0108, and what each outcome brings. -/
def decideOpinion (st t out : Nat) (b : Blk) : Blk :=
  let b := b.putPr { b.pr with dispute := none, opinion := none }
  let b := ((b.wr F.PAIR_SO_LAST_OUTCOME 0 out).wr F.PAIR_SO_LAST_STAGE 0 st).wr F.PAIR_SO_LAST_TILE 0 t
  let b := pairEvent 0x108 (if out = 2 ∨ out = 3 then sevCritical else sevNotice) (out + 8 * st + 256 * t) (evB 3) b
  if out = 2 then
    if role b = roUnderstudy then refreshReady (b.wr F.PAIR_STAT_DR_FAULT 0 1)
    else if role b = roActive ∧ b.on F.PAIR_CFG_SO_ACTION 0 then beginPlanned 6 b
    else b
  else b

/-- The outcome of four signatures: own stage and second path, the partner's stage and second path (R353). -/
def opinionOutcome (o : Nat × Nat × Nat × Nat) : Nat :=
  if o.1 = o.2.2.1 then 1
  else if o.2.1 = o.2.2.2 ∧ o.2.2.2 = o.2.2.1 then 2
  else if o.2.1 = o.2.2.2 ∧ o.2.2.2 = o.1 then 3
  else 4

/-- SECOND_OPINION (R352, R353): a dispute is decided by the sets of a frame in which its tile was compared; without a second path it is
undecided. -/
def secondOpinion (b : Blk) : Blk :=
  match b.pr.dispute with
  | none => b
  | some (st, t, _) =>
    let across := cdiv (stageW (b.viewed st) st) 64
    match b.pr.opinion with
    | some o => decideOpinion st t (opinionOutcome o) b
    | none => if (secondPipe b st (t % across) (t / across)).isNone then decideOpinion st t 4 b else b

/-- SECOND_OPINION. -/
def execSecondOpinion (dt : Nat) (s : State) : Host.Outcome State Fault Refusal := eff dt s secondOpinion

/-- SECOND_OPINION_TIMEOUT (R352): not compared again within 16 frames of its stage. -/
def execSecondOpinionTimeout (dt : Nat) (s : State) : Host.Outcome State Fault Refusal :=
  eff dt s fun b =>
    match b.pr.dispute with
    | some (st, t, last) => if last ≤ b.rd F.STG_FRAME_F st then decideOpinion st t 4 b else b
    | none => b

/-! ### Link checks after a takeover (R359, R360) -/

/-- The conditions of R359 for handing back. The former owner had the head's link active when its setting came from there
(DEDUCED). -/
def mayHandBack (b : Blk) (h : Nat) : Bool :=
  b.on F.PAIR_CFG_HANDBACK 0
    && (match b.pr.tookAt with
      | some (t, c, planned) => planned && (c == 1 || c == 3)
          && Nat.blt b.now (t + b.rd F.PAIR_CFG_HB_WIN 0 * 100000000)
      | none => false)
    && (match b.pr.beat with
      | some p => p.role == roUnderstudy && !p.fatal && !p.drFault && Nat.blt p.therm 2
      | none => false)
    && (b.head h).fromPeer

/-- A head failed its check: the outputs are handed back, or the head is declared failed. -/
def headCheckFailed (h : Nat) (b : Blk) : Blk :=
  if mayHandBack b h && b.pr.release == none then
    pairEvent 0x10A sevWarning h (evB 4) (beginPlanned 7 (b.putPr { b.pr with tookAt := none, handAt := some b.now }))
  else
    pairEvent 0x10B sevError h (evB 4)
      (b.wr F.PAIR_HEADFAIL_HEADS 0 (setBits (b.rd F.PAIR_HEADFAIL_HEADS 0) h 1 1))

/-- After a head's training or check: a failed check acts, a trained head is no longer failed, and its setting is to be sent
to the partner (R346, R360). -/
def headOutcome (h : Nat) (old : Blk) (b : Blk) : Blk :=
  let b := if b.rd F.OHD_STAT_CHECK h = 3 ∧ old.rd F.OHD_STAT_CHECK h ≠ 3 then headCheckFailed h b else b
  let up := b.rd F.OHD_STAT_LINK h = 3 ∧ old.rd F.OHD_STAT_LINK h ≠ 3
  let b := if up then b.wr F.PAIR_HEADFAIL_HEADS 0 (setBits (b.rd F.PAIR_HEADFAIL_HEADS 0) h 1 0) else b
  if (b.head h).link ≠ (old.head h).link ∧ !b.pr.links.contains h then b.putPr { b.pr with links := b.pr.links ++ [h] } else b

/-- LINK_TRAINING (R258). -/
def execLinkTraining (dt head result : Nat) (topo : List (List (Nat × Nat × Nat))) (drive : List Nat) (s : State) :
    Host.Outcome State Fault Refusal := eff dt s fun b => headOutcome head b (linkTraining head result topo drive b)

/-- TRAINING_ATTEMPT_TIMEOUT (R258). -/
def execTrainingAttemptTimeout (dt head : Nat) (s : State) : Host.Outcome State Fault Refusal :=
  eff dt s fun b => headOutcome head b (attemptTimeout head b)

/-- LINK_CHECK (R262). -/
def execLinkCheck (dt head : Nat) (status : List Nat) (s : State) : Host.Outcome State Fault Refusal :=
  eff dt s fun b => headOutcome head b (linkCheck head status b)

end Sys2Proof.Machine
end

