-- ==== Sys2Proof/Machine/Ensemble.lean ====
section
/-!
DEFINITION. Ensembles of modules: ring beacons, membership, junctions, the lead, boundaries and isolation (chapter "Ensembles of
modules"), what members report to one another and the way of relayed frames. The frames themselves stand in Eligible.lean, group cues at an ensemble boundary in PairCopy.lean.
-/

namespace Sys2Proof.Machine

/-! States of ENS_STAT. -/

abbrev esNone : Nat := 0
abbrev esSettling : Nat := 1
abbrev esCopying : Nat := 2
abbrev esMember : Nat := 3
abbrev esRefused : Nat := 4

def ensState (b : Blk) : Nat := b.rd F.ENS_STAT_STATE 0

/-- The module carries ring traffic (R362, R365). -/
def inRing (b : Blk) : Bool := ensState b == 1 || ensState b == 2 || ensState b == 3

/-- The module is on a level beneath the top ring. -/
def beneath (b : Blk) : Bool := b.rd F.ENS_STAT_LEVEL 0 != 0

/-- A member was counted on a port within 40 µs (R363). -/
def onPort (b : Blk) (x : Member) (p : Nat) : Bool :=
  match (if p = 1 then x.on1 else x.on2) with
  | some e => Nat.blt b.now (e.2 + 40000)
  | none => false

/-- The last time a member was counted on either port. -/
def Member.heardAt (x : Member) : Nat :=
  Nat.max (match x.on1 with | some e => e.2 | none => 0) (match x.on2 with | some e => e.2 | none => 0)

/-- The positions heard, the module's own excepted. -/
def heardPos (b : Blk) : List Nat := (b.ens.members.map (·.1)).filter (· != ownPos b)

/-- The positions on the ring in ascending order. -/
def ringPos (b : Blk) : List Nat := (List.range 8).filter fun p => p == ownPos b || (heardPos b).contains p

/-- A ring port that carries ring traffic: it is ACTIVE, and the neighbour has not said GOODBYE (R381). -/
def ringUp (b : Blk) (p : Nat) : Bool := chnUp b p && !b.on F.CHN_STAT_PEER_EJECTING p

/-- Links from one position to another along port 1, toward higher positions, or along port 2. -/
def linksFrom (b : Blk) (p src dst : Nat) : Nat :=
  let l := ringPos b
  let n := l.length
  let i := (l.findIdx? (· == src)).getD 0
  let j := (l.findIdx? (· == dst)).getD i
  if n = 0 then 0 else if p = 1 then (j + n - i) % n else (i + n - j) % n

/-- Links from this module to a position. -/
def linksTo (b : Blk) (p pos : Nat) : Nat := linksFrom b p (ownPos b) pos

/-- The position that lies a number of links from this one on the side of a ring port. -/
def posAt (b : Blk) (p d : Nat) : Nat :=
  let l := ringPos b
  let n := l.length
  let i := (l.findIdx? (· == ownPos b)).getD 0
  l.getD (if p = 1 then (i + d) % n else (i + n * d - d) % n) (ownPos b)

/-- The farthest position heard on a ring port: an open ring ends there. -/
def lastOn (b : Blk) (p : Nat) : Nat :=
  posAt b p ((b.ens.members.filter fun e => e.1 != ownPos b && onPort b e.2 p).length)

/-- What goes from one position to another takes port `q`'s direction: the one with fewer links, toward port 1 on a tie; in an open ring
the one that is whole (R375). -/
def viaPort (b : Blk) (src q dst : Nat) : Bool :=
  let k := linksFrom b q src dst
  let n := (ringPos b).length
  if k = 0 then false
  else if b.on F.ENS_STAT_CLOSED 0 then (if q = 1 then Nat.ble (2 * k) n else Nat.blt (2 * k) n)
  else Nat.ble k (linksFrom b q src (lastOn b q))

/-- What a member sends to every other one goes on from here by ring port `q`: the position beyond is reached this way. -/
def passesOn (b : Blk) (origin q : Nat) : Bool := ringUp b q && viaPort b origin q (posAt b q 1)

/-- The ring port toward a position; the port it is heard on in an open ring (R375). -/
def toward (b : Blk) (pos : Nat) : Option Nat :=
  match mget b.ens.members pos with
  | none => none
  | some x =>
    match onPort b x 1, onPort b x 2 with
    | true, true => some (if linksTo b 1 pos ≤ linksTo b 2 pos then 1 else 2)
    | true, false => some 1
    | false, true => some 2
    | false, false => none

/-- The position that stands for a pair: that of its ACTIVE module (R38, R369). -/
def pairActive (b : Blk) (pos : Nat) : Nat :=
  if pos = ownPos b then (if role b = roUnderstudy then (partnerPos b).getD pos else pos)
  else match mget b.ens.members pos with
    | some x => if x.beacon.role = roUnderstudy then x.mate.getD pos else pos
    | none => pos

/-- The other members as the ensemble presents them: a pair once, at the lower of its positions (R38). -/
def presented (b : Blk) : List Nat :=
  (heardPos b).mergeSort.filter fun p =>
    partnerPos b != some p && (match mget b.ens.members p with
      | some x => (match x.mate with | some q => Nat.ble p q || !(heardPos b).contains q | none => true)
      | none => true)

/-- ENS_STAT.MEMBERS and CLOSED: the ring is closed while every other member is heard on both ring ports. -/
def ringSeen (b : Blk) : Blk :=
  let mask := (heardPos b).foldl (fun a p => a + 2 ^ p) 0
  let closed := !(heardPos b).isEmpty && b.ens.members.all fun e => e.1 == ownPos b || (onPort b e.2 1 && onPort b e.2 2)
  (b.wr F.ENS_STAT_MEMBERS 0 mask).put F.ENS_STAT_CLOSED 0 closed

/-! ### Reports (R371) and relay streams (R372 to R376) -/

/-- The frame rate declared for a layer's writer as frames and seconds: 10 frames per second for a host-written layer. -/
def writerRate (b : Blk) (l : Nat) : Nat × Nat :=
  match (List.range 64).find? fun c => enabled b ⟨.ing, c⟩ && chanLayer b c == some l with
  | some c => (b.rd F.ING_RATE_NUM c, b.rd F.ING_RATE_DEN c)
  | none => (10, 1)

/-- The bytes of a frame of LD_SIZE in the layer's written format. -/
def relayBytes (b : Blk) (l : Nat) : Nat :=
  let fmt := (writtenFmt b l).getD (b.rd F.LD_FMT_FORMAT l)
  let h := b.rd F.LD_SIZE_HEIGHT l
  lineBytes fmt (b.rd F.LD_SIZE_WIDTH l) * (if fmt = 8 ∨ fmt = 9 then h + cdiv h 2 else h)

/-- The rate of a relay stream in bit/s, rounded up. -/
def relayRate (b : Blk) (l : Nat) : Nat :=
  let r := writerRate b l
  cdiv (relayBytes b l * 8 * r.1 * 1026) (r.2 * 1023)

/-- A layer is bound here, on the module that owns the pair (R372). -/
def boundHere (b : Blk) (l : Nat) : Bool := sourceOf b l != 0 && role b != roUnderstudy

/-- What this module reports on a subject (R371). For a bound layer's stream: its written format, and its rate in 10 kbit/s. -/
def ownReport (b : Blk) (idx : Nat) : Nat :=
  if idx < 4096 then ownLayerReport b (boundHere b idx) idx
  else if idx < 8192 then (if bits ((ownScene b (idx - 4096)).headD 0) 8 8 = 0 then 0 else (ownScene b (idx - 4096)).headD 0)
  else
    let l := idx - 8192
    if boundHere b l then (writtenFmt b l).getD (b.rd F.LD_FMT_FORMAT l) % 16 + 16 * cdiv (relayRate b l) 10000 else 0

/-- The report of a sender on a subject, 0 without one. -/
def reportOf (b : Blk) (origin idx : Nat) : Nat := mgetD b.ens.reports (reportKey origin idx) 0

/-- The sender whose report says that it binds a layer; the pair partner's own binding is the pair's (R372). -/
def boundBy (b : Blk) (l : Nat) : Option Nat :=
  (List.range 9).find? fun o => bit (reportOf b o l) 23 && partnerPos b != some o

/-- The position of a layer's home on this ring (R372): the member that binds it, the junction member where it is bound or homed beyond
port 3, and otherwise the lead or, beneath, the anchor. -/
def homeOf (b : Blk) (l : Nat) : Nat :=
  if sourceOf b l ≠ 0 then pairActive b (ownPos b)
  else match boundBy b l with
    | some o => if o < 8 then o else ownPos b
    | none => b.rd F.ENS_STAT_LEAD_POS 0

/-- The layer is homed on this very module. -/
def homedHere (b : Blk) (l : Nat) : Bool := boundHere b l || (b.on F.ENS_STAT_LEAD 0 && sourceOf b l == 0 && (boundBy b l).isNone)

/-- The positions on this ring that subscribe to a layer; `own` are the layers that this module subscribes to. -/
def subscribers (b : Blk) (own : List Nat) (l : Nat) : List Nat :=
  (ringPos b).filter fun p => p != homeOf b l
    && (if p = ownPos b then own.contains l || Nat.ble (2 ^ 24) (reportOf b 8 l) else Nat.ble (2 ^ 24) (reportOf b p l))

/-- A layer's stream leaves position `i` by port `q`. -/
def leavesBy (b : Blk) (own : List Nat) (l i q : Nat) : Bool :=
  let home := homeOf b l
  (subscribers b own l).any fun s => viaPort b home q s && Nat.blt (linksFrom b q home i) (linksFrom b q home s)

/-- The layers that any member subscribes to, ascending. -/
def relayLayers (b : Blk) (own : List Nat) : List Nat :=
  ((b.ens.reports.filterMap fun (e : Nat × Nat) => if e.1 % 16384 < 4096 ∧ 2 ^ 24 ≤ e.2 then some (e.1 % 16384) else none) ++ own).mergeSort.eraseDups

/-- The rate of a layer's stream, as its home has reported it. -/
def streamRate (b : Blk) (l : Nat) : Nat :=
  if sourceOf b l ≠ 0 then relayRate b l
  else match boundBy b l with
    | some o => reportOf b o (8192 + l) / 16 * 10000
    | none => relayRate b l

/-- Payload of a link that relay streams may take, bit/s. -/
abbrev relayLimit : Nat := 175230000000

/-- The rate of the streams that leave a position by a ring port. -/
def linkLoad (b : Blk) (own : List Nat) (i q : Nat) : Nat :=
  (((relayLayers b own).filter fun l => leavesBy b own l i q).map (streamRate b)).sum

/-- The layers relayed on a ring port, ascending, as far as the link carries them (R376). -/
def relayed (b : Blk) (p : Nat) : List Nat :=
  (((relayLayers b b.ens.subs).filter fun l => leavesBy b b.ens.subs l (ownPos b) p).foldl (fun (acc : List Nat × Nat) l =>
    let r := acc.2 + streamRate b l
    if r ≤ relayLimit then (acc.1 ++ [l], r) else acc) ([], 0)).1

/-- A layer's frames go on over port 3: the ring there places it and does not home it. -/
def relayedAcross (b : Blk) (l : Nat) : Bool :=
  (b.ens.junction == 1 || b.ens.junction == 2) && chnUp b 3 && Nat.ble (2 ^ 24) (reportOf b 8 l) && !bit (reportOf b 8 l) 23

/-- ENS_RELAY_LOAD for the layers that this module subscribes to, and event 0x0104 when rerouting exceeds a link (R376). -/
def relayReroute (tell : Bool) (own : List Nat) (b : Blk) : Blk :=
  let p1 := linkLoad b own (ownPos b) 1
  let p2 := linkLoad b own (ownPos b) 2
  let b := (b.wr F.ENS_RELAY_LOAD_PORT1 0 (Nat.min 65535 (p1 / 10000000))).wr F.ENS_RELAY_LOAD_PORT2 0 (Nat.min 65535 (p2 / 10000000))
  let b := if tell ∧ relayLimit < p1 then ensEvent 0x104 sevWarning 1 (evB 2) b else b
  if tell ∧ relayLimit < p2 then ensEvent 0x104 sevWarning 2 (evB 2) b else b

/-- The address that a report is written to, and the subject that an address stands for. -/
def reportAddr (idx : Nat) : Nat :=
  if idx < 4096 then 0x600000 + 16 * idx else if idx < 8192 then 0x580000 + 8 * (idx - 4096) else 0x600008 + 16 * (idx - 8192)
def reportIdx (a : Nat) : Option Nat :=
  if 0x600000 ≤ a ∧ a < 0x610000 then
    (if a % 16 = 0 then some ((a - 0x600000) / 16) else if a % 16 = 8 then some (8192 + (a - 0x600000) / 16) else none)
  else if 0x580000 ≤ a ∧ a < 0x584000 ∧ a % 8 = 0 then some (4096 + (a - 0x580000) / 8)
  else none

/-- The layers that are bound here. -/
def boundLayersHere (b : Blk) : List Nat :=
  (((List.range 64).filterMap fun c => if enabled b ⟨.ing, c⟩ then chanLayer b c else none)
    ++ ((List.range 16).filterMap fun x => if enabled b ⟨.xsd, x⟩ && b.on F.XSD_CTRL_LAYER_EN x then some (b.rd F.XSD_CTRL_LAYER x) else none)
    ++ (List.range 32).filterMap fun x => if enabled b ⟨.vdc, x⟩ && b.on F.VDC_CTRL_LAYER_EN x then some (b.rd F.VDC_CTRL_LAYER x)
      else none).eraseDups

/-- The subjects on which this module may have something to report. -/
def reportSubjects (b : Blk) : List Nat :=
  let bound := boundLayersHere b
  let placed : List Nat := (places b).flatMap fun (e : Nat × Nat × Place) => e.2.2.layer :: e.2.2.path.map fun (s : Nat) => 4096 + s
  let known : List Nat := (b.ens.told ++ b.ens.reports).map fun (e : Nat × Nat) => e.1 % 16384
  (placed ++ bound ++ bound.map (fun (l : Nat) => 8192 + l) ++ known).eraseDups

/-- One report goes to the ring, or over port 3, when it has changed since it was last sent. `across` says which: what crosses port 3
takes in what the ring has reported, and what goes to the ring what came over port 3. -/
def reportSend (across : Bool) (idx : Nat) (b : Blk) : Blk :=
  let w := withReports b (if across then List.range 8 else [8]) idx (ownReport b idx)
  let k := idx + (if across then 16384 else 0)
  if mgetD b.ens.told k 0 = w then b
  else
    let b := b.putEns { b.ens with told := if w = 0 then mdel b.ens.told k else mset b.ens.told k w }
    forEach (if across then [3] else [1, 2].filter fun q => passesOn b (ownPos b) q) (fun p b => chnSend p 5 [reportAddr idx, 0x21, w, 1] b) b

/-- A member reports its placements and bindings as they change (R371, R374). -/
def sendReports (b : Blk) : Blk :=
  if ensState b ≠ esMember then b
  else
    let l := reportSubjects b
    let b := forEach l (reportSend false) b
    if (b.ens.junction = 1 ∨ b.ens.junction = 2) ∧ chnUp b 3 then forEach l (reportSend true) b else b

/-! ### Membership -/

/-- Windows 0 to 6 name the other members of the top ring in ascending order, a pair once (R38, R369). -/
def fillWindows (b : Blk) : Blk :=
  forEach (List.range 7) (fun j b =>
    match (presented b)[j]? with
    | some p => ((b.wr F.ENS_WIN_PATH 0 p j).wr F.ENS_WIN_DEPTH 0 0 j).wr F.ENS_WIN_VALID 0 1 j
    | none => b.wr F.ENS_WIN_VALID 0 0 j) b

/-- The module is in no ensemble any more. -/
def leaveRing (b : Blk) : Blk :=
  let b := ((((b.wr F.ENS_STAT_STATE 0 0).wr F.ENS_STAT_LEAD 0 0).wr F.ENS_STAT_ISOLATED 0 0).wr F.ENS_STAT_MEMBERS 0 0).wr
    F.ENS_STAT_CLOSED 0 0
  peerLost 7 (b.putEns { seq := b.ens.seq, junction := b.ens.junction, refusedWhy := b.ens.refusedWhy })

/-- A window that names nothing comes to name a member that joins while this module leads (R369). -/
def windowFor (pos : Nat) (b : Blk) : Blk :=
  if !b.on F.ENS_STAT_LEAD 0 || !(presented b).contains pos
      || (List.range 7).any (fun j => b.on F.ENS_WIN_VALID 0 j && b.rd F.ENS_WIN_DEPTH 0 j == 0 && b.rd F.ENS_WIN_PATH 0 j == pos) then b
  else match (List.range 7).find? fun j => !b.on F.ENS_WIN_VALID 0 j with
    | some j => ((b.wr F.ENS_WIN_PATH 0 pos j).wr F.ENS_WIN_DEPTH 0 0 j).wr F.ENS_WIN_VALID 0 1 j
    | none => b

/-- A duplicate of the own position is on the ring (R365): event 0x0106. -/
def refuseDuplicate (b : Blk) : Blk :=
  if ensState b = esRefused then b
  else ensEvent 0x106 sevWarning (ownPos b) (evB 3) (b.wr F.ENS_STAT_STATE 0 esRefused)

/-- RING_JOIN (R362, R365). -/
def ringJoin (b : Blk) : Blk :=
  if !b.on F.ENS_CFG_EN 0 || !(chnUp b 1 || chnUp b 2) then (if ensState b = esNone then b else leaveRing b)
  else
    let dup := (mget b.ens.members (ownPos b)).isSome
    if ensState b = esMember then b
    else if dup then refuseDuplicate b
    else if ensState b = esNone ∨ ensState b = esRefused then
      (b.wr F.ENS_STAT_STATE 0 esSettling).putEns { b.ens with joinedAt := b.now, changedAt := b.now }
    else b

/-- RING_JOIN. -/
def execRingJoin (dt : Nat) (s : State) : Host.Outcome State Fault Refusal := eff dt s ringJoin

/-- A BAR0 offset of the ranges that an ensemble shares (R371): layer descriptors, scenes and the policy table of the PRM global page. -/
def sharedRange (a : Nat) : Bool :=
  match target a with
  | .desc _ _ => true
  | .scene _ _ => true
  | .page p o => p.blk == .prm && p.inst == 24 && Nat.ble 0x400 o && Nat.blt o 0xC00
  | _ => false

/-- The shared ranges with nothing staged and every field at its reset value: what a joining module's copy begins from (R380). -/
def clearShared (b : Blk) : Blk :=
  { b with regs := b.regs.filter fun e => !sharedRange (e.1 / 32),
           ctl := { b.ctl with staged := b.ctl.staged.filter fun e => !sharedRange e.1 } }

/-- A module that joins an existing ensemble enters WINGS and is copied to (R380). -/
def beginCopy (b : Blk) : Blk :=
  let b := clearShared (b.wr F.ENS_STAT_STATE 0 esCopying)
  let b := if role b = roActive then takeRole roWings 0 (dropOwnership b) else b
  b.putEns { b.ens with copied := none }

/-! ### Boundaries (R377) -/

/-- The next epoch boundary of this module (R338). -/
def nextBoundary (b : Blk) : Nat :=
  if stageRuns b 0 then
    let p := framePeriod b 0
    let t := b.rd F.STG_CUP_TIME_TIME 0
    if p = 0 then t else t + ((b.now - t) / p + 1) * p
  else
    let k := b.now * 3 / 50000000
    if b.now < (k * 50000000) / 3 then k * 50000000 / 3 else (k + 1) * 50000000 / 3

/-- The next ensemble frame boundary: the lead's own epoch boundary, or the one announced. -/
def ensNext (b : Blk) : Nat := if b.on F.ENS_STAT_LEAD 0 then nextBoundary b else b.ens.boundary

/-- Extend the low bits of a time that lies near the present. -/
def extend (w now low : Nat) : Nat :=
  let d := sgn w ((low + 2 ^ w - now % 2 ^ w) % 2 ^ w)
  (Int.ofNat now + d).toNat

/-! ### Beacons (R363, R364) -/

/-- This module's offset from the lead, 0.01 ns. -/
def leadOffset (b : Blk) : Int := if b.on F.ENS_STAT_LEAD 0 then 0 else 100 * rdInt b F.CLK_REF_OFFSET_OFFSET 8

/-- Layers bound here whose newest frame came since a time and had changed. -/
def changedSince (b : Blk) (t : Nat) : Nat :=
  Nat.min 255 (b.prm.layers.filter fun e => sourceOf b e.1 != 0
    && (match e.2.newest with | some f => f.changed && Nat.ble t f.arr | none => false)).length

/-- The 24 bytes of a beacon for a port. -/
def beaconBytes (b : Blk) (p : Nat) : List Nat :=
  let st (f : Fld) := b.rd f 0
  let uplink := b.ens.junction == 2
  let speaks := b.on F.ENS_STAT_LEAD 0 || uplink
  let prev := match mgetD b.ens.tx p [] with | e :: _ => e.2 | [] => 0
  let rx := match mget b.ens.rx p with | some e => e.2.1 | none => 0
  leBytes 2 b.ens.seq
    ++ [ownPos b + 8 * st F.ENS_STAT_LEVEL + 32 * st F.ENS_CFG_CANDIDATE + 64 * st F.ENS_STAT_LEAD + 128 * st F.ENS_STAT_CLOSED,
        role b + 8 * st F.ENS_STAT_LEAD_POS + 64 * b2n uplink + 128 * st F.SYS_STAT_EJECTING]
    ++ leBytes 4 prev ++ leBytes 4 rx ++ leBytes 4 (enc 32 (leadOffset b))
    ++ leBytes 4 (if speaks then ensNext b else 0)
    ++ [st F.ENS_STAT_MEMBERS, changedSince b b.ens.sentAt] ++ leBytes 2 (st F.PAIR_EPOCH_EPOCH + 1)

/-- The ports that carry ensemble channels. -/
def ensPorts (b : Blk) : List Nat :=
  [1, 2, 3].filter fun p => ringUp b p && (p != 3 || b.ens.junction == 1 || b.ens.junction == 2)

/-- BEACON_SEND (R363): every 10 µs from the ring ports, and over a junction. A module with both ring ports down is in no ensemble (R362).
What has changed since the last beacon is reported with it (R371). -/
def beaconSend (b : Blk) : Blk :=
  if !(chnUp b 1 || chnUp b 2) && ensState b != esNone then leaveRing b
  else if !inRing b || (b.ens.sentAt != 0 && Nat.blt b.now (b.ens.sentAt + 10000)) then b
  else
    let b := ringSeen b
    let b := if inRing b then b.wr F.ENS_BOUNDARY_TIME 0 (ensNext b) else b
    let b' := forEach (ensPorts b) (fun p b =>
      let at_ := b.now + rdiv (b.rd F.CHN_LAT_TX p) 10
      let b := chnExpress p 4 (byteWords (beaconBytes b p)) b
      b.putEns { b.ens with tx := mset b.ens.tx p (((b.ens.seq, at_) :: mgetD b.ens.tx p []).take 16) }) b
    sendReports (b'.putEns { b'.ens with sentAt := b'.now, seq := (b'.ens.seq + 1) % 65536 })

/-- BEACON_SEND. -/
def execBeaconSend (dt : Nat) (s : State) : Host.Outcome State Fault Refusal := eff dt s beaconSend

/-- The neighbour's position on a ring port, from its capability frame (R319). -/
def neighbour (b : Blk) (p : Nat) : Nat := bits (b.rd F.CHN_PEER_WORD p 4) 16 3

/-- The 24 bytes of a beacon that is sent on as it came (R363). -/
def beaconLayout (p : Beacon) : List Nat :=
  leBytes 2 p.seq
    ++ [p.pos % 8 + 8 * (p.level % 4) + 32 * b2n p.candidate + 64 * b2n p.lead + 128 * b2n p.closed,
        p.role % 8 + 8 * (p.leadPos % 8) + 64 * b2n p.uplink + 128 * b2n p.ejecting]
    ++ leBytes 4 p.tTxPrev ++ leBytes 4 p.tRx ++ leBytes 4 (enc 32 p.offset) ++ leBytes 4 p.boundary
    ++ [p.hears % 256, p.changed % 256] ++ leBytes 2 p.number

/-- A beacon goes on around the ring and stops at the member before its sender (R363). -/
def forwardBeacon (port : Nat) (p : Beacon) (b : Blk) : Blk :=
  let q := 3 - port
  if ringUp b q && neighbour b q != p.pos then chnExpress q 4 (byteWords (beaconLayout p)) b else b

/-- The measurement of a neighbour over a port by the formula of R333: its stage time minus own, ns. The upper bits come from
its capability frame. -/
def neighbourOffset (b : Blk) (port t1 t2 t3 t4 : Nat) : Int :=
  let d1 := sgn 32 ((t1 + 2 ^ 32 - t2 % 2 ^ 32) % 2 ^ 32)
  let d2 := sgn 32 ((t4 + 2 ^ 32 - t3 % 2 ^ 32) % 2 ^ 32)
  let low := (d1 + d2) / 2
  let cap : Int := (b.rd F.CHN_PEER_WORD port 10 + 2 ^ 32 * b.rd F.CHN_PEER_WORD port 11 : Nat)
  low + (cap - b.now - low + 2 ^ 31) / 2 ^ 32 * 2 ^ 32

/-- When this module's last beacon that a neighbour has received was sent: of those kept, the one whose round trip with the beacon before
is the shortest that is not negative, since a beacon names no other's SEQ (DEDUCED, log 87). -/
def beaconSentAt (b : Blk) (port t1 t2 t4 : Nat) : Option Nat :=
  let trip (t3 : Nat) : Int := sgn 32 ((t2 % 2 ^ 32 + 2 ^ 32 - t1 % 2 ^ 32) % 2 ^ 32) + sgn 32 ((t4 % 2 ^ 32 + 2 ^ 32 - t3 % 2 ^ 32) % 2 ^ 32)
  ((mgetD b.ens.tx port []).map (·.2)).foldl (fun (m : Option Nat) t3 =>
    if trip t3 < 0 then m
    else match m with
      | none => some t3
      | some x => if trip t3 < trip x then some t3 else m) none

/-- A beacon of the neighbour nearer the lead or anchor gives REF7 a measurement (R364). `t2` is when the beacon before was
received, `p.tTxPrev` when it was sent. -/
def beaconTime (port : Nat) (p : Beacon) (prev : Option (Nat × Nat × Nat)) (clk quality : Nat) (unc : Bool) (utc dco : Int)
    (b : Blk) : Blk :=
  let target := b.rd F.ENS_STAT_LEAD_POS 0
  let nearer := p.pos == target || toward b target == some port || port == 3
  match prev with
  | some (q, t2, _) =>
    match beaconSentAt b port p.tTxPrev t2 p.tRx with
    | some t3 =>
      if nearer ∧ !b.on F.ENS_STAT_LEAD 0 ∧ (q + 1) % 65536 = p.seq ∧ (port = 3 → b.ens.junction = 2) then
        peerTime 7 clk quality 0 unc utc (neighbourOffset b port p.tTxPrev t2 t3 p.tRx + p.offset / 100) dco b
      else b
    | none => b
  | none => b

/-- The words that a joining member is copied (R380): under MID 0x20 every field of the shared ranges that is not at its reset value, and
under its writer every staged word. -/
def joinCopy (b : Blk) : List (Nat × Nat × Nat) :=
  (((b.regs.filter fun e => sharedRange (e.1 / 32)).map fun e => e.1 / 32 / 4 * 4).eraseDups.map fun a => (a, 0x20, rawWord b a))
    ++ (b.ctl.staged.filter fun e => sharedRange e.1).map fun e => (e.1, e.2.mid, e.2.data)

/-- The lead, or on a ring beneath the anchor, copies the shared ranges to a member that joins (R380). -/
def copyTo (pos : Nat) (b : Blk) : Blk :=
  if ensState b = esMember ∧ (b.on F.ENS_STAT_LEAD 0 ∨ b.on F.ENS_STAT_ANCHOR 0) then
    match toward b pos with
    | some p => forEach (joinCopy b) (fun w b => chnSend p 5 [w.1, w.2.1, w.2.2, 1] b) b
    | none => b
  else b

/-- A member is counted (R363). One that joins is copied to by the lead, and hears every report anew. -/
def countMember (port : Nat) (p : Beacon) (mate : Option Nat) (b : Blk) : Blk :=
  let old := mget b.ens.members p.pos
  let x : Member := { (old.getD { beacon := p }) with beacon := p, mate := mate }
  let x := if port = 1 then { x with on1 := some (p.seq, b.now) } else { x with on2 := some (p.seq, b.now) }
  let b := b.putEns { b.ens with members := mset b.ens.members p.pos x }
  if old.isSome then b
  else
    let b := b.putEns { b.ens with changedAt := b.now, told := [] }
    if ensState b = esMember ∧ p.pos ≠ ownPos b then
      windowFor p.pos (copyTo p.pos (ensEvent 0x100 sevNotice (p.pos + 8 * p.level) (evB 0) b))
    else b

/-- What the lead or anchor announces (R377, R382): boundary and number, the lead's place, and the end of isolation. -/
def leadSays (p : Beacon) (b : Blk) : Blk :=
  if !(p.lead || p.uplink) then b
  else
    let b := b.putEns { b.ens with boundary := extend 32 b.now p.boundary, number := p.number }
    let b := b.wr F.ENS_BOUNDARY_TIME 0 b.ens.boundary
    let b := if p.uplink ∧ b.ens.junction ≠ 2 then (b.wr F.ENS_STAT_LEVEL 0 p.level).wr F.ENS_STAT_LEAD_POS 0 p.pos else b
    if b.on F.ENS_STAT_ISOLATED 0 && b.ens.lead != some p.pos then
      beginCopy (setLead p.pos ((b.wr F.ENS_STAT_ISOLATED 0 0).wr F.ENS_STAT_LEAD 0 0))
    else b

/-- The SEQ last counted from a sender on a port. -/
def lastSeq (b : Blk) (port pos : Nat) : Option Nat :=
  match mget b.ens.members pos with
  | some x => (if port = 1 then x.on1 else x.on2).map (·.1)
  | none => none

/-- BEACON_RX (R363). `direct` marks a beacon of the neighbour itself; `mate` is the position of the sender's pair partner; `clk`, `quality`,
`unc` and `utc` are what the lead advertises, `dco` what the loop makes of the measurement. -/
def beaconRx (port : Nat) (direct : Bool) (p : Beacon) (mate : Option Nat) (clk quality : Nat) (unc : Bool) (utc dco : Int) (b : Blk) : Blk :=
  if !b.on F.ENS_CFG_EN 0 || !ringUp b port || port == 0 || Nat.blt 3 port then b
  else
    let prev := mget b.ens.rx port
    let at_ := b.now - rdiv (b.rd F.CHN_LAT_RX port) 10
    let b := if direct then b.putEns { b.ens with rx := mset b.ens.rx port (p.seq, at_, p.pos) } else b
    if port = 3 then
      (if b.ens.junction = 2 then leadSays { p with uplink := false } (beaconTime port p prev clk quality unc utc dco b) else b)
    else if p.pos = ownPos b ∧ ensState b = esMember then b
    else if lastSeq b port p.pos = some p.seq then b
    else
      let b := countMember port p mate b
      let b := if p.pos = ownPos b ∧ inRing b then refuseDuplicate b else b
      if ensState b = esRefused ∨ ensState b = esNone then b
      else
        let b := leadSays p b
        let b := if direct then beaconTime port p prev clk quality unc utc dco b else b
        ringSeen (forwardBeacon port p b)

/-- BEACON_RX. -/
def execBeaconRx (dt port : Nat) (direct : Bool) (p : Beacon) (mate : Option Nat) (clk quality : Nat) (unc : Bool) (utc dco : Int)
    (s : State) : Host.Outcome State Fault Refusal := eff dt s (beaconRx port direct p mate clk quality unc utc dco)

/-- A member is gone, with what it had reported (R363, R381). -/
def memberGone (pos : Nat) (b : Blk) : Blk :=
  match mget b.ens.members pos with
  | none => b
  | some x =>
      let b := b.putEns { b.ens with members := mdel b.ens.members pos, changedAt := b.now,
                                     reports := b.ens.reports.filter fun e => e.1 / 16384 != pos }
      if pos = ownPos b then b
      else
        let b := if inRing b then ensEvent 0x101 sevWarning (pos + 8 * b2n x.beacon.ejecting) (evB 0) b else b
        let b := if b.ens.lead = some pos then peerLost 7 b else b
        relayReroute true b.ens.subs (ringSeen b)

/-- MEMBER_LOST (R363): no beacon of a sender counted for 40 µs. -/
def memberLost (pos : Nat) (b : Blk) : Blk :=
  match mget b.ens.members pos with
  | none => b
  | some x => if b.now < x.heardAt + 40000 then b else memberGone pos b

/-- A ring neighbour has said GOODBYE (R381): the ring is open from this instant. What was heard through that port is not heard there
any more, and the neighbour itself is gone. -/
def ringDeparts (port : Nat) (b : Blk) : Blk :=
  if !(port == 1 || port == 2) || !inRing b then b
  else
    let pos := neighbour b port
    let ms := b.ens.members.map fun e =>
      (e.1, { e.2 with on1 := if port = 1 then none else e.2.on1, on2 := if port = 2 then none else e.2.on2,
                       beacon := { e.2.beacon with ejecting := e.2.beacon.ejecting || e.1 == pos } })
    memberGone pos (ringSeen (b.putEns { b.ens with members := ms }))

/-- What follows a GOODBYE that came between two states. -/
def afterGoodbye (old b : Blk) : Blk :=
  forEach [1, 2] (fun p b => if b.on F.CHN_STAT_PEER_EJECTING p && !old.on F.CHN_STAT_PEER_EJECTING p then ringDeparts p b else b) b

/-- GOODBYE_RX. -/
def execGoodbyeRx (dt port : Nat) (s : State) : Host.Outcome State Fault Refusal :=
  eff dt s fun b => afterGoodbye b (goodbyeRx port b)

/-- EXPRESS_GROUP_RX. -/
def execExpressGroupRx (dt port : Nat) (codewords : List (List (List Nat))) (s : State) : Host.Outcome State Fault Refusal :=
  eff dt s fun b => afterGoodbye b (expressGroupRx port codewords b)

/-- MEMBER_LOST. -/
def execMemberLost (dt pos : Nat) (s : State) : Host.Outcome State Fault Refusal := eff dt s (memberLost pos)

/-! ### Junctions (R366) -/

/-- Why a junction is refused, 0 for no reason. -/
def junctionRefusal (peerUplink : Bool) (b : Blk) : Nat :=
  let up := b.on F.ENS_CFG_UPLINK 0
  let level := if up then bits (b.rd F.CHN_PEER_WORD 3 5) 24 8 + 1 else b.rd F.ENS_STAT_LEVEL 0 + 1
  if up = peerUplink then 2
  else if 3 < level then 1
  else if up && b.ens.members.any fun e => e.2.beacon.uplink && e.1 != ownPos b then 3
  else 0

/-- JUNCTION_FORM. -/
def junctionForm (peerUplink : Bool) (b : Blk) : Blk :=
  if !chnUp b 3 || !inRing b then
    if b.ens.junction = 2 then
      ((b.wr F.ENS_STAT_ANCHOR 0 0).wr F.ENS_STAT_LEVEL 0 0).putEns { b.ens with junction := 0, lead := none, changedAt := b.now }
    else b.putEns { b.ens with junction := 0, refusedWhy := 0 }
  else if b.ens.junction = 1 ∨ b.ens.junction = 2 then b
  else
    let why := junctionRefusal peerUplink b
    if why ≠ 0 then
      if b.ens.refusedWhy = why then b
      else ensEvent 0x107 sevWarning why (evB 3) (b.putEns { b.ens with junction := 3, refusedWhy := why })
    else if b.on F.ENS_CFG_UPLINK 0 then
      let b := (b.wr F.ENS_STAT_ANCHOR 0 1).wr F.ENS_STAT_LEVEL 0 (bits (b.rd F.CHN_PEER_WORD 3 5) 24 8 + 1)
      let b := (b.wr F.ENS_STAT_LEAD 0 0).wr F.ENS_STAT_LEAD_POS 0 (ownPos b)
      selectorDue (b.putEns { b.ens with junction := 2, refusedWhy := 0, lead := none })
    else b.putEns { b.ens with junction := 1, refusedWhy := 0 }

/-- JUNCTION_FORM. -/
def execJunctionForm (dt : Nat) (peerUplink : Bool) (s : State) : Host.Outcome State Fault Refusal :=
  eff dt s (junctionForm peerUplink)

/-! ### The lead (R367) -/

/-- The candidates among the positions heard and the own one, lowest first. -/
def candidates (b : Blk) : List Nat :=
  (ringPos b).filter fun p =>
    if p = ownPos b then b.on F.ENS_CFG_CANDIDATE 0
    else match mget b.ens.members p with | some x => x.beacon.candidate | none => false

/-- The module becomes a member with the election (R367) or the end of its copy (R380). -/
def becomeMember (b : Blk) : Blk := fillWindows (selectorDue (b.wr F.ENS_STAT_STATE 0 esMember))

/-- LEAD_ELECTION (R367): the members heard have been unchanged for SETTLE. A lead in office stays; a module that hears one joins
by a copy. -/
def leadElection (b : Blk) : Blk :=
  if !inRing b then b
  else if b.now < b.ens.changedAt + b.rd F.ENS_CFG_SETTLE 0 * 1000000 then b
  else if beneath b then (if ensState b = esSettling then beginCopy b else b)
  else
    let inOffice := b.ens.members.find? fun e => e.2.beacon.lead && e.1 != ownPos b
    if ensState b = esSettling then
      match inOffice with
      | some e => beginCopy (setLead e.1 b)
      | none => match candidates b with
        | p :: _ => becomeMember (setLead (pairActive b p) b)
        | [] => b
    else if ensState b = esMember ∧ !b.on F.ENS_STAT_ISOLATED 0 then
      match b.ens.lead with
      | some l =>
        if l = ownPos b ∨ (mget b.ens.members l).isSome then setLead (pairActive b l) b
        else elect inOffice (candidates b) b
      | none => elect inOffice (candidates b) b
    else b
where
  /-- A lead that is heard, or else the lowest candidate; of a pair its ACTIVE module. -/
  elect (inOffice : Option (Nat × Member)) (l : List Nat) (b : Blk) : Blk :=
    match inOffice, l with
    | some e, _ => setLead e.1 b
    | none, p :: _ => setLead (pairActive b p) b
    | none, [] => b

/-- LEAD_ELECTION. -/
def execLeadElection (dt : Nat) (s : State) : Host.Outcome State Fault Refusal := eff dt s leadElection

/-- The module becomes a member at the boundary after its copy is complete (R380): event 0x0100. -/
def joinAtBoundary (b : Blk) : Blk :=
  match b.ens.copied with
  | some t =>
    if ensState b = esCopying ∧ t ≤ b.now then
      let b := becomeMember (b.putEns { b.ens with copied := none })
      ensEvent 0x100 sevNotice (ownPos b + 8 * b.rd F.ENS_STAT_LEVEL 0) (evB 0) b
    else b
  | none => b

/-- JOIN_COPY_DONE: the copy is complete; the module becomes a member at the next boundary. -/
def joinCopyDone (b : Blk) : Blk :=
  if ensState b ≠ esCopying then b
  else
    let b := if b.ens.copied.isSome then b else b.putEns { b.ens with copied := some (Nat.max b.now b.ens.boundary) }
    joinAtBoundary b

/-- JOIN_COPY_DONE. -/
def execJoinCopyDone (dt : Nat) (s : State) : Host.Outcome State Fault Refusal := eff dt s joinCopyDone

/-- RING_ISOLATED (R382): a part of the ring that no longer hears the lead; its lowest candidate serves for time and
boundaries. -/
def ringIsolated (b : Blk) : Blk :=
  match b.ens.lead with
  | some l =>
    if ensState b = esMember ∧ !b.on F.ENS_STAT_ISOLATED 0 ∧ l ≠ ownPos b ∧ (mget b.ens.members l).isNone then
      let b := b.wr F.ENS_STAT_ISOLATED 0 1
      let b := ensEvent 0x105 sevError (b.rd F.ENS_STAT_MEMBERS 0) (evB 3) b
      match candidates b with
      | p :: _ => setLead (pairActive b p) b
      | [] => b
    else b
  | none => b

/-- RING_ISOLATED. -/
def execRingIsolated (dt : Nat) (s : State) : Host.Outcome State Fault Refusal := eff dt s ringIsolated

end Sys2Proof.Machine
end

