-- ==== Sys2Proof/Machine/Memory.lean ====
section
/-!
DEFINITION. The frame store's controllers and the check-value units (chapter "Frame store, arbitration and check values").
-/

namespace Sys2Proof.Machine

def memPage (c : Nat) : Page := ⟨.mem, c⟩
def memGlobal : Page := ⟨.mem, 8⟩

def memEvent (c code sev d evt : Nat) (b : Blk) : Blk := raise (memPage c) code sev d evt b

/-- The channel of a frame-store address (R384). -/
def chanOf (a : Nat) : Nat := a / 256 % 8

/-- Channel data offset, block and position, and the DRAM bytes of an address and of its word's check byte (R384). -/
def dramOf (a : Nat) : Nat × Nat × Nat :=
  let c := a / 2048 * 256 + a % 256
  (c, c / 896 * 1024 + c % 896, c / 896 * 1024 + 896 + c % 896 / 8)

/-! ### The check code (R385) -/

/-- How many bits of a byte are set. -/
def ones (v : Nat) : Nat := ((List.range 8).filter fun k => bit v k).length

/-- The bytes with one of some numbers of bits set, in ascending order for each. -/
def bytesOf (l : List Nat) : List Nat := l.flatMap fun n => (List.range 256).filter fun v => ones v == n

/-- The columns of the code (DESIGN CHOICE, log 88: R385 gives only their weights): of the 64 data bits, of odd weight, beside the 8 check
bits' own; of the address bits a[39:3], of even weight and each its own. -/
def dataCol (k : Nat) : Nat := (bytesOf [3, 5]).getD k 0
def addrCol (k : Nat) : Nat := (bytesOf [2, 4]).getD k 0

/-- The sum of the columns of the bits that are set in a value. -/
def colSum (col : Nat → Nat) (n v : Nat) : Nat := (List.range n).foldl (fun s k => if bit v k then Nat.xor s (col k) else s) 0

/-- The stored check bits of a word's data at a word index (R385). -/
def checkBits (data index : Nat) : Nat := Nat.xor (colSum dataCol 64 data) (colSum addrCol 37 index)

/-- The syndrome of 64 data bits and 8 check bits that are read for a word index. -/
def syndrome (data check index : Nat) : Nat := Nat.xor check (checkBits data index)

/-- What a syndrome says: 0 no error, 1 a single-bit error, 2 uncorrectable. -/
def syndromeErr (s : Nat) : Nat := if s = 0 then 0 else if ones s % 2 = 1 then 1 else 2

/-- The data after a single-bit error is corrected. -/
def corrected64 (data s : Nat) : Nat :=
  match (List.range 64).find? fun k => dataCol k == s with
  | some k => Nat.xor data (2 ^ k)
  | none => data

/-- One word as it is read (R385): `flips` are the bits that come wrong, data below check bits, and `skew` the bits of the word index in
which the place that is read differs from the place that was asked for. Its data, and what its syndrome says of it. -/
def readCoded (m : FrameStore) (index flips skew : Nat) : Nat × Nat :=
  let at_ := Nat.xor index skew
  let stored := m.leRead (8 * at_) 8
  let data := Nat.xor stored (flips % 2 ^ 64)
  let s := syndrome data (Nat.xor (checkBits stored at_) (flips / 2 ^ 64 % 256)) index
  (if ones s % 2 = 1 then corrected64 data s else data, syndromeErr s)

/-! ### Errors (R389, R390) -/

/-- Count an error of key `k` (channels 0 to 7, 8 for SRAM) toward an event that is told at most once per second: none, or the
count it reports. -/
def errorTold (k n : Nat) (b : Blk) : Blk × Option Nat :=
  let c := mgetD b.mem.ces k 0 + n
  let due := match mget b.mem.ceAt k with | some t => Nat.ble (t + 1000000000) b.now | none => true
  if due then ({ b with mem := { b.mem with ces := mset b.mem.ces k 0, ceAt := mset b.mem.ceAt k b.now } }, some (Nat.min 65535 c))
  else ({ b with mem := { b.mem with ces := mset b.mem.ces k c } }, none)

/-- A single-bit error at a word (R389). -/
def corrected (a mid : Nat) (back : Bool) (b : Blk) : Blk :=
  let c := chanOf a
  let b := b.bump F.MEM_CE_COUNT_COUNT c
  let b := ((b.wr F.MEM_CE_LAST_ADDR c (a / 8 * 8)).wr F.MEM_CE_LAST_MID c mid).put F.MEM_CE_LAST_WRITTEN_BACK c back
  let b := { b with mem := { b.mem with hours := mset b.mem.hours c (mgetD b.mem.hours c 0 + 1) } }
  match errorTold c 1 b with
  | (b, some n) => memEvent c 0x100 sevNotice n (evB 0) b
  | (b, none) => b

/-- An uncorrectable error at a word (R390). -/
def uncorrectable (a mid : Nat) (b : Blk) : Blk :=
  let c := chanOf a
  let b := b.bump F.MEM_UE_COUNT_COUNT c
  let b := if b.on F.MEM_UE_FIRST_VALID c then b
    else ((b.wr F.MEM_UE_FIRST_ADDR c (a / 8 * 8)).wr F.MEM_UE_FIRST_MID c mid).wr F.MEM_UE_FIRST_VALID c 1
  let b := flagSet (0x2A005C + 0x1000 * c) (2 ^ 31) [(F.MEM_UE_FIRST_ADDR.key c 0, a / 8 * 8 % 2 ^ 40),
    (F.MEM_UE_FIRST_MID.key c 0, mid % 64)] b
  memEvent c 0x101 sevError (mid + 64 * bits a 6 16) (evB 1) b

/-- The port field of a violation for an access by a MID (R416). -/
def midPort (mid : Nat) : Nat :=
  if mid = 0x01 then 0 else if mid = 0x04 then 2 else if mid = 0x08 then 3 else if mid = 0x30 then 5
  else if 0x20 ≤ mid ∧ mid < 0x28 then 6 else 4

/-- The port field of a violation for a frame-store access: the operations host reaches the frame store through BAR2. -/
def fsPort (mid : Nat) : Nat := if mid = 0x01 then 1 else midPort mid

/-! ### MEM_ACCESS -/

/-- Write bytes into one or more words: a write of part of an uncorrectable word leaves it uncorrectable (R387). -/
def storeWords (a : Nat) (l : List Nat) (m : FrameStore) : FrameStore :=
  let m' := m.setBytes a l
  let first := a / 8
  let last := (a + l.length - 1) / 8
  let part (w : Nat) : Bool := Nat.blt (8 * w) a || Nat.blt (a + l.length) (8 * w + 8)
  [first, last].foldl (fun m' w => if part w && m.isMarked (8 * w) then m'.mark (8 * w) else m') m'

/-- A word reads as uncorrectable to a reader: it is marked, or access control refuses the read (R390, R414). -/
def wordUnread (b : Blk) (mid a : Nat) (m : FrameStore) : Bool := m.isMarked a || !fsGranted b mid a false

/-- Cut a run of 4-byte words into STORE writes of at most 8,160 bytes, each of words that are all readable or all not (R339, R390). -/
def storeRuns (b : Blk) (m : FrameStore) : Nat → Nat → List (Nat × Bool × List Nat)
  | _, 0 => []
  | w, n + 1 =>
    let bytes := (List.range 4).map fun k => m.byte (4 * w + k)
    let bad := wordUnread b 0x16 (4 * w) m
    match storeRuns b m (w + 1) n with
    | (a, u, l) :: t =>
      if u = bad ∧ l.length + 4 ≤ 8160 then (4 * w, u, bytes ++ l) :: t
      else (4 * w, bad, bytes) :: (a, u, l) :: t
    | [] => [(4 * w, bad, bytes)]

/-- The STORE writes of the words that hold `n` bytes from an address. -/
def storeSpan (b : Blk) (a n : Nat) (m : FrameStore) : List (Nat × Bool × List Nat) :=
  if n = 0 then [] else storeRuns b m (a / 4) ((a + n - 1) / 4 + 1 - a / 4)

/-- The pair engine takes the words that a host's write changed, as they read now (R339, R390). -/
def copyStore (a n : Nat) (b : Blk) (m : FrameStore) : Blk :=
  b.putPr { b.pr with stores := (storeSpan b a n m).reverse ++ b.pr.stores }

/-- A granted write of a host or an engine to the frame store (R387 to R390): a host's write on a module that takes its copied
ranges from its partner is discarded (R337), or held while the epoch is full (R340). `e` is what the merge read of a partial write found. -/
def memWrite (mid a n : Nat) (l : List Nat) (e : Nat × Nat) (b : Blk) (m : FrameStore) : Blk × FrameStore :=
  let host := mid == 0x01 || mid == 0x04
  if host && copyDiscards b then (discardCopy mid a b, m)
  else if host && b.on F.PAIR_EPOCH_FILL_HELD 0 then (holdWrite mid true a (l.take n) b, m)
  else
    let b := if e.2 = 1 ∧ n < 8 then corrected a mid true b else b
    let m := if n < 8 ∧ e.2 = 2 then m.mark a else if n < 8 ∧ e.2 = 1 ∧ !m.isMarked a then m.leWrite (8 * (a / 8)) 8 e.1 else m
    let b := if n < 8 ∧ m.isMarked a then uncorrectable a mid b else b
    let m := storeWords a (l.take n) m
    (if host && copying b then copyStore a n b m else b, m)

/-- A word of the bytes is uncorrectable. -/
def spanMarked (m : FrameStore) (a n : Nat) : Bool :=
  (List.range ((a + n + 7) / 8 - a / 8)).any fun k => m.isMarked (8 * (a / 8 + k))

/-- A fetch pipe has read a word that does not read: each line of a placement on display that needs it is not ready (R178, R390). -/
def fetchLost (a : Nat) (m : FrameStore) (b : Blk) : Blk :=
  forEach (List.range 24) (fun st b =>
    let v := b.viewed st
    forEach (onDisplay b st) (fun e b =>
      match e.2.shown with
      | some f => forEach (List.range e.2.vis.h) (fun k b =>
          let y := (e.2.vis.y + k).toNat
          if !(b.stage st).under.contains (e.1, y)
              && (fetchOf v e.2 f).lineAny ((y : Int) - e.2.dst.y).toNat (fun px py => pixelNeeds m f.lay px py (a / 8))
          then lineNotReady st e.1 y b else b) b
      | none => b) b) b

/-- A read of the frame store that is granted and lies within it (R385, R389, R390). -/
def memRead (mid a n flips skew : Nat) (beaten : Bool) (b : Blk) (m : FrameStore) : Blk × FrameStore :=
  let r := readCoded m (a / 8) flips skew
  if r.2 = 2 ∨ spanMarked m a n then
    let m := if r.2 = 2 then m.mark a else m
    let b := uncorrectable a mid b
    ((if mid = 0x14 then fetchLost a m b else b).emit (.word 0 4), m)
  else
    let seen := if flips = 0 ∧ skew = 0 then m else m.leWrite (8 * (a / 8)) 8 r.1
    let b := if r.2 = 1 then corrected a mid (!beaten) b else b
    (b.emit (.word (seen.leRead a n) 0), if r.2 = 1 ∧ !beaten then seen else m)

/-- MEM_ACCESS (R385 to R390, R413, R414): `flips` and `skew` say how the word is read, `beaten` that a write to it has taken effect since
the read. A refused read of host port A completes with data 0, that of an engine with data marked uncorrectable. -/
def memAccess (mid a n : Nat) (write misroute : Bool) (l : List Nat) (flips skew : Nat) (beaten : Bool) (b : Blk) (m : FrameStore) :
    Blk × FrameStore :=
  let refuse (kind : Nat) : Blk × FrameStore :=
    let b := fsViolation (fsPort mid) mid a kind b
    if write then (b, m)
    else ((if mid = 0x14 then fetchLost a m b else b).emit (.word 0 (if mid = 0x01 then 0 else if mid = 0x04 ∨ mid = 0x08 then 2 else 4)), m)
  if misroute && b.rd F.ACG_MODE_MODE 0 == 0 then refuse 4
  else if !fsGranted b mid a write then refuse (b2n write)
  else if usable b < a + n then
    let b := memEvent (chanOf a) 0x107 sevError mid (evB 1) b
    (if write then b else b.emit (.word 0 4), m)
  else if write then memWrite mid a n l (readCoded m (a / 8) flips skew) b m
  else memRead mid a n flips skew beaten b m

/-- The frame-store address of a request: the operations host's address is an offset of the BAR2 window, whose base is SYS_FSWIN.BASE;
every other MID gives an address of the frame store (R41). -/
def storeAddr (mid a : Nat) (b : Blk) : Nat := if mid = 0x01 then b.rd F.SYS_FSWIN_BASE 0 * 2 ^ 28 + a % 2 ^ 28 else a

/-- A MEM_ACCESS at an address as its port gives it: where SYS_FSWIN.BASE is out of range, a read of the operations host answers 0 and its
write is discarded (R41). -/
def memRequest (mid a n : Nat) (write misroute : Bool) (l : List Nat) (flips skew : Nat) (beaten : Bool) (b : Blk) (m : FrameStore) :
    Blk × FrameStore :=
  if mid = 0x01 ∧ usable b / 2 ^ 28 ≤ b.rd F.SYS_FSWIN_BASE 0 then (if write then b else b.emit (.word 0 0), m)
  else memAccess mid (storeAddr mid a b) n write misroute l flips skew beaten b m

/-- MEM_ACCESS. -/
def execMemAccess (dt mid addr n : Nat) (write misroute : Bool) (bytes : List Nat) (flips skew : Nat) (beaten : Bool) (s : State) :
    Host.Outcome State Fault Refusal := effM dt s (memRequest mid addr n write misroute bytes flips skew beaten)

/-! ### Arbitration (R393 to R395) -/

/-- A request: level 2 node (0 to 31 the stages, 32 ING, 33 relay, 34 XSD, 35 VDC, 36 VEC, 37 host, 38 engines, 39 scrubber),
leaf, bytes, and a fetch request's deadline. -/
abbrev Req := Nat × Nat × Nat × Nat

/-- The level 1 class of a node: 0 FETCH, 1 INGEST, 2 CODEC, 3 SYSTEM, 4 SCRUB. -/
def arbClass (node : Nat) : Nat :=
  if node < 32 then 0 else if node < 34 then 1 else if node < 37 then 2 else if node < 39 then 3 else 4

/-- The weight of a node's leaves. -/
def leafWeight (b : Blk) (node : Nat) : Nat :=
  if node < 32 then b.rd F.MEM_WEIGHT0_LFP 8
  else match node with
    | 32 => b.rd F.MEM_WEIGHT0_ING 8 | 33 => b.rd F.MEM_WEIGHT0_RELAY 8 | 34 => b.rd F.MEM_WEIGHT0_XSD 8
    | 35 => b.rd F.MEM_WEIGHT0_VDC 8 | 36 => b.rd F.MEM_WEIGHT0_VEC 8 | 39 => 1
    | _ => b.rd F.MEM_WEIGHT0_SYSTEM 8

/-- The weight of the backlogged leaves among some requests. -/
def weightOf (b : Blk) (l : List Req) : Nat :=
  ((l.map fun r => (r.1, r.2.1)).eraseDups.map fun e => leafWeight b e.1).sum

/-! Keys of the tags: the children of the root, of a class and of a node; and the virtual times. -/

def keyClass (ch c : Nat) : Nat := ch * 2 ^ 24 + 2 ^ 20 + c
def keyNode (ch n : Nat) : Nat := ch * 2 ^ 24 + 2 ^ 21 + n
def keyLeaf (ch n i : Nat) : Nat := ch * 2 ^ 24 + 2 ^ 22 + n * 1024 + i
def keyRootTime (ch : Nat) : Nat := ch * 2 ^ 24
def keyClassTime (ch c : Nat) : Nat := ch * 2 ^ 24 + 1 + c
def keyNodeTime (ch n : Nat) : Nat := ch * 2 ^ 24 + 16 + n

def tagOf (t : SMap Rat) (k : Nat) : Rat := mgetD t k 0

/-- The child with the lowest tag, the lowest-numbered on a tie. -/
def lowest (t : SMap Rat) : List Nat → Option Nat
  | [] => none
  | k :: l => match lowest t l with
    | none => some k
    | some j => if tagOf t j < tagOf t k || (tagOf t j == tagOf t k && Nat.blt j k) then some j else some k

/-- The update of R394 at one node: child `c` with weight `w` has been granted `n` bytes. -/
def arbUpdate (vt c w n : Nat) (kids : List Nat) (t : SMap Rat) : SMap Rat :=
  let old := tagOf t c
  let v := tagOf t vt
  let t := mset t c ((if old < v then v else old) + (n : Rat) / (w : Rat))
  match lowest t kids with
  | some k => mset t vt (tagOf t k)
  | none => t

/-- The request that the root's deadline rule takes: the earliest urgent fetch, the lowest pipe number on a tie (R395). -/
def urgentFirst (b : Blk) (l : List Req) : Option Req :=
  let guard_ := b.rd F.MEM_CFG_DL_GUARD 8 * 1000
  let u := l.filter fun r => arbClass r.1 == 0 && Nat.blt r.2.2.2 (b.now + guard_)
  u.foldl (fun (best : Option Req) (r : Req) => match best with
    | none => some r
    | some q => if r.2.2.2 < q.2.2.2 || (r.2.2.2 == q.2.2.2 && Nat.blt r.2.1 q.2.1) then some r else some q) none

/-- The request that the tags select (R394). -/
def byTags (t : SMap Rat) (ch : Nat) (l : List Req) : Option Req :=
  match lowest t ((l.map fun r => keyClass ch (arbClass r.1)).eraseDups) with
  | none => none
  | some kc =>
    let l := l.filter fun r => keyClass ch (arbClass r.1) == kc
    match lowest t ((l.map fun r => keyNode ch r.1).eraseDups) with
    | none => none
    | some kn =>
      let l := l.filter fun r => keyNode ch r.1 == kn
      match lowest t ((l.map fun r => keyLeaf ch r.1 r.2.1).eraseDups) with
      | none => none
      | some kl => l.find? fun r => keyLeaf ch r.1 r.2.1 == kl

/-- ARB_GRANT: one burst is granted among the requests that wait at a channel. -/
def arbGrant (ch : Nat) (l : List Req) (b : Blk) : Blk :=
  let pick := match urgentFirst b l with | some r => some r | none => byTags b.mem.tags ch l
  match pick with
  | none => b
  | some r =>
    let c := arbClass r.1
    let inC := l.filter fun q => arbClass q.1 == c
    let inN := l.filter fun q => q.1 == r.1
    let t := arbUpdate (keyRootTime ch) (keyClass ch c) (weightOf b inC) r.2.2.1
      ((l.map fun q => keyClass ch (arbClass q.1)).eraseDups) b.mem.tags
    let t := arbUpdate (keyClassTime ch c) (keyNode ch r.1) (weightOf b inN) r.2.2.1 ((inC.map fun q => keyNode ch q.1).eraseDups) t
    let t := arbUpdate (keyNodeTime ch r.1) (keyLeaf ch r.1 r.2.1) (leafWeight b r.1) r.2.2.1
      ((inN.map fun q => keyLeaf ch q.1 q.2.1).eraseDups) t
    { b with mem := { b.mem with tags := t } }.emit (.grant ch r.1 r.2.1 r.2.2.1)

/-- ARB_GRANT. -/
def execArbGrant (dt chan : Nat) (waiting : List (Nat × Nat × Nat × Nat)) (s : State) : Host.Outcome State Fault Refusal :=
  eff dt s (arbGrant chan waiting)

/-! ### Patrol (R391, R392) -/

/-- The time of one scrub pass, ns. -/
def passNs (b : Blk) : Nat := b.rd F.MEM_CFG_SCRUB_H 8 * 3600000000000

/-- The scrubber goes on to the next word; a pass that completes is counted (R391). -/
def scrubNext (b : Blk) : Blk :=
  let x := b.mem
  let p := x.scrub + 8
  if usable b ≤ p then
    let b := { b with mem := { x with scrub := 0, passAt := b.now, behindTold := false } }
    let b := ((b.bump F.MEM_SCRUB_PASSES 8).wr F.MEM_SCRUB_PROGRESS 8 0).wr F.MEM_SCRUB_BEHIND 8 0
    memEvent 8 0x103 sevInfo (b.rd F.MEM_SCRUB_PASSES 8) (evB 0) b
  else { b with mem := { x with scrub := p } }.wr F.MEM_SCRUB_PROGRESS 8 (p * 100 / usable b)

/-- The pass cannot complete in SCRUB_H (R391). -/
def scrubBehind (b : Blk) : Blk :=
  if b.mem.passAt + passNs b < b.now ∧ !b.mem.behindTold then
    memEvent 8 0x106 sevWarning 4 0 ({ b with mem := { b.mem with behindTold := true } }.wr F.MEM_SCRUB_BEHIND 8 1)
  else b

/-- SCRUB_READ: the next word, at the steady pace. -/
def scrubRead (flips skew : Nat) (beaten : Bool) (b : Blk) (m : FrameStore) : Blk × FrameStore :=
  let a := b.mem.scrub
  if b.now < b.mem.passAt + a * passNs b / usable b then (b, m)
  else
    let b := scrubBehind b
    let r := readCoded m (a / 8) flips skew
    if r.2 = 2 then (scrubNext (uncorrectable a 0x19 b), m.mark a)
    else if m.isMarked a then (scrubNext (uncorrectable a 0x19 b), m)
    else if r.2 = 1 then (scrubNext (corrected a 0x19 (!beaten) b), if beaten then m else m.leWrite a 8 r.1)
    else (scrubNext b, m)

/-- SCRUB_READ. -/
def execScrubRead (dt flips skew : Nat) (beaten : Bool) (s : State) : Host.Outcome State Fault Refusal :=
  effM dt s (scrubRead flips skew beaten)

/-- Packets held in a word of the reassembly memory are lost: the pixels of line `y` from pixel `x` on leave the frame in
assembly (R392, R123). -/
def loseSpan (c y x : Nat) (b : Blk) : Blk :=
  let q := b.chan c
  b.putChan c { q with asms := q.asms.map fun a => { a with spans := a.spans.filter fun s => !(s.1 == y && Nat.ble s.2.1 x && Nat.blt x (s.2.1 + s.2.2)) } }

/-- The tiles that an uncorrectable word of a codec cache costs a context (R392). -/
def loseTile (x t : Nat) (b : Blk) : Blk :=
  { b with mem := { b.mem with cacheLost := mset b.mem.cacheLost x ((t :: mgetD b.mem.cacheLost x []).eraseDups) } }

/-- SRAM_PATROL (R392): a word of a region is read, with its index in the region folded into its code. `x`, `y` and `z` place what
the word holds: stage, slot and line of a line buffer; decoder context (VDC from 16 on) and tile of a codec cache; channel, line and pixel
of the reassembly memory; the port of a Chaino frame. -/
def sramPatrol (region word flips skew x y z : Nat) (b : Blk) : Blk :=
  match (readCoded {} word flips skew).2 with
  | 0 => b
  | 1 =>
    match errorTold 8 1 (b.bump F.MEM_SRAM_CE_COUNT 8) with
    | (b, some n) => memEvent 8 0x104 sevNotice n (evB 1) b
    | (b, none) => b
  | _ =>
    let b := (b.bump F.MEM_SRAM_UE_COUNT 8).wr F.MEM_SRAM_LAST_REGION 8 region
    let b := b.wr F.MEM_SRAM_LAST_WORD 8 word
    let b := match region with
      | 0 => lineNotReady x y z b
      | 1 => loseTile x y b
      | 2 => loseSpan x y z b
      | 3 => chnDiscard x 1 b
      | _ => b
    memEvent 8 0x105 (if region = 4 ∨ region = 5 then sevFatal else sevError) region (evB 1) b

/-- SRAM_PATROL. -/
def execSramPatrol (dt region word flips skew x y z : Nat) (s : State) : Host.Outcome State Fault Refusal :=
  eff dt s (sramPatrol region word flips skew x y z)

/-- HELD_WINDOW (R396): the shares of the last 1 ms. -/
def heldWindow (ch util urgent ing codec sys scrub : Nat) (b : Blk) : Blk :=
  let b := (b.wr F.MEM_CH_STAT_UTIL ch util).wr F.MEM_CH_STAT_URGENT ch urgent
  let b := (((b.wr F.MEM_HELD_INGEST ch ing).wr F.MEM_HELD_CODEC ch codec).wr F.MEM_HELD_SYSTEM ch sys).wr F.MEM_HELD_SCRUB ch scrub
  let due := match mget b.mem.heldAt ch with | some t => Nat.ble (t + 1000000000) b.now | none => true
  match [(0, ing), (1, codec), (2, sys)].find? fun e => Nat.blt 50 e.2 with
  | some e =>
    if due then
      memEvent ch 0x106 sevWarning (e.1 + 8 * e.2) (evB 2) { b with mem := { b.mem with heldAt := mset b.mem.heldAt ch b.now } }
    else b
  | none => b

/-- HELD_WINDOW. -/
def execHeldWindow (dt chan util urgent ing codec sys scrub : Nat) (s : State) : Host.Outcome State Fault Refusal :=
  eff dt s (heldWindow chan util urgent ing codec sys scrub)

/-- CE_HOUR (R389): at each whole hour of stage time. -/
def ceHour (ch : Nat) (b : Blk) : Blk :=
  let h := b.now / 3600000000000
  if h = mgetD b.mem.hourAt ch 0 then b
  else
    let n := mgetD b.mem.hours ch 0
    let b := { b with mem := { b.mem with hourAt := mset b.mem.hourAt ch h, hours := mset b.mem.hours ch 0 } }
    if b.rd F.MEM_CFG_CE_LIMIT 8 < n then memEvent ch 0x102 sevWarning (Nat.min 65535 n) (evB 0) b else b

/-- CE_HOUR. -/
def execCeHour (dt chan : Nat) (s : State) : Host.Outcome State Fault Refusal := eff dt s (ceHour chan)

/-! ## Check-value units (R397 to R405) -/

def crcPage (u : Nat) : Page := ⟨.crc, u⟩
def crcEvent (u code sev d evt : Nat) (b : Blk) : Blk := raise (crcPage u) code sev (d % 2 ^ 17 + 2 ^ 17 * u) evt b
def Blk.unitCrc (b : Blk) (u : Nat) : CrcSt := mgetD b.crc u {}
def Blk.putCrc (b : Blk) (u : Nat) (x : CrcSt) : Blk := { b with crc := mset b.crc u x }

/-- WIDTH in bits. -/
def crcWidth (b : Blk) (u : Nat) : Nat := 8 * 2 ^ b.rd F.CRC_CFG_WIDTH u

/-- The start address of line `k` of a region (R398). -/
def crcLine (b : Blk) (u base k : Nat) : Nat := base + k * b.rd F.CRC_PITCH_PITCH u

/-- The input bytes of a run (R398). -/
def crcInput (b : Blk) (m : FrameStore) (u : Nat) (r : CrcRun) : List Nat :=
  let n := b.rd F.CRC_SHAPE_LINE_BYTES u
  let fold := b.rd F.CRC_CFG_FOLD u
  (List.range (b.rd F.CRC_LINES_LINES u)).flatMap fun k =>
    let a := crcLine b u r.base k
    (if fold = 1 then leBytes 8 a else if fold = 2 ∧ k = 0 then leBytes 8 r.seq else []) ++ (List.range n).map fun j => m.byte (a + j)

/-- The result of a run (R397). -/
def crcResult (b : Blk) (m : FrameStore) (u : Nat) (r : CrcRun) : Nat :=
  crc (crcWidth b u) (b.rd F.CRC_POLY_VALUE u) (b.rd F.CRC_INIT_VALUE u) (b.on F.CRC_CFG_REFIN u) (b.on F.CRC_CFG_REFOUT u)
    (b.rd F.CRC_XOROUT_VALUE u) (crcInput b m u r)

/-- The first word of the region that reads uncorrectable, that MID 0x17 may not read, or that lies beyond the usable capacity (R388,
R390, R414). -/
def crcUnread (b : Blk) (m : FrameStore) (u : Nat) (r : CrcRun) : Option Nat :=
  let n := b.rd F.CRC_SHAPE_LINE_BYTES u
  (List.range (b.rd F.CRC_LINES_LINES u)).findSome? fun k =>
    ((List.range (cdiv n 8)).find? fun j =>
      let a := crcLine b u r.base k + 8 * j
      wordUnread b 0x17 a m || Nat.ble (usable b) a).map fun j => crcLine b u r.base k + 8 * j

/-- What the controller records of a read of such a word by an engine. -/
def readFailed (mid a : Nat) (b : Blk) : Blk :=
  if !fsGranted b mid a false then fsViolation 4 mid a 0 b
  else if usable b ≤ a then memEvent (chanOf a) 0x107 sevError mid (evB 1) b
  else uncorrectable a mid b

/-- The state of an idle unit: waiting for a trigger, or idle. -/
def crcIdle (u : Nat) (b : Blk) : Blk :=
  b.wr F.CRC_STAT_STATE u (if enabled b (crcPage u) && b.rd F.CRC_CFG_TRIG u != 0 then 2 else 0)

/-- A run starts (R399, R401). -/
def crcStart (u base : Nat) (hold : Option (Nat × Nat)) (b : Blk) : Blk :=
  let x := b.unitCrc u
  (b.putCrc u { x with run := some ⟨base, b.now, b.rd F.CRC_EXP_VALUE u, b.rd F.CRC_SEQ_VALUE u, hold⟩ }).wr F.CRC_STAT_STATE u 1

/-- A write of CRC_CTRL.START (R399). -/
def crcStartWrite (u : Nat) (b : Blk) : Blk :=
  if enabled b (crcPage u) && b.rd F.CRC_CFG_TRIG u == 0 && (b.unitCrc u).run.isNone then crcStart u (b.rd F.CRC_BASE_ADDR u) none b
  else b

/-- A run in progress ends with outcome 6 (R400). -/
def crcAbort (u : Nat) (b : Blk) : Blk :=
  let x := b.unitCrc u
  let b := b.putCrc u { x with trigs := [] }
  if x.run.isNone then b else crcIdle u ((b.putCrc u { x with run := none, trigs := [] }).wr F.CRC_STAT_OUTCOME u 6)

/-- After a cue of the page: a run is aborted, and the next mismatch is told again (R400). -/
def crcCued (u : Nat) (b : Blk) : Blk :=
  let b := crcAbort u b
  crcIdle u (b.putCrc u { b.unitCrc u with bad := false })

/-- The page was enabled or disabled. -/
def crcEnabled (u : Nat) (b : Blk) : Blk :=
  let b := crcAbort u b
  let b := crcIdle u (b.putCrc u { b.unitCrc u with bad := false })
  if enabled b (crcPage u) then b.wr F.CRC_STAT_OUTCOME u 0 else b

/-- A frame of a layer has become eligible: the units that wait for it are triggered and hold its buffer (R399). -/
def crcOnFrame (l : Nat) (f : Frame) (b : Blk) : Blk :=
  forEach (List.range 32) (fun u b =>
    if enabled b (crcPage u) && b.rd F.CRC_CFG_TRIG u == 1 && b.rd F.CRC_LAYER_LAYER u == l then
      let x := b.unitCrc u
      b.putCrc u { x with trigs := x.trigs ++ [(f.lay.addr + b.rd F.CRC_BASE_ADDR u, some (l, f.lay.addr))] }
    else b) b

/-- A curtain-up point triggers the units of its stage (R399). -/
def crcOnCurtainUp (st : Nat) (b : Blk) : Blk :=
  forEach (List.range 32) (fun u b =>
    if enabled b (crcPage u) && b.rd F.CRC_CFG_TRIG u == 2 && b.rd F.CRC_CFG_STAGE u == st then
      let x := b.unitCrc u
      b.putCrc u { x with trigs := x.trigs ++ [(b.rd F.CRC_BASE_ADDR u, none)] }
    else b) b

/-- A trigger during a run is not acted on (R399): event 0x0103 at most once per second. -/
def crcOverrun (u : Nat) (b : Blk) : Blk :=
  let x := b.unitCrc u
  let b := b.bump F.CRC_OVERRUNS_COUNT u
  let due := match x.oversAt with | some t => Nat.ble (t + 1000000000) b.now | none => true
  if due then
    crcEvent u 0x103 sevNotice (Nat.min 65535 (x.overs + 1)) (evB 2) (b.putCrc u { x with overs := 0, oversAt := some b.now })
  else b.putCrc u { x with overs := x.overs + 1 }

/-- CRC_TRIGGER: a trigger that came starts a run or counts as an overrun. -/
def crcTrigger (u : Nat) (b : Blk) : Blk :=
  let x := b.unitCrc u
  match x.trigs with
  | [] => b
  | (base, hold) :: t =>
    let b := b.putCrc u { x with trigs := t }
    if x.run.isSome then crcOverrun u b else crcStart u base hold b

/-- CRC_TRIGGER. -/
def execCrcTrigger (dt unit : Nat) (s : State) : Host.Outcome State Fault Refusal := eff dt s (crcTrigger unit)

/-- The compare of R400. -/
def crcCompare (u : Nat) (r : CrcRun) (v : Nat) (b : Blk) : Blk :=
  let x := b.unitCrc u
  if !b.on F.CRC_CFG_CMP_EN u then b.wr F.CRC_STAT_OUTCOME u 1
  else if v = r.exp then
    let b := (b.wr F.CRC_STAT_OUTCOME u 2).wr F.CRC_STAT_MISMATCHES u 0
    let b := b.putCrc u { x with bad := false }
    if x.bad then crcEvent u 0x101 sevNotice 0 (evB 1) b else b
  else
    let b := (b.wr F.CRC_STAT_OUTCOME u 3).bump F.CRC_STAT_MISMATCHES u
    let b := b.putCrc u { x with bad := true }
    if x.bad then b
    else crcEvent u 0x100 (if b.on F.CRC_CFG_SEV_CRIT u then sevCritical else sevError) (b.rd F.CRC_RUNS_COUNT u % 65536) (evB 0) b

/-- The bytes of a run's region. -/
def crcBytes (b : Blk) (u : Nat) : Nat := b.rd F.CRC_LINES_LINES u * b.rd F.CRC_SHAPE_LINE_BYTES u

/-- CRC_RUN_END (R400, R401): not before the region has been read at 4 GB/s, except on an uncorrectable word. -/
def crcRunEnd (u : Nat) (disturbed : Bool) (b : Blk) (m : FrameStore) : Blk :=
  match (b.unitCrc u).run with
  | none => b
  | some r =>
    let bad := crcUnread b m u r
    if bad.isNone && Nat.blt b.now (r.began + crcBytes b u / 4) then b
    else
      let b := b.putCrc u { b.unitCrc u with run := none }
      let b := crcIdle u ((b.bump F.CRC_RUNS_COUNT u).step F.CRC_SEQ_VALUE u)
      match bad with
      | some a => crcEvent u 0x102 sevWarning 2 (evB 2) ((readFailed 0x17 a b).wr F.CRC_STAT_OUTCOME u 5)
      | none =>
      if disturbed then crcEvent u 0x102 sevWarning 1 (evB 2) (b.wr F.CRC_STAT_OUTCOME u 4)
      else
        let v := crcResult b m u r
        crcCompare u r v (b.wr F.CRC_RESULT_VALUE u v)

/-- CRC_RUN_END. -/
def execCrcRunEnd (dt unit : Nat) (disturbed : Bool) (s : State) : Host.Outcome State Fault Refusal :=
  effM dt s fun b m => (crcRunEnd unit disturbed b m, m)

/-- The region from a base passes the usable capacity. -/
def crcBeyond (b : Blk) (u base : Nat) : Bool :=
  Nat.blt (usable b) (crcLine b u base (b.rd F.CRC_LINES_LINES u - 1) + b.rd F.CRC_SHAPE_LINE_BYTES u)

/-- The checks of R404 over the values that a cue would put into effect: the reason, 0 when they pass. -/
def crcBad (b : Blk) (u : Nat) : Nat :=
  let w := crcWidth b u
  let wide (f : Fld) : Bool := Nat.ble (2 ^ w) (b.rd f u)
  let base := b.rd F.CRC_BASE_ADDR u
  let n := b.rd F.CRC_SHAPE_LINE_BYTES u
  let pitch := b.rd F.CRC_PITCH_PITCH u
  let trig := b.rd F.CRC_CFG_TRIG u
  let l := b.rd F.CRC_LAYER_LAYER u
  if wide F.CRC_POLY_VALUE || wide F.CRC_INIT_VALUE || wide F.CRC_XOROUT_VALUE then 0x40
  else if base % 8 != 0 || n % 8 != 0 || pitch % 8 != 0 || (Nat.blt 1 (b.rd F.CRC_LINES_LINES u) && Nat.blt pitch n)
      || (if trig = 1 then (List.range (b.rd F.LD_CTRL_NBUF l)).any fun k => crcBeyond b u (b.rd F.LD_BUF_ADDR l k + base)
          else crcBeyond b u base) then 0x41
  else if (trig == 1 && !b.on F.LD_CTRL_VALID l) || (trig == 2 && Nat.blt 23 (b.rd F.CRC_CFG_STAGE u)) then 0x42
  else 0

end Sys2Proof.Machine
end

