-- ==== Sys2Proof/Machine/Thermal.lean ====
section
/-!
DEFINITION. Thermal management: sensors, levels, throttle steps, ageing and life (chapter "Thermal management and throttling").
-/

namespace Sys2Proof.Machine

def thmPage : Page := ⟨.thm, 0⟩

def thmEvent (code sev d evt : Nat) (b : Blk) : Blk := raise thmPage code sev d evt b

def Blk.putThm (b : Blk) (x : Thm) : Blk := { b with thm := x }

/-! ### Sensors (R449, R450) -/

/-- The class of a sensor: 0 DIE, 1 DRAM, 2 VR, 3 OCXO, 4 INLET. -/
def sensorClass (n : Nat) : Nat := if n < 24 then 0 else if n < 32 then 1 else if n < 36 then 2 else if n = 36 then 3 else 4

/-- The die sensors of a sensor's group. -/
def dieGroup (n : Nat) : List Nat :=
  if n < 8 then fromTo 0 8 else if n < 12 then fromTo 8 4 else if n < 16 then fromTo 12 4 else if n < 18 then fromTo 16 2
  else if n < 22 then fromTo 18 4 else fromTo 22 2

/-- A threshold in 0.1 °C; none where 0x7F stands for no threshold (OCXO). -/
def threshold (b : Blk) (c level : Nat) : Option Int :=
  let f := match level with | 1 => F.THM_THRESH_L1 | 2 => F.THM_THRESH_L2 | 3 => F.THM_THRESH_L3 | _ => F.THM_THRESH_L4
  let v := b.rd f 0 c
  if c = 3 ∧ v = 0x7F then none else some (10 * sgn 8 v)

def sensorFailed (b : Blk) (n : Nat) : Bool := b.on F.THM_TEMP_FAILED 0 n

/-- The filtered reading: the mean of the last four conversions, 0.1 °C. -/
def filtered (b : Blk) (n : Nat) : Option Int :=
  match mgetD b.thm.conv n [] with
  | [] => none
  | l => some (l.foldl (· + ·) 0 / (l.length : Int))

/-- The reading that counts: a failed sensor counts as at the level 2 threshold of its class, the OCXO sensor, which has none, as
at its level 1 threshold (R450). -/
def reading (b : Blk) (n : Nat) : Option Int :=
  if sensorFailed b n then
    (match threshold b (sensorClass n) 2 with | some t => some t | none => threshold b (sensorClass n) 1)
  else filtered b n

/-- A reading is at or above a threshold. -/
def atLeast (r t : Option Int) : Bool := match r, t with | some r, some t => decide (t ≤ r) | _, _ => false

/-- The level of a sensor (R451). -/
def sensorLevel (b : Blk) (n : Nat) : Nat :=
  let r := reading b n
  let c := sensorClass n
  if atLeast r (threshold b c 4) then 4 else if atLeast r (threshold b c 3) then 3
  else if atLeast r (threshold b c 2) then 2 else if atLeast r (threshold b c 1) then 1 else 0

def failedDies (b : Blk) : Nat := ((List.range 24).filter (sensorFailed b)).length

/-- The highest level of any sensor, with three failed die sensors level 3 (R450, R451). -/
def sensedLevel (b : Blk) : Nat :=
  Nat.max (maxD ((List.range 39).map (sensorLevel b))) (if 3 ≤ failedDies b then 3 else 0)

/-- Readings of the die sensors that are valid, 0.1 °C. -/
def dieReadings (b : Blk) : List Int := ((List.range 24).filter fun n => !sensorFailed b n).filterMap (filtered b)

/-- The hottest valid die reading, 0.1 °C. -/
def hottestDie (b : Blk) : Option Int :=
  match dieReadings b with
  | [] => none
  | a :: t => some (t.foldl (fun (m y : Int) => if m < y then y else m) a)

/-! ### Steps (R454, R455) -/

/-- The step in effect: the throttle step or TEST_STEP, whichever is higher; event 0x0101 on a change. -/
def applyStep (b : Blk) : Blk :=
  let old := b.rd F.THM_STAT_STEP 0
  let new := Nat.max b.thm.step (b.rd F.THM_CFG_TEST_STEP 0)
  if new = old then b
  else thmEvent 0x101 sevInfo new (evB 1) ((b.putThm { b.thm with stepAt := b.now, stepWas := old }).wr F.THM_STAT_STEP 0 new)

def setStep (k : Nat) (b : Blk) : Blk := applyStep (b.putThm { b.thm with step := k })

/-! ### Levels (R451, R453, R457) -/

/-- PMBus over-temperature bits: warning at level 1, fault at level 3 (R53). -/
def pmTherm (level : Nat) (b : Blk) : Blk :=
  if level = 0 then b
  else
    let t := if 3 ≤ level then 0xC0 else 0x40
    { b with ctl := { b.ctl with pmTemp := Nat.lor b.ctl.pmTemp t, pmStatus := Nat.lor b.ctl.pmStatus 0x0004 } }

/-- The sensor with the highest level, the lowest index on a tie. -/
def hotSensor (b : Blk) : Nat :=
  let top := maxD ((List.range 39).map (sensorLevel b))
  ((List.range 39).find? fun n => sensorLevel b n == top).getD 0

/-- What the module does on entering a level (R453, R454, R457). -/
def enterLevel (new old sensor : Nat) (b : Blk) : Blk :=
  let b := if 2 ≤ new ∧ old < 2 then b.putThm { b.thm with intervalAt := some b.now, intervalHot := true } else b
  let b := if new < 2 ∧ 2 ≤ old then b.putThm { b.thm with intervalAt := none, stepFallAt := b.now } else b
  let b := if 3 ≤ new ∧ old < 3 ∧ b.thm.step < 4 then setStep 4 b
    else if 2 ≤ new ∧ old < 2 ∧ b.thm.step < 1 then setStep 1 b else b
  let b := if new = 3 ∧ old < 3 ∧ role b = roActive then beginPlanned 3 b else b
  if new = 4 ∧ old < 4 then
    thmEvent 0x106 sevFatal sensor 0 (b.putThm { b.thm with shutAt := some b.now })
  else b

/-- The module's level changes: event 0x0100. -/
def setLevel (new : Nat) (b : Blk) : Blk :=
  let old := b.rd F.THM_STAT_LEVEL 0
  if new = old then b
  else
    let sensor := hotSensor b
    let sev := if new = 3 then sevCritical else if new = 2 then sevWarning else sevNotice
    let b := thmEvent 0x100 sev (new + 8 * old + 64 * sensor) (evB 0) ((b.wr F.THM_STAT_LEVEL 0 new).putThm { b.thm with coolAt := none })
    refreshReady (enterLevel new old sensor (pmTherm new b))

/-- Every sensor is below the thresholds of the present level, less the hysteresis (R451). -/
def allCool (b : Blk) : Bool :=
  let level := b.rd F.THM_STAT_LEVEL 0
  let h : Int := 10 * (b.rd F.THM_CFG_HYST 0 : Int)
  level != 0 && !(level == 3 && Nat.ble 3 (failedDies b))
    && (List.range 39).all fun n => !atLeast (reading b n) ((threshold b (sensorClass n) level).map (· - h))

/-- The THM registers after readings or failures have changed, the level's rise, and the times that the falls and intervals
need. -/
def thmRefresh (b : Blk) : Blk :=
  let b := forEach (List.range 39) (fun n b =>
    let b := b.wr F.THM_TEMP_LEVEL 0 (sensorLevel b n) n
    match sensorFailed b n, filtered b n with
    | false, some r => b.wr F.THM_TEMP_TEMP 0 (enc 16 r) n
    | _, _ => b) b
  let b := (b.wr F.THM_STAT_HOT 0 (hotSensor b)).wr F.THM_STAT_FAILED 0 (Nat.min 15 ((List.range 39).filter (sensorFailed b)).length)
  let b := match hottestDie b with
    | some r => b.wr F.THM_STAT_HOT_DIE 0 (enc 8 (clampI (-128) 127 (r / 10)))
    | none => b
  let b := if b.rd F.THM_STAT_LEVEL 0 < sensedLevel b then setLevel (sensedLevel b) b else b
  let hot := (List.range 39).any fun n => Nat.ble 2 (sensorLevel b n)
  b.putThm { b.thm with coolAt := if allCool b then (match b.thm.coolAt with | some t => some t | none => some b.now) else none,
                        intervalHot := b.thm.intervalHot && hot }

/-- One conversion of a sensor (R449, R450). -/
def convert (n : Nat) (v : Option Int) (b : Blk) : Blk :=
  let x := b.thm
  match v with
  | none => b.putThm { x with validAt := mdel x.validAt n }
  | some t =>
    if -400 ≤ t ∧ t ≤ 1500 then
      b.putThm { x with conv := mset x.conv n ((t :: mgetD x.conv n []).take 4), convAt := mset x.convAt n b.now,
                        outside := x.outside.filter (· != n),
                        validAt := if (mget x.validAt n).isSome then x.validAt else mset x.validAt n b.now }
    else b.putThm { x with convAt := mset x.convAt n b.now, outside := if x.outside.contains n then x.outside else n :: x.outside,
                           validAt := mdel x.validAt n }

/-- A die sensor differs by more than 15 °C from the mean of the others of its group (R450). -/
def disagrees (b : Blk) (n : Nat) : Bool :=
  if 24 ≤ n then false
  else
    let l := ((dieGroup n).filter fun k => k != n && !sensorFailed b k).filterMap (filtered b)
    match filtered b n with
    | some r => if l.isEmpty then false
      else decide (150 * l.length < ((r * (l.length : Int) - l.foldl (· + ·) 0).natAbs))
    | none => false

/-- SENSOR_CONVERSION: every sensor converts; `none` for a conversion that has not completed. -/
def sensorConversion (l : List (Option Int)) (b : Blk) : Blk :=
  let b := forEach ((l.take 39).zipIdx) (fun e b => convert e.2 e.1 b) b
  let b := forEach (List.range 24) (fun n b =>
    let x := b.thm
    b.putThm { x with apart := if disagrees b n then (if (mget x.apart n).isSome then x.apart else mset x.apart n b.now)
                               else mdel x.apart n }) b
  thmRefresh b

/-- SENSOR_CONVERSION. -/
def execSensorConversion (dt : Nat) (temps : List (Option Int)) (s : State) : Host.Outcome State Fault Refusal :=
  eff dt s (sensorConversion temps)

/-- Why a sensor fails: 1 time-out, 2 range, 3 disagreement; 0 for no reason (R450). -/
def failCause (b : Blk) (n : Nat) : Nat :=
  if mgetD b.thm.convAt n 0 + 10000000 ≤ b.now then 1
  else if b.thm.outside.contains n then 2
  else match mget b.thm.apart n with
    | some t => if t + 1000000000 ≤ b.now then 3 else 0
    | none => 0

/-- SENSOR_FAILED (R450). -/
def sensorFails (n : Nat) (b : Blk) : Blk :=
  let c := failCause b n
  if 39 ≤ n || sensorFailed b n || c == 0 then b
  else
    let b := (b.wr F.THM_TEMP_FAILED 0 1 n).putThm { b.thm with validAt := mdel b.thm.validAt n }
    thmRefresh (thmEvent 0x102 sevWarning (n + 64 * c) (evB 2) b)

/-- SENSOR_FAILED. -/
def execSensorFailed (dt n : Nat) (s : State) : Host.Outcome State Fault Refusal := eff dt s (sensorFails n)

/-- SENSOR_RECOVERED (R450): after 60 s of valid conversions. -/
def sensorRecovers (n : Nat) (b : Blk) : Blk :=
  match mget b.thm.validAt n with
  | some t =>
    if sensorFailed b n && Nat.ble (t + 60000000000) b.now && !disagrees b n then
      thmRefresh (thmEvent 0x103 sevNotice n (evB 2) (b.wr F.THM_TEMP_FAILED 0 0 n))
    else b
  | none => b

/-- SENSOR_RECOVERED. -/
def execSensorRecovered (dt n : Nat) (s : State) : Host.Outcome State Fault Refusal := eff dt s (sensorRecovers n)

/-- LEVEL_FALL (R451): after 10 s below; level 4 does not fall. -/
def levelFall (b : Blk) : Blk :=
  let level := b.rd F.THM_STAT_LEVEL 0
  match b.thm.coolAt with
  | some t =>
    if level ≠ 0 ∧ level ≠ 4 ∧ t + 10000000000 ≤ b.now ∧ allCool b then thmRefresh (setLevel (level - 1) b) else b
  | none => b

/-- LEVEL_FALL. -/
def execLevelFall (dt : Nat) (s : State) : Host.Outcome State Fault Refusal := eff dt s levelFall

/-- THROTTLE_INTERVAL (R454): the end of an interval of 500 ms at level 2 or above. -/
def throttleInterval (b : Blk) : Blk :=
  match b.thm.intervalAt with
  | some t =>
    if t + 500000000 ≤ b.now then
      let hot := (List.range 39).any fun n => Nat.ble 2 (sensorLevel b n)
      let up := b.thm.intervalHot && hot
      let b := b.putThm { b.thm with intervalAt := some (t + 500000000), intervalHot := hot }
      if up then setStep (Nat.min 7 (b.thm.step + 1)) b else b
    else b
  | none => b

/-- THROTTLE_INTERVAL. -/
def execThrottleInterval (dt : Nat) (s : State) : Host.Outcome State Fault Refusal := eff dt s throttleInterval

/-- THROTTLE_FALL (R454): every 5 s below level 2. -/
def throttleFall (b : Blk) : Blk :=
  if b.rd F.THM_STAT_LEVEL 0 < 2 ∧ b.thm.step ≠ 0 ∧ b.thm.stepFallAt + 5000000000 ≤ b.now then
    setStep (b.thm.step - 1) (b.putThm { b.thm with stepFallAt := b.now })
  else b

/-- THROTTLE_FALL. -/
def execThrottleFall (dt : Nat) (s : State) : Host.Outcome State Fault Refusal := eff dt s throttleFall

/-- The reset value of a threshold: that of a grade E module lies 10 °C higher for the inlet sensors (R451, R452). -/
def threshReset (b : Blk) (f : Fld) (c : Nat) : Int :=
  sgn 8 (f.rst 0 c) + (if c = 4 ∧ b.rd F.SYS_VARIANT_GRADE 0 = 1 then 10 else 0)

/-- A write of a threshold word is accepted: no threshold above its reset value, and in order (R452). -/
def threshOk (b : Blk) (c data : Nat) : Bool :=
  let l (k : Nat) : Int := sgn 8 (bits data (8 * k) 8)
  let r (f : Fld) : Int := threshReset b f c
  decide (l 0 ≤ r F.THM_THRESH_L1) && decide (l 1 ≤ r F.THM_THRESH_L2) && decide (l 2 ≤ r F.THM_THRESH_L3)
    && decide (l 0 ≤ l 1) && decide (l 1 ≤ l 2)

/-! ### Temperature to CLK, ageing and life (R458 to R460) -/

/-- OCXO_TEMP_PASS (R458): the enclosure temperature to CLK, every 1 s. -/
def ocxoTempPass (b : Blk) : Blk :=
  if b.now < b.thm.passAt + 1000000000 then b
  else
    let b := b.putThm { b.thm with passAt := b.now }
    match filtered b 36 with
    | some r => b.wr F.CLK_OCXO_TEMP 0 (enc 16 (10 * r))
    | none => b

/-- OCXO_TEMP_PASS. -/
def execOcxoTempPass (dt : Nat) (s : State) : Host.Outcome State Fault Refusal := eff dt s ocxoTempPass

/-- AGEING_MEASURE (R459): the slowdown of each ring oscillator, 0.01 %, every 24 h. -/
def ageingMeasure (l : List Nat) (b : Blk) : Blk :=
  if b.now < b.thm.ageAt + 86400000000000 then b
  else
    let top := maxD (l.take 24)
    let b := (b.putThm { b.thm with ageAt := b.now }).wr F.THM_AGE_SLOWDOWN 0 (Nat.min 65535 top)
    if 400 ≤ top ∧ !b.thm.ageTold then
      thmEvent 0x104 sevWarning ((l.findIdx? (· == top)).getD 0) (evB 3) (b.putThm { b.thm with ageTold := true })
    else b

/-- AGEING_MEASURE. -/
def execAgeingMeasure (dt : Nat) (slowdown : List Nat) (s : State) : Host.Outcome State Fault Refusal :=
  eff dt s (ageingMeasure slowdown)

/-- The greatest number that a bit-wise search finds whose 100th power does not exceed `x`. -/
def root100 : Nat → Nat → Nat → Nat
  | 0, _, y => y
  | k + 1, x, y => let z := y + 2 ^ k; root100 k x (if z ^ 100 ≤ x then z else y)

/-- 2 to the power of `t` hundredths, in 2^-32, cut off. -/
def pow2c (t : Int) : Nat :=
  let q := t / 100
  let r := (t % 100).toNat
  let y := root100 33 (2 ^ (3200 + r)) 0
  if 0 ≤ q then y * 2 ^ q.toNat else y / 2 ^ (-q).toNat

/-- 25 years, 219,000 h, in 2^-32 s. -/
def lifeSpan : Nat := 788400000 * 2 ^ 32

/-- LIFE_TICK (R460): every 1 s; also the seconds at step 1 or above. -/
def lifeTick (b : Blk) : Blk :=
  if b.now < b.thm.lifeAt + 1000000000 then b
  else
    let x := b.thm
    let add := match hottestDie b with | some r => pow2c (r - 800) | none => 0
    let life := x.life + add
    let hour := Nat.ble (x.lifeSavedAt + 3600000000000) b.now
    let b := b.putThm { x with lifeAt := b.now, life := life, lifeSaved := if hour then life else x.lifeSaved,
                               lifeSavedAt := if hour then b.now else x.lifeSavedAt }
    let b := if b.rd F.THM_STAT_STEP 0 = 0 then b else b.bump F.THM_THROTTLED_SECONDS 0
    let used := Nat.min 65535 (life * 1000 / lifeSpan)
    let b := b.wr F.THM_AGE_LIFE_USED 0 used
    if 800 ≤ used ∧ !b.thm.lifeTold then thmEvent 0x105 sevWarning 0 (evB 3) (b.putThm { b.thm with lifeTold := true }) else b

/-- LIFE_TICK. -/
def execLifeTick (dt : Nat) (s : State) : Host.Outcome State Fault Refusal := eff dt s lifeTick

/-- The life count is saved at the eject warning (R460). -/
def lifeSave (b : Blk) : Blk := b.putThm { b.thm with lifeSaved := b.thm.life, lifeSavedAt := b.now }

end Sys2Proof.Machine
end

