-- ==== Sys2Proof/Machine/Power.lean ====
section
/-!
DEFINITION. Insertion and start-up, straps, resets, power faults, and removal (chapter "Insertion, start-up and the stand-alone
show", R429 to R436 and R443 to R447). The electrical times of this file, those of the power path, run on carrier time, which the model
counts in `up`; every other time is on stage time (R6).
-/

namespace Sys2Proof.Machine

def hswPage : Page := ⟨.hsw, 0⟩
def sysPage : Page := ⟨.sys, 0⟩

def hswEvent (code sev d evt : Nat) (b : Blk) : Blk := raise hswPage code sev d evt b
def sysEvent (code sev d evt : Nat) (b : Blk) : Blk := raise sysPage code sev d evt b

def Blk.putPwr (b : Blk) (x : PwrSt) : Blk := { b with pwr := x }

/-! States of HSW_STAT. -/

abbrev hsOff : Nat := 0
abbrev hsWaiting : Nat := 1
abbrev hsSoft : Nat := 2
abbrev hsOn : Nat := 3
abbrev hsEjecting : Nat := 4
abbrev hsFault : Nat := 5
abbrev hsCommand : Nat := 6

def hswState (v : Nat) (b : Blk) : Blk := b.wr F.HSW_STAT_STATE 0 v

def presentState (b : Blk) : Nat := b.rd F.HSW_STAT_PRESENT 0
def ejectState (b : Blk) : Nat := b.rd F.HSW_STAT_EJECT 0

/-- PRESENT_N is judged ACTIVE or FOUND_ACTIVE (R429). -/
def isPresent (b : Blk) : Bool := presentState b == ctActive || presentState b == ctFound

/-- EJECT_N is asserted; a chattering pin counts as asserted (R430). -/
def ejectAsserted (b : Blk) : Bool := ctAsserted (ejectState b)

/-! ### What a reset leaves (R435) -/

/-- The fields of the HSW page and of its header. -/
def hswRegs (b : Blk) : SMap Nat := b.regs.filter fun e => Nat.ble (0x50000 * 32) e.1 && Nat.blt e.1 (0x51000 * 32)

/-- What is fixed in the module: its identification registers, SYS_PART to SYS_MC_VER, among them the ordering code (R1). -/
def identRegs (b : Blk) : SMap Nat :=
  b.regs.filter fun e => Nat.ble (F.SYS_PART_PART.off * 32) e.1 && Nat.blt e.1 ((F.SYS_MC_VER_MAJOR.off + 4) * 32)

/-- The thresholds of the inlet sensors at reset: those of grade E lie 10 °C above those of grade C (R451). -/
def gradeThresholds (b : Blk) : Blk :=
  if b.rd F.SYS_VARIANT_GRADE 0 ≠ 1 then b
  else forEach [F.THM_THRESH_L1, F.THM_THRESH_L2, F.THM_THRESH_L3, F.THM_THRESH_L4] (fun f b => b.wr f 0 (threshReset b f 4).toNat 4) b

/-- Every block and page at its power-up state, but for what is fixed in the module and what the auxiliary domain, with the oven that
it warms (R293), and the EEPROM keep (R435). -/
def blocksReset (b : Blk) : Blk :=
  let x : Blk := { up := b.up, fresh := b.fresh, out := b.out, regs := mput (identRegs b) (hswRegs b) }
  let lanes := (b.lanes.filter (·.2.saved.isSome)).map fun e => (e.1, ({ saved := e.2.saved } : LaneSt))
  let y : Blk := { x with
                   ctl := { x.ctl with pmOperation := b.ctl.pmOperation, pmStatus := b.ctl.pmStatus, pmTemp := b.ctl.pmTemp },
                   acg := { x.acg with savedMode := b.acg.savedMode },
                   lanes := lanes,
                   clk := { x.clk with saved := b.clk.saved, waiting := b.clk.saved.isSome },
                   thm := { x.thm with life := b.thm.lifeSaved, lifeSaved := b.thm.lifeSaved },
                   pwr := b.pwr }
  let y := y.wr F.THM_AGE_LIFE_USED 0 (Nat.min 65535 (b.thm.lifeSaved * 1000 / lifeSpan))
  let y := y.wr F.SYS_STRAPS_SLOT 0 b.pwr.slot
  let y := if ownOut b then y.emit (.ownOut false) else y
  gradeThresholds (y.put F.CLK_OCXO_WARM 0 (b.on F.CLK_OCXO_WARM 0))

/-- A module reset (R435): back to step 7 with the rail kept on. -/
def moduleReset (cause : Nat) (b : Blk) : Blk :=
  let y := blocksReset b
  let y := y.putPwr { y.pwr with at_ := 6, since := b.up, reset := none, warned := none, strapTold := none }
  hswState (if y.pwr.rail then hsOn else b.rd F.HSW_STAT_STATE 0) (y.wr F.SYS_STAT_RESET_CAUSE 0 cause)

/-- The power-up of the module as a whole. -/
def moduleResetM (cause : Nat) (b : Blk) (_ : FrameStore) : Blk × FrameStore := (moduleReset cause b, {})

/-- The time with 12 V good, ns. -/
def goodTime (b : Blk) : Nat := b.pwr.goodBefore + (match b.pwr.good with | some t => b.up - t | none => 0)

/-- HSW switches the 12 V rail off the module: the blocks lose their state, and the role is OFF (R445). -/
def powerOff (state : Nat) (b : Blk) : Blk :=
  let y := blocksReset b
  let y := y.putPwr { y.pwr with at_ := if 2 ≤ y.pwr.at_ then 2 else y.pwr.at_, since := b.up, rail := false, good := none,
                                 goodBefore := goodTime b, reset := none, warned := none, strapTold := none }
  let y := if b.pwr.rail then y.emit (.rail false) else y
  let y := (y.wr F.SYS_ROLE_ROLE 0 0).wr F.SYS_ROLE_PREV 0 (b.rd F.SYS_ROLE_ROLE 0)
  hswState state (y.wr F.HSW_STAT_PG12 0 0)

/-- A power fault is held in HSW_FAULT and refuses power-on (R432). -/
def powerFault (code : Nat) (b : Blk) : Blk :=
  let b := ((b.wr F.HSW_FAULT_CODE 0 code).bump F.HSW_FAULT_COUNT 0).wr F.HSW_FAULT_VALID 0 1
  flagSet 0x50058 (2 ^ 31) [(F.HSW_FAULT_CODE.key 0 0, code % 16)]
    (powerOff hsFault (b.putPwr { b.pwr with refused := true, wentOut := false, refusalTold := false }))

/-! ### Steps 1 to 9 (R429) -/

/-- LONG_CONTACT_MATE: step 1; the auxiliary domain comes up. -/
def longContactMate (b : Blk) : Blk :=
  if b.pwr.at_ ≠ 0 then b
  else
    let life := (b.rd F.HSW_LIFE_INSERTIONS 0, b.rd F.HSW_LIFE_KHOURS 0)
    let b := b.rstRange 0x50000 0x51000
    let b := ((b.wr F.HSW_LIFE_INSERTIONS 0 life.1).wr F.HSW_LIFE_KHOURS 0 life.2).wr F.HSW_STAT_AUX_OK 0 1
    b.putPwr { at_ := 1, since := b.up, auxAt := b.up, goodBefore := b.pwr.goodBefore }

/-- LONG_CONTACT_MATE. -/
def execLongContactMate (dt : Nat) (s : State) : Host.Outcome State Fault Refusal := eff dt s longContactMate

/-- MC_READY: step 2; SLOT is read, and the pins are judged from now on (R430). -/
def mcReady (slot : Nat) (b : Blk) : Blk :=
  if b.pwr.at_ ≠ 1 then b
  else
    let b := (b.wr F.HSW_STAT_PRESENT 0 ctInactive).wr F.HSW_STAT_EJECT 0 ctInactive
    let b := (hswState hsWaiting b).wr F.SYS_STRAPS_SLOT 0 slot
    b.putPwr { b.pwr with at_ := 2, since := b.up, slot := slot % 16, present := {}, eject := {} }

/-- MC_READY. -/
def execMcReady (dt slot : Nat) (s : State) : Host.Outcome State Fault Refusal := eff dt s (mcReady slot)

/-- One sample of a pin, with its debounce times in samples, and what the state machine of R196 and R197 makes of it. -/
def pinStep (up debA debI : Nat) (active : Bool) (state : Nat) (c : Contact) : Nat × Contact :=
  let deb := if active then debA else debI
  let c := c.sample up deb active
  if state = ctChatter then
    (if c.quiet up (Nat.max 1000000000 (100000 * deb)) then c.leave up else (state, c))
  else if c.due deb then c.debounced up 6 1000000000 state
  else match c.openAt with
    | some t => if t + 1000000000 ≤ up then (ctChatter, { c with openAt := none, changes := [] }) else (state, c)
    | none => (state, c)

/-- PIN_SAMPLE (R430): both pins every 100 µs; `present` and `eject` say that the pin is low. -/
def pinSample (present eject : Bool) (b : Blk) : Blk :=
  if b.pwr.at_ < 2 then b
  else
    let p := pinStep b.up 500 2 present (presentState b) b.pwr.present
    let e := pinStep b.up 5 5 eject (ejectState b) b.pwr.eject
    let oldP := presentState b
    let oldE := ejectState b
    let gone := p.1 == ctInactive && oldP != ctInactive
    let b := b.putPwr { b.pwr with present := p.2, eject := e.2, presentNow := present, ejectNow := eject,
                                   wentOut := b.pwr.wentOut || gone }
    let b := (b.wr F.HSW_STAT_PRESENT 0 p.1).wr F.HSW_STAT_EJECT 0 e.1
    let b := if p.1 = ctChatter ∧ oldP ≠ ctChatter then hswEvent 0x104 sevWarning 0 (evB 2) b else b
    if e.1 = ctChatter ∧ oldE ≠ ctChatter then hswEvent 0x104 sevWarning 1 (evB 2) b else b

/-- PIN_SAMPLE. -/
def execPinSample (dt : Nat) (present eject : Bool) (s : State) : Host.Outcome State Fault Refusal :=
  eff dt s (pinSample present eject)

/-- PRESENCE_ACTIVE: step 3; the power-on check begins. A refusal ends when PRESENT_N has been INACTIVE and ACTIVE again
(R432, R445). -/
def presenceActive (b : Blk) : Blk :=
  if b.pwr.at_ ≠ 2 ∨ !isPresent b then b
  else
    let again := b.pwr.wentOut
    let x := b.pwr
    let b := b.putPwr { x with at_ := 3, since := b.up, refused := x.refused && !again, byCommand := x.byCommand && !again,
                               wentOut := false }
    if b.pwr.refused ∨ b.pwr.byCommand then b else hswState hsWaiting b

/-- PRESENCE_ACTIVE. -/
def execPresenceActive (dt : Nat) (s : State) : Host.Outcome State Fault Refusal := eff dt s presenceActive

/-- POWER_ON_CHECK: step 4, after 10 ms in which the rail stayed between `least` and `most`, in 10 mV. -/
def powerOnCheck (least most : Nat) (b : Blk) : Blk :=
  let x := b.pwr
  if x.at_ ≠ 3 ∨ b.up < x.since + 10000000 then b
  else if x.refused then
    if x.refusalTold then b
    else hswEvent 0x105 sevWarning (b.rd F.HSW_FAULT_CODE 0) (evB 1) (b.putPwr { x with refusalTold := true })
  else if x.byCommand then b
  else if !ejectAsserted b && isPresent b && Nat.ble (10 * b.rd F.HSW_LIMITS_UV_WARN 0) least
      && Nat.ble most (10 * b.rd F.HSW_LIMITS_OV_OFF 0) then
    (hswState hsSoft (b.putPwr { x with at_ := 5, since := b.up })).bump F.HSW_LIFE_INSERTIONS 0
  else b.putPwr { x with since := b.up }

/-- POWER_ON_CHECK. -/
def execPowerOnCheck (dt least most : Nat) (s : State) : Host.Outcome State Fault Refusal := eff dt s (powerOnCheck least most)

/-- SOFT_START_DONE: steps 5 and 6, the rail is switched on over 20 ms. -/
def softStartDone (b : Blk) : Blk :=
  let x := b.pwr
  if x.at_ ≠ 5 ∨ b.up < x.since + 20000000 then b
  else (hswState hsOn ((b.putPwr { x with at_ := 6, since := b.up, rail := true, good := some b.up }).wr F.HSW_STAT_PG12 0 1)).emit (.rail true)

/-- SOFT_START_DONE. -/
def execSoftStartDone (dt : Nat) (s : State) : Host.Outcome State Fault Refusal := eff dt s softStartDone

/-- The straps as INTERNAL_RESET_RELEASE and STRAP_SAMPLE give them: [0] SEAT, [7:4] SLOT, [10:8] ENS_POS as in SYS_STRAPS,
[11] PMODE_SEL. They are latched, and PMODE_SEL selects the mode (R407, R433). SLOT is read at step 2 and at every module reset. -/
def latchStraps (v : Nat) (b : Blk) : Blk :=
  let b := (b.wr F.SYS_STRAPS_SEAT 0 (bits v 0 1)).wr F.SYS_STRAPS_ENS_POS 0 (bits v 8 3)
  let b := if b.rd F.SYS_STAT_RESET_CAUSE 0 = 0 then b else b.putPwr { b.pwr with slot := bits v 4 4 }
  let b := b.wr F.SYS_STRAPS_SLOT 0 b.pwr.slot
  let p := bit v 11
  let b := b.put F.ACG_MODE_STRAP 0 p
  match p, b.acg.savedMode with
  | true, some m => (b.wr F.ACG_MODE_MODE 0 m).wr F.ACG_MODE_SAVED 0 1
  | _, _ => (b.wr F.ACG_MODE_MODE 0 0).wr F.ACG_MODE_SAVED 0 0

/-- INTERNAL_RESET_RELEASE: step 7, 1 ms after 12 V good with RESET_N deasserted. -/
def internalResetRelease (straps : Nat) (b : Blk) : Blk :=
  let x := b.pwr
  match x.good with
  | some t =>
    if x.at_ = 6 ∧ t + 1000000 ≤ b.up then
      let b := match x.reset with | some (4, _) => b.wr F.SYS_STAT_RESET_CAUSE 0 4 | _ => b
      let b := b.putPwr { x with at_ := 7, since := b.up, resetN := false, reset := none }
      latchStraps straps ((b.wr F.SYS_ROLE_ROLE 0 1).wr F.SYS_ROLE_PREV 0 1)
    else b
  | none => b

/-- INTERNAL_RESET_RELEASE. -/
def execInternalResetRelease (dt straps : Nat) (s : State) : Host.Outcome State Fault Refusal := eff dt s (internalResetRelease straps)

/-- OPERATING_STATE: steps 8 and 9. The frame store is initialised, contacts and HPD lines are judged anew, and enabled units
begin their bring-up. With a warm oven, or the auxiliary rail present for 600 s, the clock leaves WARMUP at once (R293). -/
def operatingState (b : Blk) : Blk :=
  if b.pwr.at_ ≠ 7 then b
  else
    let b := b.putPwr { b.pwr with at_ := 9, since := b.up }
    let b := forEach (List.range 8) (fun c b => b.wr F.MEM_CH_STAT_READY c 1) b
    let b := ((b.wr F.SYS_STAT_OPERATING 0 1).wr F.SYS_OPER_TIME_TIME 0 b.now).wr F.SYS_ROLE_ROLE 0 1
    let b := forEach (List.range 24) hpdRestart (contactsRestart (marginsRestore b))
    let b := forEach (List.range 4) (fun p b => unitRefresh (chnUnit p) b) b
    let b := b.putThm { b.thm with convAt := (List.range 39).map fun n => (n, b.now) }
    let b := if b.on F.CLK_OCXO_WARM 0 || Nat.ble (b.pwr.auxAt + 600000000000) b.up then ocxoReady b else b
    let b := sysEvent 0x100 sevInfo (b.rd F.SYS_STAT_RESET_CAUSE 0) (evB 0) b
    if b.on F.HSW_FAULT_VALID 0 then hswEvent 0x103 sevWarning (b.rd F.HSW_FAULT_CODE 0) (evB 1) b else b

/-- OPERATING_STATE. -/
def execOperatingState (dt : Nat) (s : State) : Host.Outcome State Fault Refusal :=
  effM dt s fun b m => (operatingState b, if b.pwr.at_ = 7 then {} else m)

/-- STARTUP_ABORT (R432): PRESENT_N INACTIVE or EJECT_N asserted before step 9. -/
def startupAbort (b : Blk) : Blk :=
  if 3 ≤ b.pwr.at_ ∧ b.pwr.at_ < 9 ∧ (presentState b = ctInactive ∨ ejectAsserted b = true) then
    powerOff (if b.pwr.refused then hsFault else hsWaiting) b
  else b

/-- STARTUP_ABORT. -/
def execStartupAbort (dt : Nat) (s : State) : Host.Outcome State Fault Refusal :=
  effM dt s fun b m => (startupAbort b, if (startupAbort b).pwr.at_ = 2 then {} else m)

/-- POWER_FAULT (R432): 1 undervoltage, 2 overvoltage, 3 current trip, during steps 5 to 9. -/
def execPowerFault (dt code : Nat) (s : State) : Host.Outcome State Fault Refusal :=
  effM dt s fun b m => if 5 ≤ b.pwr.at_ ∧ 1 ≤ code ∧ code ≤ 3 then (powerFault code b, {}) else (b, m)

/-- UV_WARNING (R447): the rail has been below UV_WARN for 1 ms; `least` in 10 mV. -/
def uvWarning (least : Nat) (b : Blk) : Blk :=
  if 5 ≤ b.pwr.at_ ∧ least < 10 * b.rd F.HSW_LIMITS_UV_WARN 0 then hswEvent 0x100 sevWarning (least % 65536) (evB 1) b else b

/-- UV_WARNING. -/
def execUvWarning (dt least : Nat) (s : State) : Host.Outcome State Fault Refusal := eff dt s (uvWarning least)

/-- RAIL_LOSS (R446): below UV_OFF for 100 µs, or PRESENT_N INACTIVE, without a warning. -/
def railLoss (uv : Bool) (b : Blk) : Blk :=
  if !b.pwr.rail then b
  else if uv then powerFault 1 b
  else if presentState b = ctInactive then powerOff hsWaiting b
  else b

/-- RAIL_LOSS. -/
def execRailLoss (dt : Nat) (uv : Bool) (s : State) : Host.Outcome State Fault Refusal :=
  effM dt s fun b m => (railLoss uv b, if b.pwr.rail && !(railLoss uv b).pwr.rail then {} else m)

/-- AUX_RAIL_LOSS (R466): the 3.3 V auxiliary rail is below 3.0 V. -/
def auxRailLoss (b : Blk) : Blk :=
  let b := if b.pwr.rail then powerOff hsOff b else b
  ((b.putPwr { b.pwr with at_ := 0, since := b.up }).wr F.HSW_STAT_AUX_OK 0 0).wr F.CLK_OCXO_WARM 0 0

/-- AUX_RAIL_LOSS. -/
def execAuxRailLoss (dt : Nat) (s : State) : Host.Outcome State Fault Refusal :=
  effM dt s fun b m => (auxRailLoss b, if b.pwr.rail then {} else m)

/-- STRAP_SAMPLE (R434): every 1 s. -/
def strapSample (v : Nat) (b : Blk) : Blk :=
  let old := b.rd F.SYS_STRAPS_SEAT 0 + 16 * b.rd F.SYS_STRAPS_SLOT 0 + 256 * b.rd F.SYS_STRAPS_ENS_POS 0
    + 2048 * b.rd F.ACG_MODE_STRAP 0
  let v := bits v 0 1 + 16 * bits v 4 4 + 256 * bits v 8 3 + 2048 * bits v 11 1
  if b.pwr.at_ < 7 ∨ v = old then b
  else
    let b := b.wr F.SYS_STAT_STRAP_DIFF 0 1
    if b.pwr.strapTold = some v then b
    else sysEvent 0x105 sevWarning (v % 2048) (evB 3) (b.putPwr { b.pwr with strapTold := some v })

/-- STRAP_SAMPLE. -/
def execStrapSample (dt straps : Nat) (s : State) : Host.Outcome State Fault Refusal := eff dt s (strapSample straps)

/-- RESET_N_ASSERT (R435, R436): a module reset at once; the module stays in step 7 until RESET_N is deasserted. -/
def resetNAssert (b : Blk) : Blk :=
  let b := if 6 ≤ b.pwr.at_ then moduleReset 1 b else b
  b.putPwr { b.pwr with resetN := true }

/-- RESET_N_ASSERT. -/
def execResetNAssert (dt : Nat) (s : State) : Host.Outcome State Fault Refusal :=
  effM dt s fun b m => (resetNAssert b, if 6 ≤ b.pwr.at_ then {} else m)

/-- A module reset that was requested is due. -/
def resetIsDue (b : Blk) : Option Nat :=
  match b.pwr.reset with
  | some (c, t) => if t ≤ b.now ∧ c ≠ 4 then some c else none
  | none => none

/-- MODULE_RESET (R435): the reset that was requested, when it is due. -/
def execModuleReset (dt : Nat) (s : State) : Host.Outcome State Fault Refusal :=
  effM dt s fun b m => match resetIsDue b with
    | some c => (moduleReset c b, {})
    | none => (b, m)

/-- EJECT_RESET_DUE (R445): 1 s after the ejector closed again. -/
def execEjectResetDue (dt : Nat) (s : State) : Host.Outcome State Fault Refusal :=
  effM dt s fun b m => match resetIsDue b with
    | some 3 => (moduleReset 3 b, {})
    | _ => (b, m)

/-! ### Removal (R443 to R446) -/

/-- What a module does as it departs (R443): bring-up stops, GOODBYE, saves, and its role. -/
def depart (b : Blk) : Blk :=
  let b := b.wr F.SYS_STAT_EJECTING 0 1
  let b := sendGoodbyes (unitsDepart b)
  let b := lifeSave (learningSave b)
  if role b = roActive then
    (if heard b then beginPlanned 4 b else takeRole roCurtain 4 b)
  else if role b = roUnderstudy ∨ role b = roWings then takeRole roWings 4 b
  else b

/-- An eject warning: 0 the ejector, 1 PMBus, 2 HSW_CTRL.EJECT (R443). -/
def ejectWarning (src : Nat) (b : Blk) : Blk :=
  if b.pwr.at_ < 9 ∨ b.pwr.warned.isSome then b
  else
    let b := hswState hsEjecting (b.putPwr { b.pwr with warned := some (b.up, src), warnedAt := b.now })
    depart (hswEvent 0x101 sevWarning src (evB 0) b)

/-- EJECT_WARNING: EJECT_N has become asserted. -/
def execEjectWarning (dt : Nat) (s : State) : Host.Outcome State Fault Refusal :=
  eff dt s fun b => if ejectAsserted b then ejectWarning 0 b else b

/-- A write of SYS_RESET.KEY (R435): a module reset 20.0 ms later, after the departure. -/
def resetKey (key : Nat) (b : Blk) : Blk :=
  if key ≠ 0x6A5D ∨ b.pwr.reset.isSome then b
  else depart (sysEvent 0x106 sevWarning 2 0 (b.putPwr { b.pwr with reset := some (2, b.now + 20000000) }))

/-- EJECT_OWN_RELEASE (R444, R457): at 18.0 ms the ejecting module deasserts OWN_OUT and keeps RELEASE set. -/
def ejectOwnRelease (b : Blk) : Blk :=
  let due := (b.pwr.warned.isSome && Nat.ble (b.pwr.warnedAt + 18000000) b.now)
    || (match b.thm.shutAt with | some t => Nat.ble (t + 18000000) b.now | none => false)
  if due ∧ ownOut b ∧ b.pr.release.isSome ∧ !b.pr.released then
    let b := closeEpoch (b.putPr { b.pr with released := true })
    epochEndSend (dropOwnership b)
  else b

/-- EJECT_OWN_RELEASE. -/
def execEjectOwnRelease (dt : Nat) (s : State) : Host.Outcome State Fault Refusal := eff dt s ejectOwnRelease

/-- A commanded warning is 20.0 ms old (R445). -/
def ejectOffDue (b : Blk) : Bool :=
  match b.pwr.warned with
  | some (t, src) => src != 0 && Nat.ble (t + 20000000) b.up
  | none => false

/-- EJECT_POWER_OFF (R445): the module stays off until OPERATION is written with 0x80 or PRESENT_N has gone and come. -/
def execEjectPowerOff (dt : Nat) (s : State) : Host.Outcome State Fault Refusal :=
  effM dt s fun b m =>
    if ejectOffDue b then (powerOff hsCommand (b.putPwr { b.pwr with byCommand := true, wentOut := false }), {}) else (b, m)

/-- EJECTOR_CLOSED (R445): EJECT_N is INACTIVE again while PRESENT_N stays; a module reset after 1 s. -/
def ejectorClosed (b : Blk) : Blk :=
  match b.pwr.warned, b.pwr.reset with
  | some (_, 0), none =>
    if ejectState b = ctInactive ∧ presentState b ≠ ctInactive then
      sysEvent 0x106 sevWarning 3 0 (hswEvent 0x102 sevNotice 0 (evB 0) (b.putPwr { b.pwr with reset := some (3, b.now + 1000000000) }))
    else b
  | _, _ => b

/-- EJECTOR_CLOSED. -/
def execEjectorClosed (dt : Nat) (s : State) : Host.Outcome State Fault Refusal := eff dt s ejectorClosed

/-- The shutdown of R457 is 20.0 ms old. -/
def shutdownDue (b : Blk) : Bool := match b.thm.shutAt with | some t => Nat.ble (t + 20000000) b.now | none => false

/-- SHUTDOWN_POWER_OFF (R457). -/
def execShutdownPowerOff (dt : Nat) (s : State) : Host.Outcome State Fault Refusal :=
  effM dt s fun b m => if shutdownDue b then (powerFault 4 b, {}) else (b, m)

/-- PMBus OPERATION written with 0x80 (R432, R435, R445): power-on is admitted again; after an orderly off it is a reset of cause
4, taken at step 4. -/
def operationOn (b : Blk) : Blk :=
  let b := { b with ctl := { b.ctl with pmOperation := 0x80 } }
  let x := b.pwr
  let b := b.putPwr { x with refused := false, refusalTold := false, byCommand := false,
                             reset := if x.byCommand then some (4, b.now) else x.reset,
                             since := if x.at_ = 3 ∧ (x.refused || x.byCommand) then b.up else x.since }
  if (x.refused || x.byCommand) && !x.rail && Nat.ble 2 x.at_ then hswState hsWaiting b else b

end Sys2Proof.Machine
end

