-- ==== Sys2Proof/Machine/Countersign.lean ====
section
/-!
DEFINITION. Countersigning (R419 to R424), the rule barrier (R418), the debug admission record (R425) and the debug port's
instructions that need no register access (R426).
-/

namespace Sys2Proof.Machine

/-! ### The proposal -/

abbrev psIdle : Nat := 0
abbrev psOpen : Nat := 1
abbrev psSubmitted : Nat := 2

def propState (b : Blk) : Nat := b.rd F.ACG_PROP_STAT_STATE 0
def proposer (b : Blk) : Nat := b.rd F.ACG_PROP_STAT_PROPOSER 0

/-- The MID is a host, and not the proposer. -/
def countersigns (b : Blk) (mid : Nat) : Bool := (mid == 0x01 || mid == 0x04) && mid != proposer b

/-- A proposal event's detail. -/
def propDetail (b : Blk) : Nat := proposer b + 64 * (b.rd F.ACG_PROP_SEQ_VALUE 0 % 65536)

/-- The write is out of turn: a violation of kind 5 (R424). -/
def outOfTurn (mid a : Nat) (b : Blk) : Blk := regViolation (midPort mid) mid a 5 b

/-- The proposal is dropped with a cause (R423). -/
def abortProposal (cause d d2 : Nat) (b : Blk) : Blk :=
  let b := ((((b.wr F.ACG_PROP_STAT_STATE 0 psIdle).wr F.ACG_PROP_STAT_CAUSE 0 cause).wr F.ACG_PROP_STAT_DETAIL 0 d).wr
    F.ACG_PROP_STAT_DETAIL2 0 d2)
  let b := { b with acg := { b.acg with area := [] } }
  raiseAs 0 acgPage 0x104 sevWarning (cause + 8 * d) (evB 3) b

/-- The digest of the present proposal (R421). -/
def openDigest (b : Blk) : Nat := propDigest (b.rd F.ACG_PROP_SEQ_VALUE 0) b.acg.area

def propCtrlAddr : Nat := 0x20050

/-! The steps of a proposal that are out of turn (R424). -/

def openRefused (mid : Nat) (b : Blk) : Bool := !(mid == 0x01 || mid == 0x04) || propState b != psIdle
def submitRefused (mid : Nat) (b : Blk) : Bool := propState b != psOpen || mid != proposer b
def withdrawRefused (mid : Nat) (b : Blk) : Bool := propState b == psIdle || mid != proposer b
def signRefused (mid : Nat) (b : Blk) : Bool := propState b != psSubmitted || !countersigns b mid

/-- An OPEN comes in the MGMT cycle in which the other host opened (R424). -/
def openTogether (mid : Nat) (b : Blk) : Bool :=
  propState b == psOpen && (mid == 0x01 || mid == 0x04) && mid != proposer b && b.acg.openCycle == mgmtCycle b

/-- A proposal is opened by a host (R422). -/
def opened (mid : Nat) (b : Blk) : Blk :=
  let b := { b with acg := { b.acg with area := b.acg.image, since := b.now, openCycle := mgmtCycle b } }
  raiseAs mid acgPage 0x101 sevInfo (propDetail b) (evB 1) b

/-- OPEN (R422, R424): of two in one MGMT cycle the operations host's stands, and the safety host's is ignored. -/
def openBy (mid : Nat) (b : Blk) : Blk :=
  if openTogether mid b then (if mid = 0x01 then opened mid (b.wr F.ACG_PROP_STAT_PROPOSER 0 mid) else b)
  else if openRefused mid b then outOfTurn mid propCtrlAddr b
  else opened mid (((b.wr F.ACG_PROP_STAT_STATE 0 psOpen).wr F.ACG_PROP_STAT_PROPOSER 0 mid).step F.ACG_PROP_SEQ_VALUE 0)

/-- SUBMIT (R422, R423). -/
def submitBy (mid : Nat) (b : Blk) : Blk :=
  if submitRefused mid b then outOfTurn mid propCtrlAddr b
  else if b.rd F.ACG_PROP_DIGEST_DIGEST 0 != openDigest b then abortProposal 1 0 0 b
  else
    let b := b.wr F.ACG_PROP_STAT_STATE 0 psSubmitted
    let b := { b with acg := { b.acg with since := b.now } }
    raiseAs mid acgPage 0x102 sevWarning (propDetail b) (evB 1) b

/-- WITHDRAW (R423). -/
def withdrawBy (mid : Nat) (b : Blk) : Blk :=
  if withdrawRefused mid b then outOfTurn mid propCtrlAddr b else abortProposal 4 0 0 b

/-- REJECT (R423). -/
def rejectBy (mid : Nat) (b : Blk) : Blk :=
  if signRefused mid b then outOfTurn mid propCtrlAddr b else abortProposal 3 0 0 b

/-- A write of ACG_PROP_CTRL: its bits from the lowest. -/
def propCtrlWrite (mid data : Nat) (b : Blk) : Blk :=
  let b := if bit data 0 then openBy mid b else b
  let b := if bit data 1 then submitBy mid b else b
  let b := if bit data 2 then withdrawBy mid b else b
  if bit data 3 then rejectBy mid b else b

/-- Some step of a write of ACG_PROP_CTRL is out of turn. -/
def propCtrlRefused (mid data : Nat) (b : Blk) : Bool :=
  let b1 := if bit data 0 then openBy mid b else b
  let b2 := if bit data 1 then submitBy mid b1 else b1
  let b3 := if bit data 2 then withdrawBy mid b2 else b2
  (bit data 0 && openRefused mid b && !openTogether mid b) || (bit data 1 && submitRefused mid b1) || (bit data 2 && withdrawRefused mid b2)
    || (bit data 3 && signRefused mid b3)

/-! ### The checks at commit (R423, cause 6) -/

/-- Two enabled regions of an image overlap: the first such pair. -/
def overlapping (m : Image) : Option (Nat × Nat) :=
  let en := (List.range 64).filter fun r => (region m r).2.1 != 0
  en.findSome? fun r => (en.find? fun t => Nat.blt r t &&
    (let q := region m r
     let u := region m t
     Nat.blt q.1 (u.1 + u.2.1) && Nat.blt u.1 (q.1 + q.2.1))).map fun t => (r, t)

/-- A reserved bit of a slot word is set. -/
def slotReserved (m : Image) (k : Nat) : Bool :=
  let w := imgWord m k
  if 309 ≤ k then w != 0 else bits w 6 2 != 0 || bits w 11 21 != 0

/-- A reserved bit of a region is set. -/
def regionReserved (m : Image) (r : Nat) : Bool :=
  bits (imgWord m (512 + 4 * r)) 28 4 != 0 || bits (imgWord m (513 + 4 * r)) 28 4 != 0 || imgWord m (515 + 4 * r) != 0

/-- What the checks of cause 6 find: DETAIL and DETAIL2. -/
def commitFault (b : Blk) (m : Image) : Option (Nat × Nat) :=
  match overlapping m with
  | some e => some e
  | none =>
    match (List.range 64).find? (fun r => (region m r).2.1 != 0 &&
        Nat.blt (usable b) (((region m r).1 + (region m r).2.1) * 4096)) with
    | some r => some (r, 0)
    | none =>
      match (List.range 512).find? (slotReserved m), (List.range 64).find? (regionReserved m) with
      | some k, _ => some (k, 0)
      | none, some r => some (r, 0)
      | none, none =>
        let w := imgWord m 770
        if bits (imgWord m 769) 1 31 != 0 || bits w 16 16 != 0 || imgWord m 771 != 0 || w % 256 == 0
          || bits w 8 8 == 0 then some (0, 0)
        else ((List.range 309).find? (fun k => bits (imgWord m k) 8 2 == 3)).map fun k => (k, 0)

/-- The words of an image that differ from the reset image, in order; debug admissions already in effect stay (R425). -/
def committed (old new : Image) : Image :=
  (List.range 788).filterMap fun i =>
    let w := imgWord new i
    let w := if 772 ≤ i then Nat.lor w (imgWord old i) else w
    if w = resetImageWord i then none else some (i, w)

/-- The commit (R417, R418, R420, R422). -/
def commitProposal (mid : Nat) (b : Blk) : Blk :=
  let m := committed b.acg.image b.acg.area
  let before := bits (imgWord b.acg.image 769) 0 1
  let mode := bits (imgWord m 769) 0 1
  let old := if b.on F.ACG_FENCE_DRAINED 0 then b.rd F.ACG_EPOCH_VALUE 0 else b.rd F.ACG_FENCE_OLDEST 0
  let b := { b with acg := { b.acg with image := m, area := [], commitAt := b.now, fenceTold := false } }
  let b := ((((b.wr F.ACG_PROP_STAT_STATE 0 psIdle).step F.ACG_EPOCH_VALUE 0).wr F.ACG_DIGEST_VALUE 0 (ruleDigest m)).wr
    F.ACG_FENCE_DRAINED 0 0).wr F.ACG_FENCE_OLDEST 0 old
  let b := raiseAs mid acgPage 0x103 sevNotice (b.rd F.ACG_EPOCH_VALUE 0 % 65536) (evB 2) b
  if mode = before then b
  else raiseAs mid acgPage 0x106 sevInfo mode 0 { b with acg := { b.acg with savedMode := some mode } }

/-- A write of ACG_PROP_SIGN (R422, R423). -/
def signBy (mid data : Nat) (b : Blk) : Blk :=
  if signRefused mid b then outOfTurn mid 0x20058 b
  else if data % 2 ^ 32 != openDigest b then abortProposal 2 0 0 b
  else match commitFault b b.acg.area with
    | some (d, d2) => abortProposal 6 d d2 b
    | none => commitProposal mid b

/-- A write of ACG_PROP_DIGEST: only the proposer, in OPEN. -/
def digestBy (mid data : Nat) (b : Blk) : Blk :=
  if submitRefused mid b then outOfTurn mid 0x20054 b else b.wr F.ACG_PROP_DIGEST_DIGEST 0 data

/-- A word of the proposal area (R419): the image in effect while no proposal is open. -/
def areaWord (b : Blk) (o : Nat) : Nat := imgWord (if propState b = psIdle then b.acg.image else b.acg.area) (o / 4)

/-- A write to the proposal area (R419, R422). -/
def areaWrite (port mid o data : Nat) (b : Blk) : Blk :=
  if 788 ≤ o / 4 then b
  else if submitRefused mid b then regViolation port mid (0x700000 + o) 5 b
  else { b with acg := { b.acg with area := mset b.acg.area (o / 4) (data % 2 ^ 32) } }

/-- Seconds that the present state of a proposal may last. -/
def propLimit (b : Blk) : Nat :=
  let w := imgWord b.acg.image 770
  if propState b = psOpen then bits w 8 8 else w % 256

/-- When a proposal expires. -/
def propDue (b : Blk) : Nat := b.acg.since + propLimit b * 1000000000

/-- ACG_PROP_LEFT. -/
def propLeft (b : Blk) : Nat := if propState b = psIdle then 0 else (propDue b - b.now) / 1000000

/-- PROPOSAL_TIMEOUT. -/
def execProposalTimeout (dt : Nat) (s : State) : Host.Outcome State Fault Refusal :=
  eff dt s fun b => if propState b != psIdle && Nat.ble (propDue b) b.now then abortProposal 5 0 0 b else b

/-! ### The barrier (R418) -/

/-- FENCE_DRAINED. -/
def execFenceDrained (dt : Nat) (s : State) : Host.Outcome State Fault Refusal :=
  eff dt s fun b =>
    if b.on F.ACG_FENCE_DRAINED 0 then b
    else (b.wr F.ACG_FENCE_DRAINED 0 1).wr F.ACG_FENCE_OLDEST 0 (b.rd F.ACG_EPOCH_VALUE 0)

/-- FENCE_TIMEOUT. -/
def execFenceTimeout (dt : Nat) (s : State) : Host.Outcome State Fault Refusal :=
  eff dt s fun b =>
    if !b.on F.ACG_FENCE_DRAINED 0 && !b.acg.fenceTold && Nat.ble (b.acg.commitAt + 1000000) b.now then
      raiseAs 0 acgPage 0x105 sevWarning (b.rd F.ACG_FENCE_OLDEST 0) 0 { b with acg := { b.acg with fenceTold := true } }
    else b

/-! ### Violations read and cleared -/

/-- A write of ACG_VIOL_COUNT. -/
def violClear (mid data : Nat) (b : Blk) : Blk :=
  if !bit data 31 then b
  else if mid = 0x01 ∨ mid = 0x04 then b.wr F.ACG_VIOL_COUNT_COUNT 0 0
  else regViolation (midPort mid) mid 0x20068 3 b

/-- A word of the violation log (R416). -/
def vlogWord (b : Blk) (o : Nat) : Nat :=
  match mget b.acg.log (o / 16) with
  | some v => v.words.getD (o % 16 / 4) 0
  | none => 0

/-! ### Debug (R425, R426) -/

def dbgPage : Page := ⟨.dbg, 0⟩

/-- A granted access by MID 0x08 to a locked slot (R425). -/
def debugUse (a : Nat) (write : Bool) (b : Blk) : Blk :=
  match acgSlot a with
  | none => b
  | some k =>
    if slotLocked b k && dbgAdmitted b k then
      let b := b.bump F.DBG_USES_COUNT 0
      let b := ((b.wr F.DBG_LAST_ADDR 0 a).wr F.DBG_LAST_SLOT 0 k).put F.DBG_LAST_WRITE 0 write
      raiseAs 0x08 dbgPage 0x100 sevWarning (64 * k + 2 ^ 15 * b2n write + 2 ^ 16 * bits a 2 6) (evB 0) b
    else b

/-- IDCODE: the identification register is captured. -/
def execIdcode (dt : Nat) (s : State) : Host.Outcome State Fault Refusal :=
  eff dt s fun b => b.emit (.jtag 32 (b.rd F.DBG_IDCODE_IDCODE 0))

/-- The 80-bit data register as a DAU_ACCESS captures it. -/
def dauCapture (b : Blk) : Emit := .jtag 80 (b.acg.dauData * 2 ^ 43 + b.acg.dauResult * 2 ^ 75)

/-- DAU_STATUS. -/
def execDauStatus (dt : Nat) (s : State) : Host.Outcome State Fault Refusal :=
  eff dt s fun b => (b.emit (dauCapture b)).wr F.DBG_STAT_USED 0 1

/-- BYPASS: any code but those of the other two instructions selects the 1-bit register, which captures 0. -/
def execBypass (dt code : Nat) (tdi : Bool) (s : State) : Host.Outcome State Fault Refusal :=
  eff dt s fun b =>
    if code % 64 = 1 then b.emit (.jtag 32 (b.rd F.DBG_IDCODE_IDCODE 0))
    else if code % 64 = 0x20 then b.emit (dauCapture b)
    else b.emit (.jtag 1 (b2n tdi))

end Sys2Proof.Machine
end

