-- ==== Sys2Proof/Machine/Eligible.lean ====
section
/-!
DEFINITION. What a newly eligible frame sets off beside the prompter (R399, R373 to R376): check-value units that wait for it,
and its relay to the members that subscribe to its layer.
-/

namespace Sys2Proof.Machine

/-! ### Relaying (R373 to R376) -/

/-- The lines of a frame as it lies in its buffer: address and bytes of each, the chroma plane of 4:2:0 after the luma plane. -/
def frameLines (y : Layout) : List (Nat × Nat) :=
  let n := lineBytes y.fmt y.w
  let luma := (List.range y.h).map fun k => (y.addr + k * y.pitch, n)
  if y.compressed then [(y.addr, Nat.max (cdiv y.w 64 * cdiv y.h 4 * 1024) (y.plane2 + cdiv y.w 64 * cdiv y.h 4))]
  else if y.fmt = 8 ∨ y.fmt = 9 then luma ++ (List.range (cdiv y.h 2)).map fun k => (y.addr + y.plane2 + k * y.pitch, n)
  else luma

/-- The first data block of a relay frame. -/
def relayHeader (l buf kind o : Nat) : List Nat := [l % 4096 + 4096 * (buf % 4) + 2 ^ 14 * kind + 2 ^ 16 * (o % 2 ^ 16), o / 2 ^ 16]

/-- The words of an evidence frame (R373). -/
def evidenceWords (e : RelayEv) : List Nat :=
  [e.arr % 2 ^ 32, e.arr / 2 ^ 32, (e.cap.getD 0) % 2 ^ 32, (e.cap.getD 0) / 2 ^ 32,
   b2n e.cap.isSome + 2 * b2n e.unc + 4 * b2n e.pulse + 8 * b2n e.subst + 16 * b2n e.decim, e.motion, e.tc, e.rtp, e.loss.length,
   e.conceal.length, e.sigs.length] ++ e.loss ++ e.conceal ++ e.sigs

/-- The evidence of a frame at its home. -/
def frameEvidence (pulse decim : Bool) (f : Frame) : RelayEv :=
  { arr := f.arr, cap := f.cap, unc := f.unc, loss := f.loss, conceal := f.conceal, sigs := f.sigs, motion := f.motion, pulse := pulse,
    subst := f.subst, decim := decim, tc := f.tc, rtp := f.rtp }

/-- The relay frames of a frame: its pixels in pieces of 1,023 blocks, then its evidence. -/
def relayFrames (l : Nat) (ev : RelayEv) (f : Frame) (m : FrameStore) : List (List Nat) :=
  let bytes := (frameLines f.lay).flatMap fun e => (List.range e.2).map fun j => m.byte (e.1 + j)
  let parts := chunks (bytes.length + 1) 8184 bytes
  (parts.zipIdx.map fun e => relayHeader l f.buf 0 (8184 * e.2) ++ byteWords e.1) ++ [relayHeader l f.buf 1 0 ++ evidenceWords ev]

/-- The ports by which this module, the layer's home, relays it. -/
def relayPorts (b : Blk) (l : Nat) : List Nat :=
  if !homedHere b l || ensState b != esMember then []
  else ([1, 2].filter fun p => ringUp b p && (relayed b p).contains l) ++ (if relayedAcross b l then [3] else [])

/-- The words of a frame that MID 0x18 cannot read (R390, R414). -/
def relayUnread (b : Blk) (f : Frame) (m : FrameStore) : List Nat :=
  if m.marked.isEmpty && (List.range 64).all (fun r => (region b.acg.image r).2.1 == 0) && fsGranted b 0x18 f.lay.addr false then []
  else (frameLines f.lay).flatMap fun e => ((List.range (cdiv (e.1 % 8 + e.2) 8)).map fun k => 8 * (e.1 / 8 + k)).filter fun a => wordUnread b 0x18 a m

/-- The relay frames that hold none of the unreadable words. -/
def relaySent (l : Nat) (ev : RelayEv) (f : Frame) (b : Blk) (m : FrameStore) : List (List Nat) :=
  let bad := relayUnread b f m
  if bad.isEmpty then relayFrames l ev f m
  else
    let places := (frameLines f.lay).flatMap fun e => (List.range e.2).map fun j => e.1 + j
    let lost := (places.zipIdx.filter fun e => bad.contains (8 * (e.1 / 8))).map fun e => e.2 / 8184
    ((relayFrames l ev f m).zipIdx.filter fun e => !lost.contains e.2).map (·.1)

/-- The home sends the newest eligible frame of a layer on some ports. A relay frame with a word that does not read is not sent (R390). -/
def relayNewest (ports : List Nat) (l : Nat) (b : Blk) (m : FrameStore) : Blk :=
  match ports, (b.layer l).newest with
  | [], _ => b
  | _, none => b
  | _, some f =>
    let ev := frameEvidence ((b.layer l).pulseAt == some b.now) ((placesOf b l).any fun e => e.2.2.decim != 0) f
    let b := forEach (relayUnread b f m) (readFailed 0x18) b
    forEach ports (fun p b => forEach (relaySent l ev f b m) (fun w b => chnSend p 6 w b) b) b

/-! ### After a command -/

/-- Layers on which a frame became eligible between two states. -/
def freshLayers (old b : Blk) : List Nat := (b.prm.layers.filter fun e => e.2.frames != (old.layer e.1).frames).map (·.1)

/-- What newly eligible frames set off. -/
def announce (old b : Blk) (m : FrameStore) : Blk :=
  forEach (freshLayers old b) (fun l b =>
    let b := match (b.layer l).newest with | some f => crcOnFrame l f b | none => b
    relayNewest (relayPorts b l) l b m) b

/-- XSD_FRAME_DONE. -/
def execXsdFrameDone (dt ctx : Nat) (cs : List Codestream) (s : State) : Host.Outcome State Fault Refusal :=
  effM dt s fun b m =>
    let r := xsdFrameDone ctx cs b m
    (announce b r.1 r.2, r.2)

/-- VDC_PICTURE_OUTPUT. -/
def execVdcPictureOutput (dt ctx : Nat) (s : State) : Host.Outcome State Fault Refusal :=
  effM dt s fun b m =>
    let r := vdcPictureOutput ctx b m
    (announce b r.1 r.2, r.2)

/-- FRAME_ELIGIBLE (R124). -/
def execFrameEligible (dt chan : Nat) (s : State) : Host.Outcome State Fault Refusal :=
  effM dt s fun b m => (announce b (frameEligible chan b m) m, m)

/-! ### Receiving (R374, R375) -/

/-- A buffer of a relayed layer that may take a new frame (R126). -/
def relayBuf (b : Blk) (l : Nat) : Option Nat := freeBuf b l

/-- Where byte `o` of a frame lies in a buffer. -/
def frameByte (y : Layout) (o : Nat) : Nat :=
  let n := lineBytes y.fmt y.w
  if y.compressed ∨ n = 0 then y.addr + o
  else
    let k := o / n
    (if k < y.h then y.addr + k * y.pitch else y.addr + y.plane2 + (k - y.h) * y.pitch) + o % n

/-- The layout of a relayed frame in a buffer here: of LD_SIZE, in the format that the home has reported. -/
def relayLayout (b : Blk) (l buf : Nat) : Layout :=
  let y := layoutOf b l buf (b.rd F.LD_SIZE_WIDTH l) (b.rd F.LD_SIZE_HEIGHT l)
  match boundBy b l with
  | some o => { y with fmt := reportOf b o (8192 + l) % 16 }
  | none => y

/-- The assembly of a relayed frame: its buffer, whether it has failed, and the bytes that have come; it begins with its first relay
frame. -/
def relayState (b : Blk) (l : Nat) : Nat × Bool × Nat :=
  match mget b.ens.relay l with
  | some e => e
  | none => match relayBuf b l with
    | some k => (k, false, 0)
    | none => (0, true, 0)

/-- The bytes of a frame of a layout, as its relay frames carry them. -/
def relayTotal (y : Layout) : Nat := ((frameLines y).map (·.2)).sum

/-- A relayed frame that does not become eligible: event 0x0103 at most once per second (R375). -/
def relayFailed (l : Nat) (b : Blk) : Blk :=
  let b := b.bump F.ENS_RELAY_FAILED_COUNT 0
  let due := match b.ens.relayTold with | some t => Nat.ble (t + 1000000000) b.now | none => true
  if due then ensEvent 0x103 sevNotice l (evB 2) (b.putEns { b.ens with relayTold := some b.now }) else b

/-- The evidence frame of a relayed frame: it becomes eligible on the home's evidence, unless a frame of it was discarded or not sent. -/
def relayEvidence (l : Nat) (ev : RelayEv) (b : Blk) : Blk :=
  let x := relayState b l
  let b := b.putEns { b.ens with relay := mdel b.ens.relay l }
  if x.2.1 ∨ x.2.2 < relayTotal (relayLayout b l x.1) then relayFailed l b
  else
    let b := if ev.pulse then b.putLayer l { b.layer l with pulseAt := some b.now } else b
    let f : Frame := { buf := x.1, lay := relayLayout b l x.1, arr := ev.arr, cap := ev.cap, unc := ev.unc, loss := ev.loss,
                       conceal := ev.conceal, sigs := ev.sigs, motion := ev.motion, tc := ev.tc, rtp := ev.rtp, subst := ev.subst,
                       decim := ev.decim }
    (makeEligible l none f b).bump F.ENS_RELAY_FRAMES_COUNT 0

/-- Pixels of a relayed frame, written under MID 0x18 (R374). -/
def relayData (l o : Nat) (bytes : List Nat) (b : Blk) (m : FrameStore) : Blk × FrameStore :=
  let x := relayState b l
  let y := relayLayout b l x.1
  let bad := x.2.1 || o != x.2.2
  let b' := b.putEns { b.ens with relay := mset b.ens.relay l (x.1, bad, o + bytes.length) }
  if bad then (b', m)
  else
    let refused := !fsGranted b 0x18 (frameByte y o) true
    (if refused then fsViolation 4 0x18 (frameByte y o) 1 b' else b',
     (bytes.zipIdx).foldl (fun m e => engineByte b 0x18 (frameByte y (o + e.2)) e.1 m) m)

/-- The ports by which a relay frame that came by one goes on (R375): around the ring to the subscribers beyond, across port 3, and from
port 3 into the ring as from its home. -/
def relayOnward (b : Blk) (port l : Nat) : List Nat :=
  (if port = 3 then [1, 2] else [3 - port]).filter (fun q => ringUp b q && (relayed b q).contains l)
    ++ (if port ≠ 3 ∧ relayedAcross b l then [3] else [])

/-- RELAY_FRAME_RX (R375): sent on where subscribers lie beyond, and taken where this member subscribes. `bad` says that the frame was
discarded under R316. -/
def relayFrameRx (port : Nat) (f : RelayFrame) (bad : Bool) (b : Blk) (m : FrameStore) : Blk × FrameStore :=
  let l := f.layer % 4096
  if ensState b ≠ esMember ∨ !(port = 1 ∨ port = 2 ∨ port = 3 ∧ (b.ens.junction = 1 ∨ b.ens.junction = 2)) then (b, m)
  else
    let ev : List Nat := match f.ev with | some e => evidenceWords e | none => []
    let b := forEach (if bad then [] else relayOnward b port l) (fun p b =>
      chnSend p 6 (relayHeader l f.buf f.kind f.offset ++ byteWords f.bytes ++ ev) b) b
    if !b.ens.subs.contains l then (b, m)
    else if bad then
      (b.putEns { b.ens with relay := mset b.ens.relay l ((relayState b l).1, true, f.offset + f.bytes.length) }, m)
    else match f.kind, f.ev with
      | 0, _ => relayData l f.offset f.bytes b m
      | _, some e => (relayEvidence l e b, m)
      | _, none => (b, m)

/-- RELAY_FRAME_RX. -/
def execRelayFrameRx (dt port : Nat) (f : RelayFrame) (bad : Bool) (s : State) : Host.Outcome State Fault Refusal :=
  effM dt s fun b m =>
    let r := relayFrameRx port f bad b m
    (announce b r.1 r.2, r.2)

/-- The layers of a list that a member takes from another one: those with no writer here, on a member that is not their home (R374). -/
def relayedHere (b : Blk) (ls : List Nat) : List Nat := ls.eraseDups.filter fun l => sourceOf b l == 0 && !homedHere b l

/-- The subscriptions of this member at a curtain-up (R374), which it reports at once (R371). -/
def subscribe (b : Blk) : Blk :=
  if ensState b ≠ esMember then b.putEns { b.ens with subs := [], relay := [] }
  else
    let ls := relayedHere b ((places b).map (·.2.2.layer))
    sendReports (b.putEns { b.ens with subs := ls, relay := b.ens.relay.filter fun e => ls.contains e.1 })

/-- A binding that crossed with one of a member at a lower position gives way at the next curtain-up: event 0x010A (R372). -/
def dropBinding (l : Nat) (b : Blk) : Blk :=
  if sourceOf b l = 0 then b
  else
    let b := forEach (List.range 64) (fun c b =>
      if enabled b ⟨.ing, c⟩ && b.rd F.ING_CTRL_KIND c == 1 && b.rd F.ING_CTRL_LAYER c == l then
        ingRestart c (dropAsms c 4 (b.wr F.PG_CTRL_ENABLE (ingPage c).slot 0))
      else b) b
    let b := forEach (List.range 16) (fun x b =>
      if b.on F.XSD_CTRL_LAYER_EN x && b.rd F.XSD_CTRL_LAYER x == l then xsdRestart x (b.wr F.XSD_CTRL_LAYER_EN x 0) else b) b
    let b := forEach (List.range 32) (fun x b =>
      if b.on F.VDC_CTRL_LAYER_EN x && b.rd F.VDC_CTRL_LAYER x == l then vdcRestart x (b.wr F.VDC_CTRL_LAYER_EN x 0) else b) b
    ensEvent 0x10A sevWarning l 0 b

def dropBindings (b : Blk) : Blk := forEach b.ens.giveUp dropBinding (b.putEns { b.ens with giveUp := [] })

/-- A member's report comes by a port (R371): kept under its sender, sent on around the ring, and followed by the newest frame of a layer
that is homed here where the sender comes to place it (R374). Of two bindings of a layer that of the higher position gives way. -/
def reportRx (port mid idx data : Nat) (b : Blk) (m : FrameStore) : Blk :=
  let origin := if port = 3 then 8 else posAt b port (mid % 8)
  let before := if idx < 4096 then relayPorts b idx else []
  let k := reportKey origin idx
  let b := b.putEns { b.ens with reports := if data % 2 ^ 32 = 0 then mdel b.ens.reports k else mset b.ens.reports k (data % 2 ^ 32) }
  let b := if port = 3 ∨ !passesOn b origin (3 - port) ∨ 6 < mid % 8 then b else chnSend (3 - port) 5 [reportAddr idx, mid + 1, data % 2 ^ 32, 1] b
  if 4096 ≤ idx then b
  else
    let yields := if origin = 8 then b.ens.junction == 2 else Nat.blt origin (ownPos b)
    let b := if bit data 23 && boundHere b idx && yields && partnerPos b != some origin && !b.ens.giveUp.contains idx then
        b.putEns { b.ens with giveUp := b.ens.giveUp ++ [idx] }
      else b
    relayNewest ((relayPorts b idx).filter fun p => !before.contains p) idx b m

end Sys2Proof.Machine
end

