-- ==== Sys2Proof/Machine/Cue.lean ====
section
/-!
DEFINITION. Staged values and cues (R12, R59 to R64, R142, R155, R168, R187, R379, R415): what a cue covers, the checks that
every block makes on the values that the cue would leave in effect, and what taking the cue does.
-/

namespace Sys2Proof.Machine

/-! ### Staged values -/

/-- The offset lies in a stage's proscenium registers, which only a proscenium commit applies (R185, R188). -/
def proscAddr (a : Nat) : Bool :=
  match target a with
  | .page p o => p.blk == .stg && Nat.ble 0x300 o && Nat.blt o 0x500
  | _ => false

/-- Staged words of a BAR0 range. -/
def stagedRange (b : Blk) (lo hi : Nat) : SMap Staged := b.ctl.staged.filter fun e => Nat.ble lo e.1 && Nat.blt e.1 hi

/-- Staged words of a page that its cue applies. -/
def pageStaged (b : Blk) (p : Page) : SMap Staged :=
  (stagedRange b (p.slot * 0x1000) (p.slot * 0x1000 + 0x1000)).filter fun e => !proscAddr e.1

/-- Staged words of a layer descriptor, and of a scene. -/
def descStaged (b : Blk) (l : Nat) : SMap Staged := stagedRange b (0x400000 + 256 * l) (0x400100 + 256 * l)
def sceneStaged (b : Blk) (s : Nat) : SMap Staged := stagedRange b (0x500000 + 256 * s) (0x500100 + 256 * s)

/-- Staged words of a stage's proscenium registers. -/
def proscStaged (b : Blk) (st : Nat) : SMap Staged :=
  stagedRange b ((stgPage st).slot * 0x1000 + 0x300) ((stgPage st).slot * 0x1000 + 0x500)

/-- Take staged words away. -/
def dropStaged (l : SMap Staged) (b : Blk) : Blk :=
  { b with ctl := { b.ctl with staged := l.foldl (fun m e => mdel m e.1) b.ctl.staged } }

/-- What a cue taken now applies of a staged word: a word that was written in the present MGMT cycle waits for the following cue, and
what stood staged before it applies (R12). -/
def ripe (b : Blk) (e : Nat × Staged) : Option (Nat × Staged) :=
  if e.2.cycle = mgmtCycle b then e.2.prev.map fun p => (e.1, ({ data := p.1, mid := p.2 } : Staged)) else some e

/-- Take one word of a cue away; a word written in the present MGMT cycle stays staged (R12). -/
def takeWord (b : Blk) (m : SMap Staged) (a : Nat) : SMap Staged :=
  match mget b.ctl.staged a with
  | some x => if x.cycle = mgmtCycle b then mset m a { x with prev := none } else mdel m a
  | none => m

/-- Take the words of a cue away (R12). -/
def takeStaged (l : SMap Staged) (b : Blk) : Blk :=
  { b with ctl := { b.ctl with staged := l.foldl (fun m e => takeWord b m e.1) b.ctl.staged } }

/-- Put the RWS fields of a staged word into effect. -/
def applyWord (e : Nat × Staged) (b : Blk) : Blk :=
  (hitsAt e.1).foldl (fun (b : Blk) (h : Hit) =>
    if h.f.acc = .rws then b.wr h.f h.i (fldMerge h.f (b.rd h.f h.i h.k) h.j e.2.data) h.k else b) b

def applyWords (l : SMap Staged) (b : Blk) : Blk := forEach l applyWord b

/-- A staged word holds a reserved encoding (R9). -/
def reservedWord (b : Blk) (e : Nat × Staged) : Bool :=
  (hitsAt e.1).any fun h => h.f.acc == .rws && !h.f.legal (fldMerge h.f (b.rd h.f h.i h.k) h.j e.2.data)

/-- The values that stand to come into effect at the heads' next vertical blanking count as in effect for a check (R253). -/
def headsAhead (b : Blk) : Blk := forEach (List.range 24) (fun h (b : Blk) => { b with regs := mput (b.head h).pend b.regs }) b

/-- The values that a cue of some words would leave: its words over what stands in effect or waits for a vertical blanking (R60, R253). -/
def withWords (words : SMap Staged) (b : Blk) : Blk := applyWords words (headsAhead b)

/-! ### What a cue covers -/

/-- The pages, descriptors and scenes of a cue, the MID that armed it, and whether it is taken at point 3. -/
structure CueSet where
  pages : List Page
  lds : List Nat := []
  scs : List Nat := []
  mid : Nat
  shared : Bool := false
  deriving DecidableEq, Repr

/-- In an ensemble, shared values wait for a cue at point 3 (R379). -/
def sharedWaits (b : Blk) (c : CueSet) : Bool := ensState b == esMember && !c.shared

/-- The staged words that a cue applies. -/
def CueSet.words (b : Blk) (c : CueSet) : SMap Staged :=
  ((c.pages.flatMap (pageStaged b) ++ c.lds.flatMap (descStaged b) ++ c.scs.flatMap (sceneStaged b)).filter fun e =>
    !(sharedWaits b c && sharedRange e.1)).filterMap (ripe b)

/-- The page is a member of a cue group (R63). -/
def inGroup (b : Blk) (g : Nat) (p : Page) : Bool :=
  b.on F.PG_CTRL_GRP_EN p.slot && b.rd F.PG_CTRL_CUE_GRP p.slot == g

/-- Descriptors and scenes with staged values. -/
def stagedDescs (b : Blk) : List Nat := ((stagedRange b 0x400000 0x500000).map fun e => (e.1 - 0x400000) / 256).eraseDups
def stagedScenes (b : Blk) : List Nat := ((stagedRange b 0x500000 0x580000).map fun e => (e.1 - 0x500000) / 256).eraseDups

/-- The set of a group cue: its member pages, and the descriptors and scenes of the group that hold staged values; those of
the proscenium range only when MID 0x04 armed it (R63, R142, R187). A cue of the stand-alone show takes the descriptors and scenes
that the show staged, whatever group they name (R440: all its changes are armed as group 63). -/
def groupSet (b : Blk) (g mid : Nat) (shared : Bool) : CueSet :=
  let c : CueSet := { pages := allPages.filter (inGroup b g), mid := mid, shared := shared }
  if sharedWaits b c then c
  else { c with
         lds := (stagedDescs b).filter fun l => (b.rd F.LD_CTRL_CUE_GRP l == g || mid == 0 && byShow (descStaged b l))
           && (Nat.blt l 3840 || mid == 0x04)
         scs := (stagedScenes b).filter fun s => b.rd F.SC_CTRL_CUE_GRP s == g || mid == 0 && byShow (sceneStaged b s) }
where
  /-- The show staged a word of these. -/
  byShow (l : SMap Staged) : Bool := l.any fun e => e.2.mid == 0

/-! ### The checks -/

/-- Something that refuses a cue: a page with the offset of its first failing word, or a descriptor (kind 0) or scene (kind 1). -/
structure CueFail where
  page : Option Page
  entry : Nat := 0
  kind : Nat := 0
  reason : Nat
  off : Nat := 0
  deriving DecidableEq, Repr

/-- The policy table's own conditions (R76, page tables of chapter 3). -/
def prmBad (b : Blk) : Nat :=
  let r (f : Fld) (p : Nat) := b.rd f 24 p
  let live (p : Nat) : Bool := r F.PRM_POL_CTRL_CLASS p != 2
  if (List.range 64).any fun p =>
      (live p && (r F.PRM_POL_LATE_LATE_T p == 0 || r F.PRM_POL_STALE_STALE_T p == 0))
      || (r F.PRM_POL_CTRL_USE_PULSE p == 1 && r F.PRM_POL_PULSE_PULSE_MAX p == 0) then 0x01
  else if (List.range 64).any fun p =>
      live p && (Nat.blt (r F.PRM_POL_STALE_STALE_T p) (r F.PRM_POL_LATE_LATE_T p)
        || (r F.PRM_POL_DARK_DARK_T p != 0 && Nat.blt (10 * r F.PRM_POL_DARK_DARK_T p) (r F.PRM_POL_STALE_STALE_T p))) then 0x41
  else 0

/-- The reason for which a page's own values refuse a cue, judged on the values that the cue would leave (`b`), with the
values before it (`old`). -/
def pageBad (old b : Blk) (p : Page) : Nat :=
  let i := p.inst
  match p.blk with
  | .prm => if i = 24 then prmBad b else 0
  | .ing => firstReason [ingBad b i, match b.rd F.ING_CTRL_KIND i with
      | 2 => if enabled b p then decoderBad b true (b.rd F.ING_ASM_CTX i) else 0
      | 3 => if enabled b p then decoderBad b false (b.rd F.ING_ASM_CTX i) else 0
      | 4 => if enabled b p then decoderBad b false (b.rd F.ING_ASM_CTX i) else 0
      | _ => 0]
  | .nif => nifBad b i
  | .lfp => if coefsBad b i then 0x46 else 0
  | .stg => firstReason [stgBad b i, if pixelRatesOk b then 0 else 0x02]
  | .ohd => firstReason [ohdBad b i,
      if b.pr.formed && headRuns b i && !headRuns old i && !b.on F.OHD_CTRL_GENLOCK i then 0x40 else 0]
  | .xsd => if i = 16 then 0 else firstReason [xsdBad b i, decoderBad b true i]
  | .vdc => firstReason [vdcBad b i, decoderBad b false i]
  | .vec => if i = 16 then 0 else vecBad b i
  | .crc => crcBad b i
  | _ => 0

/-- The word that a check judges, where the check names one: a frame size, a frame rate, a pulse region, a context, a port's
lanes, an encoder's source, size, level, rate or store (R108, R117, R118, R135, R139, R242). -/
def failWord (b : Blk) (p : Page) (r : Nat) : Option Nat :=
  let i := p.inst
  match p.blk, r with
  | .ing, 0x40 =>
    if !sizeOk (b.rd F.ING_FMT0_WIDTH i) (b.rd F.ING_FMT0_HEIGHT i) (b.rd F.ING_FMT1_SAMPLING i) (b.rd F.ING_FMT1_SCAN i) then
      some F.ING_FMT0_WIDTH.off
    else if !rateOk (b.rd F.ING_RATE_NUM i) (b.rd F.ING_RATE_DEN i) then some F.ING_RATE_NUM.off
    else some F.ING_PULSE_RGN_X0.off
  | .ing, 0x41 => some F.ING_ASM_CTX.off
  | .ing, 0x42 => some F.ING_FMT0_WIDTH.off
  | .ing, 0x43 => some F.ING_ASM_CTX.off
  | .ing, 0x07 => some F.ING_FMT0_WIDTH.off
  | .nif, _ => some F.NIF_CFG_SPEED.off
  | .stg, 0x40 => some F.STG_LEAD_LINES.off
  | .stg, 0x45 => some F.STG_CFG_ROOT.off
  | .stg, 0x05 => some F.STG_CFG_ROOT.off
  | .vdc, 0x40 => some F.VDC_STORE_CFG_EXTRA.off
  | .vec, 0x40 => some F.VEC_BITRATE_RATE.off
  | .vec, 0x41 => some F.VEC_CODEC_LEVEL.off
  | .vec, 0x42 => some F.VEC_SRC_STAGE.off
  | .vec, 0x43 => some F.VEC_SIZE_W.off
  | _, _ => none

/-- Offset of the word that makes a page fail: the word that the check judges, or else the first staged word of the page, not
PG_CTRL, without which it would pass, or else the first staged word (DEDUCED). -/
def failOff (old : Blk) (words : SMap Staged) (p : Page) (bad : Blk → Nat) : Nat :=
  let new := withWords words old
  match failWord new p (bad new) with
  | some o => o
  | none =>
    let mine := words.filter fun e => e.1 / 0x1000 == p.slot && Nat.blt e.1 0x400000
    match mine.find? fun e => e.1 % 0x1000 != 8 && bad (withWords (words.filter fun x => x.1 != e.1) old) == 0 with
    | some e => e.1 % 0x1000
    | none => (mine.map fun e => e.1 % 0x1000).headD 0

/-- The layers that a stage places, and the scenes that its flattening reaches. -/
def stageLayers (b : Blk) (st : Nat) : List Nat :=
  ((flatStage b st).map fun (f : Flat) => f.layer) ++ (proscFed b st).map fun e => e.2.1
def stageScenes (b : Blk) (st : Nat) : List Nat :=
  if b.on F.STG_CFG_ROOT_EN st then (reach 2049 b (b.rd F.STG_CFG_ROOT st)).eraseDups else []

/-- The cue makes the stage allocate its placements (R155). -/
def allocates (old new : Blk) (c : CueSet) (st : Nat) : Bool :=
  c.pages.contains (stgPage st)
    || c.pages.any (fun p => p.blk == .lfp && (old.rd F.LFP_CFG_STAGE p.inst == st || new.rd F.LFP_CFG_STAGE p.inst == st))
    || (!c.lds.isEmpty && (stageLayers old st ++ stageLayers new st).any c.lds.contains)
    || (!c.scs.isEmpty && (stageScenes old st ++ stageScenes new st).any c.scs.contains)

/-- The layers bound by the ingest and decoder pages of a cue, and with the policy table in it every bound layer. -/
def boundLayers (b : Blk) (c : CueSet) : List Nat :=
  let all := c.pages.contains prmGlobal
  ((List.range 64).filterMap fun i =>
      if enabled b (ingPage i) && (all || c.pages.contains (ingPage i)) then chanLayer b i else none)
    ++ ((List.range 16).filterMap fun i =>
      if xsdBound b i && (all || c.pages.contains (xsdPage i)) then some (b.rd F.XSD_CTRL_LAYER i) else none)
    ++ (List.range 32).filterMap fun i =>
      if vdcBound b i && (all || c.pages.contains (vdcPage i)) then some (b.rd F.VDC_CTRL_LAYER i) else none

/-- The cue touches what the proscenium's descriptors rest on (R186). -/
def touchesSources (c : CueSet) : Bool :=
  !c.lds.isEmpty || c.pages.any fun p => p == prmGlobal || p.blk == .ing || p.blk == .xsd || p.blk == .vdc || p.blk == .stg

/-- Reserved encodings, and staged values whose writer may no longer write them (R9, R415). -/
def wordFails (old : Blk) (words : SMap Staged) : List CueFail :=
  words.filterMap fun e =>
    let reason := if reservedWord old e then 0x01
      else if e.2.mid != 0 && (regCheck old e.2.mid e.1 true).isSome then 0x06 else 0
    if reason = 0 then none
    else match target e.1 with
      | .page p o => some { page := some p, reason := reason, off := o }
      | .desc i _ => some { page := none, entry := i, reason := reason }
      | .scene i _ => some { page := none, entry := i, kind := 1, reason := reason }
      | _ => none

/-- What the pages of a cue refuse on their own values, and on one another's (R176, R211, R246, R269). -/
def pageFails (old new : Blk) (words : SMap Staged) (c : CueSet) : List CueFail :=
  let one (p : Page) (bad : Blk → Nat) : List CueFail :=
    let r := bad new
    if r = 0 then [] else [{ page := some p, reason := r, off := failOff old words p bad }]
  c.pages.flatMap (fun p => one p (fun b => pageBad old b p))
    ++ c.pages.flatMap (fun p =>
      match p.blk with
      | .ohd => if c.pages.contains (stgPage p.inst) then [] else one (stgPage p.inst) fun b => if leadBad b p.inst then 0x40 else 0
      | .stg => if c.pages.contains (ohdPage p.inst) then []
          else one (ohdPage p.inst) fun b => if ohdBad b p.inst = 0x44 then 0x44 else 0
      | .nif => (List.range 24).flatMap fun h => if c.pages.contains (ohdPage h) then []
          else one (ohdPage h) fun b => if enabled b (ohdPage h) && !txFits b h then 0x43 else 0
      | _ => [])
    ++ ((List.range 16).filter (vecTouched new c.pages c.lds)).flatMap (fun x => one (vecPage x) fun b =>
        if [0x40, 0x41, 0x42, 0x43, 0x07].contains (vecBad b x) then vecBad b x else 0)
    ++ ((List.range 24).filter fun st => !c.pages.contains (stgPage st) && c.scs.contains (new.rd F.STG_CFG_ROOT st)).flatMap
      (fun st => one (stgPage st) fun b => if rootBad b st then 0x45 else 0)
    ++ ((List.range 32).filter fun x => vdcBound new x && !c.pages.contains (vdcPage x)
        && c.lds.contains (new.rd F.VDC_CTRL_LAYER x)).flatMap fun x => one (vdcPage x) fun b => vdcBad b x

/-- What descriptors and scenes refuse (R75, R145 to R152, R157, R168). -/
def entryFails (new : Blk) (c : CueSet) (stages : List Nat) : List CueFail :=
  let placed := stages.flatMap (stageLayers new)
  let ls := (c.lds ++ boundLayers new c ++ placed).eraseDups
  let fromLayers : List CueFail := ls.filterMap fun l =>
    match ldBad new l with
    | 0 =>
      let sz := sizeFor new l
      if (placed.contains l || c.lds.contains l && ldInUse new l) && !ratioOk new l sz.1 sz.2 0 then
        some { page := none, entry := l, reason := 0x40 }
      else none
    | 0x140 => some { page := some prmGlobal, reason := 0x40,
                      off := F.PRM_POL_CTRL_CLASS.off + 0x20 * new.rd F.LD_CTRL_POLICY l }
    | r => some { page := none, entry := l, reason := r }
  fromLayers

/-- What the scenes refuse. -/
def sceneFails (new : Blk) (l : List Nat) : List CueFail :=
  l.filterMap fun s => match sceneBad new s with
    | 0 => none
    | r => some { page := none, entry := s, kind := 1, reason := r }

/-- What the stages that allocate refuse: the layer limit, and a placement that fits no pipe (R155, R167). A stage that places a layer
or reaches a scene of its own failing values is not judged further. -/
def stageFails (new : Blk) (words : SMap Staged) (stages : List Nat) (others : List CueFail) : List CueFail :=
  (stages.filter fun st => !others.any fun f => f.page.isNone
      && (if f.kind = 1 then (stageScenes new st).contains f.entry else (stageLayers new st).contains f.entry)).flatMap fun st =>
    let off := ((words.filter fun e => e.1 / 0x1000 == (stgPage st).slot).map fun e => e.1 % 0x1000).headD 0
    if 64 < (flatStage new st).length then
      (if stgBad new st = 0x05 then [] else [{ page := some (stgPage st), reason := 0x05, off := off }])
    else match allocate new st with
      | .ok _ => []
      | .error (slot, reason) =>
        let layer := if slot < 64 then ((flatStage new st)[slot]?.map fun (f : Flat) => f.layer).getD 0
          else new.rd F.STG_PS_CFG_LAYER st (slot - 64)
        [{ page := some (stgPage st), reason := reason, off := off }, { page := none, entry := layer, reason := reason }]

/-- A cue that would break what a drawing proscenium slot needs (R186, R200). -/
def proscFails (new : Blk) (c : CueSet) : List CueFail :=
  if !touchesSources c then []
  else (List.range 24).flatMap fun st => ((List.range 8).filterMap fun k =>
    if new.on F.STG_PS_CFG_EN st k && new.rd F.STG_PS_CFG_SRC st k == 0 && psSlotBad new st k != 0 then
      some { page := some (stgPage st), reason := psSlotBad new st k, off := 0x300 + 0x40 * k }
    else none)

/-- The layers that the enabled stages would place. -/
def wouldPlace (new : Blk) : List Nat :=
  relayedHere new (((List.range 24).filter fun st => enabled new (stgPage st)).flatMap (stageLayers new))

/-- Relay traffic beyond what any link of the ring may carry in either direction (R376). -/
def relayFails (new : Blk) : List CueFail :=
  if ensState new != esMember then []
  else
    let own := wouldPlace new
    if (ringPos new).any fun i => Nat.blt relayLimit (linkLoad new own i 1) || Nat.blt relayLimit (linkLoad new own i 2) then
      [{ page := some ensPage, reason := 0x40 }]
    else []

/-- A layer that the cue binds to a writer here is bound on another member (R372). -/
def bindFails (old new : Blk) : List CueFail :=
  if ensState new != esMember then []
  else (boundLayersHere new).filterMap fun l =>
    if sourceOf old l == 0 && (boundBy new l).isSome then some { page := none, entry := l, reason := 0x49 } else none

/-- Everything that refuses a cue (R60, R64): nothing when it may be taken. What holds a reserved encoding is left out of the values on
which the other checks are made (DEDUCED, log 77). -/
def cueFails (old : Blk) (words : SMap Staged) (c : CueSet) : List CueFail :=
  let first := wordFails old words
  let new := withWords (words.filter fun e => !reservedWord old e) old
  let words := words.filter fun e => !reservedWord old e
  let pages := pageFails old new words c
  let own := sceneFails new c.scs
  let stages := (List.range 24).filter (allocates old new c)
  let scenes := sceneFails new ((stages.flatMap (stageScenes new)).eraseDups.filter fun s =>
    !c.scs.contains s && new.on F.SC_CTRL_VALID s)
  let rest := own ++ entryFails new c stages ++ scenes
  first ++ pages ++ rest ++ stageFails new words stages rest ++ proscFails new c ++ bindFails old new ++ relayFails new

/-! ### Refusing and taking -/

/-- A refused cue (R61, R64, R170): nothing applies and the staged values stay. -/
def refuseCue (c : CueSet) (fails : List CueFail) (b : Blk) : Blk :=
  let ps := (fails.filterMap (·.page)).eraseDups
  let b := forEach ps (fun p b =>
    match (fails.filter fun f => f.page == some p) with
    | [] => b
    | f :: l =>
      let f := l.foldl (fun (m : CueFail) (x : CueFail) => if x.off < m.off then x else m) f
      raiseAs c.mid p 0x0002 sevWarning (f.reason % 256 + 256 * (f.off / 4 % 1024)) 0 b) b
  let b := match fails.find? fun f => f.page.isNone with
    | some f => lfpReject c.mid f.entry f.kind f.reason b
    | none => b
  let b := if c.mid ≠ 0 then b
    else match fails.find? fun f => (f.reason == 4 || f.reason == 5 || f.reason == 7)
        && (match f.page with | some p => p.blk == .stg || p.blk == .ohd | none => false) with
      | some f => { b with show_ := { b.show_ with refused := some (f.reason, (f.page.map (·.inst)).getD 0) } }
      | none => b
  forEach c.pages (fun p b => setEvt p 4 b) b

/-- A register key of a block range changed its value between two states. -/
def moved (old new : Blk) (lo hi : Nat) : Bool :=
  let f (b : Blk) : SMap Nat := b.regs.filter fun e => Nat.ble (32 * lo) e.1 && Nat.blt e.1 (32 * hi)
  f old != f new

/-- The values of the words that a page holds changed: a stored reset value counts as the reset value. -/
def wordsMoved (old new : Blk) (base : Nat) (offs : List Nat) : Bool :=
  offs.any fun o => rawWord old (base + o) != rawWord new (base + o)

/-- Word offsets from `lo` to below `hi`. -/
def offsets (lo hi : Nat) : List Nat := (List.range ((hi - lo) / 4)).map fun k => lo + 4 * k

/-- A statistics ring's place or size changed (R240). -/
def ringMoved (old new : Blk) (base size : Fld) (i : Nat) : Bool := old.rd base i != new.rd base i || old.rd size i != new.rd size i

/-- PG_CTRL.ENABLE of a page changed. -/
def enableMoved (old new : Blk) (p : Page) : Bool := enabled old p != enabled new p

/-- The decoder contexts that a channel feeds or fed restart (R215). -/
def restartFed (old : Blk) (c : Nat) (b : Blk) : Blk :=
  let fed (b : Blk) : List (Bool × Nat) := match b.rd F.ING_CTRL_KIND c with
    | 2 => [(true, b.rd F.ING_ASM_CTX c)]
    | 3 => [(false, b.rd F.ING_ASM_CTX c)]
    | 4 => [(false, b.rd F.ING_ASM_CTX c)]
    | _ => []
  forEach (fed old ++ fed b).eraseDups (fun x b =>
    if x.1 then (if x.2 < 16 then xsdRestart x.2 b else b) else if x.2 < 32 then vdcRestart x.2 b else b) b

/-- A stage's ENABLE changed (R173, R175): a stage that is disabled delivers nothing after the frame on display. -/
def stageEnabled (st : Nat) (b : Blk) : Blk :=
  if enabled b (stgPage st) then psRearm st b
  else
    let b := clearStage st b
    b.putStage st { b.stage st with allocDue := false, switchDue := false, latched := [] }

/-- A NIF page's configuration changed: its link goes down and comes up again. -/
def nifChanged (n : Nat) (b : Blk) : Blk :=
  let b := nifDown n 3 b
  let b := if (b.unit n).state = stOff then b else unitStop n b
  unitRefresh n b

/-- What a page does when its staged values have come into effect. -/
def pageApplied (old : Blk) (p : Page) (b : Blk) : Blk :=
  let i := p.inst
  let base := p.slot * 0x1000
  match p.blk with
  | .prm => if i = 24 then policyChanged b else b
  | .ing =>
    if enableMoved old b p || wordsMoved old b base (offsets 0x40 0x50 ++ offsets 0x100 0x124 ++ offsets 0x140 0x164 ++ offsets 0x180 0x1A4) then
      let b := dropAsms i 4 b
      restartFed old i (if ingOn old i = ingOn b i then b else ingRestart i b)
    else if old.rd F.ING_ASM_CTX i ≠ b.rd F.ING_ASM_CTX i then restartFed old i b
    else b
  | .nif => if enableMoved old b p || wordsMoved old b base [0x40] then nifChanged i b
    else if wordsMoved old b base [0x44] && linkUp b i then
      (if b.rd F.NIF_IP4_ADDR i = 0 then claimLinkLocal i b else b.wr F.NIF_STAT_IP4_LL i 0)
    else b
  | .stg => if enableMoved old b p then stageEnabled i b else b
  | .ohd => headChanged i old b
  | .xsd =>
    if i = 16 then b
    else
      let b := if ringMoved old b F.XSD_STATS_BASE_ADDR F.XSD_STATS_CFG_SIZE i then b.wr F.XSD_STATS_WR_IDX i 0 else b
      if enableMoved old b p || wordsMoved old b base [0x40] then xsdRestart i b else b
  | .vdc =>
    let b := if ringMoved old b F.VDC_STATS_BASE_ADDR F.VDC_STATS_CFG_SIZE i then b.wr F.VDC_STATS_WR_IDX i 0 else b
    let w (b : Blk) := (b.rd F.VDC_CTRL_LAYER i, b.rd F.VDC_CTRL_LAYER_EN i, b.rd F.VDC_CTRL_START i)
    if enableMoved old b p || w old != w b || wordsMoved old b base (offsets 0x70 0x7C) then vdcRestart i b else b
  | .vec =>
    if i = 16 then b
    else
      let b := if ringMoved old b F.VEC_STATS_BASE_ADDR F.VEC_STATS_CFG_SIZE i then b.wr F.VEC_STATS_WR_IDX i 0 else b
      if enableMoved old b p then vecStop i b
      else if wordsMoved old b base [0x40, 0x44, 0x48] then vecForceIdr i b
      else b
  | .crc => if enableMoved old b p then crcEnabled i b else crcCued i b
  | _ => b

/-- The words of a head's timing and link registers, which wait for its next vertical blanking (R253). -/
def headTimedWord (a : Nat) : Bool :=
  match target a with
  | .page p o => p.blk == .ohd && Nat.ble 0x40 o && Nat.blt o 0x64
  | _ => false

/-- The values of a staged word's fields by their keys. -/
def wordVals (b : Blk) (e : Nat × Staged) : SMap Nat :=
  (hitsAt e.1).foldl (fun (m : SMap Nat) (h : Hit) =>
    if h.f.acc = .rws then mset m (h.f.key h.i h.k) (fldMerge h.f (b.rd h.f h.i h.k) h.j e.2.data) else m) []

/-- Put the words of a cue into effect. -/
def applyCue (words : SMap Staged) (b : Blk) : Blk :=
  let old := b
  let b := applyWords (words.filter fun e => !headTimedWord e.1) b
  forEach (words.filter fun e => headTimedWord e.1) (fun e b =>
    let h := (e.1 - 0x260000) / 0x1000
    headCommit h (wordVals b e) (headRuns old h) b) b

/-- The first cue of a host that is taken after a claim ends the show (R442); its status strips go at the next curtain-ups. -/
def showEnds (c : CueSet) (b : Blk) : Blk :=
  if !b.show_.claimed || !(c.mid == 0x01 || c.mid == 0x04) then b
  else
    let seq := match c.pages with | p :: _ => b.rd F.PG_CUE_SEQ p.slot | [] => 0
    let b := { b with show_ := { b.show_ with claimed := false,
                                              strips := (List.range 24).filter fun st => enabled b (stgPage st) } }
    raiseAs c.mid sysPage 0x103 sevNotice seq (evB 2) (b.wr F.SYS_STAT_SHOW 0 2)

/-- A cue is taken (R60): everything applies in one cycle, and each page counts and reports it. -/
def takenCue (c : CueSet) (words : SMap Staged) (b : Blk) : Blk :=
  let old := b
  let new := withWords words b
  let stages := (List.range 24).filter (allocates old new c)
  let b := takeStaged words (applyCue words b)
  let b := forEach c.pages (fun p b =>
    let b := setEvt p 2 (b.step F.PG_CUE_SEQ p.slot)
    raiseAs c.mid p 0x0001 sevInfo (b.rd F.PG_CUE_SEQ p.slot) 0 b) b
  let b := forEach c.pages (pageApplied old) b
  let b := if c.lds.isEmpty then b else policyLoose b
  let b := if c.pages.any fun p => p.blk == .ing || p.blk == .nif then refreshGroups b else b
  let b := forEach (List.range 32) (fun x b =>
    if vdcBound b x && c.lds.contains (b.rd F.VDC_CTRL_LAYER x)
      && wordsMoved old b (0x400000 + 256 * b.rd F.VDC_CTRL_LAYER x) (offsets 0x08 0x2C) then vdcRestart x b else b) b
  let b := forEach stages (fun st b => if enabled b (stgPage st) then planAllocFor new st b else b) b
  showEnds c (if ensState b = esMember then relayReroute false (wouldPlace b) b else b)
where
  /-- Store the allocation that the check found, for the values that the cue leaves in effect. -/
  planAllocFor (new : Blk) (st : Nat) (b : Blk) : Blk :=
    match allocate new st with
    | .ok gs => b.putStage st { b.stage st with allocDue := true, alloc := gs.map Grant.nums }
    | .error _ => b

/-- A cue is checked and taken, or refused: the reason, 0 when it was taken (R60). -/
def runCue (c : CueSet) (b : Blk) : Blk × Nat :=
  let words := c.words b
  match cueFails b words c with
  | [] => (takenCue c words b, 0)
  | f :: l => (refuseCue c (f :: l) b, f.reason)

/-! ### Armed cues -/

/-- A reserved point or stage at an arm (R62). -/
def reservedPoint (point stage : Nat) : Bool := Nat.blt 3 point || (point == 1 && Nat.blt 23 stage)

/-- The page's own cue or its group's cue is armed. -/
def pageArmed (b : Blk) (p : Page) : Bool :=
  (mget b.ctl.cues p.slot).isSome
    || (b.on F.PG_CTRL_GRP_EN p.slot && (mget b.ctl.groups (b.rd F.PG_CTRL_CUE_GRP p.slot)).isSome)

/-- The arm came with the lead that its point needs (R59): 233.3 ns, taken as 234. -/
def leadMet (b : Blk) (q : Cue) : Bool := Nat.ble (q.time + 234) b.now

def armPage (slot : Nat) (q : Option Cue) (b : Blk) : Blk :=
  { b with ctl := { b.ctl with cues := match q with | some q => mset b.ctl.cues slot q | none => mdel b.ctl.cues slot } }

def armGroup (g : Nat) (q : Option Cue) (b : Blk) : Blk :=
  { b with ctl := { b.ctl with groups := match q with | some q => mset b.ctl.groups g q | none => mdel b.ctl.groups g } }

/-- SYS_GCUE_LAST after a group cue. -/
def groupLast (g reason : Nat) (b : Blk) : Blk :=
  ((b.wr F.SYS_GCUE_LAST_GROUP 0 g).wr F.SYS_GCUE_LAST_REASON 0 reason).put F.SYS_GCUE_LAST_REFUSED 0 (reason != 0)

/-- The group cue that is armed is taken or refused at its point. -/
def takeGroup (g : Nat) (q : Cue) (b : Blk) : Blk :=
  let b := armGroup g none b
  let r := runCue (groupSet b g q.mid (q.point == 3)) b
  groupLast g r.2 r.1

/-- A page's own cue is taken or refused at its point. -/
def takePage (p : Page) (q : Cue) (b : Blk) : Blk := (runCue { pages := [p], mid := q.mid, shared := q.point == 3 } (armPage p.slot none b)).1

/-- Take every armed cue that a test picks: the groups, then the pages, each in ascending order. -/
def takeCues (due : Cue → Bool) (b : Blk) : Blk :=
  let gs := b.ctl.groups.filter fun e => due e.2
  let ps := b.ctl.cues.filter fun e => due e.2
  let b := forEach gs (fun e b => if mget b.ctl.groups e.1 = some e.2 then takeGroup e.1 e.2 b else b) b
  forEach ps (fun e b =>
    if mget b.ctl.cues e.1 = some e.2 then
      match pageOfSlot e.1 with
      | some p => takePage p e.2 b
      | none => b
    else b) b

/-- The immediate cue of a page or group that is due: 2 MGMT cycles after the arm (R59). -/
def immediateCue (group : Bool) (id : Nat) (b : Blk) : Blk :=
  match (if group then mget b.ctl.groups id else mget b.ctl.cues id) with
  | none => b
  | some q =>
    if q.point = 0 ∧ q.time + 10 ≤ b.now then
      if group then takeGroup id q b
      else match pageOfSlot id with
        | some p => takePage p q b
        | none => b
    else b

/-- CUE_TAKEN: an immediate cue. Cues at a curtain-up or a boundary are taken by CURTAIN_UP and EPOCH_BOUNDARY. -/
def execCueTaken (dt : Nat) (group : Bool) (id : Nat) (s : State) : Host.Outcome State Fault Refusal :=
  eff dt s (immediateCue group id)

/-! ### Proscenium commits (R188) -/

/-- The slots' checks of a commit: the first failing slot with its reason, none when all pass. -/
def commitFails (old new : Blk) (words : SMap Staged) (st : Nat) : Option (Nat × Nat) :=
  let slotOf (a : Nat) : Nat := (a % 0x1000 - 0x300) / 0x40
  let bad (k : Nat) : Nat :=
    if words.any fun e => slotOf e.1 == k && (reservedWord old e) then 0x01
    else if words.any fun e => slotOf e.1 == k && e.2.mid != 0 && (regCheck old e.2.mid e.1 true).isSome then 0x06
    else psSlotBad new st k
  match (List.range 8).find? fun k => bad k != 0 with
  | some k => some (k, bad k)
  | none => match allocate new st with
    | .ok _ => none
    | .error (slot, reason) => some (if 64 ≤ slot then slot - 64 else 0, reason)

/-- Step 2 of R175: a due proscenium commit of a stage. -/
def proscCommit (st : Nat) (b : Blk) : Blk :=
  if !b.on F.STG_PS_CTRL_ARMED st || Nat.blt b.now ((b.stage st).commitAt + 234) then b
  else
    let words := (proscStaged b st).filterMap (ripe b)
    let new := withWords words b
    let b := b.wr F.STG_PS_CTRL_ARMED st 0
    match commitFails b new words st with
    | some (k, r) => stgEvent st 0x102 sevWarning (r % 256 + 256 * k) (evB 2) (b.wr F.STG_PS_CTRL_REASON st r)
    | none =>
      let b := takeStaged words (applyWords words b)
      let b := (b.step F.STG_PS_CTRL_SEQ st).wr F.STG_PS_CTRL_REASON st 0
      let b := psRearm st b
      planAlloc st (stgEvent st 0x101 sevInfo (b.rd F.STG_PS_CTRL_SEQ st) (evB 2) b)

end Sys2Proof.Machine
end

