-- ==== Sys2Proof/Machine/Bus.lean ====
section
/-!
DEFINITION. Register accesses (R9, R11, R24, R43, R44, R56, R57, R61, R62, R67, R68, R337, R340, R368, R414, R476): what a word
reads as, what a granted write does by the access code of each field, and the path of an access from its port.
-/

namespace Sys2Proof.Machine

def errPage : Page := ⟨.err, 0⟩

/-- The page that records an event about an address; SYS for a range that belongs to no block. -/
def answers (a : Nat) : Page :=
  match target a with
  | .page p _ => p
  | .ring _ => errPage
  | .fresh _ => prmGlobal
  | .prop _ => acgPage
  | _ => sysPage

/-! ### Reading -/

/-- A field of a register that its table declares reserved on this instance (R44): it reads as 0 and takes nothing. DESIGN CHOICE (log
76): VDC_LOAD, which its table names for page 0 alone, counts as declared reserved on pages 1 to 31, so an access there records no event. -/
def Hit.reserved (h : Hit) : Bool :=
  match h.f.kind with
  | .lfp => h.f.off == F.LFP_REJ_VALID.off && h.i != 0
  | .vdc => h.f.off == F.VDC_LOAD_ALLOC.off && h.i != 0
  | .clkR => (h.f.off == F.CLK_REF_PTP_NIF.off && Nat.blt 4 h.i) || (h.f.off == F.CLK_REF_IN_FORMAT.off && !(h.i == 5 || h.i == 6))
  | _ => false

/-- The stored fields of a word as they read. -/
def fieldWord (b : Blk) (a : Nat) : Nat :=
  (hitsAt a).foldl (fun (acc : Nat) (h : Hit) =>
    if h.f.acc == .wo || h.reserved then acc else Nat.lor acc (fldWord h.f (b.rd h.f h.i h.k) h.j)) 0

/-- PG_STAT. -/
def pgStat (b : Blk) (p : Page) : Nat :=
  b2n (enabled b p) + 2 * b.rd F.PG_STAT_RESET_BUSY p.slot
    + 4 * b2n (!(stagedRange b (p.slot * 0x1000) (p.slot * 0x1000 + 0x1000)).isEmpty) + 8 * b2n (pageArmed b p)
    + 256 * b.rd F.PG_STAT_BLOCK p.slot

/-- PG_LOCK. -/
def pgLock (b : Blk) (p : Page) : Nat :=
  match acgSlot (p.slot * 0x1000) with
  | some k => b2n (slotLocked b k) + 256 * (if slotLocked b k then slotOwner b k else 0) + 65536 * b2n (dbgAdmitted b k)
      + 2 ^ 24 * (b.rd F.ACG_EPOCH_VALUE 0 % 256)
  | none => 0

/-- A word of a page header. -/
def headerWord (b : Blk) (p : Page) (o : Nat) : Nat :=
  match o with
  | 0x00 => 1 + 65536 * p.inst + 2 ^ 24 * p.blk.code
  | 0x04 => capsBlock b p + 2 ^ 16 * b2n p.stagedCap + 2 ^ 17 * b2n p.lockable + 2 ^ 18 * b2n p.resettable
  | 0x0C => pgStat b p
  | 0x20 => fieldWord b (p.slot * 0x1000 + 0x20) + 65536 * b2n (mget b.ctl.cues p.slot).isSome
  | 0x24 => pgLock b p
  | _ => fieldWord b (p.slot * 0x1000 + o)

/-- The groups that are armed, from group `n` on. -/
def gcueBusy (b : Blk) (n : Nat) : Nat :=
  (List.range 32).foldl (fun a k => a + 2 ^ k * b2n (mget b.ctl.groups (n + k)).isSome) 0

/-- SYS_SHOW_STAT (R441). -/
def showStat (b : Blk) : Nat :=
  b.sessions.length % 256 + 256 * (b.sessions.filter fun s => s.chan.isSome).length + 65536 * b.show_.heads.length
    + 2 ^ 22 * (b.show_.removed.length % 128)

/-- HSW_LIFE.KHOURS: the thousands of hours that the EEPROM held, with those since. -/
def khours (b : Blk) : Nat := Nat.min 65535 (b.rd F.HSW_LIFE_KHOURS 0 + goodTime b / 3600000000000000)

/-- A word of a block page from offset 0x040 on: the words that are views of the module's state, and the stored ones. -/
def pageWord (b : Blk) (p : Page) (o : Nat) : Nat :=
  let raw := fieldWord b (p.slot * 0x1000 + o)
  match p.blk with
  | .sys =>
    if o = 0x84 then gcueBusy b 0
    else if o = 0x88 then gcueBusy b 32
    else if o = 0x10C then (if b.pwr.at_ = 9 then (b.up - b.pwr.since) / 1000000000 else 0)
    else if o = 0x120 then showStat b
    else raw
  | .hsw => if o = 0x5C then raw % 2 ^ 16 + 2 ^ 16 * khours b else raw
  | .err =>
    if o = 0x4C then unread b + 65536 * b.rd F.ERR_STAT_MOVES 0
    else if o = 0x58 then b.ctl.severe.length + 256 * b.rd F.ERR_SQ_STAT_LOST 0
    else raw
  | .acg =>
    if p.inst = 0 ∧ o = 0x64 then propLeft b
    else if p.inst = 1 ∧ 0x800 ≤ o then imgWord b.acg.image ((o - 0x800) / 4)
    else if p.inst = 2 ∧ 0x400 ≤ o ∧ o < 0x850 then imgWord b.acg.image (512 + (o - 0x400) / 4)
    else if p.inst = 3 ∧ 0x400 ≤ o ∧ o < 0x800 then vlogWord b (o - 0x400)
    else raw
  | .dbg => if o = 0x40 then b.rd F.DBG_STAT_USED 0 + 2 * b2n (Nat.blt 0 (dbgSlots b)) + 4 * dbgSlots b else raw
  | .clk => if p.inst = 0 ∧ o = 0x90 then b.now % 2 ^ 32 else if p.inst = 0 ∧ o = 0x94 then b.now / 2 ^ 32 % 2 ^ 32
    else if p.inst = 0 ∧ o = 0x88 then raw % 2 ^ 16 + 2 ^ 16 * savedHours b else raw
  | .pair => if o = F.PAIR_STAT_READY.off then setBits raw F.PAIR_STAT_READY.lo 1 (b2n (readyNow b)) else raw
  | .xsd => if p.inst = 16 ∧ o = 0x40 then xsdLoadWord b else raw
  | .vec => if p.inst = 16 ∧ o = 0x40 then vecLoadWord b else raw
  | .vdc => if p.inst = 0 ∧ o = 0xC0 then vdcLoadWord b else if o = 0x7C then vdcSlotsWord b p.inst else raw
  | .stg =>
    if o = 0x4C then Nat.lor raw (2 ^ 16 * b2n (stageRuns b p.inst))
    else if o = 0x200 then Nat.lor raw (4 * b2n (!(proscStaged b p.inst).isEmpty))
    else raw
  | _ => raw

/-- A word of RO fields whose domain has no clock, so that they read their reset values: NETn with SPEED at 0, PIXn while the head's
timing generator does not run (chapters 4 and 8). -/
def clockOff (b : Blk) (p : Page) (o : Nat) : Bool :=
  match p.blk with
  | .ohd => !headRuns b p.inst && o == F.OHD_GL_ERR_ERR.off
  | .nif => b.rd F.NIF_CFG_SPEED p.inst == 0 && Nat.ble F.NIF_STAT_LINK.off o && Nat.ble o F.NIF_FEC_UNCORR_COUNT.off
  | _ => false

/-- A word from offset 0x040 on that a soft reset of its page keeps. -/
def softKept (p : Page) (o : Nat) : Bool :=
  match p.blk with
  | .stg => Nat.ble 0x100 o
  | .sig => Nat.ble 0x100 o
  | .prm => p.inst == 24 && Nat.blt o 0x400
  | .lfp => o == F.LFP_CFG_STAGE.off
  | _ => false

/-- Fields of the page are held at their reset values by a soft reset in progress (R56). -/
def resetHolds (b : Blk) (a : Nat) : Bool :=
  match target a with
  | .page p o => b.on F.PG_STAT_RESET_BUSY p.slot && Nat.ble 0x40 o && !softKept p o
  | _ => false

/-- What a word reads as. -/
def readPure (b : Blk) (a : Nat) : Nat :=
  match target a with
  | .page p o =>
    if o < 0x40 then headerWord b p o
    else if resetHolds b a || clockOff b p o then fieldWord { b with regs := [] } a
    else pageWord b p o
  | .ring o => match mget b.ctl.ring (o / 16) with
    | some r => r.words.getD (o % 16 / 4) 0
    | none => 0
  | .desc l o =>
    if o = 0 then Nat.lor (fieldWord b a) (4 * sourceOf b l)
    else if o = 0x80 then ldStatWord b l
    else if o = 0x84 then ldFrameWord b l
    else fieldWord b a
  | .scene _ _ => fieldWord b a
  | .sceneState o => (sceneEntry b (o / 8)).getD (o % 8 / 4) 0
  | .fresh o => freshWord b o
  | .prop o => areaWord b o
  | .member _ _ => 0
  | .none_ => 0

/-- The lowest word of the status value that a word belongs to, and how many words the value has (R24); one word for the rest. -/
def statusSpan (a : Nat) : Nat × Nat :=
  let run (base n : Nat) : Nat × Nat := (a - (a - base) % (4 * n), n)
  match target a with
  | .page p o =>
    if p.blk = .acg ∧ p.inst = 3 ∧ 0x400 ≤ o ∧ o < 0x800 then run (p.slot * 0x1000 + 0x400) 4
    else if p.blk = .acg ∧ p.inst = 0 ∧ 0x70 ≤ o ∧ o < 0x80 then run 0x20070 4
    else if p.blk = .err ∧ 0x70 ≤ o ∧ o < 0x80 then run 0x10070 4
    else if p.blk = .sys ∧ 0x50 ≤ o ∧ o < 0x58 then run 0x50 2
    else match (hitsAt a).find? fun h => h.f.acc == .ro && Nat.blt 1 h.f.words with
      | some h => (a - 4 * h.j, h.f.words)
      | none => (a, 1)
  | .sceneState _ => run 0x580000 2
  | .fresh o =>
    if o < 0x10000 then run 0x600000 4
    else if 0xD0000 ≤ o ∧ o < 0xF0000 then run 0x6D0000 8
    else (a, 1)
  | _ => (a, 1)

/-- A read of a word, with the snapshot of R24. -/
def readSnap (a : Nat) (b : Blk) : Blk × Nat :=
  let s := statusSpan a
  if s.2 ≤ 1 then (b, readPure b a)
  else if s.1 = a then
    let snaps := (List.range s.2).foldl (fun (m : SMap Nat) k => mset m (a + 4 * k) (readPure b (a + 4 * k))) b.ctl.snaps
    ({ b with ctl := { b.ctl with snaps := snaps } }, readPure b a)
  else (b, (mget b.ctl.snaps a).getD (readPure b a))

/-- A read of ERR_SQ_DATA0 by MID 0x04: the oldest severe record becomes the snapshot, zeros when there is none. -/
def popSevere (b : Blk) : Blk :=
  match b.ctl.severe with
  | [] => putWords F.ERR_SQ_DATA_WORD [0, 0, 0, 0] b
  | r :: l => putWords F.ERR_SQ_DATA_WORD r.words { b with ctl := { b.ctl with severe := l } }

/-- A granted read, with what the read itself changes. -/
def readWord (mid a : Nat) (b : Blk) : Blk × Nat :=
  if mid = 0x04 ∧ a = 0x10060 then
    let b := popSevere b
    (b, readPure b a)
  else if mid = 0x04 ∧ a = 0x10058 then (b.wr F.ERR_SQ_STAT_LOST 0 0, readPure b a)
  else readSnap a b

/-! ### Soft reset (R56) -/

/-- Return the registers of a page that a soft reset returns to their reset values. -/
def pageToReset (p : Page) (b : Blk) : Blk :=
  { b with regs := b.regs.filter fun e =>
      let o := e.1 / 32 - p.slot * 0x1000
      !(e.1 / 32 / 0x1000 == p.slot && Nat.ble 0x40 o && !softKept p o) }

/-- What the block itself does at a soft reset, its registers already at their reset values. -/
def blockReset (old : Blk) (p : Page) (b : Blk) : Blk :=
  let i := p.inst
  match p.blk with
  | .prm => if i = 24 then policyChanged b else prmSoftReset i b
  | .ing => refreshGroups (restartFed old i (ingRestart i b))
  | .nif => refreshGroups b
  | .stg => stageEnabled i b
  | .ohd =>
    let b := ohdSoftReset i (i % 2 == 0 && headTaken old (i + 1)) b
    if i % 2 = 0 then unitRefresh (headUnit (i + 1)) b else b
  | .xsd => xsdRestart i b
  | .vdc => vdcRestart i b
  | .vec => vecStop i b
  | .crc => b.putCrc i {}
  | .lane => laneSoftReset i b
  | .chn => chnSoftReset i b
  | .sig => contactsRestart b
  | _ => b

/-- What a block stops at a soft reset, while its registers still stand. DESIGN CHOICE (log 79): a frame in assembly that a soft reset of
its ING page discards counts as discarded by a reconfiguration, event 0x0100 with detail 4 (R140); a link that a soft reset of its NIF page
takes down has cause 3, event 0x0101 (R141). -/
def blockStops (p : Page) (b : Blk) : Blk :=
  match p.blk with
  | .ing => dropAsms p.inst 4 b
  | .nif => let b := nifDown p.inst 3 b
    if (b.unit p.inst).state = stOff then b else unitStop p.inst b
  | .crc => crcAbort p.inst b
  | _ => b

/-- A write of PG_CTRL.SOFT_RESET (R56). An LFP pipe that a stage uses ignores it (event 0x0106). -/
def softReset (mid : Nat) (p : Page) (b : Blk) : Blk :=
  if !p.resettable then b
  else if p.blk = .lfp ∧ b.rd F.LFP_CFG_STAGE p.inst ≠ 31 then raiseAs mid p 0x106 sevNotice (2 ^ 15 * p.inst) 0 b
  else
    let old := b
    let b := blockStops p (dropStaged (pageStaged b p) (armPage p.slot none b))
    let b := if p.blk = .sig then b else b.wr F.PG_CTRL_ENABLE p.slot 0
    (blockReset old p (pageToReset p b)).wr F.PG_STAT_RESET_BUSY p.slot 1

/-! ### Arming (R61 to R63) -/

/-- An ignored arm: event 0x0006. -/
def armIgnored (mid why : Nat) (p : Page) (b : Blk) : Blk := raiseAs mid p 0x0006 sevNotice why 0 b

/-- An arm of a page's own cue, at the point and stage that stand. -/
def armCue (mid : Nat) (p : Page) (at_ : Nat) (b : Blk) : Blk :=
  let point := b.rd F.PG_CUE_POINT p.slot
  let stage := b.rd F.PG_CUE_STAGE p.slot
  if reservedPoint point stage then armIgnored mid 3 p b
  else if b.on F.PG_CTRL_GRP_EN p.slot then armIgnored mid 2 p b
  else if (mget b.ctl.cues p.slot).isSome then armIgnored mid 1 p b
  else armPage p.slot (some ⟨point, stage, at_, mid⟩) b

/-- A write of PG_CUE: DISCARD, DISARM, ARM in this order (R62). Proscenium words are not a cue's (R188). -/
def cueWrite (mid : Nat) (p : Page) (data at_ : Nat) (b : Blk) : Blk :=
  let b := if bit data 18 then dropStaged (pageStaged b p) b else b
  let b := if bit data 17 then armPage p.slot none b else b
  if bit data 16 then armCue mid p at_ b else b

/-- A write of SYS_GCUE: DISARM before ARM, of the group, point and stage of the same write (R62). -/
def gcueWrite (mid data at_ : Nat) (b : Blk) : Blk :=
  let g := bits data 0 6
  let b := if bit data 25 then armGroup g none b else b
  if !bit data 24 then b
  else if reservedPoint (bits data 8 3) (bits data 16 5) then armIgnored mid 3 sysPage b
  else if (mget b.ctl.groups g).isSome then armIgnored mid 1 sysPage b
  else armGroup g (some ⟨bits data 8 3, bits data 16 5, at_, mid⟩) b

/-! ### What a write does beside storing fields -/

/-- SYS_HOST_CLAIM.CLAIM (R442). -/
def claimBy (mid : Nat) (b : Blk) : Blk :=
  if !(mid == 0x01 || mid == 0x04) || b.on F.SYS_HOST_CLAIM_CLAIM 0 then b
  else
    let b := (b.wr F.SYS_HOST_CLAIM_CLAIM 0 1).wr F.SYS_HOST_CLAIM_BY 0 mid
    let b := raiseAs mid sysPage 0x101 sevNotice mid (evB 1) b
    match b.rd F.SYS_STAT_SHOW 0 with
    | 0 => b.wr F.SYS_STAT_SHOW 0 3
    | 1 => { b with show_ := { b.show_ with claimed := true } }
    | _ => b

/-- A write of STG_PS_CTRL.COMMIT (R188): ignored while a commit is armed. -/
def psArm (st at_ : Nat) (b : Blk) : Blk :=
  if b.on F.STG_PS_CTRL_ARMED st then b
  else (b.putStage st { b.stage st with commitAt := at_ }).wr F.STG_PS_CTRL_ARMED st 1

/-- A write of PAIR_CTRL.RESYNC on the understudy (R344). -/
def resync (b : Blk) : Blk :=
  if role b ≠ roUnderstudy then b
  else (b.putPr { b.pr with ackDue := some (b.rd F.PAIR_COMMITTED_EPOCH 0, false, true), syncAt := b.now, rx := [], staging := [],
                            waitEnd := none, ends := [], syncS := none }).wr F.PAIR_STAT_SYNC 0 1

/-- A header word was written: `fields` already stored. -/
def headerWrote (mid : Nat) (p : Page) (o data at_ : Nat) (same copy : Bool) (b : Blk) : Blk :=
  let s := p.slot
  match o with
  | 0x08 => if bit data 1 then softReset mid p b else b
  | 0x10 => if copy then b else resendVector p b
  | 0x14 => resendVector p b
  | 0x18 => if bit data 31 ∧ !copy then
      -- an event of the same cycle leaves COUNT at 1 (R57)
      b.wr F.PG_ERRCNT_COUNT s (b2n (same || freshFlags b (s * 0x1000 + 0x1C) != 0)) else b
  | 0x1C => if bit data 31 ∧ !copy then
      recapture (s * 0x1000 + 0x1C)
        (fun b => ((b.rstF F.PG_FIRST_ERR_CODE s).rstF F.PG_FIRST_ERR_DETAIL s).rstF F.PG_FIRST_ERR_SEV s) b else b
  | 0x20 => cueWrite mid p data at_ b
  | _ => b

/-- A word of the CLK pages was written. -/
def clkWrote (p : Page) (o data : Nat) (b : Blk) : Blk :=
  if p.inst ≠ 0 then selectorDue (clkConfigured (p.inst - 1) b)
  else if o = F.CLK_LEARN_SAVE.off then
    let b := if bit data 1 then learningClear b else b
    if bit data 0 then learningSave b else b
  else if o = F.CLK_TOD_SEC_SEC.off + 4 then (if bit data 31 then todApply b else b)
  else if o = F.CLK_UTC_OFFSET.off then refreshUtc b
  else if o = F.CLK_CFG_MODE.off then selectorDue (clkConfigured 8 b)
  else b

/-- A word of a LANE page was written. -/
def laneWrote (l o data : Nat) (b : Blk) : Blk :=
  if o = F.LANE_EYE_CTRL_START.off then
    let b := if bit data 1 then eyeAbort l b else b
    if bit data 0 then eyeStart l b else b
  else if o = F.LANE_MARGIN_CFG_REBASE.off ∧ bit data 15 then b.putLane l { b.lane l with rebase := true }
  else b

/-- A word of the ACG control page was written. -/
def acgWrote (mid : Nat) (p : Page) (o data : Nat) (b : Blk) : Blk :=
  if p.inst ≠ 0 then b
  else match o with
    | 0x50 => propCtrlWrite mid data b
    | 0x54 => digestBy mid data b
    | 0x58 => signBy mid data b
    | 0x68 => violClear mid data b
    | 0x74 => if bit data 31 then recapture 0x20074 id b else b
    | _ => b

/-- A word of a contact's configuration was written (R196). -/
def sigWrote (old : Blk) (o : Nat) (b : Blk) : Blk :=
  match (List.range 16).find? fun j => o == F.SIG_CFG_EN.off + j * F.SIG_CFG_EN.step with
  | some j => contactConfigured j (sigOn old j) (old.on F.SIG_CFG_ACTIVE_HIGH 0 j) b
  | none => b

/-- A block word of a local page was written: fields already stored. DESIGN CHOICE (log 76): vector 0 goes out again after a write of
ERR_RD_IDX that is taken, not after one that R68 discards. -/
def localWrote (mid : Nat) (p : Page) (o data at_ : Nat) (b : Blk) : Blk :=
  match p.blk with
  | .sys =>
    if o = 0x80 then gcueWrite mid data at_ b
    else if o = 0x100 then (if bit data 0 then claimBy mid b else b)
    else if o = 0x118 then resetKey (data % 65536) b
    else b
  | .err =>
    if o = 0x40 then (if bit data 31 then (b.rstRange 0x10050 0x10058) else b)
    else if o = 0x48 then (if unread b ≠ 0 then sendVector 0 b else b)
    else b
  | .acg => acgWrote mid p o data b
  | .thm => if o = F.THM_CFG_HYST.off then applyStep b else if 0x50 ≤ o ∧ o < 0x64 then thmRefresh b else b
  | .hsw =>
    if o = 0x54 then (if bit data 0 then ejectWarning 2 b else b)
    else if o = 0x58 ∧ bit data 31 then recapture 0x50058 (fun b => b.wr F.HSW_FAULT_CODE 0 0) b
    else b
  | .clk => clkWrote p o data b
  | .lane => laneWrote p.inst o data b
  | .chn => if o = F.CHN_CFG_EN.off then unitRefresh (chnUnit p.inst) b else b
  | .pair =>
    if o = 0x44 then
      let b := if bit data 1 then refreshReady (b.wr F.PAIR_STAT_DR_FAULT 0 0) else b
      let b := if bit data 2 then resync b else b
      if bit data 0 then pairSwitch b else b
    else if o = 0x40 then pairForm b
    else b
  | .ens => if o = 0x40 then ringJoin b else b
  | .mem => if o = 0x5C ∧ p.inst < 8 ∧ bit data 31 then recapture (0x2A005C + 0x1000 * p.inst) id b else b
  | _ => b

/-- The fields of PRM_FLOOR. -/
def floorFields : List Fld := [F.PRM_FLOOR_MIN_DIM, F.PRM_FLOOR_FL_REQUIRED, F.PRM_FLOOR_BADGE_REQUIRED, F.PRM_FLOOR_BORDER_REQUIRED,
  F.PRM_FLOOR_STALE_CAP]

/-- PRM_FLOOR was written: what stood before is kept, until a change that is still crossing has arrived (R101). -/
def floorChanged (old b : Blk) : Blk :=
  if old.up < old.prm.floorAt + 14 then { b with prm := { b.prm with floorAt := b.up } }
  else { b with prm := { b.prm with floorAt := b.up, floorWas := floorFields.map fun f => (f.key 24 0, old.rd f 24) } }

/-- A block word of a copied page was written: fields already stored. On the understudy (`copy`) only the actions of R336
happen. -/
def copiedWrote (old : Blk) (p : Page) (o data at_ : Nat) (copy : Bool) (b : Blk) : Blk :=
  match p.blk with
  | .prm =>
    if p.inst ≠ 24 then b
    else if o = 0x40 then policyChanged (floorChanged old b)
    else if o = F.PRM_LOG_WRAPS_CLEAR.off ∧ bit data 31 ∧ !copy then b.wr F.PRM_LOG_WRAPS_COUNT 24 0
    else b
  | .lfp => if o = F.LFP_REJ_VALID.off ∧ p.inst = 0 ∧ bit data 31 ∧ !copy then
      recapture 0x1C0050 (fun b => ((b.rstF F.LFP_REJ_ENTRY 0).rstF F.LFP_REJ_KIND 0).rstF F.LFP_REJ_REASON 0) b else b
  | .stg => if o = 0x200 ∧ bit data 0 then psArm p.inst at_ b else b
  | .vec => if o = F.VEC_CTRL_FORCE_IDR.off ∧ p.inst < 16 ∧ bit data 0 then vecForceIdr p.inst b else b
  | .sig =>
    if o = F.SIG_SUPPRESSED_CLEAR.off then (if bit data 31 ∧ !copy then b.wr F.SIG_SUPPRESSED_COUNT 0 0 else b)
    else sigWrote old o b
  | .crc => if o = F.CRC_CTRL_START.off ∧ !copy then
      let b := if bit data 1 then crcAbort p.inst b else b
      if bit data 0 then crcStartWrite p.inst b else b
    else b
  | _ => b

/-! ### A granted write -/

/-- A write by `mid` leaves this field alone: it is restricted to another MID (R412), or reserved on this instance. -/
def fieldBarred (mid : Nat) (h : Hit) : Bool := h.reserved || (h.f.safeField && !(mid == 0x04 || mid == 0x20 || mid == 0))

/-- The words whose values must stand in an order among themselves (R68, R294, R432, R452). -/
def orderBad (b : Blk) (a data : Nat) : Bool :=
  match target a with
  | .page p o =>
    match p.blk with
    | .hsw => o == 0x50 && Nat.blt (bits data 0 8) (bits data 8 8)
    | .thm => Nat.ble 0x50 o && Nat.blt o 0x64 && !threshOk b ((o - 0x50) / 4) data
    | .clk => p.inst == 0 && o == F.CLK_GUARD_WARN_T.off && Nat.blt (bits data 0 12) (bits data 12 12)
    | .err => o == 0x48 && Nat.blt ((b.rd F.ERR_WR_IDX_IDX 0 + 65536 - b.rd F.ERR_RD_IDX_IDX 0) % 65536)
        ((data % 65536 + 65536 - b.rd F.ERR_RD_IDX_IDX 0) % 65536)
    | _ => false
  | _ => false

/-- A value that a field of this instance may take (R9): on REF4, CLK_REF_IN.FORMAT ends at 7; on REF5 its two upper bits are reserved. -/
def Hit.legal (h : Hit) (v : Nat) : Bool :=
  if h.f.kind == .clkR && h.f.off == F.CLK_REF_IN_FORMAT.off && h.f.lo == 0 then h.i == 6 || Nat.ble v 7 else h.f.legal v

/-- A value without the bits that are reserved on this instance. -/
def Hit.cut (h : Hit) (v : Nat) : Nat :=
  if h.f.kind == .clkR && h.f.off == F.CLK_REF_IN_FORMAT.off && h.f.lo == 0 && h.i == 6 then v % 4 else v

/-- The word holds a reserved encoding of an RW or RWL field, or values out of order (R9). -/
def valueBad (b : Blk) (mid a data : Nat) : Bool :=
  orderBad b a data || (hitsAt a).any fun h =>
    (h.f.acc == .rw || h.f.acc == .rwl) && !fieldBarred mid h && !h.legal (fldMerge h.f (b.rd h.f h.i h.k) h.j data)

/-- RWS fields of the word are staged: its page has PG_CAPS.STAGED, or it lies in the layer descriptor or scene table. -/
def stages (a : Nat) : Bool :=
  match target a with
  | .page p _ => p.stagedCap
  | .desc _ _ => true
  | .scene _ _ => true
  | _ => false

/-- Store one field of a written word by its access code (R11); a flag that an event has set in the same MGMT cycle stays set (R13). -/
def storeField (mid a data : Nat) (copy : Bool) (h : Hit) (b : Blk) : Blk :=
  let v := h.cut (fldMerge h.f (b.rd h.f h.i h.k) h.j data)
  if fieldBarred mid h then b
  else match h.f.acc with
    | .rw => b.wr h.f h.i v h.k
    | .rwl => b.wr h.f h.i v h.k
    | .rws => if stages a || (resetHolds b (a + 0x40)) then b else b.wr h.f h.i v h.k
    | .w1c => if copy then b
      else b.wr h.f h.i (cleared (b.rd h.f h.i h.k) (fldMerge h.f 0 h.j (cleared data (freshFlags b a)))) h.k
    | _ => b

/-- What stood staged for a word before the present MGMT cycle: a cue taken in this cycle applies it (R12). -/
def stagedBefore (b : Blk) (a : Nat) : Option (Nat × Nat) :=
  match mget b.ctl.staged a with
  | some e => if e.cycle = mgmtCycle b then e.prev else some (e.data, e.mid)
  | none => none

/-- Stage the word when it holds an RWS field (R12); PG_CTRL.ENABLE is discarded during a soft reset (R56). -/
def stageWord (mid a data : Nat) (copy : Bool) (b : Blk) : Blk :=
  let busy := match target a with | .page p o => o == 0x08 && b.on F.PG_STAT_RESET_BUSY p.slot | _ => false
  if stages a && !busy && (hitsAt a).any (fun h => h.f.acc == .rws) then
    let e : Staged := { data := data % 2 ^ 32, mid := mid, cycle := if copy then 0 else mgmtCycle b, prev := stagedBefore b a }
    { b with ctl := { b.ctl with staged := mset b.ctl.staged a e } }
  else b

/-- A granted write to a register word. `at_` is the time at which it takes effect, `ident` its epoch and record index; `copy`
says that the pair engine applies it on the understudy. -/
def wordWrite (mid a data at_ ident : Nat) (same copy : Bool) (b : Blk) : Blk :=
  if resetHolds b a then b
  else if valueBad b mid a data then raiseAs mid (answers a) 0x0007 sevNotice (a % 0x1000) 0 b
  else
    let old := b
    let b := forEach (hitsAt a) (storeField mid a data copy) (stageWord mid a data copy b)
    match target a with
    | .page p o =>
      if o < 0x40 then headerWrote mid p o data at_ same copy b
      else copiedWrote old p o data at_ copy (localWrote mid p o data at_ b)
    | .desc l o => if o = 0x2C ∧ bit data 31 then
        -- the show publishes a caption before the cue that brings its description into effect (R440)
        publish mid l (bits data 0 2) at_ ident (bit data 2) (if mid = 0 then applyWords (descStaged b l) b else b) b
      else b
    | _ => b

/-- A granted write to any address. -/
def grantedWrite (port mid a data at_ ident : Nat) (same copy : Bool) (b : Blk) : Blk :=
  match target a with
  | .ring o => raiseAs mid errPage 0x0007 sevNotice o 0 b
  | .fresh o => raiseAs mid prmGlobal 0x106 sevNotice (o / 4) 0 b
  | .prop o => areaWrite port mid o data b
  | .page _ _ =>
    let b' := wordWrite mid a data at_ ident same copy b
    if changesRestricted b a mid data && !valueBad b mid a data then regViolation port mid a 3 b' else b'
  | .desc _ _ => wordWrite mid a data at_ ident same copy b
  | .scene _ _ => wordWrite mid a data at_ ident same copy b
  | _ => b

end Sys2Proof.Machine
end

