-- ==== Sys2Proof/Machine/Ports.lean ====
section
/-!
DEFINITION. The ports (chapter "Ports, pages and cues", R340, R368 to R371, R426): the path of a write and of a read from its
port to its target, the safety port, SMBus and PMBus, the debug access unit, and the commands that write one register.
-/

namespace Sys2Proof.Machine

/-! ### The path of a write -/

/-- The shared ranges accept no write on this module (R368, R382). -/
def sharedClosed (b : Blk) : Bool := Nat.ble esCopying (ensState b) && Nat.ble (ensState b) esMember
  && (!isLead b || b.on F.ENS_STAT_ISOLATED 0)

/-- A message to every member goes on from here, around the ring and across port 3 to the ring beneath. -/
def sendAround (origin : Nat) (ports : List Nat) (words : List Nat) (b : Blk) : Blk :=
  forEach ((ports.filter fun q => passesOn b origin q) ++ (if b.ens.junction = 1 ∧ chnUp b 3 then [3] else [])) (fun p b => chnSend p 5 words b) b

/-- The lead sends a write to a shared range, or a group arm at point 3, to the other members on channel 5 (R371, R378). -/
def sharedForward (mid a data : Nat) (b : Blk) : Blk :=
  if isLead b && ensState b == esMember
      && (sharedRange a || (a == 0x80 && bit data 24 && bits data 8 3 == 3)) then
    -- a publish acts at the layer's home alone (R372)
    let data := match target a with | .desc _ o => if o = 0x2C then data % 2 ^ 31 else data | _ => data
    sendAround (ownPos b) [1, 2] [a, mid, data, 1] b
  else b

/-- The record of a copied write, and the time record of a publish (R336, R339, R343). -/
def copyRecord (mid a data : Nat) (b : Blk) : Blk :=
  let b := addRecord (0, mid, a / 4, data % 2 ^ 32) b
  match target a with
  | .desc _ o => if o = 0x2C ∧ bit data 31 then addRecord (1, mid, a / 4, b.now % 2 ^ 32) b else b
  | _ => b

/-- A write that access control grants: discarded where copied or shared ranges take no writes, held while the epoch is full, or
applied, copied and shared. -/
def acceptWrite (port mid a data : Nat) (same : Bool) (b : Blk) : Blk :=
  let copied := copiedRange a && (mid == 0x01 || mid == 0x04)
  let sends := copied && copying b
  if copied && copyDiscards b then discardCopy mid a b
  else if sharedRange a && sharedClosed b then raiseAs mid ensPage 0x108 sevNotice (a / 4) 0 b
  else if sends && epochFull b 2 then holdWrite mid false a [data] b
  else
    let ident := b.rd F.PAIR_EPOCH_EPOCH 0 % 65536 * 65536 + b.pr.recs.length % 65536
    let ok := !valueBad b mid a data
    let b := if mid = 0x08 then debugUse a true b else b
    let b := grantedWrite port mid a data b.now ident same false b
    if !ok then b
    else
      let b := if copied then stampWrite (b.rd F.PAIR_EPOCH_EPOCH 0) a b else b
      let b := if sends then copyRecord mid a data b else b
      sharedForward mid a data b

/-! ### Member windows (R369, R370) -/

/-- The member that a window names, with its path and depth. -/
def windowPath (b : Blk) (j : Nat) : Option (Nat × Nat) :=
  if isLead b && ensState b == esMember && b.on F.ENS_WIN_VALID 0 j then some (b.rd F.ENS_WIN_PATH 0 j, b.rd F.ENS_WIN_DEPTH 0 j)
  else none

/-- The positions of a path, from the top ring downward. -/
def pathList (path depth : Nat) : List Nat := (List.range (depth + 1)).map fun k => bits path (3 * k) 3

/-- An access through member window `j` at offset `o`, on the lead: carried on channel 5 toward the member, of a pair toward its ACTIVE
module (R369). `value` is what the target answers to a read, `lost` that the target was lost meanwhile. Shared ranges are not reached
(R371). -/
def windowAccess (mid j o data value : Nat) (write lost : Bool) (b : Blk) : Blk :=
  let answer (v : Nat) (b : Blk) : Blk := if write then b else b.emit (.word v 0)
  match windowPath b j with
  | none => answer 0 b
  | some (path, depth) =>
    if sharedRange o then answer 0 b
    else if lost then
      answer 0 (if write then b else ensEvent 0x101 sevWarning (path % 8) (evB 0) b)
    else match toward b (pairActive b (path % 8)) with
      | none => answer 0 b
      | some p => answer (value % 2 ^ 32) (chnSend p 5 ([o, mid, data % 2 ^ 32, b2n write] ++ pathList path depth) b)

/-! ### A write from a port -/

/-- A write of one word (R43, R44, R409, R411). -/
def busWrite (port mid a0 data be : Nat) (misroute same : Bool) (b : Blk) : Blk :=
  let a := a0 / 4 * 4
  if be % 16 ≠ 15 then raiseAs mid (answers a) 0x0004 sevNotice (a % 0x1000) 0 b
  else if b.on F.PAIR_EPOCH_FILL_HELD 0 && (mid == 0x01 || mid == 0x04) then holdWrite mid false a [data] b
  else if !mapped a then raiseAs mid sysPage 0x0005 sevNotice (a / 4) 0 b
  else if misroute && b.rd F.ACG_MODE_MODE 0 == 0 then regViolation port mid a 4 b
  else match regCheck b mid a true with
    | some k => regViolation port mid a k b
    | none => match target a with
      | .member j o => windowAccess mid j o data 0 true false b
      | _ => acceptWrite port mid a data same b

/-- A read of one word: its value, and whether it was refused (R43, R44, R414). -/
def busRead (port mid a0 : Nat) (b : Blk) : Blk × Nat × Bool :=
  let a := a0 / 4 * 4
  if !mapped a then (raiseAs mid sysPage 0x0005 sevNotice (a / 4) 0 b, 0, false)
  else match regCheck b mid a false with
    | some k => (regViolation port mid a k b, 0, true)
    | none =>
      let r := readWord mid a (if mid = 0x08 then debugUse a false b else b)
      (r.1, r.2, false)

/-- A write request of several words, each with its byte enables, is split into single-word writes in ascending order (R43). A request
carries the MID of the port that it came through, and so its MID tells its port (R40). -/
def busWrites (mid addr : Nat) (words : List (Nat × Nat)) (misroute : Bool) (b : Blk) : Blk :=
  forEach words.zipIdx (fun w b => busWrite (midPort mid) mid (addr + 4 * w.2) w.1.1 w.1.2 misroute false b) b

/-- One byte of a word written with byte enables. -/
def mergeByte (data be v k : Nat) : Nat := if bit be k then setBits v (8 * k) 8 (bits data (8 * k) 8) else v

/-- A word with the bytes of another where their enables are set. -/
def mergeBytes (old data be : Nat) : Nat := (List.range 4).foldl (mergeByte data be) old

/-- A write of the operations host through BAR4 (R41): the MSI-X table takes the bytes that are enabled, the pending-bit array none. -/
def bar4Write (addr : Nat) (words : List (Nat × Nat)) (b : Blk) : Blk :=
  forEach words.zipIdx (fun w b =>
    let k := addr / 4 + w.2
    let v := mergeBytes (mgetD b.ctl.msixTable k 0) w.1.1 w.1.2 % 2 ^ 32
    if k < 2048 then { b with ctl := { b.ctl with msixTable := mset b.ctl.msixTable k v } }
    else b) b

/-- REGISTER_WRITE. `bar4` says that a write of the operations host came through BAR4; no other port has one. -/
def execRegisterWrite (dt mid : Nat) (bar4 : Bool) (addr : Nat) (words : List (Nat × Nat)) (misroute : Bool) (s : State) :
    Host.Outcome State Fault Refusal :=
  effM dt s fun b m =>
    (if bar4 && mid == 0x01 then bar4Write addr words b else announce b (busWrites mid addr words misroute b) m, m)

/-! ### Host port A -/

/-- HOST_PORT_RESET (R42): the link goes down, and the configuration space and the MSI-X table of the port return to their reset
values; pending bits stay. -/
def execHostPortReset (dt : Nat) (s : State) : Host.Outcome State Fault Refusal :=
  eff dt s fun b => { b with ctl := { b.ctl with hostUp := false, busMaster := false, msixTable := [] } }

/-- MSIX_PENDING_SEND (R42): the link and bus mastering come to a state; held messages go out when both allow it. -/
def execMsixPendingSend (dt : Nat) (up bme : Bool) (s : State) : Host.Outcome State Fault Refusal :=
  eff dt s fun b =>
    let l := b.ctl.msixPending
    let b := { b with ctl := { b.ctl with hostUp := up, busMaster := bme } }
    if up && bme then forEach l (fun v (b : Blk) => b.emit (.msix v)) { b with ctl := { b.ctl with msixPending := [] } } else b

/-! ### The safety port (R47 to R51) -/

/-- What a safety port address maps to: a frame-store flag and an address; none through a window whose BASE is out of range. -/
def safetyMap (b : Blk) (x : Nat) : Option (Bool × Nat) :=
  let w := x % 2 ^ 24 / 0x400000
  let o := x % 0x400000
  if w = 0 then some (false, o)
  else
    let base := b.rd F.SYS_SWIN_BASE 0 (w - 1)
    let store := b.on F.SYS_SWIN_SPACE 0 (w - 1)
    if (if store then Nat.blt base (usable b / 0x400000) else Nat.ble base 15) then some (store, base * 0x400000 + o) else none

/-- A read of one frame-store word outside MEM_ACCESS: its value and result. -/
def storeRead (mid a : Nat) (b : Blk) (m : FrameStore) : Blk × FrameStore × Nat × Nat :=
  let r := memAccess mid a 4 false false [] 0 0 false b m
  match r.1.out.getLast? with
  | some (.word v q) => ({ r.1 with out := r.1.out.dropLast }, r.2, v, q)
  | _ => (r.1, r.2, 0, 0)

/-- A write of a granted word that countersigning refuses as out of turn (R424). -/
def turnRefused (mid a data : Nat) (b : Blk) : Bool :=
  match target a with
  | .prop o => Nat.blt (o / 4) 788 && submitRefused mid b
  | .page p o => p.blk == .acg && p.inst == 0 && (match o with
    | 0x50 => propCtrlRefused mid data b
    | 0x54 => submitRefused mid b
    | 0x58 => signRefused mid b
    | _ => false)
  | _ => false

/-- A write of a word is refused by access control or as out of turn, and so a violation is recorded (R416). -/
def writeRefused (mid a data : Nat) (b : Blk) : Bool :=
  mapped a && !(b.on F.PAIR_EPOCH_FILL_HELD 0 && (mid == 0x01 || mid == 0x04)) && ((regCheck b mid a true).isSome || turnRefused mid a data b)

/-- One word of an accepted safety port WRITE; the flag says that it was refused. -/
def safetyWord (at_ : Option (Bool × Nat)) (data : Nat) (b : Blk) (m : FrameStore) : Blk × FrameStore × Bool :=
  match at_ with
  | none => (b, m, false)
  | some (false, a) => (busWrite 2 0x04 a data 15 false false b, m, writeRefused 0x04 (a / 4 * 4) data b)
  | some (true, a) =>
    let r := memAccess 0x04 a 4 true false (leBytes 4 data) 0 0 false b m
    (r.1, r.2, !fsGranted b 0x04 a true)

/-- The bytes of a transaction that the check covers: command, address, data. -/
def safetyBytes (cmd addr : Nat) (words : List Nat) : List Nat :=
  [cmd, addr / 65536 % 256, addr / 256 % 256, addr % 256] ++ words.flatMap (leBytes 4)

def putResult (r : Nat) (b : Blk) : Blk := { b with ctl := { b.ctl with spResult := r } }

/-- A safety port WRITE (R48, R51, R414). DESIGN CHOICE (log 76): STATUS.WRITES counts every WRITE whose framing and check are good, one all
of whose words access control refuses among them. -/
def safetyWrite (addr : Nat) (words : List Nat) (check : Nat) (clean : Bool) (b : Blk) (m : FrameStore) : Blk × FrameStore :=
  let n := words.length
  if !clean || n == 0 || Nat.blt 64 n || addr % 4 != 0 || Nat.blt 0x1000 (addr % 0x1000 + 4 * n) then (putResult 3 b, m)
  else if check ≠ crc16 (safetyBytes 0x02 addr words) then (putResult 1 b, m)
  else match safetyMap b addr with
    | none => (putResult 3 b, m)
    | some (store, a) =>
      let r := (words.zipIdx).foldl (fun (acc : Blk × FrameStore × Bool) w =>
        let q := safetyWord (some (store, a + 4 * w.2)) w.1 acc.1 acc.2.1
        (q.1, q.2.1, acc.2.2 || q.2.2)) (b, m, false)
      let b := putResult (if r.2.2 then 2 else 0) r.1
      ({ b with ctl := { b.ctl with spWrites := (b.ctl.spWrites + 1) % 65536 } }, r.2.1)

/-- WRITE. -/
def execSpWrite (dt addr : Nat) (words : List Nat) (check : Nat) (clean : Bool) (s : State) : Host.Outcome State Fault Refusal :=
  effM dt s fun b m =>
    let r := safetyWrite addr words check clean b m
    (announce b r.1 r.2, r.2)

/-- What a safety port READ has gathered: its words, refused, through an invalid window, and not ready from some word on. -/
structure SafetyRead where
  words : List Nat := []
  refused : Bool := false
  invalid : Bool := false
  late : Bool := false
  deriving DecidableEq, Repr

/-- A register that its table holds in MGMT, which a READ always finds ready (R49). -/
def mgmtHeld (a : Nat) : Bool :=
  match target a with
  | .page p o => Nat.blt o 0x40 || (match p.blk with
    | .sys => true | .err => true | .acg => true | .thm => true | .hsw => true | .pair => true | .chn => true | .ens => true
    | .sig => true | .dbg => true
    | .clk => Nat.blt o 0x60 || (p.inst == 0 && (o == 0x88 || Nat.ble 0x98 o))
    | .lane => o == 0x40 || o == 0x48 || Nat.ble 0x80 o
    | .nif => o == 0x48 || o == 0x4C
    | .ohd => o == 0x48 || (Nat.ble 0x68 o && Nat.blt o 0xC0) || Nat.ble 0x400 o
    | .mem => p.inst == 8
    | .ing => false | .xsd => false | .vdc => false | .vec => false | .lfp => false | .stg => false | .prm => false | .crc => false)
  | .desc _ o => Nat.ble 0xA0 o
  | .ring _ => true
  | .prop _ => true
  | _ => false

/-- One word of a READ (R49, R51, R414). A member window is never ready in time; an uncorrectable word of the frame store counts as not
ready (R390). -/
def safetyReadWord (x k ready : Nat) (acc : Blk × FrameStore × SafetyRead) : Blk × FrameStore × SafetyRead :=
  let (b, m, q) := acc
  let at_ := safetyMap b (x + 4 * k)
  let slow := match at_ with | some (false, a) => Nat.ble 0x800000 a || (Nat.ble ready k && !mgmtHeld a) | _ => Nat.ble ready k
  if q.late || slow then (b, m, { q with words := q.words ++ [0], late := true })
  else match at_ with
    | none => (b, m, { q with words := q.words ++ [0], invalid := true })
    | some (false, a) =>
      let r := busRead 2 0x04 a b
      (r.1, m, { q with words := q.words ++ [r.2.1], refused := q.refused || r.2.2 })
    | some (true, a) =>
      let r := storeRead 0x04 a b m
      (r.1, r.2.1, { q with words := q.words ++ [r.2.2.1], refused := q.refused || r.2.2.2 == 2, late := r.2.2.2 == 4 })

/-- A safety port READ of `n` words, of which those before word `ready` and those held in MGMT are ready in time (R49). -/
def safetyRead (addr n ready : Nat) (b : Blk) (m : FrameStore) : Blk × FrameStore :=
  if n = 0 ∨ 64 < n then (putResult 3 b, m)
  else
    let r := (List.range n).foldl (fun acc k => safetyReadWord addr k ready acc) (b, m, {})
    let q := r.2.2
    let b := putResult (if q.late then 4 else if q.refused then 2 else if q.invalid then 3 else 0) r.1
    (b.emit (.safety q.words (crc16 (safetyBytes 0x0B addr q.words))), r.2.1)

/-- READ. -/
def execSpRead (dt addr n ready : Nat) (s : State) : Host.Outcome State Fault Refusal := effM dt s (safetyRead addr n ready)

/-- The status word of the safety port. -/
def safetyStatus (b : Blk) : Nat := b.ctl.spResult + 256 * b2n (safeInt b) + 65536 * b.ctl.spWrites

/-- STATUS. -/
def execSpStatus (dt : Nat) (s : State) : Host.Outcome State Fault Refusal :=
  eff dt s fun b => b.emit (.safety [safetyStatus b] (crc16 (0x05 :: leBytes 4 (safetyStatus b))))

/-- PORT_RESET: the status word returns to its reset value. -/
def execPortReset (dt : Nat) (s : State) : Host.Outcome State Fault Refusal :=
  eff dt s fun b => { b with ctl := { b.ctl with spResult := 0, spWrites := 0 } }

/-- UNKNOWN_COMMAND. -/
def execUnknownCommand (dt code : Nat) (s : State) : Host.Outcome State Fault Refusal :=
  eff dt s fun b => if [0x02, 0x0B, 0x05, 0x99].contains (code % 256) then b else putResult 5 b

/-- A read by MID 0x04 whose answer goes to the safety host. -/
def safetyAsk (a : Nat) (b : Blk) : Blk :=
  let r := busRead 2 0x04 a b
  (putResult (if r.2.2 then 2 else 0) r.1).emit (.word r.2.1 (if r.2.2 then 2 else 0))

/-- SEVERE_QUEUE_POP (R65). -/
def execSevereQueuePop (dt : Nat) (s : State) : Host.Outcome State Fault Refusal := eff dt s (safetyAsk 0x10060)

/-- SQ_STAT_READ (R67). -/
def execSqStatRead (dt : Nat) (s : State) : Host.Outcome State Fault Refusal := eff dt s (safetyAsk 0x10058)

/-! ### SMBus and PMBus (R52, R53) -/

/-- The module's 7-bit SMBus address. -/
def smAddr (b : Blk) : Nat := 0x60 + b.pwr.slot % 16

/-- The answer to an SMBus read: the bytes and their packet error code over the whole transfer. -/
def smRead (code : Nat) (bytes : List Nat) (b : Blk) : Blk :=
  b.emit (.smbus true (bytes ++ [crc8 ([2 * smAddr b, code, 2 * smAddr b + 1] ++ bytes)]))

/-- A block read begins with its byte count. -/
def smBlock (code : Nat) (bytes : List Nat) (b : Blk) : Blk := smRead code (bytes.length :: bytes) b

/-- A command without data is acknowledged. -/
def smAck (b : Blk) : Blk := b.emit (.smbus true [])

/-- The exponent of a LINEAR11 reading of `x` / `d`: the least whose mantissa fits 11 bits. -/
def linearExp (x : Int) (d : Nat) : Int :=
  match (List.range 32).find? fun (k : Nat) =>
    let e : Int := (k : Int) - 16
    let m := if e < 0 then (2 * x * 2 ^ e.natAbs + d) / (2 * d) else (2 * x + d * 2 ^ e.natAbs) / (2 * (d * 2 ^ e.natAbs : Nat))
    decide (-1024 ≤ m) && decide (m ≤ 1023) with
  | some k => (k : Int) - 16
  | none => 15

/-- A reading in LINEAR11 (R53): exponent in [15:11], mantissa in [10:0], both two's complement. -/
def linear11 (x : Int) (d : Nat) : Nat :=
  let e := linearExp x d
  let m := if e < 0 then (2 * x * 2 ^ e.natAbs + d) / (2 * d) else (2 * x + d * 2 ^ e.natAbs) / (2 * (d * 2 ^ e.natAbs : Nat))
  enc 11 m + 2048 * enc 5 e

/-- The highest filtered temperature of some sensors, 0.1 °C. -/
def hottestOf (b : Blk) : List Nat → Int
  | [] => 0
  | n :: l => l.foldl (fun (m : Int) k => let t := sgn 16 (b.rd F.THM_TEMP_TEMP 0 k); if m < t then t else m) (sgn 16 (b.rd F.THM_TEMP_TEMP 0 n))

/-- OPERATION_ON. -/
def execOperationOn (dt : Nat) (s : State) : Host.Outcome State Fault Refusal := eff dt s fun b => smAck (operationOn b)

/-- OPERATION_OFF. -/
def execOperationOff (dt : Nat) (s : State) : Host.Outcome State Fault Refusal :=
  eff dt s fun b => smAck (ejectWarning 1 { b with ctl := { b.ctl with pmOperation := 0 } })

/-- OPERATION_READ. -/
def execOperationRead (dt : Nat) (s : State) : Host.Outcome State Fault Refusal :=
  eff dt s fun b => smRead 0x01 [b.ctl.pmOperation] b

/-- CLEAR_FAULTS. -/
def execClearFaults (dt : Nat) (s : State) : Host.Outcome State Fault Refusal :=
  eff dt s fun b => smAck { b with ctl := { b.ctl with pmStatus := 0, pmTemp := 0 } }

/-- STATUS_WORD: the bits held, with OFF and POWER_GOOD# while the 12 V rail is off. -/
def execStatusWord (dt : Nat) (s : State) : Host.Outcome State Fault Refusal :=
  eff dt s fun b => smRead 0x79 (leBytes 2 (Nat.lor b.ctl.pmStatus (if b.pwr.rail then 0 else 0x0840))) b

/-- STATUS_TEMPERATURE. -/
def execStatusTemperature (dt : Nat) (s : State) : Host.Outcome State Fault Refusal :=
  eff dt s fun b => smRead 0x7D [b.ctl.pmTemp] b

/-- READ_VIN: the connector's voltage as measured, which HSW_VIN shows too. -/
def execReadVin (dt mV : Nat) (s : State) : Host.Outcome State Fault Refusal :=
  eff dt s fun b => smRead 0x88 (leBytes 2 (linear11 mV 1000)) (b.wr F.HSW_VIN_VALUE 0 (Nat.min 65535 (mV / 10)))

/-- READ_IIN. -/
def execReadIin (dt mA : Nat) (s : State) : Host.Outcome State Fault Refusal :=
  eff dt s fun b => smRead 0x89 (leBytes 2 (linear11 mA 1000)) (b.wr F.HSW_IIN_VALUE 0 (Nat.min 65535 (mA / 10)))

/-- READ_TEMPERATURE_1: inlet air, the higher of the two sensors. -/
def execReadTemperature1 (dt : Nat) (s : State) : Host.Outcome State Fault Refusal :=
  eff dt s fun b => smRead 0x8D (leBytes 2 (linear11 (hottestOf b [37, 38]) 10)) b

/-- READ_TEMPERATURE_2: the hottest die sensor. -/
def execReadTemperature2 (dt : Nat) (s : State) : Host.Outcome State Fault Refusal :=
  eff dt s fun b => smRead 0x8E (leBytes 2 (linear11 (hottestOf b ((List.range 24).filter fun n => !sensorFailed b n)) 10)) b

/-- READ_PIN. -/
def execReadPin (dt mW : Nat) (s : State) : Host.Outcome State Fault Refusal :=
  eff dt s fun b => smRead 0x97 (leBytes 2 (linear11 mW 1000)) (b.wr F.HSW_PIN_VALUE 0 (Nat.min 65535 (mW / 100)))

/-- PMBUS_REVISION. -/
def execPmbusRevision (dt : Nat) (s : State) : Host.Outcome State Fault Refusal := eff dt s (smRead 0x98 [0x33])

/-- MFR_ID. -/
def execMfrId (dt : Nat) (s : State) : Host.Outcome State Fault Refusal := eff dt s (smBlock 0x99 (codes "WILTUR"))

/-- MFR_MODEL. -/
def execMfrModel (dt : Nat) (s : State) : Host.Outcome State Fault Refusal := eff dt s (smBlock 0x9A (codes "AFTEN WM96"))

/-- MFR_REVISION: silicon step and board revision. -/
def execMfrRevision (dt : Nat) (s : State) : Host.Outcome State Fault Refusal :=
  eff dt s fun b =>
    let board := b.rd F.SYS_BOARD_BOARD 0 % 100
    smBlock 0x9B [0x41 + b.rd F.SYS_SILICON_STEP_LETTER 0, 0x30 + b.rd F.SYS_SILICON_STEP_NUM 0 % 10, 0x2D, 0x30 + board / 10,
      0x30 + board % 10] b

/-- A hexadecimal digit as a character code. -/
def hexDigit (v : Nat) : Nat := if v % 16 < 10 then 0x30 + v % 16 else 0x37 + v % 16

/-- MFR_SERIAL: 16 hexadecimal digits. -/
def execMfrSerial (dt : Nat) (s : State) : Host.Outcome State Fault Refusal :=
  eff dt s fun b =>
    let v := b.rd F.SYS_SERIAL_LO_SERIAL 0 + 2 ^ 32 * b.rd F.SYS_SERIAL_HI_SERIAL 0
    smBlock 0x9E ((List.range 16).map fun k => hexDigit (v / 16 ^ (15 - k))) b

/-- MFR_ROLE. -/
def execMfrRole (dt : Nat) (s : State) : Host.Outcome State Fault Refusal := eff dt s fun b => smRead 0xD0 [role b] b

/-- MFR_THERMAL_LEVEL. -/
def execMfrThermalLevel (dt : Nat) (s : State) : Host.Outcome State Fault Refusal :=
  eff dt s fun b => smRead 0xD1 [b.rd F.THM_STAT_LEVEL 0] b

/-- MFR_EJECT_REQUEST. -/
def execMfrEjectRequest (dt : Nat) (s : State) : Host.Outcome State Fault Refusal := eff dt s fun b => smAck (ejectWarning 1 b)

/-- MFR_ORDERING_CODE (R1). -/
def execMfrOrderingCode (dt : Nat) (s : State) : Host.Outcome State Fault Refusal :=
  eff dt s fun b =>
    smBlock 0xD3 (codes "AFN-WM96-" ++ codes (if b.rd F.SYS_VARIANT_FITTED_GIB 0 = 32 then "32" else "64")
      ++ codes (if b.rd F.SYS_VARIANT_GRADE 0 = 1 then "E" else "C")) b

/-- MFR_UPTIME: seconds since the operating state. -/
def execMfrUptime (dt : Nat) (s : State) : Host.Outcome State Fault Refusal :=
  eff dt s fun b => smRead 0xD4 (leBytes 4 (pageWord b sysPage 0x10C)) b

/-- The codes of R53. -/
def pmCodes : List Nat := [0x01, 0x03, 0x79, 0x7D, 0x88, 0x89, 0x8D, 0x8E, 0x97, 0x98, 0x99, 0x9A, 0x9B, 0x9E, 0xD0, 0xD1, 0xD2, 0xD3, 0xD4]

/-- SMBUS_UNSUPPORTED: NACK, and the CML bit of STATUS_WORD. A supported command with a good code is no such transfer. -/
def execSmbusUnsupported (dt code : Nat) (pecFailed : Bool) (s : State) : Host.Outcome State Fault Refusal :=
  eff dt s fun b =>
    if pmCodes.contains (code % 256) && !pecFailed then b
    else ({ b with ctl := { b.ctl with pmStatus := Nat.lor b.ctl.pmStatus 0x0002 } }).emit (.smbus false [])

/-! ### The debug access unit (R426) -/

/-- An operation's result: 0 done, 1 refused. -/
def dauDone (refused : Bool) (data : Nat) (b : Blk) : Blk :=
  { b with acg := { b.acg with dauResult := b2n refused, dauData := data } }

/-- DAU_READ. -/
def execDauRead (dt : Nat) (frameStore : Bool) (addr : Nat) (s : State) : Host.Outcome State Fault Refusal :=
  effM dt s fun b m =>
    let b := (b.emit (dauCapture b)).wr F.DBG_STAT_USED 0 1
    if frameStore then
      let r := storeRead 0x08 (addr / 4 * 4) b m
      (dauDone (!fsGranted b 0x08 (addr / 4 * 4) false) r.2.2.1 r.1, r.2.1)
    else
      let r := busRead 3 0x08 addr b
      (dauDone r.2.2 r.2.1 r.1, m)

/-- DAU_WRITE. -/
def execDauWrite (dt : Nat) (frameStore : Bool) (addr data : Nat) (s : State) : Host.Outcome State Fault Refusal :=
  effM dt s fun b m =>
    let a := addr / 4 * 4
    let b := (b.emit (dauCapture b)).wr F.DBG_STAT_USED 0 1
    if frameStore then
      let r := memAccess 0x08 a 4 true false (leBytes 4 data) 0 0 false b m
      (dauDone (!fsGranted b 0x08 a true) 0 r.1, r.2)
    else
      let b' := dauDone (mapped a && (regCheck b 0x08 a true).isSome) 0 (busWrite 3 0x08 a data 15 false false b)
      (announce b b' m, m)

/-! ### Commands that write one register -/

/-- The BAR0 offset of a register of a block's instance. -/
def pageAddr (k : Block) (i o : Nat) : Nat := (k.slot + i % k.pages) * 0x1000 + o

/-- A write of one word by a MID from the port it owns, all byte enables set. -/
def regWrite (mid a data : Nat) (b : Blk) : Blk := busWrite (midPort mid) mid a data 15 false false b

/-- PG_EVT_CLEAR. -/
def execPgEvtClear (dt mid page data : Nat) (s : State) : Host.Outcome State Fault Refusal :=
  eff dt s (regWrite mid (page * 0x1000 + 0x10) data)

/-- PG_EVT_EN_WRITE. -/
def execPgEvtEnWrite (dt mid page data : Nat) (s : State) : Host.Outcome State Fault Refusal :=
  eff dt s (regWrite mid (page * 0x1000 + 0x14) data)

/-- ERRCNT_CLEAR: `same` says that an event of the page falls in the same MGMT cycle. -/
def execErrcntClear (dt mid page : Nat) (same : Bool) (s : State) : Host.Outcome State Fault Refusal :=
  eff dt s (busWrite (midPort mid) mid (page * 0x1000 + 0x18) (2 ^ 31) 15 false same)

/-- FIRST_ERR_CLEAR. -/
def execFirstErrClear (dt mid page : Nat) (s : State) : Host.Outcome State Fault Refusal :=
  eff dt s (regWrite mid (page * 0x1000 + 0x1C) (2 ^ 31))

/-- SOFT_RESET: a write of PG_CTRL with SOFT_RESET at 1. -/
def execSoftReset (dt mid page data : Nat) (s : State) : Host.Outcome State Fault Refusal :=
  eff dt s (regWrite mid (page * 0x1000 + 0x08) (Nat.lor data 2))

/-- SOFT_RESET_DONE (R56). -/
def execSoftResetDone (dt page : Nat) (s : State) : Host.Outcome State Fault Refusal :=
  eff dt s fun b =>
    if !b.on F.PG_STAT_RESET_BUSY page then b
    else match pageOfSlot page with
      | some p => raise p 0x0003 sevInfo 0 8 (b.wr F.PG_STAT_RESET_BUSY page 0)
      | none => b

/-- PG_CUE_ARM. -/
def execPgCueArm (dt mid page data : Nat) (s : State) : Host.Outcome State Fault Refusal :=
  eff dt s (regWrite mid (page * 0x1000 + 0x20) (Nat.lor data 0x10000))

/-- PG_CUE_DISARM. -/
def execPgCueDisarm (dt mid page data : Nat) (s : State) : Host.Outcome State Fault Refusal :=
  eff dt s (regWrite mid (page * 0x1000 + 0x20) (Nat.lor data 0x20000))

/-- PG_CUE_DISCARD. -/
def execPgCueDiscard (dt mid page data : Nat) (s : State) : Host.Outcome State Fault Refusal :=
  eff dt s (regWrite mid (page * 0x1000 + 0x20) (Nat.lor data 0x40000))

/-- GCUE_ARM. -/
def execGcueArm (dt mid data : Nat) (s : State) : Host.Outcome State Fault Refusal :=
  eff dt s (regWrite mid 0x80 (Nat.lor data 0x1000000))

/-- GCUE_DISARM. -/
def execGcueDisarm (dt mid data : Nat) (s : State) : Host.Outcome State Fault Refusal :=
  eff dt s (regWrite mid 0x80 (Nat.lor data 0x2000000))

/-- ERR_RECORD_ARRIVAL (R65, R67): a page raises an event. -/
def execErrRecordArrival (dt page code sev detail mid : Nat) (s : State) : Host.Outcome State Fault Refusal :=
  eff dt s fun b => match pageOfSlot page with
    | some p => if 5 < sev then b else raiseAs mid p code sev detail 0 b
    | none => b

/-- ERR_RD_IDX_WRITE. -/
def execErrRdIdxWrite (dt mid data : Nat) (s : State) : Host.Outcome State Fault Refusal := eff dt s (regWrite mid 0x10048 data)

/-- ERR_CLR_LOST: the word keeps MIN_SEV and SAFE_MIN_SEV as `data` gives them. -/
def execErrClrLost (dt mid data : Nat) (s : State) : Host.Outcome State Fault Refusal :=
  eff dt s (regWrite mid 0x10040 (Nat.lor data 0x80000000))

/-- RING_WINDOW_WRITE (R476). -/
def execRingWindowWrite (dt mid addr data : Nat) (s : State) : Host.Outcome State Fault Refusal :=
  eff dt s (regWrite mid (0x11000 + addr % 0x1000) data)

/-- FLOOR_WRITE (R100). -/
def execFloorWrite (dt mid data : Nat) (s : State) : Host.Outcome State Fault Refusal := eff dt s (regWrite mid 0x258040 data)

/-- FRESHNESS_WINDOW_WRITE (R102). -/
def execFreshnessWindowWrite (dt mid addr data : Nat) (s : State) : Host.Outcome State Fault Refusal :=
  eff dt s (regWrite mid (0x600000 + addr % 0x100000) data)

/-- LOG_WRAPS_CLEAR. -/
def execLogWrapsClear (dt mid data : Nat) (s : State) : Host.Outcome State Fault Refusal :=
  eff dt s (regWrite mid (0x258000 + F.PRM_LOG_WRAPS_CLEAR.off) (Nat.lor data 0x80000000))

/-- PUBLISH (R147). -/
def execPublish (dt mid layer data : Nat) (s : State) : Host.Outcome State Fault Refusal :=
  effM dt s fun b m => (announce b (regWrite mid (0x40002C + 256 * (layer % 4096)) (Nat.lor data 0x80000000) b) m, m)

/-- PS_COMMIT_WRITE (R188). -/
def execPsCommitWrite (dt mid stage data : Nat) (s : State) : Host.Outcome State Fault Refusal :=
  eff dt s (regWrite mid (pageAddr .stg stage 0x200) (Nat.lor data 1))

/-- CONTACT_CONFIG_WRITE (R196). -/
def execContactConfigWrite (dt mid c data : Nat) (s : State) : Host.Outcome State Fault Refusal :=
  eff dt s (regWrite mid (0x2F0000 + F.SIG_CFG_EN.off + c % 16 * F.SIG_CFG_EN.step) data)

/-- SUPPRESSED_CLEAR. -/
def execSuppressedClear (dt mid data : Nat) (s : State) : Host.Outcome State Fault Refusal :=
  eff dt s (regWrite mid (0x2F0000 + F.SIG_SUPPRESSED_CLEAR.off) (Nat.lor data 0x80000000))

/-- VEC_FORCE_IDR (R229). -/
def execVecForceIdr (dt mid ctx data : Nat) (s : State) : Host.Outcome State Fault Refusal :=
  eff dt s (regWrite mid (pageAddr .vec (ctx % 16) F.VEC_CTRL_FORCE_IDR.off) (Nat.lor data 1))

/-- LEARN_SAVE (R291). -/
def execLearnSave (dt mid data : Nat) (s : State) : Host.Outcome State Fault Refusal :=
  eff dt s (regWrite mid (0x60000 + F.CLK_LEARN_SAVE.off) (Nat.lor data 1))

/-- LEARN_CLEAR (R291). -/
def execLearnClear (dt mid data : Nat) (s : State) : Host.Outcome State Fault Refusal :=
  eff dt s (regWrite mid (0x60000 + F.CLK_LEARN_SAVE.off) (Nat.lor data 2))

/-- TOD_WRITE (R297): the lower word, then the upper word with APPLY. -/
def execTodWrite (dt mid lo hi : Nat) (s : State) : Host.Outcome State Fault Refusal :=
  eff dt s fun b => regWrite mid (0x60004 + F.CLK_TOD_SEC_SEC.off) (Nat.lor hi 0x80000000)
    (regWrite mid (0x60000 + F.CLK_TOD_SEC_SEC.off) lo b)

/-- EYE_SCAN_START (R322). -/
def execEyeScanStart (dt mid lane data : Nat) (s : State) : Host.Outcome State Fault Refusal :=
  eff dt s (regWrite mid (pageAddr .lane lane F.LANE_EYE_CTRL_START.off) (Nat.lor data 1))

/-- EYE_SCAN_ABORT (R322). -/
def execEyeScanAbort (dt mid lane data : Nat) (s : State) : Host.Outcome State Fault Refusal :=
  eff dt s (regWrite mid (pageAddr .lane lane F.LANE_EYE_CTRL_START.off) (Nat.lor data 2))

/-- MARGIN_REBASE (R325). -/
def execMarginRebase (dt mid lane data : Nat) (s : State) : Host.Outcome State Fault Refusal :=
  eff dt s (regWrite mid (pageAddr .lane lane F.LANE_MARGIN_CFG_REBASE.off) (Nat.lor data 0x8000))

/-- PAIR_SWITCH (R354). -/
def execPairSwitch (dt mid data : Nat) (s : State) : Host.Outcome State Fault Refusal :=
  eff dt s (regWrite mid 0x2C0044 (Nat.lor data 1))

/-- PAIR_CLEAR_FAULT (R348). -/
def execPairClearFault (dt mid data : Nat) (s : State) : Host.Outcome State Fault Refusal :=
  eff dt s (regWrite mid 0x2C0044 (Nat.lor data 2))

/-- PAIR_RESYNC (R344). -/
def execPairResync (dt mid data : Nat) (s : State) : Host.Outcome State Fault Refusal :=
  eff dt s (regWrite mid 0x2C0044 (Nat.lor data 4))

/-- CRC_START (R399). -/
def execCrcStart (dt mid unit : Nat) (s : State) : Host.Outcome State Fault Refusal :=
  eff dt s (regWrite mid (pageAddr .crc unit F.CRC_CTRL_START.off) 1)

/-- CRC_ABORT (R400). -/
def execCrcAbort (dt mid unit : Nat) (s : State) : Host.Outcome State Fault Refusal :=
  eff dt s (regWrite mid (pageAddr .crc unit F.CRC_CTRL_START.off) 2)

/-- OPEN (R422). -/
def execOpenProposal (dt mid : Nat) (s : State) : Host.Outcome State Fault Refusal := eff dt s (regWrite mid 0x20050 1)

/-- SUBMIT (R422). -/
def execSubmit (dt mid : Nat) (s : State) : Host.Outcome State Fault Refusal := eff dt s (regWrite mid 0x20050 2)

/-- WITHDRAW (R423). -/
def execWithdraw (dt mid : Nat) (s : State) : Host.Outcome State Fault Refusal := eff dt s (regWrite mid 0x20050 4)

/-- REJECT (R423). -/
def execReject (dt mid : Nat) (s : State) : Host.Outcome State Fault Refusal := eff dt s (regWrite mid 0x20050 8)

/-- PROP_SIGN (R422). -/
def execPropSign (dt mid data : Nat) (s : State) : Host.Outcome State Fault Refusal := eff dt s (regWrite mid 0x20058 data)

/-- PROPOSAL_AREA_WRITE (R422). -/
def execProposalAreaWrite (dt mid addr data : Nat) (s : State) : Host.Outcome State Fault Refusal :=
  eff dt s (regWrite mid (0x700000 + addr % 0x100000) data)

/-- VIOL_COUNT_CLEAR (R416). -/
def execViolCountClear (dt mid : Nat) (s : State) : Host.Outcome State Fault Refusal :=
  eff dt s (regWrite mid 0x20068 0x80000000)

/-- SYS_RESET_KEY (R435). -/
def execSysResetKey (dt mid data : Nat) (s : State) : Host.Outcome State Fault Refusal := eff dt s (regWrite mid 0x118 data)

/-- HOST_CLAIM (R442). -/
def execHostClaim (dt mid : Nat) (s : State) : Host.Outcome State Fault Refusal := eff dt s (regWrite mid 0x100 1)

/-- HSW_EJECT (R443). -/
def execHswEject (dt mid : Nat) (s : State) : Host.Outcome State Fault Refusal := eff dt s (regWrite mid 0x50054 1)

/-- THRESH_WRITE (R452). -/
def execThreshWrite (dt mid c data : Nat) (s : State) : Host.Outcome State Fault Refusal :=
  eff dt s (regWrite mid (0x40050 + 4 * (c % 5)) data)

/-! ### Member windows and shared tables -/

/-- One word of an IMAGE frame, or of a joining copy, comes into effect under MID 0x20, as far as the rules let it (R406). -/
def imageWord (a w : Nat) (b : Blk) : Blk :=
  if !copiedRange a then b
  else match regCheck b 0x20 a true with
  | some k => regViolation 6 0x20 a k b
  | none => forEach (hitsAt a) (fun (h : Hit) b =>
    match h.f.acc with
    | .rw => b.wr h.f h.i (fldMerge h.f (b.rd h.f h.i h.k) h.j w) h.k
    | .rws => b.wr h.f h.i (fldMerge h.f (b.rd h.f h.i h.k) h.j w) h.k
    | .rwl => b.wr h.f h.i (fldMerge h.f (b.rd h.f h.i h.k) h.j w) h.k
    | _ => b) b

/-- An access that came on channel 5 for the member that a path names from this ring on (R370): performed here as this member's own, or
sent on, around the ring or across port 3 (of a pair, to its ACTIVE module). -/
def windowIncoming (mid o data : Nat) (write : Bool) (path : List Nat) (b : Blk) : Blk :=
  let here (b : Blk) : Blk :=
    if write then busWrite 6 mid o data 15 false false b
    else
      let r := busRead 6 mid o b
      r.1.emit (.word r.2.1 (b2n r.2.2))
  if !inRing b then b
  else match path.map (· % 8) with
    | [] => here b
    | p :: l =>
      if pairActive b p ≠ ownPos b then
        match toward b (pairActive b p) with
        | some q => chnSend q 5 ([o, mid, data % 2 ^ 32, b2n write] ++ p :: l) b
        | none => b
      else if l.isEmpty then here b
      else if b.ens.junction = 1 ∧ chnUp b 3 then chnSend 3 5 ([o, mid, data % 2 ^ 32, b2n write] ++ l) b
      else b

/-- MEMBER_WINDOW_ACCESS (R370): on the lead an access through a window, at a BAR0 offset from 0x800000 on; with a path, an access that
came from the lead. -/
def memberWindow (mid addr data value : Nat) (write lost : Bool) (path : Option (List Nat)) (b : Blk) : Blk :=
  match path with
  | some l => windowIncoming mid (addr % 0x800000) data write l b
  | none => match target (addr / 4 * 4) with
    | .member j o =>
      match regCheck b mid (addr / 4 * 4) write with
      | some k =>
        let b := regViolation (midPort mid) mid (addr / 4 * 4) k b
        if write then b else b.emit (.word 0 (if mid = 0x01 then 0 else 2))
      | none => windowAccess mid j o data value write lost b
    | _ => b

/-- MEMBER_WINDOW_ACCESS. -/
def execMemberWindowAccess (dt mid addr data value : Nat) (write lost : Bool) (path : Option (List Nat)) (s : State) :
    Host.Outcome State Fault Refusal :=
  effM dt s fun b m => (announce b (memberWindow mid addr data value write lost path b) m, m)

/-- A shared word of the lead's comes by a port: a value in effect for a joining member under MID 0x20 (R380), or a write that is applied
under its writer's MID (R371), its group arm at point 3 among them (R378); it goes on to the members beyond. -/
def sharedRx (port mid a data : Nat) (b : Blk) : Blk :=
  let b := if mid = 0x20 then (if ensState b = esCopying then imageWord a data b else b)
    else match regCheck b mid a true with
      | some k => regViolation 6 mid a k b
      | none => grantedWrite 6 mid a data b.now 0 false false b
  if mid = 0x20 ∧ ensState b = esCopying then b
  else sendAround (if port = 3 then ownPos b else b.rd F.ENS_STAT_LEAD_POS 0) (if port = 3 then [1, 2] else [3 - port]) [a, mid, data, 1] b

/-- SHARED_TABLE_WRITE (R371, R378): with port 0 a write to a shared range on the lead; otherwise what came on channel 5 by a port, a
write of the lead's or a member's report. -/
def sharedTableWrite (mid addr data port : Nat) (b : Blk) (m : FrameStore) : Blk :=
  let a := addr / 4 * 4
  if port = 0 then announce b (regWrite mid a data b) m
  else if !inRing b || Nat.blt 3 port || (port == 3 && b.ens.junction != 1 && b.ens.junction != 2) then b
  else if 0x21 ≤ mid ∧ mid ≤ 0x27 then
    match reportIdx a with
    | some idx => reportRx port mid idx data b m
    | none => regViolation 6 mid a 1 b
  else if (sharedRange a || (a == 0x80 && bits data 8 3 == 3)) && mapped a then announce b (sharedRx port mid a data b) m
  else b

/-- SHARED_TABLE_WRITE. -/
def execSharedTableWrite (dt mid addr data port : Nat) (s : State) : Host.Outcome State Fault Refusal :=
  effM dt s fun b m => (sharedTableWrite mid addr data port b m, m)

end Sys2Proof.Machine
end

