-- ==== Sys2Proof/Machine/PairCopy.lean ====
section
/-!
DEFINITION. Epochs (R338 to R347): their boundaries with the cues taken there, ensemble group cues (R377 to R379), the receiving
side of the epoch copy, and the full sync.
-/

namespace Sys2Proof.Machine

/-! ### Group cues at point 3 of an ensemble (R378) -/

/-- The least time from an arm to the boundary at which it is taken, and from the check to the boundary, ns. -/
abbrev ensLead : Nat := 200000
abbrev ensCheckAhead : Nat := 50000

/-- The armed groups that wait for an ensemble boundary and have not been checked. -/
def ensArmed (b : Blk) (boundary : Nat) : List (Nat × Cue) :=
  b.ctl.groups.filter fun e => e.2.point == 3 && Nat.ble (e.2.time + ensLead) boundary && !b.ens.checks.any (·.group == e.1)

/-- A member checks one group: its result goes to the lead. -/
def ensCheckOne (boundary : Nat) (e : Nat × Cue) (b : Blk) : Blk :=
  let c := groupSet b e.1 e.2.mid true
  let words := c.words b
  let ok := (cueFails b words c).isEmpty
  let b := b.putEns { b.ens with checks := b.ens.checks ++ [⟨e.1, e.2.mid, boundary, words, ok, none⟩] }
  if isLead b then b
  else match b.ens.lead with
    | some l => match toward b l with
      | some p => chnSend p 5 [e.1, ownPos b, b2n ok] b
      | none => b
    | none => b

/-- ENS_CUE_CHECK: from 50 µs before the boundary. -/
def ensCueCheck (b : Blk) : Blk :=
  let t := ensNext b
  if ensState b ≠ esMember ∨ t ≤ b.now ∨ b.now + ensCheckAhead < t then b
  else forEach (ensArmed b t) (ensCheckOne t) b

/-- ENS_CUE_CHECK. -/
def execEnsCueCheck (dt : Nat) (s : State) : Host.Outcome State Fault Refusal := eff dt s ensCueCheck

/-- ENS_CUE_RESULT: the members that refused, as the lead has gathered them or as the lead tells them; it concerns the first checked
group without a verdict. The lead adds itself and tells the others. -/
def ensCueResult (refusers : Nat) (b : Blk) : Blk :=
  match b.ens.checks.find? fun c => c.verdict.isNone with
  | none => b
  | some c =>
    let r := Nat.lor (refusers % 256) (if c.ok then 0 else 2 ^ ownPos b)
    let b := b.putEns { b.ens with checks := b.ens.checks.map fun x => if x.group = c.group then { x with verdict := some (r == 0) } else x }
    let b := ((b.wr F.ENS_GCUE_LAST_GROUP 0 c.group).wr F.ENS_GCUE_LAST_REFUSERS 0 r).put F.ENS_GCUE_LAST_REFUSED 0 (r != 0)
    if isLead b then forEach (ensPorts b) (fun p b => chnSend p 5 [c.group, r] b) b else b

/-- ENS_CUE_RESULT. -/
def execEnsCueResult (dt refusers : Nat) (s : State) : Host.Outcome State Fault Refusal := eff dt s (ensCueResult refusers)

/-- A checked group cue at its boundary: taken with the words that stood at the check, or refused; what was staged after the check
stays staged for the following cue. -/
def ensTake (c : GCheck) (b : Blk) : Blk :=
  let set := groupSet b c.group c.mid true
  let later := b.ctl.staged.filter fun e => mget c.words e.1 != some e.2
  let b := armGroup c.group none b
  match c.verdict, c.ok with
  | some true, true =>
    let b := takenCue set c.words b
    groupLast c.group 0 { b with ctl := { b.ctl with staged := later.foldl (fun (m : SMap Staged) e => mset m e.1 e.2) b.ctl.staged } }
  | _, true => (groupLast c.group 0 b).put F.SYS_GCUE_LAST_REFUSED 0 true
  | _, false =>
    let fails := cueFails b c.words set
    groupLast c.group ((fails.map (·.reason)).headD 1) (refuseCue set fails b)

/-- An ensemble frame boundary (R377): the checked group cues, and the page cues at point 3. -/
def ensBoundary (b : Blk) : Blk :=
  if ensState b ≠ esMember ∨ !(b.on F.ENS_STAT_LEAD 0 || b.now == b.ens.boundary) then b
  else
    let due := b.ens.checks.filter fun c => Nat.ble c.boundary b.now
    let b := b.putEns { b.ens with checks := b.ens.checks.filter fun c => !Nat.ble c.boundary b.now }
    let b := forEach due ensTake b
    let ps := b.ctl.cues.filter fun e => e.2.point == 3 && (if b.pr.formed then Nat.blt e.2.time b.pr.boundaryWas else leadMet b e.2)
    forEach ps (fun e b => match pageOfSlot e.1 with | some p => takePage p e.2 b | none => b) b

/-! ### Epoch boundaries (R338, R342) -/

/-- The cue is due at an epoch boundary: with the lead of R59, or in a formed pair two boundaries after the epoch of its arm began
(R342). Outside an ensemble point 3 is the epoch boundary. -/
def boundaryDue (b : Blk) (q : Cue) : Bool :=
  (q.point == 2 || (q.point == 3 && ensState b != esMember))
    && (if b.pr.formed then Nat.blt q.time b.pr.boundaryWas else leadMet b q)

/-- The ACK that waits is sent (R339). -/
def sendAck (b : Blk) : Blk :=
  match b.pr.ackDue with
  | some (e, ok, sync) =>
    if chnUp b 0 then
      let b := chnSend 0 2 [6, e, e, b2n ok + 2 * b2n sync] b
      b.putPr { b.pr with ackDue := none }
    else b
  | none => b

/-- The writes that were held are made now (R340). -/
def replayHeld (b : Blk) (m : FrameStore) : Blk × FrameStore :=
  let l := b.pr.held
  let b := (b.putPr { b.pr with held := [] }).wr F.PAIR_EPOCH_FILL_HELD 0 0
  l.foldl (fun (acc : Blk × FrameStore) h =>
    if h.2.1 then memAccess h.1 h.2.2.1 h.2.2.2.length true false h.2.2.2 0 0 false acc.1 acc.2
    else (busWrite (midPort h.1) h.1 h.2.2.1 (h.2.2.2.headD 0) 15 false false acc.1, acc.2)) (b, m)

/-- The number of the epoch that opens: counted on, or adopted from the active module at the first boundary after its full sync
began (R338). -/
def openEpoch (b : Blk) : Blk :=
  match b.pr.syncS with
  | some s =>
    if role b = roUnderstudy ∧ b.rd F.PAIR_STAT_SYNC 0 = 1 ∧ b.pr.boundaryAt ≤ b.pr.syncAt then b.wr F.PAIR_EPOCH_EPOCH 0 (s + 1)
    else b.step F.PAIR_EPOCH_EPOCH 0
  | none => b.step F.PAIR_EPOCH_EPOCH 0

/-- An epoch boundary: the epoch closes and another opens, the cues of points 2 and 3 are taken, and held writes go on. -/
def epochBoundary (b : Blk) (m : FrameStore) : Blk × FrameStore :=
  if b.pr.boundaryAt = b.now ∧ b.now ≠ 0 then (b, m)
  else
    let b := openEpoch (if b.pr.released then b else closeEpoch b)
    let b := b.putPr { b.pr with boundaryWas := b.pr.boundaryAt, boundaryAt := b.now,
                                 fMarks := (List.range 24).map fun st => b.rd F.STG_FRAME_F st }
    let b := joinAtBoundary (ensBoundary (takeCues (boundaryDue b) (sendAck b)))
    replayHeld b m

/-- The boundary that falls at this instant while stage 0 does not run (R338). -/
def freeBoundary (now : Nat) : Bool :=
  let k := cdiv (3 * now) 50000000
  k * 50000000 / 3 == now

/-- EPOCH_BOUNDARY. While stage 0 runs its curtain-up is the boundary, and CURTAIN_UP makes it. -/
def epochBoundaryCmd (b : Blk) (m : FrameStore) : Blk × FrameStore :=
  if !stageRuns b 0 && freeBoundary b.now then epochBoundary b m else (joinAtBoundary (ensBoundary b), m)

/-- EPOCH_BOUNDARY. -/
def execEpochBoundary (dt : Nat) (s : State) : Host.Outcome State Fault Refusal :=
  effM dt s fun b m =>
    let r := epochBoundaryCmd b m
    (announce b r.1 r.2, r.2)

/-! ### Receiving an epoch (R339, R342, R345 to R347) -/

def frameEpoch : EpochFrame → Nat
  | .records e _ _ => e
  | .store e _ _ _ _ => e
  | .image e _ _ _ => e
  | .link e _ _ _ => e

def frameIndex : EpochFrame → Nat
  | .records _ i _ => i
  | .store _ i _ _ _ => i
  | .image _ i _ _ => i
  | .link _ i _ _ => i

/-- The module takes epochs: the understudy, and after a planned takeover for the last epoch (R355). -/
def takesEpochs (b : Blk) : Bool :=
  role b == roUnderstudy
    || match b.pr.tookAt with
      | some (t, _, planned) => planned && Nat.ble b.now (t + 3000000)
      | none => false

/-- Frames that stages and encoder contexts hold. -/
def heldAll (b : Blk) : List Frame :=
  ((places b).flatMap fun e => e.2.2.disp.toList ++ e.2.2.next.toList)
    ++ (b.stg.flatMap fun e => e.2.scene.flatMap fun p => p.2.disp.toList)
    ++ b.vec.flatMap fun e => e.2.pics.flatMap fun p => p.frame.toList

/-- A write of `n` bytes meets a buffer that is held (R345). -/
def storeBlocked (b : Blk) (a n : Nat) : Bool :=
  (heldAll b).any fun f => (frameLines f.lay).any fun e => Nat.blt a (e.1 + e.2) && Nat.blt e.1 (a + n)

/-- The parts of a run of bytes within 4 KiB each: one rule decides each access (R413). -/
def rulePieces : Nat → Nat → List Nat → List (Nat × List Nat)
  | 0, _, _ => []
  | fuel + 1, a, l =>
    let n := 4096 - a % 4096
    if l.isEmpty then [] else (a, l.take n) :: rulePieces fuel (a + n) (l.drop n)

/-- A STORE write is made; an unreadable one leaves its words uncorrectable (R390). What access control refuses of it is not made. -/
def storeWrite (mid a : Nat) (unreadable : Bool) (bytes : List Nat) (b : Blk) (m : FrameStore) : Blk × FrameStore :=
  if usable b < a + bytes.length then (b, m)
  else (rulePieces (bytes.length + 1) a bytes).foldl (fun (acc : Blk × FrameStore) e =>
    if !fsGranted acc.1 mid e.1 true then (fsViolation 6 mid e.1 1 acc.1, acc.2)
    else
      let m := acc.2.setBytes e.1 e.2
      (acc.1, if unreadable then
          (List.range ((e.1 + e.2.length + 7) / 8 - e.1 / 8)).foldl (fun (m : FrameStore) k => m.mark (8 * (e.1 / 8 + k))) m
        else m)) (b, m)

/-- A STORE frame arrives: written, or put behind the writes that wait. -/
def storeArrived (mid a : Nat) (u : Bool) (bytes : List Nat) (b : Blk) (m : FrameStore) : Blk × FrameStore :=
  if b.pr.staging.isEmpty && !storeBlocked b a bytes.length then storeWrite mid a u bytes b m
  else (b.putPr { b.pr with staging := b.pr.staging ++ [(a, u, bytes)] }, m)

/-- The frames of a full sync and, after it, those of the epochs from S on: a frame with index 0 begins the next run. -/
def syncSplit : List EpochFrame → List EpochFrame × List EpochFrame
  | [] => ([], [])
  | f :: l => (f :: l.takeWhile fun g => frameIndex g != 0, l.dropWhile fun g => frameIndex g != 0)

/-- A full sync starts anew (R344). -/
def syncAgain (b : Blk) : Blk :=
  b.putPr { b.pr with rx := [], ends := [], syncS := none, syncAt := b.now, ackDue := some (b.rd F.PAIR_COMMITTED_EPOCH 0, false, true) }

/-- Records that wait behind a full sync, in bytes. -/
def queuedBytes (b : Blk) : Nat :=
  ((syncSplit b.pr.rx).2.map fun f => match f with | .records _ _ l => 8 * l.length | _ => 0).sum

/-- A frame is kept for its epoch or sync. -/
def keepFrame (f : EpochFrame) (b : Blk) : Blk :=
  let sync := b.rd F.PAIR_STAT_SYNC 0
  match f with
  | .image e _ _ _ =>
    if sync ≠ 1 then b
    else if b.pr.syncS = some e then b.putPr { b.pr with rx := b.pr.rx ++ [f] }
    else b.putPr { b.pr with syncS := some e, syncAt := b.now, rx := [f], ends := [] }
  | _ =>
    if sync = 2 ∨ role b ≠ roUnderstudy then b.putPr { b.pr with rx := b.pr.rx ++ [f] }
    else if sync = 1 ∧ b.pr.syncS.isSome then
      let b := b.putPr { b.pr with rx := b.pr.rx ++ [f] }
      if 2 ^ 21 < queuedBytes b then syncAgain b else b
    else b

/-- The frame belongs to the full sync that is arriving. -/
def inSync (f : EpochFrame) (b : Blk) : Bool :=
  b.rd F.PAIR_STAT_SYNC 0 == 1 && b.pr.syncS == some (frameEpoch f) && frameIndex f != 0 && (syncSplit b.pr.rx).2.isEmpty

/-- EPOCH_FRAME_RX. -/
def epochFrameRx (f : EpochFrame) (b : Blk) (m : FrameStore) : Blk × FrameStore :=
  if !takesEpochs b then (b, m)
  else
    let mid := if inSync f b then 0x20 else 0x16
    let b := keepFrame f b
    match f with
    | .store _ _ a u bytes => storeArrived mid a u bytes b m
    | .link _ _ h l => (b.putHead h { b.head h with link := some (l.headD 0 :: l.drop 2), fromPeer := true }, m)
    | _ => (b, m)

/-- EPOCH_FRAME_RX. -/
def execEpochFrameRx (dt : Nat) (f : EpochFrame) (s : State) : Host.Outcome State Fault Refusal := effM dt s (epochFrameRx f)

/-- EPOCH_END_RX: the digest for R348, and an END that waits for its commit, behind the one that waits already or the sync. -/
def epochEndRx (e : EpochEnd) (b : Blk) : Blk :=
  if !takesEpochs b then b
  else
    let b := refreshReady (b.putPr { b.pr with digest := some e.digest })
    let sync := b.rd F.PAIR_STAT_SYNC 0
    if sync = 2 ∨ role b ≠ roUnderstudy then
      if b.pr.waitEnd.isNone then b.putPr { b.pr with waitEnd := some e } else b.putPr { b.pr with ends := b.pr.ends ++ [e] }
    else if sync = 1 ∧ b.pr.syncS.isSome then b.putPr { b.pr with ends := b.pr.ends ++ [e] }
    else b

/-- EPOCH_END_RX. -/
def execEpochEndRx (dt : Nat) (e : EpochEnd) (s : State) : Host.Outcome State Fault Refusal := eff dt s (epochEndRx e)

/-- The frames, records and STORE writes of an epoch that have arrived. -/
def framesOf (b : Blk) (e : Nat) : List EpochFrame := b.pr.rx.filter fun f => frameEpoch f % 2 ^ 32 == e % 2 ^ 32
def recordsOf (l : List EpochFrame) : List (Nat × Nat × Nat × Nat) :=
  l.flatMap fun f => match f with | .records _ _ r => r | _ => []
def storesOf (l : List EpochFrame) : List (Nat × Bool × List Nat) :=
  l.filterMap fun f => match f with | .store _ _ a u d => some (a, u, d) | _ => none

/-- The conditions of R342 for a commit. -/
def epochWhole (b : Blk) (e : EpochEnd) : Bool :=
  let l := framesOf b e.epoch
  let recs := recordsOf l
  let st := storesOf l
  l.map frameIndex == List.range e.frames && (recs.filter (·.1 != 2)).length == e.records
    && (st.map fun x => x.2.2.length).sum == e.storeBytes && epochCrc e.epoch recs st == e.crc && b.pr.staging.isEmpty

/-- When a replayed write takes effect: at the time of the record that follows it, or else now; an arm at point 2 or 3 within its
epoch, which ended at `endT` (R342 to R344). -/
def recordTime (endT : Nat) (r : Nat × Nat × Nat × Nat) (next : Option (Nat × Nat × Nat × Nat)) (b : Blk) : Nat :=
  let point := match target (4 * r.2.2.1) with
    | .page p o => if p.blk = .sys ∧ o = 0x80 then bits r.2.2.2 8 3 else if o = 0x20 then bits r.2.2.2 0 3 else 0
    | _ => 0
  match next with
  | some t => if t.1 = 1 then extend 32 b.now t.2.2.2 else if 2 ≤ point then endT - 1 else b.now
  | none => if 2 ≤ point then endT - 1 else b.now

/-- One record of kind 0: checked by this module's access control under its writer, and applied (R336). The show's own writes carry
no MID and are not checked (R437). -/
def applyRecord (e ident endT : Nat) (r : Nat × Nat × Nat × Nat) (next : Option (Nat × Nat × Nat × Nat)) (b : Blk) : Blk :=
  let a := 4 * r.2.2.1
  let mid := r.2.1
  if r.1 ≠ 0 ∨ !copiedRange a ∨ !mapped a then b
  else match (if mid = 0 then none else regCheck b mid a true) with
    | some k => regViolation 6 mid a k b
    | none => stampWrite e a (grantedWrite 6 mid a r.2.2.2 (recordTime endT r next b) (e % 65536 * 65536 + ident % 65536) false true b)

/-- The records of an epoch in order, the first with index `i`. -/
def applyRecords (e endT : Nat) : Nat → List (Nat × Nat × Nat × Nat) → Blk → Blk
  | _, [], b => b
  | i, r :: l, b => applyRecords e endT (i + 1) l (applyRecord e i endT r l.head? b)

/-- Corrections of F that an END asks for (R347): for each running stage by how much its F is short. -/
def adoptions (b : Blk) (e : EpochEnd) : List (Nat × Nat) :=
  if (e.epoch + 1) % 2 ^ 32 ≠ b.rd F.PAIR_EPOCH_EPOCH 0 then []
  else (List.range 24).filterMap fun st =>
    let f := e.fs.getD st 0
    let own := b.pr.fMarks.getD st 0
    if f ≠ 0 ∧ f ≠ own ∧ stageRuns b st then some (st, (f + 2 ^ 32 - own) % 2 ^ 32) else none

/-- EPOCH_COMMIT_DONE: the epoch whose END waits is applied when it is whole, and acknowledged. -/
def epochCommit (b : Blk) : Blk :=
  match b.pr.waitEnd with
  | none => b
  | some e =>
    if !takesEpochs b || !epochWhole b e then b
    else
      let recs := recordsOf (framesOf b e.epoch)
      let b := applyRecords e.epoch e.time 0 recs b
      let b := b.wr F.PAIR_COMMITTED_EPOCH 0 e.epoch
      let b := b.putPr { b.pr with everCommitted := true, waitEnd := b.pr.ends.head?, ends := b.pr.ends.tail, adopt := adoptions b e,
                                   rx := b.pr.rx.filter fun f => frameEpoch f % 2 ^ 32 != e.epoch % 2 ^ 32,
                                   ackDue := some (e.epoch % 2 ^ 32, true, false) }
      refreshReady (sendAck b)

/-- EPOCH_COMMIT_DONE. -/
def execEpochCommitDone (dt : Nat) (s : State) : Host.Outcome State Fault Refusal :=
  effM dt s fun b m => (announce b (epochCommit b) m, m)

/-- EPOCH_FAIL (R344): 3.0 ms after a boundary the epoch that ended there has not been committed. -/
def epochFail (b : Blk) : Blk :=
  let last := (b.rd F.PAIR_EPOCH_EPOCH 0 + 2 ^ 32 - 1) % 2 ^ 32
  if role b ≠ roUnderstudy ∨ b.rd F.PAIR_STAT_SYNC 0 ≠ 2 ∨ b.now < b.pr.boundaryAt + 3000000 ∨ b.rd F.PAIR_COMMITTED_EPOCH 0 = last then b
  else
    let b := pairEvent 0x104 sevWarning (last % 65536) (evB 2) (b.wr F.PAIR_STAT_SYNC 0 1)
    let b := b.putPr { b.pr with rx := [], staging := [], waitEnd := none, ends := [], syncS := none, syncAt := b.now,
                                 ackDue := some (last, false, true) }
    refreshReady (sendAck b)

/-- EPOCH_FAIL. -/
def execEpochFail (dt : Nat) (s : State) : Host.Outcome State Fault Refusal := eff dt s epochFail

/-- The STORE writes that wait are made in order as far as no buffer is held (R345). -/
def storeReleased (b : Blk) (m : FrameStore) : Blk × FrameStore :=
  let mid := if b.rd F.PAIR_STAT_SYNC 0 = 1 then 0x20 else 0x16
  b.pr.staging.foldl (fun (acc : Blk × FrameStore) e =>
    if acc.1.pr.staging.head? = some e ∧ !storeBlocked acc.1 e.1 e.2.2.length then
      let r := storeWrite mid e.1 e.2.1 e.2.2 acc.1 acc.2
      (r.1.putPr { r.1.pr with staging := r.1.pr.staging.tail }, r.2)
    else acc) (b, m)

/-- STORE_RELEASED. -/
def execStoreReleased (dt : Nat) (s : State) : Host.Outcome State Fault Refusal := effM dt s storeReleased

/-! ### The full sync (R344) -/

/-- The runs of words that IMAGE frames carry: offset and number of words, at most 2,040 in a frame. -/
def imageRuns : List (Nat × Nat) :=
  let pieces (lo n : Nat) : List (Nat × Nat) := (List.range (cdiv n 2040)).map fun k => (lo + 8160 * k, Nat.min 2040 (n - 2040 * k))
  (allPages.filter fun p => copiedRange (p.slot * 0x1000 + 0x40) && p.blk != .sys).flatMap (fun p =>
      [(p.slot * 0x1000 + 0x08, 1), (p.slot * 0x1000 + 0x20, 1), (p.slot * 0x1000 + 0x40, 1008)])
    ++ [(0x80, 1)] ++ pieces 0x400000 262144 ++ pieces 0x500000 131072

/-- A staged word as a record stages it again: the staged values of its RWS fields, and the values in effect of the others. -/
def restageData (b : Blk) (a data : Nat) : Nat :=
  (hitsAt a).foldl (fun (acc : Nat) (h : Hit) =>
    if h.f.acc == .wo then acc
    else Nat.lor acc (fldWord h.f (if h.f.acc == .rws then fldMerge h.f (b.rd h.f h.i h.k) h.j data else b.rd h.f h.i h.k) h.j)) 0

/-- Records that stage every staged value again and arm every armed cue and commit again, each arm with its time. -/
def syncRecords (b : Blk) : List (Nat × Nat × Nat × Nat) :=
  let staged := (b.ctl.staged.filter fun e => copiedRange e.1).map fun e => (0, e.2.mid, e.1 / 4, restageData b e.1 e.2.data)
  let pages := (b.ctl.cues.filter fun e => copiedRange (e.1 * 0x1000 + 0x20)).flatMap fun e =>
    let w := (e.1 * 0x1000 + 0x20) / 4
    let q := e.2
    [(0, q.mid, w, q.point + 256 * q.stage + 65536), (1, q.mid, w, q.time % 2 ^ 32),
     (0, q.mid, w, b.rd F.PG_CUE_POINT e.1 + 256 * b.rd F.PG_CUE_STAGE e.1)]
  let groups := b.ctl.groups.flatMap fun e =>
    [(0, e.2.mid, 0x20, e.1 + 256 * e.2.point + 65536 * e.2.stage + 2 ^ 24), (1, e.2.mid, 0x20, e.2.time % 2 ^ 32),
     (0, e.2.mid, 0x20, rawWord b 0x80)]
  let commits := ((List.range 24).filter fun st => b.on F.STG_PS_CTRL_ARMED st).flatMap fun st =>
    let w := ((stgPage st).slot * 0x1000 + 0x200) / 4
    [(0, 0x04, w, 1), (1, 0x04, w, (b.stage st).commitAt % 2 ^ 32)]
  staged ++ pages ++ groups ++ commits

/-- The STORE writes of a full sync: every buffer of every VALID descriptor that the host writes, at the size of LD_SIZE. -/
def syncStores (b : Blk) (m : FrameStore) : List (Nat × Bool × List Nat) :=
  ((List.range 4096).filter fun l => b.on F.LD_CTRL_VALID l && sourceOf b l == 0).flatMap fun l =>
    (List.range (b.rd F.LD_CTRL_NBUF l)).flatMap fun k =>
      (frameLines (layoutOf b l k (b.rd F.LD_SIZE_WIDTH l) (b.rd F.LD_SIZE_HEIGHT l))).flatMap fun e => storeSpan b e.1 e.2 m

/-- The frames of a full sync at boundary S, numbered from 0. -/
def syncFrames (s : Nat) (b : Blk) (m : FrameStore) : List EpochFrame :=
  let im := imageRuns.map fun r => fun i => EpochFrame.image s i r.1 ((List.range r.2).map fun k => rawWord b (r.1 + 4 * k))
  let recs := syncRecords b
  let re := (chunks (recs.length + 1) 1023 recs).map fun l => fun i => EpochFrame.records s i l
  let st := (syncStores b m).map fun x => fun i => EpochFrame.store s i x.1 x.2.1 x.2.2
  let ln := ((List.range 24).filter fun h => (b.head h).link.isSome).map fun h => fun i => EpochFrame.link s i h (linkWords b h)
  ((im ++ re ++ st ++ ln).zipIdx).map fun e => e.1 e.2

/-- FULL_SYNC_START: at a boundary, on an owner whose partner has asked for it. -/
def fullSyncStart (b : Blk) (m : FrameStore) : Blk :=
  if !b.pr.syncDue || !copying b || b.now != b.pr.boundaryAt then b
  else
    let s := b.rd F.PAIR_EPOCH_EPOCH 0
    let b := b.putPr { b.pr with syncDue := false, syncS := some s, syncAt := b.now }
    forEach (syncFrames s b m) (fun f b => chnSend 0 2 (epochFrameWords f) b) b

/-- FULL_SYNC_START. -/
def execFullSyncStart (dt : Nat) (s : State) : Host.Outcome State Fault Refusal :=
  effM dt s fun b m => (fullSyncStart b m, m)

/-- The images of a sync. -/
def applyImages (l : List EpochFrame) (b : Blk) : Blk :=
  forEach l (fun f b => match f with
    | .image _ _ o ws => forEach ws.zipIdx (fun e b => imageWord (o + 4 * e.2) e.1 b) b
    | _ => b) b

/-- What the copied blocks do when the images have changed their values. -/
def imagesApplied (old : Blk) (l : List EpochFrame) (b : Blk) : Blk :=
  let ps := (l.filterMap fun f => match f with
    | .image _ _ o _ => (match target o with | .page p _ => some p | _ => none)
    | _ => none).eraseDups.filter fun p => p.blk != .sys && p.blk != .sig
  let b := forEach ps (pageApplied old) b
  let b := forEach (List.range 16) (fun j b => contactConfigured j (sigOn old j) (old.on F.SIG_CFG_ACTIVE_HIGH 0 j) b) b
  forEach ((List.range 24).filter fun st => enabled b (stgPage st)) planAlloc (refreshGroups (policyChanged b))

/-- What was staged and armed in the copied ranges gives way to the sync. -/
def clearCopied (b : Blk) : Blk :=
  let b := { b with ctl := { b.ctl with staged := b.ctl.staged.filter fun e => !copiedRange e.1,
                                        cues := b.ctl.cues.filter fun e => !copiedRange (e.1 * 0x1000 + 0x20), groups := [] } }
  forEach (List.range 24) (fun st b => b.wr F.STG_PS_CTRL_ARMED st 0) b

/-- FULL_SYNC_COMPLETE: every frame of the sync has arrived, and its STORE writes are made. -/
def fullSyncComplete (b : Blk) : Blk :=
  match b.pr.syncS with
  | none => b
  | some s =>
    if role b ≠ roUnderstudy ∨ b.rd F.PAIR_STAT_SYNC 0 ≠ 1 ∨ !b.pr.staging.isEmpty then b
    else
      let old := b
      let parts := syncSplit b.pr.rx
      let b := imagesApplied old parts.1 (applyImages parts.1 (clearCopied b))
      let b := applyRecords s b.pr.boundaryAt 0 (recordsOf parts.1) b
      let b := (b.wr F.PAIR_STAT_SYNC 0 2).wr F.PAIR_COMMITTED_EPOCH 0 (s + 2 ^ 32 - 1)
      let b := b.putPr { b.pr with rx := parts.2, syncS := none, waitEnd := b.pr.ends.head?, ends := b.pr.ends.tail }
      refreshReady (pairEvent 0x105 sevNotice (s % 65536) (evB 2) b)

/-- FULL_SYNC_COMPLETE. -/
def execFullSyncComplete (dt : Nat) (s : State) : Host.Outcome State Fault Refusal :=
  effM dt s fun b m => (announce b (fullSyncComplete b) m, m)

/-- SYNC_TIMEOUT: a full sync that is not complete within SYNC_TO starts again. -/
def syncTimeout (b : Blk) : Blk :=
  if b.rd F.PAIR_STAT_SYNC 0 ≠ 1 ∨ b.now < b.pr.syncAt + b.rd F.PAIR_CFG_SYNC_TO 0 * 1000000000 then b
  else if role b = roUnderstudy then sendAck (syncAgain b)
  else if copying b then b.putPr { b.pr with syncDue := true, syncS := none, syncAt := b.now }
  else b

/-- SYNC_TIMEOUT. -/
def execSyncTimeout (dt : Nat) (s : State) : Host.Outcome State Fault Refusal := eff dt s syncTimeout

end Sys2Proof.Machine
end

