-- ==== Sys2Proof/Machine/Curtain.lean ====
section
/-!
DEFINITION. CURTAIN_UP: the curtain-up point of a stage (R175) with everything that falls on it: the epoch boundary of stage 0
(R338), cues, proscenium commits, the stage's own steps, encoder contexts (R227), check-value units (R399) and subscriptions (R374).
-/

namespace Sys2Proof.Machine

/-- A write of the stand-alone show (R438): unchecked and without a MID; it is copied to the understudy (R437) and shared with other
members (R371) like a host's. -/
def showWrite (a data : Nat) (b : Blk) : Blk :=
  let e := b.rd F.PAIR_EPOCH_EPOCH 0
  let ident := e % 65536 * 65536 + b.pr.recs.length % 65536
  let sends := copiedRange a && copying b
  let b := grantedWrite 0 0 a data b.now ident false false b
  let b := if copiedRange a then stampWrite e a b else b
  let b := if sends then copyRecord 0 a data b else b
  sharedForward 0 a data b

/-- The BAR0 offset of a register of a stage. -/
def stgAddr (st o : Nat) : Nat := (stgPage st).slot * 0x1000 + o

/-- After a host's first cue the show's status strip goes from a stage at its curtain-up (R442). -/
def stripEnds (st : Nat) (b : Blk) : Blk :=
  if !b.show_.strips.contains st then b
  else
    let b := { b with show_ := { b.show_ with strips := b.show_.strips.filter (· != st) } }
    let b := showWrite (stgAddr st 0x300) (rawWord b (stgAddr st 0x300) / 2 * 2) b
    let b := showWrite (stgAddr st 0x200) 1 b
    b.putStage st { b.stage st with commitAt := 0 }

/-- The corrections of F that wait for this curtain-up (R347). -/
def adoptF (st : Nat) (b : Blk) : Blk :=
  let b := forEach (b.pr.adopt.filter fun e => e.1 == st) (fun e b => b.step F.STG_FRAME_F st e.2) b
  b.putPr { b.pr with adopt := b.pr.adopt.filter fun e => e.1 != st }

/-- Steps 2 to 7 of R175, and what hangs on them. -/
def curtainRun (st : Nat) (b : Blk) : Blk :=
  let b := curtainSteps st (adoptF st (proscCommit st (stripEnds st (dropBindings b))))
  subscribe (crcOnCurtainUp st (forEach (List.range 16) (vecLatch st) b))

/-- CURTAIN_UP. -/
def curtainUp (st : Nat) (b : Blk) (m : FrameStore) : Blk × FrameStore :=
  if !stageRuns b st then (b, m)
  else
    let r := if st = 0 then epochBoundary b m else (b, m)
    let b := takeCues (fun q => q.point == 1 && q.stage == st && leadMet r.1 q) r.1
    (if stageRuns b st then curtainRun st b else b, r.2)

/-- CURTAIN_UP. -/
def execCurtainUp (dt stage : Nat) (s : State) : Host.Outcome State Fault Refusal :=
  effM dt s fun b m =>
    let r := curtainUp stage b m
    (announce b r.1 r.2, r.2)

end Sys2Proof.Machine
end

