-- ==== Sys2Proof/Machine/Show.lean ====
section
/-!
DEFINITION. The stand-alone show (R137, R138, R437 to R442): discovery of streams, the set-up of ports, references, contacts, heads,
layers and scenes, captions, status strips, and refused cues of the show.
-/

namespace Sys2Proof.Machine

def Blk.putShow (b : Blk) (x : ShowSt) : Blk := { b with show_ := x }

/-- The show runs: it has started, and the module is ACTIVE or keeps its picture in CURTAIN; an UNDERSTUDY does not run it (R437). -/
def showOn (b : Blk) : Bool := b.rd F.SYS_STAT_SHOW 0 == 1 && (role b == roActive || role b == roCurtain)

/-- This module runs discovery and tiling: in an ensemble only the lead does (R437). -/
def discovers (b : Blk) : Bool := showOn b && (ensState b != esMember || b.on F.ENS_STAT_LEAD 0)

/-- Arm group 63 at point 3 (R440), unless it is armed already. -/
def showArm (b : Blk) : Blk :=
  if (mget b.ctl.groups 63).isSome then b else showWrite 0x80 (63 + 256 * 3 + 2 ^ 24) b

/-- PG_CTRL of a page of the show: ENABLE staged, in group 63. -/
def showEnable (p : Page) (on : Bool) (b : Blk) : Blk :=
  showWrite (p.slot * 0x1000 + 0x08) (b2n on + 256 * 63 + 2 ^ 14) b

/-- Write words from an offset upward. -/
def showWords : Nat → List Nat → Blk → Blk
  | _, [], b => b
  | a, w :: l, b => showWords (a + 4) l (showWrite a w b)

/-- The 32-bit words of a number, lowest first. -/
def words32 : Nat → Nat → List Nat
  | 0, _ => []
  | n + 1, v => v % 2 ^ 32 :: words32 n (v / 2 ^ 32)

/-! ### Sessions (R137, R138) -/

/-- Frames of 128 MiB at most are joined. -/
abbrev frameMax : Nat := 128 * 2 ^ 20

/-- Pitch of a show layer: the line length rounded up to a multiple of 256. -/
def showPitch (n : Nat) : Nat := cdiv n 256 * 256

/-- Format, pitch and bytes of a session's frame. -/
def sdpFormat (d : Sdp) : Nat := ingFormat d.sampling d.depth
def sdpPitch (d : Sdp) : Nat := showPitch (lineBytes (sdpFormat d) d.w)
def sdpBytes (d : Sdp) : Nat :=
  sdpPitch d * (if sdpFormat d = 8 ∨ sdpFormat d = 9 then d.h + cdiv d.h 2 else d.h)

/-- Pixel rate of a session, as a ratio. -/
def sdpRate (d : Sdp) : Nat × Nat := (d.w * d.h * d.num, d.den)

/-- The media lines are ones that the show takes: one, or two that `a=group:DUP` groups, each video with raw/90000. -/
def usableMedia (d : Sdp) : Bool :=
  (d.media.length == 1 || (d.media.length == 2 && d.grouped)) && d.media.all fun m => m.video && m.raw90k

/-- The session is usable (R138, R116, R117, R438). -/
def usableSdp (d : Sdp) : Bool :=
  usableMedia d && Nat.blt d.sampling 4 && Nat.blt d.depth 3 && Nat.blt d.colorimetry 4 && Nat.blt d.tcs 3 && Nat.blt d.scan 3
    && sizeOk d.w d.h d.sampling d.scan && rateOk d.num d.den && Nat.ble (sdpBytes d) frameMax && sumWithin [sdpRate d] 2000000000

/-- The next session that waits for a channel, in the order first heard. -/
def waitingSession (b : Blk) : Option (Session × Sdp) :=
  (b.sessions.find? fun s => s.chan.isNone && usableSdp s.sdp).map fun s => (s, s.sdp)

/-- The lowest channel without a session. -/
def freeChan (b : Blk) : Option Nat := (List.range 64).find? fun k => !b.sessions.any fun s => s.chan == some k

/-- The pixel rates of the joined sessions. -/
def joinedRates (b : Blk) : List (Nat × Nat) := (b.sessions.filter (·.chan.isSome)).map fun s => sdpRate s.sdp

/-- A channel's name: upper case, 32 characters, others as spaces. -/
def sdpName (d : Sdp) : List Nat :=
  (d.name.take 32).map fun c => let u := if 97 ≤ c ∧ c ≤ 122 then c - 32 else c; if inFont u then u else 32

/-- The address and port words of a flow, from its media line. -/
def flowWords (d : Sdp) (n : Nat) (m : Media) : List Nat :=
  words32 4 m.group ++ words32 4 (m.src.getD 0) ++ [m.udp % 65536 + 65536 * (n % 16) + 2 ^ 20 * b2n d.v6 + 2 ^ 21 * b2n m.src.isSome]

/-- The port of the second path: n + 1 for even n, n − 1 for odd n. -/
def otherPort (n : Nat) : Nat := if n % 2 = 0 then n + 1 else n - 1

/-- Channel k takes a session's parameters (R138), and layer k its description (R438); it becomes VALID when a head shows it. -/
def fillChannel (k port : Nat) (d : Sdp) (b : Blk) : Blk :=
  let a := (ingPage k).slot * 0x1000
  let l := 0x400000 + 256 * k
  let f := sdpFormat d
  let b := showWords (a + 0x40) [1 + 8 * b2n (d.media.length == 2) + 32 * b2n d.ptp + 256 * (((d.media.map (·.pt)).headD 0) % 128) + 65536 * k, d.w + 65536 * d.h,
    d.sampling + 4 * d.depth + 16 * d.bpm + 32 * d.scan + 256 * d.colorimetry + 2 ^ 11 * d.tcs + 2 ^ 13 * d.range,
    d.num % 65536 + 65536 * (d.den % 65536)] b
  let b := showWords (a + 0xA0) ((List.range 8).map fun j => ((List.range 4).map fun i => (sdpName d).getD (4 * j + i) 0 * 256 ^ i).sum) b
  let b := forEach (d.media.take 2).zipIdx (fun e b =>
    showWords (a + 0x100 + 0x40 * e.2) (flowWords d (if e.2 = 0 then port else otherPort port) e.1) b) b
  let csc := if d.sampling = 3 then 0 else match d.colorimetry with | 0 => 1 | 1 => 2 | _ => 3
  let b := showWords l [b.rd F.LD_CTRL_VALID k + 2 ^ 10 * 63 + 2 ^ 20 * 3, f + 256 * csc + 2 ^ 11 * d.range, d.w + 65536 * d.h, sdpPitch d] b
  let b := showWords (l + 0x10) ((List.range 3).flatMap fun i => words32 2 (k * 384 * 2 ^ 20 + i * 128 * 2 ^ 20)) b
  let b := showWrite (l + 0x28) (if f = 8 ∨ f = 9 then sdpPitch d * d.h else 0) b
  showEnable (ingPage k) true b

/-- Join waiting sessions in order while channels and R118 allow. -/
def joinWaiting : Nat → Blk → Blk
  | 0, b => b
  | fuel + 1, b =>
    match waitingSession b, freeChan b with
    | some (s, d), some k =>
      if !sumWithin (sdpRate d :: joinedRates b) 12400000000 then b
      else
        let b := { b with sessions := b.sessions.map fun x => if x.id = s.id then { x with chan := some k } else x }
        joinWaiting fuel (showArm (fillChannel k s.port d b))
    | _, _ => b

/-- A session ends: its channel is disabled and the next one joined. -/
def endSession (id : Nat) (b : Blk) : Blk :=
  match b.sessions.find? fun s => s.id == id with
  | none => b
  | some s =>
    let b := { b with sessions := b.sessions.filter fun x => x.id != id }
    match s.chan with
    | some k => joinWaiting 64 (showArm (showEnable (ingPage k) false b))
    | none => b

/-- SAP_ANNOUNCEMENT, heard on a port with link; encrypted and compressed announcements are ignored (R137). -/
def sapAnnouncement (port id : Nat) (encrypted compressed : Bool) (sdp : Sdp) (b : Blk) : Blk :=
  if !discovers b || !linkUp b port || encrypted || compressed then b
  else if b.sessions.any fun s => s.id == id then
    { b with sessions := b.sessions.map fun s => if s.id = id then { s with last := b.now, interval := b.now - s.last } else s }
  else if 128 ≤ b.sessions.length then b
  else
    joinWaiting 64 { b with sessions := b.sessions ++ [{ id := id, first := b.now, last := b.now, interval := 0, chan := none, port := port,
                                                         sdp := sdp }] }

/-- SAP_ANNOUNCEMENT. -/
def execSapAnnouncement (dt port id : Nat) (encrypted compressed : Bool) (sdp : Sdp) (s : State) : Host.Outcome State Fault Refusal :=
  eff dt s (sapAnnouncement port id encrypted compressed sdp)

/-- SAP_DELETION. -/
def execSapDeletion (dt id : Nat) (s : State) : Host.Outcome State Fault Refusal :=
  eff dt s fun b => if discovers b then endSession id b else b

/-- SESSION_TIMEOUT: the greater of ten observed intervals and 3,600 s without an announcement. -/
def sessionTimeout (id : Nat) (b : Blk) : Blk :=
  match b.sessions.find? fun s => s.id == id with
  | some s => if discovers b && Nat.ble (s.last + Nat.max (10 * s.interval) 3600000000000) b.now then endSession id b else b
  | none => b

/-- SESSION_TIMEOUT. -/
def execSessionTimeout (dt id : Nat) (s : State) : Host.Outcome State Fault Refusal := eff dt s (sessionTimeout id)

/-! ### Heads (R439) -/

/-- A head's timing in the show: horizontal and vertical active, total, front porch, sync and polarity, and rate as NUM and DEN. -/
structure ShowMode where
  m : Mode
  num : Nat
  den : Nat
  deriving DecidableEq, Repr

/-- The reset timing of the OHD page. -/
def resetMode : ShowMode :=
  { m := { ha := 1920, ht := 2200, hf := 88, hs := 44, hp := 1, va := 1080, vt := 1125, vf := 4, vs := 5, vp := 1, khz := 148500 },
    num := 60, den := 1 }

/-- The words of OHD_CTRL and OHD_HTIM0 to OHD_GL_PHASE in the show. -/
def modeWords (t : ShowMode) : List Nat :=
  [t.m.ha + 65536 * t.m.ht, t.m.hf + 65536 * t.m.hs + 2 ^ 28 * t.m.hp, t.m.va + 65536 * t.m.vt, t.m.vf + 65536 * t.m.vs + 2 ^ 28 * t.m.vp,
   t.num + 65536 * t.den, 0]

/-- LANES_EN, DEPTH8, GENLOCK, and RATES and GL_SLEW at their reset values. -/
abbrev showOhdCtrl : Nat := 1 + 2 ^ 5 + 2 ^ 6 + 256 * 15 + 2 ^ 12 * 100

/-- The head's registers as the show would leave them. -/
def withMode (h : Nat) (t : ShowMode) (b : Blk) : Blk :=
  let b := applyWord ((ohdPage h).slot * 0x1000 + 0x40, { data := showOhdCtrl, mid := 0 }) b
  forEach (modeWords t).zipIdx (fun e b => applyWord ((ohdPage h).slot * 0x1000 + 0x4C + 4 * e.2, { data := e.1, mid := 0 }) b) b

/-- The blocks of the EDID as read. -/
def edidBlocks (b : Blk) (h : Nat) : List (List Nat) :=
  let n := Nat.min 8 (1 + b.rd F.OHD_EDID_BYTES h 31 / 65536 % 256)
  (List.range n).map fun k => (List.range 32).flatMap fun j => leBytes 4 (b.rd F.OHD_EDID_BYTES h (32 * k + j))

/-- The timing of a head: the preferred one where it is known and within R247, R249 and R31, and otherwise the reset timing. -/
def headMode (b : Blk) (h : Nat) : ShowMode :=
  if !b.on F.OHD_STAT_EDID_VALID h then resetMode
  else match preferred (edidBlocks b h) with
    | none => resetMode
    | some m =>
      let t : ShowMode := { m := m, num := b.rd F.OHD_PREF1_RATE h, den := 100 }
      let v := withMode h t b
      let r := activeRate v h
      if t.num != 0 && timingOk v h && rateCarries v h ((ratesSet v h).headD 0) && Nat.ble r.1 (1200000000 * r.2) then t else resetMode

/-- Connected heads: HPD ACTIVE or FOUND_ACTIVE. -/
def showHeads (b : Blk) : List Nat :=
  (List.range 24).filter fun h => b.rd F.OHD_STAT_HPD h == ctActive || b.rd F.OHD_STAT_HPD h == ctFound

/-- Fall back from the highest head downward until the heads together lie within 12.4 Gpix/s. -/
def fallBack : Nat → List (Nat × ShowMode) → List (Nat × ShowMode)
  | 0, l => l
  | n + 1, l =>
    if sumWithin (l.map fun e => (e.2.m.ha * e.2.m.va * e.2.num, e.2.den)) 12400000000 then l
    else fallBack n (l.map fun e => if e.1 = n then (n, resetMode) else e)

/-- The heads in use with their timings. -/
def showModes (b : Blk) : List (Nat × ShowMode) := fallBack 24 ((showHeads b).map fun h => (h, headMode b h))

/-! ### Tiling (R440, R441) -/

/-- The joined channels, ascending, with their sessions. -/
def joinedChans (b : Blk) : List (Nat × Sdp) :=
  (List.range 64).filterMap fun k => (b.sessions.find? fun s => s.chan == some k).map fun s => (k, s.sdp)

/-- The channels dealt to a head before removals. -/
def dealt (b : Blk) (i n : Nat) : List (Nat × Sdp) :=
  ((joinedChans b).zipIdx.filter fun e => e.2 % n == i).map (·.1)

/-- The channels that a head shows. -/
def shownChans (b : Blk) (i n : Nat) : List (Nat × Sdp) := ((dealt b i n).filter fun e => !b.show_.removed.contains e.1).take 32

/-- The scale S of a head. -/
def showScale (t : ShowMode) : Nat := if 1080 ≤ t.m.va then 2 else 1

/-- ceil(√m) -/
def sqrtUp (m : Nat) : Nat := ((List.range 9).find? fun c => Nat.ble m (c * c)).getD 9

/-- The destination of the q-th of m channels on a head (R440): x, y, width, height. -/
def tileRect (t : ShowMode) (m q : Nat) (d : Sdp) : Nat × Nat × Nat × Nat :=
  let c := Nat.max 1 (sqrtUp m)
  let r := Nat.max 1 (cdiv m c)
  let cw := t.m.ha / c
  let ch := (t.m.va - 32 * showScale t) / r
  let fit := if cw * d.h ≤ ch * d.w then (cw, cw * d.h / d.w) else (ch * d.w / d.h, ch)
  let fit := if 16 * d.w < fit.1 ∨ 16 * d.h < fit.2 then (16 * d.w, 16 * d.h) else fit
  let w := fit.1 / 2 * 2
  let h := fit.2 / 2 * 2
  (q % c * cw + (cw - w) / 2, q / c * ch + (ch - h) / 2, w, h)

/-- Width and height of a caption of `n` characters over a destination. -/
def captionSize (s n w : Nat) : Nat × Nat := (Nat.max 16 (Nat.min (12 * s * n + 8 * s) w), 32 * s)

/-- The bytes of a line of a caption: the name in white on black in format 0x01, 4 × S pixels in from its edges. -/
def captionLine (name : List Nat) (s w y : Nat) : List Nat :=
  (List.range w).flatMap fun x =>
    let on := Nat.ble (4 * s) x && Nat.ble (4 * s) y && textPixel name s (x - 4 * s) (y - 4 * s)
    if on then [255, 255, 255, 255] else [0, 0, 0, 255]

/-- The address of buffer `k` of a caption. -/
def captionAddr (c k : Nat) : Nat := 24 * 2 ^ 30 + c * 2 ^ 20 + k * 2 ^ 19

/-- A write of the show to the frame store, copied like a host's. -/
def showStore (a : Nat) (bytes : List Nat) (b : Blk) (m : FrameStore) : Blk × FrameStore :=
  let m := m.setBytes a bytes
  (if copying b then copyStore a bytes.length b m else b, m)

/-- The buffer that a caption is drawn into: neither newest nor held. -/
def captionBuf (b : Blk) (l : Nat) : Nat :=
  ((List.range 2).find? fun k => (match (b.layer l).newest with | some f => f.buf != k | none => true)
    && !((heldFrames b l).any fun f => f.buf == k)).getD 0

/-- Draw and publish a caption. -/
def drawCaption (c s w h : Nat) (name : List Nat) (b : Blk) (m : FrameStore) : Blk × FrameStore :=
  let l := 64 + c
  let k := captionBuf b l
  let r := (List.range h).foldl (fun (acc : Blk × FrameStore) y =>
    showStore (captionAddr c k + y * showPitch (4 * w)) (captionLine name s w y) acc.1 acc.2) (b, m)
  (showWrite (0x400000 + 256 * l + 0x2C) (k + 4 + 2 ^ 31) r.1, r.2)

/-- The description of a caption layer, and its scene. -/
def captionWords (c s w h x y dh : Nat) (b : Blk) : Blk :=
  let l := 0x400000 + 256 * (64 + c)
  let b := showWords l [1 + 16 * 2 + 2 ^ 10 * 63 + 2 ^ 20 * 2, 1 + 2 ^ 11, w + 65536 * h, showPitch (4 * w)] b
  let b := showWords (l + 0x10) ((List.range 2).flatMap fun k => words32 2 (captionAddr c k)) b
  showWords (l + 0x38) [x + 8 * s + 65536 * ((y + dh - h - 8 * s) % 2 ^ 14), w + 65536 * h] b

/-- A scene: VALID, group 63, its children; no offset, no clip, alpha 1,023. -/
def sceneWords (n : Nat) (kids : List Nat) (b : Blk) : Blk :=
  let a := 0x500000 + 256 * n
  showWords (a + 0x20) kids (showWords a [1 + 256 * 63 + 65536 * kids.length, 0, 0, 0, 1023] b)

/-- One channel of a head: its layer's destination, its caption and their scene. -/
def tileChannel (t : ShowMode) (m q : Nat) (e : Nat × Sdp) (b : Blk) (st : FrameStore) : Blk × FrameStore :=
  let s := showScale t
  let (x, y, w, h) := tileRect t m q e.2
  let name := sdpName e.2
  let cs := captionSize s name.length w
  let b := showWrite (0x400000 + 256 * e.1) (1 + 2 ^ 10 * 63 + 2 ^ 20 * 3) b
  let b := showWords (0x400000 + 256 * e.1 + 0x38) [x + 65536 * y, w + 65536 * h] b
  let b := captionWords e.1 s cs.1 cs.2 x y h b
  let b := sceneWords (64 + e.1) [e.1, 64 + e.1] b
  drawCaption e.1 s cs.1 cs.2 name b st

/-- One head: its own registers, its stage and its scene. -/
def tileHead (e : Nat × ShowMode) (cs : List (Nat × Sdp)) (b : Blk) (m : FrameStore) : Blk × FrameStore :=
  let a := (ohdPage e.1).slot * 0x1000
  let b := showWords (a + 0x4C) (modeWords e.2) (showWrite (a + 0x40) showOhdCtrl b)
  let b := showEnable (ohdPage e.1) true b
  let b := showEnable (stgPage e.1) true (showWrite (stgAddr e.1 0x40) (e.1 + 2 ^ 11) b)
  let b := sceneWords e.1 (cs.map fun c => 64 + c.1 + 2 ^ 12) b
  cs.zipIdx.foldl (fun (acc : Blk × FrameStore) c => tileChannel e.2 cs.length c.2 c.1 acc.1 acc.2) (b, m)

/-- What the show would tile now: for each head its timing and its channels. -/
def showPlan (b : Blk) : List (List Nat) :=
  let l := showModes b
  l.zipIdx.map fun e => [e.1.1, e.1.2.num, e.1.2.den] ++ modeWords e.1.2 ++ (shownChans b e.2 l.length).map (·.1)

/-- Channels are not shown any more: event 0x0104 each (R441). -/
def dropChans (h : Nat) (l : List Nat) (b : Blk) : Blk :=
  forEach l (fun c b =>
    raiseAs 0 sysPage 0x104 sevNotice (c + 64 * h) 0 (b.putShow { b.show_ with removed := b.show_.removed ++ [c] })) b

/-- A head takes at most 32 channels; the refusing head of a refused cue gives up its last one (R441). -/
def dropDue (b : Blk) : Blk :=
  let l := (showModes b).map (·.1)
  let live (b : Blk) (i : Nat) : List Nat :=
    ((dealt b i l.length).filter fun (e : Nat × Sdp) => !b.show_.removed.contains e.1).map (·.1)
  let b := forEach l.zipIdx (fun e b => dropChans e.1 ((live b e.2).drop 32) b) b
  match b.show_.refused with
  | some (_, h) =>
    let b := b.putShow { b.show_ with refused := none }
    match l.findIdx? (· == h) with
    | some i => match (live b i).getLast? with
      | some c => dropChans h [c] b
      | none => b
    | none => b
  | none => b

/-- Steps 4 and 5 (R439, R440). -/
def tileAll (b : Blk) (m : FrameStore) : Blk × FrameStore :=
  let l := showModes b
  let gone := b.show_.heads.filter fun h => !l.any (·.1 == h)
  let b := forEach gone (fun h b => showEnable (stgPage h) false (showEnable (ohdPage h) false b)) b
  let r := l.zipIdx.foldl (fun (acc : Blk × FrameStore) e => tileHead e.1 (shownChans acc.1 e.2 l.length) acc.1 acc.2) (b, m)
  let b := r.1.putShow { r.1.show_ with heads := l.map (·.1), tiled := showPlan r.1 }
  (showArm b, r.2)

/-- Steps 1 to 3: the NIF ports, REF0 to REF3, the contacts. -/
def showBasics (b : Blk) : Blk :=
  let b := b.putShow { b.show_ with flipAt := (List.range 16).map fun n => (n, b.now) }
  let b := forEach (List.range 16) (fun n b =>
    showEnable (nifPage n) true (showWrite ((nifPage n).slot * 0x1000 + 0x40) (2 + 16 * (2 * n) + 2 ^ 9) b)) b
  let b := forEach (List.range 4) (fun r b =>
    let a := (Block.clk.slot + r + 1) * 0x1000
    showWrite (a + 0x40) (Nat.lor (rawWord b (a + 0x40)) 1) b) b
  forEach (List.range 16) (fun j b => showWrite (sigPage.slot * 0x1000 + 0x100 + 8 * j) (1 + 4 * 20 + 2 ^ 10 * 6 + 2 ^ 16 * 10) b) b

/-- SHOW_RETILE: the heads or joined sessions have changed, or a cue of the show was refused. -/
def showRetile (b : Blk) (m : FrameStore) : Blk × FrameStore :=
  if !discovers b then (b, m)
  else
    let stale := b.show_.removed.filter fun c => (joinedChans b).any (·.1 == c)
    let first := b.show_.flipAt.isEmpty
    let b := dropDue (b.putShow { b.show_ with removed := stale })
    -- a member that has become the lead begins with steps 1 to 3
    let b := if first then showBasics b else b
    if !first && showPlan b == b.show_.tiled then (b, m) else tileAll b m

/-- SHOW_RETILE. -/
def execShowRetile (dt : Nat) (s : State) : Host.Outcome State Fault Refusal :=
  effM dt s fun b m =>
    let r := showRetile b m
    (announce b r.1 r.2, r.2)

/-! ### Status strip and contact list (R438) -/

/-- The status text. -/
def statusText (b : Blk) : List Nat :=
  let clk := ["WARMUP", "FREERUN", "ACQUIRE", "LOCKED", "HOLDOVER", "HO EXPIRED"].getD (clkState b) "WARMUP"
  let r := if role b = roUnderstudy then "UNDERSTUDY" else if role b = roCurtain then "CURTAIN" else "ACTIVE"
  let t : Nat := Nat.min 199 ((hottestDie b).getD 0 / 10).toNat
  let lanes := (((List.range 16).filter fun u => (b.unit u).state == stActive).map fun u => (unitLanes b u).length).sum
  codes r ++ [32] ++ codes clk ++ [32] ++ digitsOf t ++ codes "C L" ++ digitsOf lanes

/-- Slots 64 and 65 of a running stage, and their commit. -/
def showStrip (st : Nat) (b : Blk) : Blk :=
  let w := stageW b st
  let h := stageH b st
  let s := if 1080 ≤ h then 2 else 1
  let t := statusText b
  let text := (List.range 8).map fun j => ((List.range 4).map fun i => t.getD (4 * j + i) 0 * 256 ^ i).sum
  let slot (k : Nat) (ws : List Nat) (b : Blk) : Blk := showWords (stgAddr st (0x300 + 0x40 * k)) ws b
  let b := slot 0 [1 + 2 * 1 + 8 * 3840 + 2 ^ 26 * 2 + 2 ^ 28 * s, 65536 * (h - 32 * s), w + 65536 * (32 * s)] b
  let b := showWords (stgAddr st 0x320) text b
  let b := slot 1 [1 + 2 * 2 + 8 * 3840 + 2 ^ 28 * s, 0, w + 65536 * Nat.min h (4 * 32 * s), 0xFFFF] b
  showWrite (stgAddr st 0x200) 1 b

/-- Steps 6 and 7: every running stage. -/
def showStrips (b : Blk) : Blk :=
  let b := forEach ((List.range 24).filter (stageRuns b)) showStrip b
  b.putShow { b.show_ with textAt := b.now }

/-- SHOW_STATUS_UPDATE: due every second. -/
def execShowStatusUpdate (dt : Nat) (s : State) : Host.Outcome State Fault Refusal :=
  eff dt s fun b => if showOn b && Nat.ble (b.show_.textAt + 1000000000) b.now then showStrips b else b

/-! ### Start (R437, R438) -/

/-- SHOW_START: no claim has come within 3 s of the operating state, and the module is ACTIVE. -/
def showStart (b : Blk) (m : FrameStore) : Blk × FrameStore :=
  if b.on F.SYS_HOST_CLAIM_CLAIM 0 || b.rd F.SYS_STAT_SHOW 0 != 0 || !b.on F.SYS_STAT_OPERATING 0 || role b != roActive
      || Nat.blt b.now (b.rd F.SYS_OPER_TIME_TIME 0 + 3000000000) then (b, m)
  else
    let b := raiseAs 0 sysPage 0x102 sevNotice (showHeads b).length (evB 2) (b.wr F.SYS_STAT_SHOW 0 1)
    let r := if discovers b then tileAll (showBasics b) m else (b, m)
    (showStrips r.1, r.2)

/-- SHOW_START. -/
def execShowStart (dt : Nat) (s : State) : Host.Outcome State Fault Refusal :=
  effM dt s fun b m =>
    let r := showStart b m
    (announce b r.1 r.2, r.2)

/-- SHOW_SPEED_ALTERNATE: a port of the show that has had no link for 5 s. -/
def showSpeedAlternate (n : Nat) (b : Blk) : Blk :=
  let due := match mget b.show_.flipAt n with | some t => Nat.ble (t + 5000000000) b.now | none => false
  if !discovers b || !due || linkUp b n then b
  else
    let sp := if b.rd F.NIF_CFG_SPEED n = 2 then 1 else 2
    let b := b.putShow { b.show_ with flipAt := mset b.show_.flipAt n b.now }
    showArm (showWrite ((nifPage n).slot * 0x1000 + 0x40) (sp + 16 * (2 * n) + 2 ^ 9) b)

/-- SHOW_SPEED_ALTERNATE. -/
def execShowSpeedAlternate (dt port : Nat) (s : State) : Host.Outcome State Fault Refusal := eff dt s (showSpeedAlternate port)

end Sys2Proof.Machine
end

