-- ==== Sys2Proof/Machine/Dispatch.lean ====
section
/-!
DEFINITION. The one dispatch: one arm per command, each a call of that command's meaning.
-/

namespace Sys2Proof.Machine

def exec (i : Instr) (s : State) : Host.Outcome State Fault Refusal :=
  match i with
  | .registerWrite dt mid bar4 addr words misroute => Sys2Proof.Machine.execRegisterWrite dt mid bar4 addr words misroute s
  | .hostPortReset dt => Sys2Proof.Machine.execHostPortReset dt s
  | .msixPendingSend dt up bme => Sys2Proof.Machine.execMsixPendingSend dt up bme s
  | .pgEvtClear dt mid page data => Sys2Proof.Machine.execPgEvtClear dt mid page data s
  | .pgEvtEnWrite dt mid page data => Sys2Proof.Machine.execPgEvtEnWrite dt mid page data s
  | .errcntClear dt mid page same => Sys2Proof.Machine.execErrcntClear dt mid page same s
  | .firstErrClear dt mid page => Sys2Proof.Machine.execFirstErrClear dt mid page s
  | .spWrite dt addr words check clean => Sys2Proof.Machine.execSpWrite dt addr words check clean s
  | .spRead dt addr n ready => Sys2Proof.Machine.execSpRead dt addr n ready s
  | .spStatus dt => Sys2Proof.Machine.execSpStatus dt s
  | .portReset dt => Sys2Proof.Machine.execPortReset dt s
  | .unknownCommand dt code => Sys2Proof.Machine.execUnknownCommand dt code s
  | .operationOn dt => Sys2Proof.Machine.execOperationOn dt s
  | .operationOff dt => Sys2Proof.Machine.execOperationOff dt s
  | .operationRead dt => Sys2Proof.Machine.execOperationRead dt s
  | .clearFaults dt => Sys2Proof.Machine.execClearFaults dt s
  | .statusWord dt => Sys2Proof.Machine.execStatusWord dt s
  | .statusTemperature dt => Sys2Proof.Machine.execStatusTemperature dt s
  | .readVin dt mV => Sys2Proof.Machine.execReadVin dt mV s
  | .readIin dt mA => Sys2Proof.Machine.execReadIin dt mA s
  | .readTemperature1 dt => Sys2Proof.Machine.execReadTemperature1 dt s
  | .readTemperature2 dt => Sys2Proof.Machine.execReadTemperature2 dt s
  | .readPin dt mW => Sys2Proof.Machine.execReadPin dt mW s
  | .pmbusRevision dt => Sys2Proof.Machine.execPmbusRevision dt s
  | .mfrId dt => Sys2Proof.Machine.execMfrId dt s
  | .mfrModel dt => Sys2Proof.Machine.execMfrModel dt s
  | .mfrRevision dt => Sys2Proof.Machine.execMfrRevision dt s
  | .mfrSerial dt => Sys2Proof.Machine.execMfrSerial dt s
  | .mfrRole dt => Sys2Proof.Machine.execMfrRole dt s
  | .mfrThermalLevel dt => Sys2Proof.Machine.execMfrThermalLevel dt s
  | .mfrEjectRequest dt => Sys2Proof.Machine.execMfrEjectRequest dt s
  | .mfrOrderingCode dt => Sys2Proof.Machine.execMfrOrderingCode dt s
  | .mfrUptime dt => Sys2Proof.Machine.execMfrUptime dt s
  | .smbusUnsupported dt code pecFailed => Sys2Proof.Machine.execSmbusUnsupported dt code pecFailed s
  | .softReset dt mid page data => Sys2Proof.Machine.execSoftReset dt mid page data s
  | .softResetDone dt page => Sys2Proof.Machine.execSoftResetDone dt page s
  | .pgCueArm dt mid page data => Sys2Proof.Machine.execPgCueArm dt mid page data s
  | .pgCueDisarm dt mid page data => Sys2Proof.Machine.execPgCueDisarm dt mid page data s
  | .pgCueDiscard dt mid page data => Sys2Proof.Machine.execPgCueDiscard dt mid page data s
  | .gcueArm dt mid data => Sys2Proof.Machine.execGcueArm dt mid data s
  | .gcueDisarm dt mid data => Sys2Proof.Machine.execGcueDisarm dt mid data s
  | .cueTaken dt group id => Sys2Proof.Machine.execCueTaken dt group id s
  | .errRecordArrival dt page code sev detail mid => Sys2Proof.Machine.execErrRecordArrival dt page code sev detail mid s
  | .errRdIdxWrite dt mid data => Sys2Proof.Machine.execErrRdIdxWrite dt mid data s
  | .errClrLost dt mid data => Sys2Proof.Machine.execErrClrLost dt mid data s
  | .severeQueuePop dt => Sys2Proof.Machine.execSevereQueuePop dt s
  | .sqStatRead dt => Sys2Proof.Machine.execSqStatRead dt s
  | .ringWindowWrite dt mid addr data => Sys2Proof.Machine.execRingWindowWrite dt mid addr data s
  | .curtainUp dt stage => Sys2Proof.Machine.execCurtainUp dt stage s
  | .frameEligible dt chan => Sys2Proof.Machine.execFrameEligible dt chan s
  | .prompterDecision dt layer => Sys2Proof.Machine.execPrompterDecision dt layer s
  | .deadlinePassed dt stage slot => Sys2Proof.Machine.execDeadlinePassed dt stage slot s
  | .pulseChange dt layer => Sys2Proof.Machine.execPulseChange dt layer s
  | .pulseDeadlinePassed dt layer => Sys2Proof.Machine.execPulseDeadlinePassed dt layer s
  | .floorWrite dt mid data => Sys2Proof.Machine.execFloorWrite dt mid data s
  | .freshnessWindowWrite dt mid addr data => Sys2Proof.Machine.execFreshnessWindowWrite dt mid addr data s
  | .logWrapsClear dt mid data => Sys2Proof.Machine.execLogWrapsClear dt mid data s
  | .mapComplete dt stage => Sys2Proof.Machine.execMapComplete dt stage s
  | .ethFrameRx dt port f => Sys2Proof.Machine.execEthFrameRx dt port f s
  | .dropReport dt port => Sys2Proof.Machine.execDropReport dt port s
  | .queryRx dt port version group => Sys2Proof.Machine.execQueryRx dt port version group s
  | .reportRepeat dt port group => Sys2Proof.Machine.execReportRepeat dt port group s
  | .arpReply dt port v6 addr => Sys2Proof.Machine.execArpReply dt port v6 addr s
  | .addrConflict dt port => Sys2Proof.Machine.execAddrConflict dt port s
  | .nifLinkUp dt port => Sys2Proof.Machine.execNifLinkUp dt port s
  | .nifLinkDown dt port cause => Sys2Proof.Machine.execNifLinkDown dt port cause s
  | .fecReport dt port corrected codewords => Sys2Proof.Machine.execFecReport dt port corrected codewords s
  | .rtpPacketRx dt chan p => Sys2Proof.Machine.execRtpPacketRx dt chan p s
  | .pathDown dt chan path => Sys2Proof.Machine.execPathDown dt chan path s
  | .skewTimeout dt chan => Sys2Proof.Machine.execSkewTimeout dt chan s
  | .assemblyTimeout dt chan => Sys2Proof.Machine.execAssemblyTimeout dt chan s
  | .rtcpSrRx dt chan ntp rtp => Sys2Proof.Machine.execRtcpSrRx dt chan ntp rtp s
  | .rtcpSrExpiry dt chan => Sys2Proof.Machine.execRtcpSrExpiry dt chan s
  | .ancPacketRx dt chan p => Sys2Proof.Machine.execAncPacketRx dt chan p s
  | .sapAnnouncement dt port id encrypted compressed sdp => Sys2Proof.Machine.execSapAnnouncement dt port id encrypted compressed sdp s
  | .sapDeletion dt id => Sys2Proof.Machine.execSapDeletion dt id s
  | .sessionTimeout dt id => Sys2Proof.Machine.execSessionTimeout dt id s
  | .publish dt mid layer data => Sys2Proof.Machine.execPublish dt mid layer data s
  | .corruptBlock dt pipe layer => Sys2Proof.Machine.execCorruptBlock dt pipe layer s
  | .lineNotReady dt stage slot line => Sys2Proof.Machine.execLineNotReady dt stage slot line s
  | .headQueueStarved dt stage line => Sys2Proof.Machine.execHeadQueueStarved dt stage line s
  | .signatureArrayDone dt stage => Sys2Proof.Machine.execSignatureArrayDone dt stage s
  | .signatureArrayLate dt stage => Sys2Proof.Machine.execSignatureArrayLate dt stage s
  | .psCommitWrite dt mid stage data => Sys2Proof.Machine.execPsCommitWrite dt mid stage data s
  | .psCheck dt stage k => Sys2Proof.Machine.execPsCheck dt stage k s
  | .sigSample dt levels => Sys2Proof.Machine.execSigSample dt levels s
  | .contactDebounced dt c => Sys2Proof.Machine.execContactDebounced dt c s
  | .contactStuck dt c => Sys2Proof.Machine.execContactStuck dt c s
  | .unsettledTimeout dt c => Sys2Proof.Machine.execUnsettledTimeout dt c s
  | .chatterEnd dt c => Sys2Proof.Machine.execChatterEnd dt c s
  | .contactConfigWrite dt mid c data => Sys2Proof.Machine.execContactConfigWrite dt mid c data s
  | .suppressedClear dt mid data => Sys2Proof.Machine.execSuppressedClear dt mid data s
  | .xsdFrameDone dt ctx cs => Sys2Proof.Machine.execXsdFrameDone dt ctx cs s
  | .vdcAccessUnit dt ctx au => Sys2Proof.Machine.execVdcAccessUnit dt ctx au s
  | .vdcPictureOutput dt ctx => Sys2Proof.Machine.execVdcPictureOutput dt ctx s
  | .vdcStall dt ctx => Sys2Proof.Machine.execVdcStall dt ctx s
  | .vdcSlotFree dt ctx => Sys2Proof.Machine.execVdcSlotFree dt ctx s
  | .vecRowReady dt ctx row lost => Sys2Proof.Machine.execVecRowReady dt ctx row lost s
  | .vecRowCoded dt ctx row r => Sys2Proof.Machine.execVecRowCoded dt ctx row r s
  | .vecSliceOut dt ctx sets nals => Sys2Proof.Machine.execVecSliceOut dt ctx sets nals s
  | .vecForceIdr dt mid ctx data => Sys2Proof.Machine.execVecForceIdr dt mid ctx data s
  | .headFrameStart dt head blank => Sys2Proof.Machine.execHeadFrameStart dt head blank s
  | .hpdSample dt levels => Sys2Proof.Machine.execHpdSample dt levels s
  | .hpdStateChange dt head => Sys2Proof.Machine.execHpdStateChange dt head s
  | .irqHpd dt head status => Sys2Proof.Machine.execIrqHpd dt head status s
  | .auxTransaction dt head i2c addr write bytes reply => Sys2Proof.Machine.execAuxTransaction dt head i2c addr write bytes reply s
  | .auxTimeout dt head => Sys2Proof.Machine.execAuxTimeout dt head s
  | .linkTraining dt head result topo drive => Sys2Proof.Machine.execLinkTraining dt head result topo drive s
  | .trainingAttemptTimeout dt head => Sys2Proof.Machine.execTrainingAttemptTimeout dt head s
  | .edidRead dt head remote => Sys2Proof.Machine.execEdidRead dt head remote s
  | .headResume dt head => Sys2Proof.Machine.execHeadResume dt head s
  | .linkCheck dt head status => Sys2Proof.Machine.execLinkCheck dt head status s
  | .txPacket dt head lost => Sys2Proof.Machine.execTxPacket dt head lost s
  | .ptpSync dt ref t1 adjust dco => Sys2Proof.Machine.execPtpSync dt ref t1 adjust dco s
  | .ptpAnnounce dt ref a => Sys2Proof.Machine.execPtpAnnounce dt ref a s
  | .ptpDelayReq dt ref => Sys2Proof.Machine.execPtpDelayReq dt ref s
  | .ptpDelayResp dt ref t4 => Sys2Proof.Machine.execPtpDelayResp dt ref t4 s
  | .announceTimeout dt ref => Sys2Proof.Machine.execAnnounceTimeout dt ref s
  | .exchangeTimeout dt ref => Sys2Proof.Machine.execExchangeTimeout dt ref s
  | .houseSyncFrame dt good filtered dco => Sys2Proof.Machine.execHouseSyncFrame dt good filtered dco s
  | .f10mLoss dt lost dco => Sys2Proof.Machine.execF10mLoss dt lost dco s
  | .ppsPulse dt count filtered dco => Sys2Proof.Machine.execPpsPulse dt count filtered dco s
  | .ppsTimeout dt => Sys2Proof.Machine.execPpsTimeout dt s
  | .refQualified dt ref => Sys2Proof.Machine.execRefQualified dt ref s
  | .refDisqualified dt ref cause freq => Sys2Proof.Machine.execRefDisqualified dt ref cause freq s
  | .refJump dt => Sys2Proof.Machine.execRefJump dt s
  | .jumpTimeout dt => Sys2Proof.Machine.execJumpTimeout dt s
  | .selectorRun dt => Sys2Proof.Machine.execSelectorRun dt s
  | .clockLocked dt => Sys2Proof.Machine.execClockLocked dt s
  | .ocxoReady dt => Sys2Proof.Machine.execOcxoReady dt s
  | .holdoverExpired dt => Sys2Proof.Machine.execHoldoverExpired dt s
  | .pullIn dt => Sys2Proof.Machine.execPullIn dt s
  | .holdoverUpdate dt => Sys2Proof.Machine.execHoldoverUpdate dt s
  | .tempBinUpdate dt => Sys2Proof.Machine.execTempBinUpdate dt s
  | .ageingSample dt => Sys2Proof.Machine.execAgeingSample dt s
  | .learningSave dt => Sys2Proof.Machine.execLearningSave dt s
  | .learnSave dt mid data => Sys2Proof.Machine.execLearnSave dt mid data s
  | .learnClear dt mid data => Sys2Proof.Machine.execLearnClear dt mid data s
  | .learningRestore dt => Sys2Proof.Machine.execLearningRestore dt s
  | .driftSample dt ref y => Sys2Proof.Machine.execDriftSample dt ref y s
  | .todWrite dt mid lo hi => Sys2Proof.Machine.execTodWrite dt mid lo hi s
  | .todStepApply dt => Sys2Proof.Machine.execTodStepApply dt s
  | .leapAdjust dt => Sys2Proof.Machine.execLeapAdjust dt s
  | .detectProbe dt unit sensed => Sys2Proof.Machine.execDetectProbe dt unit sensed s
  | .bringupTimeout dt unit => Sys2Proof.Machine.execBringupTimeout dt unit s
  | .backoffExpiry dt unit => Sys2Proof.Machine.execBackoffExpiry dt unit s
  | .trainingFrame dt lane bad inverted control status trained => Sys2Proof.Machine.execTrainingFrame dt lane bad inverted control status trained s
  | .trainingComplete dt lane => Sys2Proof.Machine.execTrainingComplete dt lane s
  | .bitLock dt unit => Sys2Proof.Machine.execBitLock dt unit s
  | .blockLock dt unit skew delay hunts => Sys2Proof.Machine.execBlockLock dt unit skew delay hunts s
  | .signalLoss dt lane cause obs => Sys2Proof.Machine.execSignalLoss dt lane cause obs s
  | .activeHold dt unit => Sys2Proof.Machine.execActiveHold dt unit s
  | .capabilityFrame dt port words => Sys2Proof.Machine.execCapabilityFrame dt port words s
  | .capFrameSend dt port => Sys2Proof.Machine.execCapFrameSend dt port s
  | .goodbyeRx dt port => Sys2Proof.Machine.execGoodbyeRx dt port s
  | .chainoFrameRx dt port codewords => Sys2Proof.Machine.execChainoFrameRx dt port codewords s
  | .expressGroupRx dt port codewords => Sys2Proof.Machine.execExpressGroupRx dt port codewords s
  | .eyeScanStart dt mid lane data => Sys2Proof.Machine.execEyeScanStart dt mid lane data s
  | .eyeScanAbort dt mid lane data => Sys2Proof.Machine.execEyeScanAbort dt mid lane data s
  | .eyePointDone dt lane errs => Sys2Proof.Machine.execEyePointDone dt lane errs s
  | .quickScan dt lane phase volt => Sys2Proof.Machine.execQuickScan dt lane phase volt s
  | .marginRebase dt mid lane data => Sys2Proof.Machine.execMarginRebase dt mid lane data s
  | .laneSerHour dt lane => Sys2Proof.Machine.execLaneSerHour dt lane s
  | .pairForm dt => Sys2Proof.Machine.execPairForm dt s
  | .roleSettle dt => Sys2Proof.Machine.execRoleSettle dt s
  | .heartbeatSend dt => Sys2Proof.Machine.execHeartbeatSend dt s
  | .heartbeatRx dt p sel utc dco => Sys2Proof.Machine.execHeartbeatRx dt p sel utc dco s
  | .callFrameSend dt => Sys2Proof.Machine.execCallFrameSend dt s
  | .callFrameRx dt p => Sys2Proof.Machine.execCallFrameRx dt p s
  | .heartbeatPathLost dt pathA => Sys2Proof.Machine.execHeartbeatPathLost dt pathA s
  | .claimWindowEnd dt => Sys2Proof.Machine.execClaimWindowEnd dt s
  | .ownContest dt => Sys2Proof.Machine.execOwnContest dt s
  | .epochBoundary dt => Sys2Proof.Machine.execEpochBoundary dt s
  | .epochEndSend dt => Sys2Proof.Machine.execEpochEndSend dt s
  | .epochFrameRx dt f => Sys2Proof.Machine.execEpochFrameRx dt f s
  | .epochEndRx dt e => Sys2Proof.Machine.execEpochEndRx dt e s
  | .epochCommitDone dt => Sys2Proof.Machine.execEpochCommitDone dt s
  | .epochFail dt => Sys2Proof.Machine.execEpochFail dt s
  | .epochAckRx dt epoch ok sync => Sys2Proof.Machine.execEpochAckRx dt epoch ok sync s
  | .fullSyncStart dt => Sys2Proof.Machine.execFullSyncStart dt s
  | .fullSyncComplete dt => Sys2Proof.Machine.execFullSyncComplete dt s
  | .syncTimeout dt => Sys2Proof.Machine.execSyncTimeout dt s
  | .storeReleased dt => Sys2Proof.Machine.execStoreReleased dt s
  | .pairSwitch dt mid data => Sys2Proof.Machine.execPairSwitch dt mid data s
  | .pairClearFault dt mid data => Sys2Proof.Machine.execPairClearFault dt mid data s
  | .pairResync dt mid data => Sys2Proof.Machine.execPairResync dt mid data s
  | .rehearsalSend dt stage second => Sys2Proof.Machine.execRehearsalSend dt stage second s
  | .rehearsalCompare dt stage r => Sys2Proof.Machine.execRehearsalCompare dt stage r s
  | .rehearsalTimeout dt stage => Sys2Proof.Machine.execRehearsalTimeout dt stage s
  | .secondOpinion dt => Sys2Proof.Machine.execSecondOpinion dt s
  | .secondOpinionTimeout dt => Sys2Proof.Machine.execSecondOpinionTimeout dt s
  | .takeoverRelease dt => Sys2Proof.Machine.execTakeoverRelease dt s
  | .ownRelease dt => Sys2Proof.Machine.execOwnRelease dt s
  | .uncontrolledTakeover dt => Sys2Proof.Machine.execUncontrolledTakeover dt s
  | .takePoint dt => Sys2Proof.Machine.execTakePoint dt s
  | .beaconSend dt => Sys2Proof.Machine.execBeaconSend dt s
  | .beaconRx dt port direct p mate clk quality unc utc dco => Sys2Proof.Machine.execBeaconRx dt port direct p mate clk quality unc utc dco s
  | .memberLost dt pos => Sys2Proof.Machine.execMemberLost dt pos s
  | .ringJoin dt => Sys2Proof.Machine.execRingJoin dt s
  | .junctionForm dt peerUplink => Sys2Proof.Machine.execJunctionForm dt peerUplink s
  | .leadElection dt => Sys2Proof.Machine.execLeadElection dt s
  | .memberWindowAccess dt mid addr data value write lost path => Sys2Proof.Machine.execMemberWindowAccess dt mid addr data value write lost path s
  | .sharedTableWrite dt mid addr data port => Sys2Proof.Machine.execSharedTableWrite dt mid addr data port s
  | .relayFrameRx dt port f bad => Sys2Proof.Machine.execRelayFrameRx dt port f bad s
  | .ensCueCheck dt => Sys2Proof.Machine.execEnsCueCheck dt s
  | .ensCueResult dt refusers => Sys2Proof.Machine.execEnsCueResult dt refusers s
  | .joinCopyDone dt => Sys2Proof.Machine.execJoinCopyDone dt s
  | .ringIsolated dt => Sys2Proof.Machine.execRingIsolated dt s
  | .memAccess dt mid addr n write misroute bytes flips skew beaten => Sys2Proof.Machine.execMemAccess dt mid addr n write misroute bytes flips skew beaten s
  | .arbGrant dt chan waiting => Sys2Proof.Machine.execArbGrant dt chan waiting s
  | .scrubRead dt flips skew beaten => Sys2Proof.Machine.execScrubRead dt flips skew beaten s
  | .sramPatrol dt region word flips skew x y z => Sys2Proof.Machine.execSramPatrol dt region word flips skew x y z s
  | .heldWindow dt chan util urgent ing codec sys scrub => Sys2Proof.Machine.execHeldWindow dt chan util urgent ing codec sys scrub s
  | .ceHour dt chan => Sys2Proof.Machine.execCeHour dt chan s
  | .crcStart dt mid unit => Sys2Proof.Machine.execCrcStart dt mid unit s
  | .crcTrigger dt unit => Sys2Proof.Machine.execCrcTrigger dt unit s
  | .crcRunEnd dt unit disturbed => Sys2Proof.Machine.execCrcRunEnd dt unit disturbed s
  | .crcAbort dt mid unit => Sys2Proof.Machine.execCrcAbort dt mid unit s
  | .openProposal dt mid => Sys2Proof.Machine.execOpenProposal dt mid s
  | .submit dt mid => Sys2Proof.Machine.execSubmit dt mid s
  | .withdraw dt mid => Sys2Proof.Machine.execWithdraw dt mid s
  | .reject dt mid => Sys2Proof.Machine.execReject dt mid s
  | .propSign dt mid data => Sys2Proof.Machine.execPropSign dt mid data s
  | .proposalAreaWrite dt mid addr data => Sys2Proof.Machine.execProposalAreaWrite dt mid addr data s
  | .proposalTimeout dt => Sys2Proof.Machine.execProposalTimeout dt s
  | .fenceDrained dt => Sys2Proof.Machine.execFenceDrained dt s
  | .fenceTimeout dt => Sys2Proof.Machine.execFenceTimeout dt s
  | .violCountClear dt mid => Sys2Proof.Machine.execViolCountClear dt mid s
  | .idcode dt => Sys2Proof.Machine.execIdcode dt s
  | .dauRead dt frameStore addr => Sys2Proof.Machine.execDauRead dt frameStore addr s
  | .dauWrite dt frameStore addr data => Sys2Proof.Machine.execDauWrite dt frameStore addr data s
  | .dauStatus dt => Sys2Proof.Machine.execDauStatus dt s
  | .bypass dt code tdi => Sys2Proof.Machine.execBypass dt code tdi s
  | .longContactMate dt => Sys2Proof.Machine.execLongContactMate dt s
  | .mcReady dt slot => Sys2Proof.Machine.execMcReady dt slot s
  | .pinSample dt present eject => Sys2Proof.Machine.execPinSample dt present eject s
  | .presenceActive dt => Sys2Proof.Machine.execPresenceActive dt s
  | .powerOnCheck dt least most => Sys2Proof.Machine.execPowerOnCheck dt least most s
  | .softStartDone dt => Sys2Proof.Machine.execSoftStartDone dt s
  | .internalResetRelease dt straps => Sys2Proof.Machine.execInternalResetRelease dt straps s
  | .operatingState dt => Sys2Proof.Machine.execOperatingState dt s
  | .startupAbort dt => Sys2Proof.Machine.execStartupAbort dt s
  | .powerFault dt code => Sys2Proof.Machine.execPowerFault dt code s
  | .uvWarning dt least => Sys2Proof.Machine.execUvWarning dt least s
  | .railLoss dt uv => Sys2Proof.Machine.execRailLoss dt uv s
  | .auxRailLoss dt => Sys2Proof.Machine.execAuxRailLoss dt s
  | .strapSample dt straps => Sys2Proof.Machine.execStrapSample dt straps s
  | .resetNAssert dt => Sys2Proof.Machine.execResetNAssert dt s
  | .sysResetKey dt mid data => Sys2Proof.Machine.execSysResetKey dt mid data s
  | .moduleReset dt => Sys2Proof.Machine.execModuleReset dt s
  | .hostClaim dt mid => Sys2Proof.Machine.execHostClaim dt mid s
  | .showStart dt => Sys2Proof.Machine.execShowStart dt s
  | .showRetile dt => Sys2Proof.Machine.execShowRetile dt s
  | .showStatusUpdate dt => Sys2Proof.Machine.execShowStatusUpdate dt s
  | .showSpeedAlternate dt port => Sys2Proof.Machine.execShowSpeedAlternate dt port s
  | .ejectWarning dt => Sys2Proof.Machine.execEjectWarning dt s
  | .hswEject dt mid => Sys2Proof.Machine.execHswEject dt mid s
  | .ejectOwnRelease dt => Sys2Proof.Machine.execEjectOwnRelease dt s
  | .ejectPowerOff dt => Sys2Proof.Machine.execEjectPowerOff dt s
  | .ejectorClosed dt => Sys2Proof.Machine.execEjectorClosed dt s
  | .ejectResetDue dt => Sys2Proof.Machine.execEjectResetDue dt s
  | .sensorConversion dt temps => Sys2Proof.Machine.execSensorConversion dt temps s
  | .sensorFailed dt n => Sys2Proof.Machine.execSensorFailed dt n s
  | .sensorRecovered dt n => Sys2Proof.Machine.execSensorRecovered dt n s
  | .levelFall dt => Sys2Proof.Machine.execLevelFall dt s
  | .throttleInterval dt => Sys2Proof.Machine.execThrottleInterval dt s
  | .throttleFall dt => Sys2Proof.Machine.execThrottleFall dt s
  | .shutdownPowerOff dt => Sys2Proof.Machine.execShutdownPowerOff dt s
  | .threshWrite dt mid c data => Sys2Proof.Machine.execThreshWrite dt mid c data s
  | .ocxoTempPass dt => Sys2Proof.Machine.execOcxoTempPass dt s
  | .ageingMeasure dt slowdown => Sys2Proof.Machine.execAgeingMeasure dt slowdown s
  | .lifeTick dt => Sys2Proof.Machine.execLifeTick dt s
  | .ownInDeasserted dt => Sys2Proof.Machine.execOwnInDeasserted dt s
  | .oldQuerierTimeout dt port => Sys2Proof.Machine.execOldQuerierTimeout dt port s

end Sys2Proof.Machine
end

