-- ==== Sys2Proof/Safety.lean ====
section
/-!
DEFINITION. The terms in which statements are made: what recording an event may change, which registers a command leaves alone, the
parts of the block beside its registers, and when a state is canonical.
-/

namespace Sys2Proof.Machine

/-- A register that recording an event on a page may change: the page's header (R57), the ERR page (R65 to R69), and SYS_ROLE and
PAIR_STAT.READY, which a fatal record changes (R37, R348). -/
def evKey (p : Page) (k : Nat) : Bool :=
  (k / 131072 == p.slot && Nat.blt (k % 131072) 2048) || k / 131072 == 16 || k / 32 == 0x104
    || k == F.PAIR_STAT_READY.key 0 0

/-- Every register holds its value, but for those with the keys `ks` and those that events on the pages `ps` may change. -/
def Blk.holds (b b' : Blk) (ps : List Page) (ks : List Nat) : Prop :=
  ∀ k, (∀ p ∈ ps, evKey p k = false) → k ∉ ks → mget b'.regs k = mget b.regs k

/-- The block but for its registers, its event storage, what it has sent and what waits to be sent. -/
def Blk.rest (b : Blk) : Blk :=
  { b with regs := [], ctl := { b.ctl with ring := [], severe := [], fatal := false, msixPending := [], flagAt := [] }, out := [] }

/-- From one block to another, nothing changed but the registers with the keys `ks` and what events on the pages `ps` may change. -/
def Blk.moved (a b : Blk) (ps : List Page) (ks : List Nat) : Prop := b.rest = a.rest ∧ a.holds b ps ks

/-- From one block to another, nothing changed but the registers with the keys `ks`. -/
def Blk.wrote (a b : Blk) (ks : List Nat) : Prop := b = { a with regs := b.regs } ∧ a.holds b [] ks

/-- A write by a host to a range that the pair copies (R336). -/
def copies (mid a : Nat) : Bool := copiedRange a && (mid == 0x01 || mid == 0x04)

/-- A write of one whole word takes effect: the word is mapped (R44), access control grants it (R406), neither the pair nor the
ensemble holds or discards it (R337, R340, R368), no soft reset is in progress on its page (R56), its values are legal (R9), and it
changes no field that is restricted to another MID (R412). Writes by debug, MID 0x08, also count as uses of debug (R425) and are
spoken of apart. -/
def accepts (b : Blk) (mid a data : Nat) : Bool :=
  a % 4 == 0 && mid != 0x08 && mapped a && (regCheck b mid a true).isNone
    && !(b.on F.PAIR_EPOCH_FILL_HELD 0 && (mid == 0x01 || mid == 0x04))
    && !(copies mid a && (copyDiscards b || (copying b && epochFull b 2)))
    && !(sharedRange a && sharedClosed b) && !resetHolds b a && !valueBad b mid a data && !changesRestricted b a mid data

/-- The fields of a written word take their values by their access codes, and the word is staged if it holds RWS fields (R11, R12). -/
def stored (mid a data : Nat) (b : Blk) : Blk := forEach (hitsAt a) (storeField mid a data false) (stageWord mid a data false b)

/-- What follows a write that took effect, `b0` being the block before it: its stamp for rehearsal (R350), its record in the epoch
while epochs are sent (R336), and on the lead its copies to the other members (R371). -/
def settled (b0 : Blk) (mid a data : Nat) (b : Blk) : Blk :=
  let b := if copies mid a then stampWrite (b.rd F.PAIR_EPOCH_EPOCH 0) a b else b
  let b := if copies mid a && copying b0 then copyRecord mid a data b else b
  sharedForward mid a data b

/-- A state with another block: what a command leaves that neither takes commands nor writes the frame store. -/
def State.withBlk (s : State) (b : Blk) : State := { s with blk := b }

/-- A state with another block and frame store. -/
def State.withBoth (s : State) (b : Blk) (m : FrameStore) : State := { s with blk := b, store := m }

/-- The state is canonical: the frame store lists its bytes in rising order and no byte that an unlisted address reads as (R386). -/
def State.canonical (s : State) : Prop := s.store.wf = true

/-- The commands that may change the frame store: accesses, engines that write pictures, records and signatures, epochs, the show's
captions, and what takes the memory's power or starts it up. -/
def writesStore : Instr → Bool
  | .spWrite .. | .spRead .. | .curtainUp .. | .rtpPacketRx .. | .pathDown .. | .skewTimeout .. | .assemblyTimeout ..
  | .signatureArrayDone .. | .xsdFrameDone .. | .vdcAccessUnit .. | .vdcPictureOutput .. | .vdcSlotFree .. | .vecRowCoded ..
  | .vecSliceOut .. | .epochBoundary .. | .epochFrameRx .. | .storeReleased .. | .relayFrameRx .. | .memAccess ..
  | .scrubRead .. | .dauRead .. | .dauWrite .. | .operatingState .. | .startupAbort .. | .powerFault .. | .railLoss ..
  | .auxRailLoss .. | .resetNAssert .. | .moduleReset .. | .showStart .. | .showRetile .. | .ejectPowerOff ..
  | .ejectResetDue .. | .shutdownPowerOff .. => true
  | _ => false

/-- The registers that record violations: ACG_VIOL_COUNT, ACG_VFIRST and the violation log's write index (R416). -/
def violKeys : List Nat :=
  [F.ACG_VIOL_COUNT_COUNT.key 0 0, F.ACG_VFIRST_W0.key 0 0, F.ACG_VFIRST_W1.key 0 0, F.ACG_VFIRST_W2.key 0 0,
    F.ACG_VFIRST_W3.key 0 0, F.ACG_VFIRST_VALID.key 0 0, F.ACG_VLOG_WR_IDX.key 3 0]

/-- A second opinion is noted: the dispute ends, PAIR_SO_LAST holds it, and event 0x0108 records it (R353). -/
def opinionNoted (st t out sev : Nat) (b : Blk) : Blk :=
  pairEvent 0x108 sev (out + 8 * st + 256 * t) (evB 3)
    (((((b.putPr { b.pr with dispute := none, opinion := none }).wr F.PAIR_SO_LAST_OUTCOME 0 out).wr F.PAIR_SO_LAST_STAGE 0 st).wr
      F.PAIR_SO_LAST_TILE 0 t))

/-- A command completes: it ends in a next state with this queue, not in a fault or a refusal. -/
def Completes (c : Instr) (s : State) : Prop := ∃ t, exec c s = .next t ∧ t.pending = s.pending

end Sys2Proof.Machine
end

