-- ==== Sys2Proof/Certificates/Slice0/Obligations.lean ====
section
/-!
DEFINITION. The statements about the module. The clauses of a statement are joined by ∧; the comment before a clause names what it
is about and the rules of the spec it rests on. Where a clause speaks of a state after the time since the previous command has
passed, that is `s.blk.tick dt`. The witness of each clause with hypotheses stands in Tests/Slice0.lean.
-/

open Sys2Proof Sys2Proof.Machine

/-- A step takes the command at the front of the queue and has its effect. When the queue of waiting commands is c followed by
rest, step of the state is exec of c on the state whose queue is rest. When the queue is empty, step answers the state
unchanged (the module idles: the model's choice, log entry 1). -/
def Obligations.StepRunsTheFrontCommand : Prop :=
  -- stepRuns
  (∀ (c : Instr) (s : State) (rest : List Instr),
    s.pending = c :: rest →
    step s = exec c { s with pending := rest }) ∧
  -- stepIdles
  (∀ (s : State),
    s.pending = [] →
    step s = .next s)

/-- The opcode table gives no bits: no word spells a command, and none enters the queue. The opcode table gives no row any
bits, so decodeTableWord answers none for every word and width, and withFetchWord leaves every state unchanged (log entry 2). -/
def Obligations.WordsSpellNoCommand : Prop :=
  -- wordsSpellNone
  (∀ (n w : Nat) (s : State),
    decodeTableWord n w = none ∧ s.withFetchWord n w = s)

/-- Every command completes from every state and takes nothing from the queue behind it. For every command and every state
exec answers a next state, neither a fault nor a refusal, with the queue as it was; and a step with a command at the front
answers a next state whose queue is the rest. -/
def Obligations.EveryCommandCompletes : Prop :=
  -- completes
  (∀ (c : Instr) (s : State),
    Completes c s) ∧
  -- queueBehind
  (∀ (c : Instr) (s : State) (rest : List Instr),
    s.pending = c :: rest →
    ∃ t, step s = .next t ∧ t.pending = rest)

/-- What reset leaves: every register at its reset value, an empty frame store that reads 0, an empty queue. After reset every
register field reads its reset value (for fields whose reset value the spec does not give, the values named in log entries 3
and 4, the model's choice); every byte of the frame store reads 0 and is correctable, the frame store is canonical, no command
waits; the ring, the severe queue, the armed cues and the staged words are empty and nothing has been sent; and four values
the spec gives: ING page 0 reports layout version 1 and its block type, its ENABLE is 0, ROLE is WINGS, and the second class's
threshold 1 is 85. -/
def Obligations.ResetLeaves : Prop :=
  -- resetRegisters
  (∀ (f : Fld) (i k : Nat),
    State.reset.blk.rd f i k = f.rst i k) ∧
  -- resetStore
  (∀ (a : Nat),
    State.reset.store.byte a = 0 ∧ State.reset.store.isMarked a = false ∧ State.reset.canonical ∧ State.reset.pending = []) ∧
  -- resetRecords
  (State.reset.blk.ctl.ring = [] ∧ State.reset.blk.ctl.severe = [] ∧ State.reset.blk.ctl.cues = [] ∧ State.reset.blk.ctl.groups = [] ∧
      State.reset.blk.ctl.staged = [] ∧ State.reset.blk.out = []) ∧
  -- resetValues
  (readPure State.reset.blk 0x120000 = 0x09000001 ∧ State.reset.blk.rd F.PG_CTRL_ENABLE 0x120 = 0 ∧ State.reset.blk.rd F.SYS_ROLE_ROLE 0 = 1 ∧
      State.reset.blk.rd F.THM_THRESH_L1 0 1 = 85)

/-- Every step keeps the frame store in its canonical form. From every state whose frame store is in canonical form (addresses
strictly rising, no byte listed that an unlisted address reads as), a step answers only states whose frame store is in
canonical form; and the state after reset has it. -/
def Obligations.EveryStepKeepsTheStoreCanonical : Prop :=
  -- stepKeepsCanonical
  (∀ (s t : State),
    s.canonical →
    step s = .next t →
    t.canonical) ∧
  -- resetCanonical
  (State.reset.canonical)

/-- No other command than those that write the frame store changes a byte of it. A command that is not one of the 34 that
writesStore names leaves every byte of the frame store, and every word's uncorrectable mark, as it was. -/
def Obligations.OnlyWritersChangeTheFrameStore : Prop :=
  -- othersKeepStore
  (∀ (c : Instr) (s t : State) (a : Nat),
    writesStore c = false →
    exec c s = .next t →
    t.store.byte a = s.store.byte a ∧ t.store.isMarked a = s.store.isMarked a)

/-- A frame-store access changes no byte outside the bytes it writes, and they read as written. A MEM_ACCESS from a state with
a canonical frame store changes no byte outside the n bytes from its address, and none at all if it is a read, whatever access
control, errors or the pair make of it; a granted whole write completes and its bytes then read as written. -/
def Obligations.FrameStoreAccessFrames : Prop :=
  -- memAccessFrame
  (∀ (s t : State) (dt mid a n q x flips skew : Nat) (write misroute beaten : Bool) (l : List Nat),
    s.canonical →
    exec (.memAccess dt mid a n write misroute l flips skew beaten) s = .next t →
    q = storeAddr mid a s.blk →
    ((readCoded s.store (q / 8) flips skew).2 = 1 → (readCoded s.store (q / 8) flips skew).1 = s.store.leRead (8 * (q / 8)) 8) →
    write = false ∨ x < q ∨ q + n ≤ x →
    t.store.byte x = s.store.byte x) ∧
  -- memAccessReadsBack
  (∀ (s : State) (dt mid a n j q : Nat) (l : List Nat) (beaten : Bool) (b : Blk),
    b = s.blk.tick dt →
    s.canonical →
    (q = storeAddr mid a b ∧ (mid = 0x01 → b.rd F.SYS_FSWIN_BASE 0 < usable b / 2 ^ 28)) →
    fsGranted b mid q true = true ∧ q + n ≤ usable b →
    8 ≤ n ∨ s.store.isMarked q = false →
    ((mid = 0x01 ∨ mid = 0x04) → copyDiscards b = false ∧ b.on F.PAIR_EPOCH_FILL_HELD 0 = false ∧ copying b = false) →
    l.length = n ∧ j < n →
    ∃ t, exec (.memAccess dt mid a n true false l 0 0 beaten) s = .next t ∧ t.blk = b ∧ t.store.byte (q + j) = l.getD j 0 % 256)

/-- Bit 0 is the least significant bit, a range includes both ends, and multi-byte values are little-endian. Bit k of a
field's value is bit lo + k of its word and a field of width w has no bit from w on, so a range [high:low] includes both ends
and bit 0 is the least significant; word j of a register that spans words holds bits 32j to 32j + 31; and n bytes written to
the frame store from an address have the least significant byte at the lowest address and read back as the number modulo
256^n. -/
def Obligations.LittleEndian : Prop :=
  -- fieldBits: R8
  (∀ (v lo w k : Nat),
    k < w →
    (bits v lo w).testBit k = v.testBit (lo + k) ∧ (bits v lo w).testBit (w + k) = false) ∧
  -- multiWordField: R8
  (∀ (f : Fld) (v j k : Nat),
    k < 32 ∧ f.lo ≤ 32 * j + k →
    (fldWord f v j).testBit k = v.testBit (32 * j + k - f.lo)) ∧
  -- littleEndian: R8
  (∀ (m : FrameStore) (a n v k : Nat),
    m.wf = true →
    k < n →
    (m.leWrite a n v).byte (a + k) = v / 256 ^ k % 256 ∧ (m.leWrite a n v).leRead a n = v % 256 ^ n)

/-- Every MID may read the header of every page, locked or not. For every MID and every state, whatever the rules in effect
lock, access control grants a read of offsets 0x000 to 0x03F of every page; and a read of a mapped header word answers the
header's word, is not refused and changes nothing (for MID 0x08 a read also counts as use of debug, R425, and is left out of
the second clause). -/
def Obligations.HeadersReadByEveryMid : Prop :=
  -- headerReadGranted: R58
  (∀ (b : Blk) (mid n o : Nat) (p : Page),
    pageOfSlot n = some p →
    o < 0x40 →
    regCheck b mid (n * 0x1000 + o) false = none) ∧
  -- headerReadDone: R58
  (∀ (b : Blk) (port mid n o : Nat) (p : Page),
    pageOfSlot n = some p →
    o < 0x40 ∧ o % 4 = 0 →
    mid ≠ 8 ∧ mapped (n * 0x1000 + o) = true →
    (∀ h ∈ hitsAt (n * 0x1000 + o), h.f.words = 1) →
    busRead port mid (n * 0x1000 + o) b = (b, headerWord b p o, false))

/-- Commands on the header of a page. For each of the header commands (clearing PG_EVT, writing PG_EVT_EN, clearing PG_ERRCNT
and PG_FIRST_ERR, a soft reset and its end, arming, disarming and discarding a page cue), under a page that exists and a write
that is accepted, the next state it leaves: the written fields, the vector sent again, what follows an accepted write, and
nothing else. Three clauses give what a write of PG_CUE does: an arm of a reserved point, under GRP_EN or while armed is
ignored with event 0x0006 and else arms; DISARM disarms; DISCARD drops the page's staged words. -/
def Obligations.PageHeaderCommands : Prop :=
  -- pgEvtClear: R57, R46, R13
  (∀ (s : State) (dt mid page data d : Nat) (p : Page),
    pageOfSlot page = some p →
    d = cleared data (freshFlags (s.blk.tick dt) (page * 0x1000 + 0x10)) →
    accepts (s.blk.tick dt) mid (page * 0x1000 + 0x10) data = true →
    exec (.pgEvtClear dt mid page data) s = .next (s.withBlk (resendVector p ((s.blk.tick dt)
      |>.wr F.PG_EVT_ERROR page (cleared (s.blk.rd F.PG_EVT_ERROR page) (bits d 0 1))
      |>.wr F.PG_EVT_CUE_DONE page (cleared (s.blk.rd F.PG_EVT_CUE_DONE page) (bits d 1 1))
      |>.wr F.PG_EVT_CUE_REFUSED page (cleared (s.blk.rd F.PG_EVT_CUE_REFUSED page) (bits d 2 1))
      |>.wr F.PG_EVT_RESET_DONE page (cleared (s.blk.rd F.PG_EVT_RESET_DONE page) (bits d 3 1))
      |>.wr F.PG_EVT_BLOCK page (cleared (s.blk.rd F.PG_EVT_BLOCK page) (bits d 16 16)))))) ∧
  -- pgEvtEnWrite: R57, R46
  (∀ (s : State) (dt mid page data : Nat) (p : Page),
    pageOfSlot page = some p →
    accepts (s.blk.tick dt) mid (page * 0x1000 + 0x14) data = true →
    exec (.pgEvtEnWrite dt mid page data) s = .next (s.withBlk (resendVector p ((s.blk.tick dt)
      |>.wr F.PG_EVT_EN_ERROR page (bits data 0 1)
      |>.wr F.PG_EVT_EN_CUE_DONE page (bits data 1 1)
      |>.wr F.PG_EVT_EN_CUE_REFUSED page (bits data 2 1)
      |>.wr F.PG_EVT_EN_RESET_DONE page (bits data 3 1)
      |>.wr F.PG_EVT_EN_BLOCK page (bits data 16 16))))) ∧
  -- errcntClear: R57
  (∀ (s : State) (dt mid page : Nat) (same : Bool) (p : Page),
    pageOfSlot page = some p →
    accepts (s.blk.tick dt) mid (page * 0x1000 + 0x18) (2 ^ 31) = true →
    exec (.errcntClear dt mid page same) s = .next (s.withBlk ((s.blk.tick dt)
      |>.wr F.PG_ERRCNT_COUNT page (b2n (same || freshFlags (s.blk.tick dt) (page * 0x1000 + 0x1C) != 0))))) ∧
  -- firstErrClear: R57
  (∀ (s : State) (dt mid page d : Nat) (p : Page),
    pageOfSlot page = some p →
    d = cleared (2 ^ 31) (freshFlags (s.blk.tick dt) (page * 0x1000 + 0x1C)) →
    accepts (s.blk.tick dt) mid (page * 0x1000 + 0x1C) (2 ^ 31) = true →
    exec (.firstErrClear dt mid page) s = .next (s.withBlk (recapture (page * 0x1000 + 0x1C)
      (fun b => b.rstF F.PG_FIRST_ERR_CODE page |>.rstF F.PG_FIRST_ERR_DETAIL page |>.rstF F.PG_FIRST_ERR_SEV page)
      ((s.blk.tick dt).wr F.PG_FIRST_ERR_VALID page (cleared (s.blk.rd F.PG_FIRST_ERR_VALID page) (bits d 31 1)))))) ∧
  -- softReset: R56
  (∀ (s : State) (dt mid page data : Nat) (p : Page),
    pageOfSlot page = some p →
    p.resettable = true →
    p.blk ≠ .lfp ∨ s.blk.rd F.LFP_CFG_STAGE p.inst = 31 →
    accepts (s.blk.tick dt) mid (page * 0x1000 + 0x08) (Nat.lor data 2) = true →
    ∃ c d, c = stored mid (page * 0x1000 + 0x08) (Nat.lor data 2) (s.blk.tick dt) ∧
      d = blockStops p (dropStaged (pageStaged c p) (armPage page none c)) ∧
      exec (.softReset dt mid page data) s = .next (s.withBlk (settled (s.blk.tick dt) mid (page * 0x1000 + 0x08) (Nat.lor data 2)
      ((blockReset c p (pageToReset p (if p.blk = .sig then d else d.wr F.PG_CTRL_ENABLE page 0))).wr F.PG_STAT_RESET_BUSY page 1)))) ∧
  -- softResetDone: R56
  (∀ (s : State) (dt page : Nat) (p : Page),
    pageOfSlot page = some p →
    s.blk.rd F.PG_STAT_RESET_BUSY page ≠ 0 →
    exec (.softResetDone dt page) s =
      .next (s.withBlk (raise p 0x0003 sevInfo 0 8 ((s.blk.tick dt).wr F.PG_STAT_RESET_BUSY page 0)))) ∧
  -- pgCueArm: R61, R62
  (∀ (s : State) (dt mid page data : Nat) (p : Page),
    pageOfSlot page = some p →
    accepts (s.blk.tick dt) mid (page * 0x1000 + 0x20) (Nat.lor data 0x10000) = true →
    exec (.pgCueArm dt mid page data) s = .next (s.withBlk (settled (s.blk.tick dt) mid (page * 0x1000 + 0x20) (Nat.lor data 0x10000)
      (cueWrite mid p (Nat.lor data 0x10000) (s.blk.now + dt) ((s.blk.tick dt)
      |>.wr F.PG_CUE_POINT page (bits (Nat.lor data 0x10000) 0 3) |>.wr F.PG_CUE_STAGE page (bits (Nat.lor data 0x10000) 8 5)))))) ∧
  -- pgCueDisarm: R62
  (∀ (s : State) (dt mid page data : Nat) (p : Page),
    pageOfSlot page = some p →
    accepts (s.blk.tick dt) mid (page * 0x1000 + 0x20) (Nat.lor data 0x20000) = true →
    exec (.pgCueDisarm dt mid page data) s = .next (s.withBlk (settled (s.blk.tick dt) mid (page * 0x1000 + 0x20) (Nat.lor data 0x20000)
      (cueWrite mid p (Nat.lor data 0x20000) (s.blk.now + dt) ((s.blk.tick dt)
      |>.wr F.PG_CUE_POINT page (bits (Nat.lor data 0x20000) 0 3) |>.wr F.PG_CUE_STAGE page (bits (Nat.lor data 0x20000) 8 5)))))) ∧
  -- pgCueDiscard: R62
  (∀ (s : State) (dt mid page data : Nat) (p : Page),
    pageOfSlot page = some p →
    accepts (s.blk.tick dt) mid (page * 0x1000 + 0x20) (Nat.lor data 0x40000) = true →
    exec (.pgCueDiscard dt mid page data) s = .next (s.withBlk (settled (s.blk.tick dt) mid (page * 0x1000 + 0x20) (Nat.lor data 0x40000)
      (cueWrite mid p (Nat.lor data 0x40000) (s.blk.now + dt) ((s.blk.tick dt)
      |>.wr F.PG_CUE_POINT page (bits (Nat.lor data 0x40000) 0 3) |>.wr F.PG_CUE_STAGE page (bits (Nat.lor data 0x40000) 8 5)))))) ∧
  -- cueWriteArms
  (∀ (b : Blk) (mid at_ data : Nat) (p : Page),
    bit data 16 = true →
    bit data 17 = false →
    bit data 18 = false →
    (reservedPoint (b.rd F.PG_CUE_POINT p.slot) (b.rd F.PG_CUE_STAGE p.slot) = true → cueWrite mid p data at_ b = raiseAs mid p 0x0006 sevNotice 3 0 b) ∧
      (reservedPoint (b.rd F.PG_CUE_POINT p.slot) (b.rd F.PG_CUE_STAGE p.slot) = false →
      (b.rd F.PG_CTRL_GRP_EN p.slot ≠ 0 → cueWrite mid p data at_ b = raiseAs mid p 0x0006 sevNotice 2 0 b) ∧
      (b.rd F.PG_CTRL_GRP_EN p.slot = 0 → mget b.ctl.cues p.slot ≠ none → cueWrite mid p data at_ b = raiseAs mid p 0x0006 sevNotice 1 0 b) ∧
      (b.rd F.PG_CTRL_GRP_EN p.slot = 0 → mget b.ctl.cues p.slot = none → cueWrite mid p data at_ b =
      armPage p.slot (some ⟨b.rd F.PG_CUE_POINT p.slot, b.rd F.PG_CUE_STAGE p.slot, at_, mid⟩) b))) ∧
  -- cueWriteDisarms
  (∀ (b : Blk) (mid at_ data : Nat) (p : Page),
    bit data 16 = false →
    bit data 17 = true →
    bit data 18 = false →
    cueWrite mid p data at_ b = armPage p.slot none b) ∧
  -- cueWriteDiscards
  (∀ (b : Blk) (mid at_ data : Nat) (p : Page),
    bit data 16 = false →
    bit data 17 = false →
    bit data 18 = true →
    cueWrite mid p data at_ b = dropStaged (pageStaged b p) b)

/-- Group cues, event records, the ring and the severe queue. For each of the group cue commands, an event record's arrival,
the commands on ERR_RD_IDX, ERR_LOST and the severe queue, and a write to the ring window, the next state it leaves; and what
a write of SYS_GCUE does (ignored arms with event 0x0006, arms, disarms). -/
def Obligations.EventAndCueCommands : Prop :=
  -- gcueArm: R61, R62
  (∀ (s : State) (dt mid data : Nat),
    accepts (s.blk.tick dt) mid 0x80 (Nat.lor data 0x1000000) = true →
    exec (.gcueArm dt mid data) s = .next (s.withBlk (settled (s.blk.tick dt) mid 0x80 (Nat.lor data 0x1000000)
      (gcueWrite mid (Nat.lor data 0x1000000) (s.blk.now + dt) ((s.blk.tick dt)
      |>.wr F.SYS_GCUE_GROUP 0 (bits (Nat.lor data 0x1000000) 0 6) |>.wr F.SYS_GCUE_POINT 0 (bits (Nat.lor data 0x1000000) 8 3)
      |>.wr F.SYS_GCUE_STAGE 0 (bits (Nat.lor data 0x1000000) 16 5)))))) ∧
  -- gcueDisarm: R62
  (∀ (s : State) (dt mid data : Nat),
    accepts (s.blk.tick dt) mid 0x80 (Nat.lor data 0x2000000) = true →
    exec (.gcueDisarm dt mid data) s = .next (s.withBlk (settled (s.blk.tick dt) mid 0x80 (Nat.lor data 0x2000000)
      (gcueWrite mid (Nat.lor data 0x2000000) (s.blk.now + dt) ((s.blk.tick dt)
      |>.wr F.SYS_GCUE_GROUP 0 (bits (Nat.lor data 0x2000000) 0 6) |>.wr F.SYS_GCUE_POINT 0 (bits (Nat.lor data 0x2000000) 8 3)
      |>.wr F.SYS_GCUE_STAGE 0 (bits (Nat.lor data 0x2000000) 16 5)))))) ∧
  -- gcueWriteArms
  (∀ (b : Blk) (mid at_ data : Nat),
    bit data 24 = true →
    bit data 25 = false →
    (reservedPoint (bits data 8 3) (bits data 16 5) = true → gcueWrite mid data at_ b = raiseAs mid sysPage 0x0006 sevNotice 3 0 b) ∧
      (reservedPoint (bits data 8 3) (bits data 16 5) = false → mget b.ctl.groups (bits data 0 6) ≠ none →
      gcueWrite mid data at_ b = raiseAs mid sysPage 0x0006 sevNotice 1 0 b) ∧
      (reservedPoint (bits data 8 3) (bits data 16 5) = false → mget b.ctl.groups (bits data 0 6) = none →
      gcueWrite mid data at_ b = armGroup (bits data 0 6) (some ⟨bits data 8 3, bits data 16 5, at_, mid⟩) b)) ∧
  -- gcueWriteDisarms
  (∀ (b : Blk) (mid at_ data : Nat),
    bit data 24 = false →
    bit data 25 = true →
    gcueWrite mid data at_ b = armGroup (bits data 0 6) none b) ∧
  -- errRecordArrival: R65
  (∀ (s : State) (dt page code sev detail mid : Nat) (p : Page),
    pageOfSlot page = some p →
    sev ≤ 5 →
    exec (.errRecordArrival dt page code sev detail mid) s = .next (s.withBlk (raiseAs mid p code sev detail 0 (s.blk.tick dt)))) ∧
  -- errRdIdxWrite: R68, R46
  (∀ (s : State) (dt mid data : Nat) (c : Blk),
    accepts (s.blk.tick dt) mid 0x10048 data = true →
    c = (s.blk.tick dt).wr F.ERR_RD_IDX_IDX 0 (bits data 0 16) →
    exec (.errRdIdxWrite dt mid data) s = .next (s.withBlk (if unread c ≠ 0 then sendVector 0 c else c))) ∧
  -- errClrLost: R67
  (∀ (s : State) (dt mid data : Nat),
    accepts (s.blk.tick dt) mid 0x10040 (Nat.lor data 0x80000000) = true →
    mid ≠ 0x20 ∧ mid ≠ 0 →
    exec (.errClrLost dt mid data) s = .next (s.withBlk (
      (if mid = 0x04 then ((s.blk.tick dt).wr F.ERR_CFG_MIN_SEV 0 (bits (Nat.lor data 0x80000000) 0 3)).wr
      F.ERR_CFG_SAFE_MIN_SEV 0 (bits (Nat.lor data 0x80000000) 4 3)
      else (s.blk.tick dt).wr F.ERR_CFG_MIN_SEV 0 (bits (Nat.lor data 0x80000000) 0 3)).rstRange 0x10050 0x10058))) ∧
  -- severeQueuePop: R65, R67
  (∀ (s : State) (dt : Nat) (r : Rec) (l : List Rec),
    regCheck s.blk 0x04 0x10060 false = none →
    s.blk.ctl.severe = r :: l →
    s.blk.on F.PG_STAT_RESET_BUSY 16 = false →
    exec (.severeQueuePop dt) s = .next (s.withBlk ((putResult 0
      (putWords F.ERR_SQ_DATA_WORD r.words { s.blk.tick dt with ctl := { s.blk.ctl with severe := l } })).emit (.word (r.time % 2 ^ 32) 0)))) ∧
  -- sqStatRead: R67
  (∀ (s : State) (dt : Nat),
    regCheck s.blk 0x04 0x10058 false = none →
    s.blk.on F.PG_STAT_RESET_BUSY 16 = false →
    exec (.sqStatRead dt) s = .next (s.withBlk ((putResult 0 ((s.blk.tick dt).wr F.ERR_SQ_STAT_LOST 0 0)).emit
      (.word (s.blk.ctl.severe.length + 256 * s.blk.rd F.ERR_SQ_STAT_LOST 0) 0)))) ∧
  -- ringWindowWrite: R476
  (∀ (s : State) (dt mid addr data : Nat),
    accepts (s.blk.tick dt) mid (0x11000 + addr % 0x1000) data = true →
    exec (.ringWindowWrite dt mid addr data) s = .next (s.withBlk (raiseAs mid errPage 0x0007 sevNotice (addr % 0x1000) 0 (s.blk.tick dt))))

/-- The path of a register write. A register write that is accepted stores its fields by their access codes and is followed by
what R336, R350 and R371 attach to it; one with wrong byte enables, to an unmapped word, misrouted, refused by access control,
or held while the epoch is full, does what the rule for it says and nothing else. -/
def Obligations.RegisterWritePaths : Prop :=
  -- registerWrite: R11, R43
  (∀ (s : State) (dt mid addr data : Nat),
    accepts (s.blk.tick dt) mid addr data = true →
    addr < 0x800000 →
    ∃ ident, exec (.registerWrite dt mid false addr [(data, 15)] false) s = .next (s.withBlk (announce (s.blk.tick dt)
      (settled (s.blk.tick dt) mid addr data
      (grantedWrite (midPort mid) mid addr data (s.blk.now + dt) ident false false (s.blk.tick dt))) s.store))) ∧
  -- registerWriteWords: R43
  (∀ (b : Blk) (mid addr : Nat) (words : List (Nat × Nat)) (w : Nat × Nat) (misroute : Bool),
    busWrites mid addr [] misroute b = b ∧ busWrites mid addr (words ++ [w]) misroute b =
      busWrite (midPort mid) mid (addr + 4 * words.length) w.1 w.2 misroute false (busWrites mid addr words misroute b)) ∧
  -- registerWriteTable: R41, R42, R4
  (∀ (s : State) (dt addr data : Nat) (misroute : Bool),
    addr / 4 < 2048 →
    exec (.registerWrite dt 0x01 true addr [(data, 15)] misroute) s = .next (s.withBlk { s.blk.tick dt with
      ctl := { s.blk.ctl with msixTable := mset s.blk.ctl.msixTable (addr / 4) (data % 2 ^ 32) } })) ∧
  -- registerWriteStored: R11, R12
  (∀ (b : Blk) (port mid addr data at_ ident : Nat),
    accepts b mid addr data = true →
    0x400000 ≤ addr ∧ addr < 0x580000 →
    ¬ (addr < 0x500000 ∧ addr % 256 = 0x2C) →
    grantedWrite port mid addr data at_ ident false false b = stored mid addr data b) ∧
  -- registerWriteBadEnables: R43
  (∀ (s : State) (dt mid addr data be : Nat) (misroute : Bool),
    be % 16 ≠ 15 →
    exec (.registerWrite dt mid false addr [(data, be)] misroute) s = .next (s.withBlk (announce (s.blk.tick dt)
      (raiseAs mid (answers (addr / 4 * 4)) 0x0004 sevNotice (addr / 4 * 4 % 0x1000) 0 (s.blk.tick dt)) s.store))) ∧
  -- registerWriteUnmapped: R44
  (∀ (b : Blk) (port mid addr data : Nat) (misroute : Bool),
    mapped (addr / 4 * 4) = false →
    b.rd F.PAIR_EPOCH_FILL_HELD 0 = 0 →
    busWrite port mid addr data 15 misroute false b = raiseAs mid sysPage 0x0005 sevNotice (addr / 4 * 4 / 4) 0 b) ∧
  -- registerWriteMisrouted: R409, R416
  (∀ (b : Blk) (port mid addr data : Nat),
    mapped (addr / 4 * 4) = true →
    b.rd F.PAIR_EPOCH_FILL_HELD 0 = 0 →
    b.rd F.ACG_MODE_MODE 0 = 0 →
    busWrite port mid addr data 15 true false b = regViolation port mid (addr / 4 * 4) 4 b) ∧
  -- registerWriteRefused: R411, R414, R416
  (∀ (b : Blk) (port mid addr data k : Nat),
    mapped (addr / 4 * 4) = true →
    b.rd F.PAIR_EPOCH_FILL_HELD 0 = 0 →
    regCheck b mid (addr / 4 * 4) true = some k →
    busWrite port mid addr data 15 false false b = regViolation port mid (addr / 4 * 4) k b) ∧
  -- registerWriteHeld: R340
  (∀ (b : Blk) (port mid addr data : Nat) (misroute : Bool),
    b.rd F.PAIR_EPOCH_FILL_HELD 0 ≠ 0 →
    mid = 0x01 ∨ mid = 0x04 →
    busWrite port mid addr data 15 misroute false b =
      { b with pair := { b.pr with held := b.pr.held ++ [(mid, false, addr / 4 * 4, [data])] } }.wr F.PAIR_EPOCH_FILL_HELD 0 1)

/-- The safety port and host port A. For each command of the safety port and of host port A, the next state: the STATUS word
read, a reset of the port, unknown commands, a WRITE that is whole and matches its check (each word applied in ascending
order), a WRITE with a framing error or a wrong check (none of it applied, RESULT 3 or 1), a READ with its results, a reset of
host port A and the sending of pending messages. -/
def Obligations.SafetyAndHostPortCommands : Prop :=
  -- hostPortReset: R41, R42
  (∀ (s : State) (dt : Nat),
    exec (.hostPortReset dt) s =
      .next (s.withBlk { s.blk.tick dt with
      ctl := { s.blk.ctl with hostUp := false, busMaster := false, msixTable := [] } })) ∧
  -- msixPendingSend: R42
  (∀ (s : State) (dt : Nat),
    exec (.msixPendingSend dt true true) s = .next (s.withBlk { s.blk.tick dt with
      ctl := { s.blk.ctl with hostUp := true, busMaster := true, msixPending := [] }, out := s.blk.ctl.msixPending.map .msix })) ∧
  -- spStatus: R47
  (∀ (s : State) (dt : Nat),
    exec (.spStatus dt) s = .next (s.withBlk ((s.blk.tick dt).emit (.safety
      [s.blk.ctl.spResult + 256 * b2n (!s.blk.ctl.severe.isEmpty) + 65536 * s.blk.ctl.spWrites]
      (crc16 (0x05 :: leBytes 4 (s.blk.ctl.spResult + 256 * b2n (!s.blk.ctl.severe.isEmpty) + 65536 * s.blk.ctl.spWrites))))))) ∧
  -- portReset: R47
  (∀ (s : State) (dt : Nat),
    exec (.portReset dt) s = .next (s.withBlk { s.blk.tick dt with ctl := { s.blk.ctl with spResult := 0, spWrites := 0 } })) ∧
  -- unknownCommand: R47
  (∀ (s : State) (dt code : Nat),
    code % 256 ≠ 0x02 ∧ code % 256 ≠ 0x0B ∧ code % 256 ≠ 0x05 ∧ code % 256 ≠ 0x99 →
    exec (.unknownCommand dt code) s = .next (s.withBlk { s.blk.tick dt with ctl := { s.blk.ctl with spResult := 5 } })) ∧
  -- spWrite: R48, R51
  (∀ (s : State) (dt addr : Nat) (words : List Nat) (fs : Bool) (a : Nat) (r : Blk × FrameStore × Bool),
    1 ≤ words.length ∧ words.length ≤ 64 ∧ addr % 4 = 0 ∧ addr % 0x1000 + 4 * words.length ≤ 0x1000 →
    safetyMap s.blk addr = some (fs, a) →
    (r = words.zipIdx.foldl (fun (acc : Blk × FrameStore × Bool) w =>
      ((safetyWord (some (fs, a + 4 * w.2)) w.1 acc.1 acc.2.1).1, (safetyWord (some (fs, a + 4 * w.2)) w.1 acc.1 acc.2.1).2.1,
      acc.2.2 || (safetyWord (some (fs, a + 4 * w.2)) w.1 acc.1 acc.2.1).2.2)) (s.blk.tick dt, s.store, false)) →
    exec (.spWrite dt addr words (crc16 (safetyBytes 0x02 addr words)) true) s = .next (s.withBoth (announce (s.blk.tick dt)
      { r.1 with ctl := { r.1.ctl with spResult := if r.2.2 then 2 else 0, spWrites := (r.1.ctl.spWrites + 1) % 65536 } } r.2.1) r.2.1)) ∧
  -- spWriteFraming: R48
  (∀ (s : State) (dt addr check : Nat) (words : List Nat) (clean : Bool),
    clean = false ∨ words = [] ∨ 64 < words.length ∨ addr % 4 ≠ 0 ∨ 0x1000 < addr % 0x1000 + 4 * words.length →
    exec (.spWrite dt addr words check clean) s = .next (s.withBlk (announce (s.blk.tick dt)
      { s.blk.tick dt with ctl := { s.blk.ctl with spResult := 3 } } s.store))) ∧
  -- spWriteCheck: R48
  (∀ (s : State) (dt addr check : Nat) (words : List Nat),
    1 ≤ words.length ∧ words.length ≤ 64 ∧ addr % 4 = 0 ∧ addr % 0x1000 + 4 * words.length ≤ 0x1000 →
    check ≠ crc16 (safetyBytes 0x02 addr words) →
    exec (.spWrite dt addr words check true) s = .next (s.withBlk (announce (s.blk.tick dt)
      { s.blk.tick dt with ctl := { s.blk.ctl with spResult := 1 } } s.store))) ∧
  -- spRead: R49, R51
  (∀ (s : State) (dt addr n ready : Nat) (r : Blk × FrameStore × SafetyRead),
    1 ≤ n ∧ n ≤ 64 →
    (r = (List.range n).foldl (fun acc k => safetyReadWord addr k ready acc) (s.blk.tick dt, s.store, {})) →
    exec (.spRead dt addr n ready) s = .next (s.withBoth ({ r.1 with
      ctl := { r.1.ctl with spResult := if r.2.2.late then 4 else if r.2.2.refused then 2 else if r.2.2.invalid then 3 else 0 },
      out := r.1.out ++ [.safety r.2.2.words (crc16 (safetyBytes 0x0B addr r.2.2.words))] }) r.2.1))

/-- SMBus and PMBus commands. For each PMBus command that acts (OPERATION written with 0x80 and 0x00, MFR_EJECT_REQUEST,
CLEAR_FAULTS) or reads a status, and for an unsupported one, the next state it leaves and what it answers. -/
def Obligations.PmbusCommands : Prop :=
  -- operationOn: R53, R445
  (∀ (s : State) (dt : Nat),
    s.blk.pwr.refused = true ∨ s.blk.pwr.byCommand = true →
    s.blk.pwr.rail = false ∧ 2 ≤ s.blk.pwr.at_ →
    ∃ c, exec (.operationOn dt) s = .next (s.withBlk ((c.wr F.HSW_STAT_STATE 0 1).emit (.smbus true []))) ∧
      c = { s.blk.tick dt with
      ctl := { s.blk.ctl with pmOperation := 0x80 },
      pwr := { s.blk.pwr with
      refused := false, refusalTold := false, byCommand := false,
      reset := if s.blk.pwr.byCommand then some (4, s.blk.now + dt) else s.blk.pwr.reset,
      since := if s.blk.pwr.at_ = 3 then s.blk.up + dt else s.blk.pwr.since } }) ∧
  -- operationOnPlain: R53
  (∀ (s : State) (dt : Nat),
    s.blk.pwr.refused = false ∧ s.blk.pwr.byCommand = false →
    exec (.operationOn dt) s = .next (s.withBlk ({ s.blk.tick dt with
      ctl := { s.blk.ctl with pmOperation := 0x80 }, pwr := { s.blk.pwr with refusalTold := false } }.emit (.smbus true [])))) ∧
  -- operationOff: R53, R443
  (∀ (s : State) (dt : Nat),
    exec (.operationOff dt) s = .next (s.withBlk ((ejectWarning 1 { s.blk.tick dt with
      ctl := { s.blk.ctl with pmOperation := 0 } }).emit (.smbus true [])))) ∧
  -- mfrEjectRequest: R53, R443
  (∀ (s : State) (dt : Nat),
    exec (.mfrEjectRequest dt) s = .next (s.withBlk ((ejectWarning 1 (s.blk.tick dt)).emit (.smbus true [])))) ∧
  -- operationRead: R52, R53
  (∀ (s : State) (dt : Nat),
    exec (.operationRead dt) s = .next (s.withBlk (smRead 0x01 [s.blk.ctl.pmOperation] (s.blk.tick dt)))) ∧
  -- clearFaults: R53
  (∀ (s : State) (dt : Nat),
    exec (.clearFaults dt) s = .next (s.withBlk ({ s.blk.tick dt with
      ctl := { s.blk.ctl with pmStatus := 0, pmTemp := 0 } }.emit (.smbus true [])))) ∧
  -- statusWord: R53
  (∀ (s : State) (dt : Nat),
    exec (.statusWord dt) s = .next (s.withBlk (smRead 0x79
      (leBytes 2 (Nat.lor s.blk.ctl.pmStatus (if s.blk.pwr.rail then 0 else 0x0840))) (s.blk.tick dt)))) ∧
  -- statusTemperature: R53
  (∀ (s : State) (dt : Nat),
    exec (.statusTemperature dt) s = .next (s.withBlk (smRead 0x7D [s.blk.ctl.pmTemp] (s.blk.tick dt)))) ∧
  -- smbusUnsupported: R52
  (∀ (s : State) (dt code : Nat) (pecFailed : Bool),
    pecFailed = true ∨ code % 256 ∉ pmCodes →
    exec (.smbusUnsupported dt code pecFailed) s = .next (s.withBlk ({ s.blk.tick dt with
      ctl := { s.blk.ctl with pmStatus := Nat.lor s.blk.ctl.pmStatus 0x0002 } }.emit (.smbus false []))))

/-- What the SMBus reads answer. For each SMBus read the bytes it answers, and that it changes nothing beside; and the form of
an answer with its packet error code. -/
def Obligations.PmbusReadings : Prop :=
  -- readVin: R53
  (∀ (s : State) (dt mV : Nat),
    exec (.readVin dt mV) s = .next (s.withBlk (smRead 0x88 (leBytes 2 (linear11 mV 1000))
      ((s.blk.tick dt).wr F.HSW_VIN_VALUE 0 (Nat.min 65535 (mV / 10)))))) ∧
  -- readIin: R53
  (∀ (s : State) (dt mA : Nat),
    exec (.readIin dt mA) s = .next (s.withBlk (smRead 0x89 (leBytes 2 (linear11 mA 1000))
      ((s.blk.tick dt).wr F.HSW_IIN_VALUE 0 (Nat.min 65535 (mA / 10)))))) ∧
  -- readPin: R53
  (∀ (s : State) (dt mW : Nat),
    exec (.readPin dt mW) s = .next (s.withBlk (smRead 0x97 (leBytes 2 (linear11 mW 1000))
      ((s.blk.tick dt).wr F.HSW_PIN_VALUE 0 (Nat.min 65535 (mW / 100)))))) ∧
  -- readTemperature1: R53
  (∀ (s : State) (dt : Nat),
    exec (.readTemperature1 dt) s = .next (s.withBlk (smRead 0x8D (leBytes 2 (linear11
      (max (sgn 16 (s.blk.rd F.THM_TEMP_TEMP 0 37)) (sgn 16 (s.blk.rd F.THM_TEMP_TEMP 0 38))) 10)) (s.blk.tick dt)))) ∧
  -- readTemperature2: R53
  (∀ (s : State) (dt : Nat),
    exec (.readTemperature2 dt) s = .next (s.withBlk (smRead 0x8E (leBytes 2 (linear11
      (hottestOf s.blk ((List.range 24).filter fun n => !sensorFailed s.blk n)) 10)) (s.blk.tick dt)))) ∧
  -- pmbusRevision: R53
  (∀ (s : State) (dt : Nat),
    exec (.pmbusRevision dt) s = .next (s.withBlk (smRead 0x98 [0x33] (s.blk.tick dt)))) ∧
  -- mfrId: R53
  (∀ (s : State) (dt : Nat),
    exec (.mfrId dt) s = .next (s.withBlk (smRead 0x99 [6, 0x57, 0x49, 0x4C, 0x54, 0x55, 0x52] (s.blk.tick dt)))) ∧
  -- mfrModel: R53
  (∀ (s : State) (dt : Nat),
    exec (.mfrModel dt) s = .next (s.withBlk (smRead 0x9A
      [10, 0x41, 0x46, 0x54, 0x45, 0x4E, 0x20, 0x57, 0x4D, 0x39, 0x36] (s.blk.tick dt)))) ∧
  -- mfrRevision: R53
  (∀ (s : State) (dt : Nat),
    exec (.mfrRevision dt) s = .next (s.withBlk (smRead 0x9B
      [5, 0x41 + s.blk.rd F.SYS_SILICON_STEP_LETTER 0, 0x30 + s.blk.rd F.SYS_SILICON_STEP_NUM 0 % 10, 0x2D,
      0x30 + s.blk.rd F.SYS_BOARD_BOARD 0 % 100 / 10, 0x30 + s.blk.rd F.SYS_BOARD_BOARD 0 % 100 % 10] (s.blk.tick dt)))) ∧
  -- mfrSerial: R53
  (∀ (s : State) (dt : Nat),
    exec (.mfrSerial dt) s = .next (s.withBlk (smRead 0x9E (16 :: (List.range 16).map fun k => hexDigit
      ((s.blk.rd F.SYS_SERIAL_LO_SERIAL 0 + 2 ^ 32 * s.blk.rd F.SYS_SERIAL_HI_SERIAL 0) / 16 ^ (15 - k))) (s.blk.tick dt)))) ∧
  -- mfrRole: R53
  (∀ (s : State) (dt : Nat),
    exec (.mfrRole dt) s = .next (s.withBlk (smRead 0xD0 [s.blk.rd F.SYS_ROLE_ROLE 0] (s.blk.tick dt)))) ∧
  -- mfrThermalLevel: R53
  (∀ (s : State) (dt : Nat),
    exec (.mfrThermalLevel dt) s = .next (s.withBlk (smRead 0xD1 [s.blk.rd F.THM_STAT_LEVEL 0] (s.blk.tick dt)))) ∧
  -- mfrOrderingCode: R1, R53
  (∀ (s : State) (dt : Nat),
    exec (.mfrOrderingCode dt) s = .next (s.withBlk (smRead 0xD3 ([12, 0x41, 0x46, 0x4E, 0x2D, 0x57, 0x4D, 0x39, 0x36, 0x2D] ++
      (if s.blk.rd F.SYS_VARIANT_FITTED_GIB 0 = 32 then [0x33, 0x32] else [0x36, 0x34]) ++
      (if s.blk.rd F.SYS_VARIANT_GRADE 0 = 1 then [0x45] else [0x43])) (s.blk.tick dt)))) ∧
  -- mfrUptime: R53, R443
  (∀ (s : State) (dt : Nat),
    exec (.mfrUptime dt) s = .next (s.withBlk (smRead 0xD4 (leBytes 4
      (if s.blk.pwr.at_ = 9 then (s.blk.up + dt - s.blk.pwr.since) / 1000000000 else 0)) (s.blk.tick dt)))) ∧
  -- smReadAnswer: R52
  (∀ (b : Blk) (code : Nat) (l : List Nat),
    smRead code l b = { b with
      out := b.out ++ [.smbus true (l ++
      [crc8 ([2 * (0x60 + b.pwr.slot % 16), code, 2 * (0x60 + b.pwr.slot % 16) + 1] ++ l)])] })

/-- Countersigning: the proposal and its commit. For each command of countersigning, the next state: OPEN, a write to the
area, SUBMIT, WITHDRAW, REJECT, a countersignature that commits and one that is refused, and the time-out; that the wrong
party or the wrong state is a violation of kind 5 and changes nothing else; what an abort and what a commit leave (image,
epoch, digest, fence). -/
def Obligations.ProposalCommands : Prop :=
  -- openProposal: R422
  (∀ (s : State) (dt mid : Nat) (c : Blk),
    mid = 0x01 ∨ mid = 0x04 →
    accepts (s.blk.tick dt) mid 0x20050 1 = true →
    s.blk.rd F.ACG_PROP_STAT_STATE 0 = 0 →
    c = ((s.blk.tick dt).wr F.ACG_PROP_STAT_STATE 0 1 |>.wr F.ACG_PROP_STAT_PROPOSER 0 mid
      |>.wr F.ACG_PROP_SEQ_VALUE 0 (s.blk.rd F.ACG_PROP_SEQ_VALUE 0 + 1)) →
    exec (.openProposal dt mid) s = .next (s.withBlk (raiseAs mid acgPage 0x101 sevInfo
      (mid + 64 * ((s.blk.rd F.ACG_PROP_SEQ_VALUE 0 + 1) % 65536)) (evB 1)
      { c with acg := { s.blk.acg with area := s.blk.acg.image, since := s.blk.now + dt, openCycle := mgmtCycle (s.blk.tick dt) } }))) ∧
  -- proposalOutOfTurn: R424
  (∀ (b : Blk) (mid data : Nat),
    ((mid ≠ 0x01 ∧ mid ≠ 0x04) ∨ propState b ≠ 0 → openTogether mid b = false → openBy mid b = regViolation (midPort mid) mid 0x20050 5 b) ∧
      (propState b ≠ 1 ∨ mid ≠ proposer b → submitBy mid b = regViolation (midPort mid) mid 0x20050 5 b) ∧
      (propState b = 0 ∨ mid ≠ proposer b → withdrawBy mid b = regViolation (midPort mid) mid 0x20050 5 b) ∧
      (propState b ≠ 2 ∨ mid = proposer b ∨ (mid ≠ 0x01 ∧ mid ≠ 0x04) →
      rejectBy mid b = regViolation (midPort mid) mid 0x20050 5 b ∧
      signBy mid data b = regViolation (midPort mid) mid 0x20058 5 b)) ∧
  -- submit: R422
  (∀ (s : State) (dt mid : Nat),
    accepts (s.blk.tick dt) mid 0x20050 2 = true →
    s.blk.rd F.ACG_PROP_STAT_STATE 0 = 1 ∧ s.blk.rd F.ACG_PROP_STAT_PROPOSER 0 = mid →
    s.blk.rd F.ACG_PROP_DIGEST_DIGEST 0 = propDigest (s.blk.rd F.ACG_PROP_SEQ_VALUE 0) s.blk.acg.area →
    exec (.submit dt mid) s = .next (s.withBlk (raiseAs mid acgPage 0x102 sevWarning
      (mid + 64 * (s.blk.rd F.ACG_PROP_SEQ_VALUE 0 % 65536)) (evB 1)
      { (s.blk.tick dt).wr F.ACG_PROP_STAT_STATE 0 2 with acg := { s.blk.acg with since := s.blk.now + dt } }))) ∧
  -- abortProposalEffect: R423
  (∀ (b : Blk) (cause d d2 : Nat),
    abortProposal cause d d2 b = raiseAs 0 acgPage 0x104 sevWarning (cause + 8 * d) (evB 3)
      { (b.wr F.ACG_PROP_STAT_STATE 0 0 |>.wr F.ACG_PROP_STAT_CAUSE 0 cause |>.wr F.ACG_PROP_STAT_DETAIL 0 d
      |>.wr F.ACG_PROP_STAT_DETAIL2 0 d2) with acg := { b.acg with area := [] } }) ∧
  -- withdraw: R423
  (∀ (s : State) (dt mid : Nat),
    accepts (s.blk.tick dt) mid 0x20050 4 = true →
    s.blk.rd F.ACG_PROP_STAT_STATE 0 ≠ 0 ∧ s.blk.rd F.ACG_PROP_STAT_PROPOSER 0 = mid →
    exec (.withdraw dt mid) s = .next (s.withBlk (abortProposal 4 0 0 (s.blk.tick dt)))) ∧
  -- reject: R423
  (∀ (s : State) (dt mid : Nat),
    accepts (s.blk.tick dt) mid 0x20050 8 = true →
    s.blk.rd F.ACG_PROP_STAT_STATE 0 = 2 ∧ s.blk.rd F.ACG_PROP_STAT_PROPOSER 0 ≠ mid →
    mid = 0x01 ∨ mid = 0x04 →
    exec (.reject dt mid) s = .next (s.withBlk (abortProposal 3 0 0 (s.blk.tick dt)))) ∧
  -- propSign: R422, R417
  (∀ (s : State) (dt mid data : Nat),
    accepts (s.blk.tick dt) mid 0x20058 data = true →
    s.blk.rd F.ACG_PROP_STAT_STATE 0 = 2 ∧ s.blk.rd F.ACG_PROP_STAT_PROPOSER 0 ≠ mid →
    mid = 0x01 ∨ mid = 0x04 →
    data % 2 ^ 32 = propDigest (s.blk.rd F.ACG_PROP_SEQ_VALUE 0) s.blk.acg.area →
    commitFault s.blk s.blk.acg.area = none →
    exec (.propSign dt mid data) s = .next (s.withBlk (commitProposal mid (s.blk.tick dt)))) ∧
  -- propSignRefused: R422, R423
  (∀ (b : Blk) (mid data : Nat),
    propState b = 2 ∧ proposer b ≠ mid →
    mid = 0x01 ∨ mid = 0x04 →
    (data % 2 ^ 32 ≠ openDigest b → signBy mid data b = abortProposal 2 0 0 b) ∧
      (∀ d d2, data % 2 ^ 32 = openDigest b → commitFault b b.acg.area = some (d, d2) → signBy mid data b = abortProposal 6 d d2 b)) ∧
  -- proposalAreaWrite: R419, R422
  (∀ (s : State) (dt mid addr data : Nat),
    addr % 0x100000 < 3152 ∧ addr % 4 = 0 →
    accepts (s.blk.tick dt) mid (0x700000 + addr % 0x100000) data = true →
    s.blk.rd F.ACG_PROP_STAT_STATE 0 = 1 ∧ s.blk.rd F.ACG_PROP_STAT_PROPOSER 0 = mid →
    exec (.proposalAreaWrite dt mid addr data) s = .next (s.withBlk { s.blk.tick dt with
      acg := { s.blk.acg with area := mset s.blk.acg.area (addr % 0x100000 / 4) (data % 2 ^ 32) } })) ∧
  -- proposalTimeout: R423
  (∀ (s : State) (dt : Nat),
    s.blk.rd F.ACG_PROP_STAT_STATE 0 ≠ 0 →
    s.blk.acg.since + propLimit s.blk * 1000000000 ≤ s.blk.now + dt →
    exec (.proposalTimeout dt) s = .next (s.withBlk (abortProposal 5 0 0 (s.blk.tick dt)))) ∧
  -- commitEffect: R417, R418, R420
  (∀ (b : Blk) (mid : Nat),
    (commitProposal mid b).acg.image = committed b.acg.image b.acg.area ∧ (commitProposal mid b).acg.area = [] ∧ (commitProposal mid b).acg.commitAt = b.now ∧
      (commitProposal mid b).rd F.ACG_PROP_STAT_STATE 0 = 0 ∧
      (commitProposal mid b).rd F.ACG_EPOCH_VALUE 0 = (b.rd F.ACG_EPOCH_VALUE 0 + 1) % 2 ^ 32 ∧
      (commitProposal mid b).rd F.ACG_DIGEST_VALUE 0 = ruleDigest (committed b.acg.image b.acg.area) % 2 ^ 32 ∧
      (commitProposal mid b).rd F.ACG_FENCE_DRAINED 0 = 0 ∧
      (commitProposal mid b).rd F.ACG_FENCE_OLDEST 0 =
      (if b.rd F.ACG_FENCE_DRAINED 0 ≠ 0 then b.rd F.ACG_EPOCH_VALUE 0 else b.rd F.ACG_FENCE_OLDEST 0) % 65536)

/-- The barrier, the debug port, member windows and shared tables. For each of the violation count clear, the barrier's end
and time-out, the debug port's instructions, accesses of the debug access unit, member-window accesses and shared-table
writes, the next state it leaves; the record of a use of debug. -/
def Obligations.DebugAndWindowCommands : Prop :=
  -- violCountClear: R416
  (∀ (s : State) (dt mid : Nat),
    mid = 0x01 ∨ mid = 0x04 →
    accepts (s.blk.tick dt) mid 0x20068 0x80000000 = true →
    exec (.violCountClear dt mid) s = .next (s.withBlk ((s.blk.tick dt).wr F.ACG_VIOL_COUNT_COUNT 0 0))) ∧
  -- fenceDrained: R418
  (∀ (s : State) (dt : Nat),
    s.blk.rd F.ACG_FENCE_DRAINED 0 = 0 →
    exec (.fenceDrained dt) s = .next (s.withBlk ((s.blk.tick dt).wr F.ACG_FENCE_DRAINED 0 1
      |>.wr F.ACG_FENCE_OLDEST 0 (s.blk.rd F.ACG_EPOCH_VALUE 0)))) ∧
  -- fenceTimeout: R418
  (∀ (s : State) (dt : Nat),
    s.blk.rd F.ACG_FENCE_DRAINED 0 = 0 ∧ s.blk.acg.fenceTold = false →
    s.blk.acg.commitAt + 1000000 ≤ s.blk.now + dt →
    exec (.fenceTimeout dt) s = .next (s.withBlk (raiseAs 0 acgPage 0x105 sevWarning (s.blk.rd F.ACG_FENCE_OLDEST 0) 0
      { s.blk.tick dt with acg := { s.blk.acg with fenceTold := true } }))) ∧
  -- idcode: R426
  (∀ (s : State) (dt : Nat),
    exec (.idcode dt) s = .next (s.withBlk ((s.blk.tick dt).emit (.jtag 32 (s.blk.rd F.DBG_IDCODE_IDCODE 0))))) ∧
  -- dauStatus: R426
  (∀ (s : State) (dt : Nat),
    exec (.dauStatus dt) s = .next (s.withBlk (((s.blk.tick dt).emit
      (.jtag 80 (s.blk.acg.dauData * 2 ^ 43 + s.blk.acg.dauResult * 2 ^ 75))).wr F.DBG_STAT_USED 0 1))) ∧
  -- bypass: R426
  (∀ (s : State) (dt code : Nat) (tdi : Bool),
    code % 64 ≠ 0x01 ∧ code % 64 ≠ 0x20 →
    exec (.bypass dt code tdi) s = .next (s.withBlk ((s.blk.tick dt).emit (.jtag 1 (b2n tdi))))) ∧
  -- dauRead: R426, R51
  (∀ (s : State) (dt addr : Nat) (c : Blk),
    c = ((s.blk.tick dt).emit (.jtag 80 (s.blk.acg.dauData * 2 ^ 43 + s.blk.acg.dauResult * 2 ^ 75))).wr F.DBG_STAT_USED 0 1 →
    exec (.dauRead dt false addr) s =
      .next (s.withBlk (dauDone (busRead 3 0x08 addr c).2.2 (busRead 3 0x08 addr c).2.1 (busRead 3 0x08 addr c).1)) ∧
      exec (.dauRead dt true addr) s = .next (s.withBoth (dauDone (!fsGranted c 0x08 (addr / 4 * 4) false)
      (storeRead 0x08 (addr / 4 * 4) c s.store).2.2.1 (storeRead 0x08 (addr / 4 * 4) c s.store).1)
      (storeRead 0x08 (addr / 4 * 4) c s.store).2.1)) ∧
  -- dauWrite: R426
  (∀ (s : State) (dt addr data : Nat) (c : Blk),
    c = ((s.blk.tick dt).emit (.jtag 80 (s.blk.acg.dauData * 2 ^ 43 + s.blk.acg.dauResult * 2 ^ 75))).wr F.DBG_STAT_USED 0 1 →
    exec (.dauWrite dt false addr data) s = .next (s.withBlk (announce c
      (dauDone (mapped (addr / 4 * 4) && (regCheck c 0x08 (addr / 4 * 4) true).isSome) 0
      (busWrite 3 0x08 (addr / 4 * 4) data 15 false false c)) s.store)) ∧
      exec (.dauWrite dt true addr data) s = .next (s.withBoth (dauDone (!fsGranted c 0x08 (addr / 4 * 4) true) 0
      (memAccess 0x08 (addr / 4 * 4) 4 true false (leBytes 4 data) 0 0 false c s.store).1)
      (memAccess 0x08 (addr / 4 * 4) 4 true false (leBytes 4 data) 0 0 false c s.store).2)) ∧
  -- dauDoneEffect: R426
  (∀ (b : Blk) (refused : Bool) (data : Nat),
    dauDone refused data b = { b with acg := { b.acg with dauResult := b2n refused, dauData := data } }) ∧
  -- debugUseRecord: R425
  (∀ (b : Blk) (a k : Nat) (write : Bool),
    acgSlot a = some k →
    slotLocked b k = true ∧ dbgAdmitted b k = true →
    debugUse a write b = raiseAs 0x08 dbgPage 0x100 sevWarning (64 * k + 2 ^ 15 * b2n write + 2 ^ 16 * bits a 2 6) (evB 0)
      (((b.bump F.DBG_USES_COUNT 0).wr F.DBG_LAST_ADDR 0 a |>.wr F.DBG_LAST_SLOT 0 k).put F.DBG_LAST_WRITE 0 write)) ∧
  -- memberWindowAccess: R369, R370
  (∀ (s : State) (dt mid j o data value : Nat) (write : Bool) (path depth p : Nat),
    j < 7 ∧ o < 0x800000 ∧ o % 4 = 0 →
    windowPath (s.blk.tick dt) j = some (path, depth) →
    toward (s.blk.tick dt) (pairActive (s.blk.tick dt) (path % 8)) = some p →
    regCheck s.blk mid (0x800000 + 0x800000 * j + o) write = none →
    sharedRange o = false →
    exec (.memberWindowAccess dt mid (0x800000 + 0x800000 * j + o) data value write false none) s = .next (s.withBlk
      (announce (s.blk.tick dt)
      (if write then chnSend p 5 ([o, mid, data % 2 ^ 32, 1] ++ pathList path depth) (s.blk.tick dt)
      else (chnSend p 5 ([o, mid, data % 2 ^ 32, 0] ++ pathList path depth) (s.blk.tick dt)).emit (.word (value % 2 ^ 32) 0)) s.store))) ∧
  -- memberWindowNothing: R371, R372
  (∀ (b : Blk) (mid j o data value : Nat) (write lost : Bool),
    windowPath b j = none ∨ sharedRange o = true →
    windowAccess mid j o data value write lost b = if write then b else b.emit (.word 0 0)) ∧
  -- memberWindowArrives: R369, R370
  (∀ (s : State) (dt mid addr data value : Nat) (lost : Bool) (p : Nat),
    inRing (s.blk.tick dt) = true →
    pairActive (s.blk.tick dt) (p % 8) = ownPos (s.blk.tick dt) →
    exec (.memberWindowAccess dt mid addr data value true lost (some [p])) s = .next (s.withBlk (announce (s.blk.tick dt)
      (busWrite 6 mid (addr % 0x800000) data 15 false false (s.blk.tick dt)) s.store)) ∧
      exec (.memberWindowAccess dt mid addr data value false lost (some [p])) s = .next (s.withBlk (announce (s.blk.tick dt)
      ((busRead 6 mid (addr % 0x800000) (s.blk.tick dt)).1.emit (.word (busRead 6 mid (addr % 0x800000) (s.blk.tick dt)).2.1
      (b2n (busRead 6 mid (addr % 0x800000) (s.blk.tick dt)).2.2))) s.store))) ∧
  -- memberWindowPasses: R369, R370
  (∀ (b : Blk) (mid o data p q : Nat) (l : List Nat) (write : Bool),
    inRing b = true →
    pairActive b (p % 8) ≠ ownPos b →
    toward b (pairActive b (p % 8)) = some q →
    windowIncoming mid o data write (p :: l) b = chnSend q 5 ([o, mid, data % 2 ^ 32, b2n write] ++ (p :: l).map (· % 8)) b) ∧
  -- sharedTableWrite: R371, R378
  (∀ (s : State) (dt mid addr data port : Nat),
    0x400000 ≤ addr ∧ addr < 0x580000 ∧ addr % 4 = 0 →
    mid < 0x20 →
    regCheck s.blk mid addr true = none →
    mapped addr = true →
    inRing (s.blk.tick dt) = true ∧ (port = 1 ∨ port = 2) →
    exec (.sharedTableWrite dt mid addr data port) s = .next (s.withBlk (announce (s.blk.tick dt)
      (sendAround ((grantedWrite 6 mid addr data (s.blk.now + dt) 0 false false (s.blk.tick dt)).rd F.ENS_STAT_LEAD_POS 0) [3 - port] [addr, mid, data, 1]
      (grantedWrite 6 mid addr data (s.blk.now + dt) 0 false false (s.blk.tick dt)))
      s.store))) ∧
  -- sharedTableWriteHere: R371
  (∀ (s : State) (dt mid addr data : Nat),
    exec (.sharedTableWrite dt mid addr data 0) s = .next (s.withBlk (announce (s.blk.tick dt)
      (busWrite (midPort mid) mid (addr / 4 * 4) data 15 false false (s.blk.tick dt)) s.store)))

/-- Register commands of the prompter, layers, stages, contacts, encoders and check units. For each command that writes one
register of the prompter, a layer, a stage, a contact, an encoder or a check-value unit, accepted as a write, the next state
it leaves. -/
def Obligations.RegisterCommandsOfPicturePages : Prop :=
  -- floorWrite: R100
  (∀ (s : State) (dt mid data : Nat),
    accepts (s.blk.tick dt) mid 0x258040 data = true →
    exec (.floorWrite dt mid data) s = .next (s.withBlk (settled (s.blk.tick dt) mid 0x258040 data
      (policyChanged (floorChanged (s.blk.tick dt) (stored mid 0x258040 data (s.blk.tick dt))))))) ∧
  -- freshnessWindowWrite: R102
  (∀ (s : State) (dt mid addr data : Nat),
    accepts (s.blk.tick dt) mid (0x600000 + addr % 0x100000) data = true →
    exec (.freshnessWindowWrite dt mid addr data) s = .next (s.withBlk
      (raiseAs mid prmGlobal 0x106 sevNotice (addr % 0x100000 / 4) 0 (s.blk.tick dt)))) ∧
  -- logWrapsClear: R105
  (∀ (s : State) (dt mid data : Nat),
    accepts (s.blk.tick dt) mid 0x25804C (Nat.lor data 0x80000000) = true →
    exec (.logWrapsClear dt mid data) s = .next (s.withBlk (settled (s.blk.tick dt) mid 0x25804C (Nat.lor data 0x80000000)
      ((s.blk.tick dt).wr F.PRM_LOG_WRAPS_COUNT 24 0)))) ∧
  -- publish: R147
  (∀ (s : State) (dt mid layer data : Nat),
    layer < 4096 ∧ mid ≠ 0 →
    accepts (s.blk.tick dt) mid (0x40002C + 256 * layer) (Nat.lor data 0x80000000) = true →
    ∃ ident c, c = stored mid (0x40002C + 256 * layer) (Nat.lor data 0x80000000) (s.blk.tick dt) ∧
      exec (.publish dt mid layer data) s = .next (s.withBlk (announce (s.blk.tick dt)
      (settled (s.blk.tick dt) mid (0x40002C + 256 * layer) (Nat.lor data 0x80000000)
      (Machine.publish mid layer (bits (Nat.lor data 0x80000000) 0 2) (s.blk.now + dt) ident (bit (Nat.lor data 0x80000000) 2) c c))
      s.store))) ∧
  -- psCommitWrite: R188
  (∀ (s : State) (dt mid stage data : Nat),
    stage < 24 →
    s.blk.rd F.STG_PS_CTRL_ARMED stage = 0 →
    accepts (s.blk.tick dt) mid (0x220200 + 0x1000 * stage) (Nat.lor data 1) = true →
    exec (.psCommitWrite dt mid stage data) s = .next (s.withBlk (settled (s.blk.tick dt) mid (0x220200 + 0x1000 * stage) (Nat.lor data 1)
      (((s.blk.tick dt).putStage stage { s.blk.stage stage with commitAt := s.blk.now + dt }).wr F.STG_PS_CTRL_ARMED stage 1)))) ∧
  -- contactConfigWrite: R196
  (∀ (s : State) (dt mid c data : Nat),
    c < 16 →
    accepts (s.blk.tick dt) mid (0x2F0100 + 8 * c) data = true →
    exec (.contactConfigWrite dt mid c data) s = .next (s.withBlk (settled (s.blk.tick dt) mid (0x2F0100 + 8 * c) data
      (contactConfigured c (sigOn (s.blk.tick dt) c) ((s.blk.tick dt).on F.SIG_CFG_ACTIVE_HIGH 0 c)
      (stored mid (0x2F0100 + 8 * c) data (s.blk.tick dt)))))) ∧
  -- suppressedClear: R198
  (∀ (s : State) (dt mid data : Nat),
    accepts (s.blk.tick dt) mid 0x2F004C (Nat.lor data 0x80000000) = true →
    exec (.suppressedClear dt mid data) s = .next (s.withBlk (settled (s.blk.tick dt) mid 0x2F004C (Nat.lor data 0x80000000)
      ((s.blk.tick dt).wr F.SIG_SUPPRESSED_COUNT 0 0)))) ∧
  -- vecForceIdr: R229
  (∀ (s : State) (dt mid ctx data : Nat),
    ctx < 16 →
    accepts (s.blk.tick dt) mid (0x1A007C + 0x1000 * ctx) (Nat.lor data 1) = true →
    exec (.vecForceIdr dt mid ctx data) s = .next (s.withBlk (settled (s.blk.tick dt) mid (0x1A007C + 0x1000 * ctx) (Nat.lor data 1)
      (Machine.vecForceIdr ctx (s.blk.tick dt))))) ∧
  -- crcStart: R399
  (∀ (s : State) (dt mid unit : Nat),
    unit < 32 →
    accepts (s.blk.tick dt) mid (0x28009C + 0x1000 * unit) 1 = true →
    enabled s.blk (crcPage unit) = true ∧ s.blk.rd F.CRC_CFG_TRIG unit = 0 ∧ (s.blk.unitCrc unit).run = none →
    exec (.crcStart dt mid unit) s = .next (s.withBlk (settled (s.blk.tick dt) mid (0x28009C + 0x1000 * unit) 1
      (((s.blk.tick dt).putCrc unit { s.blk.unitCrc unit with
      run := some ⟨s.blk.rd F.CRC_BASE_ADDR unit, s.blk.now + dt, s.blk.rd F.CRC_EXP_VALUE unit, s.blk.rd F.CRC_SEQ_VALUE unit, none⟩ }).wr
      F.CRC_STAT_STATE unit 1)))) ∧
  -- crcAbort: R400
  (∀ (s : State) (dt mid unit : Nat) (r : CrcRun),
    unit < 32 →
    accepts (s.blk.tick dt) mid (0x28009C + 0x1000 * unit) 2 = true →
    (s.blk.unitCrc unit).run = some r →
    exec (.crcAbort dt mid unit) s = .next (s.withBlk (settled (s.blk.tick dt) mid (0x28009C + 0x1000 * unit) 2
      (crcIdle unit ((((s.blk.tick dt).putCrc unit { s.blk.unitCrc unit with trigs := [] }).putCrc unit
      { s.blk.unitCrc unit with run := none, trigs := [] }).wr F.CRC_STAT_OUTCOME unit 6)))))

/-- Register commands of the clock, lanes, the pair, the system and thermal pages. For each command that writes one register
of the clock, a lane, the pair, the system, the hot-swap or the thermal page, accepted as a write, the next state it leaves;
and what an eject warning does. -/
def Obligations.RegisterCommandsOfModulePages : Prop :=
  -- learnSave: R291
  (∀ (s : State) (dt mid data : Nat),
    accepts (s.blk.tick dt) mid 0x60088 (Nat.lor data 1) = true →
    exec (.learnSave dt mid data) s = .next (s.withBlk (learningSave
      (if bit data 1 then learningClear (s.blk.tick dt) else s.blk.tick dt)))) ∧
  -- learnClear: R291
  (∀ (s : State) (dt mid data : Nat),
    accepts (s.blk.tick dt) mid 0x60088 (Nat.lor data 2) = true →
    exec (.learnClear dt mid data) s = .next (s.withBlk
      (if bit data 0 then learningSave (learningClear (s.blk.tick dt)) else learningClear (s.blk.tick dt)))) ∧
  -- todWrite: R297
  (∀ (s : State) (dt mid lo hi : Nat),
    accepts (s.blk.tick dt) mid 0x60098 lo = true →
    accepts (stored mid 0x60098 lo (s.blk.tick dt)) mid 0x6009C (Nat.lor hi 0x80000000) = true →
    exec (.todWrite dt mid lo hi) s = .next (s.withBlk (todApply
      (stored mid 0x6009C (Nat.lor hi 0x80000000) (stored mid 0x60098 lo (s.blk.tick dt)))))) ∧
  -- eyeScanStart: R322
  (∀ (s : State) (dt mid lane data : Nat) (c : Blk),
    lane < 96 →
    accepts (s.blk.tick dt) mid (0x80080 + 0x1000 * lane) (Nat.lor data 1) = true →
    c = stored mid (0x80080 + 0x1000 * lane) (Nat.lor data 1) (s.blk.tick dt) →
    exec (.eyeScanStart dt mid lane data) s = .next (s.withBlk (eyeStart lane (if bit data 1 then eyeAbort lane c else c)))) ∧
  -- eyeScanAbort: R322
  (∀ (s : State) (dt mid lane data : Nat) (c : Blk),
    lane < 96 →
    accepts (s.blk.tick dt) mid (0x80080 + 0x1000 * lane) (Nat.lor data 2) = true →
    c = stored mid (0x80080 + 0x1000 * lane) (Nat.lor data 2) (s.blk.tick dt) →
    exec (.eyeScanAbort dt mid lane data) s = .next (s.withBlk (if bit data 0 then eyeStart lane (eyeAbort lane c) else eyeAbort lane c))) ∧
  -- marginRebase: R325
  (∀ (s : State) (dt mid lane data : Nat) (c : Blk),
    lane < 96 →
    accepts (s.blk.tick dt) mid (0x80094 + 0x1000 * lane) (Nat.lor data 0x8000) = true →
    c = stored mid (0x80094 + 0x1000 * lane) (Nat.lor data 0x8000) (s.blk.tick dt) →
    exec (.marginRebase dt mid lane data) s = .next (s.withBlk (c.putLane lane { c.lane lane with rebase := true }))) ∧
  -- pairSwitch: R354
  (∀ (s : State) (dt mid data : Nat),
    bit data 1 = false ∧ bit data 2 = false →
    accepts (s.blk.tick dt) mid 0x2C0044 (Nat.lor data 1) = true →
    exec (.pairSwitch dt mid data) s = .next (s.withBlk (if s.blk.rd F.SYS_ROLE_ROLE 0 = 3 ∧ heard (s.blk.tick dt) = true
      then beginPlanned 1 (s.blk.tick dt) else takeoverRefused 1 (s.blk.tick dt)))) ∧
  -- pairClearFault: R348
  (∀ (s : State) (dt mid data : Nat),
    bit data 0 = false ∧ bit data 2 = false →
    accepts (s.blk.tick dt) mid 0x2C0044 (Nat.lor data 2) = true →
    exec (.pairClearFault dt mid data) s = .next (s.withBlk (((s.blk.tick dt).wr F.PAIR_STAT_DR_FAULT 0 0).put F.PAIR_STAT_READY 0
      (readyNow ((s.blk.tick dt).wr F.PAIR_STAT_DR_FAULT 0 0))))) ∧
  -- pairResync: R344
  (∀ (s : State) (dt mid data : Nat),
    bit data 0 = false ∧ bit data 1 = false →
    s.blk.rd F.SYS_ROLE_ROLE 0 = 2 →
    accepts (s.blk.tick dt) mid 0x2C0044 (Nat.lor data 4) = true →
    ∃ x, x =
      { s.blk.pair with
      ackDue := some (s.blk.rd F.PAIR_COMMITTED_EPOCH 0, false, true)
      syncAt := s.blk.now + dt, rx := [], staging := [], waitEnd := none, ends := [], syncS := none } ∧
      exec (.pairResync dt mid data) s = .next (s.withBlk (({ s.blk.tick dt with pair := x }).wr F.PAIR_STAT_SYNC 0 1))) ∧
  -- sysResetKey: R435
  (∀ (s : State) (dt mid data : Nat),
    data % 65536 = 0x6A5D ∧ s.blk.pwr.reset = none →
    accepts (s.blk.tick dt) mid 0x118 data = true →
    exec (.sysResetKey dt mid data) s = .next (s.withBlk (depart (raise sysPage 0x106 sevWarning 2 0
      ((s.blk.tick dt).putPwr { s.blk.pwr with reset := some (2, s.blk.now + dt + 20000000) }))))) ∧
  -- hostClaim: R442
  (∀ (s : State) (dt mid : Nat) (c : Blk),
    mid = 0x01 ∨ mid = 0x04 →
    s.blk.rd F.SYS_HOST_CLAIM_CLAIM 0 = 0 →
    accepts (s.blk.tick dt) mid 0x100 1 = true →
    c = raiseAs mid sysPage 0x101 sevNotice mid (evB 1) ((s.blk.tick dt).wr F.SYS_HOST_CLAIM_CLAIM 0 1 |>.wr F.SYS_HOST_CLAIM_BY 0 mid) →
    exec (.hostClaim dt mid) s = .next (s.withBlk (match c.rd F.SYS_STAT_SHOW 0 with
      | 0 => c.wr F.SYS_STAT_SHOW 0 3
      | 1 => { c with show_ := { c.show_ with claimed := true } }
      | _ => c))) ∧
  -- hswEject: R443
  (∀ (s : State) (dt mid : Nat),
    accepts (s.blk.tick dt) mid 0x50054 1 = true →
    exec (.hswEject dt mid) s = .next (s.withBlk (ejectWarning 2 (s.blk.tick dt)))) ∧
  -- ejectWarningEffect: R443
  (∀ (b : Blk) (src : Nat),
    (b.pwr.at_ = 9 → b.pwr.warned = none → ejectWarning src b = depart (raise hswPage 0x101 sevWarning src (evB 0)
      (({ b with pwr := { b.pwr with warned := some (b.up, src), warnedAt := b.now } }).wr F.HSW_STAT_STATE 0 4))) ∧
      (b.pwr.at_ < 9 ∨ b.pwr.warned ≠ none → ejectWarning src b = b)) ∧
  -- threshWrite: R452
  (∀ (s : State) (dt mid c data : Nat),
    c < 5 →
    accepts (s.blk.tick dt) mid (0x40050 + 4 * c) data = true →
    exec (.threshWrite dt mid c data) s = .next (s.withBlk (thmRefresh (stored mid (0x40050 + 4 * c) data (s.blk.tick dt)))))

/-- Insertion and start-up: what each step of the start leaves, with the pins and the straps. For each command of insertion
and start-up, under the step it belongs to, the next state it leaves: pins, presence, the power-on check, the soft start, the
release of the internal reset with the straps, the operating state, a strap sample, and an aborted start. -/
def Obligations.PowerCommandsStart : Prop :=
  -- longContactMate: R429
  (∀ (s : State) (dt : Nat) (b : Blk),
    b = s.blk.tick dt →
    b.pwr.at_ = 0 →
    exec (.longContactMate dt) s = .next (s.withBlk (((((b.rstRange 0x50000 0x51000).wr F.HSW_LIFE_INSERTIONS 0 (b.rd F.HSW_LIFE_INSERTIONS 0)).wr
      F.HSW_LIFE_KHOURS 0 (b.rd F.HSW_LIFE_KHOURS 0)).wr F.HSW_STAT_AUX_OK 0 1).putPwr
      { at_ := 1, since := b.up, goodBefore := b.pwr.goodBefore, auxAt := b.up }))) ∧
  -- mcReady: R429
  (∀ (s : State) (dt slot : Nat) (b : Blk),
    b = s.blk.tick dt →
    b.pwr.at_ = 1 →
    exec (.mcReady dt slot) s = .next (s.withBlk (((((b.wr F.HSW_STAT_PRESENT 0 0).wr F.HSW_STAT_EJECT 0 0).wr F.HSW_STAT_STATE 0 1).wr
      F.SYS_STRAPS_SLOT 0 slot).putPwr { b.pwr with at_ := 2, since := b.up, slot := slot % 16, present := {}, eject := {} }))) ∧
  -- pinSample: R430
  (∀ (s : State) (dt : Nat) (present eject : Bool) (b : Blk) (p e : Nat × Contact),
    b = s.blk.tick dt →
    2 ≤ b.pwr.at_ →
    p = pinStep b.up 500 2 present (b.rd F.HSW_STAT_PRESENT 0) b.pwr.present →
    e = pinStep b.up 5 5 eject (b.rd F.HSW_STAT_EJECT 0) b.pwr.eject →
    ((p.1 = 4 → b.rd F.HSW_STAT_PRESENT 0 = 4) ∧ (e.1 = 4 → b.rd F.HSW_STAT_EJECT 0 = 4)) →
    exec (.pinSample dt present eject) s = .next (s.withBlk (((b.putPwr { b.pwr with
      present := p.2, eject := e.2, presentNow := present, ejectNow := eject,
      wentOut := b.pwr.wentOut || (p.1 == 0 && b.rd F.HSW_STAT_PRESENT 0 != 0) }).wr F.HSW_STAT_PRESENT 0 p.1).wr F.HSW_STAT_EJECT 0 e.1))) ∧
  -- presenceActive: R429
  (∀ (s : State) (dt : Nat) (b : Blk) (again : Bool),
    b = s.blk.tick dt →
    b.pwr.at_ = 2 →
    b.rd F.HSW_STAT_PRESENT 0 = 1 ∨ b.rd F.HSW_STAT_PRESENT 0 = 2 →
    again = b.pwr.wentOut →
    (b.pwr.refused && !again) = false ∧ (b.pwr.byCommand && !again) = false →
    exec (.presenceActive dt) s = .next (s.withBlk ((b.putPwr { b.pwr with
      at_ := 3, since := b.up, refused := false, byCommand := false,
      wentOut := false }).wr F.HSW_STAT_STATE 0 1))) ∧
  -- presenceRefused: R432
  (∀ (s : State) (dt : Nat) (b : Blk),
    b = s.blk.tick dt →
    b.pwr.at_ = 2 ∧ b.pwr.refused = true ∧ b.pwr.wentOut = false →
    b.rd F.HSW_STAT_PRESENT 0 = 1 ∨ b.rd F.HSW_STAT_PRESENT 0 = 2 →
    exec (.presenceActive dt) s = .next (s.withBlk (b.putPwr { b.pwr with at_ := 3, since := b.up }))) ∧
  -- powerOnCheck: R429, R432
  (∀ (s : State) (dt least most : Nat) (b : Blk),
    b = s.blk.tick dt →
    b.pwr.at_ = 3 ∧ b.pwr.since + 10000000 ≤ b.up ∧ b.pwr.refused = false ∧ b.pwr.byCommand = false →
    ejectAsserted b = false ∧ isPresent b = true ∧ 10 * b.rd F.HSW_LIMITS_UV_WARN 0 ≤ least ∧ most ≤ 10 * b.rd F.HSW_LIMITS_OV_OFF 0 →
    exec (.powerOnCheck dt least most) s = .next (s.withBlk (((b.putPwr { b.pwr with at_ := 5, since := b.up }).wr F.HSW_STAT_STATE 0 2).bump
      F.HSW_LIFE_INSERTIONS 0))) ∧
  -- softStartDone: R429
  (∀ (s : State) (dt : Nat) (b : Blk),
    b = s.blk.tick dt →
    b.pwr.at_ = 5 ∧ b.pwr.since + 20000000 ≤ b.up →
    exec (.softStartDone dt) s = .next (s.withBlk ((((b.putPwr { b.pwr with at_ := 6, since := b.up, rail := true, good := some b.up }).wr
      F.HSW_STAT_PG12 0 1).wr F.HSW_STAT_STATE 0 3).emit (.rail true)))) ∧
  -- internalResetRelease: R429, R433
  (∀ (s : State) (dt straps t : Nat) (b : Blk),
    b = s.blk.tick dt →
    b.pwr.at_ = 6 ∧ b.pwr.good = some t ∧ t + 1000000 ≤ b.up ∧ b.pwr.reset = none →
    exec (.internalResetRelease dt straps) s = .next (s.withBlk (latchStraps straps (((b.putPwr { b.pwr with
      at_ := 7, since := b.up, resetN := false,
      reset := none }).wr F.SYS_ROLE_ROLE 0 1).wr F.SYS_ROLE_PREV 0 1)))) ∧
  -- latchStrapsMode: R407, R433
  (∀ (v : Nat) (b : Blk),
    (latchStraps v b).rd F.SYS_STRAPS_SEAT 0 = bits v 0 1 ∧
      (latchStraps v b).rd F.SYS_STRAPS_SLOT 0 = (if b.rd F.SYS_STAT_RESET_CAUSE 0 = 0 then b.pwr.slot % 16 else bits v 4 4) ∧
      (latchStraps v b).rd F.SYS_STRAPS_ENS_POS 0 = bits v 8 3 ∧ (latchStraps v b).rd F.ACG_MODE_STRAP 0 = b2n (bit v 11) ∧
      (latchStraps v b).rd F.ACG_MODE_MODE 0 = (if bit v 11 then b.acg.savedMode.getD 0 % 2 else 0) ∧
      (latchStraps v b).rd F.ACG_MODE_SAVED 0 = (if bit v 11 then b2n b.acg.savedMode.isSome else 0)) ∧
  -- operatingState: R429
  (∀ (s : State) (dt : Nat) (b : Blk),
    b = s.blk.tick dt →
    b.pwr.at_ = 7 →
    exec (.operatingState dt) s = .next (s.withBoth (operatingState b) {})) ∧
  -- strapSample: R434
  (∀ (s : State) (dt straps v : Nat) (b : Blk),
    b = s.blk.tick dt →
    v = bits straps 0 1 + 16 * bits straps 4 4 + 256 * bits straps 8 3 + 2048 * bits straps 11 1 →
    7 ≤ b.pwr.at_ ∧ v ≠ b.rd F.SYS_STRAPS_SEAT 0 + 16 * b.rd F.SYS_STRAPS_SLOT 0 + 256 * b.rd F.SYS_STRAPS_ENS_POS 0 + 2048 * b.rd F.ACG_MODE_STRAP 0 →
    exec (.strapSample dt straps) s = .next (s.withBlk (if b.pwr.strapTold = some v then b.wr F.SYS_STAT_STRAP_DIFF 0 1
      else raise sysPage 0x105 sevWarning (v % 2048) (evB 3) ((b.wr F.SYS_STAT_STRAP_DIFF 0 1).putPwr { b.pwr with strapTold := some v })))) ∧
  -- startupAbort: R432
  (∀ (s : State) (dt : Nat) (b : Blk),
    b = s.blk.tick dt →
    3 ≤ b.pwr.at_ ∧ b.pwr.at_ < 9 →
    b.rd F.HSW_STAT_PRESENT 0 = 0 ∨ ejectAsserted b = true →
    exec (.startupAbort dt) s = .next (s.withBoth (powerOff (if b.pwr.refused then 5 else 1) b) {}))

/-- Resets, power faults, loss of a rail, and removal of the module. For each command of reset and removal, under the
conditions it belongs to, the next state it leaves: RESET_N, a module reset, power faults, the loss of a rail, the eject
warning and its ends, a shutdown; and what a module reset, a power fault and a power-off leave in the block. -/
def Obligations.PowerCommandsLoss : Prop :=
  -- resetNAssert: R435, R436
  (∀ (s : State) (dt : Nat) (b : Blk),
    b = s.blk.tick dt →
    (6 ≤ b.pwr.at_ → exec (.resetNAssert dt) s = .next (s.withBoth ((moduleReset 1 b).putPwr { (moduleReset 1 b).pwr with resetN := true }) {})) ∧
      (b.pwr.at_ < 6 → exec (.resetNAssert dt) s = .next (s.withBlk (b.putPwr { b.pwr with resetN := true })))) ∧
  -- moduleReset: R435
  (∀ (s : State) (dt c t : Nat) (b : Blk),
    b = s.blk.tick dt →
    b.pwr.reset = some (c, t) ∧ t ≤ b.now ∧ c ≠ 4 →
    exec (.moduleReset dt) s = .next (s.withBoth (moduleReset c b) {})) ∧
  -- moduleResetLeaves: R435
  (∀ (c : Nat) (b : Blk),
    b.pwr.rail = true →
    (Machine.moduleReset c b).rd F.SYS_STAT_RESET_CAUSE 0 = c % 8 ∧ (Machine.moduleReset c b).rd F.HSW_STAT_STATE 0 = 3 ∧
      (Machine.moduleReset c b).pwr.at_ = 6 ∧ (Machine.moduleReset c b).pwr.reset = none ∧ (Machine.moduleReset c b).stg = [] ∧
      (Machine.moduleReset c b).clk.saved = b.clk.saved ∧ (Machine.moduleReset c b).acg.savedMode = b.acg.savedMode ∧ (Machine.moduleReset c b).heads = []) ∧
  -- powerFault: R432
  (∀ (s : State) (dt code : Nat) (b : Blk),
    b = s.blk.tick dt →
    5 ≤ b.pwr.at_ ∧ 1 ≤ code ∧ code ≤ 3 →
    exec (.powerFault dt code) s = .next (s.withBoth (powerFault code b) {})) ∧
  -- powerFaultLeaves: R432
  (∀ (code : Nat) (b : Blk),
    code < 8 →
    Machine.powerFault code b = flagSet 0x50058 (2 ^ 31) [(F.HSW_FAULT_CODE.key 0 0, code % 16)] (powerOff 5
      ((((b.wr F.HSW_FAULT_CODE 0 code).bump F.HSW_FAULT_COUNT 0).wr F.HSW_FAULT_VALID 0 1).putPwr
      { b.pwr with refused := true, wentOut := false, refusalTold := false }))) ∧
  -- powerOffLeaves: R445
  (∀ (b : Blk) (state : Nat),
    state < 8 ∧ b.pwr.rail = true →
    (powerOff state b).rd F.HSW_STAT_STATE 0 = state ∧ (powerOff state b).rd F.HSW_STAT_PG12 0 = 0 ∧
      (powerOff state b).rd F.SYS_ROLE_ROLE 0 = 0 ∧ (powerOff state b).pwr.rail = false ∧ Emit.rail false ∈ (powerOff state b).out) ∧
  -- uvWarning: R447
  (∀ (s : State) (dt least : Nat) (b : Blk),
    b = s.blk.tick dt →
    5 ≤ b.pwr.at_ ∧ least < 10 * b.rd F.HSW_LIMITS_UV_WARN 0 →
    exec (.uvWarning dt least) s = .next (s.withBlk (raise hswPage 0x100 sevWarning (least % 65536) (evB 1) b))) ∧
  -- railLoss: R446
  (∀ (s : State) (dt : Nat) (uv : Bool) (b : Blk),
    b = s.blk.tick dt →
    b.pwr.rail = true →
    uv = true ∨ b.rd F.HSW_STAT_PRESENT 0 = 0 →
    exec (.railLoss dt uv) s = .next (s.withBoth (if uv then powerFault 1 b else powerOff 1 b) {})) ∧
  -- auxRailLoss: R466
  (∀ (s : State) (dt : Nat) (b : Blk),
    b = s.blk.tick dt →
    (b.pwr.rail = true → exec (.auxRailLoss dt) s = .next (s.withBoth (((powerOff 0 b).putPwr { (powerOff 0 b).pwr with at_ := 0, since := b.up }).wr
      F.HSW_STAT_AUX_OK 0 0 |>.wr F.CLK_OCXO_WARM 0 0) {})) ∧
      (b.pwr.rail = false → exec (.auxRailLoss dt) s = .next (s.withBlk ((b.putPwr { b.pwr with at_ := 0, since := b.up }).wr F.HSW_STAT_AUX_OK 0 0
      |>.wr F.CLK_OCXO_WARM 0 0)))) ∧
  -- ejectWarning: R443
  (∀ (s : State) (dt : Nat) (b : Blk),
    b = s.blk.tick dt →
    ejectAsserted b = true ∧ b.pwr.at_ = 9 ∧ b.pwr.warned = none →
    exec (.ejectWarning dt) s = .next (s.withBlk (depart (raise hswPage 0x101 sevWarning 0 (evB 0)
      ((b.putPwr { b.pwr with warned := some (b.up, 0), warnedAt := b.now }).wr F.HSW_STAT_STATE 0 4))))) ∧
  -- ejectOwnRelease: R444
  (∀ (s : State) (dt t src : Nat) (b : Blk),
    b = s.blk.tick dt →
    b.pwr.warned = some (t, src) ∧ b.pwr.warnedAt + 18000000 ≤ b.now →
    ownOut b = true ∧ b.pr.release.isSome = true ∧ b.pr.released = false →
    exec (.ejectOwnRelease dt) s = .next (s.withBlk (epochEndSend (dropOwnership (closeEpoch (b.putPr { b.pr with released := true })))))) ∧
  -- ejectPowerOff: R445
  (∀ (s : State) (dt t src : Nat) (b : Blk),
    b = s.blk.tick dt →
    b.pwr.warned = some (t, src) ∧ src ≠ 0 ∧ t + 20000000 ≤ b.up →
    exec (.ejectPowerOff dt) s = .next (s.withBoth (powerOff 6 (b.putPwr { b.pwr with byCommand := true, wentOut := false })) {})) ∧
  -- ejectorClosed: R445
  (∀ (s : State) (dt t : Nat) (b : Blk),
    b = s.blk.tick dt →
    b.pwr.warned = some (t, 0) ∧ b.pwr.reset = none →
    b.rd F.HSW_STAT_EJECT 0 = 0 ∧ b.rd F.HSW_STAT_PRESENT 0 ≠ 0 →
    exec (.ejectorClosed dt) s = .next (s.withBlk (raise sysPage 0x106 sevWarning 3 0 (raise hswPage 0x102 sevNotice 0 (evB 0)
      (b.putPwr { b.pwr with reset := some (3, b.now + 1000000000) }))))) ∧
  -- ejectResetDue: R445
  (∀ (s : State) (dt t : Nat) (b : Blk),
    b = s.blk.tick dt →
    b.pwr.reset = some (3, t) ∧ t ≤ b.now →
    exec (.ejectResetDue dt) s = .next (s.withBoth (Machine.moduleReset 3 b) {})) ∧
  -- shutdownPowerOff: R457
  (∀ (s : State) (dt t : Nat) (b : Blk),
    b = s.blk.tick dt →
    b.thm.shutAt = some t ∧ t + 20000000 ≤ b.now →
    exec (.shutdownPowerOff dt) s = .next (s.withBoth (Machine.powerFault 4 b) {}))

/-- Sensors, levels, throttle steps, ageing and life, and the temperature given to the clock block. For each thermal command,
when it is due, the next state it leaves: a sensor's conversion, its failure and recovery, a level's fall, the throttle
interval and its steps, the temperature passed to CLK, ageing and life. -/
def Obligations.ThermalCommands : Prop :=
  -- sensorConversion: R449, R450
  (∀ (s : State) (dt : Nat) (temps : List (Option Int)) (b c : Blk),
    b = s.blk.tick dt →
    (c = forEach ((temps.take 39).zipIdx) (fun e => convert e.2 e.1) b) →
    exec (.sensorConversion dt temps) s = .next (s.withBlk (thmRefresh (forEach (List.range 24) (fun n x =>
      x.putThm { x.thm with
      apart := if disagrees x n then (if (mget x.thm.apart n).isSome then x.thm.apart else mset x.thm.apart n x.now)
      else mdel x.thm.apart n }) c)))) ∧
  -- convertTakes: R449, R450
  (∀ (n : Nat) (t : Int) (b : Blk),
    -400 ≤ t ∧ t ≤ 1500 →
    mget (convert n (some t) b).thm.conv n = some ((t :: mgetD b.thm.conv n []).take 4) ∧ (convert n (some t) b).regs = b.regs ∧
      (∀ j, j ≠ n → mget (convert n (some t) b).thm.conv j = mget b.thm.conv j)) ∧
  -- sensorFailed: R450
  (∀ (s : State) (dt n : Nat) (b : Blk),
    b = s.blk.tick dt →
    n < 39 ∧ b.rd F.THM_TEMP_FAILED 0 n = 0 →
    failCause b n ≠ 0 →
    exec (.sensorFailed dt n) s = .next (s.withBlk (thmRefresh (raise thmPage 0x102 sevWarning (n + 64 * failCause b n) (evB 2)
      ((b.wr F.THM_TEMP_FAILED 0 1 n).putThm { b.thm with validAt := mdel b.thm.validAt n }))))) ∧
  -- failCauses: R450
  (∀ (b : Blk) (n : Nat),
    failCause b n = (if mgetD b.thm.convAt n 0 + 10000000 ≤ b.now then 1 else if n ∈ b.thm.outside then 2
      else if ∃ t, mget b.thm.apart n = some t ∧ t + 1000000000 ≤ b.now then 3 else 0)) ∧
  -- sensorRecovered: R450
  (∀ (s : State) (dt n t : Nat) (b : Blk),
    b = s.blk.tick dt →
    mget b.thm.validAt n = some t ∧ t + 60000000000 ≤ b.now →
    Machine.sensorFailed b n = true ∧ disagrees b n = false →
    exec (.sensorRecovered dt n) s = .next (s.withBlk (thmRefresh (raise thmPage 0x103 sevNotice n (evB 2) (b.wr F.THM_TEMP_FAILED 0 0 n))))) ∧
  -- levelFall: R451
  (∀ (s : State) (dt t : Nat) (b : Blk),
    b = s.blk.tick dt →
    b.thm.coolAt = some t ∧ t + 10000000000 ≤ b.now →
    b.rd F.THM_STAT_LEVEL 0 ≠ 0 ∧ b.rd F.THM_STAT_LEVEL 0 ≠ 4 ∧ allCool b = true →
    exec (.levelFall dt) s = .next (s.withBlk (thmRefresh (setLevel (b.rd F.THM_STAT_LEVEL 0 - 1) b)))) ∧
  -- throttleInterval: R454
  (∀ (s : State) (dt t : Nat) (b : Blk) (hot : Bool),
    b = s.blk.tick dt →
    b.thm.intervalAt = some t ∧ t + 500000000 ≤ b.now →
    (hot = (List.range 39).any fun n => Nat.ble 2 (sensorLevel b n)) →
    exec (.throttleInterval dt) s = .next (s.withBlk (if b.thm.intervalHot && hot
      then setStep (Nat.min 7 (b.thm.step + 1)) (b.putThm { b.thm with intervalAt := some (t + 500000000), intervalHot := hot })
      else b.putThm { b.thm with intervalAt := some (t + 500000000), intervalHot := hot }))) ∧
  -- throttleFall: R454
  (∀ (s : State) (dt : Nat) (b : Blk),
    b = s.blk.tick dt →
    b.rd F.THM_STAT_LEVEL 0 < 2 ∧ b.thm.step ≠ 0 ∧ b.thm.stepFallAt + 5000000000 ≤ b.now →
    exec (.throttleFall dt) s = .next (s.withBlk (setStep (b.thm.step - 1) (b.putThm { b.thm with stepFallAt := b.now })))) ∧
  -- stepInEffect: R454, R455
  (∀ (k : Nat) (b : Blk) (n : Nat),
    n = Nat.max k (b.rd F.THM_CFG_TEST_STEP 0) →
    setStep k b = if n = b.rd F.THM_STAT_STEP 0 then b.putThm { b.thm with step := k } else
      raise thmPage 0x101 sevInfo n (evB 1) ((b.putThm { b.thm with step := k, stepAt := b.now, stepWas := b.rd F.THM_STAT_STEP 0 }).wr
      F.THM_STAT_STEP 0 n)) ∧
  -- ocxoTempPass: R458
  (∀ (s : State) (dt : Nat) (b : Blk),
    b = s.blk.tick dt →
    b.thm.passAt + 1000000000 ≤ b.now →
    exec (.ocxoTempPass dt) s = .next (s.withBlk (match filtered b 36 with
      | some r => (b.putThm { b.thm with passAt := b.now }).wr F.CLK_OCXO_TEMP 0 (enc 16 (10 * r))
      | none => b.putThm { b.thm with passAt := b.now }))) ∧
  -- ageingMeasure: R459
  (∀ (s : State) (dt top : Nat) (l : List Nat) (b c : Blk),
    b = s.blk.tick dt →
    b.thm.ageAt + 86400000000000 ≤ b.now →
    top = maxD (l.take 24) →
    c = (b.putThm { b.thm with ageAt := b.now }).wr F.THM_AGE_SLOWDOWN 0 (Nat.min 65535 top) →
    exec (.ageingMeasure dt l) s = .next (s.withBlk (if 400 ≤ top ∧ b.thm.ageTold = false then
      raise thmPage 0x104 sevWarning ((l.findIdx? (· == top)).getD 0) (evB 3) (c.putThm { c.thm with ageTold := true }) else c))) ∧
  -- lifeTick: R460
  (∀ (s : State) (dt add : Nat) (hour : Bool) (b c : Blk),
    b = s.blk.tick dt →
    b.thm.lifeAt + 1000000000 ≤ b.now →
    (add = match hottestDie b with | some r => pow2c (r - 800) | none => 0) →
    hour = decide (b.thm.lifeSavedAt + 3600000000000 ≤ b.now) →
    (c = b.putThm { b.thm with
      lifeAt := b.now, life := b.thm.life + add, lifeSaved := if hour then b.thm.life + add else b.thm.lifeSaved,
      lifeSavedAt := if hour then b.now else b.thm.lifeSavedAt }) →
    (b.thm.life + add) * 1000 / lifeSpan < 800 ∨ b.thm.lifeTold = true →
    exec (.lifeTick dt) s = .next (s.withBlk ((if b.rd F.THM_STAT_STEP 0 = 0 then c else c.bump F.THM_THROTTLED_SECONDS 0).wr
      F.THM_AGE_LIFE_USED 0 (Nat.min 65535 ((b.thm.life + add) * 1000 / lifeSpan)))))

/-- Frame-store accesses, arbitration, patrol reads, hourly counts, and check-value runs. For each command of the memory and
the check-value units, the next state it leaves: a read that is clean, corrected, uncorrectable or refused, a write, a grant
of arbitration, patrol reads of the store and of SRAM, the HELD window, the hourly count, and the trigger and end of a run. -/
def Obligations.FrameStoreCommands : Prop :=
  -- memAccessRead: R387, R413
  (∀ (s : State) (dt mid a n q : Nat) (l : List Nat) (beaten : Bool) (b : Blk),
    b = s.blk.tick dt →
    (q = storeAddr mid a b ∧ (mid = 0x01 → b.rd F.SYS_FSWIN_BASE 0 < usable b / 2 ^ 28)) →
    fsGranted b mid q false = true ∧ q + n ≤ usable b ∧ spanMarked s.store q n = false →
    exec (.memAccess dt mid a n false false l 0 0 beaten) s = .next (s.withBlk (b.emit (.word (s.store.leRead q n) 0)))) ∧
  -- memAccessCorrected: R389
  (∀ (s : State) (dt mid a n q flips skew w : Nat) (l : List Nat) (beaten : Bool) (b : Blk),
    b = s.blk.tick dt →
    (q = storeAddr mid a b ∧ (mid = 0x01 → b.rd F.SYS_FSWIN_BASE 0 < usable b / 2 ^ 28)) →
    fsGranted b mid q false = true ∧ q + n ≤ usable b ∧ spanMarked s.store q n = false →
    readCoded s.store (q / 8) flips skew = (w, 1) →
    exec (.memAccess dt mid a n false false l flips skew beaten) s = .next (s.withBoth
      ((corrected q mid (!beaten) b).emit (.word ((s.store.leWrite (8 * (q / 8)) 8 w).leRead q n) 0))
      (if beaten then s.store else s.store.leWrite (8 * (q / 8)) 8 w))) ∧
  -- memAccessUncorrectable: R390
  (∀ (s : State) (dt mid a n q flips skew : Nat) (l : List Nat) (beaten : Bool) (b : Blk),
    b = s.blk.tick dt →
    (q = storeAddr mid a b ∧ (mid = 0x01 → b.rd F.SYS_FSWIN_BASE 0 < usable b / 2 ^ 28)) →
    fsGranted b mid q false = true ∧ q + n ≤ usable b ∧ mid ≠ 0x14 →
    (readCoded s.store (q / 8) flips skew).2 = 2 ∨ spanMarked s.store q n = true →
    exec (.memAccess dt mid a n false false l flips skew beaten) s = .next (s.withBoth ((uncorrectable q mid b).emit (.word 0 4))
      (if (readCoded s.store (q / 8) flips skew).2 = 2 then s.store.mark q else s.store))) ∧
  -- memAccessWrite: R387, R388
  (∀ (s : State) (dt mid a n q : Nat) (l : List Nat) (beaten : Bool) (b : Blk),
    b = s.blk.tick dt →
    (q = storeAddr mid a b ∧ (mid = 0x01 → b.rd F.SYS_FSWIN_BASE 0 < usable b / 2 ^ 28)) →
    fsGranted b mid q true = true ∧ q + n ≤ usable b →
    8 ≤ n ∨ s.store.isMarked q = false →
    ((mid = 0x01 ∨ mid = 0x04) → copyDiscards b = false ∧ b.on F.PAIR_EPOCH_FILL_HELD 0 = false ∧ copying b = false) →
    exec (.memAccess dt mid a n true false l 0 0 beaten) s = .next (s.withBoth b (storeWords q (l.take n) s.store))) ∧
  -- memAccessRefused: R413
  (∀ (s : State) (dt mid a n q flips skew : Nat) (write : Bool) (l : List Nat) (beaten : Bool) (b : Blk),
    b = s.blk.tick dt →
    (q = storeAddr mid a b ∧ (mid = 0x01 → b.rd F.SYS_FSWIN_BASE 0 < usable b / 2 ^ 28)) →
    fsGranted b mid q write = false ∧ mid ≠ 0x14 →
    exec (.memAccess dt mid a n write false l flips skew beaten) s = .next (s.withBlk (if write then fsViolation (fsPort mid) mid q 1 b
      else (fsViolation (fsPort mid) mid q 0 b).emit (.word 0 (if mid = 0x01 then 0 else if mid = 0x04 ∨ mid = 0x08 then 2 else 4))))) ∧
  -- memAccessOutOfWindow: R41, R2
  (∀ (s : State) (dt a n flips skew : Nat) (write misroute : Bool) (l : List Nat) (beaten : Bool) (b : Blk),
    b = s.blk.tick dt →
    usable b / 2 ^ 28 ≤ b.rd F.SYS_FSWIN_BASE 0 →
    exec (.memAccess dt 0x01 a n write misroute l flips skew beaten) s = .next (s.withBlk (if write then b else b.emit (.word 0 0)))) ∧
  -- arbGrant: R393, R394, R395
  (∀ (s : State) (dt ch : Nat) (l : List Req) (r : Req) (b : Blk),
    b = s.blk.tick dt →
    urgentFirst b l = some r ∨ (urgentFirst b l = none ∧ byTags b.mem.tags ch l = some r) →
    ∃ t, exec (.arbGrant dt ch l) s = .next (s.withBlk ({ b with mem := { b.mem with tags := t } }.emit (.grant ch r.1 r.2.1 r.2.2.1)))) ∧
  -- scrubRead: R391
  (∀ (s : State) (dt : Nat) (beaten : Bool) (b : Blk),
    b = s.blk.tick dt →
    b.mem.passAt + b.mem.scrub * passNs b / usable b ≤ b.now →
    s.store.isMarked b.mem.scrub = false →
    exec (.scrubRead dt 0 0 beaten) s = .next (s.withBlk (scrubNext (scrubBehind b)))) ∧
  -- scrubNextWord: R391
  (∀ (b : Blk),
    b.mem.scrub + 8 < usable b →
    scrubNext b = { b with mem := { b.mem with scrub := b.mem.scrub + 8 } }.wr F.MEM_SCRUB_PROGRESS 8 ((b.mem.scrub + 8) * 100 / usable b)) ∧
  -- sramPatrolCorrected: R392
  (∀ (s : State) (dt region word flips skew x y z : Nat) (b c : Blk) (n : Nat),
    b = s.blk.tick dt →
    (readCoded {} word flips skew).2 = 1 →
    errorTold 8 1 (b.bump F.MEM_SRAM_CE_COUNT 8) = (c, some n) →
    exec (.sramPatrol dt region word flips skew x y z) s = .next (s.withBlk (raise memGlobal 0x104 sevNotice n (evB 1) c))) ∧
  -- sramPatrol: R392
  (∀ (s : State) (dt region word flips skew x y z : Nat) (b c : Blk),
    b = s.blk.tick dt →
    (readCoded {} word flips skew).2 = 2 →
    c = ((b.bump F.MEM_SRAM_UE_COUNT 8).wr F.MEM_SRAM_LAST_REGION 8 region).wr F.MEM_SRAM_LAST_WORD 8 word →
    exec (.sramPatrol dt region word flips skew x y z) s = .next (s.withBlk (raise memGlobal 0x105 (if region = 4 ∨ region = 5 then sevFatal else sevError) region (evB 1)
      (match region with | 0 => lineNotReady x y z c | 1 => loseTile x y c | 2 => loseSpan x y z c | 3 => chnDiscard x 1 c | _ => c)))) ∧
  -- heldWindow: R396
  (∀ (s : State) (dt ch util urgent ing codec sys scrub : Nat) (b : Blk),
    b = s.blk.tick dt →
    ing ≤ 50 ∧ codec ≤ 50 ∧ sys ≤ 50 →
    exec (.heldWindow dt ch util urgent ing codec sys scrub) s = .next (s.withBlk ((((((b.wr F.MEM_CH_STAT_UTIL ch util).wr
      F.MEM_CH_STAT_URGENT ch urgent).wr F.MEM_HELD_INGEST ch ing).wr F.MEM_HELD_CODEC ch codec).wr F.MEM_HELD_SYSTEM ch sys).wr F.MEM_HELD_SCRUB ch scrub))) ∧
  -- ceHour: R389
  (∀ (s : State) (dt ch : Nat) (b c : Blk),
    b = s.blk.tick dt →
    b.now / 3600000000000 ≠ mgetD b.mem.hourAt ch 0 →
    c = { b with mem := { b.mem with hourAt := mset b.mem.hourAt ch (b.now / 3600000000000), hours := mset b.mem.hours ch 0 } } →
    exec (.ceHour dt ch) s = .next (s.withBlk (if b.rd F.MEM_CFG_CE_LIMIT 8 < mgetD b.mem.hours ch 0
      then raise (memPage ch) 0x102 sevWarning (Nat.min 65535 (mgetD b.mem.hours ch 0)) (evB 0) c else c))) ∧
  -- crcTrigger: R399
  (∀ (s : State) (dt u base : Nat) (hold : Option (Nat × Nat)) (t : List (Nat × Option (Nat × Nat))) (b c : Blk),
    b = s.blk.tick dt →
    (b.unitCrc u).trigs = (base, hold) :: t →
    c = b.putCrc u { b.unitCrc u with trigs := t } →
    exec (.crcTrigger dt u) s = .next (s.withBlk (if (b.unitCrc u).run.isSome then crcOverrun u c else
      (c.putCrc u { c.unitCrc u with run := some ⟨base, b.now, b.rd F.CRC_EXP_VALUE u, b.rd F.CRC_SEQ_VALUE u, hold⟩ }).wr F.CRC_STAT_STATE u 1))) ∧
  -- crcRunEnd: R400, R401
  (∀ (s : State) (dt u : Nat) (r : CrcRun) (b c : Blk),
    b = s.blk.tick dt →
    (b.unitCrc u).run = some r →
    crcUnread b s.store u r = none ∧ r.began + crcBytes b u / 4 ≤ b.now →
    c = crcIdle u (((b.putCrc u { b.unitCrc u with run := none }).bump F.CRC_RUNS_COUNT u).step F.CRC_SEQ_VALUE u) →
    exec (.crcRunEnd dt u false) s = .next (s.withBlk (crcCompare u r (crcResult c s.store u r) (c.wr F.CRC_RESULT_VALUE u (crcResult c s.store u r))))) ∧
  -- crcRunEndUnread: R390, R400
  (∀ (s : State) (dt u a : Nat) (disturbed : Bool) (r : CrcRun) (b : Blk),
    b = s.blk.tick dt →
    (b.unitCrc u).run = some r →
    crcUnread b s.store u r = some a →
    exec (.crcRunEnd dt u disturbed) s = .next (s.withBlk (raise (crcPage u) 0x102 sevWarning (2 % 2 ^ 17 + 2 ^ 17 * u) (evB 2) ((readFailed 0x17 a (crcIdle u
      (((b.putCrc u { b.unitCrc u with run := none }).bump F.CRC_RUNS_COUNT u).step F.CRC_SEQ_VALUE u))).wr F.CRC_STAT_OUTCOME u 5))))

/-- Received frames, group membership, addresses, links and error correction of the network ports. For each command of the
network ports, the next state it leaves: a received frame that is taken or dropped, queries, repeated reports, ARP replies,
address conflicts and claims, a link's rise and fall, and the error-correction report. -/
def Obligations.NetworkCommands : Prop :=
  -- ethFrameRx: R110, R115
  (∀ (s : State) (dt n : Nat) (f : EthRx) (b : Blk),
    b = s.blk.tick dt →
    b.on F.NIF_STAT_LINK n = true →
    exec (.ethFrameRx dt n f) s = .next (s.withBlk (if dropReason b n f = 0 then
      (if f.dest = .ptp true then (b.bump F.NIF_RX_FRAMES_COUNT n).putPort n { b.port n with ptpStamp := b.now } else b.bump F.NIF_RX_FRAMES_COUNT n)
      else if (b.port n).dropAt = none then
      (b.bump F.NIF_RX_DROP_COUNT n).putPort n { b.port n with dropAt := some b.now, dropWhy := dropReason b n f }
      else b.bump F.NIF_RX_DROP_COUNT n))) ∧
  -- dropReasons: R110
  (∀ (b : Blk) (n : Nat) (f : EthRx),
    (dropReason b n f = 0 ↔ f.fcsOk = true ∧ 64 ≤ f.len ∧ f.len ≤ 9216 ∧
      f.tags = (if b.on F.NIF_CFG_VLAN_EN n then [b.rd F.NIF_CFG_VID n] else []) ∧ ipOk f = true ∧ udpOk f = true ∧ destOk b n f.dest = true) ∧
      (f.fcsOk = false → dropReason b n f = 1) ∧ (f.fcsOk = true → f.len < 64 ∨ 9216 < f.len → dropReason b n f = 2)) ∧
  -- dropReport: R110
  (∀ (s : State) (dt n t : Nat) (b : Blk),
    b = s.blk.tick dt →
    (b.port n).dropAt = some t ∧ t + 1000000000 ≤ b.now →
    exec (.dropReport dt n) s = .next (s.withBlk (raise (nifPage n) 0x105 sevNotice ((b.port n).dropWhy % 65536 + 65536 * n) (evB 1)
      (b.putPort n { b.port n with dropAt := none, dropWhy := 0 })))) ∧
  -- queryRx: R113, R114
  (∀ (s : State) (dt n version group : Nat) (b c : Blk),
    b = s.blk.tick dt →
    b.on F.NIF_STAT_LINK n = true ∧ olderVersion version = true →
    (c = (if b.on F.NIF_STAT_OLD_QUERIER n then b.putPort n { b.port n with oldAt := b.now } else raise (nifPage n) 0x103 sevNotice (version % 65536 + 65536 * n) 0
      ((b.putPort n { b.port n with oldAt := b.now }).wr F.NIF_STAT_OLD_QUERIER n 1))) →
    exec (.queryRx dt n version group) s = .next (s.withBlk (forEach ((c.port n).groups.filter fun e => queried version group e.1) (sendReport n) c))) ∧
  -- queryRxNew: R113, R114
  (∀ (s : State) (dt n version group : Nat) (b : Blk),
    b = s.blk.tick dt →
    b.on F.NIF_STAT_LINK n = true ∧ olderVersion version = false →
    exec (.queryRx dt n version group) s = .next (s.withBlk (forEach ((b.port n).groups.filter fun e => queried version group e.1) (sendReport n) b))) ∧
  -- oldQuerierTimeout: R114
  (∀ (s : State) (dt n : Nat) (b : Blk),
    b = s.blk.tick dt →
    (b.port n).oldAt + olderQuerierNs ≤ b.now →
    exec (.oldQuerierTimeout dt n) s = .next (s.withBlk (b.wr F.NIF_STAT_OLD_QUERIER n 0))) ∧
  -- reportRepeat: R113
  (∀ (s : State) (dt n g t : Nat) (b c : Blk),
    b = s.blk.tick dt →
    (g, t) ∈ (b.port n).repeats ∧ t ≤ b.now →
    (c = b.putPort n { b.port n with repeats := (b.port n).repeats.filter fun e => !(e.1 == g && Nat.ble e.2 b.now) }) →
    exec (.reportRepeat dt n g) s = .next (s.withBlk (forEach ((b.port n).groups.filter (·.1 == g)) (sendReport n) c))) ∧
  -- arpReply: R111
  (∀ (s : State) (dt n addr : Nat) (v6 : Bool) (b : Blk),
    b = s.blk.tick dt →
    b.on F.NIF_STAT_LINK n = true →
    (v6 = true ∧ addr = ip6Of b n) ∨ (v6 = false ∧ addr ≠ 0 ∧ addr = ip4Of b n) →
    exec (.arpReply dt n v6 addr) s = .next (s.withBlk (b.emit (.net n netArp [b2n v6, addr, macOf b n])))) ∧
  -- addrConflict: R112, R141
  (∀ (s : State) (dt n : Nat) (b c : Blk),
    b = s.blk.tick dt →
    c = raise (nifPage n) 0x104 sevWarning (0 % 65536 + 65536 * n) 0 b →
    exec (.addrConflict dt n) s = .next (s.withBlk (if c.on F.NIF_STAT_IP4_LL n then claimLinkLocal n c else c))) ∧
  -- claimsAddress: R112
  (∀ (n : Nat) (b : Blk),
    ∃ a, 0xA9FE0100 ≤ a ∧ a ≤ 0xA9FEFEFF ∧ ((claimLinkLocal n b).port n).llAddr = a ∧
      (claimLinkLocal n b).rd F.NIF_STAT_IP4_LL n = 1 ∧ (claimLinkLocal n b).out = b.out ++ [.net n netProbe [a]]) ∧
  -- nifLinkUp: R112, R113, R141
  (∀ (s : State) (dt n : Nat) (b c : Blk),
    b = s.blk.tick dt →
    b.rd F.PG_CTRL_ENABLE (nifPage n).slot = 1 ∧ b.rd F.NIF_CFG_SPEED n ≠ 0 ∧ b.on F.NIF_STAT_LINK n = false →
    c = raise (nifPage n) 0x100 sevNotice (b.rd F.NIF_CFG_SPEED n % 65536 + 65536 * n) (evB 0)
      ((((b.wr F.NIF_STAT_LINK n 1).wr F.NIF_STAT_SPEED_ACT n (b.rd F.NIF_CFG_SPEED n)).put F.NIF_STAT_AN_DONE n (b.on F.NIF_CFG_AN_EN n)).put
      F.NIF_STAT_FEC_ALIGNED n (!(b.rd F.NIF_CFG_SPEED n == 1 && b.on F.NIF_CFG_FEC_OFF n))) →
    exec (.nifLinkUp dt n) s = .next (s.withBlk (rejoinGroups n (if c.rd F.NIF_IP4_ADDR n = 0 then claimLinkLocal n c else c)))) ∧
  -- nifLinkDown: R141
  (∀ (s : State) (dt n cause : Nat) (b : Blk),
    b = s.blk.tick dt →
    b.on F.NIF_STAT_LINK n = true →
    exec (.nifLinkDown dt n cause) s = .next (s.withBlk (raise (nifPage n) 0x101 sevWarning (cause % 65536 + 65536 * n) (evB 0)
      ((((((b.wr F.NIF_STAT_LINK n 0).wr F.NIF_STAT_SPEED_ACT n 0).wr F.NIF_STAT_AN_DONE n 0).wr F.NIF_STAT_FEC_ALIGNED n 0).wr F.NIF_STAT_IP4_LL n 0).bump
      F.NIF_STAT_LINK_DOWNS n)))) ∧
  -- fecReport: R141
  (∀ (s : State) (dt n corrected codewords : Nat) (b c : Blk) (due : Bool),
    b = s.blk.tick dt →
    c = (b.bump F.NIF_FEC_CORR_COUNT n corrected).bump F.NIF_FEC_UNCORR_COUNT n codewords →
    (due = ((b.port n).fecCount + codewords != 0 && (match (b.port n).fecAt with | some t => Nat.ble (t + 1000000000) b.now | none => true))) →
    exec (.fecReport dt n corrected codewords) s = .next (s.withBlk (if due then
      raise (nifPage n) 0x102 sevNotice (Nat.min 65535 ((b.port n).fecCount + codewords) % 65536 + 65536 * n) 0
      (c.putPort n { b.port n with fecAt := some b.now, fecCount := 0 })
      else c.putPort n { b.port n with fecCount := (b.port n).fecCount + codewords })))

/-- Packets, assembly, capture times, pulses and the prompter's decisions. For each command of ingest and of the prompter's
inputs, the next state it leaves: a packet that is taken or refused, a path's loss, the time-outs of assembly, sender reports,
a frame that becomes eligible, ancillary packets, deadlines, decisions and pulses; and when a layer freezes for want of
pulses. -/
def Obligations.IngestCommands : Prop :=
  -- rtpPacketRxKnown: R119, R120, R122
  (∀ (s : State) (dt c : Nat) (p : RtpPkt) (b d : Blk) (a a' : Asm) (q t : Blk × FrameStore),
    b = s.blk.tick dt →
    p.flow ∈ flowsOf b c ∧ p.flow < 2 ∧ (rtpAccept c p b).2 = true →
    d = pathSeen c p.flow (rtpAccept c p b).1 →
    doneNo d c p.ts = none ∧ asmOf d c p.ts = some a →
    q = endsBefore c p.flow a.no d s.store ∧ asmOf q.1 c p.ts = some a' →
    t = takePacket c a' p q.1 q.2 →
    (endsFrame t.1 c p = false → exec (.rtpPacketRx dt c p) s = .next (s.withBoth t.1 t.2)) ∧
      (endsFrame t.1 c p = true → exec (.rtpPacketRx dt c p) s = .next (s.withBoth
      (completeWhere c (fun b a => asmEnded b c a) (onAsm c p.ts (Asm.seeEnd t.1.now p.flow) t.1) t.2).1
      (completeWhere c (fun b a => asmEnded b c a) (onAsm c p.ts (Asm.seeEnd t.1.now p.flow) t.1) t.2).2))) ∧
  -- rtpPacketRxRefused: R119
  (∀ (s : State) (dt c : Nat) (p : RtpPkt) (b : Blk),
    b = s.blk.tick dt →
    p.flow ∈ flowsOf b c ∧ p.flow < 2 →
    b.on F.ING_FLOW_PORT_SSM c p.flow = false ∨ p.src = b.rd F.ING_FLOW_SRC_ADDR c p.flow →
    p.version ≠ 2 ∨ p.pt ≠ b.rd F.ING_CTRL_PT c →
    exec (.rtpPacketRx dt c p) s = .next (s.withBlk (b.bump F.ING_PKT_LOST_COUNT c))) ∧
  -- rtpAccepted: R114, R119
  (∀ (c k src version pt ssrc : Nat) (b : Blk),
    b.on F.ING_FLOW_PORT_SSM c k = false ∨ src = b.rd F.ING_FLOW_SRC_ADDR c k →
    version = 2 ∧ pt = b.rd F.ING_CTRL_PT c →
    (b.chan c).lock k = none ∨ (b.chan c).lock k = some ssrc →
    flowAccept c k src version pt ssrc b = (b.putChan c ((b.chan c).lockTo k ssrc), true)) ∧
  -- rtpLockTaken: R119
  (∀ (x : IngCh) (k ssrc : Nat),
    k < 3 →
    (x.lockTo k ssrc).lock k = some ssrc) ∧
  -- pathDown: R121
  (∀ (s : State) (dt c k : Nat) (b d : Blk),
    b = s.blk.tick dt →
    (k = 0 ∧ (b.chan c).last0 + 1000000 * b.rd F.ING_ASM_PATH_TO c ≤ b.now) ∨ (k = 1 ∧ (b.chan c).last1 + 1000000 * b.rd F.ING_ASM_PATH_TO c ≤ b.now) →
    pathUp b c k = true →
    d = raise (ingPage c) 0x101 sevWarning (k % 65536 + 65536 * c) (evB 2) (putPath c k false b) →
    exec (.pathDown dt c k) s = .next (s.withBoth
      (completeWhere c (fun b a => asmEnded b c a) (if pathUp d c 0 || pathUp d c 1 then d else d.wr F.ING_STAT_STATE c 1) s.store).1
      (completeWhere c (fun b a => asmEnded b c a) (if pathUp d c 0 || pathUp d c 1 then d else d.wr F.ING_STAT_STATE c 1) s.store).2)) ∧
  -- pathDownAncillary: R121
  (∀ (s : State) (dt c : Nat) (b : Blk),
    b = s.blk.tick dt →
    (b.chan c).lastAnc + 1000000 * b.rd F.ING_ASM_PATH_TO c ≤ b.now →
    exec (.pathDown dt c 2) s = .next (s.withBlk (b.wr F.ING_STAT_ANC_UP c 0))) ∧
  -- skewTimeout: R122
  (∀ (s : State) (dt c : Nat) (b : Blk),
    b = s.blk.tick dt →
    exec (.skewTimeout dt c) s = .next (s.withBoth (completeWhere c (skewDue c) b s.store).1 (completeWhere c (skewDue c) b s.store).2)) ∧
  -- assemblyTimeout: R122
  (∀ (s : State) (dt c : Nat) (b : Blk),
    b = s.blk.tick dt →
    exec (.assemblyTimeout dt c) s = .next (s.withBoth (completeWhere c (asmDue c) b s.store).1 (completeWhere c (asmDue c) b s.store).2)) ∧
  -- completesFrames: R122
  (∀ (c : Nat) (cond : Blk → Asm → Bool) (b : Blk) (m : FrameStore) (a : Asm),
    (b.chan c).asms = [a] →
    (cond b a = true → completeWhere c cond b m = completeFrame c a (b.putChan c { b.chan c with asms := [] }) m) ∧
      (cond b a = false → completeWhere c cond b m = (b.putChan c { b.chan c with asms := [a] }, m))) ∧
  -- rtcpSrRx: R131
  (∀ (s : State) (dt c ntp rtp : Nat) (b : Blk),
    b = s.blk.tick dt →
    flowsOf b c ≠ [] →
    exec (.rtcpSrRx dt c ntp rtp) s = .next (s.withBlk (b.putChan c { b.chan c with sr := some (ntpToPtp b ntp, rtp, b.now) }))) ∧
  -- rtcpSrExpiry: R131
  (∀ (s : State) (dt c p r t : Nat) (b : Blk),
    b = s.blk.tick dt →
    (b.chan c).sr = some (p, r, t) ∧ t + 30000000000 ≤ b.now →
    exec (.rtcpSrExpiry dt c) s = .next (s.withBlk ((b.putChan c { b.chan c with sr := none }).wr F.ING_STAT_TIMED c 0))) ∧
  -- frameEligible: R124, R129, R130, R134
  (∀ (s : State) (dt c : Nat) (q : Ready) (g : Frame) (b b' d e : Blk),
    b = s.blk.tick dt →
    takeReady c (·.kind == 1) b = some (q, b') →
    frameTimes c q.dest q q.f b' = (d, g) →
    (e = (let sigs := frameSigs d c q.sampling (8 + 2 * q.depth) q.f.lay s.store
      let d' := d.wr F.ING_SIGDIG_DIGEST c (crc32c (sigs.flatMap (leBytes 4)))
      showEligible c q.dest { g with sigs := sigs, tc := d.rd F.ING_TC_TC c }
      (makeEligible q.dest none { g with sigs := sigs, tc := d.rd F.ING_TC_TC c }
      (if d'.rd F.ING_SIG_PULSE_KIND c = 1 then pulseSample c (regionSigs d' c (cdiv g.lay.w 64) sigs) d' else d')))) →
    exec (.frameEligible dt c) s = .next (s.withBlk (announce b e s.store))) ∧
  -- ancPacketRx: R114, R119, R121, R135, R136
  (∀ (s : State) (dt c : Nat) (p : AncPkt) (b d : Blk),
    b = s.blk.tick dt →
    2 ∈ flowsOf b c →
    flowAccept c 2 p.src p.version p.pt p.ssrc b = (d, true) →
    exec (.ancPacketRx dt c p) s = .next (s.withBlk
      (ancData c p.anc ((d.putChan c { d.chan c with lastAnc := d.now }).wr F.ING_STAT_ANC_UP c 1)))) ∧
  -- ancDataTimecode: R135, R136
  (∀ (c did sdid : Nat) (udw : List Nat) (b e : Blk),
    (e = if did = 0x60 ∧ sdid = 0x60 then b.wr F.ING_TC_TC c (timecode udw) else b) →
    ancData c [(did, sdid, udw)] b =
      if e.rd F.ING_SIG_PULSE_KIND c = 2 ∧ did = e.rd F.ING_SIG_ANC_DID c ∧ sdid = e.rd F.ING_SIG_ANC_SDID c then pulseSample c udw e else e) ∧
  -- deadlinePassed: R87, R89
  (∀ (s : State) (dt st k : Nat) (p : Place) (f : Frame) (d : Nat) (b c : Blk),
    b = s.blk.tick dt →
    b.place st k = some p ∧ p.shown = some f →
    passedDeadlines b.now f = [d] ∧ deadlineBites b st d p = true →
    c = refreshLayer p.layer 0 (rejudge st k 0 false true d d b) →
    exec (.deadlinePassed dt st k) s = .next (s.withBlk (mapLeft (fun st' k' p => if st' = st ∧ k' = k then
      forEach (match p.shown with | some f => passedDeadlines c.now f | none => [])
      (fun d p => if deadlineBites c st d p then p.rejudged c st d else p) p else p) c))) ∧
  -- prompterDecision: R88
  (∀ (s : State) (dt l : Nat) (b : Blk),
    b = s.blk.tick dt →
    exec (.prompterDecision dt l) s = .next (s.withBlk (rejudgeLayer l 0 false ((freezeStep l b).putLayer l { (freezeStep l b).layer l with undecided := false })))) ∧
  -- pulseChange: R84
  (∀ (s : State) (dt l : Nat) (b : Blk),
    b = s.blk.tick dt →
    exec (.pulseChange dt l) s = .next (s.withBlk (freezeStep l b)) ∧ exec (.pulseDeadlinePassed dt l) s = .next (s.withBlk (freezeStep l b))) ∧
  -- freezes: R84
  (∀ (l : Nat) (b : Blk) (t : Nat),
    (layerPol b l).cls ≠ 2 ∧ (layerPol b l).usePulse = true →
    (b.layer l).pulseAt = some t ∧ t + (layerPol b l).pulseMax ≤ b.now →
    (b.layer l).frozen = false →
    freezeStep l b = rejudgeLayer l 0x09 true (b.putLayer l { b.layer l with
      suspect := (layerPol b l).useContent && Nat.ble (layerPol b l).freezeN (b.layer l).identRun, frozen := true, frozenWhy := 0x09 }))

/-- Signal contacts: samples, debounced runs, STUCK and CHATTER. For each command of the signal contacts, the next state it
leaves: a sample, a debounced run, STUCK, unsettled input and the end of CHATTER. -/
def Obligations.ContactCommands : Prop :=
  -- sigSample: R196, R197
  (∀ (s : State) (dt levels : Nat) (b : Blk),
    b = s.blk.tick dt →
    exec (.sigSample dt levels) s = .next (s.withBlk (forEach (List.range 16) (sigSampleOne levels) b))) ∧
  -- oneSample: R196, R197
  (∀ (b : Blk) (levels j : Nat) (act : Bool),
    j < 16 →
    act = (bit levels j == b.on F.SIG_CFG_ACTIVE_HIGH 0 j) →
    (b.on F.SIG_CFG_EN 0 j = false → sigSampleOne levels j b = b) ∧
      (b.on F.SIG_CFG_EN 0 j = true → ¬ (sigState b j = 4 ∧ (!(b.contact j).fresh) = true ∧ act ≠ (b.contact j).level) → sigSampleOne levels j b =
      (b.wr F.SIG_RAW_ACTIVE 0 (setBits (b.rd F.SIG_RAW_ACTIVE 0) j 1 (b2n act))).putContact j ((b.contact j).sample b.now (sigDeb b j) act))) ∧
  -- contactDebounced: R196, R197
  (∀ (s : State) (dt j : Nat) (b : Blk) (r : Nat × Contact),
    b = s.blk.tick dt →
    b.on F.SIG_CFG_EN 0 j = true ∧ sigState b j ≠ 4 ∧ (b.contact j).due (sigDeb b j) = true →
    r = (b.contact j).debounced b.now (b.rd F.SIG_CFG_CH_N 0 j) (sigWin b j) (sigState b j) →
    exec (.contactDebounced dt j) s = .next (s.withBlk (sigReport j (sigState b j) r.1 (putSigState j r.1 (b.putContact j r.2))))) ∧
  -- debouncedRun: R196
  (∀ (c : Contact) (now chN chWin state : Nat),
    c.settled = some (!c.level) →
    (((c.changes ++ [now]).filter fun t => Nat.ble now (t + chWin)).length < chN) →
    (c.level = true → state = 0 → (c.debounced now chN chWin state).1 = 1) ∧ (c.level = false → (c.debounced now chN chWin state).1 = 0)) ∧
  -- contactStuck: R196, R198
  (∀ (s : State) (dt j : Nat) (b : Blk),
    b = s.blk.tick dt →
    sigState b j = 1 ∨ sigState b j = 2 →
    (b.contact j).since + b.rd F.SIG_STUCK_STUCK_T 0 j * 1000000000 ≤ b.now →
    exec (.contactStuck dt j) s = .next (s.withBlk (raise sigPage 0x103 sevWarning (j + 16 * 0) (evB 1) (putSigState j 3 b)))) ∧
  -- unsettledTimeout: R197
  (∀ (s : State) (dt j t : Nat) (b : Blk),
    b = s.blk.tick dt →
    (b.contact j).openAt = some t ∧ t + sigWin b j ≤ b.now →
    b.on F.SIG_CFG_EN 0 j = true ∧ sigState b j ≠ 4 →
    exec (.unsettledTimeout dt j) s = .next (s.withBlk (raise sigPage 0x104 sevWarning (j + 16 * 0) (evB 1)
      (putSigState j 4 (b.putContact j { b.contact j with openAt := none, changes := [] }))))) ∧
  -- chatterEnd: R196, R197
  (∀ (s : State) (dt j : Nat) (b : Blk),
    b = s.blk.tick dt →
    sigState b j = 4 →
    (b.contact j).lastChange + Nat.max (sigWin b j) (100000 * sigDeb b j) ≤ b.now →
    exec (.chatterEnd dt j) s = .next (s.withBlk (raise sigPage 0x105 sevNotice (j + 16 * (if (b.contact j).level then 1 else 0)) 0
      (putSigState j (if (b.contact j).level then 1 else 0) (b.putContact j { b.contact j with
      settled := some (b.contact j).level, openAt := none,
      changes := [], since := b.now })))))

/-- The stand-alone show: sessions, start, tiling, status strips and port speeds. For each command of the stand-alone show,
the next state it leaves: announcements new and repeated, deletions, a session's time-out, the start, a new tiling, the status
strips, and the alternation of a port's speed. -/
def Obligations.ShowCommands : Prop :=
  -- sapAnnouncementNew: R137
  (∀ (s : State) (dt port id : Nat) (sdp : Sdp) (b : Blk),
    b = s.blk.tick dt →
    discovers b = true ∧ b.on F.NIF_STAT_LINK port = true →
    ((∀ x ∈ b.sessions, x.id ≠ id) ∧ b.sessions.length < 128) →
    exec (.sapAnnouncement dt port id false false sdp) s = .next (s.withBlk (joinWaiting 64 { b with
      sessions := b.sessions ++
      [{ id := id, first := b.now, last := b.now, interval := 0, chan := none, port := port, sdp := sdp }] }))) ∧
  -- sapAnnouncementIgnored: R137
  (∀ (s : State) (dt port id : Nat) (encrypted compressed : Bool) (sdp : Sdp) (b : Blk),
    b = s.blk.tick dt →
    encrypted = true ∨ compressed = true →
    exec (.sapAnnouncement dt port id encrypted compressed sdp) s = .next (s.withBlk b)) ∧
  -- sapAnnouncementAgain: R137
  (∀ (s : State) (dt port id : Nat) (sdp : Sdp) (b : Blk),
    b = s.blk.tick dt →
    discovers b = true ∧ b.on F.NIF_STAT_LINK port = true →
    (∃ x ∈ b.sessions, x.id = id) →
    exec (.sapAnnouncement dt port id false false sdp) s = .next (s.withBlk { b with
      sessions := b.sessions.map fun x => if x.id = id then { x with last := b.now, interval := b.now - x.last } else x })) ∧
  -- sapDeletion: R137
  (∀ (s : State) (dt id : Nat) (b : Blk),
    b = s.blk.tick dt →
    discovers b = true →
    exec (.sapDeletion dt id) s = .next (s.withBlk (endSession id b))) ∧
  -- sessionTimeout: R137
  (∀ (s : State) (dt id : Nat) (x : Session) (b : Blk),
    b = s.blk.tick dt →
    (discovers b = true ∧ (b.sessions.find? fun y => y.id == id) = some x) →
    x.last + Nat.max (10 * x.interval) 3600000000000 ≤ b.now →
    exec (.sessionTimeout dt id) s = .next (s.withBlk (endSession id b))) ∧
  -- endsSession: R137, R138
  (∀ (b : Blk) (id : Nat) (x : Session),
    ((b.sessions.find? fun y => y.id == id) = some x) →
    endSession id b = match x.chan with
      | some k => joinWaiting 64 (showArm (showEnable (ingPage k) false { b with sessions := b.sessions.filter fun y => y.id != id }))
      | none => { b with sessions := b.sessions.filter fun y => y.id != id }) ∧
  -- showStart: R437
  (∀ (s : State) (dt : Nat) (b c : Blk) (r : Blk × FrameStore),
    b = s.blk.tick dt →
    b.on F.SYS_HOST_CLAIM_CLAIM 0 = false ∧ b.rd F.SYS_STAT_SHOW 0 = 0 ∧ b.on F.SYS_STAT_OPERATING 0 = true ∧ role b = 3 →
    b.rd F.SYS_OPER_TIME_TIME 0 + 3000000000 ≤ b.now →
    c = raiseAs 0 sysPage 0x102 sevNotice (showHeads b).length (evB 2) (b.wr F.SYS_STAT_SHOW 0 1) →
    (r = if discovers c then tileAll (showBasics c) s.store else (c, s.store)) →
    exec (.showStart dt) s = .next (s.withBoth (announce b (showStrips r.1) r.2) r.2)) ∧
  -- showRetile: R440, R441
  (∀ (s : State) (dt : Nat) (b c : Blk),
    b = s.blk.tick dt →
    discovers b = true ∧ b.show_.flipAt ≠ [] →
    (c = dropDue (b.putShow { b.show_ with removed := b.show_.removed.filter fun k => (joinedChans b).any (·.1 == k) })) →
    (showPlan c = c.show_.tiled → exec (.showRetile dt) s = .next (s.withBlk (announce b c s.store))) ∧
      (showPlan c ≠ c.show_.tiled → exec (.showRetile dt) s = .next (s.withBoth (announce b (tileAll c s.store).1 (tileAll c s.store).2) (tileAll c s.store).2))) ∧
  -- showRetileFirst: R379, R437
  (∀ (s : State) (dt : Nat) (b c : Blk),
    b = s.blk.tick dt →
    discovers b = true ∧ b.show_.flipAt = [] →
    (c = showBasics (dropDue (b.putShow { b.show_ with removed := b.show_.removed.filter fun k => (joinedChans b).any (·.1 == k) }))) →
    exec (.showRetile dt) s = .next (s.withBoth (announce b (tileAll c s.store).1 (tileAll c s.store).2) (tileAll c s.store).2)) ∧
  -- showStatusUpdate: R438
  (∀ (s : State) (dt : Nat) (b : Blk),
    b = s.blk.tick dt →
    b.rd F.SYS_STAT_SHOW 0 = 1 ∧ (role b = 3 ∨ role b = 4) ∧ b.show_.textAt + 1000000000 ≤ b.now →
    exec (.showStatusUpdate dt) s = .next (s.withBlk (showStrips b))) ∧
  -- showSpeedAlternate: R438
  (∀ (s : State) (dt n t : Nat) (b : Blk),
    b = s.blk.tick dt →
    discovers b = true ∧ mget b.show_.flipAt n = some t ∧ t + 5000000000 ≤ b.now ∧ b.on F.NIF_STAT_LINK n = false →
    exec (.showSpeedAlternate dt n) s = .next (s.withBlk (showArm (showWrite ((nifPage n).slot * 0x1000 + 0x40)
      ((if b.rd F.NIF_CFG_SPEED n = 2 then 1 else 2) + 16 * (2 * n) + 2 ^ 9) (b.putShow { b.show_ with flipAt := mset b.show_.flipAt n b.now })))))

/-- Decoded codestreams and access units, pictures put out, and the encoder's rows and slices. For each command of the
decoders and the encoder, the next state it leaves: codestreams decoded, lost or refused; an access unit decoded, waiting for
a slot, passed over, refused or queued behind one that waits; a stall; a slot that frees; a picture put out; an encoder row
ready and coded, the last row of a picture among them; a slice sent, and the last slice recorded. -/
def Obligations.CodecCommands : Prop :=
  -- xsdFrameDone: R206, R210, R216
  (∀ (s : State) (dt x c l : Nat) (first : Codestream) (rest : List Codestream) (q : Ready) (b d e : Blk) (r : Blk × FrameStore),
    b = s.blk.tick dt →
    feeder b true x = some c ∧ takeReady c (fedTo true x) b = some (q, d) ∧ xsdBound d x = true →
    l = d.rd F.XSD_CTRL_LAYER x →
    e = (d.wr F.XSD_STAT_PROFILE x first.ppih).wr F.XSD_STAT_LEVEL x first.plev →
    (first :: rest).any (·.headerLost) = false →
    firstReason ((first :: rest).map (xsdCause e c l (first :: rest).length)) = 0 →
    (r = xsdDecode x c l first (first :: rest) ((first :: rest).flatMap (·.errors) ++ (if q.f.loss.isEmpty then [] else [1])) q (e.wr F.XSD_STAT_STATE x 2) s.store) →
    exec (.xsdFrameDone dt x (first :: rest)) s = .next (s.withBoth (announce b r.1 r.2) r.2)) ∧
  -- xsdFrameDoneLost: R216, R220
  (∀ (s : State) (dt x c : Nat) (first : Codestream) (rest : List Codestream) (q : Ready) (b d : Blk),
    b = s.blk.tick dt →
    feeder b true x = some c ∧ takeReady c (fedTo true x) b = some (q, d) ∧ xsdBound d x = true →
    (first :: rest).any (·.headerLost) = true →
    exec (.xsdFrameDone dt x (first :: rest)) s = .next (s.withBlk (announce b (xsdErrors x 0
      ((first :: rest).flatMap (·.errors) ++ (if q.f.loss.isEmpty then [] else [1]) ++ [8]) (d.bump F.XSD_DISCARDED_COUNT x)) s.store))) ∧
  -- xsdFrameDoneRefused: R206, R220
  (∀ (s : State) (dt x c l n : Nat) (first : Codestream) (rest : List Codestream) (q : Ready) (b d e f : Blk),
    b = s.blk.tick dt →
    feeder b true x = some c ∧ takeReady c (fedTo true x) b = some (q, d) ∧ xsdBound d x = true →
    l = d.rd F.XSD_CTRL_LAYER x →
    e = (d.wr F.XSD_STAT_PROFILE x first.ppih).wr F.XSD_STAT_LEVEL x first.plev →
    (first :: rest).any (·.headerLost) = false →
    firstReason ((first :: rest).map (xsdCause e c l (first :: rest).length)) = n + 1 →
    e.rd F.XSD_STAT_STATE x ≠ 3 →
    (f = ((xsdErrors x 0 ((first :: rest).flatMap (·.errors) ++ (if q.f.loss.isEmpty then [] else [1])) e).wr F.XSD_STAT_STATE x 3).wr F.XSD_STAT_CAUSE x (n + 1)) →
    exec (.xsdFrameDone dt x (first :: rest)) s = .next (s.withBlk (announce b
      (raise (xsdPage x) 0x101 sevWarning ((n + 1) % 2 ^ 18 + 2 ^ 18 * x) (evB 2) f) s.store))) ∧
  -- vdcAccessUnit: R207, R209, R212, R222
  (∀ (s : State) (dt x c : Nat) (au : AccessUnit) (q : Ready) (b d e g : Blk) (k : Blk × FrameStore),
    b = s.blk.tick dt →
    feeder b false x = some c ∧ takeReady c (fedTo false x) b = some (q, d) ∧ vdcBound d x = true →
    e = vdcPace x c d →
    (e.vdcCtx x).wait = [] ∧ vdcCause e x c au = 0 →
    ¬ ((e.rd F.VDC_STAT_STATE x = 3 ∧ (!auIrap (isH264 e c) au) = true) ∨ (e.rd F.VDC_STAT_STATE x = 1 ∧ (!e.on F.VDC_CTRL_START x) = true ∧ (!recovers (isH264 e c) (e.vdcCtx x) au) = true) ∨ (auRasl (isH264 e c) au && (e.vdcCtx x).noRasl) = true) →
    fieldMate (e.vdcCtx x) au = none →
    k = closeHalf x e s.store →
    g = vdcBegin x (isH264 e c) au k.1 →
    (∀ j, freeSlot g x = some j → exec (.vdcAccessUnit dt x au) s = .next (s.withBoth
      ((vdcDecode x c j au q none g k.2).1.putVdc x { (vdcDecode x c j au q none g k.2).1.vdcCtx x with wait := [], stallTold := false })
      (vdcDecode x c j au q none g k.2).2)) ∧
      (freeSlot g x = none → exec (.vdcAccessUnit dt x au) s = .next (s.withBlk
      (e.putVdc x { e.vdcCtx x with wait := [(au, q)], stalledAt := e.now })))) ∧
  -- vdcAccessUnitPassed: R216, R220, R222, R223
  (∀ (s : State) (dt x c : Nat) (au : AccessUnit) (q : Ready) (b d e g : Blk),
    b = s.blk.tick dt →
    feeder b false x = some c ∧ takeReady c (fedTo false x) b = some (q, d) ∧ vdcBound d x = true →
    e = vdcPace x c d →
    (e.vdcCtx x).wait = [] ∧ vdcCause e x c au = 0 →
    (e.rd F.VDC_STAT_STATE x = 3 ∧ (!auIrap (isH264 e c) au) = true) ∨ (e.rd F.VDC_STAT_STATE x = 1 ∧ (!e.on F.VDC_CTRL_START x) = true ∧ (!recovers (isH264 e c) (e.vdcCtx x) au) = true) ∨ (auRasl (isH264 e c) au && (e.vdcCtx x).noRasl) = true →
    (g = vdcCount x (isH264 e c) au (vdcErrors x au.nal (auClasses (isH264 e c) au ++ (if q.f.loss.isEmpty then [] else [1])) e)) →
    exec (.vdcAccessUnit dt x au) s = .next (s.withBlk (g.putVdc x { g.vdcCtx x with wait := [], stallTold := false }))) ∧
  -- vdcAccessUnitRefused: R207, R220
  (∀ (s : State) (dt x c n : Nat) (au : AccessUnit) (q : Ready) (b d e g : Blk),
    b = s.blk.tick dt →
    feeder b false x = some c ∧ takeReady c (fedTo false x) b = some (q, d) ∧ vdcBound d x = true →
    e = vdcPace x c d →
    (e.vdcCtx x).wait = [] ∧ vdcCause e x c au = n + 1 →
    e.rd F.VDC_STAT_STATE x ≠ 3 →
    (g = raise (vdcPage x) 0x104 sevWarning ((n + 1) % 2 ^ 17 + 2 ^ 17 * x) (evB 3) (((vdcErrors x au.nal
      (auClasses (isH264 e c) au ++ (if q.f.loss.isEmpty then [] else [1])) e).wr F.VDC_STAT_STATE x 3).wr F.VDC_STAT_CAUSE x (n + 1))) →
    exec (.vdcAccessUnit dt x au) s = .next (s.withBlk (g.putVdc x { g.vdcCtx x with wait := [], stallTold := false }))) ∧
  -- vdcAccessUnitQueued: R205, R212
  (∀ (s : State) (dt x c : Nat) (au : AccessUnit) (q : Ready) (w : AccessUnit × Ready) (l : List (AccessUnit × Ready)) (b d e : Blk),
    b = s.blk.tick dt →
    feeder b false x = some c ∧ takeReady c (fedTo false x) b = some (q, d) ∧ vdcBound d x = true →
    e = vdcPace x c d →
    (e.vdcCtx x).wait = w :: l →
    exec (.vdcAccessUnit dt x au) s = .next (s.withBlk (e.putVdc x { e.vdcCtx x with wait := w :: l ++ [(au, q)] }))) ∧
  -- vdcStall: R212
  (∀ (s : State) (dt x : Nat) (w : AccessUnit × Ready) (l : List (AccessUnit × Ready)) (b : Blk),
    b = s.blk.tick dt →
    (b.vdcCtx x).wait = w :: l ∧ (b.vdcCtx x).stallTold = false ∧ (b.vdcCtx x).stalledAt + 50000000 < b.now →
    exec (.vdcStall dt x) s = .next (s.withBlk (raise (vdcPage x) 0x106 sevWarning (0 % 2 ^ 17 + 2 ^ 17 * x) 0
      ((b.putVdc x { b.vdcCtx x with stallTold := true }).wr F.VDC_STAT_STALLED x 1)))) ∧
  -- vdcSlotFree: R212
  (∀ (s : State) (dt x c : Nat) (w : AccessUnit × Ready) (l : List (AccessUnit × Ready)) (b : Blk),
    b = s.blk.tick dt →
    (b.vdcCtx x).wait = w :: l ∧ feeder b false x = some c →
    (∀ r, vdcUnit x c w.1 w.2 b s.store = some r → exec (.vdcSlotFree dt x) s = .next (s.withBoth (vdcDrain x c l r.1.now r.1 r.2).1 (vdcDrain x c l r.1.now r.1 r.2).2)) ∧
      (vdcUnit x c w.1 w.2 b s.store = none → exec (.vdcSlotFree dt x) s = .next (s.withBlk
      (b.putVdc x { b.vdcCtx x with wait := w :: l, stalledAt := (b.vdcCtx x).stalledAt })))) ∧
  -- vdcPictureOutput: R213, R214, R225
  (∀ (s : State) (dt x c l : Nat) (p : Pic) (b d : Blk) (q : Blk × FrameStore) (r : Ready),
    b = s.blk.tick dt →
    nextOutput (b.vdcCtx x) = some p ∧ feeder b false x = some c ∧ p.recov = false ∧ l = b.rd F.VDC_CTRL_LAYER x →
    (d = ((b.putVdc x { b.vdcCtx x with pics := tidy ((b.vdcCtx x).pics.map fun q => if q.period = p.period ∧ q.poc = p.poc ∧ q.slot = p.slot then { q with waiting := false } else q), count := ((b.vdcCtx x).count + 1) % 2 ^ 32 }).wr
      F.VDC_FRAME_WH_W x p.frame.lay.w).wr F.VDC_FRAME_WH_H x p.frame.lay.h) →
    q = statEntries vdcStats 0x12 x [recordBytes ([d.now % 2 ^ 32, d.now / 2 ^ 32, (b.vdcCtx x).count] ++ p.stats.words p.frame.conceal.length)] d s.store →
    100 * p.frame.conceal.length ≤ q.1.rd F.ING_ASM_LOSS_MAX c * (cdiv p.frame.lay.w 64 * cdiv p.frame.lay.h 64) →
    r = { f := p.frame, kind := q.1.rd F.ING_CTRL_KIND c, dest := x, sampling := 2, depth := b2n (p.frame.lay.fmt == 9), num := q.1.rd F.ING_RATE_NUM c, den := q.1.rd F.ING_RATE_DEN c, tsmode := q.1.rd F.ING_CTRL_TSMODE c } →
    exec (.vdcPictureOutput dt x) s = .next (s.withBoth (announce b (setEvt (vdcPage x) (evB 0)
      ((decodedEligible c l 2 (if p.frame.lay.fmt = 9 then 10 else 8) r p.frame q.1 q.2).bump F.VDC_PICTURES_COUNT x)) q.2) q.2)) ∧
  -- vecRowReady: R230, R237
  (∀ (s : State) (dt x row flag : Nat) (lost : Bool) (p : VecPic) (b e : Blk),
    b = s.blk.tick dt →
    (((b.vecCtx x).pics.find? fun p => p.ready == row && Nat.blt row p.rows.length) = some p) →
    e = vecView b x p →
    ¬ (p.kind = 0 ∧ (!lineEntered b (e.rd F.VEC_SRC_STAGE x) p.f (rowLastLine e x row)) = true) →
    (flag = if lost || vecUnread e s.store x p row then 3 else if p.kind = 0 && tapMarked e x then 4 else 0) →
    exec (.vecRowReady dt x row lost) s = .next (s.withBlk { vecOn x (fun p => p.ready == row && Nat.blt row p.rows.length)
      (fun q => { q with ready := row + 1, rows := lset q.rows row { flag := flag, input := if flag = 0 then vecRowInput e s.store x p row else [] } }) b
      with vecReady := b.vecReady ++ [(x, row)] })) ∧
  -- vecRowCoded: R229, R230, R235
  (∀ (s : State) (dt x row : Nat) (r : VecRow) (p p1 p2 : VecPic) (b e : Blk) (k : Nat × Nat × Nat × Bool) (g : RowCode) (o : VecRowSt),
    b = s.blk.tick dt →
    (((b.vecCtx x).pics.find? fun p => p.coded == row && Nat.blt row p.ready) = some p ∧ b.vecReady.head? = some (x, row)) →
    e = vecView b x p →
    (p1 = if row = 0 then { p with bmax := hrdBits e x p.time } else p) →
    k = rowChoice e x row p1 (b.vecCtx x).prev r ∧ k.1 < 2 ∧ k.2.2.2 = false ∧ row + 1 ≠ p.rows.length →
    g = rowTaken r k.1 →
    o = { (p1.rows[row]?).getD {} with flag := k.1, bits := k.2.1, qp := k.2.2.1, coded := true, hatch := [], stat := [g.moved, g.intra, g.mv.1, g.mv.2], ctus := g.ctus } →
    p2 = { p1 with coded := row + 1, spent := p1.spent + k.2.1, rows := lset p1.rows row o } →
    exec (.vecRowCoded dt x row r) s = .next (s.withBlk
      (vecOn x (fun p => p.coded == row && Nat.blt row p.ready) (fun _ => p2) { b with vecReady := b.vecReady.drop 1 }))) ∧
  -- vecRowLast: R225, R235
  (∀ (s : State) (dt x row : Nat) (r : VecRow) (p p1 p2 : VecPic) (b e d : Blk) (k : Nat × Nat × Nat × Bool) (g : RowCode) (o : VecRowSt),
    b = s.blk.tick dt →
    (((b.vecCtx x).pics.find? fun p => p.coded == row && Nat.blt row p.ready) = some p ∧ b.vecReady.head? = some (x, row)) →
    e = vecView b x p →
    (p1 = if row = 0 then { p with bmax := hrdBits e x p.time } else p) →
    k = rowChoice e x row p1 (b.vecCtx x).prev r ∧ k.1 < 2 ∧ k.2.2.2 = false ∧ row + 1 = p.rows.length →
    g = rowTaken r k.1 →
    o = { (p1.rows[row]?).getD {} with flag := k.1, bits := k.2.1, qp := k.2.2.1, coded := true, hatch := [], stat := [g.moved, g.intra, g.mv.1, g.mv.2], ctus := g.ctus } →
    p2 = { p1 with coded := row + 1, spent := p1.spent + k.2.1, rows := lset p1.rows row o } →
    (d = vecOn x (fun p => p.coded == row && Nat.blt row p.ready) (fun _ => p2) { b with vecReady := b.vecReady.drop 1 }) →
    exec (.vecRowCoded dt x row r) s = .next (s.withBoth (vecComplete x p2 d s.store).1 (vecComplete x p2 d s.store).2)) ∧
  -- vecSliceOut: R230, R231
  (∀ (s : State) (dt x upto : Nat) (sets : List ParamSet) (nals : List (List Nat)) (p : VecPic) (rest : List VecPic) (b e : Blk),
    b = s.blk.tick dt →
    (b.vecCtx x).pics = p :: rest ∧ p.idr = false →
    e = vecView b x p →
    upto = Nat.min p.rows.length ((p.sent + 1) * e.rd F.VEC_CODEC_SLICE_ROWS x) ∧ upto ≤ p.coded ∧ upto < p.rows.length ∧ p.sent * e.rd F.VEC_CODEC_SLICE_ROWS x < p.rows.length →
    vecH264 e x = false ∧ b.rd F.VEC_OUT_DEST x % 2 = 0 →
    exec (.vecSliceOut dt x sets nals) s = .next (s.withBlk ((b.put F.VEC_STAT_SENDING x false).putVec x { b.vecCtx x with
      pics := { p with sent := p.sent + 1, au := p.au ++ annexB nals } :: rest }))) ∧
  -- vecSliceLast: R232
  (∀ (s : State) (dt x upto : Nat) (sets : List ParamSet) (nals : List (List Nat)) (p : VecPic) (rest : List VecPic) (b e d : Blk),
    b = s.blk.tick dt →
    (b.vecCtx x).pics = p :: rest ∧ p.idr = false ∧ p.filler = 0 →
    e = vecView b x p →
    upto = Nat.min p.rows.length ((p.sent + 1) * e.rd F.VEC_CODEC_SLICE_ROWS x) ∧ upto ≤ p.coded ∧ upto = p.rows.length ∧ p.sent * e.rd F.VEC_CODEC_SLICE_ROWS x < p.rows.length →
    vecH264 e x = false ∧ b.rd F.VEC_OUT_DEST x = 2 ∧ e.on F.VEC_CODEC_SEI_EN x = false →
    d = (b.put F.VEC_STAT_SENDING x false).putVec x { b.vecCtx x with pics := rest, sei := [] } →
    exec (.vecSliceOut dt x sets nals) s = .next (s.withBoth (recordUnit x p (p.au ++ annexB nals) d s.store).1 (recordUnit x p (p.au ++ annexB nals) d s.store).2))

/-- Cues that are due, curtain-up points, the frame on display, freshness maps, signatures and proscenium checks. For each
command of the stages, the next state it leaves: cues that are due, a curtain-up point with its steps in order, a late line, a
freshness map that is complete, signature arrays done and late, a proscenium check that matches, a corrupt block. -/
def Obligations.StageCommands : Prop :=
  -- cueTakenGroup: R59, R60, R61
  (∀ (s : State) (dt g : Nat) (q : Cue) (b : Blk) (r : Blk × Nat),
    b = s.blk.tick dt →
    mget b.ctl.groups g = some q ∧ q.point = 0 ∧ q.time + 10 ≤ b.now →
    r = runCue (groupSet (armGroup g none b) g q.mid false) (armGroup g none b) →
    exec (.cueTaken dt true g) s = .next (s.withBlk (((r.1.wr F.SYS_GCUE_LAST_GROUP 0 g).wr F.SYS_GCUE_LAST_REASON 0 r.2).put F.SYS_GCUE_LAST_REFUSED 0 (r.2 != 0)))) ∧
  -- cueTakenPage: R59, R60
  (∀ (s : State) (dt k : Nat) (p : Page) (q : Cue) (b : Blk),
    b = s.blk.tick dt →
    mget b.ctl.cues k = some q ∧ q.point = 0 ∧ q.time + 10 ≤ b.now →
    pageOfSlot k = some p →
    exec (.cueTaken dt false k) s = .next (s.withBlk (runCue { pages := [p], mid := q.mid, shared := false } (armPage p.slot none b)).1)) ∧
  -- curtainUp: R175
  (∀ (s : State) (dt st : Nat) (b : Blk) (r : Blk × FrameStore) (c : Blk),
    b = s.blk.tick dt →
    stageRuns b st = true →
    (r = if st = 0 then epochBoundary b s.store else (b, s.store)) →
    (c = takeCues (fun q => q.point == 1 && q.stage == st && leadMet r.1 q) r.1) →
    exec (.curtainUp dt st) s = .next (s.withBoth (announce b (if stageRuns c st then curtainRun st c else c) r.2) r.2)) ∧
  -- stageSteps: R175
  (∀ (st : Nat) (b : Blk),
    ∃ c, curtainSteps st b = setEvt (stgPage st) (evB 0) c ∧ (c.stage st).switchDue = true) ∧
  -- lineNotReady: R171, R178
  (∀ (s : State) (dt st k line slot : Nat) (p : Place) (b : Blk),
    b = s.blk.tick dt →
    ((b.stage st).scene.find? (·.1 == slot)) = some (k, p) →
    exec (.lineNotReady dt st slot line) s = .next (s.withBlk (raise (lfpPage p.pipe) 0x100 sevError (p.layer + 2 ^ 15 * p.pipe) 0
      (((b.putStage st { b.stage st with under := (b.stage st).under ++ [(slot, line)] }).bump F.STG_UNDERRUNS_COUNT st).bump F.LFP_UNDERRUNS_COUNT p.pipe)))) ∧
  -- mapComplete: R103, R104
  (∀ (s : State) (dt st : Nat) (b v : Blk),
    b = s.blk.tick dt →
    (b.stage st).shown ≠ [] →
    v = b.viewed st →
    exec (.mapComplete dt st) s = .next (s.withBlk (mapDone st (stageW v st) (stageH v st) (v.rd F.STG_FRAME_F st) (v.rd F.STG_CUP_TIME_TIME st)
      (onDisplay b st) (fun p tx ty => tileHurt v p tx ty) (proscCovers b s.store st) (scanTime (scanClock b st)) b))) ∧
  -- mapReports: R103
  (∀ (st w h f time : Nat) (ps : List (Nat × Place)) (deg : Place → Nat → Nat → Bool) (pro : Nat → Nat → Bool) (at_ : Nat → Nat → Nat) (b : Blk),
    st < 24 →
    ∃ m, mget (mapDone st w h f time ps deg pro at_ b).prm.maps (st * 2 + f % 2) = some m ∧ m.time = time ∧ m.frame = f ∧
      m.tiles = (List.range (cdiv w 64 * cdiv h 64)).map (fun t => mapTile ps deg pro at_ (t % cdiv w 64) (t / cdiv w 64)) ∧ m.crc = crc32 m.tiles ∧
      (mapDone st w h f time ps deg pro at_ b).rd F.PRM_MAP_FRAME_FRAME st = f % 2 ^ 32 ∧ (mapDone st w h f time ps deg pro at_ b).rd F.PRM_SSTAT_MAP_BUF st = f % 2) ∧
  -- signatureArrayDone: R193
  (∀ (s : State) (dt st base : Nat) (bytes : List Nat) (b v : Blk),
    b = s.blk.tick dt →
    (b.stage st).shown ≠ [] →
    v = b.viewed st →
    base = v.rd F.STG_SIGBASE_ADDR st + v.rd F.STG_FRAME_F st % 2 * 0x8000 →
    bytes = (stageSigs b s.store st).flatMap (leBytes 4) →
    fsGranted b 0x15 base true = true →
    exec (.signatureArrayDone dt st) s = .next (s.withBoth ((b.wr F.STG_SIGDIG_DIGEST st (crc32c bytes)).put F.STG_SIGDIG_LATE st ((b.stage st).sigLate == some (v.rd F.STG_FRAME_F st)))
      ((bytes.zipIdx).foldl (fun m e => if fsGranted b 0x15 (base + e.2) true && Nat.blt (base + e.2) (usable b) then m.setByte (base + e.2) e.1 else m) s.store))) ∧
  -- signatureArrayLate: R193
  (∀ (s : State) (dt st : Nat) (b : Blk),
    b = s.blk.tick dt →
    exec (.signatureArrayLate dt st) s = .next (s.withBlk (raise (stgPage st) 0x105 sevWarning
      (((b.viewed st).rd F.STG_FRAME_F st % 65536) % 2 ^ 17 + 2 ^ 17 * st) 0 ((b.putStage st { b.stage st with sigLate := some ((b.viewed st).rd F.STG_FRAME_F st) }).wr F.STG_SIGDIG_LATE st 1)))) ∧
  -- psCheckMatch: R195
  (∀ (s : State) (dt st k c : Nat) (b v : Blk) (alt : Bool),
    b = s.blk.tick dt →
    (b.stage st).shown ≠ [] ∧ v = b.viewed st →
    psDraws (shownContact b st) v st k = true ∧ v.rd F.STG_PS_CFG_CHECK st k = 1 →
    c = psCrc b s.store st k ∧ alt = trigShaky (shownContact b st) v st k →
    (v.rd (if alt then F.STG_PS_EXP1_CRC else F.STG_PS_EXP0_CRC) st k = c) →
    exec (.psCheck dt st k) s = .next (s.withBlk (if 2 ≤ mgetD (b.stage st).psLast k 0 then
      raise (stgPage st) 0x104 sevNotice (k % 2 ^ 17 + 2 ^ 17 * st) 0 (((((b.wr F.STG_PS_CRC_CRC st c k).put F.STG_PS_RES_ALT st alt k).putStage st
      { b.stage st with psLast := mset (b.stage st).psLast k 1 }).wr F.STG_PS_RES_RESULT st 1 k).wr F.STG_PS_RES_MISMATCHES st 0 k)
      else (((((b.wr F.STG_PS_CRC_CRC st c k).put F.STG_PS_RES_ALT st alt k).putStage st
      { b.stage st with psLast := mset (b.stage st).psLast k 1 }).wr F.STG_PS_RES_RESULT st 1 k).wr F.STG_PS_RES_MISMATCHES st 0 k)))) ∧
  -- corruptBlock: R154, R171
  (∀ (s : State) (dt pipe l : Nat) (b : Blk),
    b = s.blk.tick dt →
    exec (.corruptBlock dt pipe l) s = .next (s.withBlk (raise (lfpPage pipe) 0x103 sevWarning (l + 2 ^ 15 * pipe) 0 b)))

/-- Output heads: frame starts, the starved queue, hot-plug detect, AUX and EDID, resuming a link and packets of the ST
2110-20 output. For each command of the output heads, the next state it leaves: frame starts, a starved queue, hot-plug
samples and states, AUX replies and time-outs, an EDID read, a link resumed from a stored setting, and packets of the ST
2110-20 output; and which curtain shows. -/
def Obligations.HeadCommands : Prop :=
  -- headFrameBlank: R253
  (∀ (s : State) (dt h : Nat) (b c : Blk),
    b = s.blk.tick dt →
    headRuns b h = true ∧ (b.head h).pend ≠ [] →
    c = headChanged h b (({ b with regs := mput (b.head h).pend b.regs } : Blk).putHead h { b.head h with pend := [] }) →
    exec (.headFrameStart dt h true) s = .next (s.withBlk (c.putStage h { c.stage h with fetched := true }))) ∧
  -- headFrameLine0: R252, R263, R264, R246
  (∀ (s : State) (dt h : Nat) (b c d e : Blk),
    b = s.blk.tick dt →
    headRuns b h = true →
    c = genlockFrame h (judgeFrame h b) →
    d = txReport h (c.putHead h { c.head h with frameAt := c.now, txNext := 0 }) →
    (e = if stageRuns d h then switchFrame h d else stopFrame h d) →
    exec (.headFrameStart dt h false) s = .next (s.withBlk (signalStreams h (setCurtain h (curtainWhy e h) e)))) ∧
  -- headFrameOff: R253
  (∀ (s : State) (dt h : Nat) (blank : Bool) (b : Blk),
    b = s.blk.tick dt →
    headRuns b h = false →
    exec (.headFrameStart dt h blank) s = .next (s.withBlk b)) ∧
  -- curtainChoice: R263
  (∀ (b : Blk) (h : Nat),
    (b.on F.OHD_CURT_FORCE_SAFE h = true → curtainWhy b h = 5) ∧
      (b.on F.OHD_CURT_FORCE_SAFE h = false → b.on F.OHD_CURT_FORCE_OPS h = true → curtainWhy b h = 4) ∧
      (b.on F.OHD_CURT_FORCE_SAFE h = false → b.on F.OHD_CURT_FORCE_OPS h = false → b.rd F.SYS_ROLE_ROLE 0 = 4 → curtainWhy b h = 3) ∧
      (b.on F.OHD_CURT_FORCE_SAFE h = false → b.on F.OHD_CURT_FORCE_OPS h = false → b.rd F.SYS_ROLE_ROLE 0 ≠ 4 → (b.head h).starved = true →
      curtainWhy b h = 2) ∧
      (b.on F.OHD_CURT_FORCE_SAFE h = false → b.on F.OHD_CURT_FORCE_OPS h = false → b.rd F.SYS_ROLE_ROLE 0 ≠ 4 → (b.head h).starved = false →
      curtainWhy b h = if stageRuns b h = true ∧ (b.stage h).shown ≠ [] then 0 else 1)) ∧
  -- headQueueStarved: R179, R263
  (∀ (s : State) (dt st line : Nat) (b c : Blk),
    b = s.blk.tick dt →
    headRuns b st = true ∧ stageRuns b st = true ∧ (b.stage st).shown ≠ [] ∧ (b.stage st).starved = false →
    c = stgEvent st 0x100 sevError line (evB 3) (b.putStage st { b.stage st with starved := true }) →
    exec (.headQueueStarved dt st line) s = .next (s.withBlk (setCurtain st (Nat.max 2 (c.rd F.OHD_STAT_CURT_REASON st))
      (c.putHead st { c.head st with starved := true, good := 0 })))) ∧
  -- hpdSample: R196, R199, R255
  (∀ (s : State) (dt levels : Nat) (b : Blk),
    b = s.blk.tick dt →
    exec (.hpdSample dt levels) s = .next (s.withBlk (forEach (List.range 24) (hpdSampleOne levels) b))) ∧
  -- hpdPulse: R255
  (∀ (b : Blk) (levels h t : Nat),
    b.rd F.OHD_STAT_HPD h ≠ 5 →
    (b.head h).lowAt = some t ∧ (b.head h).hpd.level = false ∧ bit levels h = true →
    t + 250000 ≤ b.now ∧ b.now < t + 100000 * b.rd F.OHD_HPD_CFG_DEBOUNCE h →
    ((hpdSampleOne levels h b).head h).irq = true ∧ ((hpdSampleOne levels h b).head h).lowAt = none) ∧
  -- hpdStateChange: R256, R271
  (∀ (s : State) (dt h st : Nat) (k : Contact) (b c : Blk),
    b = s.blk.tick dt →
    hpdNext b h = some (st, k) →
    c = (b.putHead h { b.head h with hpd := k, irq := (b.head h).irq && st != ctInactive }).wr F.OHD_STAT_HPD h st →
    (b.rd F.OHD_STAT_HPD h = 4 → exec (.hpdStateChange dt h) s =
      .next (s.withBlk (hpdAct h st (ohdEvent h 0x104 sevNotice st (evB 0) c)))) ∧
      (b.rd F.OHD_STAT_HPD h ≠ 4 → st = b.rd F.OHD_STAT_HPD h → exec (.hpdStateChange dt h) s = .next (s.withBlk c)) ∧
      (b.rd F.OHD_STAT_HPD h ≠ 4 → st ≠ b.rd F.OHD_STAT_HPD h → exec (.hpdStateChange dt h) s = .next (s.withBlk (
      if st = 1 then hpdAct h st (ohdEvent h 0x100 sevNotice 0 (evB 0) c) else if st = 2 then hpdAct h st (ohdEvent h 0x102 sevNotice 0 (evB 0) c)
      else if st = 4 then ohdEvent h 0x103 sevWarning 0 (evB 0) c else hpdAct h st (ohdEvent h 0x101 sevWarning 0 (evB 0) c))))) ∧
  -- irqHpdLost: R256
  (∀ (s : State) (dt h lost : Nat) (status : List Nat) (b c d : Blk),
    b = s.blk.tick dt →
    (b.head h).irq = true ∧ auxUsable b h = true ∧ b.rd F.OHD_STAT_LINK h = 3 →
    c = (b.putHead h { b.head h with irq := false }).emit (.aux h false 0x200 false (List.replicate 8 0)) →
    lost = lanesLost (linkLanes c h) (status.drop 2) ∧ lost ≠ 0 →
    d = ohdEvent h 0x107 sevWarning (lost % 16) (evB 1) c →
    exec (.irqHpd dt h status) s = .next (s.withBlk (trainBegin h ((unitDown (headUnit h) 2 d).wr F.OHD_STAT_RATE_ACT h 0)))) ∧
  -- irqHpdIgnored: R256
  (∀ (s : State) (dt h : Nat) (status : List Nat) (b : Blk),
    b = s.blk.tick dt →
    (b.head h).irq = true ∧ b.rd F.OHD_STAT_HPD h = 4 →
    exec (.irqHpd dt h status) s = .next (s.withBlk (b.putHead h { b.head h with irq := false }))) ∧
  -- auxAcked: R257, R259
  (∀ (s : State) (dt h addr : Nat) (i2c write : Bool) (bytes : List Nat) (q : AuxReq) (b c : Blk),
    b = s.blk.tick dt →
    auxUsable b h = true ∧ auxAllowed i2c addr bytes.length write = true →
    (b.head h).aux = some q ∧ q.addr = addr ∧ q.write = write ∧ q.i2c = i2c →
    c = b.putHead h { b.head h with aux := none } →
    (write = true → exec (.auxTransaction dt h i2c addr write bytes 0) s = .next (s.withBlk (auxFollow h i2c addr bytes.length write c))) ∧
      (write = false → i2c = false → exec (.auxTransaction dt h i2c addr write bytes 0) s =
      .next (s.withBlk (auxFollow h i2c addr bytes.length write (dpcdPut h addr bytes c)))) ∧
      (write = false → i2c = true → exec (.auxTransaction dt h i2c addr write bytes 0) s =
      .next (s.withBlk (auxFollow h i2c addr bytes.length write (c.putHead h { c.head h with
      ddcAt := (c.head h).ddcAt + bytes.length, ddc := (c.head h).ddc ++ bytes.map (· % 256) }))))) ∧
  -- auxFollows: R256, R257
  (∀ (h n : Nat) (b : Blk),
    (mget (b.head h).dpcd 0x2215 = none → auxFollow h false 0 n false b = auxSend h false 0x2200 false (List.replicate 16 0) 0 b ∧
      auxFollow h false 0x2200 n false b = auxSend h false 0x2215 false [0] 0 b) ∧
      auxFollow h false 0x2215 n false b = auxSend h false 0x21 false [0] 0 b ∧
      (b.on F.OHD_CTRL_MST h = false → auxFollow h false 0x21 n false b = auxSend h true 0x50 true [0] 0 b) ∧
      auxFollow h true 0x50 n true b = ddcNext h b) ∧
  -- auxRetried: R257
  (∀ (s : State) (dt h addr : Nat) (i2c write : Bool) (bytes : List Nat) (q : AuxReq) (b : Blk),
    b = s.blk.tick dt →
    auxUsable b h = true ∧ auxAllowed i2c addr bytes.length write = true →
    (b.head h).aux = some q ∧ q.addr = addr ∧ q.write = write ∧ q.i2c = i2c →
    (q.tries < 7 → exec (.auxTransaction dt h i2c addr write bytes 1) s = .next (s.withBlk (auxSend h i2c addr write q.bytes (q.tries + 1) b))) ∧
      (7 ≤ q.tries → exec (.auxTransaction dt h i2c addr write bytes 1) s = .next (s.withBlk (auxFailed h b)))) ∧
  -- auxTimeout: R257
  (∀ (s : State) (dt h : Nat) (q : AuxReq) (b : Blk),
    b = s.blk.tick dt →
    (b.head h).aux = some q →
    (b.now < q.at_ + 400000 → exec (.auxTimeout dt h) s = .next (s.withBlk b)) ∧
      (q.at_ + 400000 ≤ b.now → q.tries < 7 → exec (.auxTimeout dt h) s = .next (s.withBlk (auxSend h q.i2c q.addr q.write q.bytes (q.tries + 1) b))) ∧
      (q.at_ + 400000 ≤ b.now → 7 ≤ q.tries → exec (.auxTimeout dt h) s = .next (s.withBlk (auxFailed h b)))) ∧
  -- auxSilent: R257, R260
  (∀ (h addr tries : Nat) (i2c write : Bool) (bytes : List Nat) (b : Blk),
    b.driving = false →
    auxSend h i2c addr write bytes tries b = b.putHead h { b.head h with aux := none }) ∧
  -- edidRead: R259
  (∀ (s : State) (dt h n : Nat) (remote raw : List Nat) (l good : List (List Nat)) (pref : Option Mode) (b : Blk),
    b = s.blk.tick dt →
    auxUsable b h = true ∧ hpdAsserted b h = true →
    (raw = if b.on F.OHD_CTRL_MST h then remote else (b.head h).ddc) →
    n = Nat.min (edidLength raw / 128) (cdiv raw.length 128) →
    (l = (List.range n).map fun k => (List.range 128).map fun i => raw.getD (128 * k + i) 0) →
    (good = if edidSumOk (l.headD []) then l.filter edidSumOk else []) →
    (pref = if good.isEmpty then none else preferred good) →
    ∃ c, exec (.edidRead dt h remote) s = .next (s.withBlk c) ∧
      (pref = none → c.rd F.OHD_PREF0_PCLK h = 0 ∧ c.rd F.OHD_PREF0_RATE h = 0 ∧ c.rd F.OHD_PREF1_PCLK h = 0 ∧ c.rd F.OHD_PREF1_RATE h = 0) ∧
      (∀ t, pref = some t → c.rd F.OHD_PREF0_PCLK h = t.ha % 2 ^ 16 ∧ c.rd F.OHD_PREF0_RATE h = t.va % 2 ^ 16 ∧
      c.rd F.OHD_PREF1_PCLK h = rdiv t.khz 100 % 2 ^ 16 ∧
      c.rd F.OHD_PREF1_RATE h = (if t.ht * t.vt = 0 then 0 else rdiv (t.khz * 100000) (t.ht * t.vt)) % 2 ^ 16)) ∧
  -- headResumeStored: R261, R262
  (∀ (s : State) (dt h r n mst n0 id0 n1 id1 : Nat) (drive : List Nat) (b c d : Blk),
    b = s.blk.tick dt →
    unitEnabled b (headUnit h) = true ∧ hpdAsserted b h = true ∧ b.rd F.OHD_STAT_LINK h ≠ 3 ∧ (b.head h).try_ = none →
    (b.head h).link = some (r :: n :: mst :: n0 :: id0 :: n1 :: id1 :: drive) ∧ mst = b.rd F.OHD_CTRL_MST h →
    (c = if (b.unit (headUnit h)).state = stOff then unitStart (headUnit h) b else b) →
    d = c.putHead h { c.head h with
      checkAt := some (c.now + 1000000), checking := false,
      sinks := List.replicate (b2n (id0 != 0) + b2n (id1 != 0)) [] } →
    exec (.headResume dt h) s = .next (s.withBlk (linkOn h r drive ((d.wr F.OHD_STAT_SINKS h (d.head h).sinks.length).wr F.OHD_STAT_CHECK h 0)))) ∧
  -- txPacketSent: R267, R268
  (∀ (s : State) (dt h n p : Nat) (b c : Blk) (pay : Nat × Nat × List Nat),
    b = s.blk.tick dt →
    b.on F.OHD_TX_CFG_EN h = true ∧ headRuns b h = true ∧ ownOut b = true ∧ b.on F.OHD_TX_CFG_DUP_EN h = false →
    n = (b.head h).txNext ∧ n < txPackets b h ∧ p = b.rd F.OHD_TX_CFG_NIF h →
    c = b.putHead h { b.head h with txNext := n + 1, txSeq := ((b.head h).txSeq + 1) % 2 ^ 32 } →
    pay = txPayload c s.store h n ∧ linkUp c p = true →
    exec (.txPacket dt h false) s = .next (s.withBlk (c.emit (.net p 6 ([c.rd F.OHD_TX_CFG_FAMILY h, c.rd F.OHD_TX_ADDR_ADDR h, c.rd F.OHD_TX_PORT_UDP h, c.rd F.OHD_TX_CFG_PT h,
      b2n (n + 1 == txPackets c h), (b.head h).txSeq,
      (if (!(c.stage h).shown.isEmpty) = true then (c.viewed h).rd F.STG_CUP_TIME_TIME h else (b.head h).frameAt) * 9 / 100000 % 2 ^ 32,
      pay.1, pay.2.1] ++ pay.2.2))))) ∧
  -- txPacketLost: R268
  (∀ (s : State) (dt h n : Nat) (b c : Blk),
    b = s.blk.tick dt →
    b.on F.OHD_TX_CFG_EN h = true ∧ headRuns b h = true ∧ ownOut b = true ∧ b.on F.OHD_TX_CFG_DUP_EN h = false →
    n = (b.head h).txNext ∧ n < txPackets b h →
    c = b.putHead h { b.head h with txNext := n + 1, txSeq := ((b.head h).txSeq + 1) % 2 ^ 32 } →
    exec (.txPacket dt h true) s = .next (s.withBlk (txReport h ((c.bump F.OHD_TX_LOST_COUNT h).putHead h { c.head h with
      txDrops := match (c.head h).txDrops with | some (t, k) => some (t, k + 1) | none => some (c.now, 1) }))))

/-- Lane units: probes, time-outs and back-off, training frames and taps, locks, losses, and the training and checks of
display links. For each command of lane bring-up, the next state it leaves: probes, step time-outs, back-off and its end,
training frames valid and not, taps, locks, losses, and the training and checks of display links; and what a failure leaves. -/
def Obligations.BringUpCommands : Prop :=
  -- detectProbe: R302
  (∀ (s : State) (dt u : Nat) (sensed : Bool) (b : Blk),
    b = s.blk.tick dt →
    (b.unit u).state = 1 ∧ unitKind u ≠ 1 →
    (sensed = false → exec (.detectProbe dt u sensed) s = .next (s.withBlk (b.putUnit u { b.unit u with probeAt := none }))) ∧
      (sensed = true → (b.unit u).probeAt = none →
      exec (.detectProbe dt u sensed) s = .next (s.withBlk (b.putUnit u { b.unit u with probeAt := some b.now }))) ∧
      (∀ t, sensed = true → (b.unit u).probeAt = some t → b.now < t + 100000 → exec (.detectProbe dt u sensed) s = .next (s.withBlk b)) ∧
      (∀ t, sensed = true → (b.unit u).probeAt = some t → t + 100000 ≤ b.now → exec (.detectProbe dt u sensed) s =
      .next (s.withBlk (if unitKind u = 0 ∧ b.on F.NIF_CFG_AN_EN u = true then unitStep u 5 b else enterTrain u b)))) ∧
  -- stepTimes: R302
  (∀ (b : Blk) (u : Nat),
    unitKind u ≠ 1 →
    ((b.unit u).state = 1 → stepFailure b u = if (b.unit u).since + 1000000 ≤ b.now then some (1, 1) else none) ∧
      ((b.unit u).state = 4 → stepFailure b u = if (b.unit u).since + 10000000 ≤ b.now then some (4, 1) else none) ∧
      ((b.unit u).state = 5 → ¬ (unitKind u = 2 ∧ b.rd F.CHN_STAT_REFUSED (u - 40) = 1) →
      stepFailure b u = if (b.unit u).since + 50000000 ≤ b.now then some (5, 1) else none) ∧
      ((b.unit u).state = 0 ∨ (b.unit u).state = 6 ∨ (b.unit u).state = 7 → stepFailure b u = none)) ∧
  -- bringupTimeout: R302
  (∀ (s : State) (dt u : Nat) (b : Blk),
    b = s.blk.tick dt →
    (∀ st c, stepFailure b u = some (st, c) → exec (.bringupTimeout dt u) s = .next (s.withBlk (unitFail u st c b))) ∧
      (stepFailure b u = none → exec (.bringupTimeout dt u) s = .next (s.withBlk b))) ∧
  -- failureBacksOff: R303
  (∀ (u st c : Nat) (b : Blk),
    ((unitFail u st c b).unit u).fails = (b.unit u).fails + 1 ∧ ((unitFail u st c b).unit u).state = 7 ∧
      ((unitFail u st c b).unit u).till = b.now + Nat.min 64 (2 ^ Nat.min 6 (b.unit u).fails) * 1000000) ∧
  -- backoffExpiry: R303
  (∀ (s : State) (dt u : Nat) (b : Blk),
    b = s.blk.tick dt →
    (b.unit u).state = 7 ∧ (b.unit u).till ≤ b.now →
    exec (.backoffExpiry dt u) s = .next (s.withBlk (if unitKind u = 1 then (enterDetect u b).wr F.OHD_STAT_LINK (u - 16) 2 else enterDetect u b))) ∧
  -- trainingFrame: R304, R307, R309
  (∀ (s : State) (dt l u bad control status : Nat) (inverted trained : Bool) (b c : Blk),
    b = s.blk.tick dt →
    unitOfLane b l = some u ∧ unitKind u = 2 ∧ (b.unit u).state = 2 →
    (bad ≤ 2 ∧ (inverted = true → laneCfg b l 0 = 1)) →
    c = tapRequest l control ((b.wr F.LANE_STAT_SIGNAL l 1).put F.LANE_STAT_RX_INV l inverted) →
    exec (.trainingFrame dt l bad inverted control status trained) s = .next (s.withBlk ((c.putLane l { c.lane l with
      frameAt := c.now,
      ready := if (bit status 4 && trained) = true then (c.lane l).ready + 1 else 0,
      readyAt := if (if (bit status 4 && trained) = true then (c.lane l).ready + 1 else 0) = 16 then c.now else (c.lane l).readyAt }).emit
      (.training l 0 ((c.lane l).ansPre + 4 * (c.lane l).ansPost + 16 * b2n trained))))) ∧
  -- trainingFrameInvalid: R304
  (∀ (s : State) (dt l u bad control status : Nat) (inverted trained : Bool) (b : Blk),
    b = s.blk.tick dt →
    unitOfLane b l = some u →
    2 < bad ∨ (inverted = true ∧ laneCfg b l 0 ≠ 1) →
    exec (.trainingFrame dt l bad inverted control status trained) s = .next (s.withBlk b)) ∧
  -- tapMoves: R308
  (∀ (v top : Nat),
    (v < top → tapMove 1 v top = (v + 1, 1)) ∧ (top ≤ v → tapMove 1 v top = (v, 3)) ∧ (0 < v → tapMove 2 v top = (v - 1, 1)) ∧
      (v = 0 → tapMove 2 v top = (v, 2)) ∧ tapMove 0 v top = (v, 0) ∧ tapMove 3 v top = (v, 0)) ∧
  -- trainingComplete: R309, R302
  (∀ (s : State) (dt l u : Nat) (b c : Blk),
    b = s.blk.tick dt →
    unitOfLane b l = some u ∧ unitKind u = 2 ∧ (b.unit u).state = 2 →
    (b.lane l).done = false ∧ 16 ≤ (b.lane l).ready ∧ (b.lane l).readyAt + 19738 ≤ b.now →
    c = b.putLane l { b.lane l with done := true, tx := {} } →
    exec (.trainingComplete dt l) s = .next (s.withBlk (if (c.unit u).lanes.all (fun k => (c.lane k).done) = true then unitStep u 3 c else c))) ∧
  -- bitLock: R302
  (∀ (s : State) (dt u : Nat) (b : Blk),
    b = s.blk.tick dt →
    unitKind u ≠ 1 ∧ (b.unit u).state = 3 →
    exec (.bitLock dt u) s = .next (s.withBlk (unitStep u 4 b))) ∧
  -- blockLock: R302, R313, R314
  (∀ (s : State) (dt u skew delay : Nat) (hunts : List LaneHunt) (b c : Blk),
    b = s.blk.tick dt →
    (b.unit u).state = 4 ∧ unitKind u = 2 →
    c = huntLanes (b.unit u).lanes hunts b →
    (lanesLocked c (b.unit u).lanes = false → exec (.blockLock dt u skew delay hunts) s = .next (s.withBlk c)) ∧
      (lanesLocked c (b.unit u).lanes = true → 1800 < skew → exec (.blockLock dt u skew delay hunts) s = .next (s.withBlk (unitFail u 4 4 c))) ∧
      (lanesLocked c (b.unit u).lanes = true → skew ≤ 1800 → ∃ d, d = (c.unit u).lanes.foldl (fun x l => x.wr F.LANE_STAT_LOGICAL l (x.lane l).line.logical)
      ((c.wr F.CHN_STAT_SKEW (u - 40) skew).wr F.CHN_LAT_RX (u - 40) (960 + delay)) ∧
      exec (.blockLock dt u skew delay hunts) s =
      .next (s.withBlk (unitStep u 5 (d.putCport (u - 40) { d.cport (u - 40) with accepted := false, told := [], frame := none, group := none }))))) ∧
  -- blockLockNetwork: R302
  (∀ (s : State) (dt u skew delay : Nat) (hunts : List LaneHunt) (b : Blk),
    b = s.blk.tick dt →
    (b.unit u).state = 4 ∧ unitKind u = 0 ∧ skew ≤ 1800 →
    exec (.blockLock dt u skew delay hunts) s = .next (s.withBlk (unitActive u b))) ∧
  -- signalLossActive: R305, R306
  (∀ (s : State) (dt l u : Nat) (obs : List LineObs) (b c : Blk),
    b = s.blk.tick dt →
    unitOfLane b l = some u ∧ (b.unit u).state = 6 →
    c = b.wr F.LANE_STAT_SIGNAL l 0 →
    exec (.signalLoss dt l 1 obs) s = .next (s.withBlk (unitDown u (if unitKind u = 2 ∧ c.on F.CHN_STAT_PEER_EJECTING (u - 40) = true then 5 else 1) c)) ∧
      (departing c = false → ∀ q, unitDown u q c = enterDetect u (leaveActive u q c))) ∧
  -- lockLossActive: R305, R313
  (∀ (s : State) (dt l u : Nat) (obs : List LineObs) (b c : Blk),
    b = s.blk.tick dt →
    unitOfLane b l = some u ∧ (b.unit u).state = 6 ∧ unitKind u = 2 →
    c = b.putLane l { b.lane l with line := lineRun (b.lane l).line obs } →
    exec (.signalLoss dt l 2 obs) s = .next (s.withBlk (if lockLost u l c then unitDown u 2 c else c))) ∧
  -- signalLossInBit: R302
  (∀ (s : State) (dt l u : Nat) (obs : List LineObs) (b c : Blk),
    b = s.blk.tick dt →
    unitOfLane b l = some u ∧ (b.unit u).state = 3 ∧ (b.unit u).lostAt = none →
    c = b.wr F.LANE_STAT_SIGNAL l 0 →
    exec (.signalLoss dt l 1 obs) s = .next (s.withBlk (c.putUnit u { c.unit u with lostAt := some c.now }))) ∧
  -- activeHold: R303
  (∀ (s : State) (dt u : Nat) (b : Blk),
    b = s.blk.tick dt →
    (b.unit u).state = 6 ∧ (b.unit u).since + 1000000000 ≤ b.now →
    exec (.activeHold dt u) s = .next (s.withBlk (b.putUnit u { b.unit u with fails := 0 }))) ∧
  -- linkTrainingDone: R258, R261
  (∀ (s : State) (dt h r : Nat) (topo : List (List (Nat × Nat × Nat))) (drive : List Nat) (b : Blk),
    b = s.blk.tick dt →
    unitEnabled b (headUnit h) = true ∧ (b.head h).try_ = some r →
    exec (.linkTraining dt h 1 topo drive) s = .next (s.withBlk (headOutcome h b (trainOk h r topo drive b))) ∧
      exec (.linkTraining dt h 2 topo drive) s = .next (s.withBlk (headOutcome h b (trainBad h r b)))) ∧
  -- trainingRates: R258, R262
  (∀ (h r q : Nat) (t : List Nat) (b c : Blk),
    c = b.putHead h { b.head h with try_ := none } →
    (b.head h).checking = false ∧ auxUsable c h = true →
    ((ratesToTry c h).filter (fun k => Nat.blt k r) = q :: t → trainBad h r b = tryRate h q c) ∧
      ((ratesToTry c h).filter (fun k => Nat.blt k r) = [] → trainBad h r b = ohdEvent h 0x106 sevWarning 0 (evB 1)
      (unitFail (headUnit h) 2 1 ((c.wr F.OHD_STAT_LINK h 4).wr F.OHD_STAT_RATE_ACT h 0)))) ∧
  -- trainingAttemptTimeout: R258
  (∀ (s : State) (dt h r : Nat) (b : Blk),
    b = s.blk.tick dt →
    (b.head h).try_ = some r ∧ (b.head h).tryAt + 100000000 ≤ b.now →
    exec (.trainingAttemptTimeout dt h) s = .next (s.withBlk (headOutcome h b (trainBad h r b)))) ∧
  -- linkCheckPassed: R262, R359
  (∀ (s : State) (dt h t : Nat) (status : List Nat) (b c : Blk),
    b = s.blk.tick dt →
    (b.head h).checkAt = some t ∧ t ≤ b.now →
    c = b.emit (.aux h false 0x202 false [0, 0, 0]) →
    statusGood (linkLanes c h) status = true →
    exec (.linkCheck dt h status) s = .next (s.withBlk (headOutcome h b (checkResult h 1 c)))) ∧
  -- linkCheckFailed: R262
  (∀ (s : State) (dt h t q : Nat) (l status : List Nat) (b c : Blk),
    b = s.blk.tick dt →
    (b.head h).checkAt = some t ∧ t ≤ b.now →
    c = (b.emit (.aux h false 0x202 false [0, 0, 0])).putHead h { b.head h with checkAt := none, checking := true } →
    statusGood (linkLanes (b.emit (.aux h false 0x202 false [0, 0, 0])) h) status = false →
    ratesToTry c h = q :: l →
    exec (.linkCheck dt h status) s = .next (s.withBlk (headOutcome h b (tryRate h q (leaveActive (headUnit h) 2 c)))))

/-- Chaino frames, capability frames and departures, eye scans, quick scans and hourly symbol counts, and frames relayed on
the ring. For each command of the Chaino ports and of margins, the next state it leaves: capability frames sent, corrupt,
refused and accepted, goodbyes, the codewords of frames and express groups and what becomes of a frame or group that ends, eye
points, quick scans, hourly counts, and relayed pixels and evidence. -/
def Obligations.ChainoAndMarginCommands : Prop :=
  -- capFrameSend: R319, R320, R315
  (∀ (s : State) (dt p gap : Nat) (b c : Blk),
    b = s.blk.tick dt →
    (b.unit (chnUnit p)).state = 5 ∨ (b.unit (chnUnit p)).state = 6 →
    (gap = if (b.unit (chnUnit p)).state = 5 then 10000 else b.rd F.CHN_CFG_CAP_PERIOD p * 100000) →
    c = chnReport p b →
    (c.cport p).capAt = 0 ∨ (c.cport p).capAt + gap ≤ c.now →
    exec (.capFrameSend dt p) s = .next (s.withBlk (chnSend p 0 (capWords c p)
      (((capWords c p).zipIdx.foldl (fun x e => x.wr F.CHN_OWN_WORD p e.1 e.2) c).putCport p
      { ((capWords c p).zipIdx.foldl (fun x e => x.wr F.CHN_OWN_WORD p e.1 e.2) c).cport p with
      capAt := ((capWords c p).zipIdx.foldl (fun x e => x.wr F.CHN_OWN_WORD p e.1 e.2) c).now })))) ∧
  -- frameSent: R315
  (∀ (p c : Nat) (words : List Nat) (b : Blk),
    ∃ d, chnSend p c words b = sendBlocks p (frameBlocks c (mgetD (b.cport p).seq c 0) (wordBlocks words)) d ∧
      d.out = b.out ++ [.chaino p c words] ∧
      d.rd F.CHN_FRAMES_TX_COUNT p = satAdd (b.rd F.CHN_FRAMES_TX_COUNT p) 1 (2 ^ 32 - 1) % 2 ^ 32 ∧
      mget (d.cport p).seq c = some ((mgetD (b.cport p).seq c 0 + 1) % 65536)) ∧
  -- capFrameCorrupt: R316
  (∀ (s : State) (dt p : Nat) (w : List Nat) (b : Blk),
    b = s.blk.tick dt →
    (b.unit (chnUnit p)).state = 5 ∨ (b.unit (chnUnit p)).state = 6 →
    w.length ≠ 16 ∨ w.getD 15 0 ≠ crc32c ((w.take 15).flatMap (leBytes 4)) →
    exec (.capabilityFrame dt p w) s = .next (s.withBlk (chnDiscard p 1 b))) ∧
  -- capFrameRefused: R321
  (∀ (s : State) (dt p why : Nat) (w : List Nat) (b c : Blk),
    b = s.blk.tick dt →
    (b.unit (chnUnit p)).state = 5 →
    w.length = 16 ∧ w.getD 15 0 = crc32c ((w.take 15).flatMap (leBytes 4)) →
    why = capCause (b.bump F.CHN_FRAMES_RX_COUNT p) p w ∧ why ≠ 0 →
    c = ((b.bump F.CHN_FRAMES_RX_COUNT p).wr F.CHN_STAT_REFUSED p 1).wr F.CHN_STAT_CAUSE p why →
    exec (.capabilityFrame dt p w) s = .next (s.withBlk (if (c.cport p).told.contains why = true then c else
      raise (chnPage p) 0x102 sevWarning (why % 2 ^ 20 + 2 ^ 20 * p) (evB 2) (c.putCport p { c.cport p with told := why :: (c.cport p).told })))) ∧
  -- capFrameAccepted: R320, R321
  (∀ (s : State) (dt p : Nat) (w : List Nat) (b c d : Blk),
    b = s.blk.tick dt →
    (b.unit (chnUnit p)).state = 5 →
    w.length = 16 ∧ w.getD 15 0 = crc32c ((w.take 15).flatMap (leBytes 4)) →
    capCause (b.bump F.CHN_FRAMES_RX_COUNT p) p w = 0 →
    c = capKeep p w (((b.bump F.CHN_FRAMES_RX_COUNT p).wr F.CHN_STAT_REFUSED p 0).wr F.CHN_STAT_CAUSE p 0) →
    d = c.putCport p { c.cport p with accepted := true } →
    exec (.capabilityFrame dt p w) s = .next (s.withBlk (
      if (bit (w.getD 7 0) 8 && w.getD 8 0 == d.rd F.SYS_SERIAL_LO_SERIAL 0 && w.getD 9 0 == d.rd F.SYS_SERIAL_HI_SERIAL 0) = true then
      raise (chnPage p) 0x100 sevNotice (bits (w.getD 4 0) 0 2 % 2 ^ 20 + 2 ^ 20 * p) (evB 0)
      ((unitActive (chnUnit p) d).wr F.CHN_STAT_PEER_EJECTING p 0)
      else d))) ∧
  -- capFrameActive: R320
  (∀ (s : State) (dt p : Nat) (w : List Nat) (b c : Blk),
    b = s.blk.tick dt →
    (b.unit (chnUnit p)).state = 6 →
    w.length = 16 ∧ w.getD 15 0 = crc32c ((w.take 15).flatMap (leBytes 4)) →
    c = b.bump F.CHN_FRAMES_RX_COUNT p →
    exec (.capabilityFrame dt p w) s = .next (s.withBlk (
      if capIdentity ((List.range 16).map fun k => c.rd F.CHN_PEER_WORD p k) = capIdentity w then capKeep p w c else unitDown (chnUnit p) 7 c))) ∧
  -- goodbyeRx: R306, R353
  (∀ (s : State) (dt p : Nat) (b : Blk),
    b = s.blk.tick dt →
    chnUp b p = true →
    exec (.goodbyeRx dt p) s = .next (s.withBlk (afterGoodbye b (raise (chnPage p) 0x104 sevNotice (2 ^ 20 * p) (evB 3)
      ((b.wr F.CHN_STAT_PEER_EJECTING p 1).bump F.CHN_EXPRESS_RX_COUNT p))))) ∧
  -- chainoFrameRx: R310, R311, R314
  (∀ (s : State) (dt p : Nat) (cws : List (List (List Nat))) (b d : Blk),
    b = s.blk.tick dt →
    d = chnReport p b →
    (¬ ((d.unit (chnUnit p)).state = 5 ∨ (d.unit (chnUnit p)).state = 6) → exec (.chainoFrameRx dt p cws) s = .next (s.withBlk d)) ∧
      ((d.unit (chnUnit p)).state = 5 ∨ (d.unit (chnUnit p)).state = 6 → exec (.chainoFrameRx dt p cws) s =
      .next (s.withBlk (takeRows p (((laneCodewords p cws d).lane (logicalLane (laneCodewords p cws d) p 0)).line.queue.length)
      (laneCodewords p cws d))))) ∧
  -- frameEnded: R315, R316, R317
  (∀ (p v : Nat) (marked : Bool) (f : RxUnit) (b d : Blk),
    v % 256 = 0x87 ∧ (b.cport p).group = none ∧ (b.cport p).frame = some f →
    d = b.putCport p { b.cport p with frame := none } →
    (f.bad = true ∨ marked = true → controlBlock p v marked b = chnDiscard p 1 d) ∧
      (f.bad = false → marked = false → (f.data.length ≠ f.len ∨ bits v 8 8 ≠ f.chan ∨ f.len = 0 ∨ 1024 < f.len) →
      controlBlock p v marked b = chnDiscard p 2 d) ∧
      (f.bad = false → marked = false → ¬ (f.data.length ≠ f.len ∨ bits v 8 8 ≠ f.chan ∨ f.len = 0 ∨ 1024 < f.len) →
      (bits v 16 32 ≠ crc32c (dataBytes f.data) → controlBlock p v marked b = chnDiscard p 1 d) ∧
      (bits v 16 32 = crc32c (dataBytes f.data) → chnCarries p f.chan = false → controlBlock p v marked b = chnDiscard p 3 d) ∧
      (bits v 16 32 = crc32c (dataBytes f.data) → chnCarries p f.chan = true → f.chan = 0 → f.len = 8 →
      controlBlock p v marked b = capabilityFrame p (blockWords f.data) d) ∧
      (bits v 16 32 = crc32c (dataBytes f.data) → chnCarries p f.chan = true → (f.chan ≠ 0 ∨ f.len ≠ 8) →
      controlBlock p v marked b = d.bump F.CHN_FRAMES_RX_COUNT p))) ∧
  -- expressGroupRx: R310, R311, R314, R318
  (∀ (s : State) (dt p : Nat) (cws : List (List (List Nat))) (b d : Blk),
    b = s.blk.tick dt →
    d = chnReport p b →
    (¬ ((d.unit (chnUnit p)).state = 5 ∨ (d.unit (chnUnit p)).state = 6) → exec (.expressGroupRx dt p cws) s =
      .next (s.withBlk (afterGoodbye b d))) ∧
      ((d.unit (chnUnit p)).state = 5 ∨ (d.unit (chnUnit p)).state = 6 → exec (.expressGroupRx dt p cws) s =
      .next (s.withBlk (afterGoodbye b (takeRows p (((laneCodewords p cws d).lane (logicalLane (laneCodewords p cws d) p 0)).line.queue.length)
      (laneCodewords p cws d)))))) ∧
  -- groupEnded: R315, R316, R317, R306
  (∀ (p : Nat) (g : RxUnit) (b : Blk),
    (g.bad = true → groupWhole p g b = chnDiscard p 1 b) ∧
      (g.bad = false → g.crc ≠ crc32c (g.chan :: dataBytes g.data) → groupWhole p g b = chnDiscard p 1 b) ∧
      (g.bad = false → g.crc = crc32c (g.chan :: dataBytes g.data) → chnCarries p g.chan = false → groupWhole p g b = chnDiscard p 3 b) ∧
      (g.bad = false → g.crc = crc32c (g.chan :: dataBytes g.data) → g.chan = 0 → g.len = 0 → chnUp b p = true →
      groupWhole p g b = goodbyeRx p b) ∧
      (g.bad = false → g.crc = crc32c (g.chan :: dataBytes g.data) → chnCarries p g.chan = true → ¬ (g.chan = 0 ∧ g.len = 0 ∧ chnUp b p = true) →
      groupWhole p g b = b.bump F.CHN_EXPRESS_RX_COUNT p)) ∧
  -- eyePointDone: R322, R323
  (∀ (s : State) (dt l errs e : Nat) (q : List Nat) (b c : Blk),
    b = s.blk.tick dt →
    (b.lane l).scan = some q ∧ (b.lane l).pointAt + pointNs (laneNrz b l) (q.getD 2 5) ≤ b.now →
    e = (b.lane l).scanDone / q.getD 0 1 * 32 + (b.lane l).scanDone % q.getD 0 1 →
    (c = (b.wr (if e % 2 = 0 then F.LANE_EYE_RES_LO else F.LANE_EYE_RES_HI) l (Nat.min 4095 errs) (e / 2)).wr F.LANE_EYE_STAT_POINTS l ((b.lane l).scanDone + 1)) →
    ((b.lane l).scanDone + 1 = q.getD 0 1 * q.getD 1 1 → exec (.eyePointDone dt l errs) s = .next (s.withBlk (raise (lanePage l) 0x104 sevInfo (2 ^ 15 * l) (evB 3)
      (((c.putLane l { b.lane l with scan := none, scanDone := (b.lane l).scanDone + 1 }).wr F.LANE_EYE_STAT_BUSY l 0).wr F.LANE_EYE_STAT_DONE l 1)))) ∧
      ((b.lane l).scanDone + 1 ≠ q.getD 0 1 * q.getD 1 1 → exec (.eyePointDone dt l errs) s = .next (s.withBlk
      (c.putLane l { b.lane l with scanDone := (b.lane l).scanDone + 1, pointAt := c.now })))) ∧
  -- quickScanFirst: R324, R325
  (∀ (s : State) (dt l w h : Nat) (ph vo : List Nat) (b : Blk),
    b = s.blk.tick dt →
    quickDue b l = true ∧ b.on F.LANE_EYE_STAT_BUSY l = false ∧ (b.lane l).based = false ∧ (b.lane l).queued = false →
    w = zeroSpan ph ∧ h = 2 * zeroSpan vo ∧ 8 ≤ w ∧ w < 128 ∧ 12 ≤ h ∧ h < 512 →
    b.rd F.LANE_MARGIN_CFG_LIMIT_PCT l ≤ 100 →
    ∃ c, exec (.quickScan dt l ph vo) s = .next (s.withBlk c) ∧
      c.rd F.LANE_MARGIN_WIDTH l = w ∧ c.rd F.LANE_MARGIN_HEIGHT l = h ∧ c.rd F.LANE_MARGIN_BASE_WIDTH l = w ∧ c.rd F.LANE_MARGIN_BASE_HEIGHT l = h ∧
      c.rd F.LANE_MARGIN_MIN_WIDTH l = w ∧ c.rd F.LANE_MARGIN_MIN_HEIGHT l = h ∧
      (c.lane l).based = true ∧ (c.lane l).quickAt = b.now) ∧
  -- laneSerHour: R325
  (∀ (s : State) (dt l : Nat) (b : Blk),
    b = s.blk.tick dt →
    80 ≤ l ∧ l < 96 ∧ (b.lane l).hour < b.now / 3600000000000 →
    exec (.laneSerHour dt l) s = .next (s.withBlk ((b.wr F.LANE_SER_COUNT l (Nat.min (2 ^ 32 - 1) (b.lane l).hourCorr)).putLane l
      { b.lane l with hourCorr := 0, hour := b.now / 3600000000000 }))) ∧
  -- relayPixels: R374, R375
  (∀ (s : State) (dt p : Nat) (f : RelayFrame) (b c : Blk),
    b = s.blk.tick dt →
    ensState b = esMember ∧ (p = 1 ∨ p = 2) →
    (c = forEach (relayOnward b p (f.layer % 4096)) (fun q b => chnSend q 6 (relayHeader (f.layer % 4096) f.buf f.kind f.offset ++ byteWords f.bytes ++ []) b) b) →
    c.ens.subs.contains (f.layer % 4096) = true ∧ f.kind = 0 ∧ f.ev = none →
    exec (.relayFrameRx dt p f false) s = .next (s.withBoth
      (announce b (relayData (f.layer % 4096) f.offset f.bytes c s.store).1 (relayData (f.layer % 4096) f.offset f.bytes c s.store).2)
      (relayData (f.layer % 4096) f.offset f.bytes c s.store).2)) ∧
  -- relayEvidenceIn: R373, R375
  (∀ (s : State) (dt p : Nat) (f : RelayFrame) (e : RelayEv) (b c : Blk),
    b = s.blk.tick dt →
    ensState b = esMember ∧ (p = 1 ∨ p = 2) →
    (c = forEach (relayOnward b p (f.layer % 4096)) (fun q b => chnSend q 6 (relayHeader (f.layer % 4096) f.buf f.kind f.offset ++ byteWords f.bytes ++ evidenceWords e) b) b) →
    c.ens.subs.contains (f.layer % 4096) = true ∧ f.kind = 1 ∧ f.ev = some e →
    exec (.relayFrameRx dt p f false) s = .next (s.withBlk (announce b (relayEvidence (f.layer % 4096) e c) s.store)))

/-- The pair: forming, settling, heartbeats by both paths, the ownership interlock and what the module releases and takes. For
each command by which a pair forms and is kept, the next state it leaves: forming and refusing, settling, heartbeats and call
frames sent and received, losses of paths, the claim window, contested ownership. -/
def Obligations.PairCommands : Prop :=
  -- pairFormed: R328
  (∀ (s : State) (dt : Nat) (b : Blk),
    b = s.blk.tick dt →
    b.on F.PAIR_CFG_EN 0 = true ∧ (chnUp b 0 = true ∨ partnerPath b = true) →
    pairRefusal b = 0 →
    exec (.pairForm dt) s = .next (s.withBlk (((b.put F.PAIR_STAT_REFUSED 0 false).wr F.PAIR_STAT_REFUSE_CAUSE 0 0).putPr { b.pr with formed := true }))) ∧
  -- pairRefused: R328
  (∀ (s : State) (dt why : Nat) (b c : Blk),
    b = s.blk.tick dt →
    b.on F.PAIR_CFG_EN 0 = true ∧ (chnUp b 0 = true ∨ partnerPath b = true) →
    pairRefusal b = why ∧ why ≠ 0 ∧ b.on F.PAIR_STAT_REFUSED 0 = false →
    c = raise pairPage 0x103 sevWarning why 0 (((b.put F.PAIR_STAT_REFUSED 0 true).wr F.PAIR_STAT_REFUSE_CAUSE 0 why).putPr { b.pr with formed := false }) →
    exec (.pairForm dt) s = .next (s.withBlk (if role c = 2 then takeRole 1 0 (c.wr F.PAIR_STAT_SYNC 0 0) else c))) ∧
  -- pairUnformed: R328
  (∀ (s : State) (dt : Nat) (b : Blk),
    b = s.blk.tick dt →
    b.on F.PAIR_CFG_EN 0 = false ∨ (chnUp b 0 = false ∧ partnerPath b = false) →
    exec (.pairForm dt) s = .next (s.withBlk (((b.wr F.PAIR_STAT_REFUSED 0 0).wr F.PAIR_STAT_REFUSE_CAUSE 0 0).putPr { b.pr with formed := false }))) ∧
  -- refusalCauses: R328
  (∀ (b : Blk),
    chnUp b 0 = true →
    (b.rd F.CHN_PEER_WORD 0 5 % 65536 ≠ b.rd F.SYS_VARIANT_USABLE_GIB 0 → pairRefusal b = 1) ∧
      (b.rd F.CHN_PEER_WORD 0 5 % 65536 = b.rd F.SYS_VARIANT_USABLE_GIB 0 → bits (b.rd F.CHN_PEER_WORD 0 4) 8 1 = b.rd F.SYS_STRAPS_SEAT 0 → pairRefusal b = 2) ∧
      (b.rd F.CHN_PEER_WORD 0 5 % 65536 = b.rd F.SYS_VARIANT_USABLE_GIB 0 → bits (b.rd F.CHN_PEER_WORD 0 4) 8 1 ≠ b.rd F.SYS_STRAPS_SEAT 0 → pairRefusal b = 0)) ∧
  -- settledActive: R329, R37
  (∀ (s : State) (dt : Nat) (b c : Blk),
    b = s.blk.tick dt →
    b.pr.settleAt + 50000 ≤ b.now →
    c = roleReport 0 (b.putPr { b.pr with settleAt := b.now }) →
    role c = 1 ∧ c.on F.PAIR_STAT_REFUSED 0 = false ∧ c.on F.SYS_STAT_EJECTING 0 = false ∧ c.on F.SYS_STAT_OPERATING 0 = true ∧ c.rd F.ENS_STAT_STATE 0 ≠ 2 →
    heard c = false ∧ ownIn c = false ∧ ownInFree c = true ∧ c.ctl.fatal = false →
    Nat.max c.pr.heardAt (c.rd F.SYS_OPER_TIME_TIME 0) + c.rd F.PAIR_CFG_SETTLE 0 * 100000000 ≤ c.now →
    exec (.roleSettle dt) s = .next (s.withBlk (refreshReady (let d := takeOwnership 3 0 c
      if role d = 4 ∧ d.ctl.fatal = true then beginPlanned 2 d else d)))) ∧
  -- settledUnderstudy: R329
  (∀ (s : State) (dt : Nat) (b c : Blk),
    b = s.blk.tick dt →
    b.pr.settleAt + 50000 ≤ b.now →
    c = roleReport 0 (b.putPr { b.pr with settleAt := b.now }) →
    role c = 1 ∧ c.on F.PAIR_STAT_REFUSED 0 = false ∧ c.on F.SYS_STAT_EJECTING 0 = false ∧ c.on F.SYS_STAT_OPERATING 0 = true ∧ c.rd F.ENS_STAT_STATE 0 ≠ 2 →
    heard c = true ∧ c.pr.hot = false →
    c.rd F.PAIR_STAT_PEER_ROLE 0 = 3 ∨ c.rd F.PAIR_STAT_PEER_ROLE 0 = 4 →
    exec (.roleSettle dt) s = .next (s.withBlk (refreshReady (let d := becomeUnderstudy (c.putPr { c.pr with hot := false })
      if role d = 4 ∧ d.ctl.fatal = true then beginPlanned 2 d else d)))) ∧
  -- heartbeatSend: R330
  (∀ (s : State) (dt : Nat) (b c d : Blk),
    b = s.blk.tick dt →
    chnUp b 0 = true ∧ b.on F.PAIR_CFG_EN 0 = true ∧ (b.pr.sentA = 0 ∨ b.pr.sentA + 8000 ≤ b.now) →
    c = refreshReady b →
    d = chnExpress 0 1 (byteWords (beatBytes c)) c →
    exec (.heartbeatSend dt) s = .next (s.withBlk (d.putPr { d.pr with
      sentA := c.now, txA := ((d.pr.seqA, c.now + rdiv (c.rd F.CHN_LAT_TX 0) 10) :: d.pr.txA).take 16, seqA := (d.pr.seqA + 1) % 65536 }))) ∧
  -- heartbeatForm: R330
  (∀ (b : Blk),
    (beatBytes b).length = 24) ∧
  -- callFrameSend: R331
  (∀ (s : State) (dt : Nat) (b c : Blk),
    b = s.blk.tick dt →
    b.pr.sentB = 0 ∨ b.pr.sentB + 50000 ≤ b.now →
    c = refreshReady b →
    exec (.callFrameSend dt) s = .next (s.withBlk ((c.emit (.callLine (callBytes c))).putPr { c.pr with sentB := c.now, seqB := (c.pr.seqB + 1) % 256 })) ∧
      (callBytes c).length = 10) ∧
  -- heartbeatRx: R330, R332
  (∀ (s : State) (dt run sel : Nat) (p : Beat) (utc dco : Int) (b c d : Blk),
    b = s.blk.tick dt →
    chnUp b 0 = true ∧ b.on F.PAIR_CFG_EN 0 = true ∧ b.pr.lastA ≠ some p.seq →
    (run = if (b.pr.lastA.isSome && Nat.ble b.now (b.pr.atA + 16000)) = true then b.pr.runA + 1 else 1) →
    c = b.putPr { b.pr with lastA := some p.seq, atA := b.now, runA := run, rxA := some (p.seq, b.now - rdiv (b.rd F.CHN_LAT_RX 0) 10) } →
    (d = if 8 ≤ run then pathRise true c else c) →
    d.on F.PAIR_STAT_PATH_A 0 = false →
    exec (.heartbeatRx dt p sel utc dco) s = .next (s.withBlk (peerSays p d))) ∧
  -- heartbeatRepeat: R332
  (∀ (s : State) (dt sel : Nat) (p : Beat) (utc dco : Int) (b : Blk),
    b = s.blk.tick dt →
    b.pr.lastA = some p.seq →
    exec (.heartbeatRx dt p sel utc dco) s = .next (s.withBlk b)) ∧
  -- callFrameRx: R331, R332
  (∀ (s : State) (dt run : Nat) (p : Beat) (b c : Blk),
    b = s.blk.tick dt →
    b.on F.PAIR_CFG_EN 0 = true ∧ b.pr.lastB ≠ some (p.seq % 256) ∧ b.pr.beat = none →
    (run = if (b.pr.lastB.isSome && Nat.ble b.now (b.pr.atB + 100000)) = true then b.pr.runB + 1 else 1) →
    c = b.putPr { b.pr with lastB := some (p.seq % 256), atB := b.now, runB := run } →
    run < 4 →
    exec (.callFrameRx dt p) s = .next (s.withBlk (peerSays p c))) ∧
  -- pathStillUp: R332
  (∀ (s : State) (dt : Nat) (a : Bool) (b : Blk),
    b = s.blk.tick dt →
    (b.now < (if a = true then b.pr.atA + 32000 else b.pr.atB + 200000)) →
    exec (.heartbeatPathLost dt a) s = .next (s.withBlk b)) ∧
  -- pathLostOtherUp: R332, R361
  (∀ (s : State) (dt : Nat) (b c : Blk),
    b = s.blk.tick dt →
    b.on F.PAIR_STAT_PATH_B 0 = true ∧ b.pr.atB + 200000 ≤ b.now →
    c = raise pairPage 0x101 sevWarning 1 (evB 1) (((b.wr F.PAIR_STAT_PATH_B 0 0).bump F.PAIR_HB_LOSSES_PATH_B 0).putPr
      { b.pr with runB := 0, heardAt := b.now }) →
    partnerPath c = true →
    exec (.heartbeatPathLost dt false) s = .next (s.withBlk c)) ∧
  -- claimWindowEnd: R334
  (∀ (s : State) (dt t : Nat) (b : Blk),
    b = s.blk.tick dt →
    b.pr.claimAt = some t ∧ t + 5000 ≤ b.now ∧ b.pr.contested = false ∧ ownOut b = true →
    exec (.claimWindowEnd dt) s = .next (s.withBlk (setDriving true (b.putPr { b.pr with claimAt := none })))) ∧
  -- ownContestSeat1: R334
  (∀ (s : State) (dt t : Nat) (b c : Blk),
    b = s.blk.tick dt →
    ownOut b = true ∧ b.pr.claimAt = some t ∧ b.now ≤ t + 5000 ∧ b.rd F.SYS_STRAPS_SEAT 0 = 1 →
    c = raise pairPage 0x10D sevWarning 1 0 (dropOwnership (b.wr F.PAIR_STAT_OWN_IN 0 1)) →
    exec (.ownContest dt) s = .next (s.withBlk (if role c = 4 ∧ c.ctl.fatal = true then c else becomeUnderstudy c))) ∧
  -- ownContestSeat0: R334
  (∀ (s : State) (dt t : Nat) (b c : Blk),
    b = s.blk.tick dt →
    ownOut b = true ∧ b.pr.claimAt = some t ∧ b.now ≤ t + 5000 ∧ b.rd F.SYS_STRAPS_SEAT 0 = 0 →
    c = b.wr F.PAIR_STAT_OWN_IN 0 1 →
    exec (.ownContest dt) s = .next (s.withBlk (c.putPr { c.pr with contested := true, bothAt := some (c.pr.bothAt.getD c.now) }))) ∧
  -- ownInDeasserted: R334
  (∀ (s : State) (dt : Nat) (b c : Blk),
    b = s.blk.tick dt →
    c = (b.wr F.PAIR_STAT_OWN_IN 0 0).putPr { b.pr with ownInAt := b.now - 2000, bothAt := none, waitTold := false } →
    (ownOut c = true ∧ c.pr.contested = true ∧ c.rd F.SYS_STRAPS_SEAT 0 = 0 → exec (.ownInDeasserted dt) s =
      .next (s.withBlk (setDriving true (c.putPr { c.pr with contested := false, claimAt := none })))) ∧
      (¬ (ownOut c = true ∧ c.pr.contested = true ∧ c.rd F.SYS_STRAPS_SEAT 0 = 0) → exec (.ownInDeasserted dt) s = .next (s.withBlk c)))

/-- The pair: the end of an epoch on the active side, the planned and the uncontrolled takeover, the dress rehearsal and the
second opinion. For each command of takeover and rehearsal, the next state it leaves: the END of an epoch and its
acknowledgement, rehearsal sets sent and compared, the second opinion, RELEASE and TAKE, the release of ownership, and
takeovers. -/
def Obligations.TakeoverAndRehearsalCommands : Prop :=
  -- epochEndSend: R339, R341
  (∀ (s : State) (dt : Nat) (q : Closed) (b c d : Blk),
    b = s.blk.tick dt →
    b.pr.closed = some q ∧ (copying b = true ∨ b.pr.released = true) →
    (c = forEach (epochFrames b q) (fun f x => chnSend 0 2 (epochFrameWords f) x) b) →
    d = c.putPr { c.pr with closed := none, links := [] } →
    exec (.epochEndSend dt) s = .next (s.withBlk (chnSend 0 2 ([3 + 65536 * (epochFrames b q).length, q.epoch % 2 ^ 32, q.epoch % 2 ^ 32, q.epoch / 2 ^ 32,
      q.time % 2 ^ 32, q.time / 2 ^ 32 % 2 ^ 32, (q.recs.filter (·.1 != 2)).length, q.stores.foldl (fun a x => a + x.2.2.length) 0, (epochFrames b q).length,
      ruleDigest d.acg.image] ++ q.fs ++ [epochCrc q.epoch q.recs q.stores]) d))) ∧
  -- epochAckRx: R339, R344
  (∀ (s : State) (dt e : Nat) (b : Blk),
    b = s.blk.tick dt →
    (role b = 3 ∨ role b = 4) ∧ b.pr.syncS = none →
    exec (.epochAckRx dt e true false) s = .next (s.withBlk (b.wr F.PAIR_COMMITTED_EPOCH 0 e)) ∧
      exec (.epochAckRx dt e false true) s = .next (s.withBlk ((b.wr F.PAIR_STAT_SYNC 0 1).putPr { b.pr with syncDue := true }))) ∧
  -- rehearsalSend: R350
  (∀ (s : State) (dt st second : Nat) (r : Rehearsal) (b c d : Blk),
    b = s.blk.tick dt →
    stageRuns b st = true ∧ (b.stage st).shown ≠ [] ∧ b.pr.formed = true ∧ chnUp b 0 = true →
    r = { rehearsalSet b s.store st with so := setOpinion b st second } →
    c = b.putPr { b.pr with own := mset b.pr.own st { set := r, at_ := b.now, shown := onDisplay b st, across := cdiv (stageW (b.viewed st) st) 64 } } →
    (d = chnSend 0 3 ([st + 256 * 0 + 65536 * (r.f % 65536), r.f / 65536 % 65536] ++ [r.stamp, (match r.so with | some e => e.1 + 8192 | none => 0),
      (match r.so with | some e => e.2 | none => 0), 0] ++ entryWords r ++ markWords r) c) →
    exec (.rehearsalSend dt st second) s = .next (s.withBlk (forEach (List.range 4) (fun k x =>
      chnSend 0 3 ([st + 256 * (k + 1) + 65536 * (r.f % 65536), r.f / 65536 % 65536] ++ (r.sigs.drop (2046 * k)).take 2046) x) d))) ∧
  -- rehearsalEqual: R351
  (∀ (s : State) (dt st : Nat) (x : OwnSet) (y : Rehearsal) (b c : Blk) (cmp bad : List Nat),
    b = s.blk.tick dt →
    mget b.pr.own st = some x ∧ x.set.f = y.f →
    cmp = (List.range x.set.sigs.length).filter (tileCompared x y) →
    (bad = cmp.filter fun k => x.set.sigs[k]? != y.sigs[k]?) →
    (c = ((b.putPr { b.pr with own := mdel b.pr.own st, opinion := (match opinionOf b st x y with | some o => some o | none => b.pr.opinion) }).bump
      F.PAIR_DR_EXCLUDED_COUNT 0 ((List.range x.set.sigs.length).length - cmp.length)).bump F.PAIR_DR_MISMATCHES_COUNT 0 bad.length) →
    (bad = [] → exec (.rehearsalCompare dt st y) s = .next (s.withBlk c)) ∧
      (∀ k l, bad = k :: l → c.pr.dispute = none → exec (.rehearsalCompare dt st y) s = .next (s.withBlk (
      (raise pairPage 0x107 sevNotice (st + 32 * k) (evB 3) c).putPr { (raise pairPage 0x107 sevNotice (st + 32 * k) (evB 3) c).pr with
      dispute := some (st, k, (raise pairPage 0x107 sevNotice (st + 32 * k) (evB 3) c).rd F.STG_FRAME_F st + 16), opinion := none })))) ∧
  -- rehearsalTimeout: R351
  (∀ (s : State) (dt st : Nat) (x : OwnSet) (b : Blk),
    b = s.blk.tick dt →
    mget b.pr.own st = some x ∧ x.at_ + 2 * framePeriod b st ≤ b.now →
    exec (.rehearsalTimeout dt st) s = .next (s.withBlk ((b.putPr { b.pr with own := mdel b.pr.own st }).bump F.PAIR_DR_EXCLUDED_COUNT 0 x.set.sigs.length))) ∧
  -- secondOpinion: R352, R353
  (∀ (s : State) (dt st t e : Nat) (b : Blk),
    b = s.blk.tick dt →
    b.pr.dispute = some (st, t, e) →
    (∀ o, b.pr.opinion = some o → exec (.secondOpinion dt) s = .next (s.withBlk (decideOpinion st t (opinionOutcome o) b))) ∧
      (b.pr.opinion = none → secondPipe b st (t % cdiv (stageW (b.viewed st) st) 64) (t / cdiv (stageW (b.viewed st) st) 64) = none →
      exec (.secondOpinion dt) s = .next (s.withBlk (decideOpinion st t 4 b)))) ∧
  -- opinionDecided: R352, R353
  (∀ (xn xs yn ys : Nat),
    (xn = yn → opinionOutcome (xn, xs, yn, ys) = 1) ∧ (xn ≠ yn → xs = ys → ys = yn → opinionOutcome (xn, xs, yn, ys) = 2) ∧
      (xn ≠ yn → xs = ys → ys = xn → opinionOutcome (xn, xs, yn, ys) = 3) ∧
      (xn ≠ yn → ¬ (xs = ys ∧ (ys = yn ∨ ys = xn)) → opinionOutcome (xn, xs, yn, ys) = 4)) ∧
  -- opinionOutcome: R353
  (∀ (st t out : Nat) (b : Blk),
    out = 1 ∨ out = 3 ∨ out = 4 →
    (decideOpinion st t out b).rd F.PAIR_SO_LAST_OUTCOME 0 = out ∧ (decideOpinion st t out b).pr.dispute = none) ∧
  -- secondOpinionTimeout: R352
  (∀ (s : State) (dt st t e : Nat) (b : Blk),
    b = s.blk.tick dt →
    b.pr.dispute = some (st, t, e) ∧ e ≤ b.rd F.STG_FRAME_F st →
    exec (.secondOpinionTimeout dt) s = .next (s.withBlk (decideOpinion st t 4 b))) ∧
  -- releaseSeen: R355
  (∀ (s : State) (dt : Nat) (p : Beat) (b : Blk),
    b = s.blk.tick dt →
    role b = 2 ∧ b.pr.beat = some p ∧ p.release = true ∧ b.pr.release = none ∧ b.pr.take = none →
    exec (.takeoverRelease dt) s = .next (s.withBlk ((b.putPr { b.pr with take := some (plannedCause b, true, b.now) }).wr F.PAIR_STAT_TAKE 0 1))) ∧
  -- takeSeen: R355
  (∀ (s : State) (dt : Nat) (p : Beat) (b : Blk),
    b = s.blk.tick dt →
    role b = 3 ∧ b.pr.beat = some p ∧ p.take = true ∧ b.pr.release.isSome = true ∧ b.pr.takeRx = none →
    exec (.takeoverRelease dt) s = .next (s.withBlk (b.putPr { b.pr with takeRx := some b.now }))) ∧
  -- ownRelease: R355
  (∀ (s : State) (dt cause t : Nat) (b c d : Blk),
    b = s.blk.tick dt →
    b.pr.release = some cause ∧ b.pr.takeRx = some t ∧ b.pr.released = false ∧ t + 90000 ≤ b.now →
    (c = forEach b.pr.held (fun h x => discardCopy h.1 h.2.2.1 x) b) →
    d = (c.putPr { c.pr with released := true, held := [] }).wr F.PAIR_EPOCH_FILL_HELD 0 0 →
    exec (.ownRelease dt) s = .next (s.withBlk (epochEndSend (dropOwnership (closeEpoch d))))) ∧
  -- ownReleaseEarly: R355
  (∀ (s : State) (dt : Nat) (b : Blk),
    b = s.blk.tick dt →
    b.pr.release = none ∨ b.pr.takeRx = none →
    exec (.ownRelease dt) s = .next (s.withBlk b)) ∧
  -- uncontrolledTakeover: R356
  (∀ (s : State) (dt : Nat) (b : Blk),
    b = s.blk.tick dt →
    role b = 2 ∧ partnerPath b = false ∧ ownInFree b = true ∧ b.pr.take = none →
    exec (.uncontrolledTakeover dt) s = .next (s.withBlk (b.putPr { b.pr with take := some (5, false, b.now), rx := [], waitEnd := none, ends := [] }))) ∧
  -- takePointUncontrolled: R356
  (∀ (s : State) (dt cause t : Nat) (b c : Blk),
    b = s.blk.tick dt →
    c = refreshReady b →
    c.pr.released = false ∧ role c = 2 ∧ c.pr.take = some (cause, false, t) ∧ t + 20000 ≤ c.now ∧ ownInFree c = true →
    exec (.takePoint dt) s = .next (s.withBlk (takePoint cause false c))) ∧
  -- takePointFormer: R358
  (∀ (s : State) (dt : Nat) (b c : Blk),
    b = s.blk.tick dt →
    c = refreshReady b →
    c.pr.released = true →
    exec (.takePoint dt) s = .next (s.withBlk (leadHanded (formerRole (c.pr.release.getD 1) c))))

/-- Epoch boundaries, the arrival, commit and failure of an epoch, frame-store writes that wait, and the full sync. For each
command of the epochs, the next state it leaves: boundaries, frames and ENDs received, commits and failures, frame-store
writes that wait, and the start, completion and time-out of a full sync. -/
def Obligations.EpochCommands : Prop :=
  -- epochBoundaryFree: R338
  (∀ (s : State) (dt : Nat) (b c d : Blk),
    b = s.blk.tick dt →
    stageRuns b 0 = false ∧ freeBoundary b.now = true ∧ b.now ≠ 0 ∧ b.pr.boundaryAt ≠ b.now ∧ b.pr.released = false →
    c = openEpoch (closeEpoch b) →
    (d = c.putPr { c.pr with boundaryWas := c.pr.boundaryAt, boundaryAt := c.now, fMarks := (List.range 24).map fun st => c.rd F.STG_FRAME_F st }) →
    exec (.epochBoundary dt) s = .next (s.withBoth
      (announce b (replayHeld (joinAtBoundary (ensBoundary (takeCues (boundaryDue d) (sendAck d)))) s.store).1
      (replayHeld (joinAtBoundary (ensBoundary (takeCues (boundaryDue d) (sendAck d)))) s.store).2)
      (replayHeld (joinAtBoundary (ensBoundary (takeCues (boundaryDue d) (sendAck d)))) s.store).2)) ∧
  -- boundaryTimes: R338
  (∀ (k : Nat),
    freeBoundary (k * 50000000 / 3) = true ∧ (freeBoundary (k * 50000000 / 3 + 1) = true → False)) ∧
  -- epochNumber: R338
  (∀ (b : Blk),
    b.pr.syncS = none →
    (openEpoch b).rd F.PAIR_EPOCH_EPOCH 0 = (b.rd F.PAIR_EPOCH_EPOCH 0 + 1) % 2 ^ 32) ∧
  -- epochFrameKept: R339, R342
  (∀ (s : State) (dt e i : Nat) (l : List (Nat × Nat × Nat × Nat)) (b : Blk),
    b = s.blk.tick dt →
    takesEpochs b = true ∧ b.rd F.PAIR_STAT_SYNC 0 = 2 →
    exec (.epochFrameRx dt (.records e i l)) s = .next (s.withBlk (b.putPr { b.pr with rx := b.pr.rx ++ [.records e i l] }))) ∧
  -- epochLinkKept: R346
  (∀ (s : State) (dt e i h : Nat) (l : List Nat) (b c : Blk),
    b = s.blk.tick dt →
    takesEpochs b = true ∧ b.rd F.PAIR_STAT_SYNC 0 = 2 →
    c = b.putPr { b.pr with rx := b.pr.rx ++ [.link e i h l] } →
    exec (.epochFrameRx dt (.link e i h l)) s = .next (s.withBlk (c.putHead h { c.head h with link := some (l.headD 0 :: l.drop 2), fromPeer := true }))) ∧
  -- epochFrameOther: R337, R339
  (∀ (s : State) (dt : Nat) (f : EpochFrame) (b : Blk),
    b = s.blk.tick dt →
    takesEpochs b = false →
    exec (.epochFrameRx dt f) s = .next (s.withBlk b)) ∧
  -- epochEndRx: R341, R348
  (∀ (s : State) (dt : Nat) (e : EpochEnd) (b c : Blk),
    b = s.blk.tick dt →
    takesEpochs b = true →
    c = refreshReady (b.putPr { b.pr with digest := some e.digest }) →
    c.rd F.PAIR_STAT_SYNC 0 = 2 →
    (c.pr.waitEnd = none → exec (.epochEndRx dt e) s = .next (s.withBlk (c.putPr { c.pr with waitEnd := some e }))) ∧
      (c.pr.waitEnd ≠ none → exec (.epochEndRx dt e) s = .next (s.withBlk (c.putPr { c.pr with ends := c.pr.ends ++ [e] })))) ∧
  -- epochCommit: R342, R344
  (∀ (s : State) (dt : Nat) (e : EpochEnd) (b c d : Blk),
    b = s.blk.tick dt →
    b.pr.waitEnd = some e ∧ takesEpochs b = true ∧ epochWhole b e = true →
    c = (applyRecords e.epoch e.time 0 (recordsOf (framesOf b e.epoch)) b).wr F.PAIR_COMMITTED_EPOCH 0 e.epoch →
    (d = c.putPr { c.pr with
      everCommitted := true, waitEnd := c.pr.ends.head?, ends := c.pr.ends.tail, adopt := adoptions c e,
      rx := c.pr.rx.filter fun f => frameEpoch f % 2 ^ 32 != e.epoch % 2 ^ 32, ackDue := some (e.epoch % 2 ^ 32, true, false) }) →
    exec (.epochCommitDone dt) s = .next (s.withBlk (announce b (refreshReady (sendAck d)) s.store))) ∧
  -- epochNotWhole: R342
  (∀ (s : State) (dt : Nat) (e : EpochEnd) (b : Blk),
    b = s.blk.tick dt →
    b.pr.waitEnd = some e ∧ epochWhole b e = false →
    exec (.epochCommitDone dt) s = .next (s.withBlk (announce b b s.store))) ∧
  -- epochFail: R344, R361
  (∀ (s : State) (dt last : Nat) (b c d : Blk),
    b = s.blk.tick dt →
    last = (b.rd F.PAIR_EPOCH_EPOCH 0 + 2 ^ 32 - 1) % 2 ^ 32 →
    role b = 2 ∧ b.rd F.PAIR_STAT_SYNC 0 = 2 ∧ b.pr.boundaryAt + 3000000 ≤ b.now ∧ b.rd F.PAIR_COMMITTED_EPOCH 0 ≠ last →
    c = raise pairPage 0x104 sevWarning (last % 65536) (evB 2) (b.wr F.PAIR_STAT_SYNC 0 1) →
    d = c.putPr { c.pr with rx := [], staging := [], waitEnd := none, ends := [], syncS := none, syncAt := c.now, ackDue := some (last, false, true) } →
    exec (.epochFail dt) s = .next (s.withBlk (refreshReady (sendAck d)))) ∧
  -- storeReleasedFirst: R345
  (∀ (s : State) (dt a : Nat) (u : Bool) (bytes : List Nat) (b : Blk) (r : Blk × FrameStore),
    b = s.blk.tick dt →
    b.pr.staging = [(a, u, bytes)] →
    (r = storeWrite (if b.rd F.PAIR_STAT_SYNC 0 = 1 then 0x20 else 0x16) a u bytes b s.store) →
    (storeBlocked b a bytes.length = false → exec (.storeReleased dt) s =
      .next (s.withBoth (r.1.putPr { r.1.pr with staging := r.1.pr.staging.tail }) r.2)) ∧
      (storeBlocked b a bytes.length = true → exec (.storeReleased dt) s = .next (s.withBlk b))) ∧
  -- fullSyncStart: R344
  (∀ (s : State) (dt : Nat) (b c : Blk),
    b = s.blk.tick dt →
    b.pr.syncDue = true ∧ copying b = true ∧ b.pr.boundaryAt = b.now →
    c = b.putPr { b.pr with syncDue := false, syncS := some (b.rd F.PAIR_EPOCH_EPOCH 0), syncAt := b.now } →
    exec (.fullSyncStart dt) s = .next (s.withBlk (forEach (syncFrames (b.rd F.PAIR_EPOCH_EPOCH 0) c s.store) (fun f x => chnSend 0 2 (epochFrameWords f) x) c))) ∧
  -- fullSyncComplete: R344, R361
  (∀ (s : State) (dt q : Nat) (l m : List EpochFrame) (b c d e : Blk),
    b = s.blk.tick dt →
    b.pr.syncS = some q ∧ role b = 2 ∧ b.rd F.PAIR_STAT_SYNC 0 = 1 ∧ b.pr.staging = [] ∧ syncSplit b.pr.rx = (l, m) →
    c = applyRecords q (imagesApplied b l (applyImages l (clearCopied b))).pr.boundaryAt 0 (recordsOf l) (imagesApplied b l (applyImages l (clearCopied b))) →
    d = (c.wr F.PAIR_STAT_SYNC 0 2).wr F.PAIR_COMMITTED_EPOCH 0 (q + 2 ^ 32 - 1) →
    e = d.putPr { d.pr with rx := m, syncS := none, waitEnd := d.pr.ends.head?, ends := d.pr.ends.tail } →
    exec (.fullSyncComplete dt) s = .next (s.withBlk (announce b (refreshReady (raise pairPage 0x105 sevNotice (q % 65536) (evB 2) e)) s.store))) ∧
  -- syncTimeout: R344
  (∀ (s : State) (dt : Nat) (b : Blk),
    b = s.blk.tick dt →
    b.rd F.PAIR_STAT_SYNC 0 = 1 ∧ b.pr.syncAt + b.rd F.PAIR_CFG_SYNC_TO 0 * 1000000000 ≤ b.now →
    (role b = 2 → exec (.syncTimeout dt) s = .next (s.withBlk (sendAck (syncAgain b)))) ∧
      (role b ≠ 2 → copying b = true → exec (.syncTimeout dt) s = .next (s.withBlk (b.putPr { b.pr with syncDue := true, syncS := none, syncAt := b.now }))))

/-- Ensembles: beacons, membership, junctions, the lead, group cues at a common boundary, copies to a joining module and
isolation. For each command of an ensemble, the next state it leaves: beacons, lost members, ring joins, junctions, the lead's
election, group-cue checks and results, the copy to a joining module, joining at a boundary, and isolation. -/
def Obligations.EnsembleCommands : Prop :=
  -- beaconSend: R363
  (∀ (s : State) (dt : Nat) (b c d : Blk),
    b = s.blk.tick dt →
    (chnUp b 1 = true ∨ chnUp b 2 = true) ∧ inRing b = true ∧ (b.ens.sentAt = 0 ∨ b.ens.sentAt + 10000 ≤ b.now) →
    (c = if inRing (ringSeen b) = true then (ringSeen b).wr F.ENS_BOUNDARY_TIME 0 (ensNext (ringSeen b)) else ringSeen b) →
    (d = forEach (ensPorts c) (fun p x => (chnExpress p 4 (byteWords (beaconBytes x p)) x).putEns { (chnExpress p 4 (byteWords (beaconBytes x p)) x).ens with
      tx := mset (chnExpress p 4 (byteWords (beaconBytes x p)) x).ens.tx p ((((chnExpress p 4 (byteWords (beaconBytes x p)) x).ens.seq, x.now + rdiv (x.rd F.CHN_LAT_TX p) 10) ::
      mgetD (chnExpress p 4 (byteWords (beaconBytes x p)) x).ens.tx p []).take 16) }) c) →
    exec (.beaconSend dt) s = .next (s.withBlk (sendReports (d.putEns { d.ens with sentAt := d.now, seq := (d.ens.seq + 1) % 65536 })))) ∧
  -- beaconForm: R363
  (∀ (b : Blk) (p : Nat),
    (beaconBytes b p).length = 24) ∧
  -- beaconRxRing: R363
  (∀ (s : State) (dt p quality clk : Nat) (q : Beacon) (mate : Option Nat) (unc : Bool) (utc dco : Int) (b c : Blk),
    b = s.blk.tick dt →
    b.on F.ENS_CFG_EN 0 = true ∧ ringUp b p = true ∧ (p = 1 ∨ p = 2) ∧ q.pos ≠ ownPos b ∧ lastSeq b p q.pos ≠ some q.seq →
    c = countMember p q mate b →
    q.pos ≠ ownPos c ∧ (ensState c = 1 ∨ ensState c = 2 ∨ ensState c = 3) →
    exec (.beaconRx dt p false q mate clk quality unc utc dco) s = .next (s.withBlk (ringSeen (forwardBeacon p q (leadSays q c))))) ∧
  -- beaconRxRepeat: R363
  (∀ (s : State) (dt p quality clk : Nat) (q : Beacon) (mate : Option Nat) (unc : Bool) (utc dco : Int) (b : Blk),
    b = s.blk.tick dt →
    b.on F.ENS_CFG_EN 0 = true ∧ ringUp b p = true ∧ (p = 1 ∨ p = 2) ∧ lastSeq b p q.pos = some q.seq →
    exec (.beaconRx dt p false q mate clk quality unc utc dco) s = .next (s.withBlk b)) ∧
  -- memberLost: R363, R381, R383
  (∀ (s : State) (dt p : Nat) (x : Member) (b c d : Blk),
    b = s.blk.tick dt →
    mget b.ens.members p = some x ∧ x.heardAt + 40000 ≤ b.now ∧ p ≠ ownPos b →
    (c = b.putEns { b.ens with
      members := mdel b.ens.members p, changedAt := b.now,
      reports := b.ens.reports.filter fun e => e.1 / 16384 != p }) →
    (d = if inRing c = true then raise ensPage 0x101 sevWarning (p + 8 * b2n x.beacon.ejecting) (evB 0) c else c) →
    ∃ f, f = (if d.ens.lead = some p then peerLost 7 d else d) ∧
      exec (.memberLost dt p) s = .next (s.withBlk (relayReroute true f.ens.subs (ringSeen f)))) ∧
  -- memberStillHeard: R363
  (∀ (s : State) (dt p : Nat) (x : Member) (b : Blk),
    b = s.blk.tick dt →
    mget b.ens.members p = some x ∧ b.now < x.heardAt + 40000 →
    exec (.memberLost dt p) s = .next (s.withBlk b)) ∧
  -- ringJoined: R362, R365
  (∀ (s : State) (dt : Nat) (b : Blk),
    b = s.blk.tick dt →
    b.on F.ENS_CFG_EN 0 = true ∧ (chnUp b 1 = true ∨ chnUp b 2 = true) ∧ ensState b = 0 →
    (mget b.ens.members (ownPos b) = none → exec (.ringJoin dt) s = .next (s.withBlk ((b.wr F.ENS_STAT_STATE 0 1).putEns { b.ens with joinedAt := b.now, changedAt := b.now }))) ∧
      (mget b.ens.members (ownPos b) ≠ none → exec (.ringJoin dt) s = .next (s.withBlk
      (raise ensPage 0x106 sevWarning (ownPos b) (evB 3) (b.wr F.ENS_STAT_STATE 0 4))))) ∧
  -- junctionAnchor: R366
  (∀ (s : State) (dt : Nat) (peer : Bool) (b c : Blk),
    b = s.blk.tick dt →
    chnUp b 3 = true ∧ inRing b = true ∧ (b.ens.junction = 0 ∨ b.ens.junction = 3) ∧ junctionRefusal peer b = 0 ∧ b.on F.ENS_CFG_UPLINK 0 = true →
    c = (((b.wr F.ENS_STAT_ANCHOR 0 1).wr F.ENS_STAT_LEVEL 0 (bits (b.rd F.CHN_PEER_WORD 3 5) 24 8 + 1)).wr F.ENS_STAT_LEAD 0 0) →
    exec (.junctionForm dt peer) s = .next (s.withBlk (selectorDue ((c.wr F.ENS_STAT_LEAD_POS 0 (ownPos b)).putEns { b.ens with
      junction := 2, refusedWhy := 0, lead := none })))) ∧
  -- junctionRefused: R366, R383
  (∀ (s : State) (dt why : Nat) (peer : Bool) (b : Blk),
    b = s.blk.tick dt →
    chnUp b 3 = true ∧ inRing b = true ∧ b.ens.junction = 0 ∧ junctionRefusal peer b = why ∧ why ≠ 0 ∧ b.ens.refusedWhy ≠ why →
    exec (.junctionForm dt peer) s = .next (s.withBlk (raise ensPage 0x107 sevWarning why (evB 3) (b.putEns { b.ens with junction := 3, refusedWhy := why })))) ∧
  -- leadElected: R367
  (∀ (s : State) (dt p : Nat) (l : List Nat) (b : Blk),
    b = s.blk.tick dt →
    inRing b = true ∧ b.ens.changedAt + b.rd F.ENS_CFG_SETTLE 0 * 1000000 ≤ b.now ∧ beneath b = false ∧ ensState b = 1 →
    ((b.ens.members.find? fun e => e.2.beacon.lead && e.1 != ownPos b) = none ∧ candidates b = p :: l) →
    exec (.leadElection dt) s = .next (s.withBlk (becomeMember (setLead (pairActive b p) b)))) ∧
  -- lowestCandidate: R367
  (∀ (b : Blk) (p : Nat) (l : List Nat),
    candidates b = p :: l →
    ∀ q ∈ candidates b, p ≤ q) ∧
  -- leadElectedCopy: R367, R380
  (∀ (s : State) (dt : Nat) (e : Nat × Member) (b : Blk),
    b = s.blk.tick dt →
    inRing b = true ∧ b.ens.changedAt + b.rd F.ENS_CFG_SETTLE 0 * 1000000 ≤ b.now ∧ beneath b = false ∧ ensState b = 1 →
    ((b.ens.members.find? fun x => x.2.beacon.lead && x.1 != ownPos b) = some e) →
    exec (.leadElection dt) s = .next (s.withBlk (beginCopy (setLead e.1 b)))) ∧
  -- ensCueCheck: R378
  (∀ (s : State) (dt : Nat) (b : Blk),
    b = s.blk.tick dt →
    ensState b = 3 →
    (ensNext b ≤ b.now ∨ b.now + 50000 < ensNext b → exec (.ensCueCheck dt) s = .next (s.withBlk b)) ∧
      (b.now < ensNext b → ensNext b ≤ b.now + 50000 →
      exec (.ensCueCheck dt) s = .next (s.withBlk (forEach (ensArmed b (ensNext b)) (ensCheckOne (ensNext b)) b)))) ∧
  -- ensCueResult: R378
  (∀ (s : State) (dt refusers r : Nat) (q : GCheck) (b c : Blk),
    b = s.blk.tick dt →
    ((b.ens.checks.find? fun x => x.verdict.isNone) = some q) →
    (r = Nat.lor (refusers % 256) (if q.ok = true then 0 else 2 ^ ownPos b)) →
    (c = b.putEns { b.ens with checks := b.ens.checks.map fun x => if x.group = q.group then { x with verdict := some (r == 0) } else x }) →
    isLead (((c.wr F.ENS_GCUE_LAST_GROUP 0 q.group).wr F.ENS_GCUE_LAST_REFUSERS 0 r).put F.ENS_GCUE_LAST_REFUSED 0 (r != 0)) = false →
    exec (.ensCueResult dt refusers) s = .next (s.withBlk (((c.wr F.ENS_GCUE_LAST_GROUP 0 q.group).wr F.ENS_GCUE_LAST_REFUSERS 0 r).put
      F.ENS_GCUE_LAST_REFUSED 0 (r != 0)))) ∧
  -- joinCopyDone: R380
  (∀ (s : State) (dt : Nat) (b c : Blk),
    b = s.blk.tick dt →
    ensState b = 2 ∧ b.ens.copied = none →
    c = b.putEns { b.ens with copied := some (Nat.max b.now b.ens.boundary) } →
    exec (.joinCopyDone dt) s = .next (s.withBlk (joinAtBoundary c))) ∧
  -- joinedAtBoundary: R380, R383
  (∀ (t : Nat) (b c : Blk),
    b.ens.copied = some t ∧ ensState b = 2 →
    c = becomeMember (b.putEns { b.ens with copied := none }) →
    (b.now < t → joinAtBoundary b = b) ∧
      (t ≤ b.now → joinAtBoundary b = raise ensPage 0x100 sevNotice (ownPos c + 8 * c.rd F.ENS_STAT_LEVEL 0) (evB 0) c)) ∧
  -- ringIsolated: R382, R383
  (∀ (s : State) (dt l p : Nat) (t : List Nat) (b c : Blk),
    b = s.blk.tick dt →
    b.ens.lead = some l ∧ ensState b = 3 ∧ b.on F.ENS_STAT_ISOLATED 0 = false ∧ l ≠ ownPos b ∧ mget b.ens.members l = none →
    c = raise ensPage 0x105 sevError ((b.wr F.ENS_STAT_ISOLATED 0 1).rd F.ENS_STAT_MEMBERS 0) (evB 3) (b.wr F.ENS_STAT_ISOLATED 0 1) →
    candidates c = p :: t →
    exec (.ringIsolated dt) s = .next (s.withBlk (setLead (pairActive c p) c)))

/-- References: PTP messages and time-outs, house sync, 10 MHz and pulses, qualification, loss and jumps. For each command of
the clock references, the next state it leaves: PTP messages and time-outs, house sync, 10 MHz and pulses, qualification and
loss, jumps. -/
def Obligations.ReferenceCommands : Prop :=
  -- ptpSync: R273, R115, R277
  (∀ (s : State) (dt k : Nat) (t1 t2 adjust dco : Int) (b c : Blk) (x : RefSt),
    b = s.blk.tick dt →
    k < 4 ∧ rr b F.CLK_REF_CFG_EN k = 1 ∧ (b.ref k).master ≠ none ∧ b.on F.NIF_STAT_LINK (ptpPort b k) = true →
    t2 = (b.port (ptpPort b k)).ptpStamp →
    (x = { b.ref k with sync := some (t1, t2), syncNew := true, syncAt := b.now, syncGap := if (b.ref k).syncAt = 0 then 0 else b.now - (b.ref k).syncAt }) →
    c = b.putRef k x →
    exec (.ptpSync dt k t1 adjust dco) s = .next (s.withBlk (clkRefresh (completeExchange k (measured k
      (lessDelay b k (t1 + x.mpd - t2 + adjust)) dco c))))) ∧
  -- ptpSyncIgnored: R273
  (∀ (s : State) (dt k : Nat) (t1 adjust dco : Int) (b : Blk),
    b = s.blk.tick dt →
    4 ≤ k ∨ rr b F.CLK_REF_CFG_EN k = 0 ∨ (b.ref k).master = none ∨ b.on F.NIF_STAT_LINK (ptpPort b k) = false →
    exec (.ptpSync dt k t1 adjust dco) s = .next (s.withBlk b)) ∧
  -- jumpHeld: R277, R285
  (∀ (k : Nat) (off dco : Int) (b c : Blk),
    c = noteLocked (wrInt F.CLK_REF_OFFSET_OFFSET (k + 1) off (b.putRef k { b.ref k with offs := ((b.now, off) :: (b.ref k).offs).take 256 })) →
    refInUse c = some k ∧ clkState c = 3 ∧ stepT c < off.natAbs ∧ c.clk.jumpAt = none →
    measured k off dco b = { c with clk := { c.clk with jumpAt := some c.now } }) ∧
  -- ptpDelayReq: R273
  (∀ (s : State) (dt k m : Nat) (b c : Blk),
    b = s.blk.tick dt →
    k < 4 ∧ rr b F.CLK_REF_CFG_EN k = 1 ∧ (b.ref k).master = some m ∧ b.on F.NIF_STAT_LINK (ptpPort b k) = true →
    c = b.putRef k { b.ref k with dreqAt := some b.now } →
    exec (.ptpDelayReq dt k) s = .next (s.withBlk (c.emit (.net (rr c F.CLK_REF_PTP_NIF k) 5 [rr c F.CLK_REF_PTP_DOMAIN k,
      if rr b F.CLK_REF_PTP_PROFILE k = 0 ∧ rr b F.CLK_REF_PTP_DREQ_UNICAST k = 1 then m else 0, c.now,
      rr c F.CLK_REF_PTP_TRANSPORT k])))) ∧
  -- ptpDelayResp: R273
  (∀ (s : State) (dt k t3 : Nat) (t1 t2 t4 : Int) (b : Blk),
    b = s.blk.tick dt →
    (b.ref k).dreqAt = some t3 ∧ (b.ref k).sync = some (t1, t2) →
    exec (.ptpDelayResp dt k t4) s = .next (s.withBlk (clkRefresh (completeExchange k (b.putRef k { b.ref k with
      dreqAt := none, pairNew := true, mpd := ((t2 - t1) + (t4 - t3)) / 2 }))))) ∧
  -- ptpAnnounceFirst: R273, R276
  (∀ (s : State) (dt k : Nat) (a : Announce) (b : Blk),
    b = s.blk.tick dt →
    k < 4 ∧ rr b F.CLK_REF_CFG_EN k = 1 ∧ (b.ref k).masters = [] ∧ (b.ref k).master = none ∧ announceHeard b k a = true →
    exec (.ptpAnnounce dt k a) s = .next (s.withBlk (clkRefresh (b.putRef k { b.ref k with masters := [⟨a, b.now, none⟩] })))) ∧
  -- announceTimeout: R276
  (∀ (s : State) (dt k : Nat) (m : Foreign) (b : Blk),
    b = s.blk.tick dt →
    (((b.ref k).masters.find? fun (q : Foreign) => some q.ann.sender == (b.ref k).master) = some m) →
    (m.at_ + rr b F.CLK_REF_PTP_ANN_TO k * m.ann.interval ≤ b.now → exec (.announceTimeout dt k) s = .next (s.withBlk (clkRefresh (disqualify k 2
      (b.putRef k { b.ref k with master := none, masters := (b.ref k).masters.filter fun (q : Foreign) => q.ann.sender != m.ann.sender }))))) ∧
      (b.now < m.at_ + rr b F.CLK_REF_PTP_ANN_TO k * m.ann.interval → exec (.announceTimeout dt k) s = .next (s.withBlk b))) ∧
  -- exchangeTimeout: R276
  (∀ (s : State) (dt k : Nat) (b : Blk),
    b = s.blk.tick dt →
    k < 4 →
    ((b.ref k).exch.headD 0 + 2000000000 ≤ b.now → exec (.exchangeTimeout dt k) s = .next (s.withBlk (clkRefresh (disqualify k 1 b)))) ∧
      (b.now < (b.ref k).exch.headD 0 + 2000000000 → exec (.exchangeTimeout dt k) s = .next (s.withBlk b))) ∧
  -- houseSyncGood: R276, R274
  (∀ (s : State) (dt q : Nat) (filtered dco : Int) (b c : Blk),
    b = s.blk.tick dt →
    rr b F.CLK_REF_CFG_EN 4 = 1 ∧ q = rr b F.CLK_REF_CFG_QUALITY 4 →
    c = setQuality 4 q (q / 16) (q % 16) (b.putRef 4 { b.ref 4 with missing := 0 }) →
    exec (.houseSyncFrame dt true filtered dco) s = .next (s.withBlk (clkRefresh (measured 4 (reduceBy (lessDelay c 4 filtered) (houseFrame (rr c F.CLK_REF_IN_FORMAT 4))) dco (refOk 4 c))))) ∧
  -- houseSyncMissing: R276
  (∀ (s : State) (dt : Nat) (filtered dco : Int) (b c : Blk),
    b = s.blk.tick dt →
    rr b F.CLK_REF_CFG_EN 4 = 1 →
    c = b.putRef 4 { b.ref 4 with missing := (b.ref 4).missing + 1 } →
    exec (.houseSyncFrame dt false filtered dco) s = .next (s.withBlk (clkRefresh (if 4 ≤ (b.ref 4).missing + 1 then disqualify 4 1 c
      else if (b.ref 4).qualified = true then c else refBroken 4 c)))) ∧
  -- f10mLost: R276
  (∀ (s : State) (dt : Nat) (dco : Int) (b : Blk),
    b = s.blk.tick dt →
    exec (.f10mLoss dt true dco) s = .next (s.withBlk (clkRefresh (disqualify 5 1 (b.putRef 5 { b.ref 5 with tenMHz := false }))))) ∧
  -- f10mBack: R276, R274
  (∀ (s : State) (dt : Nat) (dco : Int) (b c : Blk),
    b = s.blk.tick dt →
    c = b.putRef 5 { b.ref 5 with tenMHz := true } →
    (rr c F.CLK_REF_CFG_EN 5 = 1 → ppsEn c = false → exec (.f10mLoss dt false dco) s = .next (s.withBlk (clkRefresh (measured 5 0 dco (f10mOk c))))) ∧
      (rr c F.CLK_REF_CFG_EN 5 = 0 ∨ ppsEn c = true → exec (.f10mLoss dt false dco) s = .next (s.withBlk c))) ∧
  -- ppsPulse: R276
  (∀ (s : State) (dt count q : Nat) (filtered dco : Int) (b c : Blk),
    b = s.blk.tick dt →
    rr b F.CLK_REF_CFG_EN 5 = 1 ∧ ppsEn b = true ∧ (b.ref 5).tenMHz = true →
    q = rr b F.CLK_REF_CFG_QUALITY 5 ∧ 9999999 ≤ count ∧ count ≤ 10000001 →
    c = setQuality 5 q (q / 16) (q % 16) (b.putRef 5 { b.ref 5 with pulseAt := b.now, off := 0 }) →
    exec (.ppsPulse dt count filtered dco) s = .next (s.withBlk (clkRefresh (measured 5 (reduceBy (lessDelay c 5 filtered) (1, 1)) dco (refOk 5 c))))) ∧
  -- ppsTimeout: R276
  (∀ (s : State) (dt : Nat) (b : Blk),
    b = s.blk.tick dt →
    ppsEn b = true →
    ((b.ref 5).pulseAt + 1500000000 ≤ b.now → exec (.ppsTimeout dt) s = .next (s.withBlk (clkRefresh (disqualify 5 1 b)))) ∧
      (b.now < (b.ref 5).pulseAt + 1500000000 → exec (.ppsTimeout dt) s = .next (s.withBlk b))) ∧
  -- refQualified: R276
  (∀ (s : State) (dt k t : Nat) (b c : Blk),
    b = s.blk.tick dt →
    (b.ref k).okSince = some t ∧ rr b F.CLK_REF_CFG_EN k = 1 ∧ (b.ref k).qualified = false ∧ rr b F.CLK_REF_STAT_DRIFT_DQ k = 0 →
    (t + (if 6 ≤ k then 1000000000 else rr b F.CLK_REF_TOL_QUAL_T k * 1000000000) ≤ b.now) →
    c = setEvt (refPage k) (evB 0) (raise clkPage 0x108 sevInfo k 0 (b.putRef k { b.ref k with qualified := true, ys := [] })) →
    exec (.refQualified dt k) s = .next (s.withBlk (clkRefresh (if refInUse c = none then { c with clk := { c.clk with runDue := true } } else c)))) ∧
  -- refDisqualified: R276
  (∀ (s : State) (dt k cause : Nat) (freq : Int) (a b c d : Blk),
    a = s.blk.tick dt →
    (b = if cause = 4 then pullRange k freq a else a) →
    disqualHolds b k cause = true ∧ (b.ref k).qualified = true ∧ cause ≠ 0 →
    c = (b.putRef k { b.ref k with okSince := none, qualified := false }).bump F.CLK_REF_COUNT_LOSSES (k + 1) →
    (d = setEvt (refPage k) (evB 1) (raise clkPage 0x109 (if (refInUse c == some k) = true then sevWarning else sevNotice) (k + 8 * cause) 0 c)) →
    exec (.refDisqualified dt k cause freq) s = .next (s.withBlk (clkRefresh (if (refInUse c == some k) = true then
      { d with clk := { d.clk with runDue := true, lost := true } } else d)))) ∧
  -- refJump: R277
  (∀ (s : State) (dt : Nat) (b : Blk),
    b = s.blk.tick dt →
    (jumped b = true → b.clk.jumpAt = none → exec (.refJump dt) s = .next (s.withBlk { b with clk := { b.clk with jumpAt := some b.now } })) ∧
      (jumped b = false → exec (.refJump dt) s = .next (s.withBlk b))) ∧
  -- jumpTimeout: R277
  (∀ (s : State) (dt t k : Nat) (b : Blk),
    b = s.blk.tick dt →
    b.clk.jumpAt = some t ∧ refInUse b = some k ∧ jumped b = true →
    (t + 2000000000 ≤ b.now → exec (.jumpTimeout dt) s = .next (s.withBlk (clkRefresh (disqualify k 6 { b with clk := { b.clk with jumpAt := none } })))) ∧
      (b.now < t + 2000000000 → exec (.jumpTimeout dt) s = .next (s.withBlk b)))

/-- The selector, clock states, steps of stage time, holdover, learning, the drift guard, time of day and leap seconds. For
each command of the clock, the next state it leaves: a run of the selector, the lock, the oven, holdover and its end,
learning, the drift guard, a step of the time of day, and leap seconds; and the rules they follow. -/
def Obligations.ClockCommands : Prop :=
  -- selectorRun: R278
  (∀ (s : State) (dt : Nat) (b : Blk),
    b = s.blk.tick dt →
    (b.clk.runDue = true ∨ b.clk.ranAt + 1000000000 ≤ b.now → exec (.selectorRun dt) s = .next (s.withBlk (selectorRun b))) ∧
      (b.clk.runDue = false → b.now < b.clk.ranAt + 1000000000 → exec (.selectorRun dt) s = .next (s.withBlk b))) ∧
  -- selectorChoice: R278, R279, R282
  (∀ (b : Blk) (left cands : List Nat),
    (2 ≤ b.rd F.CLK_CFG_MODE 0 → choose b left cands = (none, 4)) ∧
      (b.rd F.CLK_CFG_MODE 0 = 1 → cands.contains (b.rd F.CLK_CFG_FORCE_REF 0) = true → choose b left cands = (some (b.rd F.CLK_CFG_FORCE_REF 0), 4)) ∧
      (b.rd F.CLK_CFG_MODE 0 = 1 → cands.contains (b.rd F.CLK_CFG_FORCE_REF 0) = false → choose b left cands = (none, 4)) ∧
      (b.rd F.CLK_CFG_MODE 0 = 0 → isMember b = true → isLead b = false → cands.contains 7 = true → choose b left cands = (some 7, 5)) ∧
      (b.rd F.CLK_CFG_MODE 0 = 0 → isMember b = false → b.rd F.SYS_ROLE_ROLE 0 ≠ 2 → choose b left cands = (byPriority b left, 2))) ∧
  -- clockLocked: R282
  (∀ (s : State) (dt k t : Nat) (b : Blk),
    b = s.blk.tick dt →
    refInUse b = some k ∧ b.clk.nearSince = some t ∧ clkState b = 2 ∧ t + (lockLimit k).2 ≤ b.now →
    exec (.clockLocked dt) s = .next (s.withBlk (clkRefresh (setClock 3 b)))) ∧
  -- lockLimits: R282
  (∀ (k : Nat),
    k < 8 →
    lockLimit k = if k < 4 then (1000, 60000000000) else if k < 6 then (100, 10000000000) else (20, 1000000000)) ∧
  -- ocxoReady: R282, R293
  (∀ (s : State) (dt : Nat) (b c : Blk),
    b = s.blk.tick dt →
    c = setClock 1 (b.wr F.CLK_OCXO_WARM 0 1) →
    (clkState (b.wr F.CLK_OCXO_WARM 0 1) = 0 → exec (.ocxoReady dt) s = .next (s.withBlk (clkRefresh (if (refInUse c).isSome = true ∧ c.rd F.CLK_CFG_MODE 0 < 2 then
      setClock 2 c else c)))) ∧
      (clkState (b.wr F.CLK_OCXO_WARM 0 1) ≠ 0 → exec (.ocxoReady dt) s = .next (s.withBlk (b.wr F.CLK_OCXO_WARM 0 1)))) ∧
  -- pullInStep: R283
  (∀ (s : State) (dt k : Nat) (off : Int) (b c : Blk),
    b = s.blk.tick dt →
    (refInUse b = some k ∧ clkState b = 2 ∧ b.clk.pulled = false ∧ (if k < 4 then 4 ≤ (b.ref k).since else b.clk.acqAt + 1000000000 ≤ b.now)) →
    off = rdInt b F.CLK_REF_OFFSET_OFFSET (k + 1) →
    c = { b with clk := { b.clk with pulled := true } } →
    exec (.pullIn dt) s = .next (s.withBlk (clkRefresh (let d := if b.on F.CLK_CFG_STEP_EN 0 = true ∧ stepT b < off.natAbs then stageStep off c else c
      if k < 4 ∨ 6 ≤ k then d.wr F.CLK_STAT_TOD_VALID 0 1 else d)))) ∧
  -- steppedFrame: R284
  (∀ (d : Int) (f : Frame) (t : Nat),
    (f.shift d).arr = shiftT d f.arr ∧ (f.shift d).basis = shiftT d f.basis ∧ (f.shift d).cap = f.cap ∧ (0 ≤ d → shiftT d t = t + d.toNat) ∧ (d < 0 → shiftT d t = t - (-d).toNat)) ∧
  -- holdoverUpdate: R288
  (∀ (s : State) (dt : Nat) (b c : Blk),
    b = s.blk.tick dt →
    (clkState b = 4 ∨ clkState b = 5) ∧ b.clk.updAt + 1000000000 ≤ b.now →
    c = { b with clk := { b.clk with updAt := b.now } } →
    exec (.holdoverUpdate dt) s = .next (s.withBlk ((setDco (rdInt b F.CLK_DCO_HO_FREQ 0 + comp b (ocxoTemp b) - comp b b.clk.hoTemp + ageing b (b.now - b.clk.hoAt)) c).wr
      F.CLK_HO_TIME_INTERVAL 0 (Nat.min (2 ^ 24 - 1) ((b.now - b.clk.hoAt) / 1000000000))))) ∧
  -- holdoverExpired: R282
  (∀ (s : State) (dt : Nat) (b : Blk),
    b = s.blk.tick dt →
    clkState b = 4 →
    (b.rd F.CLK_HO_QUAL_INTERVAL 0 ≤ (b.now - b.clk.hoAt) / 1000000000 → exec (.holdoverExpired dt) s = .next (s.withBlk (clkRefresh (setClock 5
      (b.wr F.CLK_HO_TIME_INTERVAL 0 (Nat.min (2 ^ 24 - 1) ((b.now - b.clk.hoAt) / 1000000000))))))) ∧
      ((b.now - b.clk.hoAt) / 1000000000 < b.rd F.CLK_HO_QUAL_INTERVAL 0 → exec (.holdoverExpired dt) s = .next (s.withBlk b))) ∧
  -- tempBinUpdate: R289
  (∀ (s : State) (dt i n : Nat) (v : Int) (b : Blk),
    b = s.blk.tick dt →
    clkState b = 3 ∧ watching b = false ∧ b.clk.binAt + 16000000000 ≤ b.now ∧ binOf (ocxoTemp b) = some i →
    (v, n) = mgetD b.clk.bins i (256 * (dcoNow b - ageing b (b.now - b.clk.ageAt)), 0) →
    exec (.tempBinUpdate dt) s = .next (s.withBlk (clkRefresh { b with clk := { b.clk with binAt := b.now, bins := mset b.clk.bins i (v + (256 * (dcoNow b - ageing b (b.now - b.clk.ageAt)) - v) / 256, n + 1) } }))) ∧
  -- ageingFirst: R290
  (∀ (s : State) (dt : Nat) (b : Blk),
    b = s.blk.tick dt →
    clkState b = 3 ∧ b.clk.ages = [] ∧ b.clk.rValid = false →
    exec (.ageingSample dt) s = .next (s.withBlk (clkRefresh { b with clk := { b.clk with ages := [(b.now, dcoNow b - comp b (ocxoTemp b))] } }))) ∧
  -- learningSave: R291
  (∀ (s : State) (dt : Nat) (b : Blk),
    b = s.blk.tick dt →
    (b.clk.savedAt.getD 0 + 86400000000000 ≤ b.now → exec (.learningSave dt) s = .next (s.withBlk (learningSave b))) ∧
      (b.now < b.clk.savedAt.getD 0 + 86400000000000 → exec (.learningSave dt) s = .next (s.withBlk b)) ∧
      savedHours (learningSave b) = 0) ∧
  -- learningRestore: R291
  (∀ (s : State) (dt : Nat) (r : Int) (bins : List (Nat × Int × Nat)) (b c : Blk),
    b = s.blk.tick dt →
    b.clk.saved = some (bins, r) ∧ b.clk.waiting = true ∧ clkState b = 3 ∧ b.clk.lockedAt + 600000000000 ≤ b.now →
    (c = { b with clk := { b.clk with waiting := false, bins := bins.map fun (e : Nat × Int × Nat) => (e.1, e.2.1, e.2.2), rValid := true, ageAt := b.now } }) →
    ((dcoNow b - comp c (ocxoTemp b)).natAbs ≤ 50000 → exec (.learningRestore dt) s = .next (s.withBlk
      (raise clkPage 0x10C sevInfo 1 0 (clkRefresh (wrInt F.CLK_AGEING_RATE 0 r c))))) ∧
      (50000 < (dcoNow b - comp c (ocxoTemp b)).natAbs → exec (.learningRestore dt) s = .next (s.withBlk
      (raise clkPage 0x10C sevInfo 3 0 { b with clk := { b.clk with waiting := false } })))) ∧
  -- driftCalm: R294, R295
  (∀ (s : State) (dt k : Nat) (y : Int) (b : Blk),
    b = s.blk.tick dt →
    rr b F.CLK_REF_CFG_EN k = 0 ∨ rr b F.CLK_REF_CFG_DG_EN k = 0 ∨ b.now < (b.ref k).sampleAt + 16000000000 →
    exec (.driftSample dt k y) s = .next (s.withBlk b)) ∧
  -- driftSample: R294, R295
  (∀ (s : State) (dt k : Nat) (y : Int) (b : Blk),
    b = s.blk.tick dt →
    rr b F.CLK_REF_CFG_EN k = 1 ∧ rr b F.CLK_REF_CFG_DG_EN k = 1 ∧ (b.ref k).qualified = true ∧ (b.ref k).sampleAt + 16000000000 ≤ b.now →
    rr b F.CLK_REF_STAT_DRIFT_DQ k = 0 ∧ (b.ref k).ys = [] ∧ (rr b F.CLK_REF_TOL_TOL k * 10 ≤ y.natAbs) ∧ k < 8 →
    ∃ (c d : Blk), exec (.driftSample dt k y) s = .next (s.withBlk (clkRefresh ((disqualify k 0 c).putRef k { (disqualify k 0 c).ref k with calmSince := none }))) ∧
      c = raise clkPage 0x107 sevError k (evB 4) (d.put F.CLK_REF_STAT_DRIFT_DQ (k + 1) true) ∧ (d.ref k).ys = [y] ∧ (d.ref k).sampleAt = b.now ∧
      d.rd F.CLK_REF_FREQ_FREQ (k + 1) = enc 32 y % 2 ^ 32) ∧
  -- todStepApply: R297
  (∀ (s : State) (dt n sec : Nat) (b c : Blk),
    b = s.blk.tick dt →
    b.clk.tod = some (n, sec) →
    c = { b with clk := { b.clk with tod := none } } →
    (n * 1000000000 ≤ b.now → exec (.todStepApply dt) s = .next (s.withBlk (clkRefresh ((stageStep ((sec : Int) * 1000000000 - n * 1000000000) c).wr
      F.CLK_STAT_TOD_VALID 0 1)))) ∧
      (b.now < n * 1000000000 → exec (.todStepApply dt) s = .next (s.withBlk b))) ∧
  -- leapAdjust: R298
  (∀ (s : State) (dt k : Nat) (b : Blk),
    b = s.blk.tick dt →
    refInUse b = some k ∧ k < 4 ∧ b.clk.leap ≠ 0 →
    (b.clk.leapDay < (((b.now / 1000000000 : Nat) : Int) - rdInt b F.CLK_UTC_ACT 0 + (if b.clk.leap < 0 then 1 else 0)) / 86400 →
      exec (.leapAdjust dt) s = .next (s.withBlk (refreshUtc { b with clk := { b.clk with leapAdj := b.clk.leapAdj + b.clk.leap, leap := 0 } }))) ∧
      ((((b.now / 1000000000 : Nat) : Int) - rdInt b F.CLK_UTC_ACT 0 + (if b.clk.leap < 0 then 1 else 0)) / 86400 ≤ b.clk.leapDay →
      exec (.leapAdjust dt) s = .next (s.withBlk b)))

/-- A reset of host port A touches nothing else, and a message that cannot be sent is held and sent later. A reset of host
port A completes and leaves its link down, bus mastering disabled and its message table cleared (that the table is cleared is
the model's choice, log entry 5), and every other part of the state, every page and the ERR ring among it, as it was; a
message that cannot be sent for want of the link or bus mastering is not sent but held as a pending bit, with the bits held
before; when both allow it, every pending message is sent and none stays pending, and otherwise all stay. -/
def Obligations.HostPortResetKeepsTheRest : Prop :=
  -- hostPortResetOnly: R42
  (∀ (s : State) (dt : Nat),
    exec (.hostPortReset dt) s = .next (s.withBlk { s.blk.tick dt with
      ctl := { s.blk.ctl with hostUp := false, busMaster := false, msixTable := [] } })) ∧
  -- messageHeld: R42
  (∀ (b : Blk) (v : Nat),
    b.ctl.hostUp = false ∨ b.ctl.busMaster = false →
    (sendVector v b).out = b.out ∧ v ∈ (sendVector v b).ctl.msixPending ∧
      (∀ w, w ∈ b.ctl.msixPending → w ∈ (sendVector v b).ctl.msixPending) ∧ (sendVector v b).regs = b.regs ∧ (sendVector v b).rest = b.rest) ∧
  -- messagesSent: R42
  (∀ (s : State) (dt : Nat) (up bme : Bool),
    ∃ t, exec (.msixPendingSend dt up bme) s = .next t ∧ t.blk.ctl.hostUp = up ∧ t.blk.ctl.busMaster = bme ∧
      ((up && bme) = true → t.blk.ctl.msixPending = [] ∧ t.blk.out = s.blk.ctl.msixPending.map .msix) ∧
      ((up && bme) = false → t.blk.ctl.msixPending = s.blk.ctl.msixPending ∧ t.blk.out = []) ∧
      t.blk.regs = s.blk.regs ∧ t.store = s.store)

/-- A status value wider than 32 bits is captured when its lowest word is read, and its higher words return that capture.
Where a status value spans n > 1 words, a read of its lowest word answers that word and keeps all n words as they are then,
changing nothing else; a read of a higher word, in any later state that still holds that capture, answers the captured word
and changes nothing; and outside the violation log's windows the span of a word is that of the status field wider than 32 bits
that holds it. -/
def Obligations.WideStatusIsOneSnapshot : Prop :=
  -- snapshotTaken: R24
  (∀ (b : Blk) (a n k : Nat),
    statusSpan a = (a, n) →
    1 < n ∧ k < n →
    (readSnap a b).2 = readPure b a ∧ mget (readSnap a b).1.ctl.snaps (a + 4 * k) = some (readPure b (a + 4 * k)) ∧
      (readSnap a b).1 = { b with ctl := { b.ctl with snaps := (readSnap a b).1.ctl.snaps } }) ∧
  -- snapshotRead: R24
  (∀ (b c : Blk) (a n k : Nat),
    statusSpan a = (a, n) →
    statusSpan (a + 4 * k) = (a, n) →
    1 < n ∧ 0 < k ∧ k < n →
    c.ctl.snaps = (readSnap a b).1.ctl.snaps →
    readSnap (a + 4 * k) c = (c, readPure b (a + 4 * k))) ∧
  -- wideStatus: R24
  (∀ (a : Nat) (p : Page) (o : Nat) (h : Hit),
    target a = .page p o →
    ¬ (p.blk = .acg ∧ p.inst = 3) ∧ ¬ (p.blk = .acg ∧ p.inst = 0 ∧ 0x70 ≤ o ∧ o < 0x80) ∧ ¬ (p.blk = .err ∧ 0x70 ≤ o ∧ o < 0x80) ∧
      ¬ (p.blk = .sys ∧ 0x50 ≤ o ∧ o < 0x58) →
    ((hitsAt a).find? (fun h => h.f.acc == .ro && Nat.blt 1 h.f.words) = some h) →
    statusSpan a = (a - 4 * h.j, h.f.words)) ∧
  -- wideRecords: R24
  (∀ (k : Nat),
    k < 4 →
    statusSpan (0x20070 + 4 * k) = (0x20070, 4) ∧ statusSpan (0x10070 + 4 * k) = (0x10070, 4) ∧ (k < 2 → statusSpan (0x50 + 4 * k) = (0x50, 2)))

/-- The second opinion: the table, that both modules reach the same decision, and what a decision brings. With a dispute and a
second path, SECOND_OPINION completes with outcome 1 if Xn = Yn, else 2 if Xs = Ys = Yn, else 3 if Xs = Ys = Xn, else 4; two
modules that hold the same dispute and exchange the same four signatures, each with itself as X, decide alike: one finds 1 or
4 exactly when the other does, and one finds itself wrong exactly when the other finds its partner wrong. A decision is noted
in PAIR_SO_LAST and event 0x0108, at severity critical for outcomes 2 and 3 and notice for 1 and 4; for outcome 2 the
understudy clears READY and sets DR_FAULT, and the active module with SO_ACTION begins a planned takeover of cause 6. -/
def Obligations.BothModulesReachTheSameOpinion : Prop :=
  -- opinionTable: R353
  (∀ (s : State) (dt xn xs yn ys st t e : Nat) (b : Blk),
    b = s.blk.tick dt →
    b.pr.dispute = some (st, t, e) →
    b.pr.opinion = some (xn, xs, yn, ys) →
    exec (.secondOpinion dt) s = .next (s.withBlk (decideOpinion st t
      (if xn = yn then 1 else if xs = ys ∧ ys = yn then 2 else if xs = ys ∧ ys = xn then 3 else 4) b))) ∧
  -- opinionSets: R352, R353
  (∀ (b : Blk) (st t e : Nat) (x : OwnSet) (y : Rehearsal) (xs ys : Nat),
    b.pr.dispute = some (st, t, e) →
    x.set.so = some (t, xs) ∧ y.so = some (t, ys) →
    tileCompared x y t = true →
    opinionOf b st x y = some (x.set.sigs.getD t 0, xs, y.sigs.getD t 0, ys)) ∧
  -- opinionsAgree: R353
  (∀ (x y u v : State) (dt du xn xs yn ys st t e f : Nat),
    (x.blk.tick dt).pr.dispute = some (st, t, e) ∧ (y.blk.tick du).pr.dispute = some (st, t, f) →
    (x.blk.tick dt).pr.opinion = some (xn, xs, yn, ys) ∧ (y.blk.tick du).pr.opinion = some (yn, ys, xn, xs) →
    exec (.secondOpinion dt) x = .next u ∧ exec (.secondOpinion du) y = .next v →
    (u.blk.rd F.PAIR_SO_LAST_OUTCOME 0 = 1 ↔ v.blk.rd F.PAIR_SO_LAST_OUTCOME 0 = 1) ∧
      (u.blk.rd F.PAIR_SO_LAST_OUTCOME 0 = 2 ↔ v.blk.rd F.PAIR_SO_LAST_OUTCOME 0 = 3) ∧
      (u.blk.rd F.PAIR_SO_LAST_OUTCOME 0 = 3 ↔ v.blk.rd F.PAIR_SO_LAST_OUTCOME 0 = 2) ∧
      (u.blk.rd F.PAIR_SO_LAST_OUTCOME 0 = 4 ↔ v.blk.rd F.PAIR_SO_LAST_OUTCOME 0 = 4)) ∧
  -- opinionBrings: R353
  (∀ (st t : Nat) (b c : Blk),
    c = opinionNoted st t 2 sevCritical b →
    (role c = roUnderstudy → (decideOpinion st t 2 b).rd F.PAIR_STAT_READY 0 = 0 ∧ (decideOpinion st t 2 b).rd F.PAIR_STAT_DR_FAULT 0 = 1) ∧
      (role c = roActive → c.on F.PAIR_CFG_SO_ACTION 0 = true → decideOpinion st t 2 b = beginPlanned 6 c) ∧
      (decideOpinion st t 1 b = opinionNoted st t 1 sevNotice b) ∧ (decideOpinion st t 4 b = opinionNoted st t 4 sevNotice b) ∧
      (decideOpinion st t 3 b = opinionNoted st t 3 sevCritical b))

/-- A layer of a live class is LIVE only with a frame on display that is young, not frozen and free of damage. If the verdict
judged for a layer of a live class is LIVE, there is a frame on display, the time is before its late, stale and dark
deadlines, the layer is not frozen, no tile of the frame is lost or concealed, it is no substitute and it is not decimated;
and the same holds of a placement that judging anew leaves LIVE. -/
def Obligations.LiveOnlyOnEvidence : Prop :=
  -- liveNeedsEvidence: R71
  (∀ (now cls decim : Nat) (L : LayerSt) (d : Option Frame),
    cls ≠ 2 →
    (judge now cls L decim d).1 = 1 →
    L.frozen = false ∧ decim = 0 ∧ ∃ f, d = some f ∧ now < f.late ∧ now < f.stale ∧ (∀ t, f.dark = some t → now < t) ∧
      f.loss = [] ∧ f.conceal = [] ∧ f.subst = false) ∧
  -- rejudgedLive: R71
  (∀ (b c : Blk) (st k cause at_ time : Nat) (force mid : Bool) (p q : Place),
    b.place st k = some p →
    (layerPol (b.viewed st) p.layer).cls ≠ 2 →
    c = rejudge st k cause force mid at_ time b →
    c.place st k = some q ∧ q.verdict = 1 →
    (b.layer p.layer).frozen = false ∧ p.shownDecim = 0 ∧ ∃ f, p.shown = some f ∧ at_ < f.late ∧ f.loss = [] ∧ f.conceal = [] ∧ f.subst = false)

/-- A verdict is the worst of its time, content and damage components, and is one of them. The verdict judged is one of its
time, content and damage components, and its rank in the order of R73 is the worst of their ranks; the content component is
FROZEN exactly while a live layer is held frozen, and the damage component DEGRADED exactly while a cause of damage holds. -/
def Obligations.VerdictIsTheWorstComponent : Prop :=
  -- worstOfThree: R86
  (∀ (now cls decim : Nat) (L : LayerSt) (d : Option Frame),
    vrank (judge now cls L decim d).1 = Nat.max (vrank (timePart now cls d).1)
      (Nat.max (vrank (if L.frozen && cls != 2 then 4 else 1)) (vrank (if damageWhy decim d = 0 then 1 else 5))) ∧
      ((judge now cls L decim d).1 = (timePart now cls d).1 ∨ ((judge now cls L decim d).1 = 4 ∧ L.frozen = true) ∨
      ((judge now cls L decim d).1 = 5 ∧ damageWhy decim d ≠ 0)))

/-- The settings of the named CRCs give their check values over the nine bytes "123456789". A check-value unit with the
settings of CRC-32, CRC-32C, CRC-16, CRC-64 or CRC-8, and FOLD 0, over the nine ASCII bytes 123456789, gives the check value
of the table: 0xCBF43926, 0xE3069283, 0x29B1, 0x995DC9BBDF1939FA and 0xF4. -/
def Obligations.NamedCheckValues : Prop :=
  -- checkCrc32: R402
  (∀ (b : Blk) (m : FrameStore) (u : Nat) (r : CrcRun),
    b.rd F.CRC_CFG_WIDTH u = 2 ∧ b.rd F.CRC_POLY_VALUE u = 0x4c11db7 ∧ b.rd F.CRC_INIT_VALUE u = 0xffffffff ∧ b.rd F.CRC_XOROUT_VALUE u = 0xffffffff →
    b.rd F.CRC_CFG_REFIN u = 1 ∧ b.rd F.CRC_CFG_REFOUT u = 1 ∧ b.rd F.CRC_CFG_FOLD u = 0 →
    crcInput b m u r = [0x31, 0x32, 0x33, 0x34, 0x35, 0x36, 0x37, 0x38, 0x39] →
    crcResult b m u r = 0xcbf43926) ∧
  -- checkCrc32c: R402
  (∀ (b : Blk) (m : FrameStore) (u : Nat) (r : CrcRun),
    b.rd F.CRC_CFG_WIDTH u = 2 ∧ b.rd F.CRC_POLY_VALUE u = 0x1edc6f41 ∧ b.rd F.CRC_INIT_VALUE u = 0xffffffff ∧ b.rd F.CRC_XOROUT_VALUE u = 0xffffffff →
    b.rd F.CRC_CFG_REFIN u = 1 ∧ b.rd F.CRC_CFG_REFOUT u = 1 ∧ b.rd F.CRC_CFG_FOLD u = 0 →
    crcInput b m u r = [0x31, 0x32, 0x33, 0x34, 0x35, 0x36, 0x37, 0x38, 0x39] →
    crcResult b m u r = 0xe3069283) ∧
  -- checkCrc16: R402
  (∀ (b : Blk) (m : FrameStore) (u : Nat) (r : CrcRun),
    b.rd F.CRC_CFG_WIDTH u = 1 ∧ b.rd F.CRC_POLY_VALUE u = 0x1021 ∧ b.rd F.CRC_INIT_VALUE u = 0xffff ∧ b.rd F.CRC_XOROUT_VALUE u = 0x0 →
    b.rd F.CRC_CFG_REFIN u = 0 ∧ b.rd F.CRC_CFG_REFOUT u = 0 ∧ b.rd F.CRC_CFG_FOLD u = 0 →
    crcInput b m u r = [0x31, 0x32, 0x33, 0x34, 0x35, 0x36, 0x37, 0x38, 0x39] →
    crcResult b m u r = 0x29b1) ∧
  -- checkCrc64: R402
  (∀ (b : Blk) (m : FrameStore) (u : Nat) (r : CrcRun),
    b.rd F.CRC_CFG_WIDTH u = 3 ∧ b.rd F.CRC_POLY_VALUE u = 0x42f0e1eba9ea3693 ∧ b.rd F.CRC_INIT_VALUE u = 0xffffffffffffffff ∧ b.rd F.CRC_XOROUT_VALUE u = 0xffffffffffffffff →
    b.rd F.CRC_CFG_REFIN u = 1 ∧ b.rd F.CRC_CFG_REFOUT u = 1 ∧ b.rd F.CRC_CFG_FOLD u = 0 →
    crcInput b m u r = [0x31, 0x32, 0x33, 0x34, 0x35, 0x36, 0x37, 0x38, 0x39] →
    crcResult b m u r = 0x995dc9bbdf1939fa) ∧
  -- checkCrc8: R402
  (∀ (b : Blk) (m : FrameStore) (u : Nat) (r : CrcRun),
    b.rd F.CRC_CFG_WIDTH u = 0 ∧ b.rd F.CRC_POLY_VALUE u = 0x7 ∧ b.rd F.CRC_INIT_VALUE u = 0x0 ∧ b.rd F.CRC_XOROUT_VALUE u = 0x0 →
    b.rd F.CRC_CFG_REFIN u = 0 ∧ b.rd F.CRC_CFG_REFOUT u = 0 ∧ b.rd F.CRC_CFG_FOLD u = 0 →
    crcInput b m u r = [0x31, 0x32, 0x33, 0x34, 0x35, 0x36, 0x37, 0x38, 0x39] →
    crcResult b m u r = 0xf4)

/-- A refused access changes nothing but its own record: no register of its target, no byte of the frame store, no other
state. A register write that access control refuses completes with no register changed but the violation's own (count, first
violation, log index) and those of its event, and nothing beside registers and event storage changed but the violation log; a
refused read answers 0, says that it was refused and changes no other register; a refused frame-store access leaves the frame
store and changes the registers as the violation does. -/
def Obligations.RefusedAccessHasNoEffect : Prop :=
  -- refusedWrite: R411, R412, R414
  (∀ (s : State) (dt mid addr data k : Nat) (b : Blk),
    b = s.blk.tick dt →
    mapped (addr / 4 * 4) = true →
    b.rd F.PAIR_EPOCH_FILL_HELD 0 = 0 →
    regCheck b mid (addr / 4 * 4) true = some k →
    ∃ c l, exec (.registerWrite dt mid false addr [(data, 15)] false) s = .next (s.withBlk (announce b c s.store)) ∧
      b.holds c [acgPage] violKeys ∧ c.rest = ({ b with acg := { b.acg with log := l } } : Blk).rest) ∧
  -- refusedRead: R411, R414
  (∀ (b : Blk) (port mid addr k : Nat),
    mapped (addr / 4 * 4) = true →
    regCheck b mid (addr / 4 * 4) false = some k →
    busRead port mid addr b = (regViolation port mid (addr / 4 * 4) k b, 0, true) ∧
      b.holds (busRead port mid addr b).1 [acgPage] violKeys) ∧
  -- refusedStoreAccess: R413, R414
  (∀ (s t : State) (dt mid a n flips skew : Nat) (write beaten : Bool) (l : List Nat) (b : Blk),
    b = s.blk.tick dt →
    (fsGranted b mid (storeAddr mid a b) write = false ∧ (mid = 0x01 → b.rd F.SYS_FSWIN_BASE 0 < usable b / 2 ^ 28)) →
    mid ≠ 0x14 →
    exec (.memAccess dt mid a n write false l flips skew beaten) s = .next t →
    t.store = s.store ∧ t.blk.regs = (fsViolation (fsPort mid) mid (storeAddr mid a b) (b2n write) b).regs)

/-- Recording an event changes the header of its page, the ERR page, the event stores and, if fatal, the role, and nothing
else. The arrival of an event record on a page completes, changes no register but that page's header, the ERR page and
SYS_ROLE, and nothing beside registers but the event stores and what is sent; and a register beyond the ERR page that is not
in that page's header reads as before. -/
def Obligations.RecordingAnEventChangesOnlyEventState : Prop :=
  -- eventRecordFrame: R57, R65, R69
  (∀ (s : State) (dt page code sev detail mid : Nat) (p : Page),
    pageOfSlot page = some p →
    sev ≤ 5 →
    ∃ c, exec (.errRecordArrival dt page code sev detail mid) s = .next (s.withBlk c) ∧ (s.blk.tick dt).moved c [p] []) ∧
  -- eventRecordOther: R65
  (∀ (s : State) (dt page code sev detail mid : Nat) (p : Page) (f : Fld) (i k : Nat),
    pageOfSlot page = some p →
    sev ≤ 5 →
    17 ≤ f.key i k / 131072 →
    f.key i k / 131072 ≠ p.slot ∨ 2048 ≤ f.key i k % 131072 →
    f.key i k ≠ F.PAIR_STAT_READY.key 0 0 →
    ∃ t, exec (.errRecordArrival dt page code sev detail mid) s = .next t ∧ t.blk.rd f i k = s.blk.rd f i k ∧ t.store = s.store)

/-- A written word changes only its own fields; RO words keep their values, and RWS words wait staged, the last write
standing. A written word changes no register but the fields of that word, and nothing beside registers but the staged words; a
word of RO fields keeps everything; a word of RWS fields on a page with staged registers leaves every value in effect and
waits staged with its writer; and of two such writes the last stands staged. -/
def Obligations.WrittenWordStoresItsOwnFields : Prop :=
  -- storedFrame: R11
  (∀ (b : Blk) (mid a data : Nat),
    b.holds (stored mid a data b) [] ((hitsAt a).map fun h => h.f.key h.i h.k) ∧
      ∃ m, (stored mid a data b).rest = ({ b with ctl := { b.ctl with staged := m } } : Blk).rest) ∧
  -- readOnlyWord: R11
  (∀ (b : Blk) (mid a data : Nat),
    (((hitsAt a).all fun h => h.f.acc == .ro) = true) →
    stored mid a data b = b) ∧
  -- stagedWord: R11, R12
  (∀ (b : Blk) (mid a data : Nat) (p : Page) (o : Nat),
    target a = .page p o ∧ p.stagedCap = true ∧ o ≠ 0x08 →
    (((hitsAt a).all fun h => h.f.acc == .rws) = true ∧ (hitsAt a).isEmpty = false) →
    stored mid a data b = { b with ctl := { b.ctl with staged := mset b.ctl.staged a ⟨data % 2 ^ 32, mid, mgmtCycle b, stagedBefore b a⟩ } }) ∧
  -- lastWriteStands: R12
  (∀ (b : Blk) (mid mid' a d d' : Nat) (p : Page) (o : Nat),
    target a = .page p o ∧ p.stagedCap = true ∧ o ≠ 0x08 →
    (((hitsAt a).all fun h => h.f.acc == .rws) = true ∧ (hitsAt a).isEmpty = false) →
    (mget (stored mid' a d' (stored mid a d b)).ctl.staged a).map (fun e => (e.data, e.mid)) = some (d' % 2 ^ 32, mid') ∧ (stored mid' a d' (stored mid a d b)).regs = b.regs)

/-- Only the safety host writes the words and fields that the fixed rules give it, whatever rule image is in effect. A write
to a word that only the safety host may write is refused by access control with kind 3, whatever the rule image holds, unless
it is made under MID 0x04 (or 0x20, the pair's copy of the safety host's own writes); such a write completes as a violation of
kind 3 that changes no register but those of the violation and its event; and a word stored to OHD_CURT by any other MID (0,
the stand-alone show's own writes, aside) keeps FORCE_SAFE and counts as a restricted change exactly when it asks for another
FORCE_SAFE. -/
def Obligations.OnlyTheSafetyHostWritesItsWords : Prop :=
  -- safetyWordRefused
  (∀ (b : Blk) (mid a : Nat),
    safeOnly a = true →
    mid ≠ 0x04 ∧ mid ≠ 0x20 →
    regCheck b mid a true = some 3) ∧
  -- safetyWriteReported
  (∀ (s : State) (dt mid addr data : Nat) (b : Blk),
    b = s.blk.tick dt →
    safeOnly (addr / 4 * 4) = true ∧ mapped (addr / 4 * 4) = true →
    mid ≠ 0x04 ∧ mid ≠ 0x20 →
    b.rd F.PAIR_EPOCH_FILL_HELD 0 = 0 →
    ∃ c, exec (.registerWrite dt mid false addr [(data, 15)] false) s = .next (s.withBlk (announce b c s.store)) ∧
      c = regViolation (midPort mid) mid (addr / 4 * 4) 3 b ∧ b.holds c [acgPage] violKeys) ∧
  -- forceSafeKept: R266
  (∀ (b : Blk) (mid i data : Nat),
    i < 24 →
    mid ≠ 0x04 ∧ mid ≠ 0x20 ∧ mid ≠ 0 →
    (stored mid ((Block.ohd.slot + i) * 0x1000 + 0x74) data b).rd F.OHD_CURT_FORCE_SAFE i = b.rd F.OHD_CURT_FORCE_SAFE i ∧
      (changesRestricted b ((Block.ohd.slot + i) * 0x1000 + 0x74) mid data = true ↔ b.rd F.OHD_CURT_FORCE_SAFE i ≠ bits data 1 1))

/-- A granted write to the ERR ring window is discarded with event 0x0007 and is no violation; a refused one is a violation. A
write to the ring window that access control grants completes, discarded: event 0x0007 with the byte offset as its detail is
recorded on the ERR page, no register changes but that page's, and neither the violation log nor the violation count changes;
a use by the debug master is recorded beside. A write that access control refuses is a violation with the refusal's kind. -/
def Obligations.RingWindowIsReadOnly : Prop :=
  -- ringWriteDiscarded: R476
  (∀ (s : State) (dt mid o data : Nat) (b d : Blk),
    b = s.blk.tick dt →
    o < 0x1000 ∧ o % 4 = 0 →
    regCheck b mid (0x11000 + o) true = none →
    (b.on F.PAIR_EPOCH_FILL_HELD 0 && (mid == 0x01 || mid == 0x04)) = false →
    (d = if mid = 0x08 then debugUse (0x11000 + o) true b else b) →
    ∃ c, exec (.ringWindowWrite dt mid o data) s = .next (s.withBlk c) ∧ c = raiseAs mid errPage 0x0007 sevNotice o 0 d ∧
      d.moved c [errPage] [] ∧ c.acg.log = b.acg.log ∧ c.rd F.ACG_VIOL_COUNT_COUNT 0 = d.rd F.ACG_VIOL_COUNT_COUNT 0) ∧
  -- ringWriteRefused: R476
  (∀ (s : State) (dt mid o data k : Nat) (b : Blk),
    b = s.blk.tick dt →
    o < 0x1000 ∧ o % 4 = 0 →
    regCheck b mid (0x11000 + o) true = some k →
    (b.on F.PAIR_EPOCH_FILL_HELD 0 && (mid == 0x01 || mid == 0x04)) = false →
    exec (.ringWindowWrite dt mid o data) s = .next (s.withBlk (regViolation (midPort mid) mid (0x11000 + o) k b)))

/-- After its n-th failure a bring-up unit waits min(2^(n − 1), 64) ms, then enters DETECT; what returns n to 0. When a
bring-up unit fails for the n-th time in a row it is in BACKOFF until min(2^(n - 1), 64) ms of stage time later; before that
time BACKOFF_EXPIRY changes nothing, and from it on the unit enters DETECT with its count kept. The count is 0 again when
ACTIVE_HOLD finds the unit ACTIVE for 1 s, when it is stopped and started, and after a soft reset of any of its LANE pages
while it is enabled. -/
def Obligations.BackOffDoubles : Prop :=
  -- failWaits: R303
  (∀ (u st c n : Nat) (b : Blk),
    n = (b.unit u).fails + 1 →
    ((unitFail u st c b).unit u).fails = n ∧ ((unitFail u st c b).unit u).state = stBackoff ∧
      ((unitFail u st c b).unit u).till = b.now + Nat.min (2 ^ (n - 1)) 64 * 1000000) ∧
  -- waitEnds: R303
  (∀ (s : State) (dt u : Nat) (b : Blk),
    b = s.blk.tick dt →
    (b.unit u).state = stBackoff →
    (b.now < (b.unit u).till → exec (.backoffExpiry dt u) s = .next (s.withBlk b)) ∧
      ((b.unit u).till ≤ b.now → ∃ t, exec (.backoffExpiry dt u) s = .next t ∧ (t.blk.unit u).state = stDetect ∧ (t.blk.unit u).fails = (b.unit u).fails)) ∧
  -- activeClears: R303
  (∀ (s : State) (dt u : Nat) (b : Blk),
    b = s.blk.tick dt →
    (b.unit u).state = stActive ∧ (b.unit u).since + 1000000000 ≤ b.now →
    exec (.activeHold dt u) s = .next (s.withBlk (b.putUnit u { b.unit u with fails := 0 }))) ∧
  -- restartClears: R303
  (∀ (u : Nat) (b c : Blk),
    ((unitStop u b).unit u).fails = 0 ∧ ((unitStart u c).unit u).fails = 0 ∧ ((unitStart u c).unit u).state = stDetect) ∧
  -- softResetClears: R303
  (∀ (l u : Nat) (b c : Blk),
    unitOfLane b l = some u →
    c = (leaveActive u 6 b).putLane l { saved := ((leaveActive u 6 b).lane l).saved, based := ((leaveActive u 6 b).lane l).based } →
    unitEnabled c u = true →
    ((laneSoftReset l b).unit u).fails = 0 ∧ ((laneSoftReset l b).unit u).state = stDetect)

/-- A register write completes, and an accepted one leaves its word in effect or staged. A register write completes: of every
MID, with every words, byte enables and misrouting, it answers a next state with the queue and the frame store as they were
and the block as the words written one after the other leave it; a write of host port A through BAR4 likewise. An accepted
write of SYS_FSWIN puts its BASE into effect and leaves every other field; an accepted write of a word with RWS fields of a
layer descriptor or a scene leaves it staged with its value and its MID. -/
def Obligations.RegisterWriteCompletes : Prop :=
  -- anyWrite: R11, R43, R4
  (∀ (s : State) (dt mid addr : Nat) (bar4 misroute : Bool) (words : List (Nat × Nat)),
    bar4 = false ∨ mid ≠ 1 →
    ∃ t, exec (.registerWrite dt mid bar4 addr words misroute) s = .next t ∧ t.pending = s.pending ∧ t.store = s.store ∧
      t.blk = announce (s.blk.tick dt) (busWrites mid addr words misroute (s.blk.tick dt)) s.store) ∧
  -- tableWrite: R41, R4
  (∀ (s : State) (dt addr : Nat) (misroute : Bool) (words : List (Nat × Nat)),
    ∃ t, exec (.registerWrite dt 1 true addr words misroute) s = .next t ∧ t.pending = s.pending ∧ t.store = s.store ∧
      t.blk = bar4Write addr words (s.blk.tick dt)) ∧
  -- readWriteField: R11, R41
  (∀ (s : State) (dt mid data : Nat),
    accepts (s.blk.tick dt) mid 0x70 data = true →
    ∃ c, exec (.registerWrite dt mid false 0x70 [(data, 15)] false) s = .next (s.withBlk (announce (s.blk.tick dt) c s.store)) ∧
      c.rd F.SYS_FSWIN_BASE 0 = data % 256 ∧ (∀ f i k, f.key i k ≠ F.SYS_FSWIN_BASE.key 0 0 → c.rd f i k = (s.blk.tick dt).rd f i k)) ∧
  -- stagedWord: R11, R12
  (∀ (s : State) (dt mid addr data : Nat),
    accepts (s.blk.tick dt) mid addr data = true →
    0x400000 ≤ addr ∧ addr < 0x580000 →
    ¬ (addr < 0x500000 ∧ addr % 256 = 0x2C) →
    (((hitsAt addr).any fun h => h.f.acc == .rws) = true) →
    ∃ c, exec (.registerWrite dt mid false addr [(data, 15)] false) s = .next (s.withBlk (announce (s.blk.tick dt) c s.store)) ∧
      (mget c.ctl.staged addr).map (fun e => (e.data, e.mid)) = some (data % 2 ^ 32, mid))

/-- Cues, curtain-up, freshness maps, signature arrays, proscenium checks, late lines and corrupt blocks complete. Under
conditions on the state and the operands alone, each of these completes, and the clause says what its next state holds: an
immediate group cue and an immediate page cue armed for 10 ns, a curtain-up of a stage that runs, the freshness map of a frame
on display, a line of a slot in the scene that is not ready, a signature array done (where it may be written) and late, the
check of a proscenium slot that is drawn and checked (RESULT 1 exactly when its value is the expected one, else 2), and a
corrupt block. -/
def Obligations.StageCommandsComplete : Prop :=
  -- groupCueTaken: R59, R61
  (∀ (s : State) (dt g : Nat) (q : Cue),
    mget (s.blk.tick dt).ctl.groups g = some q ∧ q.point = 0 ∧ q.time + 10 ≤ (s.blk.tick dt).now →
    ∃ t r, exec (.cueTaken dt true g) s = .next t ∧ r = runCue (groupSet (armGroup g none (s.blk.tick dt)) g q.mid false) (armGroup g none (s.blk.tick dt)) ∧
      t.pending = s.pending ∧ t.store = s.store ∧
      t.blk = ((r.1.wr F.SYS_GCUE_LAST_GROUP 0 g).wr F.SYS_GCUE_LAST_REASON 0 r.2).put F.SYS_GCUE_LAST_REFUSED 0 (r.2 != 0) ∧
      t.blk.rd F.SYS_GCUE_LAST_GROUP 0 = g % 64 ∧ t.blk.on F.SYS_GCUE_LAST_REFUSED 0 = (r.2 != 0)) ∧
  -- pageCueTaken: R59, R60
  (∀ (s : State) (dt k : Nat) (p : Page) (q : Cue),
    mget (s.blk.tick dt).ctl.cues k = some q ∧ q.point = 0 ∧ q.time + 10 ≤ (s.blk.tick dt).now →
    pageOfSlot k = some p →
    ∃ t, exec (.cueTaken dt false k) s = .next t ∧ t.pending = s.pending ∧ t.store = s.store ∧
      t.blk = (runCue { pages := [p], mid := q.mid, shared := false } (armPage p.slot none (s.blk.tick dt))).1) ∧
  -- curtainUp: R175
  (∀ (s : State) (dt st : Nat) (r : Blk × FrameStore) (c : Blk),
    stageRuns (s.blk.tick dt) st = true →
    (r = if st = 0 then epochBoundary (s.blk.tick dt) s.store else ((s.blk.tick dt), s.store)) →
    (c = takeCues (fun q => q.point == 1 && q.stage == st && leadMet r.1 q) r.1) →
    stageRuns c st = true →
    ∃ t d e, exec (.curtainUp dt st) s = .next t ∧ t.pending = s.pending ∧ t.store = r.2 ∧ t.blk = announce (s.blk.tick dt) (curtainRun st c) r.2 ∧
      curtainRun st c = subscribe (crcOnCurtainUp st (forEach (List.range 16) (vecLatch st) e)) ∧ e = setEvt (stgPage st) (evB 0) d ∧
      (d.stage st).switchDue = true) ∧
  -- mapComplete: R103, R104
  (∀ (s : State) (dt st : Nat) (v : Blk),
    ((s.blk.tick dt).stage st).shown ≠ [] ∧ st < 24 →
    v = (s.blk.tick dt).viewed st →
    ∃ t m, exec (.mapComplete dt st) s = .next t ∧ t.pending = s.pending ∧ t.store = s.store ∧
      mget t.blk.prm.maps (st * 2 + v.rd F.STG_FRAME_F st % 2) = some m ∧ m.frame = v.rd F.STG_FRAME_F st ∧ m.time = v.rd F.STG_CUP_TIME_TIME st ∧
      m.crc = crc32 m.tiles ∧ m.tiles.length = cdiv (stageW v st) 64 * cdiv (stageH v st) 64 ∧
      t.blk.rd F.PRM_MAP_FRAME_FRAME st = v.rd F.STG_FRAME_F st % 2 ^ 32) ∧
  -- lineNotReady: R171, R178
  (∀ (s : State) (dt st k line slot : Nat) (p : Place),
    (((s.blk.tick dt).stage st).scene.find? (·.1 == slot)) = some (k, p) →
    ∃ t, exec (.lineNotReady dt st slot line) s = .next t ∧ t.pending = s.pending ∧ t.store = s.store ∧
      (t.blk.stage st).under = ((s.blk.tick dt).stage st).under ++ [(slot, line)] ∧
      t.blk = raise (lfpPage p.pipe) 0x100 sevError (p.layer + 2 ^ 15 * p.pipe) 0 ((((s.blk.tick dt).putStage st
      { (s.blk.tick dt).stage st with under := ((s.blk.tick dt).stage st).under ++ [(slot, line)] }).bump F.STG_UNDERRUNS_COUNT st).bump F.LFP_UNDERRUNS_COUNT p.pipe)) ∧
  -- signatureArrayDone: R193
  (∀ (s : State) (dt st base : Nat) (v : Blk),
    ((s.blk.tick dt).stage st).shown ≠ [] →
    v = (s.blk.tick dt).viewed st →
    base = v.rd F.STG_SIGBASE_ADDR st + v.rd F.STG_FRAME_F st % 2 * 0x8000 →
    fsGranted (s.blk.tick dt) 0x15 base true = true →
    ∃ t, exec (.signatureArrayDone dt st) s = .next t ∧ t.pending = s.pending ∧
      t.store = (((stageSigs (s.blk.tick dt) s.store st).flatMap (leBytes 4)).zipIdx).foldl (fun m e =>
      if fsGranted (s.blk.tick dt) 0x15 (base + e.2) true && Nat.blt (base + e.2) (usable (s.blk.tick dt)) then m.setByte (base + e.2) e.1 else m) s.store ∧
      t.blk.rd F.STG_SIGDIG_DIGEST st = crc32c ((stageSigs (s.blk.tick dt) s.store st).flatMap (leBytes 4)) % 2 ^ 31 ∧
      t.blk.on F.STG_SIGDIG_LATE st = (((s.blk.tick dt).stage st).sigLate == some (v.rd F.STG_FRAME_F st))) ∧
  -- signatureArrayLate: R193
  (∀ (s : State) (dt st : Nat),
    ∃ t, exec (.signatureArrayLate dt st) s = .next t ∧ t.pending = s.pending ∧ t.store = s.store ∧
      t.blk = raise (stgPage st) 0x105 sevWarning ((((s.blk.tick dt).viewed st).rd F.STG_FRAME_F st % 65536) % 2 ^ 17 + 2 ^ 17 * st) 0
      (((s.blk.tick dt).putStage st { (s.blk.tick dt).stage st with sigLate := some (((s.blk.tick dt).viewed st).rd F.STG_FRAME_F st) }).wr F.STG_SIGDIG_LATE st 1)) ∧
  -- psCheck: R195
  (∀ (s : State) (dt st k : Nat) (v : Blk),
    psChecked (s.blk.tick dt) st k = true ∧ v = (s.blk.tick dt).viewed st ∧ st < 24 ∧ k < 8 →
    v.rd F.STG_PS_CFG_CHECK st k = 1 →
    ∃ t, exec (.psCheck dt st k) s = .next t ∧ t.pending = s.pending ∧ t.store = s.store ∧
      t.blk.rd F.STG_PS_CRC_CRC st k = psCrc (s.blk.tick dt) s.store st k % 2 ^ 32 ∧
      t.blk.rd F.STG_PS_RES_RESULT st k = (if psCrc (s.blk.tick dt) s.store st k =
      v.rd (if trigShaky (shownContact (s.blk.tick dt) st) v st k then F.STG_PS_EXP1_CRC else F.STG_PS_EXP0_CRC) st k then 1 else 2)) ∧
  -- corruptBlock: R154, R171
  (∀ (s : State) (dt pipe l : Nat),
    ∃ t, exec (.corruptBlock dt pipe l) s = .next t ∧ t.pending = s.pending ∧ t.store = s.store ∧
      t.blk = raise (lfpPage pipe) 0x103 sevWarning (l + 2 ^ 15 * pipe) 0 (s.blk.tick dt))

/-- Codestreams, access units, stalls, freed slots, pictures put out, and the encoder's rows and slices complete. Under
conditions on the state and the operands alone, each of these completes, and the clause says what its next state holds: a
frame of codestreams that passes its checks, an access unit that is decoded and one that waits for a slot, a stall of more
than 50 ms, a freed slot, a picture put out, an encoder row ready, a row coded (the first of the ready rows, which adds its
bits to its picture's), and a slice sent. -/
def Obligations.CodecCommandsComplete : Prop :=
  -- xsdFrameDone: R206, R210, R216
  (∀ (s : State) (dt x c : Nat) (first : Codestream) (rest : List Codestream) (q : Ready) (b d e : Blk) (r : Blk × FrameStore),
    b = s.blk.tick dt ∧ feeder b true x = some c ∧ takeReady c (fedTo true x) b = some (q, d) ∧ xsdBound d x = true →
    (first :: rest).any (·.headerLost) = false →
    e = (d.wr F.XSD_STAT_PROFILE x first.ppih).wr F.XSD_STAT_LEVEL x first.plev →
    firstReason ((first :: rest).map (xsdCause e c (d.rd F.XSD_CTRL_LAYER x) (first :: rest).length)) = 0 →
    (r = xsdDecode x c (d.rd F.XSD_CTRL_LAYER x) first (first :: rest) ((first :: rest).flatMap (·.errors) ++ (if q.f.loss.isEmpty then [] else [1])) q (e.wr F.XSD_STAT_STATE x 2) s.store) →
    ∃ t, exec (.xsdFrameDone dt x (first :: rest)) s = .next t ∧ t.pending = s.pending ∧ t.store = r.2 ∧ t.blk = announce b r.1 r.2) ∧
  -- vdcAccessUnit: R207, R209, R212, R222
  (∀ (s : State) (dt x c j : Nat) (au : AccessUnit) (q : Ready) (b d e g : Blk) (k r : Blk × FrameStore),
    b = s.blk.tick dt ∧ feeder b false x = some c ∧ takeReady c (fedTo false x) b = some (q, d) ∧ vdcBound d x = true →
    e = vdcPace x c d →
    (e.vdcCtx x).wait = [] ∧ vdcCause e x c au = 0 ∧ fieldMate (e.vdcCtx x) au = none →
    ¬ ((e.rd F.VDC_STAT_STATE x = 3 ∧ (!auIrap (isH264 e c) au) = true) ∨ (e.rd F.VDC_STAT_STATE x = 1 ∧ (!e.on F.VDC_CTRL_START x) = true ∧ (!recovers (isH264 e c) (e.vdcCtx x) au) = true) ∨ (auRasl (isH264 e c) au && (e.vdcCtx x).noRasl) = true) →
    k = closeHalf x e s.store ∧ g = vdcBegin x (isH264 e c) au k.1 ∧ freeSlot g x = some j →
    r = vdcDecode x c j au q none g k.2 →
    ∃ t, exec (.vdcAccessUnit dt x au) s = .next t ∧ t.pending = s.pending ∧ t.store = r.2 ∧ (t.blk.vdcCtx x).wait = [] ∧ (t.blk.vdcCtx x).stallTold = false ∧
      t.blk.regs = r.1.regs) ∧
  -- vdcAccessUnitWaits: R212
  (∀ (s : State) (dt x c : Nat) (au : AccessUnit) (q : Ready) (b d e g : Blk) (k : Blk × FrameStore),
    b = s.blk.tick dt ∧ feeder b false x = some c ∧ takeReady c (fedTo false x) b = some (q, d) ∧ vdcBound d x = true →
    e = vdcPace x c d →
    (e.vdcCtx x).wait = [] ∧ vdcCause e x c au = 0 ∧ fieldMate (e.vdcCtx x) au = none →
    ¬ ((e.rd F.VDC_STAT_STATE x = 3 ∧ (!auIrap (isH264 e c) au) = true) ∨ (e.rd F.VDC_STAT_STATE x = 1 ∧ (!e.on F.VDC_CTRL_START x) = true ∧ (!recovers (isH264 e c) (e.vdcCtx x) au) = true) ∨ (auRasl (isH264 e c) au && (e.vdcCtx x).noRasl) = true) →
    k = closeHalf x e s.store ∧ g = vdcBegin x (isH264 e c) au k.1 ∧ freeSlot g x = none →
    ∃ t, exec (.vdcAccessUnit dt x au) s = .next t ∧ t.pending = s.pending ∧ t.store = s.store ∧ (t.blk.vdcCtx x).wait = [(au, q)] ∧
      (t.blk.vdcCtx x).stalledAt = e.now ∧ t.blk.regs = e.regs) ∧
  -- vdcStall: R212
  (∀ (s : State) (dt x : Nat) (w : AccessUnit × Ready) (l : List (AccessUnit × Ready)) (b : Blk),
    b = s.blk.tick dt ∧ x < 32 →
    (b.vdcCtx x).wait = w :: l ∧ (b.vdcCtx x).stallTold = false ∧ (b.vdcCtx x).stalledAt + 50000000 < b.now →
    ∃ t, exec (.vdcStall dt x) s = .next t ∧ t.pending = s.pending ∧ t.store = s.store ∧ t.blk.rd F.VDC_STAT_STALLED x = 1 ∧
      (t.blk.vdcCtx x).stallTold = true ∧ (t.blk.vdcCtx x).wait = w :: l) ∧
  -- vdcSlotFree: R212
  (∀ (s : State) (dt x c : Nat) (w : AccessUnit × Ready) (l : List (AccessUnit × Ready)) (b : Blk) (r : Blk × FrameStore),
    b = s.blk.tick dt ∧ (b.vdcCtx x).wait = w :: l ∧ feeder b false x = some c →
    vdcUnit x c w.1 w.2 b s.store = some r →
    ∃ t, exec (.vdcSlotFree dt x) s = .next t ∧ t.pending = s.pending ∧ t.store = (vdcDrain x c l r.1.now r.1 r.2).2 ∧
      t.blk = (vdcDrain x c l r.1.now r.1 r.2).1 ∧ (l = [] → (t.blk.vdcCtx x).wait = [])) ∧
  -- vdcPictureOutput: R213, R214, R225
  (∀ (s : State) (dt x c : Nat) (p : Pic) (b d : Blk) (q : Blk × FrameStore) (r : Ready),
    b = s.blk.tick dt ∧ nextOutput (b.vdcCtx x) = some p ∧ feeder b false x = some c ∧ p.recov = false →
    (d = ((b.putVdc x { b.vdcCtx x with pics := tidy ((b.vdcCtx x).pics.map fun q => if q.period = p.period ∧ q.poc = p.poc ∧ q.slot = p.slot then { q with waiting := false } else q), count := ((b.vdcCtx x).count + 1) % 2 ^ 32 }).wr
      F.VDC_FRAME_WH_W x p.frame.lay.w).wr F.VDC_FRAME_WH_H x p.frame.lay.h) →
    q = statEntries vdcStats 0x12 x [recordBytes ([d.now % 2 ^ 32, d.now / 2 ^ 32, (b.vdcCtx x).count] ++ p.stats.words p.frame.conceal.length)] d s.store →
    100 * p.frame.conceal.length ≤ q.1.rd F.ING_ASM_LOSS_MAX c * (cdiv p.frame.lay.w 64 * cdiv p.frame.lay.h 64) →
    r = { f := p.frame, kind := q.1.rd F.ING_CTRL_KIND c, dest := x, sampling := 2, depth := b2n (p.frame.lay.fmt == 9), num := q.1.rd F.ING_RATE_NUM c, den := q.1.rd F.ING_RATE_DEN c, tsmode := q.1.rd F.ING_CTRL_TSMODE c } →
    ∃ t, exec (.vdcPictureOutput dt x) s = .next t ∧ t.pending = s.pending ∧ t.store = q.2 ∧ t.blk = announce b (setEvt (vdcPage x) (evB 0)
      ((decodedEligible c (b.rd F.VDC_CTRL_LAYER x) 2 (if p.frame.lay.fmt = 9 then 10 else 8) r p.frame q.1 q.2).bump F.VDC_PICTURES_COUNT x)) q.2) ∧
  -- vecRowReady: R230, R237
  (∀ (s : State) (dt x row : Nat) (lost : Bool) (p : VecPic) (b e : Blk),
    (b = s.blk.tick dt ∧ ((b.vecCtx x).pics.find? fun p => p.ready == row && Nat.blt row p.rows.length) = some p ∧ e = vecView b x p) →
    p.kind ≠ 0 ∨ lineEntered b (e.rd F.VEC_SRC_STAGE x) p.f (rowLastLine e x row) = true →
    ∃ t, exec (.vecRowReady dt x row lost) s = .next t ∧ t.pending = s.pending ∧ t.store = s.store ∧ t.blk.vecReady = b.vecReady ++ [(x, row)] ∧
      t.blk.regs = b.regs) ∧
  -- vecRowCoded: R229, R230, R235
  (∀ (s : State) (dt x row : Nat) (r : VecRow) (p p1 : VecPic) (b e : Blk) (k : Nat × Nat × Nat × Bool),
    (b = s.blk.tick dt ∧ ((b.vecCtx x).pics.find? fun p => p.coded == row && Nat.blt row p.ready) = some p ∧ b.vecReady.head? = some (x, row)) →
    e = vecView b x p →
    (p1 = if row = 0 then { p with bmax := hrdBits e x p.time } else p) →
    k = rowChoice e x row p1 (b.vecCtx x).prev r ∧ k.1 < 2 ∧ k.2.2.2 = false ∧ row + 1 ≠ p.rows.length →
    ∃ t, exec (.vecRowCoded dt x row r) s = .next t ∧ t.pending = s.pending ∧ t.store = s.store ∧ t.blk.vecReady = b.vecReady.drop 1 ∧
      t.blk.regs = b.regs ∧ ((t.blk.vecCtx x).pics.map fun q => q.spent).sum = ((b.vecCtx x).pics.map fun q => q.spent).sum + k.2.1) ∧
  -- vecSliceOut: R230, R231
  (∀ (s : State) (dt x upto : Nat) (sets : List ParamSet) (nals : List (List Nat)) (p : VecPic) (rest : List VecPic) (b e : Blk),
    b = s.blk.tick dt ∧ (b.vecCtx x).pics = p :: rest ∧ p.idr = false ∧ e = vecView b x p →
    upto = Nat.min p.rows.length ((p.sent + 1) * e.rd F.VEC_CODEC_SLICE_ROWS x) ∧ upto ≤ p.coded ∧ upto < p.rows.length ∧ p.sent * e.rd F.VEC_CODEC_SLICE_ROWS x < p.rows.length →
    vecH264 e x = false ∧ b.rd F.VEC_OUT_DEST x % 2 = 0 →
    ∃ t, exec (.vecSliceOut dt x sets nals) s = .next t ∧ t.pending = s.pending ∧ t.store = s.store ∧
      (t.blk.vecCtx x).pics = { p with sent := p.sent + 1, au := p.au ++ annexB nals } :: rest ∧ t.blk.on F.VEC_STAT_SENDING x = false ∧ t.blk.out = b.out)

/-- What the scrambler sends, the descrambler gives back, and both follow the same state. For every number n of bits and every
state, descrambling what was scrambled from the same state gives the n bits back, and both end in the same state; after 58
bits a descrambler holds the 58 bits received, whatever it held before; and each bit sent is the bit given plus those sent 39
and 58 bits before. -/
def Obligations.ScramblerRoundTrips : Prop :=
  -- roundTrip: R310
  (∀ (n s v : Nat),
    v < 2 ^ n →
    descramble n s (scramble n s v).1 = (v, (scramble n s v).2)) ∧
  -- selfSynchronous: R310
  (∀ (s v : Nat),
    s < 2 ^ 58 →
    (descramble 58 s v).2 = v % 2 ^ 58) ∧
  -- oneBit: R310
  (∀ (n s v : Nat),
    (scramble (n + 1) s v).1 % 2 = (v + s / 2 ^ 19 + s) % 2 ∧
      (scramble (n + 1) s v).1 / 2 = (scramble n (s / 2 + 2 ^ 57 * ((scramble (n + 1) s v).1 % 2)) (v / 2)).1)

/-- A lane finds its marker with up to 3 payload bits wrong, locks after three markers, and loses lock by the rule alone. A
block is taken for a lane's marker exactly when its header is right and at most 3 of its 64 payload bits are wrong, and the
marker of each lane as it is sent has R312's layout and is found with its lane. From HUNT three markers one alignment period
apart, with fewer than 4 uncorrectable codewords between the first two and none between the last two, lock the lane on the
marker's logical lane; 4 or more, or another block in place of the last marker, send it back to HUNT. A locked lane keeps its
lock through every observation but the third marker in a row that is missing, the fourth uncorrectable codeword in a row, and
the thirty-second invalid header within 1,024 blocks, and loses it then. -/
def Obligations.BlockLockGainAndLoss : Prop :=
  -- markerTolerance: R312
  (∀ (l h e : Nat),
    markerMatch l h (Nat.xor (markerPayload l) e) = true ↔ h = 1 ∧ ((List.range 64).filter fun i => Nat.testBit e i).length ≤ 3) ∧
  -- ownMarker: R312
  (∀ (l : Nat),
    l < 4 →
    markerLane 1 (markerPayload l) = some l ∧ bits (markerPayload l) 0 8 = 0xD2 ∧ bits (markerPayload l) 8 8 = l ∧
      bits (markerPayload l) 16 32 = 0x5C3AF0C6 ∧ Nat.xor (bits (markerPayload l) 0 16) (bits (markerPayload l) 48 16) = 0xFFFF) ∧
  -- lockGained: R313
  (∀ (x : LineSt) (l p p1 p2 n : Nat),
    x.st = 0 ∧ markerLane 1 p = some l ∧ markerMatch l 1 p1 = true ∧ markerMatch l 1 p2 = true ∧ n < 4 →
    (lineRun x [.marker 1 p, .codewords (2112 - n) true, .codewords n false, .marker 1 p1, .codewords 2112 true, .marker 1 p2]).st = 2 ∧
      (lineRun x [.marker 1 p, .codewords (2112 - n) true, .codewords n false, .marker 1 p1, .codewords 2112 true, .marker 1 p2]).logical = l) ∧
  -- lockRefused: R313
  (∀ (x : LineSt) (l p p1 p2 n : Nat),
    x.st = 0 ∧ markerLane 1 p = some l ∧ markerMatch l 1 p1 = true →
    (4 ≤ n ∧ n ≤ 2112) ∨ markerMatch l 1 p2 = false →
    n ≤ 2112 →
    (lineRun x [.marker 1 p, .codewords (2112 - n) true, .codewords n false, .marker 1 p1, .codewords 2112 true, .marker 1 p2]).st = 0) ∧
  -- lockLost: R313
  (∀ (x : LineSt) (o : LineObs),
    x.st = 2 ∧ (lineStep x o).st ≠ 2 →
    (lineStep x o) = {} ∧ ((∃ h p, o = .marker h p ∧ markerMatch x.logical h p = false ∧ 2 ≤ x.miss) ∨
      (∃ n, o = .codewords n false ∧ 4 ≤ x.bad + n) ∨ (∃ n, o = .headers n false ∧ (headersBad n x.blocks x.heads).2 = true))) ∧
  -- lockLostBy: R313
  (∀ (x : LineSt),
    x.st = 2 →
    (∀ h p, markerMatch x.logical h p = false → 2 ≤ x.miss → lineStep x (.marker h p) = {}) ∧
      (∀ n, 0 < n → 4 ≤ x.bad + n → lineStep x (.codewords n false) = {}) ∧
      (∀ n, (headersBad n x.blocks x.heads).2 = true → lineStep x (.headers n false) = {}))

/-- The head pipeline delay stays within 1.76 µs at every timing that a head accepts. For every head whose timing passes the
checks of a cue (among them a pixel clock of 50 MHz at least), the sum of the parts of its pipeline delay is at most 1.76 µs,
whatever its link rate; and an MST link at a UHBR rate with 50 MHz reaches 1.76 µs exactly. -/
def Obligations.PipelineWithinItsLimit : Prop :=
  -- limit: R249, R254
  (∀ (b : Blk) (h r : Nat),
    timingOk b h = true →
    pipelineSum b h r ≤ 1760000) ∧
  -- reached: R254
  (∀ (b : Blk) (h r : Nat),
    (pixClock b h).1 = 50000000 * (pixClock b h).2 ∧ 0 < (pixClock b h).2 →
    b.on F.OHD_CTRL_MST h = true ∧ 1 < r →
    pipelineSum b h r = 1760000)

/-- One wrong bit of the 72 is corrected, two are uncorrectable, and a word of an address one or two bits away never reads as
good. Of the check code with the columns of the model's choice (log entry 88: the spec gives their weights): what a read finds
depends only on the bits that come wrong and the address bits in which the place read differs; with any one of the 72 bits
wrong the read gives the stored word and reports a single-bit error; with any two wrong, or a place that differs in one or two
of the 37 address bits, it reports an uncorrectable one; and with none it gives the word and no error. -/
def Obligations.CheckCodeCorrectsAndDetects : Prop :=
  -- syndromes: R385
  (∀ (m : FrameStore) (i flips skew : Nat),
    ∃ s, s = Nat.xor (Nat.xor (flips / 2 ^ 64 % 256) (colSum dataCol 64 (flips % 2 ^ 64))) (colSum addrCol 37 skew) ∧
      (readCoded m i flips skew).2 = syndromeErr s ∧ (ones s % 2 = 0 → (readCoded m i flips skew).1 = Nat.xor (m.leRead (8 * Nat.xor i skew) 8) (flips % 2 ^ 64))) ∧
  -- oneWrong: R385
  (∀ (m : FrameStore) (i k : Nat),
    k < 72 →
    readCoded m i (2 ^ k) 0 = (m.leRead (8 * i) 8, 1)) ∧
  -- twoWrong: R385
  (∀ (m : FrameStore) (i j k : Nat),
    j < k ∧ k < 72 →
    (readCoded m i (2 ^ j + 2 ^ k) 0).2 = 2) ∧
  -- wrongPlace: R385
  (∀ (m : FrameStore) (i j k : Nat),
    j ≤ k ∧ k < 37 →
    (readCoded m i 0 (if j = k then 2 ^ j else 2 ^ j + 2 ^ k)).2 = 2) ∧
  -- undisturbed: R385
  (∀ (m : FrameStore) (i : Nat),
    readCoded m i 0 0 = (m.leRead (8 * i) 8, 0))
end

