-- ==== Sys2Proof/Laws/Maps.lean ====
section
/-!
SUPPORT. Laws of the keyed tables: what a table answers after an entry has been set or removed.
-/

namespace Sys2Proof.Machine

@[simp] theorem mget_mset {α : Type} (m : SMap α) (k j : Nat) (v : α) :
    mget (mset m k v) j = if j = k then some v else mget m j := by
  induction m with
  | nil => simp [mset, mget]
  | cons e t ih =>
    obtain ⟨a, x⟩ := e
    simp only [mset]
    split
    · simp [mget]
    · split
      · rename_i h h'; subst h'; simp only [mget]; split <;> rfl
      · simp only [mget, ih]; split <;> split <;> simp_all

@[simp] theorem mget_mdel {α : Type} (m : SMap α) (k j : Nat) :
    mget (mdel m k) j = if j = k then none else mget m j := by
  induction m with
  | nil => simp [mdel, mget]
  | cons e t ih =>
    obtain ⟨a, x⟩ := e
    simp only [mdel]
    split
    · rename_i h; subst h; simp only [ih, mget]; split <;> simp_all
    · simp only [mget, ih]; split <;> split <;> simp_all

@[simp] theorem mgetD_mset_same {α : Type} (m : SMap α) (k : Nat) (v d : α) : mgetD (mset m k v) k d = v := by simp [mgetD]

theorem mgetD_mset {α : Type} (m : SMap α) (k j : Nat) (v d : α) :
    mgetD (mset m k v) j d = if j = k then v else mgetD m j d := by
  simp only [mgetD, mget_mset]; split <;> rfl

/-- A table sorted before an entry is set is sorted after it. -/
theorem msorted_tail {α : Type} {a : Nat} {x : α} {t : SMap α} (h : msorted ((a, x) :: t) = true) : msorted t = true := by
  cases t with
  | nil => rfl
  | cons e t => obtain ⟨b, y⟩ := e; simp only [msorted, Bool.and_eq_true] at h; exact h.2

/-- Every key of a sorted table lies above its first. -/
theorem msorted_head {α : Type} {a : Nat} {x : α} {t : SMap α} (h : msorted ((a, x) :: t) = true) : ∀ e ∈ t, a < e.1 := by
  induction t generalizing a x with
  | nil => simp
  | cons e t ih =>
    obtain ⟨b, y⟩ := e
    simp only [msorted, Bool.and_eq_true, Nat.blt_eq] at h
    intro e' he'
    rcases List.mem_cons.mp he' with rfl | hm
    · exact h.1
    · exact Nat.lt_trans h.1 (ih h.2 e' hm)

theorem msorted_cons {α : Type} {a : Nat} {x : α} {t : SMap α} (h : msorted t = true) (hlt : ∀ e ∈ t, a < e.1) :
    msorted ((a, x) :: t) = true := by
  cases t with
  | nil => rfl
  | cons e t =>
    obtain ⟨b, y⟩ := e
    simp only [msorted, Bool.and_eq_true, Nat.blt_eq]
    exact ⟨hlt (b, y) (by simp), h⟩

theorem mem_mset {α : Type} {m : SMap α} {k : Nat} {v : α} {e : Nat × α} (h : e ∈ mset m k v) : e = (k, v) ∨ e ∈ m := by
  induction m with
  | nil => simp [mset] at h; exact .inl h
  | cons a t ih =>
    obtain ⟨a, x⟩ := a
    simp only [mset] at h
    split at h
    · rcases List.mem_cons.mp h with h | h
      · exact .inl h
      · exact .inr h
    · split at h
      · rcases List.mem_cons.mp h with h | h
        · exact .inl h
        · exact .inr (List.mem_cons_of_mem _ h)
      · rcases List.mem_cons.mp h with h | h
        · exact .inr (by simp [h])
        · rcases ih h with h | h
          · exact .inl h
          · exact .inr (List.mem_cons_of_mem _ h)

/-- Setting an entry keeps a table sorted. -/
theorem msorted_mset {α : Type} (m : SMap α) (k : Nat) (v : α) (h : msorted m = true) : msorted (mset m k v) = true := by
  induction m with
  | nil => rfl
  | cons e t ih =>
    obtain ⟨a, x⟩ := e
    simp only [mset]
    split
    · rename_i hk
      refine msorted_cons h fun e he => ?_
      rcases List.mem_cons.mp he with rfl | hm
      · exact hk
      · exact Nat.lt_trans hk (msorted_head h e hm)
    · split
      · rename_i _ hk
        subst hk
        exact msorted_cons (msorted_tail h) (msorted_head h)
      · rename_i h1 h2
        refine msorted_cons (ih (msorted_tail h)) fun e he => ?_
        rcases mem_mset he with rfl | hm
        · simp only; omega
        · exact msorted_head h e hm

end Sys2Proof.Machine
end

