-- ==== Sys2Proof/Laws/State.lean ====
section
/-!
SUPPORT. One law for each field of the block's state and each named update: which field an update changes, and that it leaves every
other field alone. None needs the update to be unfolded again.
-/

namespace Sys2Proof.Machine

@[simp] theorem Blk.wr_now (b : Blk) (f : Fld) (i v k : Nat) : (b.wr f i v k).now = b.now := rfl
@[simp] theorem Blk.wr_up (b : Blk) (f : Fld) (i v k : Nat) : (b.wr f i v k).up = b.up := rfl
@[simp] theorem Blk.wr_fresh (b : Blk) (f : Fld) (i v k : Nat) : (b.wr f i v k).fresh = b.fresh := rfl
@[simp] theorem Blk.wr_regs (b : Blk) (f : Fld) (i v k : Nat) : (b.wr f i v k).regs = mset b.regs (f.key i k) (v % 2 ^ f.w) := rfl
@[simp] theorem Blk.wr_out (b : Blk) (f : Fld) (i v k : Nat) : (b.wr f i v k).out = b.out := rfl
@[simp] theorem Blk.wr_ctl (b : Blk) (f : Fld) (i v k : Nat) : (b.wr f i v k).ctl = b.ctl := rfl
@[simp] theorem Blk.wr_acg (b : Blk) (f : Fld) (i v k : Nat) : (b.wr f i v k).acg = b.acg := rfl
@[simp] theorem Blk.wr_prm (b : Blk) (f : Fld) (i v k : Nat) : (b.wr f i v k).prm = b.prm := rfl
@[simp] theorem Blk.wr_ing (b : Blk) (f : Fld) (i v k : Nat) : (b.wr f i v k).ing = b.ing := rfl
@[simp] theorem Blk.wr_nif (b : Blk) (f : Fld) (i v k : Nat) : (b.wr f i v k).nif = b.nif := rfl
@[simp] theorem Blk.wr_sessions (b : Blk) (f : Fld) (i v k : Nat) : (b.wr f i v k).sessions = b.sessions := rfl
@[simp] theorem Blk.wr_stg (b : Blk) (f : Fld) (i v k : Nat) : (b.wr f i v k).stg = b.stg := rfl
@[simp] theorem Blk.wr_contacts (b : Blk) (f : Fld) (i v k : Nat) : (b.wr f i v k).contacts = b.contacts := rfl
@[simp] theorem Blk.wr_xsd (b : Blk) (f : Fld) (i v k : Nat) : (b.wr f i v k).xsd = b.xsd := rfl
@[simp] theorem Blk.wr_vdc (b : Blk) (f : Fld) (i v k : Nat) : (b.wr f i v k).vdc = b.vdc := rfl
@[simp] theorem Blk.wr_vec (b : Blk) (f : Fld) (i v k : Nat) : (b.wr f i v k).vec = b.vec := rfl
@[simp] theorem Blk.wr_vecReady (b : Blk) (f : Fld) (i v k : Nat) : (b.wr f i v k).vecReady = b.vecReady := rfl
@[simp] theorem Blk.wr_thm (b : Blk) (f : Fld) (i v k : Nat) : (b.wr f i v k).thm = b.thm := rfl
@[simp] theorem Blk.wr_units (b : Blk) (f : Fld) (i v k : Nat) : (b.wr f i v k).units = b.units := rfl
@[simp] theorem Blk.wr_lanes (b : Blk) (f : Fld) (i v k : Nat) : (b.wr f i v k).lanes = b.lanes := rfl
@[simp] theorem Blk.wr_chn (b : Blk) (f : Fld) (i v k : Nat) : (b.wr f i v k).chn = b.chn := rfl
@[simp] theorem Blk.wr_heads (b : Blk) (f : Fld) (i v k : Nat) : (b.wr f i v k).heads = b.heads := rfl
@[simp] theorem Blk.wr_driving (b : Blk) (f : Fld) (i v k : Nat) : (b.wr f i v k).driving = b.driving := rfl
@[simp] theorem Blk.wr_clk (b : Blk) (f : Fld) (i v k : Nat) : (b.wr f i v k).clk = b.clk := rfl
@[simp] theorem Blk.wr_pair (b : Blk) (f : Fld) (i v k : Nat) : (b.wr f i v k).pair = b.pair := rfl
@[simp] theorem Blk.wr_ens (b : Blk) (f : Fld) (i v k : Nat) : (b.wr f i v k).ens = b.ens := rfl
@[simp] theorem Blk.wr_mem (b : Blk) (f : Fld) (i v k : Nat) : (b.wr f i v k).mem = b.mem := rfl
@[simp] theorem Blk.wr_crc (b : Blk) (f : Fld) (i v k : Nat) : (b.wr f i v k).crc = b.crc := rfl
@[simp] theorem Blk.wr_pwr (b : Blk) (f : Fld) (i v k : Nat) : (b.wr f i v k).pwr = b.pwr := rfl
@[simp] theorem Blk.wr_show_ (b : Blk) (f : Fld) (i v k : Nat) : (b.wr f i v k).show_ = b.show_ := rfl

@[simp] theorem Blk.rstF_now (b : Blk) (f : Fld) (i k : Nat) : (b.rstF f i k).now = b.now := rfl
@[simp] theorem Blk.rstF_up (b : Blk) (f : Fld) (i k : Nat) : (b.rstF f i k).up = b.up := rfl
@[simp] theorem Blk.rstF_fresh (b : Blk) (f : Fld) (i k : Nat) : (b.rstF f i k).fresh = b.fresh := rfl
@[simp] theorem Blk.rstF_regs (b : Blk) (f : Fld) (i k : Nat) : (b.rstF f i k).regs = mdel b.regs (f.key i k) := rfl
@[simp] theorem Blk.rstF_out (b : Blk) (f : Fld) (i k : Nat) : (b.rstF f i k).out = b.out := rfl
@[simp] theorem Blk.rstF_ctl (b : Blk) (f : Fld) (i k : Nat) : (b.rstF f i k).ctl = b.ctl := rfl
@[simp] theorem Blk.rstF_acg (b : Blk) (f : Fld) (i k : Nat) : (b.rstF f i k).acg = b.acg := rfl
@[simp] theorem Blk.rstF_prm (b : Blk) (f : Fld) (i k : Nat) : (b.rstF f i k).prm = b.prm := rfl
@[simp] theorem Blk.rstF_ing (b : Blk) (f : Fld) (i k : Nat) : (b.rstF f i k).ing = b.ing := rfl
@[simp] theorem Blk.rstF_nif (b : Blk) (f : Fld) (i k : Nat) : (b.rstF f i k).nif = b.nif := rfl
@[simp] theorem Blk.rstF_sessions (b : Blk) (f : Fld) (i k : Nat) : (b.rstF f i k).sessions = b.sessions := rfl
@[simp] theorem Blk.rstF_stg (b : Blk) (f : Fld) (i k : Nat) : (b.rstF f i k).stg = b.stg := rfl
@[simp] theorem Blk.rstF_contacts (b : Blk) (f : Fld) (i k : Nat) : (b.rstF f i k).contacts = b.contacts := rfl
@[simp] theorem Blk.rstF_xsd (b : Blk) (f : Fld) (i k : Nat) : (b.rstF f i k).xsd = b.xsd := rfl
@[simp] theorem Blk.rstF_vdc (b : Blk) (f : Fld) (i k : Nat) : (b.rstF f i k).vdc = b.vdc := rfl
@[simp] theorem Blk.rstF_vec (b : Blk) (f : Fld) (i k : Nat) : (b.rstF f i k).vec = b.vec := rfl
@[simp] theorem Blk.rstF_vecReady (b : Blk) (f : Fld) (i k : Nat) : (b.rstF f i k).vecReady = b.vecReady := rfl
@[simp] theorem Blk.rstF_thm (b : Blk) (f : Fld) (i k : Nat) : (b.rstF f i k).thm = b.thm := rfl
@[simp] theorem Blk.rstF_units (b : Blk) (f : Fld) (i k : Nat) : (b.rstF f i k).units = b.units := rfl
@[simp] theorem Blk.rstF_lanes (b : Blk) (f : Fld) (i k : Nat) : (b.rstF f i k).lanes = b.lanes := rfl
@[simp] theorem Blk.rstF_chn (b : Blk) (f : Fld) (i k : Nat) : (b.rstF f i k).chn = b.chn := rfl
@[simp] theorem Blk.rstF_heads (b : Blk) (f : Fld) (i k : Nat) : (b.rstF f i k).heads = b.heads := rfl
@[simp] theorem Blk.rstF_driving (b : Blk) (f : Fld) (i k : Nat) : (b.rstF f i k).driving = b.driving := rfl
@[simp] theorem Blk.rstF_clk (b : Blk) (f : Fld) (i k : Nat) : (b.rstF f i k).clk = b.clk := rfl
@[simp] theorem Blk.rstF_pair (b : Blk) (f : Fld) (i k : Nat) : (b.rstF f i k).pair = b.pair := rfl
@[simp] theorem Blk.rstF_ens (b : Blk) (f : Fld) (i k : Nat) : (b.rstF f i k).ens = b.ens := rfl
@[simp] theorem Blk.rstF_mem (b : Blk) (f : Fld) (i k : Nat) : (b.rstF f i k).mem = b.mem := rfl
@[simp] theorem Blk.rstF_crc (b : Blk) (f : Fld) (i k : Nat) : (b.rstF f i k).crc = b.crc := rfl
@[simp] theorem Blk.rstF_pwr (b : Blk) (f : Fld) (i k : Nat) : (b.rstF f i k).pwr = b.pwr := rfl
@[simp] theorem Blk.rstF_show_ (b : Blk) (f : Fld) (i k : Nat) : (b.rstF f i k).show_ = b.show_ := rfl

@[simp] theorem Blk.rstRange_now (b : Blk) (lo hi : Nat) : (b.rstRange lo hi).now = b.now := rfl
@[simp] theorem Blk.rstRange_up (b : Blk) (lo hi : Nat) : (b.rstRange lo hi).up = b.up := rfl
@[simp] theorem Blk.rstRange_fresh (b : Blk) (lo hi : Nat) : (b.rstRange lo hi).fresh = b.fresh := rfl
@[simp] theorem Blk.rstRange_out (b : Blk) (lo hi : Nat) : (b.rstRange lo hi).out = b.out := rfl
@[simp] theorem Blk.rstRange_ctl (b : Blk) (lo hi : Nat) : (b.rstRange lo hi).ctl = b.ctl := rfl
@[simp] theorem Blk.rstRange_acg (b : Blk) (lo hi : Nat) : (b.rstRange lo hi).acg = b.acg := rfl
@[simp] theorem Blk.rstRange_prm (b : Blk) (lo hi : Nat) : (b.rstRange lo hi).prm = b.prm := rfl
@[simp] theorem Blk.rstRange_ing (b : Blk) (lo hi : Nat) : (b.rstRange lo hi).ing = b.ing := rfl
@[simp] theorem Blk.rstRange_nif (b : Blk) (lo hi : Nat) : (b.rstRange lo hi).nif = b.nif := rfl
@[simp] theorem Blk.rstRange_sessions (b : Blk) (lo hi : Nat) : (b.rstRange lo hi).sessions = b.sessions := rfl
@[simp] theorem Blk.rstRange_stg (b : Blk) (lo hi : Nat) : (b.rstRange lo hi).stg = b.stg := rfl
@[simp] theorem Blk.rstRange_contacts (b : Blk) (lo hi : Nat) : (b.rstRange lo hi).contacts = b.contacts := rfl
@[simp] theorem Blk.rstRange_xsd (b : Blk) (lo hi : Nat) : (b.rstRange lo hi).xsd = b.xsd := rfl
@[simp] theorem Blk.rstRange_vdc (b : Blk) (lo hi : Nat) : (b.rstRange lo hi).vdc = b.vdc := rfl
@[simp] theorem Blk.rstRange_vec (b : Blk) (lo hi : Nat) : (b.rstRange lo hi).vec = b.vec := rfl
@[simp] theorem Blk.rstRange_vecReady (b : Blk) (lo hi : Nat) : (b.rstRange lo hi).vecReady = b.vecReady := rfl
@[simp] theorem Blk.rstRange_thm (b : Blk) (lo hi : Nat) : (b.rstRange lo hi).thm = b.thm := rfl
@[simp] theorem Blk.rstRange_units (b : Blk) (lo hi : Nat) : (b.rstRange lo hi).units = b.units := rfl
@[simp] theorem Blk.rstRange_lanes (b : Blk) (lo hi : Nat) : (b.rstRange lo hi).lanes = b.lanes := rfl
@[simp] theorem Blk.rstRange_chn (b : Blk) (lo hi : Nat) : (b.rstRange lo hi).chn = b.chn := rfl
@[simp] theorem Blk.rstRange_heads (b : Blk) (lo hi : Nat) : (b.rstRange lo hi).heads = b.heads := rfl
@[simp] theorem Blk.rstRange_driving (b : Blk) (lo hi : Nat) : (b.rstRange lo hi).driving = b.driving := rfl
@[simp] theorem Blk.rstRange_clk (b : Blk) (lo hi : Nat) : (b.rstRange lo hi).clk = b.clk := rfl
@[simp] theorem Blk.rstRange_pair (b : Blk) (lo hi : Nat) : (b.rstRange lo hi).pair = b.pair := rfl
@[simp] theorem Blk.rstRange_ens (b : Blk) (lo hi : Nat) : (b.rstRange lo hi).ens = b.ens := rfl
@[simp] theorem Blk.rstRange_mem (b : Blk) (lo hi : Nat) : (b.rstRange lo hi).mem = b.mem := rfl
@[simp] theorem Blk.rstRange_crc (b : Blk) (lo hi : Nat) : (b.rstRange lo hi).crc = b.crc := rfl
@[simp] theorem Blk.rstRange_pwr (b : Blk) (lo hi : Nat) : (b.rstRange lo hi).pwr = b.pwr := rfl
@[simp] theorem Blk.rstRange_show_ (b : Blk) (lo hi : Nat) : (b.rstRange lo hi).show_ = b.show_ := rfl

@[simp] theorem Blk.emit_now (b : Blk) (e : Emit) : (b.emit e).now = b.now := rfl
@[simp] theorem Blk.emit_up (b : Blk) (e : Emit) : (b.emit e).up = b.up := rfl
@[simp] theorem Blk.emit_fresh (b : Blk) (e : Emit) : (b.emit e).fresh = b.fresh := rfl
@[simp] theorem Blk.emit_regs (b : Blk) (e : Emit) : (b.emit e).regs = b.regs := rfl
@[simp] theorem Blk.emit_out (b : Blk) (e : Emit) : (b.emit e).out = b.out ++ [e] := rfl
@[simp] theorem Blk.emit_ctl (b : Blk) (e : Emit) : (b.emit e).ctl = b.ctl := rfl
@[simp] theorem Blk.emit_acg (b : Blk) (e : Emit) : (b.emit e).acg = b.acg := rfl
@[simp] theorem Blk.emit_prm (b : Blk) (e : Emit) : (b.emit e).prm = b.prm := rfl
@[simp] theorem Blk.emit_ing (b : Blk) (e : Emit) : (b.emit e).ing = b.ing := rfl
@[simp] theorem Blk.emit_nif (b : Blk) (e : Emit) : (b.emit e).nif = b.nif := rfl
@[simp] theorem Blk.emit_sessions (b : Blk) (e : Emit) : (b.emit e).sessions = b.sessions := rfl
@[simp] theorem Blk.emit_stg (b : Blk) (e : Emit) : (b.emit e).stg = b.stg := rfl
@[simp] theorem Blk.emit_contacts (b : Blk) (e : Emit) : (b.emit e).contacts = b.contacts := rfl
@[simp] theorem Blk.emit_xsd (b : Blk) (e : Emit) : (b.emit e).xsd = b.xsd := rfl
@[simp] theorem Blk.emit_vdc (b : Blk) (e : Emit) : (b.emit e).vdc = b.vdc := rfl
@[simp] theorem Blk.emit_vec (b : Blk) (e : Emit) : (b.emit e).vec = b.vec := rfl
@[simp] theorem Blk.emit_vecReady (b : Blk) (e : Emit) : (b.emit e).vecReady = b.vecReady := rfl
@[simp] theorem Blk.emit_thm (b : Blk) (e : Emit) : (b.emit e).thm = b.thm := rfl
@[simp] theorem Blk.emit_units (b : Blk) (e : Emit) : (b.emit e).units = b.units := rfl
@[simp] theorem Blk.emit_lanes (b : Blk) (e : Emit) : (b.emit e).lanes = b.lanes := rfl
@[simp] theorem Blk.emit_chn (b : Blk) (e : Emit) : (b.emit e).chn = b.chn := rfl
@[simp] theorem Blk.emit_heads (b : Blk) (e : Emit) : (b.emit e).heads = b.heads := rfl
@[simp] theorem Blk.emit_driving (b : Blk) (e : Emit) : (b.emit e).driving = b.driving := rfl
@[simp] theorem Blk.emit_clk (b : Blk) (e : Emit) : (b.emit e).clk = b.clk := rfl
@[simp] theorem Blk.emit_pair (b : Blk) (e : Emit) : (b.emit e).pair = b.pair := rfl
@[simp] theorem Blk.emit_ens (b : Blk) (e : Emit) : (b.emit e).ens = b.ens := rfl
@[simp] theorem Blk.emit_mem (b : Blk) (e : Emit) : (b.emit e).mem = b.mem := rfl
@[simp] theorem Blk.emit_crc (b : Blk) (e : Emit) : (b.emit e).crc = b.crc := rfl
@[simp] theorem Blk.emit_pwr (b : Blk) (e : Emit) : (b.emit e).pwr = b.pwr := rfl
@[simp] theorem Blk.emit_show_ (b : Blk) (e : Emit) : (b.emit e).show_ = b.show_ := rfl

@[simp] theorem Blk.useFresh_now (b : Blk) : (b.useFresh).now = b.now := rfl
@[simp] theorem Blk.useFresh_up (b : Blk) : (b.useFresh).up = b.up := rfl
@[simp] theorem Blk.useFresh_fresh (b : Blk) : (b.useFresh).fresh = b.fresh + 1 := rfl
@[simp] theorem Blk.useFresh_regs (b : Blk) : (b.useFresh).regs = b.regs := rfl
@[simp] theorem Blk.useFresh_out (b : Blk) : (b.useFresh).out = b.out := rfl
@[simp] theorem Blk.useFresh_ctl (b : Blk) : (b.useFresh).ctl = b.ctl := rfl
@[simp] theorem Blk.useFresh_acg (b : Blk) : (b.useFresh).acg = b.acg := rfl
@[simp] theorem Blk.useFresh_prm (b : Blk) : (b.useFresh).prm = b.prm := rfl
@[simp] theorem Blk.useFresh_ing (b : Blk) : (b.useFresh).ing = b.ing := rfl
@[simp] theorem Blk.useFresh_nif (b : Blk) : (b.useFresh).nif = b.nif := rfl
@[simp] theorem Blk.useFresh_sessions (b : Blk) : (b.useFresh).sessions = b.sessions := rfl
@[simp] theorem Blk.useFresh_stg (b : Blk) : (b.useFresh).stg = b.stg := rfl
@[simp] theorem Blk.useFresh_contacts (b : Blk) : (b.useFresh).contacts = b.contacts := rfl
@[simp] theorem Blk.useFresh_xsd (b : Blk) : (b.useFresh).xsd = b.xsd := rfl
@[simp] theorem Blk.useFresh_vdc (b : Blk) : (b.useFresh).vdc = b.vdc := rfl
@[simp] theorem Blk.useFresh_vec (b : Blk) : (b.useFresh).vec = b.vec := rfl
@[simp] theorem Blk.useFresh_vecReady (b : Blk) : (b.useFresh).vecReady = b.vecReady := rfl
@[simp] theorem Blk.useFresh_thm (b : Blk) : (b.useFresh).thm = b.thm := rfl
@[simp] theorem Blk.useFresh_units (b : Blk) : (b.useFresh).units = b.units := rfl
@[simp] theorem Blk.useFresh_lanes (b : Blk) : (b.useFresh).lanes = b.lanes := rfl
@[simp] theorem Blk.useFresh_chn (b : Blk) : (b.useFresh).chn = b.chn := rfl
@[simp] theorem Blk.useFresh_heads (b : Blk) : (b.useFresh).heads = b.heads := rfl
@[simp] theorem Blk.useFresh_driving (b : Blk) : (b.useFresh).driving = b.driving := rfl
@[simp] theorem Blk.useFresh_clk (b : Blk) : (b.useFresh).clk = b.clk := rfl
@[simp] theorem Blk.useFresh_pair (b : Blk) : (b.useFresh).pair = b.pair := rfl
@[simp] theorem Blk.useFresh_ens (b : Blk) : (b.useFresh).ens = b.ens := rfl
@[simp] theorem Blk.useFresh_mem (b : Blk) : (b.useFresh).mem = b.mem := rfl
@[simp] theorem Blk.useFresh_crc (b : Blk) : (b.useFresh).crc = b.crc := rfl
@[simp] theorem Blk.useFresh_pwr (b : Blk) : (b.useFresh).pwr = b.pwr := rfl
@[simp] theorem Blk.useFresh_show_ (b : Blk) : (b.useFresh).show_ = b.show_ := rfl

@[simp] theorem Blk.tick_now (b : Blk) (dt : Nat) : (b.tick dt).now = b.now + dt := rfl
@[simp] theorem Blk.tick_up (b : Blk) (dt : Nat) : (b.tick dt).up = b.up + dt := rfl
@[simp] theorem Blk.tick_fresh (b : Blk) (dt : Nat) : (b.tick dt).fresh = b.fresh := rfl
@[simp] theorem Blk.tick_regs (b : Blk) (dt : Nat) : (b.tick dt).regs = b.regs := rfl
@[simp] theorem Blk.tick_out (b : Blk) (dt : Nat) : (b.tick dt).out = [] := rfl
@[simp] theorem Blk.tick_ctl (b : Blk) (dt : Nat) : (b.tick dt).ctl = b.ctl := rfl
@[simp] theorem Blk.tick_acg (b : Blk) (dt : Nat) : (b.tick dt).acg = b.acg := rfl
@[simp] theorem Blk.tick_prm (b : Blk) (dt : Nat) : (b.tick dt).prm = b.prm := rfl
@[simp] theorem Blk.tick_ing (b : Blk) (dt : Nat) : (b.tick dt).ing = b.ing := rfl
@[simp] theorem Blk.tick_nif (b : Blk) (dt : Nat) : (b.tick dt).nif = b.nif := rfl
@[simp] theorem Blk.tick_sessions (b : Blk) (dt : Nat) : (b.tick dt).sessions = b.sessions := rfl
@[simp] theorem Blk.tick_stg (b : Blk) (dt : Nat) : (b.tick dt).stg = b.stg := rfl
@[simp] theorem Blk.tick_contacts (b : Blk) (dt : Nat) : (b.tick dt).contacts = b.contacts := rfl
@[simp] theorem Blk.tick_xsd (b : Blk) (dt : Nat) : (b.tick dt).xsd = b.xsd := rfl
@[simp] theorem Blk.tick_vdc (b : Blk) (dt : Nat) : (b.tick dt).vdc = b.vdc := rfl
@[simp] theorem Blk.tick_vec (b : Blk) (dt : Nat) : (b.tick dt).vec = b.vec := rfl
@[simp] theorem Blk.tick_vecReady (b : Blk) (dt : Nat) : (b.tick dt).vecReady = b.vecReady := rfl
@[simp] theorem Blk.tick_thm (b : Blk) (dt : Nat) : (b.tick dt).thm = b.thm := rfl
@[simp] theorem Blk.tick_units (b : Blk) (dt : Nat) : (b.tick dt).units = b.units := rfl
@[simp] theorem Blk.tick_lanes (b : Blk) (dt : Nat) : (b.tick dt).lanes = b.lanes := rfl
@[simp] theorem Blk.tick_chn (b : Blk) (dt : Nat) : (b.tick dt).chn = b.chn := rfl
@[simp] theorem Blk.tick_heads (b : Blk) (dt : Nat) : (b.tick dt).heads = b.heads := rfl
@[simp] theorem Blk.tick_driving (b : Blk) (dt : Nat) : (b.tick dt).driving = b.driving := rfl
@[simp] theorem Blk.tick_clk (b : Blk) (dt : Nat) : (b.tick dt).clk = b.clk := rfl
@[simp] theorem Blk.tick_pair (b : Blk) (dt : Nat) : (b.tick dt).pair = b.pair := rfl
@[simp] theorem Blk.tick_ens (b : Blk) (dt : Nat) : (b.tick dt).ens = b.ens := rfl
@[simp] theorem Blk.tick_mem (b : Blk) (dt : Nat) : (b.tick dt).mem = b.mem := rfl
@[simp] theorem Blk.tick_crc (b : Blk) (dt : Nat) : (b.tick dt).crc = b.crc := rfl
@[simp] theorem Blk.tick_pwr (b : Blk) (dt : Nat) : (b.tick dt).pwr = b.pwr := rfl
@[simp] theorem Blk.tick_show_ (b : Blk) (dt : Nat) : (b.tick dt).show_ = b.show_ := rfl

@[simp] theorem Blk.putRef_now (b : Blk) (k : Nat) (x : RefSt) : (b.putRef k x).now = b.now := rfl
@[simp] theorem Blk.putRef_up (b : Blk) (k : Nat) (x : RefSt) : (b.putRef k x).up = b.up := rfl
@[simp] theorem Blk.putRef_fresh (b : Blk) (k : Nat) (x : RefSt) : (b.putRef k x).fresh = b.fresh := rfl
@[simp] theorem Blk.putRef_regs (b : Blk) (k : Nat) (x : RefSt) : (b.putRef k x).regs = b.regs := rfl
@[simp] theorem Blk.putRef_out (b : Blk) (k : Nat) (x : RefSt) : (b.putRef k x).out = b.out := rfl
@[simp] theorem Blk.putRef_ctl (b : Blk) (k : Nat) (x : RefSt) : (b.putRef k x).ctl = b.ctl := rfl
@[simp] theorem Blk.putRef_acg (b : Blk) (k : Nat) (x : RefSt) : (b.putRef k x).acg = b.acg := rfl
@[simp] theorem Blk.putRef_prm (b : Blk) (k : Nat) (x : RefSt) : (b.putRef k x).prm = b.prm := rfl
@[simp] theorem Blk.putRef_ing (b : Blk) (k : Nat) (x : RefSt) : (b.putRef k x).ing = b.ing := rfl
@[simp] theorem Blk.putRef_nif (b : Blk) (k : Nat) (x : RefSt) : (b.putRef k x).nif = b.nif := rfl
@[simp] theorem Blk.putRef_sessions (b : Blk) (k : Nat) (x : RefSt) : (b.putRef k x).sessions = b.sessions := rfl
@[simp] theorem Blk.putRef_stg (b : Blk) (k : Nat) (x : RefSt) : (b.putRef k x).stg = b.stg := rfl
@[simp] theorem Blk.putRef_contacts (b : Blk) (k : Nat) (x : RefSt) : (b.putRef k x).contacts = b.contacts := rfl
@[simp] theorem Blk.putRef_xsd (b : Blk) (k : Nat) (x : RefSt) : (b.putRef k x).xsd = b.xsd := rfl
@[simp] theorem Blk.putRef_vdc (b : Blk) (k : Nat) (x : RefSt) : (b.putRef k x).vdc = b.vdc := rfl
@[simp] theorem Blk.putRef_vec (b : Blk) (k : Nat) (x : RefSt) : (b.putRef k x).vec = b.vec := rfl
@[simp] theorem Blk.putRef_vecReady (b : Blk) (k : Nat) (x : RefSt) : (b.putRef k x).vecReady = b.vecReady := rfl
@[simp] theorem Blk.putRef_thm (b : Blk) (k : Nat) (x : RefSt) : (b.putRef k x).thm = b.thm := rfl
@[simp] theorem Blk.putRef_units (b : Blk) (k : Nat) (x : RefSt) : (b.putRef k x).units = b.units := rfl
@[simp] theorem Blk.putRef_lanes (b : Blk) (k : Nat) (x : RefSt) : (b.putRef k x).lanes = b.lanes := rfl
@[simp] theorem Blk.putRef_chn (b : Blk) (k : Nat) (x : RefSt) : (b.putRef k x).chn = b.chn := rfl
@[simp] theorem Blk.putRef_heads (b : Blk) (k : Nat) (x : RefSt) : (b.putRef k x).heads = b.heads := rfl
@[simp] theorem Blk.putRef_driving (b : Blk) (k : Nat) (x : RefSt) : (b.putRef k x).driving = b.driving := rfl
@[simp] theorem Blk.putRef_pair (b : Blk) (k : Nat) (x : RefSt) : (b.putRef k x).pair = b.pair := rfl
@[simp] theorem Blk.putRef_ens (b : Blk) (k : Nat) (x : RefSt) : (b.putRef k x).ens = b.ens := rfl
@[simp] theorem Blk.putRef_mem (b : Blk) (k : Nat) (x : RefSt) : (b.putRef k x).mem = b.mem := rfl
@[simp] theorem Blk.putRef_crc (b : Blk) (k : Nat) (x : RefSt) : (b.putRef k x).crc = b.crc := rfl
@[simp] theorem Blk.putRef_pwr (b : Blk) (k : Nat) (x : RefSt) : (b.putRef k x).pwr = b.pwr := rfl
@[simp] theorem Blk.putRef_show_ (b : Blk) (k : Nat) (x : RefSt) : (b.putRef k x).show_ = b.show_ := rfl

@[simp] theorem Blk.putVdc_now (b : Blk) (k : Nat) (x : VdcCtx) : (b.putVdc k x).now = b.now := rfl
@[simp] theorem Blk.putVdc_up (b : Blk) (k : Nat) (x : VdcCtx) : (b.putVdc k x).up = b.up := rfl
@[simp] theorem Blk.putVdc_fresh (b : Blk) (k : Nat) (x : VdcCtx) : (b.putVdc k x).fresh = b.fresh := rfl
@[simp] theorem Blk.putVdc_regs (b : Blk) (k : Nat) (x : VdcCtx) : (b.putVdc k x).regs = b.regs := rfl
@[simp] theorem Blk.putVdc_out (b : Blk) (k : Nat) (x : VdcCtx) : (b.putVdc k x).out = b.out := rfl
@[simp] theorem Blk.putVdc_ctl (b : Blk) (k : Nat) (x : VdcCtx) : (b.putVdc k x).ctl = b.ctl := rfl
@[simp] theorem Blk.putVdc_acg (b : Blk) (k : Nat) (x : VdcCtx) : (b.putVdc k x).acg = b.acg := rfl
@[simp] theorem Blk.putVdc_prm (b : Blk) (k : Nat) (x : VdcCtx) : (b.putVdc k x).prm = b.prm := rfl
@[simp] theorem Blk.putVdc_ing (b : Blk) (k : Nat) (x : VdcCtx) : (b.putVdc k x).ing = b.ing := rfl
@[simp] theorem Blk.putVdc_nif (b : Blk) (k : Nat) (x : VdcCtx) : (b.putVdc k x).nif = b.nif := rfl
@[simp] theorem Blk.putVdc_sessions (b : Blk) (k : Nat) (x : VdcCtx) : (b.putVdc k x).sessions = b.sessions := rfl
@[simp] theorem Blk.putVdc_stg (b : Blk) (k : Nat) (x : VdcCtx) : (b.putVdc k x).stg = b.stg := rfl
@[simp] theorem Blk.putVdc_contacts (b : Blk) (k : Nat) (x : VdcCtx) : (b.putVdc k x).contacts = b.contacts := rfl
@[simp] theorem Blk.putVdc_xsd (b : Blk) (k : Nat) (x : VdcCtx) : (b.putVdc k x).xsd = b.xsd := rfl
@[simp] theorem Blk.putVdc_vdc (b : Blk) (k : Nat) (x : VdcCtx) : (b.putVdc k x).vdc = mset b.vdc k x := rfl
@[simp] theorem Blk.putVdc_vec (b : Blk) (k : Nat) (x : VdcCtx) : (b.putVdc k x).vec = b.vec := rfl
@[simp] theorem Blk.putVdc_vecReady (b : Blk) (k : Nat) (x : VdcCtx) : (b.putVdc k x).vecReady = b.vecReady := rfl
@[simp] theorem Blk.putVdc_thm (b : Blk) (k : Nat) (x : VdcCtx) : (b.putVdc k x).thm = b.thm := rfl
@[simp] theorem Blk.putVdc_units (b : Blk) (k : Nat) (x : VdcCtx) : (b.putVdc k x).units = b.units := rfl
@[simp] theorem Blk.putVdc_lanes (b : Blk) (k : Nat) (x : VdcCtx) : (b.putVdc k x).lanes = b.lanes := rfl
@[simp] theorem Blk.putVdc_chn (b : Blk) (k : Nat) (x : VdcCtx) : (b.putVdc k x).chn = b.chn := rfl
@[simp] theorem Blk.putVdc_heads (b : Blk) (k : Nat) (x : VdcCtx) : (b.putVdc k x).heads = b.heads := rfl
@[simp] theorem Blk.putVdc_driving (b : Blk) (k : Nat) (x : VdcCtx) : (b.putVdc k x).driving = b.driving := rfl
@[simp] theorem Blk.putVdc_clk (b : Blk) (k : Nat) (x : VdcCtx) : (b.putVdc k x).clk = b.clk := rfl
@[simp] theorem Blk.putVdc_pair (b : Blk) (k : Nat) (x : VdcCtx) : (b.putVdc k x).pair = b.pair := rfl
@[simp] theorem Blk.putVdc_ens (b : Blk) (k : Nat) (x : VdcCtx) : (b.putVdc k x).ens = b.ens := rfl
@[simp] theorem Blk.putVdc_mem (b : Blk) (k : Nat) (x : VdcCtx) : (b.putVdc k x).mem = b.mem := rfl
@[simp] theorem Blk.putVdc_crc (b : Blk) (k : Nat) (x : VdcCtx) : (b.putVdc k x).crc = b.crc := rfl
@[simp] theorem Blk.putVdc_pwr (b : Blk) (k : Nat) (x : VdcCtx) : (b.putVdc k x).pwr = b.pwr := rfl
@[simp] theorem Blk.putVdc_show_ (b : Blk) (k : Nat) (x : VdcCtx) : (b.putVdc k x).show_ = b.show_ := rfl

@[simp] theorem Blk.putVec_now (b : Blk) (k : Nat) (x : VecCtx) : (b.putVec k x).now = b.now := rfl
@[simp] theorem Blk.putVec_up (b : Blk) (k : Nat) (x : VecCtx) : (b.putVec k x).up = b.up := rfl
@[simp] theorem Blk.putVec_fresh (b : Blk) (k : Nat) (x : VecCtx) : (b.putVec k x).fresh = b.fresh := rfl
@[simp] theorem Blk.putVec_regs (b : Blk) (k : Nat) (x : VecCtx) : (b.putVec k x).regs = b.regs := rfl
@[simp] theorem Blk.putVec_out (b : Blk) (k : Nat) (x : VecCtx) : (b.putVec k x).out = b.out := rfl
@[simp] theorem Blk.putVec_ctl (b : Blk) (k : Nat) (x : VecCtx) : (b.putVec k x).ctl = b.ctl := rfl
@[simp] theorem Blk.putVec_acg (b : Blk) (k : Nat) (x : VecCtx) : (b.putVec k x).acg = b.acg := rfl
@[simp] theorem Blk.putVec_prm (b : Blk) (k : Nat) (x : VecCtx) : (b.putVec k x).prm = b.prm := rfl
@[simp] theorem Blk.putVec_ing (b : Blk) (k : Nat) (x : VecCtx) : (b.putVec k x).ing = b.ing := rfl
@[simp] theorem Blk.putVec_nif (b : Blk) (k : Nat) (x : VecCtx) : (b.putVec k x).nif = b.nif := rfl
@[simp] theorem Blk.putVec_sessions (b : Blk) (k : Nat) (x : VecCtx) : (b.putVec k x).sessions = b.sessions := rfl
@[simp] theorem Blk.putVec_stg (b : Blk) (k : Nat) (x : VecCtx) : (b.putVec k x).stg = b.stg := rfl
@[simp] theorem Blk.putVec_contacts (b : Blk) (k : Nat) (x : VecCtx) : (b.putVec k x).contacts = b.contacts := rfl
@[simp] theorem Blk.putVec_xsd (b : Blk) (k : Nat) (x : VecCtx) : (b.putVec k x).xsd = b.xsd := rfl
@[simp] theorem Blk.putVec_vdc (b : Blk) (k : Nat) (x : VecCtx) : (b.putVec k x).vdc = b.vdc := rfl
@[simp] theorem Blk.putVec_vec (b : Blk) (k : Nat) (x : VecCtx) : (b.putVec k x).vec = mset b.vec k x := rfl
@[simp] theorem Blk.putVec_vecReady (b : Blk) (k : Nat) (x : VecCtx) : (b.putVec k x).vecReady = b.vecReady := rfl
@[simp] theorem Blk.putVec_thm (b : Blk) (k : Nat) (x : VecCtx) : (b.putVec k x).thm = b.thm := rfl
@[simp] theorem Blk.putVec_units (b : Blk) (k : Nat) (x : VecCtx) : (b.putVec k x).units = b.units := rfl
@[simp] theorem Blk.putVec_lanes (b : Blk) (k : Nat) (x : VecCtx) : (b.putVec k x).lanes = b.lanes := rfl
@[simp] theorem Blk.putVec_chn (b : Blk) (k : Nat) (x : VecCtx) : (b.putVec k x).chn = b.chn := rfl
@[simp] theorem Blk.putVec_heads (b : Blk) (k : Nat) (x : VecCtx) : (b.putVec k x).heads = b.heads := rfl
@[simp] theorem Blk.putVec_driving (b : Blk) (k : Nat) (x : VecCtx) : (b.putVec k x).driving = b.driving := rfl
@[simp] theorem Blk.putVec_clk (b : Blk) (k : Nat) (x : VecCtx) : (b.putVec k x).clk = b.clk := rfl
@[simp] theorem Blk.putVec_pair (b : Blk) (k : Nat) (x : VecCtx) : (b.putVec k x).pair = b.pair := rfl
@[simp] theorem Blk.putVec_ens (b : Blk) (k : Nat) (x : VecCtx) : (b.putVec k x).ens = b.ens := rfl
@[simp] theorem Blk.putVec_mem (b : Blk) (k : Nat) (x : VecCtx) : (b.putVec k x).mem = b.mem := rfl
@[simp] theorem Blk.putVec_crc (b : Blk) (k : Nat) (x : VecCtx) : (b.putVec k x).crc = b.crc := rfl
@[simp] theorem Blk.putVec_pwr (b : Blk) (k : Nat) (x : VecCtx) : (b.putVec k x).pwr = b.pwr := rfl
@[simp] theorem Blk.putVec_show_ (b : Blk) (k : Nat) (x : VecCtx) : (b.putVec k x).show_ = b.show_ := rfl

@[simp] theorem Blk.putContact_now (b : Blk) (k : Nat) (x : Contact) : (b.putContact k x).now = b.now := rfl
@[simp] theorem Blk.putContact_up (b : Blk) (k : Nat) (x : Contact) : (b.putContact k x).up = b.up := rfl
@[simp] theorem Blk.putContact_fresh (b : Blk) (k : Nat) (x : Contact) : (b.putContact k x).fresh = b.fresh := rfl
@[simp] theorem Blk.putContact_regs (b : Blk) (k : Nat) (x : Contact) : (b.putContact k x).regs = b.regs := rfl
@[simp] theorem Blk.putContact_out (b : Blk) (k : Nat) (x : Contact) : (b.putContact k x).out = b.out := rfl
@[simp] theorem Blk.putContact_ctl (b : Blk) (k : Nat) (x : Contact) : (b.putContact k x).ctl = b.ctl := rfl
@[simp] theorem Blk.putContact_acg (b : Blk) (k : Nat) (x : Contact) : (b.putContact k x).acg = b.acg := rfl
@[simp] theorem Blk.putContact_prm (b : Blk) (k : Nat) (x : Contact) : (b.putContact k x).prm = b.prm := rfl
@[simp] theorem Blk.putContact_ing (b : Blk) (k : Nat) (x : Contact) : (b.putContact k x).ing = b.ing := rfl
@[simp] theorem Blk.putContact_nif (b : Blk) (k : Nat) (x : Contact) : (b.putContact k x).nif = b.nif := rfl
@[simp] theorem Blk.putContact_sessions (b : Blk) (k : Nat) (x : Contact) : (b.putContact k x).sessions = b.sessions := rfl
@[simp] theorem Blk.putContact_stg (b : Blk) (k : Nat) (x : Contact) : (b.putContact k x).stg = b.stg := rfl
@[simp] theorem Blk.putContact_contacts (b : Blk) (k : Nat) (x : Contact) : (b.putContact k x).contacts = mset b.contacts k x := rfl
@[simp] theorem Blk.putContact_xsd (b : Blk) (k : Nat) (x : Contact) : (b.putContact k x).xsd = b.xsd := rfl
@[simp] theorem Blk.putContact_vdc (b : Blk) (k : Nat) (x : Contact) : (b.putContact k x).vdc = b.vdc := rfl
@[simp] theorem Blk.putContact_vec (b : Blk) (k : Nat) (x : Contact) : (b.putContact k x).vec = b.vec := rfl
@[simp] theorem Blk.putContact_vecReady (b : Blk) (k : Nat) (x : Contact) : (b.putContact k x).vecReady = b.vecReady := rfl
@[simp] theorem Blk.putContact_thm (b : Blk) (k : Nat) (x : Contact) : (b.putContact k x).thm = b.thm := rfl
@[simp] theorem Blk.putContact_units (b : Blk) (k : Nat) (x : Contact) : (b.putContact k x).units = b.units := rfl
@[simp] theorem Blk.putContact_lanes (b : Blk) (k : Nat) (x : Contact) : (b.putContact k x).lanes = b.lanes := rfl
@[simp] theorem Blk.putContact_chn (b : Blk) (k : Nat) (x : Contact) : (b.putContact k x).chn = b.chn := rfl
@[simp] theorem Blk.putContact_heads (b : Blk) (k : Nat) (x : Contact) : (b.putContact k x).heads = b.heads := rfl
@[simp] theorem Blk.putContact_driving (b : Blk) (k : Nat) (x : Contact) : (b.putContact k x).driving = b.driving := rfl
@[simp] theorem Blk.putContact_clk (b : Blk) (k : Nat) (x : Contact) : (b.putContact k x).clk = b.clk := rfl
@[simp] theorem Blk.putContact_pair (b : Blk) (k : Nat) (x : Contact) : (b.putContact k x).pair = b.pair := rfl
@[simp] theorem Blk.putContact_ens (b : Blk) (k : Nat) (x : Contact) : (b.putContact k x).ens = b.ens := rfl
@[simp] theorem Blk.putContact_mem (b : Blk) (k : Nat) (x : Contact) : (b.putContact k x).mem = b.mem := rfl
@[simp] theorem Blk.putContact_crc (b : Blk) (k : Nat) (x : Contact) : (b.putContact k x).crc = b.crc := rfl
@[simp] theorem Blk.putContact_pwr (b : Blk) (k : Nat) (x : Contact) : (b.putContact k x).pwr = b.pwr := rfl
@[simp] theorem Blk.putContact_show_ (b : Blk) (k : Nat) (x : Contact) : (b.putContact k x).show_ = b.show_ := rfl

@[simp] theorem Blk.putEns_now (b : Blk) (x : EnsSt) : (b.putEns x).now = b.now := rfl
@[simp] theorem Blk.putEns_up (b : Blk) (x : EnsSt) : (b.putEns x).up = b.up := rfl
@[simp] theorem Blk.putEns_fresh (b : Blk) (x : EnsSt) : (b.putEns x).fresh = b.fresh := rfl
@[simp] theorem Blk.putEns_regs (b : Blk) (x : EnsSt) : (b.putEns x).regs = b.regs := rfl
@[simp] theorem Blk.putEns_out (b : Blk) (x : EnsSt) : (b.putEns x).out = b.out := rfl
@[simp] theorem Blk.putEns_ctl (b : Blk) (x : EnsSt) : (b.putEns x).ctl = b.ctl := rfl
@[simp] theorem Blk.putEns_acg (b : Blk) (x : EnsSt) : (b.putEns x).acg = b.acg := rfl
@[simp] theorem Blk.putEns_prm (b : Blk) (x : EnsSt) : (b.putEns x).prm = b.prm := rfl
@[simp] theorem Blk.putEns_ing (b : Blk) (x : EnsSt) : (b.putEns x).ing = b.ing := rfl
@[simp] theorem Blk.putEns_nif (b : Blk) (x : EnsSt) : (b.putEns x).nif = b.nif := rfl
@[simp] theorem Blk.putEns_sessions (b : Blk) (x : EnsSt) : (b.putEns x).sessions = b.sessions := rfl
@[simp] theorem Blk.putEns_stg (b : Blk) (x : EnsSt) : (b.putEns x).stg = b.stg := rfl
@[simp] theorem Blk.putEns_contacts (b : Blk) (x : EnsSt) : (b.putEns x).contacts = b.contacts := rfl
@[simp] theorem Blk.putEns_xsd (b : Blk) (x : EnsSt) : (b.putEns x).xsd = b.xsd := rfl
@[simp] theorem Blk.putEns_vdc (b : Blk) (x : EnsSt) : (b.putEns x).vdc = b.vdc := rfl
@[simp] theorem Blk.putEns_vec (b : Blk) (x : EnsSt) : (b.putEns x).vec = b.vec := rfl
@[simp] theorem Blk.putEns_vecReady (b : Blk) (x : EnsSt) : (b.putEns x).vecReady = b.vecReady := rfl
@[simp] theorem Blk.putEns_thm (b : Blk) (x : EnsSt) : (b.putEns x).thm = b.thm := rfl
@[simp] theorem Blk.putEns_units (b : Blk) (x : EnsSt) : (b.putEns x).units = b.units := rfl
@[simp] theorem Blk.putEns_lanes (b : Blk) (x : EnsSt) : (b.putEns x).lanes = b.lanes := rfl
@[simp] theorem Blk.putEns_chn (b : Blk) (x : EnsSt) : (b.putEns x).chn = b.chn := rfl
@[simp] theorem Blk.putEns_heads (b : Blk) (x : EnsSt) : (b.putEns x).heads = b.heads := rfl
@[simp] theorem Blk.putEns_driving (b : Blk) (x : EnsSt) : (b.putEns x).driving = b.driving := rfl
@[simp] theorem Blk.putEns_clk (b : Blk) (x : EnsSt) : (b.putEns x).clk = b.clk := rfl
@[simp] theorem Blk.putEns_pair (b : Blk) (x : EnsSt) : (b.putEns x).pair = b.pair := rfl
@[simp] theorem Blk.putEns_ens (b : Blk) (x : EnsSt) : (b.putEns x).ens = x := rfl
@[simp] theorem Blk.putEns_mem (b : Blk) (x : EnsSt) : (b.putEns x).mem = b.mem := rfl
@[simp] theorem Blk.putEns_crc (b : Blk) (x : EnsSt) : (b.putEns x).crc = b.crc := rfl
@[simp] theorem Blk.putEns_pwr (b : Blk) (x : EnsSt) : (b.putEns x).pwr = b.pwr := rfl
@[simp] theorem Blk.putEns_show_ (b : Blk) (x : EnsSt) : (b.putEns x).show_ = b.show_ := rfl

@[simp] theorem Blk.putLayer_now (b : Blk) (k : Nat) (x : LayerSt) : (b.putLayer k x).now = b.now := rfl
@[simp] theorem Blk.putLayer_up (b : Blk) (k : Nat) (x : LayerSt) : (b.putLayer k x).up = b.up := rfl
@[simp] theorem Blk.putLayer_fresh (b : Blk) (k : Nat) (x : LayerSt) : (b.putLayer k x).fresh = b.fresh := rfl
@[simp] theorem Blk.putLayer_regs (b : Blk) (k : Nat) (x : LayerSt) : (b.putLayer k x).regs = b.regs := rfl
@[simp] theorem Blk.putLayer_out (b : Blk) (k : Nat) (x : LayerSt) : (b.putLayer k x).out = b.out := rfl
@[simp] theorem Blk.putLayer_ctl (b : Blk) (k : Nat) (x : LayerSt) : (b.putLayer k x).ctl = b.ctl := rfl
@[simp] theorem Blk.putLayer_acg (b : Blk) (k : Nat) (x : LayerSt) : (b.putLayer k x).acg = b.acg := rfl
@[simp] theorem Blk.putLayer_ing (b : Blk) (k : Nat) (x : LayerSt) : (b.putLayer k x).ing = b.ing := rfl
@[simp] theorem Blk.putLayer_nif (b : Blk) (k : Nat) (x : LayerSt) : (b.putLayer k x).nif = b.nif := rfl
@[simp] theorem Blk.putLayer_sessions (b : Blk) (k : Nat) (x : LayerSt) : (b.putLayer k x).sessions = b.sessions := rfl
@[simp] theorem Blk.putLayer_stg (b : Blk) (k : Nat) (x : LayerSt) : (b.putLayer k x).stg = b.stg := rfl
@[simp] theorem Blk.putLayer_contacts (b : Blk) (k : Nat) (x : LayerSt) : (b.putLayer k x).contacts = b.contacts := rfl
@[simp] theorem Blk.putLayer_xsd (b : Blk) (k : Nat) (x : LayerSt) : (b.putLayer k x).xsd = b.xsd := rfl
@[simp] theorem Blk.putLayer_vdc (b : Blk) (k : Nat) (x : LayerSt) : (b.putLayer k x).vdc = b.vdc := rfl
@[simp] theorem Blk.putLayer_vec (b : Blk) (k : Nat) (x : LayerSt) : (b.putLayer k x).vec = b.vec := rfl
@[simp] theorem Blk.putLayer_vecReady (b : Blk) (k : Nat) (x : LayerSt) : (b.putLayer k x).vecReady = b.vecReady := rfl
@[simp] theorem Blk.putLayer_thm (b : Blk) (k : Nat) (x : LayerSt) : (b.putLayer k x).thm = b.thm := rfl
@[simp] theorem Blk.putLayer_units (b : Blk) (k : Nat) (x : LayerSt) : (b.putLayer k x).units = b.units := rfl
@[simp] theorem Blk.putLayer_lanes (b : Blk) (k : Nat) (x : LayerSt) : (b.putLayer k x).lanes = b.lanes := rfl
@[simp] theorem Blk.putLayer_chn (b : Blk) (k : Nat) (x : LayerSt) : (b.putLayer k x).chn = b.chn := rfl
@[simp] theorem Blk.putLayer_heads (b : Blk) (k : Nat) (x : LayerSt) : (b.putLayer k x).heads = b.heads := rfl
@[simp] theorem Blk.putLayer_driving (b : Blk) (k : Nat) (x : LayerSt) : (b.putLayer k x).driving = b.driving := rfl
@[simp] theorem Blk.putLayer_clk (b : Blk) (k : Nat) (x : LayerSt) : (b.putLayer k x).clk = b.clk := rfl
@[simp] theorem Blk.putLayer_pair (b : Blk) (k : Nat) (x : LayerSt) : (b.putLayer k x).pair = b.pair := rfl
@[simp] theorem Blk.putLayer_ens (b : Blk) (k : Nat) (x : LayerSt) : (b.putLayer k x).ens = b.ens := rfl
@[simp] theorem Blk.putLayer_mem (b : Blk) (k : Nat) (x : LayerSt) : (b.putLayer k x).mem = b.mem := rfl
@[simp] theorem Blk.putLayer_crc (b : Blk) (k : Nat) (x : LayerSt) : (b.putLayer k x).crc = b.crc := rfl
@[simp] theorem Blk.putLayer_pwr (b : Blk) (k : Nat) (x : LayerSt) : (b.putLayer k x).pwr = b.pwr := rfl
@[simp] theorem Blk.putLayer_show_ (b : Blk) (k : Nat) (x : LayerSt) : (b.putLayer k x).show_ = b.show_ := rfl

@[simp] theorem Blk.putPlace_now (b : Blk) (st k : Nat) (x : Place) : (b.putPlace st k x).now = b.now := rfl
@[simp] theorem Blk.putPlace_up (b : Blk) (st k : Nat) (x : Place) : (b.putPlace st k x).up = b.up := rfl
@[simp] theorem Blk.putPlace_fresh (b : Blk) (st k : Nat) (x : Place) : (b.putPlace st k x).fresh = b.fresh := rfl
@[simp] theorem Blk.putPlace_regs (b : Blk) (st k : Nat) (x : Place) : (b.putPlace st k x).regs = b.regs := rfl
@[simp] theorem Blk.putPlace_out (b : Blk) (st k : Nat) (x : Place) : (b.putPlace st k x).out = b.out := rfl
@[simp] theorem Blk.putPlace_ctl (b : Blk) (st k : Nat) (x : Place) : (b.putPlace st k x).ctl = b.ctl := rfl
@[simp] theorem Blk.putPlace_acg (b : Blk) (st k : Nat) (x : Place) : (b.putPlace st k x).acg = b.acg := rfl
@[simp] theorem Blk.putPlace_ing (b : Blk) (st k : Nat) (x : Place) : (b.putPlace st k x).ing = b.ing := rfl
@[simp] theorem Blk.putPlace_nif (b : Blk) (st k : Nat) (x : Place) : (b.putPlace st k x).nif = b.nif := rfl
@[simp] theorem Blk.putPlace_sessions (b : Blk) (st k : Nat) (x : Place) : (b.putPlace st k x).sessions = b.sessions := rfl
@[simp] theorem Blk.putPlace_stg (b : Blk) (st k : Nat) (x : Place) : (b.putPlace st k x).stg = b.stg := rfl
@[simp] theorem Blk.putPlace_contacts (b : Blk) (st k : Nat) (x : Place) : (b.putPlace st k x).contacts = b.contacts := rfl
@[simp] theorem Blk.putPlace_xsd (b : Blk) (st k : Nat) (x : Place) : (b.putPlace st k x).xsd = b.xsd := rfl
@[simp] theorem Blk.putPlace_vdc (b : Blk) (st k : Nat) (x : Place) : (b.putPlace st k x).vdc = b.vdc := rfl
@[simp] theorem Blk.putPlace_vec (b : Blk) (st k : Nat) (x : Place) : (b.putPlace st k x).vec = b.vec := rfl
@[simp] theorem Blk.putPlace_vecReady (b : Blk) (st k : Nat) (x : Place) : (b.putPlace st k x).vecReady = b.vecReady := rfl
@[simp] theorem Blk.putPlace_thm (b : Blk) (st k : Nat) (x : Place) : (b.putPlace st k x).thm = b.thm := rfl
@[simp] theorem Blk.putPlace_units (b : Blk) (st k : Nat) (x : Place) : (b.putPlace st k x).units = b.units := rfl
@[simp] theorem Blk.putPlace_lanes (b : Blk) (st k : Nat) (x : Place) : (b.putPlace st k x).lanes = b.lanes := rfl
@[simp] theorem Blk.putPlace_chn (b : Blk) (st k : Nat) (x : Place) : (b.putPlace st k x).chn = b.chn := rfl
@[simp] theorem Blk.putPlace_heads (b : Blk) (st k : Nat) (x : Place) : (b.putPlace st k x).heads = b.heads := rfl
@[simp] theorem Blk.putPlace_driving (b : Blk) (st k : Nat) (x : Place) : (b.putPlace st k x).driving = b.driving := rfl
@[simp] theorem Blk.putPlace_clk (b : Blk) (st k : Nat) (x : Place) : (b.putPlace st k x).clk = b.clk := rfl
@[simp] theorem Blk.putPlace_pair (b : Blk) (st k : Nat) (x : Place) : (b.putPlace st k x).pair = b.pair := rfl
@[simp] theorem Blk.putPlace_ens (b : Blk) (st k : Nat) (x : Place) : (b.putPlace st k x).ens = b.ens := rfl
@[simp] theorem Blk.putPlace_mem (b : Blk) (st k : Nat) (x : Place) : (b.putPlace st k x).mem = b.mem := rfl
@[simp] theorem Blk.putPlace_crc (b : Blk) (st k : Nat) (x : Place) : (b.putPlace st k x).crc = b.crc := rfl
@[simp] theorem Blk.putPlace_pwr (b : Blk) (st k : Nat) (x : Place) : (b.putPlace st k x).pwr = b.pwr := rfl
@[simp] theorem Blk.putPlace_show_ (b : Blk) (st k : Nat) (x : Place) : (b.putPlace st k x).show_ = b.show_ := rfl

@[simp] theorem Blk.putStage_now (b : Blk) (k : Nat) (x : StgSt) : (b.putStage k x).now = b.now := rfl
@[simp] theorem Blk.putStage_up (b : Blk) (k : Nat) (x : StgSt) : (b.putStage k x).up = b.up := rfl
@[simp] theorem Blk.putStage_fresh (b : Blk) (k : Nat) (x : StgSt) : (b.putStage k x).fresh = b.fresh := rfl
@[simp] theorem Blk.putStage_regs (b : Blk) (k : Nat) (x : StgSt) : (b.putStage k x).regs = b.regs := rfl
@[simp] theorem Blk.putStage_out (b : Blk) (k : Nat) (x : StgSt) : (b.putStage k x).out = b.out := rfl
@[simp] theorem Blk.putStage_ctl (b : Blk) (k : Nat) (x : StgSt) : (b.putStage k x).ctl = b.ctl := rfl
@[simp] theorem Blk.putStage_acg (b : Blk) (k : Nat) (x : StgSt) : (b.putStage k x).acg = b.acg := rfl
@[simp] theorem Blk.putStage_prm (b : Blk) (k : Nat) (x : StgSt) : (b.putStage k x).prm = b.prm := rfl
@[simp] theorem Blk.putStage_ing (b : Blk) (k : Nat) (x : StgSt) : (b.putStage k x).ing = b.ing := rfl
@[simp] theorem Blk.putStage_nif (b : Blk) (k : Nat) (x : StgSt) : (b.putStage k x).nif = b.nif := rfl
@[simp] theorem Blk.putStage_sessions (b : Blk) (k : Nat) (x : StgSt) : (b.putStage k x).sessions = b.sessions := rfl
@[simp] theorem Blk.putStage_stg (b : Blk) (k : Nat) (x : StgSt) : (b.putStage k x).stg = mset b.stg k x := rfl
@[simp] theorem Blk.putStage_contacts (b : Blk) (k : Nat) (x : StgSt) : (b.putStage k x).contacts = b.contacts := rfl
@[simp] theorem Blk.putStage_xsd (b : Blk) (k : Nat) (x : StgSt) : (b.putStage k x).xsd = b.xsd := rfl
@[simp] theorem Blk.putStage_vdc (b : Blk) (k : Nat) (x : StgSt) : (b.putStage k x).vdc = b.vdc := rfl
@[simp] theorem Blk.putStage_vec (b : Blk) (k : Nat) (x : StgSt) : (b.putStage k x).vec = b.vec := rfl
@[simp] theorem Blk.putStage_vecReady (b : Blk) (k : Nat) (x : StgSt) : (b.putStage k x).vecReady = b.vecReady := rfl
@[simp] theorem Blk.putStage_thm (b : Blk) (k : Nat) (x : StgSt) : (b.putStage k x).thm = b.thm := rfl
@[simp] theorem Blk.putStage_units (b : Blk) (k : Nat) (x : StgSt) : (b.putStage k x).units = b.units := rfl
@[simp] theorem Blk.putStage_lanes (b : Blk) (k : Nat) (x : StgSt) : (b.putStage k x).lanes = b.lanes := rfl
@[simp] theorem Blk.putStage_chn (b : Blk) (k : Nat) (x : StgSt) : (b.putStage k x).chn = b.chn := rfl
@[simp] theorem Blk.putStage_heads (b : Blk) (k : Nat) (x : StgSt) : (b.putStage k x).heads = b.heads := rfl
@[simp] theorem Blk.putStage_driving (b : Blk) (k : Nat) (x : StgSt) : (b.putStage k x).driving = b.driving := rfl
@[simp] theorem Blk.putStage_clk (b : Blk) (k : Nat) (x : StgSt) : (b.putStage k x).clk = b.clk := rfl
@[simp] theorem Blk.putStage_pair (b : Blk) (k : Nat) (x : StgSt) : (b.putStage k x).pair = b.pair := rfl
@[simp] theorem Blk.putStage_ens (b : Blk) (k : Nat) (x : StgSt) : (b.putStage k x).ens = b.ens := rfl
@[simp] theorem Blk.putStage_mem (b : Blk) (k : Nat) (x : StgSt) : (b.putStage k x).mem = b.mem := rfl
@[simp] theorem Blk.putStage_crc (b : Blk) (k : Nat) (x : StgSt) : (b.putStage k x).crc = b.crc := rfl
@[simp] theorem Blk.putStage_pwr (b : Blk) (k : Nat) (x : StgSt) : (b.putStage k x).pwr = b.pwr := rfl
@[simp] theorem Blk.putStage_show_ (b : Blk) (k : Nat) (x : StgSt) : (b.putStage k x).show_ = b.show_ := rfl

@[simp] theorem Blk.putHead_now (b : Blk) (k : Nat) (x : HeadSt) : (b.putHead k x).now = b.now := rfl
@[simp] theorem Blk.putHead_up (b : Blk) (k : Nat) (x : HeadSt) : (b.putHead k x).up = b.up := rfl
@[simp] theorem Blk.putHead_fresh (b : Blk) (k : Nat) (x : HeadSt) : (b.putHead k x).fresh = b.fresh := rfl
@[simp] theorem Blk.putHead_regs (b : Blk) (k : Nat) (x : HeadSt) : (b.putHead k x).regs = b.regs := rfl
@[simp] theorem Blk.putHead_out (b : Blk) (k : Nat) (x : HeadSt) : (b.putHead k x).out = b.out := rfl
@[simp] theorem Blk.putHead_ctl (b : Blk) (k : Nat) (x : HeadSt) : (b.putHead k x).ctl = b.ctl := rfl
@[simp] theorem Blk.putHead_acg (b : Blk) (k : Nat) (x : HeadSt) : (b.putHead k x).acg = b.acg := rfl
@[simp] theorem Blk.putHead_prm (b : Blk) (k : Nat) (x : HeadSt) : (b.putHead k x).prm = b.prm := rfl
@[simp] theorem Blk.putHead_ing (b : Blk) (k : Nat) (x : HeadSt) : (b.putHead k x).ing = b.ing := rfl
@[simp] theorem Blk.putHead_nif (b : Blk) (k : Nat) (x : HeadSt) : (b.putHead k x).nif = b.nif := rfl
@[simp] theorem Blk.putHead_sessions (b : Blk) (k : Nat) (x : HeadSt) : (b.putHead k x).sessions = b.sessions := rfl
@[simp] theorem Blk.putHead_stg (b : Blk) (k : Nat) (x : HeadSt) : (b.putHead k x).stg = b.stg := rfl
@[simp] theorem Blk.putHead_contacts (b : Blk) (k : Nat) (x : HeadSt) : (b.putHead k x).contacts = b.contacts := rfl
@[simp] theorem Blk.putHead_xsd (b : Blk) (k : Nat) (x : HeadSt) : (b.putHead k x).xsd = b.xsd := rfl
@[simp] theorem Blk.putHead_vdc (b : Blk) (k : Nat) (x : HeadSt) : (b.putHead k x).vdc = b.vdc := rfl
@[simp] theorem Blk.putHead_vec (b : Blk) (k : Nat) (x : HeadSt) : (b.putHead k x).vec = b.vec := rfl
@[simp] theorem Blk.putHead_vecReady (b : Blk) (k : Nat) (x : HeadSt) : (b.putHead k x).vecReady = b.vecReady := rfl
@[simp] theorem Blk.putHead_thm (b : Blk) (k : Nat) (x : HeadSt) : (b.putHead k x).thm = b.thm := rfl
@[simp] theorem Blk.putHead_units (b : Blk) (k : Nat) (x : HeadSt) : (b.putHead k x).units = b.units := rfl
@[simp] theorem Blk.putHead_lanes (b : Blk) (k : Nat) (x : HeadSt) : (b.putHead k x).lanes = b.lanes := rfl
@[simp] theorem Blk.putHead_chn (b : Blk) (k : Nat) (x : HeadSt) : (b.putHead k x).chn = b.chn := rfl
@[simp] theorem Blk.putHead_heads (b : Blk) (k : Nat) (x : HeadSt) : (b.putHead k x).heads = mset b.heads k x := rfl
@[simp] theorem Blk.putHead_driving (b : Blk) (k : Nat) (x : HeadSt) : (b.putHead k x).driving = b.driving := rfl
@[simp] theorem Blk.putHead_clk (b : Blk) (k : Nat) (x : HeadSt) : (b.putHead k x).clk = b.clk := rfl
@[simp] theorem Blk.putHead_pair (b : Blk) (k : Nat) (x : HeadSt) : (b.putHead k x).pair = b.pair := rfl
@[simp] theorem Blk.putHead_ens (b : Blk) (k : Nat) (x : HeadSt) : (b.putHead k x).ens = b.ens := rfl
@[simp] theorem Blk.putHead_mem (b : Blk) (k : Nat) (x : HeadSt) : (b.putHead k x).mem = b.mem := rfl
@[simp] theorem Blk.putHead_crc (b : Blk) (k : Nat) (x : HeadSt) : (b.putHead k x).crc = b.crc := rfl
@[simp] theorem Blk.putHead_pwr (b : Blk) (k : Nat) (x : HeadSt) : (b.putHead k x).pwr = b.pwr := rfl
@[simp] theorem Blk.putHead_show_ (b : Blk) (k : Nat) (x : HeadSt) : (b.putHead k x).show_ = b.show_ := rfl

@[simp] theorem Blk.putPort_now (b : Blk) (k : Nat) (x : NifPort) : (b.putPort k x).now = b.now := rfl
@[simp] theorem Blk.putPort_up (b : Blk) (k : Nat) (x : NifPort) : (b.putPort k x).up = b.up := rfl
@[simp] theorem Blk.putPort_fresh (b : Blk) (k : Nat) (x : NifPort) : (b.putPort k x).fresh = b.fresh := rfl
@[simp] theorem Blk.putPort_regs (b : Blk) (k : Nat) (x : NifPort) : (b.putPort k x).regs = b.regs := rfl
@[simp] theorem Blk.putPort_out (b : Blk) (k : Nat) (x : NifPort) : (b.putPort k x).out = b.out := rfl
@[simp] theorem Blk.putPort_ctl (b : Blk) (k : Nat) (x : NifPort) : (b.putPort k x).ctl = b.ctl := rfl
@[simp] theorem Blk.putPort_acg (b : Blk) (k : Nat) (x : NifPort) : (b.putPort k x).acg = b.acg := rfl
@[simp] theorem Blk.putPort_prm (b : Blk) (k : Nat) (x : NifPort) : (b.putPort k x).prm = b.prm := rfl
@[simp] theorem Blk.putPort_ing (b : Blk) (k : Nat) (x : NifPort) : (b.putPort k x).ing = b.ing := rfl
@[simp] theorem Blk.putPort_nif (b : Blk) (k : Nat) (x : NifPort) : (b.putPort k x).nif = mset b.nif k x := rfl
@[simp] theorem Blk.putPort_sessions (b : Blk) (k : Nat) (x : NifPort) : (b.putPort k x).sessions = b.sessions := rfl
@[simp] theorem Blk.putPort_stg (b : Blk) (k : Nat) (x : NifPort) : (b.putPort k x).stg = b.stg := rfl
@[simp] theorem Blk.putPort_contacts (b : Blk) (k : Nat) (x : NifPort) : (b.putPort k x).contacts = b.contacts := rfl
@[simp] theorem Blk.putPort_xsd (b : Blk) (k : Nat) (x : NifPort) : (b.putPort k x).xsd = b.xsd := rfl
@[simp] theorem Blk.putPort_vdc (b : Blk) (k : Nat) (x : NifPort) : (b.putPort k x).vdc = b.vdc := rfl
@[simp] theorem Blk.putPort_vec (b : Blk) (k : Nat) (x : NifPort) : (b.putPort k x).vec = b.vec := rfl
@[simp] theorem Blk.putPort_vecReady (b : Blk) (k : Nat) (x : NifPort) : (b.putPort k x).vecReady = b.vecReady := rfl
@[simp] theorem Blk.putPort_thm (b : Blk) (k : Nat) (x : NifPort) : (b.putPort k x).thm = b.thm := rfl
@[simp] theorem Blk.putPort_units (b : Blk) (k : Nat) (x : NifPort) : (b.putPort k x).units = b.units := rfl
@[simp] theorem Blk.putPort_lanes (b : Blk) (k : Nat) (x : NifPort) : (b.putPort k x).lanes = b.lanes := rfl
@[simp] theorem Blk.putPort_chn (b : Blk) (k : Nat) (x : NifPort) : (b.putPort k x).chn = b.chn := rfl
@[simp] theorem Blk.putPort_heads (b : Blk) (k : Nat) (x : NifPort) : (b.putPort k x).heads = b.heads := rfl
@[simp] theorem Blk.putPort_driving (b : Blk) (k : Nat) (x : NifPort) : (b.putPort k x).driving = b.driving := rfl
@[simp] theorem Blk.putPort_clk (b : Blk) (k : Nat) (x : NifPort) : (b.putPort k x).clk = b.clk := rfl
@[simp] theorem Blk.putPort_pair (b : Blk) (k : Nat) (x : NifPort) : (b.putPort k x).pair = b.pair := rfl
@[simp] theorem Blk.putPort_ens (b : Blk) (k : Nat) (x : NifPort) : (b.putPort k x).ens = b.ens := rfl
@[simp] theorem Blk.putPort_mem (b : Blk) (k : Nat) (x : NifPort) : (b.putPort k x).mem = b.mem := rfl
@[simp] theorem Blk.putPort_crc (b : Blk) (k : Nat) (x : NifPort) : (b.putPort k x).crc = b.crc := rfl
@[simp] theorem Blk.putPort_pwr (b : Blk) (k : Nat) (x : NifPort) : (b.putPort k x).pwr = b.pwr := rfl
@[simp] theorem Blk.putPort_show_ (b : Blk) (k : Nat) (x : NifPort) : (b.putPort k x).show_ = b.show_ := rfl

@[simp] theorem Blk.putChan_now (b : Blk) (k : Nat) (x : IngCh) : (b.putChan k x).now = b.now := rfl
@[simp] theorem Blk.putChan_up (b : Blk) (k : Nat) (x : IngCh) : (b.putChan k x).up = b.up := rfl
@[simp] theorem Blk.putChan_fresh (b : Blk) (k : Nat) (x : IngCh) : (b.putChan k x).fresh = b.fresh := rfl
@[simp] theorem Blk.putChan_regs (b : Blk) (k : Nat) (x : IngCh) : (b.putChan k x).regs = b.regs := rfl
@[simp] theorem Blk.putChan_out (b : Blk) (k : Nat) (x : IngCh) : (b.putChan k x).out = b.out := rfl
@[simp] theorem Blk.putChan_ctl (b : Blk) (k : Nat) (x : IngCh) : (b.putChan k x).ctl = b.ctl := rfl
@[simp] theorem Blk.putChan_acg (b : Blk) (k : Nat) (x : IngCh) : (b.putChan k x).acg = b.acg := rfl
@[simp] theorem Blk.putChan_prm (b : Blk) (k : Nat) (x : IngCh) : (b.putChan k x).prm = b.prm := rfl
@[simp] theorem Blk.putChan_ing (b : Blk) (k : Nat) (x : IngCh) : (b.putChan k x).ing = mset b.ing k x := rfl
@[simp] theorem Blk.putChan_nif (b : Blk) (k : Nat) (x : IngCh) : (b.putChan k x).nif = b.nif := rfl
@[simp] theorem Blk.putChan_sessions (b : Blk) (k : Nat) (x : IngCh) : (b.putChan k x).sessions = b.sessions := rfl
@[simp] theorem Blk.putChan_stg (b : Blk) (k : Nat) (x : IngCh) : (b.putChan k x).stg = b.stg := rfl
@[simp] theorem Blk.putChan_contacts (b : Blk) (k : Nat) (x : IngCh) : (b.putChan k x).contacts = b.contacts := rfl
@[simp] theorem Blk.putChan_xsd (b : Blk) (k : Nat) (x : IngCh) : (b.putChan k x).xsd = b.xsd := rfl
@[simp] theorem Blk.putChan_vdc (b : Blk) (k : Nat) (x : IngCh) : (b.putChan k x).vdc = b.vdc := rfl
@[simp] theorem Blk.putChan_vec (b : Blk) (k : Nat) (x : IngCh) : (b.putChan k x).vec = b.vec := rfl
@[simp] theorem Blk.putChan_vecReady (b : Blk) (k : Nat) (x : IngCh) : (b.putChan k x).vecReady = b.vecReady := rfl
@[simp] theorem Blk.putChan_thm (b : Blk) (k : Nat) (x : IngCh) : (b.putChan k x).thm = b.thm := rfl
@[simp] theorem Blk.putChan_units (b : Blk) (k : Nat) (x : IngCh) : (b.putChan k x).units = b.units := rfl
@[simp] theorem Blk.putChan_lanes (b : Blk) (k : Nat) (x : IngCh) : (b.putChan k x).lanes = b.lanes := rfl
@[simp] theorem Blk.putChan_chn (b : Blk) (k : Nat) (x : IngCh) : (b.putChan k x).chn = b.chn := rfl
@[simp] theorem Blk.putChan_heads (b : Blk) (k : Nat) (x : IngCh) : (b.putChan k x).heads = b.heads := rfl
@[simp] theorem Blk.putChan_driving (b : Blk) (k : Nat) (x : IngCh) : (b.putChan k x).driving = b.driving := rfl
@[simp] theorem Blk.putChan_clk (b : Blk) (k : Nat) (x : IngCh) : (b.putChan k x).clk = b.clk := rfl
@[simp] theorem Blk.putChan_pair (b : Blk) (k : Nat) (x : IngCh) : (b.putChan k x).pair = b.pair := rfl
@[simp] theorem Blk.putChan_ens (b : Blk) (k : Nat) (x : IngCh) : (b.putChan k x).ens = b.ens := rfl
@[simp] theorem Blk.putChan_mem (b : Blk) (k : Nat) (x : IngCh) : (b.putChan k x).mem = b.mem := rfl
@[simp] theorem Blk.putChan_crc (b : Blk) (k : Nat) (x : IngCh) : (b.putChan k x).crc = b.crc := rfl
@[simp] theorem Blk.putChan_pwr (b : Blk) (k : Nat) (x : IngCh) : (b.putChan k x).pwr = b.pwr := rfl
@[simp] theorem Blk.putChan_show_ (b : Blk) (k : Nat) (x : IngCh) : (b.putChan k x).show_ = b.show_ := rfl

@[simp] theorem Blk.putUnit_now (b : Blk) (k : Nat) (x : LaneUnit) : (b.putUnit k x).now = b.now := rfl
@[simp] theorem Blk.putUnit_up (b : Blk) (k : Nat) (x : LaneUnit) : (b.putUnit k x).up = b.up := rfl
@[simp] theorem Blk.putUnit_fresh (b : Blk) (k : Nat) (x : LaneUnit) : (b.putUnit k x).fresh = b.fresh := rfl
@[simp] theorem Blk.putUnit_regs (b : Blk) (k : Nat) (x : LaneUnit) : (b.putUnit k x).regs = b.regs := rfl
@[simp] theorem Blk.putUnit_out (b : Blk) (k : Nat) (x : LaneUnit) : (b.putUnit k x).out = b.out := rfl
@[simp] theorem Blk.putUnit_ctl (b : Blk) (k : Nat) (x : LaneUnit) : (b.putUnit k x).ctl = b.ctl := rfl
@[simp] theorem Blk.putUnit_acg (b : Blk) (k : Nat) (x : LaneUnit) : (b.putUnit k x).acg = b.acg := rfl
@[simp] theorem Blk.putUnit_prm (b : Blk) (k : Nat) (x : LaneUnit) : (b.putUnit k x).prm = b.prm := rfl
@[simp] theorem Blk.putUnit_ing (b : Blk) (k : Nat) (x : LaneUnit) : (b.putUnit k x).ing = b.ing := rfl
@[simp] theorem Blk.putUnit_nif (b : Blk) (k : Nat) (x : LaneUnit) : (b.putUnit k x).nif = b.nif := rfl
@[simp] theorem Blk.putUnit_sessions (b : Blk) (k : Nat) (x : LaneUnit) : (b.putUnit k x).sessions = b.sessions := rfl
@[simp] theorem Blk.putUnit_stg (b : Blk) (k : Nat) (x : LaneUnit) : (b.putUnit k x).stg = b.stg := rfl
@[simp] theorem Blk.putUnit_contacts (b : Blk) (k : Nat) (x : LaneUnit) : (b.putUnit k x).contacts = b.contacts := rfl
@[simp] theorem Blk.putUnit_xsd (b : Blk) (k : Nat) (x : LaneUnit) : (b.putUnit k x).xsd = b.xsd := rfl
@[simp] theorem Blk.putUnit_vdc (b : Blk) (k : Nat) (x : LaneUnit) : (b.putUnit k x).vdc = b.vdc := rfl
@[simp] theorem Blk.putUnit_vec (b : Blk) (k : Nat) (x : LaneUnit) : (b.putUnit k x).vec = b.vec := rfl
@[simp] theorem Blk.putUnit_vecReady (b : Blk) (k : Nat) (x : LaneUnit) : (b.putUnit k x).vecReady = b.vecReady := rfl
@[simp] theorem Blk.putUnit_thm (b : Blk) (k : Nat) (x : LaneUnit) : (b.putUnit k x).thm = b.thm := rfl
@[simp] theorem Blk.putUnit_units (b : Blk) (k : Nat) (x : LaneUnit) : (b.putUnit k x).units = mset b.units k x := rfl
@[simp] theorem Blk.putUnit_lanes (b : Blk) (k : Nat) (x : LaneUnit) : (b.putUnit k x).lanes = b.lanes := rfl
@[simp] theorem Blk.putUnit_chn (b : Blk) (k : Nat) (x : LaneUnit) : (b.putUnit k x).chn = b.chn := rfl
@[simp] theorem Blk.putUnit_heads (b : Blk) (k : Nat) (x : LaneUnit) : (b.putUnit k x).heads = b.heads := rfl
@[simp] theorem Blk.putUnit_driving (b : Blk) (k : Nat) (x : LaneUnit) : (b.putUnit k x).driving = b.driving := rfl
@[simp] theorem Blk.putUnit_clk (b : Blk) (k : Nat) (x : LaneUnit) : (b.putUnit k x).clk = b.clk := rfl
@[simp] theorem Blk.putUnit_pair (b : Blk) (k : Nat) (x : LaneUnit) : (b.putUnit k x).pair = b.pair := rfl
@[simp] theorem Blk.putUnit_ens (b : Blk) (k : Nat) (x : LaneUnit) : (b.putUnit k x).ens = b.ens := rfl
@[simp] theorem Blk.putUnit_mem (b : Blk) (k : Nat) (x : LaneUnit) : (b.putUnit k x).mem = b.mem := rfl
@[simp] theorem Blk.putUnit_crc (b : Blk) (k : Nat) (x : LaneUnit) : (b.putUnit k x).crc = b.crc := rfl
@[simp] theorem Blk.putUnit_pwr (b : Blk) (k : Nat) (x : LaneUnit) : (b.putUnit k x).pwr = b.pwr := rfl
@[simp] theorem Blk.putUnit_show_ (b : Blk) (k : Nat) (x : LaneUnit) : (b.putUnit k x).show_ = b.show_ := rfl

@[simp] theorem Blk.putLane_now (b : Blk) (k : Nat) (x : LaneSt) : (b.putLane k x).now = b.now := rfl
@[simp] theorem Blk.putLane_up (b : Blk) (k : Nat) (x : LaneSt) : (b.putLane k x).up = b.up := rfl
@[simp] theorem Blk.putLane_fresh (b : Blk) (k : Nat) (x : LaneSt) : (b.putLane k x).fresh = b.fresh := rfl
@[simp] theorem Blk.putLane_regs (b : Blk) (k : Nat) (x : LaneSt) : (b.putLane k x).regs = b.regs := rfl
@[simp] theorem Blk.putLane_out (b : Blk) (k : Nat) (x : LaneSt) : (b.putLane k x).out = b.out := rfl
@[simp] theorem Blk.putLane_ctl (b : Blk) (k : Nat) (x : LaneSt) : (b.putLane k x).ctl = b.ctl := rfl
@[simp] theorem Blk.putLane_acg (b : Blk) (k : Nat) (x : LaneSt) : (b.putLane k x).acg = b.acg := rfl
@[simp] theorem Blk.putLane_prm (b : Blk) (k : Nat) (x : LaneSt) : (b.putLane k x).prm = b.prm := rfl
@[simp] theorem Blk.putLane_ing (b : Blk) (k : Nat) (x : LaneSt) : (b.putLane k x).ing = b.ing := rfl
@[simp] theorem Blk.putLane_nif (b : Blk) (k : Nat) (x : LaneSt) : (b.putLane k x).nif = b.nif := rfl
@[simp] theorem Blk.putLane_sessions (b : Blk) (k : Nat) (x : LaneSt) : (b.putLane k x).sessions = b.sessions := rfl
@[simp] theorem Blk.putLane_stg (b : Blk) (k : Nat) (x : LaneSt) : (b.putLane k x).stg = b.stg := rfl
@[simp] theorem Blk.putLane_contacts (b : Blk) (k : Nat) (x : LaneSt) : (b.putLane k x).contacts = b.contacts := rfl
@[simp] theorem Blk.putLane_xsd (b : Blk) (k : Nat) (x : LaneSt) : (b.putLane k x).xsd = b.xsd := rfl
@[simp] theorem Blk.putLane_vdc (b : Blk) (k : Nat) (x : LaneSt) : (b.putLane k x).vdc = b.vdc := rfl
@[simp] theorem Blk.putLane_vec (b : Blk) (k : Nat) (x : LaneSt) : (b.putLane k x).vec = b.vec := rfl
@[simp] theorem Blk.putLane_vecReady (b : Blk) (k : Nat) (x : LaneSt) : (b.putLane k x).vecReady = b.vecReady := rfl
@[simp] theorem Blk.putLane_thm (b : Blk) (k : Nat) (x : LaneSt) : (b.putLane k x).thm = b.thm := rfl
@[simp] theorem Blk.putLane_units (b : Blk) (k : Nat) (x : LaneSt) : (b.putLane k x).units = b.units := rfl
@[simp] theorem Blk.putLane_lanes (b : Blk) (k : Nat) (x : LaneSt) : (b.putLane k x).lanes = mset b.lanes k x := rfl
@[simp] theorem Blk.putLane_chn (b : Blk) (k : Nat) (x : LaneSt) : (b.putLane k x).chn = b.chn := rfl
@[simp] theorem Blk.putLane_heads (b : Blk) (k : Nat) (x : LaneSt) : (b.putLane k x).heads = b.heads := rfl
@[simp] theorem Blk.putLane_driving (b : Blk) (k : Nat) (x : LaneSt) : (b.putLane k x).driving = b.driving := rfl
@[simp] theorem Blk.putLane_clk (b : Blk) (k : Nat) (x : LaneSt) : (b.putLane k x).clk = b.clk := rfl
@[simp] theorem Blk.putLane_pair (b : Blk) (k : Nat) (x : LaneSt) : (b.putLane k x).pair = b.pair := rfl
@[simp] theorem Blk.putLane_ens (b : Blk) (k : Nat) (x : LaneSt) : (b.putLane k x).ens = b.ens := rfl
@[simp] theorem Blk.putLane_mem (b : Blk) (k : Nat) (x : LaneSt) : (b.putLane k x).mem = b.mem := rfl
@[simp] theorem Blk.putLane_crc (b : Blk) (k : Nat) (x : LaneSt) : (b.putLane k x).crc = b.crc := rfl
@[simp] theorem Blk.putLane_pwr (b : Blk) (k : Nat) (x : LaneSt) : (b.putLane k x).pwr = b.pwr := rfl
@[simp] theorem Blk.putLane_show_ (b : Blk) (k : Nat) (x : LaneSt) : (b.putLane k x).show_ = b.show_ := rfl

@[simp] theorem Blk.putCport_now (b : Blk) (k : Nat) (x : ChnSt) : (b.putCport k x).now = b.now := rfl
@[simp] theorem Blk.putCport_up (b : Blk) (k : Nat) (x : ChnSt) : (b.putCport k x).up = b.up := rfl
@[simp] theorem Blk.putCport_fresh (b : Blk) (k : Nat) (x : ChnSt) : (b.putCport k x).fresh = b.fresh := rfl
@[simp] theorem Blk.putCport_regs (b : Blk) (k : Nat) (x : ChnSt) : (b.putCport k x).regs = b.regs := rfl
@[simp] theorem Blk.putCport_out (b : Blk) (k : Nat) (x : ChnSt) : (b.putCport k x).out = b.out := rfl
@[simp] theorem Blk.putCport_ctl (b : Blk) (k : Nat) (x : ChnSt) : (b.putCport k x).ctl = b.ctl := rfl
@[simp] theorem Blk.putCport_acg (b : Blk) (k : Nat) (x : ChnSt) : (b.putCport k x).acg = b.acg := rfl
@[simp] theorem Blk.putCport_prm (b : Blk) (k : Nat) (x : ChnSt) : (b.putCport k x).prm = b.prm := rfl
@[simp] theorem Blk.putCport_ing (b : Blk) (k : Nat) (x : ChnSt) : (b.putCport k x).ing = b.ing := rfl
@[simp] theorem Blk.putCport_nif (b : Blk) (k : Nat) (x : ChnSt) : (b.putCport k x).nif = b.nif := rfl
@[simp] theorem Blk.putCport_sessions (b : Blk) (k : Nat) (x : ChnSt) : (b.putCport k x).sessions = b.sessions := rfl
@[simp] theorem Blk.putCport_stg (b : Blk) (k : Nat) (x : ChnSt) : (b.putCport k x).stg = b.stg := rfl
@[simp] theorem Blk.putCport_contacts (b : Blk) (k : Nat) (x : ChnSt) : (b.putCport k x).contacts = b.contacts := rfl
@[simp] theorem Blk.putCport_xsd (b : Blk) (k : Nat) (x : ChnSt) : (b.putCport k x).xsd = b.xsd := rfl
@[simp] theorem Blk.putCport_vdc (b : Blk) (k : Nat) (x : ChnSt) : (b.putCport k x).vdc = b.vdc := rfl
@[simp] theorem Blk.putCport_vec (b : Blk) (k : Nat) (x : ChnSt) : (b.putCport k x).vec = b.vec := rfl
@[simp] theorem Blk.putCport_vecReady (b : Blk) (k : Nat) (x : ChnSt) : (b.putCport k x).vecReady = b.vecReady := rfl
@[simp] theorem Blk.putCport_thm (b : Blk) (k : Nat) (x : ChnSt) : (b.putCport k x).thm = b.thm := rfl
@[simp] theorem Blk.putCport_units (b : Blk) (k : Nat) (x : ChnSt) : (b.putCport k x).units = b.units := rfl
@[simp] theorem Blk.putCport_lanes (b : Blk) (k : Nat) (x : ChnSt) : (b.putCport k x).lanes = b.lanes := rfl
@[simp] theorem Blk.putCport_chn (b : Blk) (k : Nat) (x : ChnSt) : (b.putCport k x).chn = mset b.chn k x := rfl
@[simp] theorem Blk.putCport_heads (b : Blk) (k : Nat) (x : ChnSt) : (b.putCport k x).heads = b.heads := rfl
@[simp] theorem Blk.putCport_driving (b : Blk) (k : Nat) (x : ChnSt) : (b.putCport k x).driving = b.driving := rfl
@[simp] theorem Blk.putCport_clk (b : Blk) (k : Nat) (x : ChnSt) : (b.putCport k x).clk = b.clk := rfl
@[simp] theorem Blk.putCport_pair (b : Blk) (k : Nat) (x : ChnSt) : (b.putCport k x).pair = b.pair := rfl
@[simp] theorem Blk.putCport_ens (b : Blk) (k : Nat) (x : ChnSt) : (b.putCport k x).ens = b.ens := rfl
@[simp] theorem Blk.putCport_mem (b : Blk) (k : Nat) (x : ChnSt) : (b.putCport k x).mem = b.mem := rfl
@[simp] theorem Blk.putCport_crc (b : Blk) (k : Nat) (x : ChnSt) : (b.putCport k x).crc = b.crc := rfl
@[simp] theorem Blk.putCport_pwr (b : Blk) (k : Nat) (x : ChnSt) : (b.putCport k x).pwr = b.pwr := rfl
@[simp] theorem Blk.putCport_show_ (b : Blk) (k : Nat) (x : ChnSt) : (b.putCport k x).show_ = b.show_ := rfl

@[simp] theorem Blk.putCrc_now (b : Blk) (k : Nat) (x : CrcSt) : (b.putCrc k x).now = b.now := rfl
@[simp] theorem Blk.putCrc_up (b : Blk) (k : Nat) (x : CrcSt) : (b.putCrc k x).up = b.up := rfl
@[simp] theorem Blk.putCrc_fresh (b : Blk) (k : Nat) (x : CrcSt) : (b.putCrc k x).fresh = b.fresh := rfl
@[simp] theorem Blk.putCrc_regs (b : Blk) (k : Nat) (x : CrcSt) : (b.putCrc k x).regs = b.regs := rfl
@[simp] theorem Blk.putCrc_out (b : Blk) (k : Nat) (x : CrcSt) : (b.putCrc k x).out = b.out := rfl
@[simp] theorem Blk.putCrc_ctl (b : Blk) (k : Nat) (x : CrcSt) : (b.putCrc k x).ctl = b.ctl := rfl
@[simp] theorem Blk.putCrc_acg (b : Blk) (k : Nat) (x : CrcSt) : (b.putCrc k x).acg = b.acg := rfl
@[simp] theorem Blk.putCrc_prm (b : Blk) (k : Nat) (x : CrcSt) : (b.putCrc k x).prm = b.prm := rfl
@[simp] theorem Blk.putCrc_ing (b : Blk) (k : Nat) (x : CrcSt) : (b.putCrc k x).ing = b.ing := rfl
@[simp] theorem Blk.putCrc_nif (b : Blk) (k : Nat) (x : CrcSt) : (b.putCrc k x).nif = b.nif := rfl
@[simp] theorem Blk.putCrc_sessions (b : Blk) (k : Nat) (x : CrcSt) : (b.putCrc k x).sessions = b.sessions := rfl
@[simp] theorem Blk.putCrc_stg (b : Blk) (k : Nat) (x : CrcSt) : (b.putCrc k x).stg = b.stg := rfl
@[simp] theorem Blk.putCrc_contacts (b : Blk) (k : Nat) (x : CrcSt) : (b.putCrc k x).contacts = b.contacts := rfl
@[simp] theorem Blk.putCrc_xsd (b : Blk) (k : Nat) (x : CrcSt) : (b.putCrc k x).xsd = b.xsd := rfl
@[simp] theorem Blk.putCrc_vdc (b : Blk) (k : Nat) (x : CrcSt) : (b.putCrc k x).vdc = b.vdc := rfl
@[simp] theorem Blk.putCrc_vec (b : Blk) (k : Nat) (x : CrcSt) : (b.putCrc k x).vec = b.vec := rfl
@[simp] theorem Blk.putCrc_vecReady (b : Blk) (k : Nat) (x : CrcSt) : (b.putCrc k x).vecReady = b.vecReady := rfl
@[simp] theorem Blk.putCrc_thm (b : Blk) (k : Nat) (x : CrcSt) : (b.putCrc k x).thm = b.thm := rfl
@[simp] theorem Blk.putCrc_units (b : Blk) (k : Nat) (x : CrcSt) : (b.putCrc k x).units = b.units := rfl
@[simp] theorem Blk.putCrc_lanes (b : Blk) (k : Nat) (x : CrcSt) : (b.putCrc k x).lanes = b.lanes := rfl
@[simp] theorem Blk.putCrc_chn (b : Blk) (k : Nat) (x : CrcSt) : (b.putCrc k x).chn = b.chn := rfl
@[simp] theorem Blk.putCrc_heads (b : Blk) (k : Nat) (x : CrcSt) : (b.putCrc k x).heads = b.heads := rfl
@[simp] theorem Blk.putCrc_driving (b : Blk) (k : Nat) (x : CrcSt) : (b.putCrc k x).driving = b.driving := rfl
@[simp] theorem Blk.putCrc_clk (b : Blk) (k : Nat) (x : CrcSt) : (b.putCrc k x).clk = b.clk := rfl
@[simp] theorem Blk.putCrc_pair (b : Blk) (k : Nat) (x : CrcSt) : (b.putCrc k x).pair = b.pair := rfl
@[simp] theorem Blk.putCrc_ens (b : Blk) (k : Nat) (x : CrcSt) : (b.putCrc k x).ens = b.ens := rfl
@[simp] theorem Blk.putCrc_mem (b : Blk) (k : Nat) (x : CrcSt) : (b.putCrc k x).mem = b.mem := rfl
@[simp] theorem Blk.putCrc_crc (b : Blk) (k : Nat) (x : CrcSt) : (b.putCrc k x).crc = mset b.crc k x := rfl
@[simp] theorem Blk.putCrc_pwr (b : Blk) (k : Nat) (x : CrcSt) : (b.putCrc k x).pwr = b.pwr := rfl
@[simp] theorem Blk.putCrc_show_ (b : Blk) (k : Nat) (x : CrcSt) : (b.putCrc k x).show_ = b.show_ := rfl

@[simp] theorem Blk.putPr_now (b : Blk) (x : PairSt) : (b.putPr x).now = b.now := rfl
@[simp] theorem Blk.putPr_up (b : Blk) (x : PairSt) : (b.putPr x).up = b.up := rfl
@[simp] theorem Blk.putPr_fresh (b : Blk) (x : PairSt) : (b.putPr x).fresh = b.fresh := rfl
@[simp] theorem Blk.putPr_regs (b : Blk) (x : PairSt) : (b.putPr x).regs = b.regs := rfl
@[simp] theorem Blk.putPr_out (b : Blk) (x : PairSt) : (b.putPr x).out = b.out := rfl
@[simp] theorem Blk.putPr_ctl (b : Blk) (x : PairSt) : (b.putPr x).ctl = b.ctl := rfl
@[simp] theorem Blk.putPr_acg (b : Blk) (x : PairSt) : (b.putPr x).acg = b.acg := rfl
@[simp] theorem Blk.putPr_prm (b : Blk) (x : PairSt) : (b.putPr x).prm = b.prm := rfl
@[simp] theorem Blk.putPr_ing (b : Blk) (x : PairSt) : (b.putPr x).ing = b.ing := rfl
@[simp] theorem Blk.putPr_nif (b : Blk) (x : PairSt) : (b.putPr x).nif = b.nif := rfl
@[simp] theorem Blk.putPr_sessions (b : Blk) (x : PairSt) : (b.putPr x).sessions = b.sessions := rfl
@[simp] theorem Blk.putPr_stg (b : Blk) (x : PairSt) : (b.putPr x).stg = b.stg := rfl
@[simp] theorem Blk.putPr_contacts (b : Blk) (x : PairSt) : (b.putPr x).contacts = b.contacts := rfl
@[simp] theorem Blk.putPr_xsd (b : Blk) (x : PairSt) : (b.putPr x).xsd = b.xsd := rfl
@[simp] theorem Blk.putPr_vdc (b : Blk) (x : PairSt) : (b.putPr x).vdc = b.vdc := rfl
@[simp] theorem Blk.putPr_vec (b : Blk) (x : PairSt) : (b.putPr x).vec = b.vec := rfl
@[simp] theorem Blk.putPr_vecReady (b : Blk) (x : PairSt) : (b.putPr x).vecReady = b.vecReady := rfl
@[simp] theorem Blk.putPr_thm (b : Blk) (x : PairSt) : (b.putPr x).thm = b.thm := rfl
@[simp] theorem Blk.putPr_units (b : Blk) (x : PairSt) : (b.putPr x).units = b.units := rfl
@[simp] theorem Blk.putPr_lanes (b : Blk) (x : PairSt) : (b.putPr x).lanes = b.lanes := rfl
@[simp] theorem Blk.putPr_chn (b : Blk) (x : PairSt) : (b.putPr x).chn = b.chn := rfl
@[simp] theorem Blk.putPr_heads (b : Blk) (x : PairSt) : (b.putPr x).heads = b.heads := rfl
@[simp] theorem Blk.putPr_driving (b : Blk) (x : PairSt) : (b.putPr x).driving = b.driving := rfl
@[simp] theorem Blk.putPr_clk (b : Blk) (x : PairSt) : (b.putPr x).clk = b.clk := rfl
@[simp] theorem Blk.putPr_pair (b : Blk) (x : PairSt) : (b.putPr x).pair = x := rfl
@[simp] theorem Blk.putPr_ens (b : Blk) (x : PairSt) : (b.putPr x).ens = b.ens := rfl
@[simp] theorem Blk.putPr_mem (b : Blk) (x : PairSt) : (b.putPr x).mem = b.mem := rfl
@[simp] theorem Blk.putPr_crc (b : Blk) (x : PairSt) : (b.putPr x).crc = b.crc := rfl
@[simp] theorem Blk.putPr_pwr (b : Blk) (x : PairSt) : (b.putPr x).pwr = b.pwr := rfl
@[simp] theorem Blk.putPr_show_ (b : Blk) (x : PairSt) : (b.putPr x).show_ = b.show_ := rfl

@[simp] theorem Blk.putPwr_now (b : Blk) (x : PwrSt) : (b.putPwr x).now = b.now := rfl
@[simp] theorem Blk.putPwr_up (b : Blk) (x : PwrSt) : (b.putPwr x).up = b.up := rfl
@[simp] theorem Blk.putPwr_fresh (b : Blk) (x : PwrSt) : (b.putPwr x).fresh = b.fresh := rfl
@[simp] theorem Blk.putPwr_regs (b : Blk) (x : PwrSt) : (b.putPwr x).regs = b.regs := rfl
@[simp] theorem Blk.putPwr_out (b : Blk) (x : PwrSt) : (b.putPwr x).out = b.out := rfl
@[simp] theorem Blk.putPwr_ctl (b : Blk) (x : PwrSt) : (b.putPwr x).ctl = b.ctl := rfl
@[simp] theorem Blk.putPwr_acg (b : Blk) (x : PwrSt) : (b.putPwr x).acg = b.acg := rfl
@[simp] theorem Blk.putPwr_prm (b : Blk) (x : PwrSt) : (b.putPwr x).prm = b.prm := rfl
@[simp] theorem Blk.putPwr_ing (b : Blk) (x : PwrSt) : (b.putPwr x).ing = b.ing := rfl
@[simp] theorem Blk.putPwr_nif (b : Blk) (x : PwrSt) : (b.putPwr x).nif = b.nif := rfl
@[simp] theorem Blk.putPwr_sessions (b : Blk) (x : PwrSt) : (b.putPwr x).sessions = b.sessions := rfl
@[simp] theorem Blk.putPwr_stg (b : Blk) (x : PwrSt) : (b.putPwr x).stg = b.stg := rfl
@[simp] theorem Blk.putPwr_contacts (b : Blk) (x : PwrSt) : (b.putPwr x).contacts = b.contacts := rfl
@[simp] theorem Blk.putPwr_xsd (b : Blk) (x : PwrSt) : (b.putPwr x).xsd = b.xsd := rfl
@[simp] theorem Blk.putPwr_vdc (b : Blk) (x : PwrSt) : (b.putPwr x).vdc = b.vdc := rfl
@[simp] theorem Blk.putPwr_vec (b : Blk) (x : PwrSt) : (b.putPwr x).vec = b.vec := rfl
@[simp] theorem Blk.putPwr_vecReady (b : Blk) (x : PwrSt) : (b.putPwr x).vecReady = b.vecReady := rfl
@[simp] theorem Blk.putPwr_thm (b : Blk) (x : PwrSt) : (b.putPwr x).thm = b.thm := rfl
@[simp] theorem Blk.putPwr_units (b : Blk) (x : PwrSt) : (b.putPwr x).units = b.units := rfl
@[simp] theorem Blk.putPwr_lanes (b : Blk) (x : PwrSt) : (b.putPwr x).lanes = b.lanes := rfl
@[simp] theorem Blk.putPwr_chn (b : Blk) (x : PwrSt) : (b.putPwr x).chn = b.chn := rfl
@[simp] theorem Blk.putPwr_heads (b : Blk) (x : PwrSt) : (b.putPwr x).heads = b.heads := rfl
@[simp] theorem Blk.putPwr_driving (b : Blk) (x : PwrSt) : (b.putPwr x).driving = b.driving := rfl
@[simp] theorem Blk.putPwr_clk (b : Blk) (x : PwrSt) : (b.putPwr x).clk = b.clk := rfl
@[simp] theorem Blk.putPwr_pair (b : Blk) (x : PwrSt) : (b.putPwr x).pair = b.pair := rfl
@[simp] theorem Blk.putPwr_ens (b : Blk) (x : PwrSt) : (b.putPwr x).ens = b.ens := rfl
@[simp] theorem Blk.putPwr_mem (b : Blk) (x : PwrSt) : (b.putPwr x).mem = b.mem := rfl
@[simp] theorem Blk.putPwr_crc (b : Blk) (x : PwrSt) : (b.putPwr x).crc = b.crc := rfl
@[simp] theorem Blk.putPwr_pwr (b : Blk) (x : PwrSt) : (b.putPwr x).pwr = x := rfl
@[simp] theorem Blk.putPwr_show_ (b : Blk) (x : PwrSt) : (b.putPwr x).show_ = b.show_ := rfl

@[simp] theorem Blk.putShow_now (b : Blk) (x : ShowSt) : (b.putShow x).now = b.now := rfl
@[simp] theorem Blk.putShow_up (b : Blk) (x : ShowSt) : (b.putShow x).up = b.up := rfl
@[simp] theorem Blk.putShow_fresh (b : Blk) (x : ShowSt) : (b.putShow x).fresh = b.fresh := rfl
@[simp] theorem Blk.putShow_regs (b : Blk) (x : ShowSt) : (b.putShow x).regs = b.regs := rfl
@[simp] theorem Blk.putShow_out (b : Blk) (x : ShowSt) : (b.putShow x).out = b.out := rfl
@[simp] theorem Blk.putShow_ctl (b : Blk) (x : ShowSt) : (b.putShow x).ctl = b.ctl := rfl
@[simp] theorem Blk.putShow_acg (b : Blk) (x : ShowSt) : (b.putShow x).acg = b.acg := rfl
@[simp] theorem Blk.putShow_prm (b : Blk) (x : ShowSt) : (b.putShow x).prm = b.prm := rfl
@[simp] theorem Blk.putShow_ing (b : Blk) (x : ShowSt) : (b.putShow x).ing = b.ing := rfl
@[simp] theorem Blk.putShow_nif (b : Blk) (x : ShowSt) : (b.putShow x).nif = b.nif := rfl
@[simp] theorem Blk.putShow_sessions (b : Blk) (x : ShowSt) : (b.putShow x).sessions = b.sessions := rfl
@[simp] theorem Blk.putShow_stg (b : Blk) (x : ShowSt) : (b.putShow x).stg = b.stg := rfl
@[simp] theorem Blk.putShow_contacts (b : Blk) (x : ShowSt) : (b.putShow x).contacts = b.contacts := rfl
@[simp] theorem Blk.putShow_xsd (b : Blk) (x : ShowSt) : (b.putShow x).xsd = b.xsd := rfl
@[simp] theorem Blk.putShow_vdc (b : Blk) (x : ShowSt) : (b.putShow x).vdc = b.vdc := rfl
@[simp] theorem Blk.putShow_vec (b : Blk) (x : ShowSt) : (b.putShow x).vec = b.vec := rfl
@[simp] theorem Blk.putShow_vecReady (b : Blk) (x : ShowSt) : (b.putShow x).vecReady = b.vecReady := rfl
@[simp] theorem Blk.putShow_thm (b : Blk) (x : ShowSt) : (b.putShow x).thm = b.thm := rfl
@[simp] theorem Blk.putShow_units (b : Blk) (x : ShowSt) : (b.putShow x).units = b.units := rfl
@[simp] theorem Blk.putShow_lanes (b : Blk) (x : ShowSt) : (b.putShow x).lanes = b.lanes := rfl
@[simp] theorem Blk.putShow_chn (b : Blk) (x : ShowSt) : (b.putShow x).chn = b.chn := rfl
@[simp] theorem Blk.putShow_heads (b : Blk) (x : ShowSt) : (b.putShow x).heads = b.heads := rfl
@[simp] theorem Blk.putShow_driving (b : Blk) (x : ShowSt) : (b.putShow x).driving = b.driving := rfl
@[simp] theorem Blk.putShow_clk (b : Blk) (x : ShowSt) : (b.putShow x).clk = b.clk := rfl
@[simp] theorem Blk.putShow_pair (b : Blk) (x : ShowSt) : (b.putShow x).pair = b.pair := rfl
@[simp] theorem Blk.putShow_ens (b : Blk) (x : ShowSt) : (b.putShow x).ens = b.ens := rfl
@[simp] theorem Blk.putShow_mem (b : Blk) (x : ShowSt) : (b.putShow x).mem = b.mem := rfl
@[simp] theorem Blk.putShow_crc (b : Blk) (x : ShowSt) : (b.putShow x).crc = b.crc := rfl
@[simp] theorem Blk.putShow_pwr (b : Blk) (x : ShowSt) : (b.putShow x).pwr = b.pwr := rfl
@[simp] theorem Blk.putShow_show_ (b : Blk) (x : ShowSt) : (b.putShow x).show_ = x := rfl

@[simp] theorem Blk.putThm_now (b : Blk) (x : Thm) : (b.putThm x).now = b.now := rfl
@[simp] theorem Blk.putThm_up (b : Blk) (x : Thm) : (b.putThm x).up = b.up := rfl
@[simp] theorem Blk.putThm_fresh (b : Blk) (x : Thm) : (b.putThm x).fresh = b.fresh := rfl
@[simp] theorem Blk.putThm_regs (b : Blk) (x : Thm) : (b.putThm x).regs = b.regs := rfl
@[simp] theorem Blk.putThm_out (b : Blk) (x : Thm) : (b.putThm x).out = b.out := rfl
@[simp] theorem Blk.putThm_ctl (b : Blk) (x : Thm) : (b.putThm x).ctl = b.ctl := rfl
@[simp] theorem Blk.putThm_acg (b : Blk) (x : Thm) : (b.putThm x).acg = b.acg := rfl
@[simp] theorem Blk.putThm_prm (b : Blk) (x : Thm) : (b.putThm x).prm = b.prm := rfl
@[simp] theorem Blk.putThm_ing (b : Blk) (x : Thm) : (b.putThm x).ing = b.ing := rfl
@[simp] theorem Blk.putThm_nif (b : Blk) (x : Thm) : (b.putThm x).nif = b.nif := rfl
@[simp] theorem Blk.putThm_sessions (b : Blk) (x : Thm) : (b.putThm x).sessions = b.sessions := rfl
@[simp] theorem Blk.putThm_stg (b : Blk) (x : Thm) : (b.putThm x).stg = b.stg := rfl
@[simp] theorem Blk.putThm_contacts (b : Blk) (x : Thm) : (b.putThm x).contacts = b.contacts := rfl
@[simp] theorem Blk.putThm_xsd (b : Blk) (x : Thm) : (b.putThm x).xsd = b.xsd := rfl
@[simp] theorem Blk.putThm_vdc (b : Blk) (x : Thm) : (b.putThm x).vdc = b.vdc := rfl
@[simp] theorem Blk.putThm_vec (b : Blk) (x : Thm) : (b.putThm x).vec = b.vec := rfl
@[simp] theorem Blk.putThm_vecReady (b : Blk) (x : Thm) : (b.putThm x).vecReady = b.vecReady := rfl
@[simp] theorem Blk.putThm_thm (b : Blk) (x : Thm) : (b.putThm x).thm = x := rfl
@[simp] theorem Blk.putThm_units (b : Blk) (x : Thm) : (b.putThm x).units = b.units := rfl
@[simp] theorem Blk.putThm_lanes (b : Blk) (x : Thm) : (b.putThm x).lanes = b.lanes := rfl
@[simp] theorem Blk.putThm_chn (b : Blk) (x : Thm) : (b.putThm x).chn = b.chn := rfl
@[simp] theorem Blk.putThm_heads (b : Blk) (x : Thm) : (b.putThm x).heads = b.heads := rfl
@[simp] theorem Blk.putThm_driving (b : Blk) (x : Thm) : (b.putThm x).driving = b.driving := rfl
@[simp] theorem Blk.putThm_clk (b : Blk) (x : Thm) : (b.putThm x).clk = b.clk := rfl
@[simp] theorem Blk.putThm_pair (b : Blk) (x : Thm) : (b.putThm x).pair = b.pair := rfl
@[simp] theorem Blk.putThm_ens (b : Blk) (x : Thm) : (b.putThm x).ens = b.ens := rfl
@[simp] theorem Blk.putThm_mem (b : Blk) (x : Thm) : (b.putThm x).mem = b.mem := rfl
@[simp] theorem Blk.putThm_crc (b : Blk) (x : Thm) : (b.putThm x).crc = b.crc := rfl
@[simp] theorem Blk.putThm_pwr (b : Blk) (x : Thm) : (b.putThm x).pwr = b.pwr := rfl
@[simp] theorem Blk.putThm_show_ (b : Blk) (x : Thm) : (b.putThm x).show_ = b.show_ := rfl

@[simp] theorem flagSet_now (a m : Nat) (l : SMap Nat) (b : Blk) : (flagSet a m l b).now = b.now := rfl
@[simp] theorem flagSet_up (a m : Nat) (l : SMap Nat) (b : Blk) : (flagSet a m l b).up = b.up := rfl
@[simp] theorem flagSet_fresh (a m : Nat) (l : SMap Nat) (b : Blk) : (flagSet a m l b).fresh = b.fresh := rfl
@[simp] theorem flagSet_regs (a m : Nat) (l : SMap Nat) (b : Blk) : (flagSet a m l b).regs = b.regs := rfl
@[simp] theorem flagSet_out (a m : Nat) (l : SMap Nat) (b : Blk) : (flagSet a m l b).out = b.out := rfl
@[simp] theorem flagSet_acg (a m : Nat) (l : SMap Nat) (b : Blk) : (flagSet a m l b).acg = b.acg := rfl
@[simp] theorem flagSet_prm (a m : Nat) (l : SMap Nat) (b : Blk) : (flagSet a m l b).prm = b.prm := rfl
@[simp] theorem flagSet_ing (a m : Nat) (l : SMap Nat) (b : Blk) : (flagSet a m l b).ing = b.ing := rfl
@[simp] theorem flagSet_nif (a m : Nat) (l : SMap Nat) (b : Blk) : (flagSet a m l b).nif = b.nif := rfl
@[simp] theorem flagSet_sessions (a m : Nat) (l : SMap Nat) (b : Blk) : (flagSet a m l b).sessions = b.sessions := rfl
@[simp] theorem flagSet_stg (a m : Nat) (l : SMap Nat) (b : Blk) : (flagSet a m l b).stg = b.stg := rfl
@[simp] theorem flagSet_contacts (a m : Nat) (l : SMap Nat) (b : Blk) : (flagSet a m l b).contacts = b.contacts := rfl
@[simp] theorem flagSet_xsd (a m : Nat) (l : SMap Nat) (b : Blk) : (flagSet a m l b).xsd = b.xsd := rfl
@[simp] theorem flagSet_vdc (a m : Nat) (l : SMap Nat) (b : Blk) : (flagSet a m l b).vdc = b.vdc := rfl
@[simp] theorem flagSet_vec (a m : Nat) (l : SMap Nat) (b : Blk) : (flagSet a m l b).vec = b.vec := rfl
@[simp] theorem flagSet_vecReady (a m : Nat) (l : SMap Nat) (b : Blk) : (flagSet a m l b).vecReady = b.vecReady := rfl
@[simp] theorem flagSet_thm (a m : Nat) (l : SMap Nat) (b : Blk) : (flagSet a m l b).thm = b.thm := rfl
@[simp] theorem flagSet_units (a m : Nat) (l : SMap Nat) (b : Blk) : (flagSet a m l b).units = b.units := rfl
@[simp] theorem flagSet_lanes (a m : Nat) (l : SMap Nat) (b : Blk) : (flagSet a m l b).lanes = b.lanes := rfl
@[simp] theorem flagSet_chn (a m : Nat) (l : SMap Nat) (b : Blk) : (flagSet a m l b).chn = b.chn := rfl
@[simp] theorem flagSet_heads (a m : Nat) (l : SMap Nat) (b : Blk) : (flagSet a m l b).heads = b.heads := rfl
@[simp] theorem flagSet_driving (a m : Nat) (l : SMap Nat) (b : Blk) : (flagSet a m l b).driving = b.driving := rfl
@[simp] theorem flagSet_clk (a m : Nat) (l : SMap Nat) (b : Blk) : (flagSet a m l b).clk = b.clk := rfl
@[simp] theorem flagSet_pair (a m : Nat) (l : SMap Nat) (b : Blk) : (flagSet a m l b).pair = b.pair := rfl
@[simp] theorem flagSet_ens (a m : Nat) (l : SMap Nat) (b : Blk) : (flagSet a m l b).ens = b.ens := rfl
@[simp] theorem flagSet_mem (a m : Nat) (l : SMap Nat) (b : Blk) : (flagSet a m l b).mem = b.mem := rfl
@[simp] theorem flagSet_crc (a m : Nat) (l : SMap Nat) (b : Blk) : (flagSet a m l b).crc = b.crc := rfl
@[simp] theorem flagSet_pwr (a m : Nat) (l : SMap Nat) (b : Blk) : (flagSet a m l b).pwr = b.pwr := rfl
@[simp] theorem flagSet_show_ (a m : Nat) (l : SMap Nat) (b : Blk) : (flagSet a m l b).show_ = b.show_ := rfl

/-! ### The state as a whole -/

@[simp] theorem eff_next (dt : Nat) (s : State) (f : Blk → Blk) : eff dt s f = .next { s with blk := f (s.blk.tick dt) } := rfl

@[simp] theorem effM_next (dt : Nat) (s : State) (f : Blk → FrameStore → Blk × FrameStore) :
    effM dt s f = .next { s with blk := (f (s.blk.tick dt) s.store).1, store := (f (s.blk.tick dt) s.store).2 } := rfl

end Sys2Proof.Machine
end

