-- ==== Sys2Proof/Laws/Registers.lean ====
section
/-!
SUPPORT. Laws of the register file: a field reads as written, other fields hold, and what recording an event may change.
-/

namespace Sys2Proof.Machine

/-! ### Fields -/

/-- A field reads as written, cut to its width. -/
@[simp] theorem Blk.rd_wr_same (b : Blk) (f : Fld) (i v k : Nat) : (b.wr f i v k).rd f i k = v % 2 ^ f.w := by
  simp [Blk.rd, Blk.wr]

/-- A field with another key holds its value. -/
theorem Blk.rd_wr_ne (b : Blk) (f g : Fld) (i v k j l : Nat) (h : g.key j l ≠ f.key i k) :
    (b.wr f i v k).rd g j l = b.rd g j l := by
  simp [Blk.rd, Blk.wr, h]

/-- Reading a field after writing one, by their keys. -/
theorem Blk.rd_wr (b : Blk) (f g : Fld) (i v k j l : Nat) :
    (b.wr f i v k).rd g j l = if g.key j l = f.key i k then v % 2 ^ f.w else b.rd g j l := by
  simp only [Blk.rd, Blk.wr, mget_mset]; split <;> rfl

@[simp] theorem Blk.rd_emit (b : Blk) (e : Emit) (f : Fld) (i k : Nat) : (b.emit e).rd f i k = b.rd f i k := rfl
@[simp] theorem rd_flagSet (a m : Nat) (l : SMap Nat) (b : Blk) (f : Fld) (i k : Nat) : (flagSet a m l b).rd f i k = b.rd f i k := rfl
@[simp] theorem Blk.rd_useFresh (b : Blk) (f : Fld) (i k : Nat) : b.useFresh.rd f i k = b.rd f i k := rfl
@[simp] theorem Blk.rd_tick (b : Blk) (dt : Nat) (f : Fld) (i k : Nat) : (b.tick dt).rd f i k = b.rd f i k := rfl
@[simp] theorem Blk.on_tick (b : Blk) (dt : Nat) (f : Fld) (i k : Nat) : (b.tick dt).on f i k = b.on f i k := rfl
@[simp] theorem enabled_tick (b : Blk) (dt : Nat) (p : Page) : enabled (b.tick dt) p = enabled b p := rfl

@[simp] theorem Blk.rd_with_now (b : Blk) (x : Nat) (f : Fld) (i k : Nat) : ({ b with now := x } : Blk).rd f i k = b.rd f i k := rfl
@[simp] theorem Blk.rd_with_up (b : Blk) (x : Nat) (f : Fld) (i k : Nat) : ({ b with up := x } : Blk).rd f i k = b.rd f i k := rfl
@[simp] theorem Blk.rd_with_fresh (b : Blk) (x : Nat) (f : Fld) (i k : Nat) : ({ b with fresh := x } : Blk).rd f i k = b.rd f i k := rfl
@[simp] theorem Blk.rd_with_out (b : Blk) (x : List Emit) (f : Fld) (i k : Nat) : ({ b with out := x } : Blk).rd f i k = b.rd f i k := rfl
@[simp] theorem Blk.rd_with_ctl (b : Blk) (x : Ctl) (f : Fld) (i k : Nat) : ({ b with ctl := x } : Blk).rd f i k = b.rd f i k := rfl
@[simp] theorem Blk.rd_with_acg (b : Blk) (x : Acg) (f : Fld) (i k : Nat) : ({ b with acg := x } : Blk).rd f i k = b.rd f i k := rfl
@[simp] theorem Blk.rd_with_prm (b : Blk) (x : Prm) (f : Fld) (i k : Nat) : ({ b with prm := x } : Blk).rd f i k = b.rd f i k := rfl
@[simp] theorem Blk.rd_with_ing (b : Blk) (x : SMap IngCh) (f : Fld) (i k : Nat) : ({ b with ing := x } : Blk).rd f i k = b.rd f i k := rfl
@[simp] theorem Blk.rd_with_nif (b : Blk) (x : SMap NifPort) (f : Fld) (i k : Nat) : ({ b with nif := x } : Blk).rd f i k = b.rd f i k := rfl
@[simp] theorem Blk.rd_with_sessions (b : Blk) (x : List Session) (f : Fld) (i k : Nat) : ({ b with sessions := x } : Blk).rd f i k = b.rd f i k := rfl
@[simp] theorem Blk.rd_with_stg (b : Blk) (x : SMap StgSt) (f : Fld) (i k : Nat) : ({ b with stg := x } : Blk).rd f i k = b.rd f i k := rfl
@[simp] theorem Blk.rd_with_contacts (b : Blk) (x : SMap Contact) (f : Fld) (i k : Nat) : ({ b with contacts := x } : Blk).rd f i k = b.rd f i k := rfl
@[simp] theorem Blk.rd_with_xsd (b : Blk) (x : SMap Nat) (f : Fld) (i k : Nat) : ({ b with xsd := x } : Blk).rd f i k = b.rd f i k := rfl
@[simp] theorem Blk.rd_with_vdc (b : Blk) (x : SMap VdcCtx) (f : Fld) (i k : Nat) : ({ b with vdc := x } : Blk).rd f i k = b.rd f i k := rfl
@[simp] theorem Blk.rd_with_vec (b : Blk) (x : SMap VecCtx) (f : Fld) (i k : Nat) : ({ b with vec := x } : Blk).rd f i k = b.rd f i k := rfl
@[simp] theorem Blk.rd_with_vecReady (b : Blk) (x : List (Nat × Nat)) (f : Fld) (i k : Nat) : ({ b with vecReady := x } : Blk).rd f i k = b.rd f i k := rfl
@[simp] theorem Blk.rd_with_thm (b : Blk) (x : Thm) (f : Fld) (i k : Nat) : ({ b with thm := x } : Blk).rd f i k = b.rd f i k := rfl
@[simp] theorem Blk.rd_with_units (b : Blk) (x : SMap LaneUnit) (f : Fld) (i k : Nat) : ({ b with units := x } : Blk).rd f i k = b.rd f i k := rfl
@[simp] theorem Blk.rd_with_lanes (b : Blk) (x : SMap LaneSt) (f : Fld) (i k : Nat) : ({ b with lanes := x } : Blk).rd f i k = b.rd f i k := rfl
@[simp] theorem Blk.rd_with_chn (b : Blk) (x : SMap ChnSt) (f : Fld) (i k : Nat) : ({ b with chn := x } : Blk).rd f i k = b.rd f i k := rfl
@[simp] theorem Blk.rd_with_heads (b : Blk) (x : SMap HeadSt) (f : Fld) (i k : Nat) : ({ b with heads := x } : Blk).rd f i k = b.rd f i k := rfl
@[simp] theorem Blk.rd_with_driving (b : Blk) (x : Bool) (f : Fld) (i k : Nat) : ({ b with driving := x } : Blk).rd f i k = b.rd f i k := rfl
@[simp] theorem Blk.rd_with_clk (b : Blk) (x : ClkSt) (f : Fld) (i k : Nat) : ({ b with clk := x } : Blk).rd f i k = b.rd f i k := rfl
@[simp] theorem Blk.rd_with_pair (b : Blk) (x : PairSt) (f : Fld) (i k : Nat) : ({ b with pair := x } : Blk).rd f i k = b.rd f i k := rfl
@[simp] theorem Blk.rd_with_ens (b : Blk) (x : EnsSt) (f : Fld) (i k : Nat) : ({ b with ens := x } : Blk).rd f i k = b.rd f i k := rfl
@[simp] theorem Blk.rd_with_mem (b : Blk) (x : MemSt) (f : Fld) (i k : Nat) : ({ b with mem := x } : Blk).rd f i k = b.rd f i k := rfl
@[simp] theorem Blk.rd_with_crc (b : Blk) (x : SMap CrcSt) (f : Fld) (i k : Nat) : ({ b with crc := x } : Blk).rd f i k = b.rd f i k := rfl
@[simp] theorem Blk.rd_with_pwr (b : Blk) (x : PwrSt) (f : Fld) (i k : Nat) : ({ b with pwr := x } : Blk).rd f i k = b.rd f i k := rfl
@[simp] theorem Blk.rd_with_show_ (b : Blk) (x : ShowSt) (f : Fld) (i k : Nat) : ({ b with show_ := x } : Blk).rd f i k = b.rd f i k := rfl

/-! ### Reads after a named update of a part beside the registers -/

@[simp] theorem Blk.rd_putRef (b : Blk) (k : Nat) (x : RefSt) (f : Fld) (i j : Nat) :
    (b.putRef k x).rd f i j = b.rd f i j := rfl
@[simp] theorem Blk.rd_putVdc (b : Blk) (x : Nat) (v : VdcCtx) (f : Fld) (i j : Nat) :
    (b.putVdc x v).rd f i j = b.rd f i j := rfl
@[simp] theorem Blk.rd_putVec (b : Blk) (x : Nat) (v : VecCtx) (f : Fld) (i j : Nat) :
    (b.putVec x v).rd f i j = b.rd f i j := rfl
@[simp] theorem Blk.rd_putContact (b : Blk) (k : Nat) (c : Contact) (f : Fld) (i j : Nat) :
    (b.putContact k c).rd f i j = b.rd f i j := rfl
@[simp] theorem Blk.rd_putLayer (b : Blk) (l : Nat) (x : LayerSt) (f : Fld) (i j : Nat) :
    (b.putLayer l x).rd f i j = b.rd f i j := rfl
@[simp] theorem Blk.rd_putPlace (b : Blk) (st k : Nat) (x : Place) (f : Fld) (i j : Nat) :
    (b.putPlace st k x).rd f i j = b.rd f i j := rfl
@[simp] theorem Blk.rd_putStage (b : Blk) (st : Nat) (x : StgSt) (f : Fld) (i j : Nat) :
    (b.putStage st x).rd f i j = b.rd f i j := rfl
@[simp] theorem Blk.rd_putHead (b : Blk) (h : Nat) (x : HeadSt) (f : Fld) (i j : Nat) :
    (b.putHead h x).rd f i j = b.rd f i j := rfl
@[simp] theorem Blk.rd_putPort (b : Blk) (n : Nat) (x : NifPort) (f : Fld) (i j : Nat) :
    (b.putPort n x).rd f i j = b.rd f i j := rfl
@[simp] theorem Blk.rd_putChan (b : Blk) (c : Nat) (x : IngCh) (f : Fld) (i j : Nat) :
    (b.putChan c x).rd f i j = b.rd f i j := rfl
@[simp] theorem Blk.rd_putUnit (b : Blk) (u : Nat) (x : LaneUnit) (f : Fld) (i j : Nat) :
    (b.putUnit u x).rd f i j = b.rd f i j := rfl
@[simp] theorem Blk.rd_putLane (b : Blk) (l : Nat) (x : LaneSt) (f : Fld) (i j : Nat) :
    (b.putLane l x).rd f i j = b.rd f i j := rfl
@[simp] theorem Blk.rd_putCport (b : Blk) (p : Nat) (x : ChnSt) (f : Fld) (i j : Nat) :
    (b.putCport p x).rd f i j = b.rd f i j := rfl
@[simp] theorem Blk.rd_putCrc (b : Blk) (u : Nat) (x : CrcSt) (f : Fld) (i j : Nat) :
    (b.putCrc u x).rd f i j = b.rd f i j := rfl
@[simp] theorem Blk.rd_putPr (b : Blk) (x : PairSt) (f : Fld) (i j : Nat) :
    (b.putPr x).rd f i j = b.rd f i j := rfl
@[simp] theorem Blk.rd_putEns (b : Blk) (x : EnsSt) (f : Fld) (i j : Nat) :
    (b.putEns x).rd f i j = b.rd f i j := rfl
@[simp] theorem Blk.rd_putPwr (b : Blk) (x : PwrSt) (f : Fld) (i j : Nat) :
    (b.putPwr x).rd f i j = b.rd f i j := rfl
@[simp] theorem Blk.rd_putShow (b : Blk) (x : ShowSt) (f : Fld) (i j : Nat) :
    (b.putShow x).rd f i j = b.rd f i j := rfl
@[simp] theorem Blk.rd_putThm (b : Blk) (x : Thm) (f : Fld) (i j : Nat) :
    (b.putThm x).rd f i j = b.rd f i j := rfl

/-- A field depends on the registers alone. -/
theorem Blk.rd_congr {b c : Blk} (f : Fld) (i k : Nat) (h : mget b.regs (f.key i k) = mget c.regs (f.key i k)) :
    b.rd f i k = c.rd f i k := by simp [Blk.rd, h]

/-- A one-bit field written with a truth value reads as it. -/
@[simp] theorem Blk.on_put_same (b : Blk) (f : Fld) (i : Nat) (v : Bool) (k : Nat) (h : f.w ≠ 0) :
    (b.put f i v k).on f i k = v := by
  have h2 : 1 < 2 ^ f.w := Nat.one_lt_two_pow h
  cases v <;> simp [Blk.on, Blk.put, b2n, Nat.mod_eq_of_lt, h2]

/-! ### The parts beside the registers -/

@[simp] theorem Blk.rest_wr (b : Blk) (f : Fld) (i v k : Nat) : (b.wr f i v k).rest = b.rest := rfl
@[simp] theorem Blk.rest_put (b : Blk) (f : Fld) (i : Nat) (v : Bool) (k : Nat) : (b.put f i v k).rest = b.rest := rfl
@[simp] theorem Blk.rest_bump (b : Blk) (f : Fld) (i n k : Nat) : (b.bump f i n k).rest = b.rest := rfl
@[simp] theorem Blk.rest_step (b : Blk) (f : Fld) (i n k : Nat) : (b.step f i n k).rest = b.rest := rfl
@[simp] theorem Blk.rest_rstF (b : Blk) (f : Fld) (i k : Nat) : (b.rstF f i k).rest = b.rest := rfl
@[simp] theorem Blk.rest_rstRange (b : Blk) (lo hi : Nat) : (b.rstRange lo hi).rest = b.rest := rfl
@[simp] theorem Blk.rest_emit (b : Blk) (e : Emit) : (b.emit e).rest = b.rest := rfl

/-! ### Holding -/

theorem Blk.holds_refl (b : Blk) (ps : List Page) (ks : List Nat) : b.holds b ps ks := fun _ _ _ => rfl

theorem Blk.holds_trans {a b c : Blk} {ps : List Page} {ks : List Nat} (h : a.holds b ps ks) (g : b.holds c ps ks) :
    a.holds c ps ks := fun k hp hk => (g k hp hk).trans (h k hp hk)

/-- Writing a named field. -/
theorem Blk.holds_wr {a b : Blk} {ps : List Page} {ks : List Nat} (f : Fld) (i v k : Nat) (hk : f.key i k ∈ ks)
    (h : a.holds b ps ks) : a.holds (b.wr f i v k) ps ks := by
  intro j hp hj
  have : j ≠ f.key i k := fun e => hj (e ▸ hk)
  simp [Blk.wr, this, h j hp hj]

/-- Changing what is not a register. -/
theorem Blk.holds_of_regs {a b c : Blk} {ps : List Page} {ks : List Nat} (e : c.regs = b.regs) (h : a.holds b ps ks) :
    a.holds c ps ks := fun k hp hk => by rw [e]; exact h k hp hk

theorem Blk.holds_tick {a b : Blk} {ps : List Page} {ks : List Nat} (dt : Nat) (h : (a.tick dt).holds b ps ks) :
    a.holds b ps ks := h

/-- A held field reads as before. -/
theorem Blk.holds_rd {b b' : Blk} {ps : List Page} {ks : List Nat} (h : b.holds b' ps ks) (f : Fld) (i k : Nat)
    (hp : ∀ p ∈ ps, evKey p (f.key i k) = false) (hk : f.key i k ∉ ks) : b'.rd f i k = b.rd f i k :=
  Blk.rd_congr f i k (h _ hp hk)

/-- Writing a field that recording an event on a page may change. -/
theorem Blk.holds_ev {a b : Blk} {ps : List Page} {ks : List Nat} (p : Page) (hm : p ∈ ps) (f : Fld) (i v k : Nat)
    (he : evKey p (f.key i k) = true) (h : a.holds b ps ks) : a.holds (b.wr f i v k) ps ks := by
  intro j hp hj
  have : j ≠ f.key i k := fun e => by have := hp p hm; rw [e, he] at this; cases this
  simp [Blk.wr, this, h j hp hj]

end Sys2Proof.Machine
end

