-- ==== Sys2Proof/Laws/Events.lean ====
section
/-!
SUPPORT. What recording an event can change (R45, R46, R57, R65 to R69): the header of its page, the ERR page, SYS_ROLE, the event storage
and what waits to be sent; nothing else of the block.
-/

namespace Sys2Proof.Machine

/-! ### The parts beside the registers -/

@[simp] theorem rest_ring (b : Blk) (l : SMap Rec) : ({ b with ctl := { b.ctl with ring := l } } : Blk).rest = b.rest := rfl
@[simp] theorem rest_severe (b : Blk) (l : List Rec) : ({ b with ctl := { b.ctl with severe := l } } : Blk).rest = b.rest := rfl
@[simp] theorem rest_fatal (b : Blk) (v : Bool) : ({ b with ctl := { b.ctl with fatal := v } } : Blk).rest = b.rest := rfl

@[simp] theorem rest_flagSet (a m : Nat) (l : SMap Nat) (b : Blk) : (flagSet a m l b).rest = b.rest := rfl

@[simp] theorem rest_sendVector (v : Nat) (b : Blk) : (sendVector v b).rest = b.rest := by
  simp only [sendVector]; split <;> rfl

@[simp] theorem rest_putEvt (s w : Nat) (b : Blk) : (putEvt s w b).rest = b.rest := rfl

@[simp] theorem rest_setEvt (p : Page) (m : Nat) (b : Blk) : (setEvt p m b).rest = b.rest := by
  simp only [setEvt]; split <;> simp

@[simp] theorem rest_countErr (p : Page) (code sev d : Nat) (b : Blk) : (countErr p code sev d b).rest = b.rest := by
  simp only [countErr]; repeat' split
  all_goals simp

@[simp] theorem rest_countLost (sev : Nat) (b : Blk) : (countLost sev b).rest = b.rest := by
  simp only [countLost]; split <;> rfl

@[simp] theorem rest_putUnread (l : List Rec) (b : Blk) : (putUnread l b).rest = b.rest := rfl

@[simp] theorem rest_ringPut (r : Rec) (b : Blk) : (ringPut r b).rest = b.rest := by
  simp only [ringPut]; repeat' split
  all_goals simp

@[simp] theorem rest_severePut (r : Rec) (b : Blk) : (severePut r b).rest = b.rest := by
  simp only [severePut]; repeat' split
  all_goals simp

theorem rest_putWordsAt (f : Fld) (l : List (Nat × Nat)) (b : Blk) :
    (l.foldl (fun (b : Blk) e => b.wr f 0 e.1 e.2) b).rest = b.rest := by
  induction l generalizing b with
  | nil => rfl
  | cons e t ih => rw [List.foldl_cons, ih]; rfl

@[simp] theorem rest_putWords (f : Fld) (ws : List Nat) (b : Blk) : (putWords f ws b).rest = b.rest := rest_putWordsAt f _ b

@[simp] theorem rest_setRole (r : Nat) (b : Blk) : (setRole r b).rest = b.rest := by
  simp only [setRole]; split <;> rfl

@[simp] theorem rest_fatalAct (r : Rec) (b : Blk) : (fatalAct r b).rest = b.rest := by
  simp only [fatalAct]; repeat' split
  all_goals simp

@[simp] theorem rest_deliver (r : Rec) (b : Blk) : (deliver r b).rest = b.rest := by
  simp only [deliver]; repeat' split
  all_goals simp

@[simp] theorem rest_raiseAs (mid : Nat) (p : Page) (code sev d evt : Nat) (b : Blk) :
    (raiseAs mid p code sev d evt b).rest = b.rest := by
  simp only [raiseAs]; split <;> simp

@[simp] theorem rest_raise (p : Page) (code sev d evt : Nat) (b : Blk) : (raise p code sev d evt b).rest = b.rest := by
  simp [raise]

/-! ### The registers -/

section
variable {a b : Blk} {ps : List Page} {ks : List Nat}

theorem evKey_hdr (p : Page) (f : Fld) (k : Nat) (hk : f.kind = .hdr) (ho : f.off < 64) (hl : f.lo < 32) (hs : f.step = 0) :
    evKey p (f.key p.slot k) = true := by
  simp only [evKey, Fld.key, Fld.addr, hk, Kind.base, hs, Bool.or_eq_true, Bool.and_eq_true, beq_iff_eq, Nat.blt_eq]
  left; left; left; constructor <;> omega

theorem evKey_err (p : Page) (f : Fld) (k : Nat) (hk : f.kind = .err) (h : f.off + k * f.step < 4096) (hl : f.lo < 32) :
    evKey p (f.key 0 k) = true := by
  simp only [evKey, Fld.key, Fld.addr, hk, Kind.base, Bool.or_eq_true, Bool.and_eq_true, beq_iff_eq, Nat.blt_eq]
  left; left; right; omega

theorem holds_sendVector (v : Nat) (h : a.holds b ps ks) : a.holds (sendVector v b) ps ks := by
  refine Blk.holds_of_regs ?_ h
  simp only [sendVector]; split <;> rfl

theorem holds_flagSet (x m : Nat) (l : SMap Nat) (h : a.holds b ps ks) : a.holds (flagSet x m l b) ps ks := Blk.holds_of_regs rfl h

theorem holds_putEvt (p : Page) (hp : p ∈ ps) (w : Nat) (h : a.holds b ps ks) : a.holds (putEvt p.slot w b) ps ks := by
  refine Blk.holds_ev p hp _ _ _ _ ?_ (Blk.holds_ev p hp _ _ _ _ ?_ (Blk.holds_ev p hp _ _ _ _ ?_
    (Blk.holds_ev p hp _ _ _ _ ?_ (Blk.holds_ev p hp _ _ _ _ ?_ h))))
  all_goals exact evKey_hdr p _ _ rfl (by decide) (by decide) rfl

theorem holds_setEvt (p : Page) (hp : p ∈ ps) (m : Nat) (h : a.holds b ps ks) : a.holds (setEvt p m b) ps ks := by
  simp only [setEvt]
  split
  · exact holds_sendVector _ (holds_flagSet _ _ _ (holds_putEvt p hp _ h))
  · exact holds_flagSet _ _ _ (holds_putEvt p hp _ h)

theorem holds_countErr (p : Page) (hp : p ∈ ps) (code sev d : Nat) (h : a.holds b ps ks) :
    a.holds (countErr p code sev d b) ps ks := by
  have e (f : Fld) (hk : f.kind = .hdr) (ho : f.off < 64) (hl : f.lo < 32) (hs : f.step = 0) :=
    evKey_hdr p f 0 hk ho hl hs
  simp only [countErr]
  split
  · exact h
  · refine holds_setEvt p hp 1 (holds_flagSet _ _ _ ?_)
    have h1 : a.holds (b.bump F.PG_ERRCNT_COUNT p.slot) ps ks :=
      Blk.holds_ev p hp _ _ _ _ (e _ rfl (by decide) (by decide) rfl) h
    split
    · exact h1
    · refine Blk.holds_ev p hp _ _ _ _ ?_ (Blk.holds_ev p hp _ _ _ _ ?_ (Blk.holds_ev p hp _ _ _ _ ?_
        (Blk.holds_ev p hp _ _ _ _ ?_ h1)))
      all_goals exact e _ rfl (by decide) (by decide) rfl

theorem holds_errWr (p : Page) (hp : p ∈ ps) (f : Fld) (v k : Nat) (hk : f.kind = .err) (ho : f.off + k * f.step < 4096)
    (hl : f.lo < 32) (h : a.holds b ps ks) : a.holds (b.wr f 0 v k) ps ks :=
  Blk.holds_ev p hp f 0 v k (evKey_err p f k hk ho hl) h

theorem holds_countLost (p : Page) (hp : p ∈ ps) (sev : Nat) (h : a.holds b ps ks) : a.holds (countLost sev b) ps ks := by
  simp only [countLost]
  split <;> exact holds_errWr p hp _ _ _ rfl (by decide) (by decide) h

theorem holds_ringPut (p : Page) (hp : p ∈ ps) (r : Rec) (h : a.holds b ps ks) : a.holds (ringPut r b) ps ks := by
  have step (f : Fld) (c : Blk) (hk : f.kind = .err) (ho : f.off < 4096) (hl : f.lo < 32) (h : a.holds c ps ks) :
      a.holds (c.step f 0) ps ks := holds_errWr p hp f _ 0 hk (by omega) hl h
  simp only [ringPut]
  split
  · split
    · exact holds_sendVector _ (step _ _ rfl (by decide) (by decide) (Blk.holds_of_regs rfl h))
    · exact step _ _ rfl (by decide) (by decide) (Blk.holds_of_regs rfl h)
  · split
    · exact holds_countLost p hp _ h
    · exact holds_countLost p hp _ (step _ _ rfl (by decide) (by decide) (Blk.holds_of_regs rfl h))

theorem holds_severePut (p : Page) (hp : p ∈ ps) (r : Rec) (h : a.holds b ps ks) : a.holds (severePut r b) ps ks := by
  simp only [severePut]
  split
  · exact Blk.holds_of_regs rfl h
  · split
    · exact holds_errWr p hp _ _ _ rfl (by decide) (by decide) h
    · exact holds_errWr p hp _ _ _ rfl (by decide) (by decide) (Blk.holds_of_regs rfl h)

theorem evKey_role (p : Page) (f : Fld) (hk : f.kind = .sys) (ho : f.off = 0x104) (hl : f.lo < 32) (hs : f.step = 0) :
    evKey p (f.key 0 0) = true := by
  simp only [evKey, Fld.key, Fld.addr, hk, ho, hs, Kind.base, Bool.or_eq_true, Bool.and_eq_true, beq_iff_eq, Nat.blt_eq]
  left; right; omega

theorem evKey_ready (p : Page) : evKey p (F.PAIR_STAT_READY.key 0 0) = true := by
  simp only [evKey, Bool.or_eq_true, beq_self_eq_true, or_true]

theorem holds_setRole (p : Page) (hp : p ∈ ps) (r : Nat) (h : a.holds b ps ks) : a.holds (setRole r b) ps ks := by
  simp only [setRole]
  split
  · exact h
  · exact Blk.holds_ev p hp _ _ _ _ (evKey_role p _ rfl rfl (by decide) rfl)
      (Blk.holds_ev p hp _ _ _ _ (evKey_role p _ rfl rfl (by decide) rfl) h)

theorem holds_fatalAct (p : Page) (hp : p ∈ ps) (r : Rec) (h : a.holds b ps ks) : a.holds (fatalAct r b) ps ks := by
  simp only [fatalAct]
  split
  · exact h
  · have hw : a.holds (putWords F.ERR_FATAL_WORD r.words { b with ctl := { b.ctl with fatal := true } }) ps ks := by
      simp only [putWords, Rec.words, List.zipIdx_cons, List.zipIdx_nil, List.foldl_cons, List.foldl_nil]
      refine holds_errWr p hp _ _ _ rfl (by decide) (by decide) (holds_errWr p hp _ _ _ rfl (by decide) (by decide)
        (holds_errWr p hp _ _ _ rfl (by decide) (by decide) (holds_errWr p hp _ _ _ rfl (by decide) (by decide)
          (Blk.holds_of_regs rfl h))))
    have hr := Blk.holds_ev p hp _ 0 0 0 (evKey_ready p) hw
    split
    · exact holds_setRole p hp _ hr
    · exact hr

theorem holds_deliver (p : Page) (hp : p ∈ ps) (r : Rec) (h : a.holds b ps ks) : a.holds (deliver r b) ps ks := by
  simp only [deliver]
  have h1 : a.holds (if Nat.ble 2 r.sev || Nat.ble (b.rd F.ERR_CFG_MIN_SEV 0) r.sev then ringPut r b else b) ps ks := by
    split
    · exact holds_ringPut p hp r h
    · exact h
  generalize (if Nat.ble 2 r.sev || Nat.ble (b.rd F.ERR_CFG_MIN_SEV 0) r.sev then ringPut r b else b) = c at h1 ⊢
  have h2 : a.holds (if Nat.ble 5 r.sev || Nat.ble (c.rd F.ERR_CFG_SAFE_MIN_SEV 0) r.sev then severePut r c else c) ps ks := by
    split
    · exact holds_severePut p hp r h1
    · exact h1
  generalize (if Nat.ble 5 r.sev || Nat.ble (c.rd F.ERR_CFG_SAFE_MIN_SEV 0) r.sev then severePut r c else c) = d at h2 ⊢
  have h3 : a.holds (if Nat.ble sevCritical r.sev then sendVector 1 d else d) ps ks := by
    split
    · exact holds_sendVector _ h2
    · exact h2
  split
  · exact holds_fatalAct p hp r h3
  · exact h3

/-- Recording an event changes no register but those of `evKey`. -/
theorem holds_raiseAs (mid : Nat) (p : Page) (hp : p ∈ ps) (code sev d evt : Nat) (h : a.holds b ps ks) :
    a.holds (raiseAs mid p code sev d evt b) ps ks := by
  simp only [raiseAs]
  split
  · exact holds_countErr p hp _ _ _ (holds_deliver p hp _ h)
  · exact holds_setEvt p hp _ (holds_countErr p hp _ _ _ (holds_deliver p hp _ h))

theorem holds_raise (p : Page) (hp : p ∈ ps) (code sev d evt : Nat) (h : a.holds b ps ks) :
    a.holds (raise p code sev d evt b) ps ks := holds_raiseAs _ p hp code sev d evt h

end

/-- A register that no event of the page changes reads the same after one. -/
theorem rd_raiseAs (mid : Nat) (p : Page) (code sev d evt : Nat) (b : Blk) (f : Fld) (i k : Nat)
    (h : evKey p (f.key i k) = false) : (raiseAs mid p code sev d evt b).rd f i k = b.rd f i k :=
  Blk.holds_rd (holds_raiseAs (ks := []) mid p (List.mem_singleton_self p) code sev d evt (Blk.holds_refl b [p] [])) f i k
    (by simpa using h) (by simp)

theorem rd_raise (p : Page) (code sev d evt : Nat) (b : Blk) (f : Fld) (i k : Nat)
    (h : evKey p (f.key i k) = false) : (raise p code sev d evt b).rd f i k = b.rd f i k := rd_raiseAs _ p code sev d evt b f i k h

theorem rd_setEvt (p : Page) (m : Nat) (b : Blk) (f : Fld) (i k : Nat)
    (h : evKey p (f.key i k) = false) : (setEvt p m b).rd f i k = b.rd f i k :=
  Blk.holds_rd (holds_setEvt (ks := []) p (List.mem_singleton_self p) m (Blk.holds_refl b [p] [])) f i k
    (by simpa using h) (by simp)

end Sys2Proof.Machine
end

