-- ==== Sys2Proof/Laws/Access.lean ====
section
/-!
SUPPORT. Laws of refused accesses: what a violation changes (R416).
-/

namespace Sys2Proof.Machine

theorem rest_violCaptured (v : Viol) (b : Blk) : (violCaptured v b).rest = b.rest := by
  simp only [violCaptured]; split <;> simp

theorem holds_violCaptured {a b : Blk} (v : Viol) (h : a.holds b [acgPage] violKeys) :
    a.holds (violCaptured v b) [acgPage] violKeys := by
  have w : ∀ (f : Fld) (i n k : Nat) (c : Blk), f.key i k ∈ violKeys → a.holds c [acgPage] violKeys →
      a.holds (c.wr f i n k) [acgPage] violKeys := fun f i n k c hk hc => Blk.holds_wr f i n k hk hc
  have h1 (x m : Nat) (l : SMap Nat) : a.holds (flagSet x m l (b.bump F.ACG_VIOL_COUNT_COUNT 0)) [acgPage] violKeys :=
    holds_flagSet _ _ _ (w _ _ _ _ _ (by simp [violKeys]) h)
  simp only [violCaptured]
  split
  · exact h1 _ _ _
  · exact w _ _ _ _ _ (by simp [violKeys]) (w _ _ _ _ _ (by simp [violKeys]) (w _ _ _ _ _ (by simp [violKeys])
      (w _ _ _ _ _ (by simp [violKeys]) (w _ _ _ _ _ (by simp [violKeys]) (h1 _ _ _)))))

/-- A violation changes no register but its own and those of its event. -/
theorem holds_violation {a b : Blk} (v : Viol) (h : a.holds b [acgPage] violKeys) : a.holds (violation v b) [acgPage] violKeys := by
  have h2 := holds_violCaptured v h
  unfold violation
  split
  · exact Blk.holds_of_regs rfl h2
  · exact holds_raiseAs _ _ (List.mem_singleton_self _) _ _ _ _ (Blk.holds_wr _ _ _ _ (by simp [violKeys]) (Blk.holds_of_regs rfl h2))

/-- A violation changes nothing beside registers and event storage but the violation log. -/
theorem rest_violation (v : Viol) (b : Blk) :
    ∃ l, (violation v b).rest = ({ b with acg := { b.acg with log := l } } : Blk).rest := by
  have h2 := rest_violCaptured v b
  have ha : (violCaptured v b).acg = b.acg := by
    simp only [violCaptured]; split <;> simp [Blk.bump]
  have hl : ∀ m, ({ violCaptured v b with acg := { (violCaptured v b).acg with log := m } } : Blk).rest
      = ({ b with acg := { b.acg with log := m } } : Blk).rest := by
    intro m
    rw [ha]
    have := congrArg (fun y : Blk => ({ y with acg := { b.acg with log := m } } : Blk)) h2
    exact this
  unfold violation
  split
  · exact ⟨_, hl _⟩
  · exact ⟨_, by rw [rest_raiseAs]; exact hl _⟩

/-- A byte merged into a word, modulo the bytes above it. -/
theorem setBits_mod (v lo x : Nat) : setBits v lo 8 x % 2 ^ (lo + 8) = v % 2 ^ lo + x % 2 ^ 8 * 2 ^ lo := by
  have h1 : v % 2 ^ lo < 2 ^ lo := Nat.mod_lt _ (Nat.two_pow_pos lo)
  have h2 : x % 2 ^ 8 < 2 ^ 8 := Nat.mod_lt _ (Nat.two_pow_pos 8)
  rw [setBits, Nat.add_mul_mod_self_right, Nat.mod_eq_of_lt]
  have : (x % 2 ^ 8 + 1) * 2 ^ lo ≤ 2 ^ 8 * 2 ^ lo := Nat.mul_le_mul_right _ h2
  rw [Nat.pow_add, Nat.mul_comm (2 ^ lo)]
  rw [Nat.add_mul, Nat.one_mul] at this
  omega

/-- A word written with all of its bytes enabled is the data. -/
theorem mergeBytes_all (v data : Nat) : mergeBytes v data 15 % 2 ^ 32 = data % 2 ^ 32 := by
  have s1 : ∀ v k, bit 15 k = true → mergeByte data 15 v k = setBits v (8 * k) 8 (bits data (8 * k) 8) := fun v k h => if_pos h
  have e0 : bit 15 0 = true := rfl
  have e1 : bit 15 1 = true := rfl
  have e2 : bit 15 2 = true := rfl
  have e3 : bit 15 3 = true := rfl
  have e : mergeBytes v data 15 = [0, 1, 2, 3].foldl (mergeByte data 15) v := rfl
  rw [e, List.foldl, List.foldl, List.foldl, List.foldl, List.foldl, s1 _ _ e0, s1 _ _ e1, s1 _ _ e2, s1 _ _ e3]
  have p4 := fun w x => setBits_mod w (8 * 3) x
  have p3 := fun w x => setBits_mod w (8 * 2) x
  have p2 := fun w x => setBits_mod w (8 * 1) x
  have p1 := fun w x => setBits_mod w (8 * 0) x
  have d0 : ∀ x, x % 2 ^ (8 * 0) = 0 := fun x => Nat.mod_one x
  have a (w x : Nat) : setBits w (8 * 3) 8 x % 2 ^ 32 = _ := p4 w x
  have b (w x : Nat) : setBits w (8 * 2) 8 x % 2 ^ (8 * 3) = _ := p3 w x
  have c (w x : Nat) : setBits w (8 * 1) 8 x % 2 ^ (8 * 2) = _ := p2 w x
  have d (w x : Nat) : setBits w (8 * 0) 8 x % 2 ^ (8 * 1) = _ := p1 w x
  rw [a, b, c, d, d0]
  have m : ∀ k, bits data k 8 % 2 ^ 8 = data / 2 ^ k % 2 ^ 8 := fun k => Nat.mod_mod _ _
  have s : ∀ n, data % 2 ^ (n + 8) = data % 2 ^ n + 2 ^ n * (data / 2 ^ n % 2 ^ 8) := fun n => by rw [Nat.pow_add, Nat.mod_mul]
  have t4 : data % 2 ^ 32 = _ := s (8 * 3)
  have t3 : data % 2 ^ (8 * 3) = _ := s (8 * 2)
  have t2 : data % 2 ^ (8 * 2) = _ := s (8 * 1)
  have t1 : data % 2 ^ (8 * 1) = _ := s (8 * 0)
  rw [m, m, m, m, t4, t3, t2, t1, d0]
  simp only [Nat.mul_comm (2 ^ _), Nat.zero_add]

end Sys2Proof.Machine
end

