-- ==== Sys2Proof/Laws/Bus.lean ====
section
/-!
SUPPORT. What a write of a register does (R11, R43, R44, R414): the path of a write that is accepted, and the addresses of pages.
-/

namespace Sys2Proof.Machine

/-! ### Pages and their addresses -/

theorem pagesNamed : (Block.all.all fun k => (List.range k.pages).all fun i => pageOfSlot (k.slot + i) == some ⟨k, i⟩) = true := by
  decide +kernel

/-- A page's slot names it. -/
theorem pageOfSlot_slot (p : Page) (h : p.inst < p.blk.pages) : pageOfSlot p.slot = some p := by
  have g := pagesNamed
  rw [List.all_eq_true] at g
  have g2 := g p.blk (by cases p.blk <;> decide)
  rw [List.all_eq_true] at g2
  exact beq_iff_eq.1 (g2 p.inst (List.mem_range.2 h))

theorem slotsNamed : ((List.range 0x400).all fun s => match pageOfSlot s with
    | some p => p.slot == s && Nat.blt p.inst p.blk.pages && s != 17
    | none => true) = true := by decide +kernel

/-- The page that a slot names. -/
theorem slot_of_page {s : Nat} {p : Page} (h : pageOfSlot s = some p) : p.slot = s ∧ p.inst < p.blk.pages ∧ s < 0x400 ∧ s ≠ 17 := by
  have hs : s < 0x400 := by
    unfold pageOfSlot at h
    obtain ⟨k, hk, -⟩ := Option.map_eq_some_iff.1 h
    have := List.find?_some hk
    simp only [Bool.and_eq_true, Nat.ble_eq, Nat.blt_eq] at this
    have : k.slot + k.pages ≤ 0x400 := by cases k <;> decide
    omega
  have g := slotsNamed
  rw [List.all_eq_true] at g
  have g2 := g s (List.mem_range.2 hs)
  rw [h] at g2
  simp only [Bool.and_eq_true, beq_iff_eq, Nat.blt_eq, bne_iff_ne] at g2
  exact ⟨g2.1.1, g2.1.2, hs, g2.2⟩

/-- The target of a word of a page. -/
theorem target_page {s : Nat} {p : Page} (h : pageOfSlot s = some p) (o : Nat) (ho : o < 0x1000) :
    target (s * 0x1000 + o) = .page p o := by
  obtain ⟨-, -, h2, h3⟩ := slot_of_page h
  have e1 : (s * 0x1000 + o) / 0x1000 = s := by omega
  have e2 : (s * 0x1000 + o) % 0x1000 = o := by omega
  simp only [target, e1, e2, h]
  rw [if_pos (by omega), if_neg (by omega)]

/-- The target of a word of an instance of a block. -/
theorem target_inst (k : Block) (i o a : Nat) (h : i < k.pages) (ho : o < 0x1000) (ha : a = (k.slot + i) * 0x1000 + o) :
    target a = .page ⟨k, i⟩ o := by
  subst ha
  exact target_page (pageOfSlot_slot ⟨k, i⟩ h) o ho

/-- The fields of a word of a page header. -/
theorem hitsAt_header {s : Nat} {p : Page} (h : pageOfSlot s = some p) (o : Nat) (ho : o < 0x40) :
    hitsAt (s * 0x1000 + o) = hitsIn .hdr s o := by
  simp only [hitsAt, target_page h o (by omega), if_pos ho, (slot_of_page h).1]

/-- The fields of a block word of a page. -/
theorem hitsAt_block {s : Nat} {p : Page} (h : pageOfSlot s = some p) (o : Nat) (ho : o < 0x1000) (h4 : 0x40 ≤ o) (k : Kind)
    (hk : p.kind = some k) : hitsAt (s * 0x1000 + o) = hitsIn k p.inst o := by
  simp only [hitsAt, target_page h o (by omega), if_neg (show ¬ o < 0x40 by omega), hk]

/-! ### The path of a write -/

/-- A word write that takes effect stores the fields of the word and does what the word asks for. -/
theorem wordWrite_page {b : Blk} {mid a data : Nat} {p : Page} {o : Nat} (ht : target a = .page p o)
    (hr : resetHolds b a = false) (hv : valueBad b mid a data = false) (at_ ident : Nat) (same copy : Bool) :
    wordWrite mid a data at_ ident same copy b =
      (let c := forEach (hitsAt a) (storeField mid a data copy) (stageWord mid a data copy b)
       if o < 0x40 then headerWrote mid p o data at_ same copy c
       else copiedWrote b p o data at_ copy (localWrote mid p o data at_ c)) := by
  simp only [wordWrite, hr, hv, ht, Bool.false_eq_true, if_false]

/-- An accepted write is granted, and what follows it is done. -/
theorem busWrite_granted {b : Blk} {mid a data : Nat} (h : accepts b mid a data = true)
    (ht : ∀ j o, target a ≠ .member j o) (port : Nat) (same : Bool) :
    ∃ ident, busWrite port mid a data 15 false same b =
      settled b mid a data (grantedWrite port mid a data b.now ident same false b) := by
  simp only [accepts, Bool.and_eq_true, Bool.not_eq_true', beq_iff_eq, bne_iff_ne, Option.isNone_iff_eq_none] at h
  obtain ⟨⟨⟨⟨⟨⟨⟨⟨⟨h4, h8⟩, hm⟩, hc⟩, hh⟩, hp⟩, hs⟩, hr⟩, hv⟩, hx⟩ := h
  have e : a / 4 * 4 = a := by omega
  have hp1 : (copies mid a && copyDiscards b) = false := by
    cases hq : copies mid a <;> simp_all
  have hp2 : (copies mid a && copying b && epochFull b 2) = false := by
    cases hq : copies mid a <;> simp_all
  simp only [copies] at hp1 hp2
  refine ⟨b.rd F.PAIR_EPOCH_EPOCH 0 % 65536 * 65536 + b.pr.recs.length % 65536, ?_⟩
  have key : acceptWrite port mid a data same b = settled b mid a data (grantedWrite port mid a data b.now
      (b.rd F.PAIR_EPOCH_EPOCH 0 % 65536 * 65536 + b.pr.recs.length % 65536) same false b) := by
    simp only [acceptWrite, hp1, hs, hp2, hv, settled, copies, h8, Bool.false_eq_true, Bool.not_true, Bool.not_false, if_false]
    rfl
  simp only [busWrite, e, hh, hm, hc, Bool.false_eq_true, Bool.false_and, Bool.not_true, if_false, ne_eq, not_true, Nat.reduceMod]
  cases hg : target a with
  | member j o => exact absurd hg (ht j o)
  | _ => exact key

/-- An accepted write to a page. -/
theorem busWrite_page {b : Blk} {mid a data : Nat} {p : Page} {o : Nat} (h : accepts b mid a data = true)
    (ht : target a = .page p o) (port : Nat) (same : Bool) :
    busWrite port mid a data 15 false same b = settled b mid a data
      (if o < 0x40 then headerWrote mid p o data b.now same false (stored mid a data b)
       else copiedWrote b p o data b.now false (localWrote mid p o data b.now (stored mid a data b))) := by
  obtain ⟨ident, e⟩ := busWrite_granted h (by simp [ht]) port same
  simp only [accepts, Bool.and_eq_true, Bool.not_eq_true'] at h
  rw [e]
  simp only [grantedWrite, ht, h.2, Bool.false_and, Bool.false_eq_true, if_false, wordWrite_page ht h.1.1.2 h.1.2, stored]

/-! ### Storing fields -/

theorem bits_setBits (v x lo w n : Nat) (h : lo + w ≤ n) : bits (setBits v 0 n x) lo w = bits x lo w := by
  obtain ⟨e, rfl⟩ : ∃ e, n = lo + w + e := ⟨n - lo - w, by omega⟩
  simp only [bits, setBits, Nat.pow_zero, Nat.mod_one, Nat.mul_one, Nat.zero_add]
  have h1 : x % 2 ^ (lo + w + e) + v / 2 ^ (lo + w + e) * 2 ^ (lo + w + e)
      = x % 2 ^ (lo + w + e) + 2 ^ lo * (2 ^ w * (v / 2 ^ (lo + w + e) * 2 ^ e)) := by
    simp only [Nat.pow_add]; ring
  rw [h1, Nat.add_mul_div_left _ _ (Nat.two_pow_pos lo), Nat.add_mul_mod_self_left]
  rw [Nat.add_assoc, Nat.pow_add, Nat.mod_mul_right_div_self, Nat.pow_add, Nat.mod_mod_of_dvd _ (Dvd.intro _ rfl)]

/-- The value of a field of one word after a write of that word. -/
theorem fldMerge_eq (f : Fld) (v data : Nat) (h : f.lo + f.w ≤ 32) : fldMerge f v 0 data = bits data f.lo f.w := by
  simp only [fldMerge, Nat.mul_zero, bits_setBits _ _ _ _ _ h]

/-- A write of a register changes no flag's time. -/
@[simp] theorem freshFlags_wr (b : Blk) (f : Fld) (i v k a : Nat) : freshFlags (b.wr f i v k) a = freshFlags b a := rfl

section
variable {mid a data i k : Nat} {f : Fld} {b : Blk} {copy : Bool}

/-- Fields that a write does not store: RO, WO and W1S ones. -/
theorem storeField_none (copy : Bool) (h : Hit) (hn : (h.f.acc == .ro || h.f.acc == .wo || h.f.acc == .w1s) = true) :
    storeField mid a data copy h b = b := by
  simp only [Bool.or_eq_true, beq_iff_eq] at hn
  simp only [storeField]
  split
  · rfl
  · rcases hn with (e | e) | e <;> rw [e]

/-- A field that keeps every bit of what is written to it. -/
theorem Hit.cut_eq (h : Hit) (v : Nat) (hc : (h.f.kind == .clkR && h.f.off == F.CLK_REF_IN_FORMAT.off && h.f.lo == 0) = false) :
    h.cut v = v := by simp only [Hit.cut, hc, Bool.false_and, Bool.false_eq_true, if_false]

/-- An RW or RWL field takes the written value. -/
theorem storeField_rw (copy : Bool) (hr : (Hit.mk f i k 0).reserved = false) (hs : f.safeField = false)
    (ha : (f.acc == .rw || f.acc == .rwl) = true) (hw : f.lo + f.w ≤ 32)
    (hc : (f.kind == .clkR && f.off == F.CLK_REF_IN_FORMAT.off && f.lo == 0) = false) :
    storeField mid a data copy ⟨f, i, k, 0⟩ b = b.wr f i (bits data f.lo f.w) k := by
  simp only [storeField, fieldBarred, hr, hs, Bool.false_and, Bool.false_or, Bool.false_eq_true, if_false, fldMerge_eq _ _ _ hw,
    Hit.cut_eq ⟨f, i, k, 0⟩ _ hc]
  simp only [Bool.or_eq_true, beq_iff_eq] at ha
  rcases ha with e | e <;> rw [e]

/-- A W1C field loses the bits that are written 1, but for those that an event set in the same MGMT cycle (R13). -/
theorem storeField_w1c (hr : (Hit.mk f i k 0).reserved = false) (hs : f.safeField = false) (ha : f.acc = .w1c)
    (hw : f.lo + f.w ≤ 32) :
    storeField mid a data false ⟨f, i, k, 0⟩ b =
      b.wr f i (cleared (b.rd f i k) (bits (cleared data (freshFlags b a)) f.lo f.w)) k := by
  simp only [storeField, fieldBarred, hr, hs, Bool.false_and, Bool.false_or, Bool.false_eq_true, if_false, fldMerge_eq _ _ _ hw, ha]

/-- An RWS field of a page with staged registers waits for its cue. -/
theorem storeField_rws (copy : Bool) (h : Hit) (ha : h.f.acc = .rws) (hs : stages a = true) :
    storeField mid a data copy h b = b := by
  simp only [storeField, ha, hs, Bool.true_or, if_true, ite_self]

/-- A word without RWS fields stages nothing. -/
theorem stageWord_none (h : ((hitsAt a).any fun h => h.f.acc == .rws) = false) : stageWord mid a data copy b = b := by
  simp only [stageWord, h, Bool.and_false, Bool.false_eq_true, if_false]

end

/-- Nothing follows a write to a range that is neither copied nor shared. -/
theorem settled_local {b0 b : Blk} {mid a data : Nat} (h : copies mid a = false) (hs : sharedRange a = false) (ha : a ≠ 0x80) :
    settled b0 mid a data b = b := by
  simp [settled, h, sharedForward, hs, ha]

/-- An accepted write of a header word other than PG_CTRL and PG_CUE, by the fields of the word. -/
theorem busWrite_header {b : Blk} {mid page data : Nat} {p : Page} {o : Nat} {l : List Hit} (hp : pageOfSlot page = some p)
    (ho : o < 64) (h8 : o ≠ 8) (h20 : o ≠ 0x20) (h : accepts b mid (page * 0x1000 + o) data = true) (hl : hitsIn .hdr page o = l)
    (hw : (l.any fun h => h.f.acc == .rws) = false) (port : Nat) (same : Bool) :
    busWrite port mid (page * 0x1000 + o) data 15 false same b =
      headerWrote mid p o data b.now same false (forEach l (storeField mid (page * 0x1000 + o) data false) b) := by
  have t := target_page hp o (by omega)
  have hh := (hitsAt_header hp o ho).trans hl
  rw [busWrite_page h t, settled_local, stored, hh, stageWord_none (by rw [hh]; exact hw)]
  · simp only [ho, if_true]
  · simp [copies, copiedRange, t, ho, h8, h20]
  · simp [sharedRange, t]; omega
  · omega

/-- An accepted write of a word of a page that is neither copied nor shared, by the fields of the word. -/
theorem busWrite_own {b : Blk} {mid a data : Nat} {p : Page} {o : Nat} {l : List Hit} (h : accepts b mid a data = true)
    (t : target a = .page p o) (ho : 64 ≤ o) (hc : copiedRange a = false) (ha : a ≠ 0x80) (hl : hitsAt a = l)
    (hw : (l.any fun h => h.f.acc == .rws) = false) (port : Nat) (same : Bool) :
    busWrite port mid a data 15 false same b =
      copiedWrote b p o data b.now false (localWrote mid p o data b.now (forEach l (storeField mid a data false) b)) := by
  have hs : sharedRange a = false := by
    cases hq : sharedRange a
    · rfl
    · simp only [sharedRange, t, Bool.and_eq_true, beq_iff_eq] at hq
      simp only [copiedRange, t, if_neg (show ¬ o < 64 by omega), hq.1.1.1] at hc
      cases hc
  rw [busWrite_page h t, settled_local (by simp [copies, hc]) hs ha, stored, hl, stageWord_none (by rw [hl]; exact hw)]
  simp only [show ¬ o < 64 by omega, if_false]

/-- An accepted write of a block word of a copied page. -/
theorem busWrite_copied {b : Blk} {mid a data : Nat} {p : Page} {o : Nat} {l : List Hit} (h : accepts b mid a data = true)
    (t : target a = .page p o) (ho : 64 ≤ o) (hl : hitsAt a = l)
    (hw : (l.any fun h => h.f.acc == .rws) = false) (port : Nat) (same : Bool) :
    busWrite port mid a data 15 false same b = settled b mid a data
      (copiedWrote b p o data b.now false (localWrote mid p o data b.now (forEach l (storeField mid a data false) b))) := by
  rw [busWrite_page h t, stored, hl, stageWord_none (by rw [hl]; exact hw)]
  simp only [show ¬ o < 64 by omega, if_false]

end Sys2Proof.Machine
end

