-- ==== Sys2Proof/Laws/Bits.lean ====
section
/-!
SUPPORT. Small laws that proofs about commands share: bits of a joined word, the size of a check value, one field of a word, addresses
outside the member windows, and registers that events leave alone.
-/

namespace Sys2Proof.Machine

/-- Replacing the block is `withBlk`. -/
theorem set_blk (s : State) (b : Blk) : ({ s with blk := b } : State) = s.withBlk b := rfl

theorem bit_eq_testBit (v k : Nat) : bit v k = v.testBit k := by
  rw [Bool.eq_iff_iff]; simp [bit, bits, Nat.testBit_eq_decide_div_mod_eq]

/-- A bit of two joined words is set if it is set in either. -/
theorem bit_lor (v w k : Nat) : bit (Nat.lor v w) k = (bit v k || bit w k) := by
  simp only [bit_eq_testBit]; exact Nat.testBit_or ..

/-- The word of an address that one readable field covers is that field's word. -/
theorem fieldWord_one {b : Blk} {a : Nat} {h : Hit} (hh : hitsAt a = [h]) (hr : (h.f.acc == .wo || h.reserved) = false) :
    fieldWord b a = fldWord h.f (b.rd h.f h.i h.k) h.j := by
  simp only [fieldWord, hh, List.foldl, hr, Bool.false_eq_true, if_false]; exact Nat.zero_or ..

/-- An offset below 8 MiB is in no member window (R44). -/
theorem target_not_member {a : Nat} (h : a < 0x800000) : ∀ j o, target a ≠ .member j o := by
  intro j o
  unfold target
  repeat' split
  all_goals (first | omega | simp)

theorem blt_eq_false {a b : Nat} (h : b ≤ a) : Nat.blt a b = false := by
  cases hh : Nat.blt a b
  · rfl
  · rw [Nat.blt_eq] at hh; omega

/-- Reversing the low `w` bits of a number gives a number of `w` bits. -/
theorem revBits_lt (w v : Nat) : revBits w v < 2 ^ w := by
  induction w generalizing v with
  | zero => simp [revBits]
  | succ w ih =>
    have := ih (v / 2)
    have h2 : v % 2 < 2 := Nat.mod_lt _ (by decide)
    simp only [revBits, Nat.pow_succ]
    have : v % 2 * 2 ^ w ≤ 1 * 2 ^ w := Nat.mul_le_mul_right _ (by omega)
    omega

/-- A CRC-32C has 32 bits. -/
theorem crc32c_lt (l : List Nat) : crc32c l < 2 ^ 32 := by
  simp only [crc32c, crc, if_true]
  exact Nat.xor_lt_two_pow (revBits_lt 32 _) (by decide)

theorem lset_length {α : Type} (l : List α) (k : Nat) (v : α) : (lset l k v).length = l.length := by
  induction l generalizing k with
  | nil => rfl
  | cons a t ih => cases k <;> simp [lset, ih]

/-- A register outside its page's header, the ERR page, SYS_ROLE and PAIR_STAT.READY is no register that an event changes. -/
theorem evKey_false {p : Page} {k q r : Nat} (hk : k = q * 131072 + r) (h1 : r < 131072) (h2 : 2048 ≤ r) (h3 : 17 ≤ q)
    (h4 : k ≠ F.PAIR_STAT_READY.key 0 0) : evKey p k = false := by
  have a : k / 131072 = q := by omega
  have b : k % 131072 = r := by omega
  have c : ¬ k / 32 = 0x104 := by omega
  have d : ¬ q = 16 := by omega
  simp [evKey, a, b, c, d, h4, blt_eq_false h2]

end Sys2Proof.Machine
end

