-- ==== Sys2Proof/Laws/Store.lean ====
section
/-!
SUPPORT. Laws of the frame store: what a byte reads as after a write, and that every write keeps the canonical form.
-/

namespace Sys2Proof.Machine

theorem cellsGet_set (l : List Host.Cell) (a x : Nat) (v : BitVec 8) (lo : Nat) (h : cellsWf lo l = true) :
    cellsGet (cellsSet l a v) x = if x = a then v else cellsGet l x := by
  induction l generalizing lo with
  | nil =>
    simp only [cellsSet]
    split
    · rename_i hv; simp only [cellsGet]; split <;> simp_all
    · simp [cellsGet]
  | cons e t ih =>
    obtain ⟨b, w⟩ := e
    simp only [cellsWf, Bool.and_eq_true, Nat.ble_eq] at h
    have low : ∀ (t : List Host.Cell) (lo y : Nat), cellsWf lo t = true → y < lo → cellsGet t y = 0 := by
      intro t
      induction t with
      | nil => intros; rfl
      | cons e t ih =>
        intro lo y hw hy
        obtain ⟨c, u⟩ := e
        simp only [cellsWf, Bool.and_eq_true, Nat.ble_eq] at hw
        simp only [cellsGet]
        split
        · omega
        · exact ih (c + 1) y hw.2 (by omega)
    simp only [cellsSet]
    split
    · split
      · simp only [cellsGet]
        split
        · split
          · omega
          · rfl
        · split
          · rename_i hv _ _
            subst_vars
            exact low t (b + 1) _ h.2 (by omega)
          · rfl
      · simp only [cellsGet]
    · split
      · rename_i _ hab
        subst hab
        split
        · simp only [cellsGet]
          split
          · subst_vars; exact low t _ _ h.2 (by omega)
          · rfl
        · simp only [cellsGet]; split <;> rfl
      · simp only [cellsGet, ih _ h.2]
        split <;> split <;> first | rfl | omega

/-- A write keeps the canonical form, and a lower bound of the addresses that lies at or below the address written. -/
theorem cellsWf_set (l : List Host.Cell) (a : Nat) (v : BitVec 8) (lo : Nat) (h : cellsWf lo l = true) (ha : lo ≤ a) :
    cellsWf lo (cellsSet l a v) = true := by
  induction l generalizing lo with
  | nil =>
    simp only [cellsSet]
    split
    · rfl
    · rename_i hv; simpa [cellsWf, ha] using hv
  | cons e t ih =>
    obtain ⟨b, w⟩ := e
    simp only [cellsWf, Bool.and_eq_true, Nat.ble_eq] at h
    simp only [cellsSet]
    split
    · split
      · simp only [cellsWf, Bool.and_eq_true, Nat.ble_eq]; exact h
      · rename_i hab hv
        simp only [cellsWf, Bool.and_eq_true, Nat.ble_eq]
        exact ⟨⟨ha, by simpa using hv⟩, ⟨by omega, h.1.2⟩, h.2⟩
    · split
      · rename_i _ hab
        subst hab
        split
        · have wider : ∀ (t : List Host.Cell) (x y : Nat), y ≤ x → cellsWf x t = true → cellsWf y t = true := by
            intro t x y hxy hw
            cases t with
            | nil => rfl
            | cons e t =>
              obtain ⟨c, u⟩ := e
              simp only [cellsWf, Bool.and_eq_true, Nat.ble_eq] at hw ⊢
              exact ⟨⟨by omega, hw.1.2⟩, hw.2⟩
          exact wider t _ lo (by omega) h.2
        · rename_i hv
          simp only [cellsWf, Bool.and_eq_true, Nat.ble_eq]
          exact ⟨⟨ha, by simpa using hv⟩, h.2⟩
      · simp only [cellsWf, Bool.and_eq_true, Nat.ble_eq]
        exact ⟨h.1, ih (b + 1) h.2 (by omega)⟩

/-- A byte reads as written, and every other byte as before (R386). -/
theorem FrameStore.byte_setByte (m : FrameStore) (a v x : Nat) (h : m.wf = true) :
    (m.setByte a v).byte x = if x = a then v % 256 else m.byte x := by
  simp only [FrameStore.byte, FrameStore.setByte, cellsGet_set m.cells a x _ 0 h]
  split
  · simp [BitVec.toNat_ofNat]
  · rfl

/-- A write of one byte keeps the canonical form. -/
theorem FrameStore.wf_setByte (m : FrameStore) (a v : Nat) (h : m.wf = true) : (m.setByte a v).wf = true :=
  cellsWf_set m.cells a _ 0 h (Nat.zero_le a)

/-- A write of bytes keeps the canonical form. -/
theorem FrameStore.wf_setBytes (m : FrameStore) (a : Nat) (l : List Nat) (h : m.wf = true) : (m.setBytes a l).wf = true := by
  induction l generalizing m a with
  | nil => exact h
  | cons v t ih => exact ih _ _ (m.wf_setByte a v h)

/-- A write of a number keeps the canonical form. -/
theorem FrameStore.wf_leWrite (m : FrameStore) (a n v : Nat) (h : m.wf = true) : (m.leWrite a n v).wf = true :=
  m.wf_setBytes a _ h

/-- Marking a word uncorrectable keeps the canonical form. -/
theorem FrameStore.wf_mark (m : FrameStore) (a : Nat) (h : m.wf = true) : (m.mark a).wf = true := h

/-- A byte outside the bytes written reads as before. -/
theorem FrameStore.byte_setBytes_out (m : FrameStore) (a : Nat) (l : List Nat) (x : Nat) (h : m.wf = true)
    (hx : x < a ∨ a + l.length ≤ x) : (m.setBytes a l).byte x = m.byte x := by
  induction l generalizing m a with
  | nil => rfl
  | cons v t ih =>
    simp only [List.length_cons] at hx
    rw [FrameStore.setBytes, ih _ _ (m.wf_setByte a v h) (by omega), m.byte_setByte a v x h, if_neg (by omega)]

/-- The byte at a place of the bytes written. -/
theorem FrameStore.byte_setBytes_in (m : FrameStore) (a : Nat) (l : List Nat) (j : Nat) (h : m.wf = true) (hj : j < l.length) :
    (m.setBytes a l).byte (a + j) = l[j] % 256 := by
  induction l generalizing m a j with
  | nil => simp at hj
  | cons v t ih =>
    rw [FrameStore.setBytes]
    cases j with
    | zero =>
      rw [FrameStore.byte_setBytes_out _ _ _ _ (m.wf_setByte a v h) (by omega), m.byte_setByte a v _ h]
      simp
    | succ j =>
      have := ih (m.setByte a v) (a + 1) j (m.wf_setByte a v h) (by simpa using hj)
      rw [show a + (j + 1) = a + 1 + j by omega, this]
      simp

theorem leBytes_length (n v : Nat) : (leBytes n v).length = n := by
  induction n generalizing v with
  | zero => rfl
  | succ n ih => simp [leBytes, ih]

theorem FrameStore.byte_lt (m : FrameStore) (a : Nat) : m.byte a < 256 := (cellsGet m.cells a).isLt

/-- The bytes of a number that has been read are the bytes that were read. -/
theorem FrameStore.leBytes_leRead (m : FrameStore) (a n j : Nat) (h : j < n) :
    (leBytes n (m.leRead a n))[j]'(by rw [leBytes_length]; exact h) = m.byte (a + j) := by
  induction n generalizing a j with
  | zero => omega
  | succ n ih =>
    have hb := m.byte_lt a
    cases j with
    | zero => simp only [leBytes, FrameStore.leRead, List.getElem_cons_zero, Nat.add_zero]; omega
    | succ j =>
      have e : (m.byte a + 256 * m.leRead (a + 1) n) / 256 = m.leRead (a + 1) n := by omega
      simp only [leBytes, FrameStore.leRead, List.getElem_cons_succ, e]
      rw [ih (a + 1) j (by omega), show a + 1 + j = a + (j + 1) by omega]

/-- A number written back where it was read changes no byte. -/
theorem FrameStore.byte_leWrite_leRead (m : FrameStore) (a n x : Nat) (h : m.wf = true) :
    (m.leWrite a n (m.leRead a n)).byte x = m.byte x := by
  unfold FrameStore.leWrite
  by_cases hx : x < a ∨ a + n ≤ x
  · exact m.byte_setBytes_out _ _ _ h (by rw [leBytes_length]; exact hx)
  · obtain ⟨j, rfl⟩ : ∃ j, x = a + j := ⟨x - a, by omega⟩
    rw [m.byte_setBytes_in a _ j h (by rw [leBytes_length]; omega), m.leBytes_leRead a n j (by omega)]
    have := m.byte_lt (a + j)
    omega

end Sys2Proof.Machine
end

