-- ==== Sys2Proof/Laws/Canonical.lean ====
section
/-!
SUPPORT. Laws of the canonical form of the frame store: every operation of the module that writes the frame store keeps it.
-/

namespace Sys2Proof.Machine

/-- A fold keeps what each of its steps keeps. -/
theorem foldl_keeps {α β : Type} (P : β → Prop) (f : β → α → β) (h : ∀ b a, P b → P (f b a)) (l : List α) (b : β) (hb : P b) :
    P (l.foldl f b) := by
  induction l generalizing b with
  | nil => exact hb
  | cons a t ih => exact ih _ (h b a hb)

variable {m : FrameStore} {b : Blk}

/-- A fold over frame stores keeps the canonical form. -/
theorem foldl_wf {α : Type} (f : FrameStore → α → FrameStore) (h : ∀ m a, m.wf = true → (f m a).wf = true) (l : List α)
    (hm : m.wf = true) : (l.foldl f m).wf = true := foldl_keeps (fun m => m.wf = true) f h l m hm

/-- A fold over blocks with frame stores keeps the canonical form. -/
theorem foldl_wf2 {α : Type} (f : Blk × FrameStore → α → Blk × FrameStore) (h : ∀ q a, q.2.wf = true → (f q a).2.wf = true)
    (l : List α) (q : Blk × FrameStore) (hm : q.2.wf = true) : (l.foldl f q).2.wf = true :=
  foldl_keeps (fun q => q.2.wf = true) f h l q hm

/-- Both branches of a choice. -/
theorem wf_ite {c : Prop} [Decidable c] {p q : Blk × FrameStore} (hp : p.2.wf = true) (hq : q.2.wf = true) :
    (if c then p else q).2.wf = true := by
  split
  · exact hp
  · exact hq

theorem wf_choose {c : Prop} [Decidable c] {p q : FrameStore} (hp : p.wf = true) (hq : q.wf = true) : (if c then p else q).wf = true := by
  split
  · exact hp
  · exact hq

theorem wf_pair {x : Blk} {q : FrameStore} (h : q.wf = true) : (x, q).2.wf = true := h

theorem wf_empty : ({} : FrameStore).wf = true := rfl

theorem wf_putSample (h : m.wf = true) (y : Layout) (px py c d v : Nat) : (putSample m y px py c d v).wf = true := m.wf_leWrite _ _ _ h

theorem wf_engineByte (h : m.wf = true) (mid a v : Nat) : (engineByte b mid a v m).wf = true := by
  unfold engineByte; split
  · exact m.wf_setByte _ _ h
  · exact h

theorem wf_engineWrite (h : m.wf = true) (mid a : Nat) (l : List Nat) : (engineWrite mid a l b m).2.wf = true :=
  foldl_wf _ (fun _ _ hm => wf_engineByte hm _ _ _) _ h

theorem wf_engineSample (h : m.wf = true) (mid : Nat) (y : Layout) (px py c d v : Nat) :
    (engineSample b mid y px py c d v m).wf = true := by
  unfold engineSample; dsimp only; split
  · exact wf_putSample h ..
  · exact h

theorem wf_statEntries (r : StatRegs) (mid x : Nat) (l : List (List Nat)) (b : Blk) (m : FrameStore) (h : m.wf = true) :
    (statEntries r mid x l b m).2.wf = true := by
  induction l generalizing b m with
  | nil => exact h
  | cons e t ih =>
    unfold statEntries; dsimp only; split
    · exact h
    · exact ih _ _ (wf_engineWrite h ..)

theorem wf_engineRows (h : m.wf = true) (mid : Nat) (y : Layout) (sampling d : Nat) (rows : List (Nat × Nat × List Nat)) :
    (engineRows b mid y sampling d rows m).wf = true :=
  foldl_wf _ (fun _ _ hm => foldl_wf _ (fun _ _ hm => by dsimp only; split; exact wf_engineSample hm ..; exact hm) _ hm) _ h

theorem wf_greyLines (h : m.wf = true) (mid : Nat) (y : Layout) (d : Nat) (lines : List Nat) :
    (greyLines b mid y d lines m).wf = true :=
  foldl_wf _ (fun _ _ hm => foldl_wf _ (fun _ _ hm => foldl_wf _ (fun _ _ hm => by
    split; exact wf_engineSample hm ..; exact hm) _ hm) _ hm) _ h

theorem wf_xsdDecode (h : m.wf = true) (x c l : Nat) (first : Codestream) (cs : List Codestream) (errs : List Nat) (q : Ready) :
    (xsdDecode x c l first cs errs q b m).2.wf = true := by
  unfold xsdDecode
  extract_lets d n lost hidden src b1 b2
  cases freeBuf b2 l with
  | none => exact h
  | some k =>
    dsimp only
    refine wf_ite (wf_statEntries _ _ _ _ _ _ ?_) (wf_statEntries _ _ _ _ _ _ ?_) <;>
      exact wf_greyLines (wf_engineRows h ..) ..

theorem wf_xsdFrameDone (h : m.wf = true) (x : Nat) (cs : List Codestream) : (xsdFrameDone x cs b m).2.wf = true := by
  unfold xsdFrameDone
  repeat' (first | with_reducible exact h | with_reducible exact wf_xsdDecode h .. | split | dsimp only)

theorem wf_vdcPut (h : m.wf = true) (y : Layout) (au : AccessUnit) (px py c d v : Nat) : (vdcPut b y au px py c d v m).wf = true := by
  unfold vdcPut; split
  · exact wf_engineSample h ..
  · exact h

theorem wf_vdcWrite (h : m.wf = true) (x : Nat) (h264 : Bool) (y : Layout) (au : AccessUnit) (first recent : Option Pic) :
    (vdcWrite b x h264 y au first recent m).wf = true := by
  have luma : ∀ (m : FrameStore) (n : NalUnit), m.wf = true → (n.luma.foldl (fun m r => (r.2.2.zipIdx).foldl (fun m e =>
      vdcPut b y au (r.2.1 + e.2) (auLine au r.1) 1 au.depth.1 e.1 m) m) m).wf = true := fun m n hm =>
    foldl_wf _ (fun _ _ hm => foldl_wf _ (fun _ _ hm => wf_vdcPut hm ..) _ hm) _ hm
  have ch : ∀ (m : FrameStore) (r : Nat × Nat × List Nat), m.wf = true → ((r.2.2.zipIdx).foldl (fun m e =>
      vdcPut b y au (2 * (r.2.1 + e.2 / 2)) (2 * auLine au r.1) (if e.2 % 2 = 0 then 2 else 0) au.depth.1 e.1 m) m).wf = true :=
    fun m r hm => foldl_wf _ (fun _ _ hm => wf_vdcPut hm ..) _ hm
  unfold vdcWrite; dsimp only
  refine foldl_wf _ (fun _ _ hm => foldl_wf _ (fun _ _ hm => foldl_wf _ (fun _ _ hm => ?_) _ hm) _ hm) _ ?_
  · split
    · exact wf_vdcPut (wf_vdcPut (wf_vdcPut hm ..) ..) ..
    · exact wf_vdcPut hm ..
  · split
    · exact foldl_wf _ ch _ (foldl_wf _ luma _ h)
    · exact foldl_wf _ (fun _ _ hm => foldl_wf _ ch _ hm) _ (foldl_wf _ luma _ h)

theorem wf_vdcDecode (h : m.wf = true) (x c j : Nat) (au : AccessUnit) (q : Ready) (mate : Option Pic) :
    (vdcDecode x c j au q mate b m).2.wf = true := by
  unfold vdcDecode; dsimp only; exact wf_vdcWrite h ..

theorem wf_closeHalf (h : m.wf = true) (x : Nat) : (closeHalf x b m).2.wf = true := by
  unfold closeHalf; dsimp only
  split
  · exact h
  · exact foldl_wf _ (fun m j hm => foldl_wf _ (fun m px hm =>
      wf_choose (wf_engineSample (wf_engineSample (wf_choose (wf_engineSample hm ..) hm) ..) ..)
        (wf_choose (wf_engineSample hm ..) hm)) _ hm) _ h

theorem wf_vdcUnit (h : m.wf = true) (x c : Nat) (au : AccessUnit) (q : Ready) (r : Blk × FrameStore) (e : vdcUnit x c au q b m = some r) :
    r.2.wf = true := by
  have hc : (closeHalf x b m).2.wf = true := wf_closeHalf h x
  unfold vdcUnit at e; dsimp only at e
  split at e
  · split at e
    · cases e; exact h
    · split at e
      · cases e; exact wf_vdcDecode h ..
      · obtain ⟨j, -, rfl⟩ := Option.map_eq_some_iff.1 e
        exact wf_vdcDecode hc ..
  · cases e; exact h

theorem wf_vdcDrain (x c : Nat) (l : List (AccessUnit × Ready)) (t : Nat) (b : Blk) (m : FrameStore) (h : m.wf = true) :
    (vdcDrain x c l t b m).2.wf = true := by
  induction l generalizing t b m with
  | nil => exact h
  | cons e l ih =>
    unfold vdcDrain; split
    · rename_i r he; exact ih _ _ _ (wf_vdcUnit h _ _ _ _ _ he)
    · exact h

theorem wf_vdcAccessUnit (h : m.wf = true) (x : Nat) (au : AccessUnit) : (vdcAccessUnit x au b m).2.wf = true := by
  unfold vdcAccessUnit; dsimp only
  repeat' (first | with_reducible exact h | with_reducible exact wf_vdcDrain _ _ _ _ _ _ h | split)

theorem wf_vdcSlotFree (h : m.wf = true) (x : Nat) : (vdcSlotFree x b m).2.wf = true := by
  unfold vdcSlotFree
  repeat' (first | with_reducible exact h | with_reducible exact wf_vdcDrain _ _ _ _ _ _ h | split)

theorem wf_vdcPictureOutput (h : m.wf = true) (x : Nat) : (vdcPictureOutput x b m).2.wf = true := by
  unfold vdcPictureOutput; dsimp only
  split
  · exact wf_ite (wf_statEntries _ _ _ _ _ _ h) (wf_statEntries _ _ _ _ _ _ h)
  · exact h

theorem wf_vecComplete (h : m.wf = true) (x : Nat) (p : VecPic) : (vecComplete x p b m).2.wf = true := by
  unfold vecComplete; dsimp only; exact wf_statEntries _ _ _ _ _ _ h

theorem wf_vecRowCoded (h : m.wf = true) (x row : Nat) (r : VecRow) : (vecRowCoded x row r b m).2.wf = true := by
  unfold vecRowCoded; dsimp only
  repeat' (first | with_reducible exact h | with_reducible exact wf_vecComplete h .. | split)

theorem wf_ringWrite (h : m.wf = true) (x : Nat) (l : List Nat) : (ringWrite x l b m).2.wf = true :=
  foldl_wf _ (fun _ _ hm => wf_engineByte hm _ _ _) _ h

theorem wf_recordUnit (h : m.wf = true) (x : Nat) (p : VecPic) (au : List Nat) : (recordUnit x p au b m).2.wf = true := by
  unfold recordUnit; dsimp only
  repeat' (first | with_reducible exact h | with_reducible exact wf_ringWrite h .. | split)

theorem wf_vecSliceOut (h : m.wf = true) (x : Nat) (sets : List ParamSet) (nals : List (List Nat)) :
    (vecSliceOut x sets nals b m).2.wf = true := by
  unfold vecSliceOut; dsimp only
  repeat' (first | with_reducible exact h | with_reducible exact wf_recordUnit h .. | split)

/-! ### Accesses -/

theorem wf_storeWords (h : m.wf = true) (a : Nat) (l : List Nat) : (storeWords a l m).wf = true := by
  unfold storeWords; dsimp only
  refine foldl_wf _ (fun _ _ hm => ?_) _ (m.wf_setBytes _ _ h)
  split
  · exact FrameStore.wf_mark _ _ hm
  · exact hm

theorem wf_memWrite (h : m.wf = true) (mid a n : Nat) (l : List Nat) (e : Nat × Nat) : (memWrite mid a n l e b m).2.wf = true := by
  unfold memWrite; dsimp only
  have hs : ∀ x : FrameStore, x.wf = true → (storeWords a (l.take n) x).wf = true := fun x hx => wf_storeWords hx ..
  refine wf_ite h (wf_ite h (hs _ ?_))
  split
  · exact m.wf_mark _ h
  · split
    · exact m.wf_leWrite _ _ _ h
    · exact h

theorem wf_memRead (h : m.wf = true) (mid a n flips skew : Nat) (beaten : Bool) : (memRead mid a n flips skew beaten b m).2.wf = true := by
  unfold memRead; dsimp only
  repeat' (first | with_reducible exact h | with_reducible exact m.wf_mark _ h | with_reducible exact m.wf_leWrite _ _ _ h | split)

theorem wf_memAccess (h : m.wf = true) (mid a n : Nat) (write misroute : Bool) (l : List Nat) (flips skew : Nat) (beaten : Bool) :
    (memAccess mid a n write misroute l flips skew beaten b m).2.wf = true := by
  unfold memAccess
  extract_lets refuse
  have hr : ∀ k, (refuse k).2.wf = true := fun k => wf_ite h h
  exact wf_ite (hr _) (wf_ite (hr _) (wf_ite h (wf_ite (wf_memWrite h ..) (wf_memRead h ..))))

theorem wf_memRequest (h : m.wf = true) (mid a n : Nat) (write misroute : Bool) (l : List Nat) (flips skew : Nat) (beaten : Bool) :
    (memRequest mid a n write misroute l flips skew beaten b m).2.wf = true := by
  unfold memRequest
  exact wf_ite h (wf_memAccess h ..)

theorem wf_scrubRead (h : m.wf = true) (flips skew : Nat) (beaten : Bool) : (scrubRead flips skew beaten b m).2.wf = true := by
  unfold scrubRead; extract_lets a b1 r
  exact wf_ite h (wf_ite (m.wf_mark _ h) (wf_ite h (wf_ite (wf_choose h (m.wf_leWrite _ _ _ h)) h)))

theorem wf_storeRead (h : m.wf = true) (mid a : Nat) : (storeRead mid a b m).2.1.wf = true := by
  unfold storeRead; dsimp only
  split <;> exact wf_memAccess h ..

theorem wf_safetyWord (h : m.wf = true) (at_ : Option (Bool × Nat)) (data : Nat) : (safetyWord at_ data b m).2.1.wf = true := by
  unfold safetyWord
  split
  · exact h
  · exact h
  · exact wf_memAccess h ..

theorem wf_safetyWrite (h : m.wf = true) (addr : Nat) (words : List Nat) (check : Nat) (clean : Bool) :
    (safetyWrite addr words check clean b m).2.wf = true := by
  unfold safetyWrite; dsimp only
  split
  · exact h
  · split
    · exact h
    · split
      · exact h
      · refine foldl_keeps (fun q : Blk × FrameStore × Bool => q.2.1.wf = true) _ ?_ _ (b, m, false) h
        intro q w hm
        exact wf_safetyWord hm ..

theorem wf_safetyRead (h : m.wf = true) (addr n ready : Nat) : (safetyRead addr n ready b m).2.wf = true := by
  unfold safetyRead; dsimp only
  split
  · exact h
  · refine foldl_keeps (fun q : Blk × FrameStore × SafetyRead => q.2.1.wf = true) _ (fun q _ hm => ?_) _ _ h
    obtain ⟨b, m, r⟩ := q
    unfold safetyReadWord; dsimp -zeta only
    extract_lets at_ slow
    clear_value slow at_
    split
    · exact hm
    · obtain _ | ⟨_ | _, a⟩ := at_
      · exact hm
      · exact hm
      · exact wf_storeRead hm ..

/-! ### Ingest -/

theorem wf_putAlpha (h : m.wf = true) (y : Layout) (px py : Nat) : (putAlpha y px py m).wf = true := by
  unfold putAlpha
  exact wf_choose (m.wf_leWrite _ _ _ h) h

theorem wf_putGroup (h : m.wf = true) (y : Layout) (sampling d px py : Nat) (vals : List Nat) :
    (putGroup b y sampling d px py vals m).wf = true :=
  foldl_wf _ (fun _ _ hm => by dsimp only; split; exact wf_putAlpha (wf_putSample hm ..) ..; exact hm) _ h

theorem wf_putRow (y : Layout) (sampling d py fuel px : Nat) (vals : List Nat) (m : FrameStore) (h : m.wf = true) :
    (putRow b y sampling d py fuel px vals m).wf = true := by
  induction fuel generalizing px vals m with
  | zero => exact h
  | succ n ih =>
    unfold putRow; split
    · exact h
    · exact ih _ _ _ (wf_putGroup h ..)

theorem wf_placePixels (h : m.wf = true) (c : Nat) (y : Layout) (p : RtpPkt) : (placePixels c y p b m).2.wf = true := by
  unfold placePixels; dsimp only
  refine foldl_wf2 _ (fun _ _ hm => ?_) _ _ h
  split <;> exact wf_putRow _ _ _ _ _ _ _ _ hm

theorem wf_fillGrey (h : m.wf = true) (a : Asm) (y : Layout) (sampling d : Nat) : (fillGrey b a y sampling d m).wf = true :=
  foldl_wf _ (fun _ _ hm => foldl_wf _ (fun _ _ hm => foldl_wf _ (fun _ _ hm => by
    dsimp only; split; exact wf_putAlpha (wf_putSample hm ..) ..; exact hm) _ hm) _ hm) _ h

theorem wf_completeFrame (h : m.wf = true) (c : Nat) (a : Asm) : (completeFrame c a b m).2.wf = true := by
  unfold completeFrame; dsimp only
  exact wf_ite (wf_ite (wf_fillGrey h ..) (wf_fillGrey h ..)) h

theorem wf_completeWhere (h : m.wf = true) (c : Nat) (cond : Blk → Asm → Bool) : (completeWhere c cond b m).2.wf = true :=
  foldl_wf2 _ (fun _ _ hm => wf_completeFrame hm ..) _ _ h

theorem wf_takePacket (h : m.wf = true) (c : Nat) (a : Asm) (p : RtpPkt) : (takePacket c a p b m).2.wf = true := by
  unfold takePacket; dsimp only
  repeat' (first | with_reducible exact h | with_reducible exact wf_placePixels h .. | split)

theorem wf_endsBefore (h : m.wf = true) (c k no : Nat) : (endsBefore c k no b m).2.wf = true := by
  unfold endsBefore; exact wf_completeWhere h ..

theorem wf_rtpPacketRx (h : m.wf = true) (c : Nat) (p : RtpPkt) : (rtpPacketRx c p b m).2.wf = true := by
  unfold rtpPacketRx; extract_lets r b1 known j e q
  refine wf_ite h (wf_ite h ?_)
  cases doneNo b1 c p.ts with
  | some no => exact wf_endsBefore h ..
  | none =>
    dsimp -zeta only
    have hq : q.2.wf = true := wf_ite (wf_endsBefore h ..) (wf_endsBefore h ..)
    cases asmOf q.1 c p.ts with
    | none => exact hq
    | some a => exact wf_ite (wf_completeWhere (wf_takePacket hq ..) ..) (wf_takePacket hq ..)

theorem wf_pathDown (h : m.wf = true) (c k : Nat) : (pathDown c k b m).2.wf = true := by
  unfold pathDown; dsimp only
  repeat' (first | with_reducible exact h | with_reducible exact wf_completeWhere h .. | split)

/-! ### The pair, the ensemble, the show, and stages -/

theorem wf_replayHeld (h : m.wf = true) : (replayHeld b m).2.wf = true := by
  unfold replayHeld; dsimp only
  refine foldl_wf2 _ (fun _ _ hm => ?_) _ _ h
  split
  · exact wf_memAccess hm ..
  · exact hm

theorem wf_epochBoundary (h : m.wf = true) : (epochBoundary b m).2.wf = true := by
  unfold epochBoundary; dsimp only
  split
  · exact h
  · exact wf_replayHeld h

theorem wf_epochBoundaryCmd (h : m.wf = true) : (epochBoundaryCmd b m).2.wf = true := by
  unfold epochBoundaryCmd; split
  · exact wf_epochBoundary h
  · exact h

theorem wf_storeWrite (h : m.wf = true) (mid a : Nat) (u : Bool) (bytes : List Nat) : (storeWrite mid a u bytes b m).2.wf = true := by
  unfold storeWrite
  refine wf_ite h (foldl_wf2 _ (fun q e hm => ?_) _ _ h)
  exact wf_ite hm (wf_choose (foldl_wf _ (fun _ _ hm => FrameStore.wf_mark _ _ hm) _ (q.2.wf_setBytes _ _ hm)) (q.2.wf_setBytes _ _ hm))

theorem wf_epochFrameRx (h : m.wf = true) (f : EpochFrame) : (epochFrameRx f b m).2.wf = true := by
  unfold epochFrameRx; dsimp only
  split
  · exact h
  · split
    · unfold storeArrived; split
      · exact wf_storeWrite h ..
      · exact h
    · exact h
    · exact h

theorem wf_storeReleased (h : m.wf = true) : (storeReleased b m).2.wf = true := by
  unfold storeReleased; extract_lets mid
  refine foldl_wf2 _ (fun q e hm => ?_) _ _ h
  exact wf_ite (wf_pair (wf_storeWrite hm ..)) hm

theorem wf_curtainUp (h : m.wf = true) (st : Nat) : (curtainUp st b m).2.wf = true := by
  unfold curtainUp; dsimp only
  split
  · exact h
  · dsimp only; split
    · exact wf_epochBoundary h
    · exact h

theorem wf_relayFrameRx (h : m.wf = true) (port : Nat) (f : RelayFrame) (bad : Bool) : (relayFrameRx port f bad b m).2.wf = true := by
  have d : ∀ (b : Blk) l o bytes, (relayData l o bytes b m).2.wf = true := by
    intro b l o bytes; unfold relayData; dsimp only
    split
    · exact h
    · exact foldl_wf _ (fun _ _ hm => wf_engineByte hm _ _ _) _ h
  unfold relayFrameRx; dsimp only
  repeat' (first | with_reducible exact h | with_reducible exact d .. | split)

theorem wf_showStore (h : m.wf = true) (a : Nat) (bytes : List Nat) : (showStore a bytes b m).2.wf = true := m.wf_setBytes _ _ h

theorem wf_drawCaption (h : m.wf = true) (c s w k : Nat) (name : List Nat) : (drawCaption c s w k name b m).2.wf = true := by
  unfold drawCaption; dsimp only
  exact foldl_wf2 _ (fun _ _ hm => wf_showStore hm ..) _ _ h

theorem wf_tileHead (h : m.wf = true) (e : Nat × ShowMode) (cs : List (Nat × Sdp)) : (tileHead e cs b m).2.wf = true := by
  unfold tileHead; dsimp only
  exact foldl_wf2 _ (fun _ _ hm => by unfold tileChannel; dsimp only; exact wf_drawCaption hm ..) _ _ h

theorem wf_tileAll (h : m.wf = true) : (tileAll b m).2.wf = true := by
  unfold tileAll; dsimp only
  exact foldl_wf2 _ (fun _ _ hm => wf_tileHead hm ..) _ _ h

theorem wf_showRetile (h : m.wf = true) : (showRetile b m).2.wf = true := by
  unfold showRetile; dsimp only
  repeat' (first | with_reducible exact h | with_reducible exact wf_tileAll h | split)

theorem wf_showStart (h : m.wf = true) : (showStart b m).2.wf = true := by
  unfold showStart; dsimp only
  repeat' (first | with_reducible exact h | with_reducible exact wf_tileAll h | split)

theorem wf_signatureArrayDone (h : m.wf = true) (st : Nat) : (signatureArrayDone st b m).2.wf = true := by
  unfold signatureArrayDone; dsimp only
  split
  · exact h
  · refine foldl_wf _ (fun _ _ hm => ?_) _ h
    split
    · exact FrameStore.wf_setByte _ _ _ hm
    · exact hm

end Sys2Proof.Machine
end

