-- ==== Sys2Proof/Laws/Freshness.lean ====
section
/-!
SUPPORT. Laws of the prompter's bookkeeping: what recording an event, an audit record and the verdict registers leave alone.
-/

namespace Sys2Proof.Machine

theorem places_ite {c : Prop} [Decidable c] {p q x : Blk} (hp : p.prm.places = x.prm.places) (hq : q.prm.places = x.prm.places) :
    (if c then p else q).prm.places = x.prm.places := by
  split
  · exact hp
  · exact hq

/-- Recording an event leaves the prompter's state alone. -/
theorem prm_raise (p : Page) (code sev d evt : Nat) (b : Blk) : (raise p code sev d evt b).prm = b.prm := by
  show (raise p code sev d evt b).rest.prm = b.rest.prm
  rw [rest_raise]

theorem prm_setEvt (p : Page) (m : Nat) (b : Blk) : (setEvt p m b).prm = b.prm := by
  show (setEvt p m b).rest.prm = b.rest.prm
  rw [rest_setEvt]

theorem prm_showPlace (st k : Nat) (b : Blk) : (showPlace st k b).prm = b.prm := by unfold showPlace; split <;> rfl

theorem prm_refreshStage (st : Nat) (b : Blk) : (refreshStage st b).prm = b.prm := by
  simp only [refreshStage, Blk.put, Blk.wr_prm]

theorem places_refreshLayer (l why : Nat) (b : Blk) : (refreshLayer l why b).prm.places = b.prm.places := by
  unfold refreshLayer; exact places_ite rfl rfl

/-- An audit record changes no placement. -/
theorem places_audit (st k : Nat) (p : Place) (o n w t : Nat) (m : Bool) (b : Blk) :
    (audit st k p o n w t m b).prm.places = b.prm.places := by
  unfold audit auditPut
  refine places_ite ?_ rfl
  rw [prm_raise]; rfl

/-- Judging a placement anew leaves it with the verdict of its frame on display and its layer's evidence (R86), or as it was. -/
theorem rejudge_verdict (st k cause at_ time : Nat) (force mid : Bool) (b : Blk) (p q : Place) (h : b.place st k = some p)
    (hq : (rejudge st k cause force mid at_ time b).place st k = some q) :
    q.verdict = (judge at_ (layerPol (b.viewed st) p.layer).cls (b.layer p.layer) p.shownDecim p.shown).1 := by
  unfold rejudge at hq
  simp -zeta only [h] at hq
  extract_lets e r unc worse why p' b1 d b2 at hq
  have q1 : b1.prm.places = mset b.prm.places (st * 72 + k) p' := places_audit _ _ _ _ _ _ _ _ _
  have q2 : b2.prm.places = mset b.prm.places (st * 72 + k) p' := by
    show (if worse then raise _ _ _ _ _ b1 else raise _ _ _ _ _ b1).prm.places = _
    split <;> rw [prm_raise, q1]
  split at hq
  · rename_i he
    split at hq
    · rw [h] at hq; cases hq; exact he.symm
    · have : (some { p with unc := unc } : Option Place) = some q := by
        rw [← hq]
        show _ = mget (refreshStage st (showPlace st k (b.putPlace st k { p with unc := unc }))).prm.places _
        rw [prm_refreshStage, prm_showPlace]
        simp [Blk.putPlace]
      cases this; exact he.symm
  · have : some p' = some q := by
      rw [← hq]
      show _ = mget (refreshLayer p.layer why (refreshStage st (showPlace st k b2))).prm.places _
      rw [places_refreshLayer, prm_refreshStage, prm_showPlace, q2]
      simp
    exact (congrArg Place.verdict (Option.some.inj this)).symm

end Sys2Proof.Machine
end

