-- ==== Sys2Proof/Laws/Memory.lean ====
section
/-!
SUPPORT. Laws of the frame store's error correction: what a word that nothing has disturbed reads as.
-/

namespace Sys2Proof.Machine

/-- A word with no bit wrong, read at its own address, is the word that was stored, and no error. -/
theorem readCoded_clean (m : FrameStore) (i : Nat) : readCoded m i 0 0 = (m.leRead (8 * i) 8, 0) := by
  have x0 : ∀ a : Nat, Nat.xor a 0 = a := Nat.xor_zero
  have xx : ∀ a : Nat, Nat.xor a a = 0 := Nat.xor_self
  have o : ones 0 = 0 := by decide
  have z : (0 : Nat) % 2 ^ 64 = 0 ∧ 0 / 2 ^ 64 % 256 = 0 := by decide
  simp only [readCoded, z.1, z.2, x0, syndrome, xx, o, syndromeErr, if_true, Nat.zero_mod, Nat.zero_ne_one, if_false]

end Sys2Proof.Machine
end

