-- ==== Sys2Proof/Laws/Power.lean ====
section
/-!
SUPPORT. Laws of the module's resets: what a reset of every block leaves, field by field.
-/

namespace Sys2Proof.Machine

/-- The thresholds of a grade change registers and nothing else. -/
theorem gradeThresholds_eq (b : Blk) : gradeThresholds b = { b with regs := (gradeThresholds b).regs } := by
  unfold gradeThresholds
  split <;> rfl

/-- What a reset of every block leaves beside the registers (R435): the power path's own state, what the EEPROM holds, and the PMBus
state. -/
theorem blocksReset_pwr (b : Blk) : (blocksReset b).pwr = b.pwr := by
  unfold blocksReset; rw [gradeThresholds_eq]; dsimp only; split <;> rfl

theorem blocksReset_up (b : Blk) : (blocksReset b).up = b.up := by
  unfold blocksReset; rw [gradeThresholds_eq]; dsimp only; split <;> rfl

theorem blocksReset_stg (b : Blk) : (blocksReset b).stg = [] := by
  unfold blocksReset; rw [gradeThresholds_eq]; dsimp only; split <;> rfl

theorem blocksReset_heads (b : Blk) : (blocksReset b).heads = [] := by
  unfold blocksReset; rw [gradeThresholds_eq]; dsimp only; split <;> rfl

theorem blocksReset_saved (b : Blk) : (blocksReset b).clk.saved = b.clk.saved := by
  unfold blocksReset; rw [gradeThresholds_eq]; dsimp only; split <;> rfl

theorem blocksReset_savedMode (b : Blk) : (blocksReset b).acg.savedMode = b.acg.savedMode := by
  unfold blocksReset; rw [gradeThresholds_eq]; dsimp only; split <;> rfl

/-- A reset of every block sends nothing but the fall of OWN_OUT. -/
theorem blocksReset_out (b : Blk) : (blocksReset b).out = b.out ++ if ownOut b then [.ownOut false] else [] := by
  unfold blocksReset; rw [gradeThresholds_eq]; dsimp only
  split
  · rfl
  · exact (List.append_nil _).symm

end Sys2Proof.Machine
end

