-- ==== Sys2Proof/Laws/Sends.lean ====
section
/-!
SUPPORT. Laws of sending: what follows an accepted write keeps what the write left staged.
-/

namespace Sys2Proof.Machine

/-- A step that keeps a projection keeps it over a list. -/
theorem forEach_keeps {α β γ : Type} (g : α → γ) {f : β → α → α} (h : ∀ x a, g (f x a) = g a) (l : List β) (a : α) :
    g (forEach l f a) = g a := by
  induction l generalizing a with
  | nil => rfl
  | cons x t ih => exact (ih (f x a)).trans (h x a)

/-- Blocks sent on a port leave the control state. -/
theorem sendBlock_ctl (p : Nat) (e : Nat × Nat) (b : Blk) : (sendBlock p e b).ctl = b.ctl := by
  have k : ∀ (l : Nat) (cws : List (List Nat)) (c : Blk), (forEach cws (fun cw b => b.emit (.codeword l cw)) c).ctl = c.ctl :=
    fun l cws c => forEach_keeps Blk.ctl (f := fun cw b => b.emit (.codeword l cw)) (fun _ _ => rfl) cws c
  exact k _ _ _

/-- A frame sent on a channel leaves the control state. -/
theorem chnSend_ctl (p c : Nat) (words : List Nat) (b : Blk) : (chnSend p c words b).ctl = b.ctl := by
  have k : ∀ (l : List (Nat × Nat)) (d : Blk), (sendBlocks p l d).ctl = d.ctl :=
    fun l d => forEach_keeps Blk.ctl (fun e c => sendBlock_ctl p e c) l d
  exact k _ _

/-- A message sent round the ring leaves the control state. -/
theorem sendAround_ctl (o : Nat) (ports words : List Nat) (b : Blk) : (sendAround o ports words b).ctl = b.ctl := by
  unfold sendAround
  exact forEach_keeps Blk.ctl (f := fun p b => chnSend p 5 words b) (fun p c => chnSend_ctl p 5 words c) _ _

/-- What follows a write that took effect (R336, R350, R371) leaves the control state, and with it the staged words. -/
theorem settled_ctl (b0 b : Blk) (mid a data : Nat) : (settled b0 mid a data b).ctl = b.ctl := by
  have s : ∀ c : Blk, (stampWrite (b.rd F.PAIR_EPOCH_EPOCH 0) a c).ctl = c.ctl := by
    intro c
    have k : ∀ l : List Nat, (if l.isEmpty then c
        else c.putPr { c.pr with stamps := l.foldl (fun m s => mset m s (b.rd F.PAIR_EPOCH_EPOCH 0)) c.pr.stamps }).ctl = c.ctl := by
      intro l
      split <;> rfl
    exact k _
  have r : ∀ c : Blk, (copyRecord mid a data c).ctl = c.ctl := by
    intro c
    unfold copyRecord
    dsimp only
    split
    · split <;> rfl
    · rfl
  have f : ∀ c : Blk, (sharedForward mid a data c).ctl = c.ctl := by
    intro c
    unfold sharedForward
    split
    · exact sendAround_ctl _ _ _ c
    · rfl
  unfold settled
  dsimp only
  rw [f]
  split
  · rw [r]
    split
    · exact s b
    · rfl
  · split
    · exact s b
    · rfl

end Sys2Proof.Machine
end

