-- ==== Sys2Proof/WellFormed.lean ====
section
/-!
DEFINITION. Which commands the spec knows: every operand within the range that the module's structure gives it. A page
operand names a page of R54, a register operand an offset in the 64 MiB of BAR0 (R44), an instance operand an instance of its block,
a MID six bits (R406). Operands that are times, Booleans or signed measurements have no range.
-/

namespace Sys2Proof

open Sys2Proof.Machine

/-- Every operand of the command lies in its range. -/
def Instr.wf : Instr → Bool
  | .registerWrite _ mid _ addr words _ =>
    Nat.blt mid 64 && Nat.blt addr 0x4000000 && (words.all fun (w : Nat × Nat) => Nat.blt w.1 0x100000000
      && Nat.blt w.2 16)
  | .hostPortReset _ => true
  | .msixPendingSend _ _ _ => true
  | .pgEvtClear _ mid page data => Nat.blt mid 64 && (pageOfSlot page).isSome && Nat.blt data 0x100000000
  | .pgEvtEnWrite _ mid page data => Nat.blt mid 64 && (pageOfSlot page).isSome && Nat.blt data 0x100000000
  | .errcntClear _ mid page _ => Nat.blt mid 64 && (pageOfSlot page).isSome
  | .firstErrClear _ mid page => Nat.blt mid 64 && (pageOfSlot page).isSome
  | .spWrite _ addr words check _ =>
    Nat.blt addr 0x4000000 && (words.all fun w => Nat.blt w 0x100000000) && Nat.blt check 0x100000000
  | .spRead _ addr n ready => Nat.blt addr 0x4000000 && Nat.blt n 256 && Nat.ble ready 64
  | .spStatus _ => true
  | .portReset _ => true
  | .unknownCommand _ code => Nat.blt code 256
  | .operationOn _ => true
  | .operationOff _ => true
  | .operationRead _ => true
  | .clearFaults _ => true
  | .statusWord _ => true
  | .statusTemperature _ => true
  | .readVin _ mV => Nat.blt mV 65536
  | .readIin _ mA => Nat.blt mA 1048576
  | .readTemperature1 _ => true
  | .readTemperature2 _ => true
  | .readPin _ mW => Nat.blt mW 16777216
  | .pmbusRevision _ => true
  | .mfrId _ => true
  | .mfrModel _ => true
  | .mfrRevision _ => true
  | .mfrSerial _ => true
  | .mfrRole _ => true
  | .mfrThermalLevel _ => true
  | .mfrEjectRequest _ => true
  | .mfrOrderingCode _ => true
  | .mfrUptime _ => true
  | .smbusUnsupported _ code _ => Nat.blt code 256
  | .softReset _ mid page data => Nat.blt mid 64 && (pageOfSlot page).isSome && Nat.blt data 0x100000000
  | .softResetDone _ page => (pageOfSlot page).isSome
  | .pgCueArm _ mid page data => Nat.blt mid 64 && (pageOfSlot page).isSome && Nat.blt data 0x100000000
  | .pgCueDisarm _ mid page data => Nat.blt mid 64 && (pageOfSlot page).isSome && Nat.blt data 0x100000000
  | .pgCueDiscard _ mid page data => Nat.blt mid 64 && (pageOfSlot page).isSome && Nat.blt data 0x100000000
  | .gcueArm _ mid data => Nat.blt mid 64 && Nat.blt data 0x100000000
  | .gcueDisarm _ mid data => Nat.blt mid 64 && Nat.blt data 0x100000000
  | .cueTaken _ group id => (if group then Nat.blt id 64 else (pageOfSlot id).isSome)
  | .errRecordArrival _ page code sev detail mid =>
    (pageOfSlot page).isSome && Nat.blt code 65536 && Nat.ble sev 5 && Nat.blt detail 0x100000000 && Nat.blt mid 64
  | .errRdIdxWrite _ mid data => Nat.blt mid 64 && Nat.blt data 0x100000000
  | .errClrLost _ mid data => Nat.blt mid 64 && Nat.blt data 0x100000000
  | .severeQueuePop _ => true
  | .sqStatRead _ => true
  | .ringWindowWrite _ mid addr data =>
    Nat.blt mid 64 && Nat.ble 0x11000 addr && Nat.blt addr 0x12000 && Nat.blt data 0x100000000
  | .curtainUp _ stage => Nat.blt stage 24
  | .frameEligible _ chan => Nat.blt chan 64
  | .prompterDecision _ layer => Nat.blt layer 4096
  | .deadlinePassed _ stage slot => Nat.blt stage 24 && Nat.blt slot 72
  | .pulseChange _ layer => Nat.blt layer 4096
  | .pulseDeadlinePassed _ layer => Nat.blt layer 4096
  | .floorWrite _ mid data => Nat.blt mid 64 && Nat.blt data 0x100000000
  | .freshnessWindowWrite _ mid addr data =>
    Nat.blt mid 64 && Nat.ble 0x600000 addr && Nat.blt addr 0x700000 && Nat.blt data 0x100000000
  | .logWrapsClear _ mid data => Nat.blt mid 64 && Nat.blt data 0x100000000
  | .mapComplete _ stage => Nat.blt stage 24
  | .ethFrameRx _ port _ => Nat.blt port 16
  | .dropReport _ port => Nat.blt port 16
  | .queryRx _ port version group => Nat.blt port 16 && Nat.ble version 4 && Nat.blt group (2 ^ 128)
  | .reportRepeat _ port group => Nat.blt port 16 && Nat.blt group (2 ^ 128)
  | .arpReply _ port _ addr => Nat.blt port 16 && Nat.blt addr (2 ^ 128)
  | .addrConflict _ port => Nat.blt port 16
  | .nifLinkUp _ port => Nat.blt port 16
  | .nifLinkDown _ port cause => Nat.blt port 16 && Nat.blt cause 16
  | .fecReport _ port corrected codewords =>
    Nat.blt port 16 && Nat.blt corrected 0x100000000 && Nat.blt codewords 0x100000000
  | .rtpPacketRx _ chan _ => Nat.blt chan 64
  | .pathDown _ chan path => Nat.blt chan 64 && Nat.blt path 2
  | .skewTimeout _ chan => Nat.blt chan 64
  | .assemblyTimeout _ chan => Nat.blt chan 64
  | .rtcpSrRx _ chan ntp rtp => Nat.blt chan 64 && Nat.blt ntp 0x10000000000000000 && Nat.blt rtp 0x100000000
  | .rtcpSrExpiry _ chan => Nat.blt chan 64
  | .ancPacketRx _ chan _ => Nat.blt chan 64
  | .sapAnnouncement _ port _ _ _ _ => Nat.blt port 16
  | .sapDeletion _ _ => true
  | .sessionTimeout _ _ => true
  | .publish _ mid layer data => Nat.blt mid 64 && Nat.blt layer 4096 && Nat.blt data 0x100000000
  | .corruptBlock _ pipe layer => Nat.blt pipe 96 && Nat.blt layer 4096
  | .lineNotReady _ stage slot line => Nat.blt stage 24 && Nat.blt slot 72 && Nat.blt line 65536
  | .headQueueStarved _ stage line => Nat.blt stage 24 && Nat.blt line 65536
  | .signatureArrayDone _ stage => Nat.blt stage 24
  | .signatureArrayLate _ stage => Nat.blt stage 24
  | .psCommitWrite _ mid stage data => Nat.blt mid 64 && Nat.blt stage 24 && Nat.blt data 0x100000000
  | .psCheck _ stage k => Nat.blt stage 24 && Nat.blt k 8
  | .sigSample _ levels => Nat.blt levels 16777216
  | .contactDebounced _ c => Nat.blt c 16
  | .contactStuck _ c => Nat.blt c 16
  | .unsettledTimeout _ c => Nat.blt c 16
  | .chatterEnd _ c => Nat.blt c 16
  | .contactConfigWrite _ mid c data => Nat.blt mid 64 && Nat.blt c 16 && Nat.blt data 0x100000000
  | .suppressedClear _ mid data => Nat.blt mid 64 && Nat.blt data 0x100000000
  | .xsdFrameDone _ ctx _ => Nat.blt ctx 16
  | .vdcAccessUnit _ ctx _ => Nat.blt ctx 32
  | .vdcPictureOutput _ ctx => Nat.blt ctx 32
  | .vdcStall _ ctx => Nat.blt ctx 32
  | .vdcSlotFree _ ctx => Nat.blt ctx 32
  | .vecRowReady _ ctx row _ => Nat.blt ctx 16 && Nat.blt row 65536
  | .vecRowCoded _ ctx row _ => Nat.blt ctx 16 && Nat.blt row 65536
  | .vecSliceOut _ ctx _ nals => Nat.blt ctx 16 && (nals.all fun l => l.all fun x => Nat.blt x 256)
  | .vecForceIdr _ mid ctx data => Nat.blt mid 64 && Nat.blt ctx 16 && Nat.blt data 0x100000000
  | .headFrameStart _ head _ => Nat.blt head 24
  | .hpdSample _ levels => Nat.blt levels 16777216
  | .hpdStateChange _ head => Nat.blt head 24
  | .irqHpd _ head status => Nat.blt head 24 && (status.all fun x => Nat.blt x 256)
  | .auxTransaction _ head _ addr _ bytes reply =>
    Nat.blt head 24 && Nat.blt addr 0x100000 && (bytes.all fun x => Nat.blt x 256) && Nat.ble reply 3
  | .auxTimeout _ head => Nat.blt head 24
  | .linkTraining _ head result _ drive => Nat.blt head 24 && Nat.ble result 2 && (drive.all fun x => Nat.blt x 256)
  | .trainingAttemptTimeout _ head => Nat.blt head 24
  | .edidRead _ head remote => Nat.blt head 24 && (remote.all fun x => Nat.blt x 256)
  | .headResume _ head => Nat.blt head 24
  | .linkCheck _ head status => Nat.blt head 24 && (status.all fun x => Nat.blt x 256)
  | .txPacket _ head _ => Nat.blt head 24
  | .ptpSync _ ref _ _ _ => Nat.blt 0 ref && Nat.blt ref 9
  | .ptpAnnounce _ ref _ => Nat.blt 0 ref && Nat.blt ref 9
  | .ptpDelayReq _ ref => Nat.blt 0 ref && Nat.blt ref 9
  | .ptpDelayResp _ ref _ => Nat.blt 0 ref && Nat.blt ref 9
  | .announceTimeout _ ref => Nat.blt 0 ref && Nat.blt ref 9
  | .exchangeTimeout _ ref => Nat.blt 0 ref && Nat.blt ref 9
  | .houseSyncFrame _ _ _ _ => true
  | .f10mLoss _ _ _ => true
  | .ppsPulse _ _ _ _ => true
  | .ppsTimeout _ => true
  | .refQualified _ ref => Nat.blt 0 ref && Nat.blt ref 9
  | .refDisqualified _ ref cause _ => Nat.blt 0 ref && Nat.blt ref 9 && Nat.blt cause 16
  | .refJump _ => true
  | .jumpTimeout _ => true
  | .selectorRun _ => true
  | .clockLocked _ => true
  | .ocxoReady _ => true
  | .holdoverExpired _ => true
  | .pullIn _ => true
  | .holdoverUpdate _ => true
  | .tempBinUpdate _ => true
  | .ageingSample _ => true
  | .learningSave _ => true
  | .learnSave _ mid data => Nat.blt mid 64 && Nat.blt data 0x100000000
  | .learnClear _ mid data => Nat.blt mid 64 && Nat.blt data 0x100000000
  | .learningRestore _ => true
  | .driftSample _ ref _ => Nat.blt 0 ref && Nat.blt ref 9
  | .todWrite _ mid lo hi => Nat.blt mid 64 && Nat.blt lo 0x100000000 && Nat.blt hi 0x100000000
  | .todStepApply _ => true
  | .leapAdjust _ => true
  | .detectProbe _ unit _ => Nat.blt unit 44
  | .bringupTimeout _ unit => Nat.blt unit 44
  | .backoffExpiry _ unit => Nat.blt unit 44
  | .trainingFrame _ lane bad _ control status _ =>
    Nat.blt lane 96 && Nat.ble bad 256 && Nat.blt control 65536 && Nat.blt status 65536
  | .trainingComplete _ lane => Nat.blt lane 96
  | .bitLock _ unit => Nat.blt unit 44
  | .blockLock _ unit _ _ _ => Nat.blt unit 44
  | .signalLoss _ lane cause _ => Nat.blt lane 96 && Nat.blt cause 16
  | .activeHold _ unit => Nat.blt unit 44
  | .capabilityFrame _ port words => Nat.blt port 4 && (words.all fun w => Nat.blt w 0x100000000)
  | .capFrameSend _ port => Nat.blt port 4
  | .goodbyeRx _ port => Nat.blt port 4
  | .chainoFrameRx _ port codewords =>
    Nat.blt port 4 && (codewords.all fun l => l.all fun c => c.length == 544 && c.all fun s => Nat.blt s 1024)
  | .expressGroupRx _ port codewords =>
    Nat.blt port 4 && (codewords.all fun l => l.all fun c => c.length == 544 && c.all fun s => Nat.blt s 1024)
  | .eyeScanStart _ mid lane data => Nat.blt mid 64 && Nat.blt lane 96 && Nat.blt data 0x100000000
  | .eyeScanAbort _ mid lane data => Nat.blt mid 64 && Nat.blt lane 96 && Nat.blt data 0x100000000
  | .eyePointDone _ lane _ => Nat.blt lane 96
  | .quickScan _ lane phase volt => Nat.blt lane 96 && phase.length == 64 && volt.length == 64
  | .marginRebase _ mid lane data => Nat.blt mid 64 && Nat.blt lane 96 && Nat.blt data 0x100000000
  | .laneSerHour _ lane => Nat.blt lane 96
  | .pairForm _ => true
  | .roleSettle _ => true
  | .heartbeatSend _ => true
  | .heartbeatRx _ _ sel _ _ => Nat.blt sel 16
  | .callFrameSend _ => true
  | .callFrameRx _ _ => true
  | .heartbeatPathLost _ _ => true
  | .claimWindowEnd _ => true
  | .ownContest _ => true
  | .epochBoundary _ => true
  | .epochEndSend _ => true
  | .epochFrameRx _ _ => true
  | .epochEndRx _ _ => true
  | .epochCommitDone _ => true
  | .epochFail _ => true
  | .epochAckRx _ epoch _ _ => Nat.blt epoch 0x10000000000000000
  | .fullSyncStart _ => true
  | .fullSyncComplete _ => true
  | .syncTimeout _ => true
  | .storeReleased _ => true
  | .pairSwitch _ mid data => Nat.blt mid 64 && Nat.blt data 0x100000000
  | .pairClearFault _ mid data => Nat.blt mid 64 && Nat.blt data 0x100000000
  | .pairResync _ mid data => Nat.blt mid 64 && Nat.blt data 0x100000000
  | .rehearsalSend _ stage second => Nat.blt stage 24 && Nat.blt second 0x100000000
  | .rehearsalCompare _ stage _ => Nat.blt stage 24
  | .rehearsalTimeout _ stage => Nat.blt stage 24
  | .secondOpinion _ => true
  | .secondOpinionTimeout _ => true
  | .takeoverRelease _ => true
  | .ownRelease _ => true
  | .uncontrolledTakeover _ => true
  | .takePoint _ => true
  | .beaconSend _ => true
  | .beaconRx _ port _ _ _ _ _ _ _ _ => Nat.blt port 4
  | .memberLost _ pos => Nat.blt pos 8
  | .ringJoin _ => true
  | .junctionForm _ _ => true
  | .leadElection _ => true
  | .memberWindowAccess _ mid addr data value _ _ _ =>
    Nat.blt mid 64 && Nat.blt addr 0x4000000 && Nat.blt data 0x100000000 && Nat.blt value 0x100000000
  | .sharedTableWrite _ mid addr data port =>
    Nat.blt mid 64 && Nat.blt addr 0x4000000 && Nat.blt data 0x100000000 && Nat.blt port 4
  | .relayFrameRx _ port _ _ => Nat.blt port 4
  | .ensCueCheck _ => true
  | .ensCueResult _ refusers => Nat.blt refusers 256
  | .joinCopyDone _ => true
  | .ringIsolated _ => true
  | .memAccess _ mid addr n _ _ bytes flips skew _ =>
    Nat.blt mid 64 && Nat.blt addr 0x10000000000 && Nat.blt 0 n && Nat.ble (addr % 4096 + n) 4096
      && (bytes.all fun x => Nat.blt x 256) && Nat.blt flips (2 ^ 72) && Nat.blt skew (2 ^ 37)
  | .arbGrant _ chan _ => Nat.blt chan 8
  | .scrubRead _ flips skew _ => Nat.blt flips (2 ^ 72) && Nat.blt skew (2 ^ 37)
  | .sramPatrol _ region _ flips skew _ _ _ => Nat.blt region 8 && Nat.blt flips (2 ^ 72) && Nat.blt skew (2 ^ 37)
  | .heldWindow _ chan util urgent ing codec sys scrub =>
    Nat.blt chan 8 && Nat.ble util 100 && Nat.ble urgent 100 && Nat.ble ing 100 && Nat.ble codec 100
      && Nat.ble sys 100 && Nat.ble scrub 100
  | .ceHour _ chan => Nat.blt chan 8
  | .crcStart _ mid unit => Nat.blt mid 64 && Nat.blt unit 32
  | .crcTrigger _ unit => Nat.blt unit 32
  | .crcRunEnd _ unit _ => Nat.blt unit 32
  | .crcAbort _ mid unit => Nat.blt mid 64 && Nat.blt unit 32
  | .openProposal _ mid => Nat.blt mid 64
  | .submit _ mid => Nat.blt mid 64
  | .withdraw _ mid => Nat.blt mid 64
  | .reject _ mid => Nat.blt mid 64
  | .propSign _ mid data => Nat.blt mid 64 && Nat.blt data 0x100000000
  | .proposalAreaWrite _ mid addr data =>
    Nat.blt mid 64 && Nat.ble 0x700000 addr && Nat.blt addr 0x800000 && Nat.blt data 0x100000000
  | .proposalTimeout _ => true
  | .fenceDrained _ => true
  | .fenceTimeout _ => true
  | .violCountClear _ mid => Nat.blt mid 64
  | .idcode _ => true
  | .dauRead _ _ addr => Nat.blt addr 0x10000000000
  | .dauWrite _ _ addr data => Nat.blt addr 0x10000000000 && Nat.blt data 0x100000000
  | .dauStatus _ => true
  | .bypass _ code _ => Nat.blt code 64
  | .longContactMate _ => true
  | .mcReady _ slot => Nat.blt slot 16
  | .pinSample _ _ _ => true
  | .presenceActive _ => true
  | .powerOnCheck _ _ _ => true
  | .softStartDone _ => true
  | .internalResetRelease _ straps => Nat.blt straps 4096
  | .operatingState _ => true
  | .startupAbort _ => true
  | .powerFault _ code => Nat.blt 0 code && Nat.ble code 3
  | .uvWarning _ _ => true
  | .railLoss _ _ => true
  | .auxRailLoss _ => true
  | .strapSample _ straps => Nat.blt straps 4096
  | .resetNAssert _ => true
  | .sysResetKey _ mid data => Nat.blt mid 64 && Nat.blt data 0x100000000
  | .moduleReset _ => true
  | .hostClaim _ mid => Nat.blt mid 64
  | .showStart _ => true
  | .showRetile _ => true
  | .showStatusUpdate _ => true
  | .showSpeedAlternate _ port => Nat.blt port 16
  | .ejectWarning _ => true
  | .hswEject _ mid => Nat.blt mid 64
  | .ejectOwnRelease _ => true
  | .ejectPowerOff _ => true
  | .ejectorClosed _ => true
  | .ejectResetDue _ => true
  | .sensorConversion _ temps => temps.length == 39
  | .sensorFailed _ n => Nat.blt n 39
  | .sensorRecovered _ n => Nat.blt n 39
  | .levelFall _ => true
  | .throttleInterval _ => true
  | .throttleFall _ => true
  | .shutdownPowerOff _ => true
  | .threshWrite _ mid c data => Nat.blt mid 64 && Nat.blt c 5 && Nat.blt data 0x100000000
  | .ocxoTempPass _ => true
  | .ageingMeasure _ slowdown => (slowdown.all fun x => Nat.blt x 0x10000)
  | .lifeTick _ => true
  | .ownInDeasserted _ => true
  | .oldQuerierTimeout _ port => Nat.blt port 16

end Sys2Proof
end

