-- ==== Sys2Proof/Tests/Slice0.lean ====
section
/-!
SUPPORT. Tests: commands that WellFormed accepts and refuses, values of the manual's worked examples, single steps, and for every
statement of Obligations.lean that assumes something a witness that its assumptions can be met, clause by clause.
-/

namespace Sys2Proof.Tests

open Sys2Proof Sys2Proof.Machine

set_option linter.unusedVariables false
set_option Elab.async false

/-! ### Well-formed commands -/

/-- A heartbeat that says nothing. -/
def wfBeat : Beat := ⟨0, 0, false, false, 0, false, false, 0, 0, false, false, 0, false, false, false, false, 0, 0, 0, 0, 0⟩

/-- A codestream without samples. -/
def wfStream : Codestream := ⟨false, 0, true, 0, 0, 8, 8, 0, 0, [], [], 0, []⟩

/-- An access unit without samples. -/
def wfUnit : AccessUnit :=
  ⟨1, true, 0, 1, (8, 8), false, false, false, false, false, 8, 8, (0, 0, 0, 0), some (0, 1), 19, 0, none, 0, 1, 0, true, 0, false,
    [], [], [], [], [], 0, 0, 0, 0, (0, 0, 0), (0, 0)⟩

/-- An Announce message. -/
def wfAnnounce : Announce := ⟨0, 0, 0, 0, 0, 0, 0, 0, 0, 0, 0, 0, false, 0, false, 0⟩

/-- A ring beacon. -/
def wfBeacon : Beacon := ⟨0, 0, 0, false, false, false, 0, 0, false, false, 0, 0, 0, 0, 0, 0, 0⟩

/-- Commands whose operands all lie in their ranges, one for each row of the table. -/
theorem test_wf_accepts_1 :
    ([.registerWrite 0 0 false 0 [] false, .hostPortReset 0, .msixPendingSend 0 false false, .pgEvtClear 0 0 16 0,
      .pgEvtEnWrite 0 0 16 0, .errcntClear 0 0 16 false, .firstErrClear 0 0 16, .spWrite 0 0 [] 0 false, .spRead 0 0 0 0,
      .spStatus 0, .portReset 0, .unknownCommand 0 0, .operationOn 0, .operationOff 0, .operationRead 0, .clearFaults 0,
      .statusWord 0, .statusTemperature 0, .readVin 0 0, .readIin 0 0, .readTemperature1 0, .readTemperature2 0,
      .readPin 0 0, .pmbusRevision 0, .mfrId 0, .mfrModel 0, .mfrRevision 0, .mfrSerial 0, .mfrRole 0, .mfrThermalLevel 0,
      .mfrEjectRequest 0, .mfrOrderingCode 0, .mfrUptime 0, .smbusUnsupported 0 0 false, .softReset 0 0 16 0,
      .softResetDone 0 16, .pgCueArm 0 0 16 0, .pgCueDisarm 0 0 16 0, .pgCueDiscard 0 0 16 0,
      .gcueArm 0 0 0] : List Instr).all Instr.wf = true := by decide +kernel

/-- Commands whose operands all lie in their ranges, one for each row of the table. -/
theorem test_wf_accepts_2 :
    ([.gcueDisarm 0 0 0, .cueTaken 0 false 16, .errRecordArrival 0 16 0 0 0 0, .errRdIdxWrite 0 0 0, .errClrLost 0 0 0,
      .severeQueuePop 0, .sqStatRead 0, .ringWindowWrite 0 0 0x11000 0, .curtainUp 0 0, .frameEligible 0 0,
      .prompterDecision 0 0, .deadlinePassed 0 0 0, .pulseChange 0 0, .pulseDeadlinePassed 0 0, .floorWrite 0 0 0,
      .freshnessWindowWrite 0 0 0x600000 0, .logWrapsClear 0 0 0, .mapComplete 0 0,
      .ethFrameRx 0 0 ⟨true, 64, [], .v4 false [], none, .other⟩, .dropReport 0 0, .queryRx 0 0 0 0, .reportRepeat 0 0 0,
      .arpReply 0 0 false 0, .addrConflict 0 0, .nifLinkUp 0 0, .nifLinkDown 0 0 0, .fecReport 0 0 0 0,
      .rtpPacketRx 0 0 ⟨0, 0, 2, 96, 0, 0, false, 0, false, [], false⟩, .pathDown 0 0 0, .skewTimeout 0 0,
      .assemblyTimeout 0 0, .rtcpSrRx 0 0 0 0, .rtcpSrExpiry 0 0, .ancPacketRx 0 0 ⟨0, 2, 96, 0, []⟩,
      .sapAnnouncement 0 0 0 false false ⟨[], false, 0, 0, 0, 0, 0, 1, 0, 0, 0, 0, 0, false, false, []⟩, .sapDeletion 0 0,
      .sessionTimeout 0 0, .publish 0 0 0 0, .corruptBlock 0 0 0, .lineNotReady 0 0 0 0] : List Instr).all Instr.wf = true := by decide +kernel

/-- Commands whose operands all lie in their ranges, one for each row of the table. -/
theorem test_wf_accepts_3 :
    ([.headQueueStarved 0 0 0, .signatureArrayDone 0 0, .signatureArrayLate 0 0, .psCommitWrite 0 0 0 0, .psCheck 0 0 0,
      .sigSample 0 0, .contactDebounced 0 0, .contactStuck 0 0, .unsettledTimeout 0 0, .chatterEnd 0 0,
      .contactConfigWrite 0 0 0 0, .suppressedClear 0 0 0, .xsdFrameDone 0 0 [wfStream], .vdcAccessUnit 0 0 wfUnit,
      .vdcPictureOutput 0 0, .vdcStall 0 0, .vdcSlotFree 0 0, .vecRowReady 0 0 0 false,
      .vecRowCoded 0 0 0 ⟨0, ⟨0, 0, 0, (0, 0), []⟩, ⟨0, 0, 0, (0, 0), []⟩, ⟨0, 0, 0, (0, 0), []⟩⟩, .vecSliceOut 0 0 [] [],
      .vecForceIdr 0 0 0 0, .headFrameStart 0 0 false, .hpdSample 0 0, .hpdStateChange 0 0, .irqHpd 0 0 [],
      .auxTransaction 0 0 false 0 false [] 0, .auxTimeout 0 0, .linkTraining 0 0 0 [] [], .trainingAttemptTimeout 0 0,
      .edidRead 0 0 [], .headResume 0 0, .linkCheck 0 0 [], .txPacket 0 0 false, .ptpSync 0 1 0 0 0,
      .ptpAnnounce 0 1 wfAnnounce, .ptpDelayReq 0 1, .ptpDelayResp 0 1 0, .announceTimeout 0 1, .exchangeTimeout 0 1,
      .houseSyncFrame 0 false 0 0] : List Instr).all Instr.wf = true := by decide +kernel

/-- Commands whose operands all lie in their ranges, one for each row of the table. -/
theorem test_wf_accepts_4 :
    ([.f10mLoss 0 false 0, .ppsPulse 0 0 0 0, .ppsTimeout 0, .refQualified 0 1, .refDisqualified 0 1 0 0, .refJump 0,
      .jumpTimeout 0, .selectorRun 0, .clockLocked 0, .ocxoReady 0, .holdoverExpired 0, .pullIn 0, .holdoverUpdate 0,
      .tempBinUpdate 0, .ageingSample 0, .learningSave 0, .learnSave 0 0 0, .learnClear 0 0 0, .learningRestore 0,
      .driftSample 0 1 0, .todWrite 0 0 0 0, .todStepApply 0, .leapAdjust 0, .detectProbe 0 0 false, .bringupTimeout 0 0,
      .backoffExpiry 0 0, .trainingFrame 0 0 0 false 0 0 false, .trainingComplete 0 0, .bitLock 0 0, .blockLock 0 0 0 0 [],
      .signalLoss 0 0 0 [], .activeHold 0 0, .capabilityFrame 0 0 [], .capFrameSend 0 0, .goodbyeRx 0 0,
      .chainoFrameRx 0 0 [], .expressGroupRx 0 0 [], .eyeScanStart 0 0 0 0, .eyeScanAbort 0 0 0 0,
      .eyePointDone 0 0 0] : List Instr).all Instr.wf = true := by decide +kernel

/-- Commands whose operands all lie in their ranges, one for each row of the table. -/
theorem test_wf_accepts_5 :
    ([.quickScan 0 0 (List.replicate 64 0) (List.replicate 64 0), .marginRebase 0 0 0 0, .laneSerHour 0 0, .pairForm 0,
      .roleSettle 0, .heartbeatSend 0, .heartbeatRx 0 wfBeat 0 0 0, .callFrameSend 0, .callFrameRx 0 wfBeat,
      .heartbeatPathLost 0 false, .claimWindowEnd 0, .ownContest 0, .epochBoundary 0, .epochEndSend 0,
      .epochFrameRx 0 (.records 1 0 []), .epochEndRx 0 ⟨1, 0, 0, 0, 0, 0, [], 0⟩, .epochCommitDone 0, .epochFail 0,
      .epochAckRx 0 0 false false, .fullSyncStart 0, .fullSyncComplete 0, .syncTimeout 0, .storeReleased 0,
      .pairSwitch 0 0 0, .pairClearFault 0 0 0, .pairResync 0 0 0, .rehearsalSend 0 0 0,
      .rehearsalCompare 0 0 ⟨0, 0, none, [], [], []⟩, .rehearsalTimeout 0 0, .secondOpinion 0, .secondOpinionTimeout 0,
      .takeoverRelease 0, .ownRelease 0, .uncontrolledTakeover 0, .takePoint 0, .beaconSend 0,
      .beaconRx 0 0 false wfBeacon none 0 0 false 0 0, .memberLost 0 0, .ringJoin 0,
      .junctionForm 0 false] : List Instr).all Instr.wf = true := by decide +kernel

/-- Commands whose operands all lie in their ranges, one for each row of the table. -/
theorem test_wf_accepts_6 :
    ([.leadElection 0, .memberWindowAccess 0 0 0 0 0 false false none, .sharedTableWrite 0 0 0 0 0,
      .relayFrameRx 0 0 ⟨0, 0, 0, 0, [], none⟩ false, .ensCueCheck 0, .ensCueResult 0 0, .joinCopyDone 0, .ringIsolated 0,
      .memAccess 0 0 0 1 false false [] 0 0 false, .arbGrant 0 0 [], .scrubRead 0 0 0 false, .sramPatrol 0 0 0 0 0 0 0 0,
      .heldWindow 0 0 0 0 0 0 0 0, .ceHour 0 0, .crcStart 0 0 0, .crcTrigger 0 0, .crcRunEnd 0 0 false, .crcAbort 0 0 0,
      .openProposal 0 0, .submit 0 0, .withdraw 0 0, .reject 0 0, .propSign 0 0 0, .proposalAreaWrite 0 0 0x700000 0,
      .proposalTimeout 0, .fenceDrained 0, .fenceTimeout 0, .violCountClear 0 0, .idcode 0, .dauRead 0 false 0,
      .dauWrite 0 false 0 0, .dauStatus 0, .bypass 0 0 false, .longContactMate 0, .mcReady 0 0, .pinSample 0 false false,
      .presenceActive 0, .powerOnCheck 0 0 0, .softStartDone 0, .internalResetRelease 0 0] : List Instr).all Instr.wf = true := by decide +kernel

/-- Commands whose operands all lie in their ranges, one for each row of the table. -/
theorem test_wf_accepts_7 :
    ([.operatingState 0, .startupAbort 0, .powerFault 0 1, .uvWarning 0 0, .railLoss 0 false, .auxRailLoss 0,
      .strapSample 0 0, .resetNAssert 0, .sysResetKey 0 0 0, .moduleReset 0, .hostClaim 0 0, .showStart 0, .showRetile 0,
      .showStatusUpdate 0, .showSpeedAlternate 0 0, .ejectWarning 0, .hswEject 0 0, .ejectOwnRelease 0, .ejectPowerOff 0,
      .ejectorClosed 0, .ejectResetDue 0, .sensorConversion 0 (List.replicate 39 none), .sensorFailed 0 0,
      .sensorRecovered 0 0, .levelFall 0, .throttleInterval 0, .throttleFall 0, .shutdownPowerOff 0, .threshWrite 0 0 0 0,
      .ocxoTempPass 0, .ageingMeasure 0 [], .lifeTick 0, .ownInDeasserted 0,
      .oldQuerierTimeout 0 0] : List Instr).all Instr.wf = true := by decide +kernel

/-- Commands with one operand out of its range, one for each check of WellFormed. -/
theorem test_wf_refuses_1 :
    ([.registerWrite 0 64 false 0 [] false, .registerWrite 0 0 false 0x4000000 [] false,
      .registerWrite 0 0 false 0 [(0x100000000, 15)] false, .registerWrite 0 0 false 0 [(0, 16)] false,
      .pgEvtClear 0 64 16 0, .pgEvtClear 0 0 1 0, .pgEvtClear 0 0 16 0x100000000, .pgEvtEnWrite 0 64 16 0,
      .pgEvtEnWrite 0 0 1 0, .pgEvtEnWrite 0 0 16 0x100000000, .errcntClear 0 64 16 false, .errcntClear 0 0 1 false,
      .firstErrClear 0 64 16, .firstErrClear 0 0 1, .spWrite 0 0x4000000 [] 0 false, .spWrite 0 0 [0x100000000] 0 false,
      .spWrite 0 0 [] 0x100000000 false, .spRead 0 0x4000000 0 0, .spRead 0 0 256 0, .spRead 0 0 0 65, .unknownCommand 0 256,
      .readVin 0 65536, .readIin 0 1048576, .readPin 0 16777216, .smbusUnsupported 0 256 false, .softReset 0 64 16 0,
      .softReset 0 0 1 0, .softReset 0 0 16 0x100000000, .softResetDone 0 1, .pgCueArm 0 64 16 0, .pgCueArm 0 0 1 0,
      .pgCueArm 0 0 16 0x100000000, .pgCueDisarm 0 64 16 0, .pgCueDisarm 0 0 1 0, .pgCueDisarm 0 0 16 0x100000000,
      .pgCueDiscard 0 64 16 0, .pgCueDiscard 0 0 1 0, .pgCueDiscard 0 0 16 0x100000000, .gcueArm 0 64 0,
      .gcueArm 0 0 0x100000000] : List Instr).all (fun c => !c.wf) = true := by decide +kernel

/-- Commands with one operand out of its range, one for each check of WellFormed. -/
theorem test_wf_refuses_2 :
    ([.gcueDisarm 0 64 0, .gcueDisarm 0 0 0x100000000, .cueTaken 0 true 64, .cueTaken 0 false 1,
      .errRecordArrival 0 1 0 0 0 0, .errRecordArrival 0 16 65536 0 0 0, .errRecordArrival 0 16 0 6 0 0,
      .errRecordArrival 0 16 0 0 0x100000000 0, .errRecordArrival 0 16 0 0 0 64, .errRdIdxWrite 0 64 0,
      .errRdIdxWrite 0 0 0x100000000, .errClrLost 0 64 0, .errClrLost 0 0 0x100000000, .ringWindowWrite 0 64 0x11000 0,
      .ringWindowWrite 0 0 0x10fff 0, .ringWindowWrite 0 0 0x12000 0, .ringWindowWrite 0 0 0x11000 0x100000000,
      .curtainUp 0 24, .frameEligible 0 64, .prompterDecision 0 4096, .deadlinePassed 0 24 0, .deadlinePassed 0 0 72,
      .pulseChange 0 4096, .pulseDeadlinePassed 0 4096, .floorWrite 0 64 0, .floorWrite 0 0 0x100000000,
      .freshnessWindowWrite 0 64 0x600000 0, .freshnessWindowWrite 0 0 0x5fffff 0, .freshnessWindowWrite 0 0 0x700000 0,
      .freshnessWindowWrite 0 0 0x600000 0x100000000, .logWrapsClear 0 64 0, .logWrapsClear 0 0 0x100000000,
      .mapComplete 0 24, .ethFrameRx 0 16 ⟨true, 64, [], .v4 false [], none, .other⟩, .dropReport 0 16, .queryRx 0 16 0 0,
      .queryRx 0 0 5 0, .queryRx 0 0 0 (2 ^ 128), .reportRepeat 0 16 0,
      .reportRepeat 0 0 (2 ^ 128)] : List Instr).all (fun c => !c.wf) = true := by decide +kernel

/-- Commands with one operand out of its range, one for each check of WellFormed. -/
theorem test_wf_refuses_3 :
    ([.arpReply 0 16 false 0, .arpReply 0 0 false (2 ^ 128), .addrConflict 0 16, .nifLinkUp 0 16, .nifLinkDown 0 16 0,
      .nifLinkDown 0 0 16, .fecReport 0 16 0 0, .fecReport 0 0 0x100000000 0, .fecReport 0 0 0 0x100000000,
      .rtpPacketRx 0 64 ⟨0, 0, 2, 96, 0, 0, false, 0, false, [], false⟩, .pathDown 0 64 0, .pathDown 0 0 2,
      .skewTimeout 0 64, .assemblyTimeout 0 64, .rtcpSrRx 0 64 0 0, .rtcpSrRx 0 0 0x10000000000000000 0,
      .rtcpSrRx 0 0 0 0x100000000, .rtcpSrExpiry 0 64, .ancPacketRx 0 64 ⟨0, 2, 96, 0, []⟩,
      .sapAnnouncement 0 16 0 false false ⟨[], false, 0, 0, 0, 0, 0, 1, 0, 0, 0, 0, 0, false, false, []⟩, .publish 0 64 0 0,
      .publish 0 0 4096 0, .publish 0 0 0 0x100000000, .corruptBlock 0 96 0, .corruptBlock 0 0 4096, .lineNotReady 0 24 0 0,
      .lineNotReady 0 0 72 0, .lineNotReady 0 0 0 65536, .headQueueStarved 0 24 0, .headQueueStarved 0 0 65536,
      .signatureArrayDone 0 24, .signatureArrayLate 0 24, .psCommitWrite 0 64 0 0, .psCommitWrite 0 0 24 0,
      .psCommitWrite 0 0 0 0x100000000, .psCheck 0 24 0, .psCheck 0 0 8, .sigSample 0 16777216, .contactDebounced 0 16,
      .contactStuck 0 16] : List Instr).all (fun c => !c.wf) = true := by decide +kernel

/-- Commands with one operand out of its range, one for each check of WellFormed. -/
theorem test_wf_refuses_4 :
    ([.unsettledTimeout 0 16, .chatterEnd 0 16, .contactConfigWrite 0 64 0 0, .contactConfigWrite 0 0 16 0,
      .contactConfigWrite 0 0 0 0x100000000, .suppressedClear 0 64 0, .suppressedClear 0 0 0x100000000,
      .xsdFrameDone 0 16 [wfStream], .vdcAccessUnit 0 32 wfUnit, .vdcPictureOutput 0 32, .vdcStall 0 32, .vdcSlotFree 0 32,
      .vecRowReady 0 16 0 false, .vecRowReady 0 0 65536 false,
      .vecRowCoded 0 16 0 ⟨0, ⟨0, 0, 0, (0, 0), []⟩, ⟨0, 0, 0, (0, 0), []⟩, ⟨0, 0, 0, (0, 0), []⟩⟩,
      .vecRowCoded 0 0 65536 ⟨0, ⟨0, 0, 0, (0, 0), []⟩, ⟨0, 0, 0, (0, 0), []⟩, ⟨0, 0, 0, (0, 0), []⟩⟩,
      .vecSliceOut 0 16 [] [], .vecSliceOut 0 0 [] [[256]], .vecForceIdr 0 64 0 0, .vecForceIdr 0 0 16 0,
      .vecForceIdr 0 0 0 0x100000000, .headFrameStart 0 24 false, .hpdSample 0 16777216, .hpdStateChange 0 24,
      .irqHpd 0 24 [], .irqHpd 0 0 [256], .auxTransaction 0 24 false 0 false [] 0,
      .auxTransaction 0 0 false 0x100000 false [] 0, .auxTransaction 0 0 false 0 false [256] 0,
      .auxTransaction 0 0 false 0 false [] 4, .auxTimeout 0 24, .linkTraining 0 24 0 [] [], .linkTraining 0 0 3 [] [],
      .linkTraining 0 0 0 [] [256], .trainingAttemptTimeout 0 24, .edidRead 0 24 [], .edidRead 0 0 [256], .headResume 0 24,
      .linkCheck 0 24 [], .linkCheck 0 0 [256]] : List Instr).all (fun c => !c.wf) = true := by decide +kernel

/-- Commands with one operand out of its range, one for each check of WellFormed. -/
theorem test_wf_refuses_5 :
    ([.txPacket 0 24 false, .ptpSync 0 0 0 0 0, .ptpSync 0 9 0 0 0, .ptpAnnounce 0 0 wfAnnounce, .ptpAnnounce 0 9 wfAnnounce,
      .ptpDelayReq 0 0, .ptpDelayReq 0 9, .ptpDelayResp 0 0 0, .ptpDelayResp 0 9 0, .announceTimeout 0 0,
      .announceTimeout 0 9, .exchangeTimeout 0 0, .exchangeTimeout 0 9, .refQualified 0 0, .refQualified 0 9,
      .refDisqualified 0 0 0 0, .refDisqualified 0 9 0 0, .refDisqualified 0 1 16 0, .learnSave 0 64 0,
      .learnSave 0 0 0x100000000, .learnClear 0 64 0, .learnClear 0 0 0x100000000, .driftSample 0 0 0, .driftSample 0 9 0,
      .todWrite 0 64 0 0, .todWrite 0 0 0x100000000 0, .todWrite 0 0 0 0x100000000, .detectProbe 0 44 false,
      .bringupTimeout 0 44, .backoffExpiry 0 44, .trainingFrame 0 96 0 false 0 0 false,
      .trainingFrame 0 0 257 false 0 0 false, .trainingFrame 0 0 0 false 65536 0 false,
      .trainingFrame 0 0 0 false 0 65536 false, .trainingComplete 0 96, .bitLock 0 44, .blockLock 0 44 0 0 [],
      .signalLoss 0 96 0 [], .signalLoss 0 0 16 [], .activeHold 0 44] : List Instr).all (fun c => !c.wf) = true := by decide +kernel

/-- Commands with one operand out of its range, one for each check of WellFormed. -/
theorem test_wf_refuses_6 :
    ([.capabilityFrame 0 4 [], .capabilityFrame 0 0 [0x100000000], .capFrameSend 0 4, .goodbyeRx 0 4, .chainoFrameRx 0 4 [],
      .chainoFrameRx 0 0 [[[0]]], .chainoFrameRx 0 0 [[List.replicate 544 1024]], .expressGroupRx 0 4 [],
      .expressGroupRx 0 0 [[[0]]], .expressGroupRx 0 0 [[List.replicate 544 1024]], .eyeScanStart 0 64 0 0,
      .eyeScanStart 0 0 96 0, .eyeScanStart 0 0 0 0x100000000, .eyeScanAbort 0 64 0 0, .eyeScanAbort 0 0 96 0,
      .eyeScanAbort 0 0 0 0x100000000, .eyePointDone 0 96 0, .quickScan 0 96 (List.replicate 64 0) (List.replicate 64 0),
      .quickScan 0 0 [] (List.replicate 64 0), .quickScan 0 0 (List.replicate 64 0) [], .marginRebase 0 64 0 0,
      .marginRebase 0 0 96 0, .marginRebase 0 0 0 0x100000000, .laneSerHour 0 96, .heartbeatRx 0 wfBeat 16 0 0,
      .epochAckRx 0 0x10000000000000000 false false, .pairSwitch 0 64 0, .pairSwitch 0 0 0x100000000, .pairClearFault 0 64 0,
      .pairClearFault 0 0 0x100000000, .pairResync 0 64 0, .pairResync 0 0 0x100000000, .rehearsalSend 0 24 0,
      .rehearsalSend 0 0 0x100000000, .rehearsalCompare 0 24 ⟨0, 0, none, [], [], []⟩, .rehearsalTimeout 0 24,
      .beaconRx 0 4 false wfBeacon none 0 0 false 0 0, .memberLost 0 8, .memberWindowAccess 0 64 0 0 0 false false none,
      .memberWindowAccess 0 0 0x4000000 0 0 false false none] : List Instr).all (fun c => !c.wf) = true := by decide +kernel

/-- Commands with one operand out of its range, one for each check of WellFormed. -/
theorem test_wf_refuses_7 :
    ([.memberWindowAccess 0 0 0 0x100000000 0 false false none, .memberWindowAccess 0 0 0 0 0x100000000 false false none,
      .sharedTableWrite 0 64 0 0 0, .sharedTableWrite 0 0 0x4000000 0 0, .sharedTableWrite 0 0 0 0x100000000 0,
      .sharedTableWrite 0 0 0 0 4, .relayFrameRx 0 4 ⟨0, 0, 0, 0, [], none⟩ false, .ensCueResult 0 256,
      .memAccess 0 64 0 1 false false [] 0 0 false, .memAccess 0 0 0x10000000000 1 false false [] 0 0 false,
      .memAccess 0 0 0 0 false false [] 0 0 false, .memAccess 0 0 1 4096 false false [] 0 0 false,
      .memAccess 0 0 0 1 false false [256] 0 0 false, .memAccess 0 0 0 1 false false [] (2 ^ 72) 0 false,
      .memAccess 0 0 0 1 false false [] 0 (2 ^ 37) false, .arbGrant 0 8 [], .scrubRead 0 (2 ^ 72) 0 false,
      .scrubRead 0 0 (2 ^ 37) false, .sramPatrol 0 8 0 0 0 0 0 0, .sramPatrol 0 0 0 (2 ^ 72) 0 0 0 0,
      .sramPatrol 0 0 0 0 (2 ^ 37) 0 0 0, .heldWindow 0 8 0 0 0 0 0 0, .heldWindow 0 0 101 0 0 0 0 0,
      .heldWindow 0 0 0 101 0 0 0 0, .heldWindow 0 0 0 0 101 0 0 0, .heldWindow 0 0 0 0 0 101 0 0,
      .heldWindow 0 0 0 0 0 0 101 0, .heldWindow 0 0 0 0 0 0 0 101, .ceHour 0 8, .crcStart 0 64 0, .crcStart 0 0 32,
      .crcTrigger 0 32, .crcRunEnd 0 32 false, .crcAbort 0 64 0, .crcAbort 0 0 32, .openProposal 0 64, .submit 0 64,
      .withdraw 0 64, .reject 0 64, .propSign 0 64 0] : List Instr).all (fun c => !c.wf) = true := by decide +kernel

/-- Commands with one operand out of its range, one for each check of WellFormed. -/
theorem test_wf_refuses_8 :
    ([.propSign 0 0 0x100000000, .proposalAreaWrite 0 64 0x700000 0, .proposalAreaWrite 0 0 0x6fffff 0,
      .proposalAreaWrite 0 0 0x800000 0, .proposalAreaWrite 0 0 0x700000 0x100000000, .violCountClear 0 64,
      .dauRead 0 false 0x10000000000, .dauWrite 0 false 0x10000000000 0, .dauWrite 0 false 0 0x100000000, .bypass 0 64 false,
      .mcReady 0 16, .internalResetRelease 0 4096, .powerFault 0 0, .powerFault 0 4, .strapSample 0 4096,
      .sysResetKey 0 64 0, .sysResetKey 0 0 0x100000000, .hostClaim 0 64, .showSpeedAlternate 0 16, .hswEject 0 64,
      .sensorConversion 0 [], .sensorFailed 0 39, .sensorRecovered 0 39, .threshWrite 0 64 0 0, .threshWrite 0 0 5 0,
      .threshWrite 0 0 0 0x100000000, .ageingMeasure 0 [0x10000],
      .oldQuerierTimeout 0 16] : List Instr).all (fun c => !c.wf) = true := by decide +kernel


/-! ### Values of the manual's worked examples -/

/-- R181: the straight pixel 800 with alpha 512 over 200 gives 500, and so does the same pixel stored premultiplied. -/
theorem test_blend : blendC 1 800 200 512 1023 = 500 ∧ blendC 2 400 200 512 1023 = 500 := by decide

/-- R167: mul(900, mul(1,023, 800)) is 704. -/
theorem test_scene_alpha : mulA 900 (mulA 1023 800) = 704 := by decide

/-- R97: the badge's examples 238 MS, 12.4 S, 17 MIN, 999 H for 999.5 h, and 999+ H. -/
theorem test_badge_age :
    ageText 238000000 = codes "238 MS" ∧ ageText 12450000000 = codes "12.4 S" ∧ ageText 1020000000000 = codes "17 MIN" ∧
      ageText 3598200000000000 = codes "999 H" ∧ ageText 3600000000000000 = codes "999+ H" := by decide +kernel

/-- VEC context 2 of the worked example: 1920 × 1080 in HEVC with one CTU row a slice. -/
def exampleVec : Blk := ((({} : Blk).wr F.VEC_SIZE_W 2 1920).wr F.VEC_SIZE_H 2 1080).wr F.VEC_CODEC_SLICE_ROWS 2 1
  |>.wr F.VEC_CODEC_CODEC 2 1

/-- R234: one row's curtain reserve is 1,840 bits, a picture's 31,280. -/
theorem test_curtain_reserve : reserveRow exampleVec 2 0 = 1840 ∧ reserveFrom exampleVec 2 0 = 31280 := by decide +kernel

/-- R292: at a limit of 10 µs the qualified interval is 63,550 s for a learned clock and 8,883 s for one not yet learned. -/
theorem test_qualified_interval :
    qualInterval (({} : Blk).wr F.CLK_STAT_LEARNED 0 1) = 63550 ∧ qualInterval { ({} : Blk) with clk := { lockedLong := true } } = 8883 := by
  decide +kernel

/-- R129: the RTP timestamp 380,014,592 of the example is stage time 1,700,000,000 s, for a frame eligible 22.4 ms later. -/
theorem test_capture_time : capture1 380014592 1700000000022400000 = 1700000000000000000 := by decide +kernel

/-- A descriptor of the example of R156: the layer's destination size, rotation and format. -/
def exampleLayer (l w h rot fmt mode : Nat) : Blk :=
  ((((({} : Blk).wr F.LD_DST_WH_W l w).wr F.LD_DST_WH_H l h).wr F.LD_XFORM_ROT l rot).wr F.LD_FMT_FORMAT l fmt).wr F.LD_CTRL_ALPHA_MODE l mode

/-- R156: the needs of slots 0 to 4, and of slot 1 at its new size with and without decimation. -/
theorem test_line_buffer_need :
    needKiB (exampleLayer 40 3840 2160 0 1 0) 40 1 3840 2160 0 = 30 ∧ needKiB (exampleLayer 12 1280 720 0 5 0) 12 5 1920 1080 0 = 60 ∧
      needKiB (exampleLayer 13 540 960 1 5 0) 13 5 1920 1080 0 = 102 ∧ needKiB (exampleLayer 50 3840 400 0 0 1) 50 0 3840 400 0 = 38 ∧
      needKiB (exampleLayer 12 1280 720 0 5 0) 12 5 3840 2160 0 = 120 ∧ needKiB (exampleLayer 12 1280 720 0 5 0) 12 5 3840 2160 1 = 60 := by
  decide +kernel

/-! ### Single steps -/

/-- The queue holds one command. -/
def withCommand (c : Instr) (s : State) : State := { s with pending := [c] }

/-- What a step from a state with one command leaves of a field. -/
def fieldAfter (c : Instr) (s : State) (f : Fld) (i k : Nat) : Option Nat :=
  match step (withCommand c s) with
  | .next t => some (t.blk.rd f i k)
  | _ => none

/-- What a step from a state with one command has sent. -/
def sentAfter (c : Instr) (s : State) : Option (List Emit) :=
  match step (withCommand c s) with
  | .next t => some t.blk.out
  | _ => none

/-- R12: a write by the operations host of the event mask of ING page 0 takes effect; the mask holds only the bits of R55. -/
theorem test_write_event_mask :
    fieldAfter (.registerWrite 0 1 false 0x120014 [(0xFFFF0003, 15)] false) State.reset F.PG_EVT_EN_ERROR 0x120 0 = some 1 ∧
      fieldAfter (.registerWrite 0 1 false 0x120014 [(0xFFFF0003, 15)] false) State.reset F.PG_EVT_EN_BLOCK 0x120 0 = some 0xFFFF := by
  decide +kernel

/-- R11: a write to ROLE, an RO field, has no effect. -/
theorem test_write_read_only :
    fieldAfter (.registerWrite 0 1 false 0x104 [(0xFFFFFFFF, 15)] false) State.reset F.SYS_ROLE_ROLE 0 0 = some 1 := by
  decide +kernel

/-- R57: the first event of severity warning is captured. -/
theorem test_first_error :
    fieldAfter (.errRecordArrival 0 0x120 0x100 2 7 1) State.reset F.PG_FIRST_ERR_VALID 0x120 0 = some 1 ∧
      fieldAfter (.errRecordArrival 0 0x120 0x100 2 7 1) State.reset F.PG_FIRST_ERR_CODE 0x120 0 = some 0x100 := by
  decide +kernel

/-- R53: PMBUS_REVISION answers 0x33 with its packet error code. -/
theorem test_pmbus_revision :
    (sentAfter (.pmbusRevision 0) State.reset).map List.length = some 1 := by decide +kernel

/-- R452: thresholds may be lowered while their order stands. -/
theorem test_thresh_write : fieldAfter (.threshWrite 0 1 1 0x00695F50) State.reset F.THM_THRESH_L1 0 1 = some 0x50 := by
  decide +kernel

/-! ### Witnesses -/

/-- What StepRunsTheFrontCommand assumes can be met: stepRuns, stepIdles. -/
theorem witness_StepRunsTheFrontCommand :
    (∃ (c : Instr) (s : State) (rest : List Instr),
      (s.pending = c :: rest)) ∧
    (∃ (s : State),
      (s.pending = [])) := by
  refine ⟨?_, ?_⟩
  · exact ⟨.portReset 0, { State.reset with pending := [.portReset 0, .portReset 7] }, [.portReset 7], by decide +kernel⟩
  · exact ⟨State.reset, by decide +kernel⟩

/-- What EveryCommandCompletes assumes can be met: queueBehind. -/
theorem witness_EveryCommandCompletes :
    (∃ (c : Instr) (s : State) (rest : List Instr),
      (s.pending = c :: rest)) := by
  · exact ⟨.portReset 0, { State.reset with pending := [.portReset 0, .portReset 5] }, [.portReset 5], by decide +kernel⟩

/-- What EveryStepKeepsTheStoreCanonical assumes can be met: stepKeepsCanonical. -/
theorem witness_EveryStepKeepsTheStoreCanonical :
    (∃ (s t : State),
      (s.canonical) ∧
      (step s = .next t)) := by
  · exact ⟨{ State.reset with pending := [.operatingState 0] }, _, rfl, rfl⟩

/-- What OnlyWritersChangeTheFrameStore assumes can be met: othersKeepStore. -/
theorem witness_OnlyWritersChangeTheFrameStore :
    (∃ (c : Instr) (s t : State) (a : Nat),
      (writesStore c = false) ∧
      (exec c s = .next t)) := by
  · exact ⟨.portReset 0, State.reset, _, 0, rfl, rfl⟩

/-- What FrameStoreAccessFrames assumes can be met: memAccessFrame, memAccessReadsBack. -/
theorem witness_FrameStoreAccessFrames :
    (∃ (s t : State) (dt mid a n q x flips skew : Nat) (write misroute beaten : Bool) (l : List Nat),
      (s.canonical) ∧
      (exec (.memAccess dt mid a n write misroute l flips skew beaten) s = .next t) ∧
      (q = storeAddr mid a s.blk) ∧
      ((readCoded s.store (q / 8) flips skew).2 = 1 → (readCoded s.store (q / 8) flips skew).1 = s.store.leRead (8 * (q / 8)) 8) ∧
      (write = false ∨ x < q ∨ q + n ≤ x)) ∧
    (∃ (s : State) (dt mid a n j q : Nat) (l : List Nat) (beaten : Bool) (b : Blk),
      (b = s.blk.tick dt) ∧
      (s.canonical) ∧
      (q = storeAddr mid a b ∧ (mid = 0x01 → b.rd F.SYS_FSWIN_BASE 0 < usable b / 2 ^ 28)) ∧
      (fsGranted b mid q true = true ∧ q + n ≤ usable b) ∧
      (8 ≤ n ∨ s.store.isMarked q = false) ∧
      ((mid = 0x01 ∨ mid = 0x04) → copyDiscards b = false ∧ b.on F.PAIR_EPOCH_FILL_HELD 0 = false ∧ copying b = false) ∧
      (l.length = n ∧ j < n)) := by
  refine ⟨?_, ?_⟩
  · exact ⟨State.reset, _, 0, 0x01, 64, 8, 64, 72, 0, 0, true, false, false, [1, 2, 3, 4, 5, 6, 7, 8], rfl, rfl, by decide +kernel, by decide +kernel, by decide⟩
  · exact ⟨State.reset.withBlk (({} : Blk).wr F.ACG_MODE_MODE 0 0), 0, 0x01, 64, 8, 7, 64, [1, 2, 3, 4, 5, 6, 7, 8], false, _, rfl, rfl, by decide +kernel, by decide +kernel, by decide, by decide +kernel, by decide⟩

/-- What LittleEndian assumes can be met: fieldBits, multiWordField, littleEndian. -/
theorem witness_LittleEndian :
    (∃ (v lo w k : Nat),
      (k < w)) ∧
    (∃ (f : Fld) (v j k : Nat),
      (k < 32 ∧ f.lo ≤ 32 * j + k)) ∧
    (∃ (m : FrameStore) (a n v k : Nat),
      (m.wf = true) ∧
      (k < n)) := by
  refine ⟨?_, ?_, ?_⟩
  · exact ⟨0x50, 4, 3, 0, by decide +kernel⟩
  · exact ⟨F.MEM_UE_FIRST_ADDR, 5, 0, 0, by decide +kernel⟩
  · exact ⟨({} : FrameStore), 64, 4, 0x01020304, 3, rfl, by decide⟩

/-- What HeadersReadByEveryMid assumes can be met: headerReadGranted, headerReadDone. -/
theorem witness_HeadersReadByEveryMid :
    (∃ (b : Blk) (mid n o : Nat) (p : Page),
      (pageOfSlot n = some p) ∧
      (o < 0x40)) ∧
    (∃ (b : Blk) (port mid n o : Nat) (p : Page),
      (pageOfSlot n = some p) ∧
      (o < 0x40 ∧ o % 4 = 0) ∧
      (mid ≠ 8 ∧ mapped (n * 0x1000 + o) = true) ∧
      (∀ h ∈ hitsAt (n * 0x1000 + o), h.f.words = 1)) := by
  refine ⟨?_, ?_⟩
  · exact ⟨({} : Blk), 0x3F, 16, 0x10, ⟨.err, 0⟩, by decide +kernel⟩
  · exact ⟨({} : Blk), 0, 0x3F, 16, 0, ⟨.err, 0⟩, by decide +kernel⟩

/-- What PageHeaderCommands assumes can be met: pgEvtClear, pgEvtEnWrite, errcntClear, firstErrClear, softReset,
softResetDone, pgCueArm, pgCueDisarm. -/
theorem witness_PageHeaderCommands_1 :
    (∃ (s : State) (dt mid page data d : Nat) (p : Page),
      (pageOfSlot page = some p) ∧
      (d = cleared data (freshFlags (s.blk.tick dt) (page * 0x1000 + 0x10))) ∧
      (accepts (s.blk.tick dt) mid (page * 0x1000 + 0x10) data = true)) ∧
    (∃ (s : State) (dt mid page data : Nat) (p : Page),
      (pageOfSlot page = some p) ∧
      (accepts (s.blk.tick dt) mid (page * 0x1000 + 0x14) data = true)) ∧
    (∃ (s : State) (dt mid page : Nat) (same : Bool) (p : Page),
      (pageOfSlot page = some p) ∧
      (accepts (s.blk.tick dt) mid (page * 0x1000 + 0x18) (2 ^ 31) = true)) ∧
    (∃ (s : State) (dt mid page d : Nat) (p : Page),
      (pageOfSlot page = some p) ∧
      (d = cleared (2 ^ 31) (freshFlags (s.blk.tick dt) (page * 0x1000 + 0x1C))) ∧
      (accepts (s.blk.tick dt) mid (page * 0x1000 + 0x1C) (2 ^ 31) = true)) ∧
    (∃ (s : State) (dt mid page data : Nat) (p : Page),
      (pageOfSlot page = some p) ∧
      (p.resettable = true) ∧
      (p.blk ≠ .lfp ∨ s.blk.rd F.LFP_CFG_STAGE p.inst = 31) ∧
      (accepts (s.blk.tick dt) mid (page * 0x1000 + 0x08) (Nat.lor data 2) = true)) ∧
    (∃ (s : State) (dt page : Nat) (p : Page),
      (pageOfSlot page = some p) ∧
      (s.blk.rd F.PG_STAT_RESET_BUSY page ≠ 0)) ∧
    (∃ (s : State) (dt mid page data : Nat) (p : Page),
      (pageOfSlot page = some p) ∧
      (accepts (s.blk.tick dt) mid (page * 0x1000 + 0x20) (Nat.lor data 0x10000) = true)) ∧
    (∃ (s : State) (dt mid page data : Nat) (p : Page),
      (pageOfSlot page = some p) ∧
      (accepts (s.blk.tick dt) mid (page * 0x1000 + 0x20) (Nat.lor data 0x20000) = true)) := by
  refine ⟨?_, ?_, ?_, ?_, ?_, ?_, ?_, ?_⟩
  · exact ⟨State.reset, 0, 1, 16, 1, 1, ⟨.err, 0⟩, by decide +kernel⟩
  · exact ⟨State.reset, 0, 1, 16, 1, ⟨.err, 0⟩, by decide +kernel⟩
  · exact ⟨State.reset, 0, 1, 16, true, ⟨.err, 0⟩, by decide +kernel⟩
  · exact ⟨State.reset, 0, 1, 16, 2 ^ 31, ⟨.err, 0⟩, by decide +kernel⟩
  · exact ⟨State.reset, 0, 1, 0x120, 0, ⟨.ing, 0⟩, by decide +kernel⟩
  · exact ⟨{ State.reset with blk := ({} : Blk).wr F.PG_STAT_RESET_BUSY 0x120 1 }, 5, 0x120, ⟨.ing, 0⟩, by decide +kernel⟩
  · exact ⟨State.reset, 0, 1, 0x120, 0, ⟨.ing, 0⟩, by decide +kernel⟩
  · exact ⟨State.reset, 0, 1, 0x120, 0, ⟨.ing, 0⟩, by decide +kernel⟩

/-- What PageHeaderCommands assumes can be met: pgCueDiscard, cueWriteArms, cueWriteDisarms, cueWriteDiscards. -/
theorem witness_PageHeaderCommands_2 :
    (∃ (s : State) (dt mid page data : Nat) (p : Page),
      (pageOfSlot page = some p) ∧
      (accepts (s.blk.tick dt) mid (page * 0x1000 + 0x20) (Nat.lor data 0x40000) = true)) ∧
    (∃ (b : Blk) (mid at_ data : Nat) (p : Page),
      (bit data 16 = true) ∧
      (bit data 17 = false) ∧
      (bit data 18 = false)) ∧
    (∃ (b : Blk) (mid at_ data : Nat) (p : Page),
      (bit data 16 = false) ∧
      (bit data 17 = true) ∧
      (bit data 18 = false)) ∧
    (∃ (b : Blk) (mid at_ data : Nat) (p : Page),
      (bit data 16 = false) ∧
      (bit data 17 = false) ∧
      (bit data 18 = true)) := by
  refine ⟨?_, ?_, ?_, ?_⟩
  · exact ⟨State.reset, 0, 1, 0x120, 0, ⟨.ing, 0⟩, by decide +kernel⟩
  · exact ⟨({} : Blk), 1, 0, 0x10000, ⟨.ing, 0⟩, by decide +kernel⟩
  · exact ⟨({} : Blk), 1, 0, 0x20000, ⟨.ing, 0⟩, by decide +kernel⟩
  · exact ⟨({} : Blk), 1, 0, 0x40000, ⟨.ing, 0⟩, by decide +kernel⟩

/-- What EventAndCueCommands assumes can be met: gcueArm, gcueDisarm, gcueWriteArms, gcueWriteDisarms, errRecordArrival,
errRdIdxWrite, errClrLost, severeQueuePop. -/
theorem witness_EventAndCueCommands_1 :
    (∃ (s : State) (dt mid data : Nat),
      (accepts (s.blk.tick dt) mid 0x80 (Nat.lor data 0x1000000) = true)) ∧
    (∃ (s : State) (dt mid data : Nat),
      (accepts (s.blk.tick dt) mid 0x80 (Nat.lor data 0x2000000) = true)) ∧
    (∃ (b : Blk) (mid at_ data : Nat),
      (bit data 24 = true) ∧
      (bit data 25 = false)) ∧
    (∃ (b : Blk) (mid at_ data : Nat),
      (bit data 24 = false) ∧
      (bit data 25 = true)) ∧
    (∃ (s : State) (dt page code sev detail mid : Nat) (p : Page),
      (pageOfSlot page = some p) ∧
      (sev ≤ 5)) ∧
    (∃ (s : State) (dt mid data : Nat) (c : Blk),
      (accepts (s.blk.tick dt) mid 0x10048 data = true) ∧
      (c = (s.blk.tick dt).wr F.ERR_RD_IDX_IDX 0 (bits data 0 16))) ∧
    (∃ (s : State) (dt mid data : Nat),
      (accepts (s.blk.tick dt) mid 0x10040 (Nat.lor data 0x80000000) = true) ∧
      (mid ≠ 0x20 ∧ mid ≠ 0)) ∧
    (∃ (s : State) (dt : Nat) (r : Rec) (l : List Rec),
      (regCheck s.blk 0x04 0x10060 false = none) ∧
      (s.blk.ctl.severe = r :: l) ∧
      (s.blk.on F.PG_STAT_RESET_BUSY 16 = false)) := by
  refine ⟨?_, ?_, ?_, ?_, ?_, ?_, ?_, ?_⟩
  · exact ⟨State.reset, 0, 1, 5, by decide +kernel⟩
  · exact ⟨State.reset, 0, 1, 5, by decide +kernel⟩
  · exact ⟨({} : Blk), 1, 0, 0x1000000, by decide +kernel⟩
  · exact ⟨({} : Blk), 1, 0, 0x2000000, by decide +kernel⟩
  · exact ⟨State.reset, 0, 0x120, 0x100, 3, 7, 0x10, ⟨.ing, 0⟩, by decide +kernel⟩
  · exact ⟨State.reset, 0, 1, 0, ({} : Blk).wr F.ERR_RD_IDX_IDX 0 0, by decide +kernel⟩
  · exact ⟨State.reset, 0, 1, 0x31, by decide +kernel⟩
  · exact ⟨{ State.reset with blk := { ctl := { severe := [⟨5, 1, 0, 1, 0, 0, 5⟩] } } }, 0, ⟨5, 1, 0, 1, 0, 0, 5⟩, [], by decide +kernel⟩

/-- What EventAndCueCommands assumes can be met: sqStatRead, ringWindowWrite. -/
theorem witness_EventAndCueCommands_2 :
    (∃ (s : State) (dt : Nat),
      (regCheck s.blk 0x04 0x10058 false = none) ∧
      (s.blk.on F.PG_STAT_RESET_BUSY 16 = false)) ∧
    (∃ (s : State) (dt mid addr data : Nat),
      (accepts (s.blk.tick dt) mid (0x11000 + addr % 0x1000) data = true)) := by
  refine ⟨?_, ?_⟩
  · exact ⟨State.reset, 0, by decide +kernel⟩
  · exact ⟨State.reset, 0, 1, 8, 77, by decide +kernel⟩

/-- What RegisterWritePaths assumes can be met: registerWrite, registerWriteTable, registerWriteStored,
registerWriteBadEnables, registerWriteUnmapped, registerWriteMisrouted, registerWriteRefused, registerWriteHeld. -/
theorem witness_RegisterWritePaths :
    (∃ (s : State) (dt mid addr data : Nat),
      (accepts (s.blk.tick dt) mid addr data = true) ∧
      (addr < 0x800000)) ∧
    (∃ (s : State) (dt addr data : Nat) (misroute : Bool),
      (addr / 4 < 2048)) ∧
    (∃ (b : Blk) (port mid addr data at_ ident : Nat),
      (accepts b mid addr data = true) ∧
      (0x400000 ≤ addr ∧ addr < 0x580000) ∧
      (¬ (addr < 0x500000 ∧ addr % 256 = 0x2C))) ∧
    (∃ (s : State) (dt mid addr data be : Nat) (misroute : Bool),
      (be % 16 ≠ 15)) ∧
    (∃ (b : Blk) (port mid addr data : Nat) (misroute : Bool),
      (mapped (addr / 4 * 4) = false) ∧
      (b.rd F.PAIR_EPOCH_FILL_HELD 0 = 0)) ∧
    (∃ (b : Blk) (port mid addr data : Nat),
      (mapped (addr / 4 * 4) = true) ∧
      (b.rd F.PAIR_EPOCH_FILL_HELD 0 = 0) ∧
      (b.rd F.ACG_MODE_MODE 0 = 0)) ∧
    (∃ (b : Blk) (port mid addr data k : Nat),
      (mapped (addr / 4 * 4) = true) ∧
      (b.rd F.PAIR_EPOCH_FILL_HELD 0 = 0) ∧
      (regCheck b mid (addr / 4 * 4) true = some k)) ∧
    (∃ (b : Blk) (port mid addr data : Nat) (misroute : Bool),
      (b.rd F.PAIR_EPOCH_FILL_HELD 0 ≠ 0) ∧
      (mid = 0x01 ∨ mid = 0x04)) := by
  refine ⟨?_, ?_, ?_, ?_, ?_, ?_, ?_, ?_⟩
  · exact ⟨State.reset, 5, 1, 0x400004, 3, by decide +kernel⟩
  · exact ⟨State.reset, 0, 0x10, 0xFEE00000, false, by decide +kernel⟩
  · exact ⟨({} : Blk), 0, 1, 0x400004, 3, 0, 0, by decide +kernel⟩
  · exact ⟨State.reset, 0, 1, 0x100, 1, 3, false, by decide +kernel⟩
  · exact ⟨({} : Blk), 0, 1, 0x1000, 1, false, by decide +kernel⟩
  · exact ⟨({} : Blk), 0, 1, 0x80, 1, by decide +kernel⟩
  · exact ⟨({} : Blk), 0, 0x30, 0x80, 1, 1, by decide +kernel⟩
  · exact ⟨({} : Blk).wr F.PAIR_EPOCH_FILL_HELD 0 1, 0, 1, 0x80, 1, false, by decide +kernel⟩

/-- What SafetyAndHostPortCommands assumes can be met: unknownCommand, spWrite, spWriteFraming, spWriteCheck, spRead. -/
theorem witness_SafetyAndHostPortCommands :
    (∃ (s : State) (dt code : Nat),
      (code % 256 ≠ 0x02 ∧ code % 256 ≠ 0x0B ∧ code % 256 ≠ 0x05 ∧ code % 256 ≠ 0x99)) ∧
    (∃ (s : State) (dt addr : Nat) (words : List Nat) (fs : Bool) (a : Nat) (r : Blk × FrameStore × Bool),
      (1 ≤ words.length ∧ words.length ≤ 64 ∧ addr % 4 = 0 ∧ addr % 0x1000 + 4 * words.length ≤ 0x1000) ∧
      (safetyMap s.blk addr = some (fs, a)) ∧
      (r = words.zipIdx.foldl (fun (acc : Blk × FrameStore × Bool) w =>
        ((safetyWord (some (fs, a + 4 * w.2)) w.1 acc.1 acc.2.1).1, (safetyWord (some (fs, a + 4 * w.2)) w.1 acc.1 acc.2.1).2.1,
        acc.2.2 || (safetyWord (some (fs, a + 4 * w.2)) w.1 acc.1 acc.2.1).2.2)) (s.blk.tick dt, s.store, false))) ∧
    (∃ (s : State) (dt addr check : Nat) (words : List Nat) (clean : Bool),
      (clean = false ∨ words = [] ∨ 64 < words.length ∨ addr % 4 ≠ 0 ∨ 0x1000 < addr % 0x1000 + 4 * words.length)) ∧
    (∃ (s : State) (dt addr check : Nat) (words : List Nat),
      (1 ≤ words.length ∧ words.length ≤ 64 ∧ addr % 4 = 0 ∧ addr % 0x1000 + 4 * words.length ≤ 0x1000) ∧
      (check ≠ crc16 (safetyBytes 0x02 addr words))) ∧
    (∃ (s : State) (dt addr n ready : Nat) (r : Blk × FrameStore × SafetyRead),
      (1 ≤ n ∧ n ≤ 64) ∧
      (r = (List.range n).foldl (fun acc k => safetyReadWord addr k ready acc) (s.blk.tick dt, s.store, {}))) := by
  refine ⟨?_, ?_, ?_, ?_, ?_⟩
  · exact ⟨State.reset, 1, 0x33, by decide +kernel⟩
  · exact ⟨State.reset, 0, 0x40010, [1], false, 0x40010, _, by decide, by decide +kernel, rfl⟩
  · exact ⟨State.reset, 0, 0, 0, [], true, by decide +kernel⟩
  · exact ⟨State.reset, 0, 0, 0, [1], by decide +kernel⟩
  · exact ⟨State.reset, 0, 0x40010, 1, 1, _, by decide, rfl⟩

/-- What PmbusCommands assumes can be met: operationOn, operationOnPlain, smbusUnsupported. -/
theorem witness_PmbusCommands :
    (∃ (s : State) (dt : Nat),
      (s.blk.pwr.refused = true ∨ s.blk.pwr.byCommand = true) ∧
      (s.blk.pwr.rail = false ∧ 2 ≤ s.blk.pwr.at_)) ∧
    (∃ (s : State) (dt : Nat),
      (s.blk.pwr.refused = false ∧ s.blk.pwr.byCommand = false)) ∧
    (∃ (s : State) (dt code : Nat) (pecFailed : Bool),
      (pecFailed = true ∨ code % 256 ∉ pmCodes)) := by
  refine ⟨?_, ?_, ?_⟩
  · exact ⟨{ State.reset with blk := { pwr := { at_ := 3, byCommand := true } } }, 7, by decide +kernel⟩
  · exact ⟨State.reset, 7, by decide +kernel⟩
  · exact ⟨State.reset, 0, 0x02, false, by decide +kernel⟩

/-- What ProposalCommands assumes can be met: openProposal, submit, withdraw, reject, propSign, propSignRefused,
proposalAreaWrite, proposalTimeout. -/
theorem witness_ProposalCommands :
    (∃ (s : State) (dt mid : Nat) (c : Blk),
      (mid = 0x01 ∨ mid = 0x04) ∧
      (accepts (s.blk.tick dt) mid 0x20050 1 = true) ∧
      (s.blk.rd F.ACG_PROP_STAT_STATE 0 = 0) ∧
      (c = ((s.blk.tick dt).wr F.ACG_PROP_STAT_STATE 0 1 |>.wr F.ACG_PROP_STAT_PROPOSER 0 mid
        |>.wr F.ACG_PROP_SEQ_VALUE 0 (s.blk.rd F.ACG_PROP_SEQ_VALUE 0 + 1)))) ∧
    (∃ (s : State) (dt mid : Nat),
      (accepts (s.blk.tick dt) mid 0x20050 2 = true) ∧
      (s.blk.rd F.ACG_PROP_STAT_STATE 0 = 1 ∧ s.blk.rd F.ACG_PROP_STAT_PROPOSER 0 = mid) ∧
      (s.blk.rd F.ACG_PROP_DIGEST_DIGEST 0 = propDigest (s.blk.rd F.ACG_PROP_SEQ_VALUE 0) s.blk.acg.area)) ∧
    (∃ (s : State) (dt mid : Nat),
      (accepts (s.blk.tick dt) mid 0x20050 4 = true) ∧
      (s.blk.rd F.ACG_PROP_STAT_STATE 0 ≠ 0 ∧ s.blk.rd F.ACG_PROP_STAT_PROPOSER 0 = mid)) ∧
    (∃ (s : State) (dt mid : Nat),
      (accepts (s.blk.tick dt) mid 0x20050 8 = true) ∧
      (s.blk.rd F.ACG_PROP_STAT_STATE 0 = 2 ∧ s.blk.rd F.ACG_PROP_STAT_PROPOSER 0 ≠ mid) ∧
      (mid = 0x01 ∨ mid = 0x04)) ∧
    (∃ (s : State) (dt mid data : Nat),
      (accepts (s.blk.tick dt) mid 0x20058 data = true) ∧
      (s.blk.rd F.ACG_PROP_STAT_STATE 0 = 2 ∧ s.blk.rd F.ACG_PROP_STAT_PROPOSER 0 ≠ mid) ∧
      (mid = 0x01 ∨ mid = 0x04) ∧
      (data % 2 ^ 32 = propDigest (s.blk.rd F.ACG_PROP_SEQ_VALUE 0) s.blk.acg.area) ∧
      (commitFault s.blk s.blk.acg.area = none)) ∧
    (∃ (b : Blk) (mid data : Nat),
      (propState b = 2 ∧ proposer b ≠ mid) ∧
      (mid = 0x01 ∨ mid = 0x04)) ∧
    (∃ (s : State) (dt mid addr data : Nat),
      (addr % 0x100000 < 3152 ∧ addr % 4 = 0) ∧
      (accepts (s.blk.tick dt) mid (0x700000 + addr % 0x100000) data = true) ∧
      (s.blk.rd F.ACG_PROP_STAT_STATE 0 = 1 ∧ s.blk.rd F.ACG_PROP_STAT_PROPOSER 0 = mid)) ∧
    (∃ (s : State) (dt : Nat),
      (s.blk.rd F.ACG_PROP_STAT_STATE 0 ≠ 0) ∧
      (s.blk.acg.since + propLimit s.blk * 1000000000 ≤ s.blk.now + dt)) := by
  refine ⟨?_, ?_, ?_, ?_, ?_, ?_, ?_, ?_⟩
  · exact ⟨State.reset, 0, 1, _, by decide +kernel, by decide +kernel, by decide +kernel, rfl⟩
  · have h1 : ∀ x : Nat, accepts ((State.reset.withBlk { regs := [(F.ACG_PROP_DIGEST_DIGEST.key 0 0, x), (F.ACG_PROP_STAT_STATE.key 0 0, 1),
        (F.ACG_PROP_STAT_PROPOSER.key 0 0, 1)] }).blk.tick 0) 1 0x20050 2 = true := fun x => by rfl
    have h3 : ∀ x : Nat, (State.reset.withBlk { regs := [(F.ACG_PROP_DIGEST_DIGEST.key 0 0, x), (F.ACG_PROP_STAT_STATE.key 0 0, 1),
        (F.ACG_PROP_STAT_PROPOSER.key 0 0, 1)] }).blk.rd F.ACG_PROP_DIGEST_DIGEST 0 = x := fun x => rfl
    refine ⟨State.reset.withBlk { regs := [(F.ACG_PROP_DIGEST_DIGEST.key 0 0, propDigest 0 []), (F.ACG_PROP_STAT_STATE.key 0 0, 1),
      (F.ACG_PROP_STAT_PROPOSER.key 0 0, 1)] }, 0, 1, h1 _, ?_, ?_⟩
    · decide +kernel
    · rw [h3]; exact congrArg₂ propDigest rfl rfl
  · exact ⟨State.reset.withBlk ((({} : Blk).wr F.ACG_PROP_STAT_STATE 0 1).wr F.ACG_PROP_STAT_PROPOSER 0 1), 0, 1, by decide +kernel⟩
  · exact ⟨State.reset.withBlk ((({} : Blk).wr F.ACG_PROP_STAT_STATE 0 2).wr F.ACG_PROP_STAT_PROPOSER 0 1), 0, 4, by decide +kernel⟩
  · have h : ∀ x, accepts ((State.reset.withBlk ((({} : Blk).wr F.ACG_PROP_STAT_STATE 0 2).wr F.ACG_PROP_STAT_PROPOSER 0 1)).blk.tick 0) 4 0x20058 x = true := by
      intro x; rfl
    refine ⟨State.reset.withBlk ((({} : Blk).wr F.ACG_PROP_STAT_STATE 0 2).wr F.ACG_PROP_STAT_PROPOSER 0 1), 0, 4, propDigest 0 [], h _, ?_, ?_, ?_, ?_⟩
    · decide +kernel
    · decide
    · rw [show propDigest 0 [] % 2 ^ 32 = propDigest 0 [] from Nat.mod_eq_of_lt (crc32c_lt _)]; exact congrArg₂ propDigest rfl rfl
    · decide +kernel
  · exact ⟨((({} : Blk).wr F.ACG_PROP_STAT_STATE 0 2).wr F.ACG_PROP_STAT_PROPOSER 0 1), 4, 0, by decide +kernel⟩
  · exact ⟨State.reset.withBlk ((({} : Blk).wr F.ACG_PROP_STAT_STATE 0 1).wr F.ACG_PROP_STAT_PROPOSER 0 1), 0, 1, 8, 0xF, by decide +kernel⟩
  · exact ⟨State.reset.withBlk (({} : Blk).wr F.ACG_PROP_STAT_STATE 0 1), 60000000000, by decide +kernel⟩

/-- What DebugAndWindowCommands assumes can be met: violCountClear, fenceDrained, fenceTimeout, bypass, dauRead, dauWrite,
debugUseRecord, memberWindowAccess. -/
theorem witness_DebugAndWindowCommands_1 :
    (∃ (s : State) (dt mid : Nat),
      (mid = 0x01 ∨ mid = 0x04) ∧
      (accepts (s.blk.tick dt) mid 0x20068 0x80000000 = true)) ∧
    (∃ (s : State) (dt : Nat),
      (s.blk.rd F.ACG_FENCE_DRAINED 0 = 0)) ∧
    (∃ (s : State) (dt : Nat),
      (s.blk.rd F.ACG_FENCE_DRAINED 0 = 0 ∧ s.blk.acg.fenceTold = false) ∧
      (s.blk.acg.commitAt + 1000000 ≤ s.blk.now + dt)) ∧
    (∃ (s : State) (dt code : Nat) (tdi : Bool),
      (code % 64 ≠ 0x01 ∧ code % 64 ≠ 0x20)) ∧
    (∃ (s : State) (dt addr : Nat) (c : Blk),
      (c = ((s.blk.tick dt).emit (.jtag 80 (s.blk.acg.dauData * 2 ^ 43 + s.blk.acg.dauResult * 2 ^ 75))).wr F.DBG_STAT_USED 0 1)) ∧
    (∃ (s : State) (dt addr data : Nat) (c : Blk),
      (c = ((s.blk.tick dt).emit (.jtag 80 (s.blk.acg.dauData * 2 ^ 43 + s.blk.acg.dauResult * 2 ^ 75))).wr F.DBG_STAT_USED 0 1)) ∧
    (∃ (b : Blk) (a k : Nat) (write : Bool),
      (acgSlot a = some k) ∧
      (slotLocked b k = true ∧ dbgAdmitted b k = true)) ∧
    (∃ (s : State) (dt mid j o data value : Nat) (write : Bool) (path depth p : Nat),
      (j < 7 ∧ o < 0x800000 ∧ o % 4 = 0) ∧
      (windowPath (s.blk.tick dt) j = some (path, depth)) ∧
      (toward (s.blk.tick dt) (pairActive (s.blk.tick dt) (path % 8)) = some p) ∧
      (regCheck s.blk mid (0x800000 + 0x800000 * j + o) write = none) ∧
      (sharedRange o = false)) := by
  refine ⟨?_, ?_, ?_, ?_, ?_, ?_, ?_, ?_⟩
  · exact ⟨State.reset, 0, 4, by decide +kernel⟩
  · exact ⟨State.reset.withBlk (({} : Blk).wr F.ACG_FENCE_DRAINED 0 0), 0, by decide +kernel⟩
  · exact ⟨State.reset.withBlk (({} : Blk).wr F.ACG_FENCE_DRAINED 0 0), 1000000, by decide +kernel⟩
  · exact ⟨State.reset, 0, 0x3F, true, by decide +kernel⟩
  · exact ⟨State.reset, 0, 0x100, _, rfl⟩
  · exact ⟨State.reset, 0, 0x100, 1, _, rfl⟩
  · exact ⟨{ acg := { image := [(3, 0x400), (772, 8)] } }, 0x40000, 3, true, by decide +kernel⟩
  · exact ⟨State.reset.withBlk ((({ ens := { members := [(2, { beacon := ⟨0, 2, 0, false, false, false, 0, 0, false, false, 0, 0, 0, 0, 0, 0, 0⟩, on1 := some (0, 0) })] } } : Blk)
  |>.wr F.ENS_STAT_LEAD 0 1 |>.wr F.ENS_STAT_STATE 0 3 |>.wr F.ENS_WIN_VALID 0 1 0 |>.wr F.ENS_WIN_PATH 0 2 0 |>.wr F.ENS_WIN_DEPTH 0 1 0)), 0, 1, 0, 0x400, 5, 0, true, 2, 1, 1, by decide +kernel⟩

/-- What DebugAndWindowCommands assumes can be met: memberWindowNothing, memberWindowArrives, memberWindowPasses,
sharedTableWrite. -/
theorem witness_DebugAndWindowCommands_2 :
    (∃ (b : Blk) (mid j o data value : Nat) (write lost : Bool),
      (windowPath b j = none ∨ sharedRange o = true)) ∧
    (∃ (s : State) (dt mid addr data value : Nat) (lost : Bool) (p : Nat),
      (inRing (s.blk.tick dt) = true) ∧
      (pairActive (s.blk.tick dt) (p % 8) = ownPos (s.blk.tick dt))) ∧
    (∃ (b : Blk) (mid o data p q : Nat) (l : List Nat) (write : Bool),
      (inRing b = true) ∧
      (pairActive b (p % 8) ≠ ownPos b) ∧
      (toward b (pairActive b (p % 8)) = some q)) ∧
    (∃ (s : State) (dt mid addr data port : Nat),
      (0x400000 ≤ addr ∧ addr < 0x580000 ∧ addr % 4 = 0) ∧
      (mid < 0x20) ∧
      (regCheck s.blk mid addr true = none) ∧
      (mapped addr = true) ∧
      (inRing (s.blk.tick dt) = true ∧ (port = 1 ∨ port = 2))) := by
  refine ⟨?_, ?_, ?_, ?_⟩
  · exact ⟨({} : Blk), 1, 0, 0, 0, 0, false, false, by decide +kernel⟩
  · exact ⟨State.reset.withBlk (({} : Blk).wr F.ENS_STAT_STATE 0 3), 0, 1, 0x400, 5, 0, false, 0, by decide +kernel⟩
  · exact ⟨(({ ens := { members := [(2, { beacon := ⟨0, 2, 0, false, false, false, 0, 0, false, false, 0, 0, 0, 0, 0, 0, 0⟩, on1 := some (0, 0) })] } } : Blk).wr F.ENS_STAT_STATE 0 3), 1, 0x400, 5, 2, 1, [], true, by decide +kernel⟩
  · exact ⟨State.reset.withBlk (({} : Blk).wr F.ENS_STAT_STATE 0 3), 0, 1, 0x400000, 1, 1, by decide +kernel⟩

/-- What RegisterCommandsOfPicturePages assumes can be met: floorWrite, freshnessWindowWrite, logWrapsClear, publish,
psCommitWrite, contactConfigWrite, suppressedClear, vecForceIdr. -/
theorem witness_RegisterCommandsOfPicturePages_1 :
    (∃ (s : State) (dt mid data : Nat),
      (accepts (s.blk.tick dt) mid 0x258040 data = true)) ∧
    (∃ (s : State) (dt mid addr data : Nat),
      (accepts (s.blk.tick dt) mid (0x600000 + addr % 0x100000) data = true)) ∧
    (∃ (s : State) (dt mid data : Nat),
      (accepts (s.blk.tick dt) mid 0x25804C (Nat.lor data 0x80000000) = true)) ∧
    (∃ (s : State) (dt mid layer data : Nat),
      (layer < 4096 ∧ mid ≠ 0) ∧
      (accepts (s.blk.tick dt) mid (0x40002C + 256 * layer) (Nat.lor data 0x80000000) = true)) ∧
    (∃ (s : State) (dt mid stage data : Nat),
      (stage < 24) ∧
      (s.blk.rd F.STG_PS_CTRL_ARMED stage = 0) ∧
      (accepts (s.blk.tick dt) mid (0x220200 + 0x1000 * stage) (Nat.lor data 1) = true)) ∧
    (∃ (s : State) (dt mid c data : Nat),
      (c < 16) ∧
      (accepts (s.blk.tick dt) mid (0x2F0100 + 8 * c) data = true)) ∧
    (∃ (s : State) (dt mid data : Nat),
      (accepts (s.blk.tick dt) mid 0x2F004C (Nat.lor data 0x80000000) = true)) ∧
    (∃ (s : State) (dt mid ctx data : Nat),
      (ctx < 16) ∧
      (accepts (s.blk.tick dt) mid (0x1A007C + 0x1000 * ctx) (Nat.lor data 1) = true)) := by
  refine ⟨?_, ?_, ?_, ?_, ?_, ?_, ?_, ?_⟩
  · exact ⟨State.reset, 0, 4, 0x331F00, by decide +kernel⟩
  · exact ⟨State.reset, 0, 1, 8, 7, by decide +kernel⟩
  · exact ⟨State.reset, 0, 1, 0, by decide +kernel⟩
  · exact ⟨State.reset, 0, 1, 7, 1, by decide +kernel⟩
  · exact ⟨State.reset, 0, 4, 3, 0, by decide +kernel⟩
  · exact ⟨State.reset, 0, 1, 3, 0xA1851, by decide +kernel⟩
  · exact ⟨State.reset, 0, 1, 0, by decide +kernel⟩
  · exact ⟨State.reset, 0, 1, 3, 0, by decide +kernel⟩

/-- What RegisterCommandsOfPicturePages assumes can be met: crcStart, crcAbort. -/
theorem witness_RegisterCommandsOfPicturePages_2 :
    (∃ (s : State) (dt mid unit : Nat),
      (unit < 32) ∧
      (accepts (s.blk.tick dt) mid (0x28009C + 0x1000 * unit) 1 = true) ∧
      (enabled s.blk (crcPage unit) = true ∧ s.blk.rd F.CRC_CFG_TRIG unit = 0 ∧ (s.blk.unitCrc unit).run = none)) ∧
    (∃ (s : State) (dt mid unit : Nat) (r : CrcRun),
      (unit < 32) ∧
      (accepts (s.blk.tick dt) mid (0x28009C + 0x1000 * unit) 2 = true) ∧
      ((s.blk.unitCrc unit).run = some r)) := by
  refine ⟨?_, ?_⟩
  · exact ⟨State.reset.withBlk (({} : Blk).wr F.PG_CTRL_ENABLE 0x283 1), 0, 1, 3, by decide +kernel⟩
  · exact ⟨State.reset.withBlk { crc := [(3, { run := some ⟨0, 0, 0, 0, none⟩ })] }, 0, 1, 3, ⟨0, 0, 0, 0, none⟩, by decide +kernel⟩

/-- What RegisterCommandsOfModulePages assumes can be met: learnSave, learnClear, todWrite, eyeScanStart, eyeScanAbort,
marginRebase, pairSwitch, pairClearFault. -/
theorem witness_RegisterCommandsOfModulePages_1 :
    (∃ (s : State) (dt mid data : Nat),
      (accepts (s.blk.tick dt) mid 0x60088 (Nat.lor data 1) = true)) ∧
    (∃ (s : State) (dt mid data : Nat),
      (accepts (s.blk.tick dt) mid 0x60088 (Nat.lor data 2) = true)) ∧
    (∃ (s : State) (dt mid lo hi : Nat),
      (accepts (s.blk.tick dt) mid 0x60098 lo = true) ∧
      (accepts (stored mid 0x60098 lo (s.blk.tick dt)) mid 0x6009C (Nat.lor hi 0x80000000) = true)) ∧
    (∃ (s : State) (dt mid lane data : Nat) (c : Blk),
      (lane < 96) ∧
      (accepts (s.blk.tick dt) mid (0x80080 + 0x1000 * lane) (Nat.lor data 1) = true) ∧
      (c = stored mid (0x80080 + 0x1000 * lane) (Nat.lor data 1) (s.blk.tick dt))) ∧
    (∃ (s : State) (dt mid lane data : Nat) (c : Blk),
      (lane < 96) ∧
      (accepts (s.blk.tick dt) mid (0x80080 + 0x1000 * lane) (Nat.lor data 2) = true) ∧
      (c = stored mid (0x80080 + 0x1000 * lane) (Nat.lor data 2) (s.blk.tick dt))) ∧
    (∃ (s : State) (dt mid lane data : Nat) (c : Blk),
      (lane < 96) ∧
      (accepts (s.blk.tick dt) mid (0x80094 + 0x1000 * lane) (Nat.lor data 0x8000) = true) ∧
      (c = stored mid (0x80094 + 0x1000 * lane) (Nat.lor data 0x8000) (s.blk.tick dt))) ∧
    (∃ (s : State) (dt mid data : Nat),
      (bit data 1 = false ∧ bit data 2 = false) ∧
      (accepts (s.blk.tick dt) mid 0x2C0044 (Nat.lor data 1) = true)) ∧
    (∃ (s : State) (dt mid data : Nat),
      (bit data 0 = false ∧ bit data 2 = false) ∧
      (accepts (s.blk.tick dt) mid 0x2C0044 (Nat.lor data 2) = true)) := by
  refine ⟨?_, ?_, ?_, ?_, ?_, ?_, ?_, ?_⟩
  · exact ⟨State.reset, 0, 1, 0, by decide +kernel⟩
  · exact ⟨State.reset, 0, 1, 0, by decide +kernel⟩
  · exact ⟨State.reset, 0, 1, 5, 0, by decide +kernel⟩
  · exact ⟨State.reset, 0, 1, 3, 0x1C8BFF4, _, by decide +kernel, by decide +kernel, rfl⟩
  · exact ⟨State.reset, 0, 1, 3, 0x1C8BFF4, _, by decide +kernel, by decide +kernel, rfl⟩
  · exact ⟨State.reset, 0, 1, 3, 0x4618, _, by decide +kernel, by decide +kernel, rfl⟩
  · exact ⟨State.reset, 0, 1, 0, by decide +kernel⟩
  · exact ⟨State.reset, 0, 1, 0, by decide +kernel⟩

/-- What RegisterCommandsOfModulePages assumes can be met: pairResync, sysResetKey, hostClaim, hswEject, threshWrite. -/
theorem witness_RegisterCommandsOfModulePages_2 :
    (∃ (s : State) (dt mid data : Nat),
      (bit data 0 = false ∧ bit data 1 = false) ∧
      (s.blk.rd F.SYS_ROLE_ROLE 0 = 2) ∧
      (accepts (s.blk.tick dt) mid 0x2C0044 (Nat.lor data 4) = true)) ∧
    (∃ (s : State) (dt mid data : Nat),
      (data % 65536 = 0x6A5D ∧ s.blk.pwr.reset = none) ∧
      (accepts (s.blk.tick dt) mid 0x118 data = true)) ∧
    (∃ (s : State) (dt mid : Nat) (c : Blk),
      (mid = 0x01 ∨ mid = 0x04) ∧
      (s.blk.rd F.SYS_HOST_CLAIM_CLAIM 0 = 0) ∧
      (accepts (s.blk.tick dt) mid 0x100 1 = true) ∧
      (c = raiseAs mid sysPage 0x101 sevNotice mid (evB 1) ((s.blk.tick dt).wr F.SYS_HOST_CLAIM_CLAIM 0 1 |>.wr F.SYS_HOST_CLAIM_BY 0 mid))) ∧
    (∃ (s : State) (dt mid : Nat),
      (accepts (s.blk.tick dt) mid 0x50054 1 = true)) ∧
    (∃ (s : State) (dt mid c data : Nat),
      (c < 5) ∧
      (accepts (s.blk.tick dt) mid (0x40050 + 4 * c) data = true)) := by
  refine ⟨?_, ?_, ?_, ?_, ?_⟩
  · exact ⟨State.reset.withBlk (({} : Blk).wr F.SYS_ROLE_ROLE 0 2), 0, 1, 0, by decide +kernel⟩
  · exact ⟨State.reset, 0, 1, 0x6A5D, by decide +kernel⟩
  · exact ⟨State.reset, 0, 1, _, by decide +kernel, by decide +kernel, by decide +kernel, rfl⟩
  · exact ⟨State.reset, 0, 1, by decide +kernel⟩
  · exact ⟨State.reset, 0, 1, 0, 0x73695F5A, by decide +kernel⟩

/-- What PowerCommandsStart assumes can be met: longContactMate, mcReady, pinSample, presenceActive, presenceRefused,
powerOnCheck, softStartDone, internalResetRelease. -/
theorem witness_PowerCommandsStart_1 :
    (∃ (s : State) (dt : Nat) (b : Blk),
      (b = s.blk.tick dt) ∧
      (b.pwr.at_ = 0)) ∧
    (∃ (s : State) (dt slot : Nat) (b : Blk),
      (b = s.blk.tick dt) ∧
      (b.pwr.at_ = 1)) ∧
    (∃ (s : State) (dt : Nat) (present eject : Bool) (b : Blk) (p e : Nat × Contact),
      (b = s.blk.tick dt) ∧
      (2 ≤ b.pwr.at_) ∧
      (p = pinStep b.up 500 2 present (b.rd F.HSW_STAT_PRESENT 0) b.pwr.present) ∧
      (e = pinStep b.up 5 5 eject (b.rd F.HSW_STAT_EJECT 0) b.pwr.eject) ∧
      ((p.1 = 4 → b.rd F.HSW_STAT_PRESENT 0 = 4) ∧ (e.1 = 4 → b.rd F.HSW_STAT_EJECT 0 = 4))) ∧
    (∃ (s : State) (dt : Nat) (b : Blk) (again : Bool),
      (b = s.blk.tick dt) ∧
      (b.pwr.at_ = 2) ∧
      (b.rd F.HSW_STAT_PRESENT 0 = 1 ∨ b.rd F.HSW_STAT_PRESENT 0 = 2) ∧
      (again = b.pwr.wentOut) ∧
      ((b.pwr.refused && !again) = false ∧ (b.pwr.byCommand && !again) = false)) ∧
    (∃ (s : State) (dt : Nat) (b : Blk),
      (b = s.blk.tick dt) ∧
      (b.pwr.at_ = 2 ∧ b.pwr.refused = true ∧ b.pwr.wentOut = false) ∧
      (b.rd F.HSW_STAT_PRESENT 0 = 1 ∨ b.rd F.HSW_STAT_PRESENT 0 = 2)) ∧
    (∃ (s : State) (dt least most : Nat) (b : Blk),
      (b = s.blk.tick dt) ∧
      (b.pwr.at_ = 3 ∧ b.pwr.since + 10000000 ≤ b.up ∧ b.pwr.refused = false ∧ b.pwr.byCommand = false) ∧
      (ejectAsserted b = false ∧ isPresent b = true ∧ 10 * b.rd F.HSW_LIMITS_UV_WARN 0 ≤ least ∧ most ≤ 10 * b.rd F.HSW_LIMITS_OV_OFF 0)) ∧
    (∃ (s : State) (dt : Nat) (b : Blk),
      (b = s.blk.tick dt) ∧
      (b.pwr.at_ = 5 ∧ b.pwr.since + 20000000 ≤ b.up)) ∧
    (∃ (s : State) (dt straps t : Nat) (b : Blk),
      (b = s.blk.tick dt) ∧
      (b.pwr.at_ = 6 ∧ b.pwr.good = some t ∧ t + 1000000 ≤ b.up ∧ b.pwr.reset = none)) := by
  refine ⟨?_, ?_, ?_, ?_, ?_, ?_, ?_, ?_⟩
  · exact ⟨State.reset, 0, _, rfl, by decide +kernel⟩
  · exact ⟨State.reset.withBlk { pwr := { at_ := 1 } }, 0, 3, _, rfl, by decide +kernel⟩
  · exact ⟨State.reset.withBlk { pwr := { at_ := 2 } }, 0, true, false, _, _, _, rfl, by decide +kernel, rfl, rfl, by decide +kernel⟩
  · exact ⟨State.reset.withBlk (({ pwr := { at_ := 2 } } : Blk).wr F.HSW_STAT_PRESENT 0 1), 0, _, _, rfl, by decide +kernel, by decide +kernel, rfl, by decide +kernel⟩
  · exact ⟨State.reset.withBlk (({ pwr := { at_ := 2, refused := true } } : Blk).wr F.HSW_STAT_PRESENT 0 1), 0, _, rfl, by decide +kernel, by decide +kernel⟩
  · exact ⟨State.reset.withBlk (({ up := 10000000, pwr := { at_ := 3 } } : Blk).wr F.HSW_STAT_PRESENT 0 1), 0, 1200, 1200, _, rfl, by decide +kernel, by decide +kernel⟩
  · exact ⟨State.reset.withBlk { up := 20000000, pwr := { at_ := 5 } }, 0, _, rfl, by decide +kernel⟩
  · exact ⟨State.reset.withBlk { up := 1000000, pwr := { at_ := 6, good := some 0 } }, 0, 0, 0, _, rfl, by decide +kernel⟩

/-- What PowerCommandsStart assumes can be met: operatingState, strapSample, startupAbort. -/
theorem witness_PowerCommandsStart_2 :
    (∃ (s : State) (dt : Nat) (b : Blk),
      (b = s.blk.tick dt) ∧
      (b.pwr.at_ = 7)) ∧
    (∃ (s : State) (dt straps v : Nat) (b : Blk),
      (b = s.blk.tick dt) ∧
      (v = bits straps 0 1 + 16 * bits straps 4 4 + 256 * bits straps 8 3 + 2048 * bits straps 11 1) ∧
      (7 ≤ b.pwr.at_ ∧ v ≠ b.rd F.SYS_STRAPS_SEAT 0 + 16 * b.rd F.SYS_STRAPS_SLOT 0 + 256 * b.rd F.SYS_STRAPS_ENS_POS 0 + 2048 * b.rd F.ACG_MODE_STRAP 0)) ∧
    (∃ (s : State) (dt : Nat) (b : Blk),
      (b = s.blk.tick dt) ∧
      (3 ≤ b.pwr.at_ ∧ b.pwr.at_ < 9) ∧
      (b.rd F.HSW_STAT_PRESENT 0 = 0 ∨ ejectAsserted b = true)) := by
  refine ⟨?_, ?_, ?_⟩
  · exact ⟨State.reset.withBlk { pwr := { at_ := 7 } }, 0, _, rfl, by decide +kernel⟩
  · exact ⟨State.reset.withBlk { pwr := { at_ := 9 } }, 0, 1, _, _, rfl, rfl, by decide +kernel⟩
  · exact ⟨State.reset.withBlk (({ pwr := { at_ := 3 } } : Blk).wr F.HSW_STAT_PRESENT 0 0), 0, _, rfl, by decide +kernel, by decide +kernel⟩

/-- What PowerCommandsLoss assumes can be met: resetNAssert, moduleReset, moduleResetLeaves, powerFault, powerFaultLeaves,
powerOffLeaves, uvWarning, railLoss. -/
theorem witness_PowerCommandsLoss_1 :
    (∃ (s : State) (dt : Nat) (b : Blk),
      (b = s.blk.tick dt)) ∧
    (∃ (s : State) (dt c t : Nat) (b : Blk),
      (b = s.blk.tick dt) ∧
      (b.pwr.reset = some (c, t) ∧ t ≤ b.now ∧ c ≠ 4)) ∧
    (∃ (c : Nat) (b : Blk),
      (b.pwr.rail = true)) ∧
    (∃ (s : State) (dt code : Nat) (b : Blk),
      (b = s.blk.tick dt) ∧
      (5 ≤ b.pwr.at_ ∧ 1 ≤ code ∧ code ≤ 3)) ∧
    (∃ (code : Nat) (b : Blk),
      (code < 8)) ∧
    (∃ (b : Blk) (state : Nat),
      (state < 8 ∧ b.pwr.rail = true)) ∧
    (∃ (s : State) (dt least : Nat) (b : Blk),
      (b = s.blk.tick dt) ∧
      (5 ≤ b.pwr.at_ ∧ least < 10 * b.rd F.HSW_LIMITS_UV_WARN 0)) ∧
    (∃ (s : State) (dt : Nat) (uv : Bool) (b : Blk),
      (b = s.blk.tick dt) ∧
      (b.pwr.rail = true) ∧
      (uv = true ∨ b.rd F.HSW_STAT_PRESENT 0 = 0)) := by
  refine ⟨?_, ?_, ?_, ?_, ?_, ?_, ?_, ?_⟩
  · exact ⟨State.reset, 0, _, rfl⟩
  · exact ⟨State.reset.withBlk { now := 20000000, pwr := { at_ := 9, reset := some (2, 20000000) } }, 0, 2, 20000000, _, rfl, by decide +kernel⟩
  · exact ⟨2, ({ pwr := { rail := true } } : Blk), by decide +kernel⟩
  · exact ⟨State.reset.withBlk { pwr := { at_ := 9 } }, 0, 1, _, rfl, by decide +kernel⟩
  · exact ⟨1, ({} : Blk), by decide +kernel⟩
  · exact ⟨({ pwr := { rail := true } } : Blk), 5, by decide +kernel⟩
  · exact ⟨State.reset.withBlk { pwr := { at_ := 9 } }, 0, 1000, _, rfl, by decide +kernel⟩
  · exact ⟨State.reset.withBlk { pwr := { at_ := 9, rail := true } }, 0, true, _, rfl, by decide +kernel, by decide +kernel⟩

/-- What PowerCommandsLoss assumes can be met: auxRailLoss, ejectWarning, ejectOwnRelease, ejectPowerOff, ejectorClosed,
ejectResetDue, shutdownPowerOff. -/
theorem witness_PowerCommandsLoss_2 :
    (∃ (s : State) (dt : Nat) (b : Blk),
      (b = s.blk.tick dt)) ∧
    (∃ (s : State) (dt : Nat) (b : Blk),
      (b = s.blk.tick dt) ∧
      (ejectAsserted b = true ∧ b.pwr.at_ = 9 ∧ b.pwr.warned = none)) ∧
    (∃ (s : State) (dt t src : Nat) (b : Blk),
      (b = s.blk.tick dt) ∧
      (b.pwr.warned = some (t, src) ∧ b.pwr.warnedAt + 18000000 ≤ b.now) ∧
      (ownOut b = true ∧ b.pr.release.isSome = true ∧ b.pr.released = false)) ∧
    (∃ (s : State) (dt t src : Nat) (b : Blk),
      (b = s.blk.tick dt) ∧
      (b.pwr.warned = some (t, src) ∧ src ≠ 0 ∧ t + 20000000 ≤ b.up)) ∧
    (∃ (s : State) (dt t : Nat) (b : Blk),
      (b = s.blk.tick dt) ∧
      (b.pwr.warned = some (t, 0) ∧ b.pwr.reset = none) ∧
      (b.rd F.HSW_STAT_EJECT 0 = 0 ∧ b.rd F.HSW_STAT_PRESENT 0 ≠ 0)) ∧
    (∃ (s : State) (dt t : Nat) (b : Blk),
      (b = s.blk.tick dt) ∧
      (b.pwr.reset = some (3, t) ∧ t ≤ b.now)) ∧
    (∃ (s : State) (dt t : Nat) (b : Blk),
      (b = s.blk.tick dt) ∧
      (b.thm.shutAt = some t ∧ t + 20000000 ≤ b.now)) := by
  refine ⟨?_, ?_, ?_, ?_, ?_, ?_, ?_⟩
  · exact ⟨State.reset, 0, _, rfl⟩
  · exact ⟨State.reset.withBlk (({ pwr := { at_ := 9 } } : Blk).wr F.HSW_STAT_EJECT 0 2), 0, _, rfl, by decide +kernel⟩
  · let b : Blk := (({ now := 18000000, pwr := { at_ := 9, warned := some (0, 0) } } : Blk).wr F.PAIR_STAT_OWN_OUT 0 1)
    refine ⟨State.reset.withBlk (b.putPr { b.pr with release := some 0 }), 0, 0, 0, _, rfl, by decide +kernel, by decide +kernel⟩
  · exact ⟨State.reset.withBlk { up := 20000000, pwr := { at_ := 9, warned := some (0, 1) } }, 0, 0, 1, _, rfl, by decide +kernel⟩
  · exact ⟨State.reset.withBlk (({ pwr := { at_ := 9, warned := some (0, 0) } } : Blk).wr F.HSW_STAT_PRESENT 0 1 |>.wr F.HSW_STAT_EJECT 0 0), 0, 0, _, rfl, by decide +kernel, by decide +kernel⟩
  · exact ⟨State.reset.withBlk { pwr := { at_ := 9, reset := some (3, 0) } }, 0, 0, _, rfl, by decide +kernel⟩
  · exact ⟨State.reset.withBlk { now := 20000000, thm := { shutAt := some 0 } }, 0, 0, _, rfl, by decide +kernel⟩

/-- What ThermalCommands assumes can be met: sensorConversion, convertTakes, sensorFailed, sensorRecovered, levelFall,
throttleInterval, throttleFall, stepInEffect. -/
theorem witness_ThermalCommands_1 :
    (∃ (s : State) (dt : Nat) (temps : List (Option Int)) (b c : Blk),
      (b = s.blk.tick dt) ∧
      (c = forEach ((temps.take 39).zipIdx) (fun e => convert e.2 e.1) b)) ∧
    (∃ (n : Nat) (t : Int) (b : Blk),
      (-400 ≤ t ∧ t ≤ 1500)) ∧
    (∃ (s : State) (dt n : Nat) (b : Blk),
      (b = s.blk.tick dt) ∧
      (n < 39 ∧ b.rd F.THM_TEMP_FAILED 0 n = 0) ∧
      (failCause b n ≠ 0)) ∧
    (∃ (s : State) (dt n t : Nat) (b : Blk),
      (b = s.blk.tick dt) ∧
      (mget b.thm.validAt n = some t ∧ t + 60000000000 ≤ b.now) ∧
      (Machine.sensorFailed b n = true ∧ disagrees b n = false)) ∧
    (∃ (s : State) (dt t : Nat) (b : Blk),
      (b = s.blk.tick dt) ∧
      (b.thm.coolAt = some t ∧ t + 10000000000 ≤ b.now) ∧
      (b.rd F.THM_STAT_LEVEL 0 ≠ 0 ∧ b.rd F.THM_STAT_LEVEL 0 ≠ 4 ∧ allCool b = true)) ∧
    (∃ (s : State) (dt t : Nat) (b : Blk) (hot : Bool),
      (b = s.blk.tick dt) ∧
      (b.thm.intervalAt = some t ∧ t + 500000000 ≤ b.now) ∧
      (hot = (List.range 39).any fun n => Nat.ble 2 (sensorLevel b n))) ∧
    (∃ (s : State) (dt : Nat) (b : Blk),
      (b = s.blk.tick dt) ∧
      (b.rd F.THM_STAT_LEVEL 0 < 2 ∧ b.thm.step ≠ 0 ∧ b.thm.stepFallAt + 5000000000 ≤ b.now)) ∧
    (∃ (k : Nat) (b : Blk) (n : Nat),
      (n = Nat.max k (b.rd F.THM_CFG_TEST_STEP 0))) := by
  refine ⟨?_, ?_, ?_, ?_, ?_, ?_, ?_, ?_⟩
  · exact ⟨State.reset, 0, [some 400], _, _, rfl, rfl⟩
  · exact ⟨3, 400, ({} : Blk), by decide +kernel⟩
  · exact ⟨State.reset.withBlk { now := 10000000 }, 0, 3, _, rfl, by decide +kernel, by decide +kernel⟩
  · exact ⟨State.reset.withBlk (({ now := 60000000000, thm := { validAt := [(30, 0)] } } : Blk).wr F.THM_TEMP_FAILED 0 1 30), 0, 30, 0, _, rfl, by decide +kernel, by decide +kernel⟩
  · exact ⟨State.reset.withBlk (({ now := 10000000000, thm := { coolAt := some 0 } } : Blk).wr F.THM_STAT_LEVEL 0 1), 0, 0, _, rfl, by decide +kernel, by decide +kernel⟩
  · exact ⟨State.reset.withBlk { now := 500000000, thm := { intervalAt := some 0 } }, 0, 0, _, _, rfl, by decide +kernel, rfl⟩
  · exact ⟨State.reset.withBlk { now := 5000000000, thm := { step := 2 } }, 0, _, rfl, by decide +kernel⟩
  · exact ⟨3, ({} : Blk), 3, by decide +kernel⟩

/-- What ThermalCommands assumes can be met: ocxoTempPass, ageingMeasure, lifeTick. -/
theorem witness_ThermalCommands_2 :
    (∃ (s : State) (dt : Nat) (b : Blk),
      (b = s.blk.tick dt) ∧
      (b.thm.passAt + 1000000000 ≤ b.now)) ∧
    (∃ (s : State) (dt top : Nat) (l : List Nat) (b c : Blk),
      (b = s.blk.tick dt) ∧
      (b.thm.ageAt + 86400000000000 ≤ b.now) ∧
      (top = maxD (l.take 24)) ∧
      (c = (b.putThm { b.thm with ageAt := b.now }).wr F.THM_AGE_SLOWDOWN 0 (Nat.min 65535 top))) ∧
    (∃ (s : State) (dt add : Nat) (hour : Bool) (b c : Blk),
      (b = s.blk.tick dt) ∧
      (b.thm.lifeAt + 1000000000 ≤ b.now) ∧
      (add = match hottestDie b with | some r => pow2c (r - 800) | none => 0) ∧
      (hour = decide (b.thm.lifeSavedAt + 3600000000000 ≤ b.now)) ∧
      (c = b.putThm { b.thm with
        lifeAt := b.now, life := b.thm.life + add, lifeSaved := if hour then b.thm.life + add else b.thm.lifeSaved,
        lifeSavedAt := if hour then b.now else b.thm.lifeSavedAt }) ∧
      ((b.thm.life + add) * 1000 / lifeSpan < 800 ∨ b.thm.lifeTold = true)) := by
  refine ⟨?_, ?_, ?_⟩
  · exact ⟨State.reset.withBlk { now := 1000000000 }, 0, _, rfl, by decide +kernel⟩
  · exact ⟨State.reset.withBlk { now := 86400000000000 }, 0, 500, [500], _, _, rfl, by decide +kernel, by decide +kernel, rfl⟩
  · exact ⟨State.reset.withBlk { now := 1000000000 }, 0, 0, false, _, _, rfl, by decide +kernel, by decide +kernel, by decide +kernel, rfl, by decide +kernel⟩

/-- What FrameStoreCommands assumes can be met: memAccessRead, memAccessCorrected, memAccessUncorrectable, memAccessWrite,
memAccessRefused, memAccessOutOfWindow, arbGrant, scrubRead. -/
theorem witness_FrameStoreCommands_1 :
    (∃ (s : State) (dt mid a n q : Nat) (l : List Nat) (beaten : Bool) (b : Blk),
      (b = s.blk.tick dt) ∧
      (q = storeAddr mid a b ∧ (mid = 0x01 → b.rd F.SYS_FSWIN_BASE 0 < usable b / 2 ^ 28)) ∧
      (fsGranted b mid q false = true ∧ q + n ≤ usable b ∧ spanMarked s.store q n = false)) ∧
    (∃ (s : State) (dt mid a n q flips skew w : Nat) (l : List Nat) (beaten : Bool) (b : Blk),
      (b = s.blk.tick dt) ∧
      (q = storeAddr mid a b ∧ (mid = 0x01 → b.rd F.SYS_FSWIN_BASE 0 < usable b / 2 ^ 28)) ∧
      (fsGranted b mid q false = true ∧ q + n ≤ usable b ∧ spanMarked s.store q n = false) ∧
      (readCoded s.store (q / 8) flips skew = (w, 1))) ∧
    (∃ (s : State) (dt mid a n q flips skew : Nat) (l : List Nat) (beaten : Bool) (b : Blk),
      (b = s.blk.tick dt) ∧
      (q = storeAddr mid a b ∧ (mid = 0x01 → b.rd F.SYS_FSWIN_BASE 0 < usable b / 2 ^ 28)) ∧
      (fsGranted b mid q false = true ∧ q + n ≤ usable b ∧ mid ≠ 0x14) ∧
      ((readCoded s.store (q / 8) flips skew).2 = 2 ∨ spanMarked s.store q n = true)) ∧
    (∃ (s : State) (dt mid a n q : Nat) (l : List Nat) (beaten : Bool) (b : Blk),
      (b = s.blk.tick dt) ∧
      (q = storeAddr mid a b ∧ (mid = 0x01 → b.rd F.SYS_FSWIN_BASE 0 < usable b / 2 ^ 28)) ∧
      (fsGranted b mid q true = true ∧ q + n ≤ usable b) ∧
      (8 ≤ n ∨ s.store.isMarked q = false) ∧
      ((mid = 0x01 ∨ mid = 0x04) → copyDiscards b = false ∧ b.on F.PAIR_EPOCH_FILL_HELD 0 = false ∧ copying b = false)) ∧
    (∃ (s : State) (dt mid a n q flips skew : Nat) (write : Bool) (l : List Nat) (beaten : Bool) (b : Blk),
      (b = s.blk.tick dt) ∧
      (q = storeAddr mid a b ∧ (mid = 0x01 → b.rd F.SYS_FSWIN_BASE 0 < usable b / 2 ^ 28)) ∧
      (fsGranted b mid q write = false ∧ mid ≠ 0x14)) ∧
    (∃ (s : State) (dt a n flips skew : Nat) (write misroute : Bool) (l : List Nat) (beaten : Bool) (b : Blk),
      (b = s.blk.tick dt) ∧
      (usable b / 2 ^ 28 ≤ b.rd F.SYS_FSWIN_BASE 0)) ∧
    (∃ (s : State) (dt ch : Nat) (l : List Req) (r : Req) (b : Blk),
      (b = s.blk.tick dt) ∧
      (urgentFirst b l = some r ∨ (urgentFirst b l = none ∧ byTags b.mem.tags ch l = some r))) ∧
    (∃ (s : State) (dt : Nat) (beaten : Bool) (b : Blk),
      (b = s.blk.tick dt) ∧
      (b.mem.passAt + b.mem.scrub * passNs b / usable b ≤ b.now) ∧
      (s.store.isMarked b.mem.scrub = false)) := by
  refine ⟨?_, ?_, ?_, ?_, ?_, ?_, ?_, ?_⟩
  · exact ⟨State.reset.withBlk (({} : Blk).wr F.ACG_MODE_MODE 0 1), 0, 0x17, 64, 8, 64, [], false, _, rfl, by decide +kernel, by decide +kernel⟩
  · exact ⟨State.reset.withBlk (({} : Blk).wr F.ACG_MODE_MODE 0 1), 0, 0x17, 64, 8, 64, 4, 0, 0, [], false, _, rfl, by decide +kernel, by decide +kernel, by decide +kernel⟩
  · exact ⟨State.reset.withBlk (({} : Blk).wr F.ACG_MODE_MODE 0 1), 0, 0x17, 64, 8, 64, 3, 0, [], false, _, rfl, by decide +kernel, by decide +kernel, by decide +kernel⟩
  · exact ⟨State.reset.withBlk (({} : Blk).wr F.ACG_MODE_MODE 0 0), 0, 0x01, 64, 8, 64, [1, 2, 3, 4, 5, 6, 7, 8], false, _, rfl, by decide +kernel, by decide +kernel, by decide, by decide +kernel⟩
  · exact ⟨State.reset.withBlk (({} : Blk).wr F.ACG_MODE_MODE 0 1), 0, 0x3F, 64, 8, 64, 0, 0, true, [1, 2, 3, 4, 5, 6, 7, 8], false, _, rfl, by decide +kernel, by decide +kernel⟩
  · exact ⟨State.reset.withBlk (({} : Blk).wr F.SYS_FSWIN_BASE 0 4095), 0, 64, 8, 0, 0, true, false, [1], false, _, rfl, by decide +kernel⟩
  · exact ⟨State.reset, 0, 0, [(32, 0, 64, 0)], (32, 0, 64, 0), _, rfl, by decide +kernel⟩
  · exact ⟨State.reset, 0, false, _, rfl, by decide +kernel, by decide +kernel⟩

/-- What FrameStoreCommands assumes can be met: scrubNextWord, sramPatrolCorrected, sramPatrol, heldWindow, ceHour,
crcTrigger, crcRunEnd, crcRunEndUnread. -/
theorem witness_FrameStoreCommands_2 :
    (∃ (b : Blk),
      (b.mem.scrub + 8 < usable b)) ∧
    (∃ (s : State) (dt region word flips skew x y z : Nat) (b c : Blk) (n : Nat),
      (b = s.blk.tick dt) ∧
      ((readCoded {} word flips skew).2 = 1) ∧
      (errorTold 8 1 (b.bump F.MEM_SRAM_CE_COUNT 8) = (c, some n))) ∧
    (∃ (s : State) (dt region word flips skew x y z : Nat) (b c : Blk),
      (b = s.blk.tick dt) ∧
      ((readCoded {} word flips skew).2 = 2) ∧
      (c = ((b.bump F.MEM_SRAM_UE_COUNT 8).wr F.MEM_SRAM_LAST_REGION 8 region).wr F.MEM_SRAM_LAST_WORD 8 word)) ∧
    (∃ (s : State) (dt ch util urgent ing codec sys scrub : Nat) (b : Blk),
      (b = s.blk.tick dt) ∧
      (ing ≤ 50 ∧ codec ≤ 50 ∧ sys ≤ 50)) ∧
    (∃ (s : State) (dt ch : Nat) (b c : Blk),
      (b = s.blk.tick dt) ∧
      (b.now / 3600000000000 ≠ mgetD b.mem.hourAt ch 0) ∧
      (c = { b with mem := { b.mem with hourAt := mset b.mem.hourAt ch (b.now / 3600000000000), hours := mset b.mem.hours ch 0 } })) ∧
    (∃ (s : State) (dt u base : Nat) (hold : Option (Nat × Nat)) (t : List (Nat × Option (Nat × Nat))) (b c : Blk),
      (b = s.blk.tick dt) ∧
      ((b.unitCrc u).trigs = (base, hold) :: t) ∧
      (c = b.putCrc u { b.unitCrc u with trigs := t })) ∧
    (∃ (s : State) (dt u : Nat) (r : CrcRun) (b c : Blk),
      (b = s.blk.tick dt) ∧
      ((b.unitCrc u).run = some r) ∧
      (crcUnread b s.store u r = none ∧ r.began + crcBytes b u / 4 ≤ b.now) ∧
      (c = crcIdle u (((b.putCrc u { b.unitCrc u with run := none }).bump F.CRC_RUNS_COUNT u).step F.CRC_SEQ_VALUE u))) ∧
    (∃ (s : State) (dt u a : Nat) (disturbed : Bool) (r : CrcRun) (b : Blk),
      (b = s.blk.tick dt) ∧
      ((b.unitCrc u).run = some r) ∧
      (crcUnread b s.store u r = some a)) := by
  refine ⟨?_, ?_, ?_, ?_, ?_, ?_, ?_, ?_⟩
  · exact ⟨({} : Blk), by decide +kernel⟩
  · exact ⟨State.reset, 0, 1, 0, 16, 0, 0, 0, 0, _, _, _, rfl, by decide +kernel, rfl⟩
  · exact ⟨State.reset, 0, 1, 0, 3, 0, 0, 0, 0, _, _, rfl, by decide +kernel, rfl⟩
  · exact ⟨State.reset, 0, 1, 90, 10, 20, 20, 20, 5, _, rfl, by decide⟩
  · exact ⟨State.reset.withBlk { now := 3600000000000 }, 0, 1, _, _, rfl, by decide +kernel, rfl⟩
  · exact ⟨State.reset.withBlk { crc := [(3, { trigs := [(0, none)] })] }, 0, 3, 0, none, [], _, _, rfl, by decide +kernel, rfl⟩
  · exact ⟨State.reset.withBlk { crc := [(3, { run := some ⟨0, 0, 0, 0, none⟩ })], now := 100000000 }, 0, 3, ⟨0, 0, 0, 0, none⟩, _, _, rfl, by decide +kernel, by decide +kernel, rfl⟩
  · exact ⟨(State.reset.withBlk { crc := [(3, { run := some ⟨0, 0, 0, 0, none⟩ })], now := 100000000 }).withBoth (({ crc := [(3, { run := some ⟨0, 0, 0, 0, none⟩ })], now := 100000000 } : Blk).wr F.ACG_MODE_MODE 0 1) { marked := [(0, 0)] }, 0, 3, 0, false, ⟨0, 0, 0, 0, none⟩, _, rfl, by decide +kernel, by decide +kernel⟩

/-- What NetworkCommands assumes can be met: ethFrameRx, dropReport, queryRx, queryRxNew, oldQuerierTimeout, reportRepeat,
arpReply, addrConflict. -/
theorem witness_NetworkCommands_1 :
    (∃ (s : State) (dt n : Nat) (f : EthRx) (b : Blk),
      (b = s.blk.tick dt) ∧
      (b.on F.NIF_STAT_LINK n = true)) ∧
    (∃ (s : State) (dt n t : Nat) (b : Blk),
      (b = s.blk.tick dt) ∧
      ((b.port n).dropAt = some t ∧ t + 1000000000 ≤ b.now)) ∧
    (∃ (s : State) (dt n version group : Nat) (b c : Blk),
      (b = s.blk.tick dt) ∧
      (b.on F.NIF_STAT_LINK n = true ∧ olderVersion version = true) ∧
      (c = (if b.on F.NIF_STAT_OLD_QUERIER n then b.putPort n { b.port n with oldAt := b.now } else raise (nifPage n) 0x103 sevNotice (version % 65536 + 65536 * n) 0
        ((b.putPort n { b.port n with oldAt := b.now }).wr F.NIF_STAT_OLD_QUERIER n 1)))) ∧
    (∃ (s : State) (dt n version group : Nat) (b : Blk),
      (b = s.blk.tick dt) ∧
      (b.on F.NIF_STAT_LINK n = true ∧ olderVersion version = false)) ∧
    (∃ (s : State) (dt n : Nat) (b : Blk),
      (b = s.blk.tick dt) ∧
      ((b.port n).oldAt + olderQuerierNs ≤ b.now)) ∧
    (∃ (s : State) (dt n g t : Nat) (b c : Blk),
      (b = s.blk.tick dt) ∧
      ((g, t) ∈ (b.port n).repeats ∧ t ≤ b.now) ∧
      (c = b.putPort n { b.port n with repeats := (b.port n).repeats.filter fun e => !(e.1 == g && Nat.ble e.2 b.now) })) ∧
    (∃ (s : State) (dt n addr : Nat) (v6 : Bool) (b : Blk),
      (b = s.blk.tick dt) ∧
      (b.on F.NIF_STAT_LINK n = true) ∧
      ((v6 = true ∧ addr = ip6Of b n) ∨ (v6 = false ∧ addr ≠ 0 ∧ addr = ip4Of b n))) ∧
    (∃ (s : State) (dt n : Nat) (b c : Blk),
      (b = s.blk.tick dt) ∧
      (c = raise (nifPage n) 0x104 sevWarning (0 % 65536 + 65536 * n) 0 b)) := by
  refine ⟨?_, ?_, ?_, ?_, ?_, ?_, ?_, ?_⟩
  · exact ⟨State.reset.withBlk (({} : Blk).wr F.NIF_STAT_LINK 2 1), 0, 2, ⟨true, 64, [], .other, none, .query⟩, _, rfl, by decide +kernel⟩
  · exact ⟨State.reset.withBlk { now := 1000000000, nif := [(2, { dropAt := some 0, dropWhy := 3 })] }, 0, 2, 0, _, rfl, by decide +kernel⟩
  · exact ⟨State.reset.withBlk (({} : Blk).wr F.NIF_STAT_LINK 2 1), 0, 2, 1, 0, _, _, rfl, by decide +kernel, rfl⟩
  · exact ⟨State.reset.withBlk (({} : Blk).wr F.NIF_STAT_LINK 2 1), 0, 2, 0, 0, _, rfl, by decide +kernel⟩
  · exact ⟨State.reset.withBlk { now := 260000000000 }, 0, 2, _, rfl, by decide +kernel⟩
  · exact ⟨State.reset.withBlk { now := 5, nif := [(2, { repeats := [(7, 3)] })] }, 0, 2, 7, 3, _, _, rfl, by decide +kernel, rfl⟩
  · exact ⟨State.reset.withBlk ((({} : Blk).wr F.NIF_STAT_LINK 2 1).wr F.NIF_IP4_ADDR 2 7), 0, 2, 7, false, _, rfl, by decide +kernel, by decide +kernel⟩
  · exact ⟨State.reset, 0, 2, _, _, rfl, rfl⟩

/-- What NetworkCommands assumes can be met: nifLinkUp, nifLinkDown, fecReport. -/
theorem witness_NetworkCommands_2 :
    (∃ (s : State) (dt n : Nat) (b c : Blk),
      (b = s.blk.tick dt) ∧
      (b.rd F.PG_CTRL_ENABLE (nifPage n).slot = 1 ∧ b.rd F.NIF_CFG_SPEED n ≠ 0 ∧ b.on F.NIF_STAT_LINK n = false) ∧
      (c = raise (nifPage n) 0x100 sevNotice (b.rd F.NIF_CFG_SPEED n % 65536 + 65536 * n) (evB 0)
        ((((b.wr F.NIF_STAT_LINK n 1).wr F.NIF_STAT_SPEED_ACT n (b.rd F.NIF_CFG_SPEED n)).put F.NIF_STAT_AN_DONE n (b.on F.NIF_CFG_AN_EN n)).put
        F.NIF_STAT_FEC_ALIGNED n (!(b.rd F.NIF_CFG_SPEED n == 1 && b.on F.NIF_CFG_FEC_OFF n))))) ∧
    (∃ (s : State) (dt n cause : Nat) (b : Blk),
      (b = s.blk.tick dt) ∧
      (b.on F.NIF_STAT_LINK n = true)) ∧
    (∃ (s : State) (dt n corrected codewords : Nat) (b c : Blk) (due : Bool),
      (b = s.blk.tick dt) ∧
      (c = (b.bump F.NIF_FEC_CORR_COUNT n corrected).bump F.NIF_FEC_UNCORR_COUNT n codewords) ∧
      (due = ((b.port n).fecCount + codewords != 0 && (match (b.port n).fecAt with | some t => Nat.ble (t + 1000000000) b.now | none => true)))) := by
  refine ⟨?_, ?_, ?_⟩
  · exact ⟨State.reset.withBlk ((({} : Blk).wr F.PG_CTRL_ENABLE 0x102 1).wr F.NIF_CFG_SPEED 2 1), 0, 2, _, _, rfl, by decide +kernel, rfl⟩
  · exact ⟨State.reset.withBlk (({} : Blk).wr F.NIF_STAT_LINK 2 1), 0, 2, 1, _, rfl, by decide +kernel⟩
  · exact ⟨State.reset, 0, 2, 5, 1, _, _, _, rfl, rfl, rfl⟩

/-- What IngestCommands assumes can be met: rtpPacketRxKnown, rtpPacketRxRefused, rtpAccepted, rtpLockTaken, pathDown,
pathDownAncillary, skewTimeout, assemblyTimeout. -/
theorem witness_IngestCommands_1 :
    (∃ (s : State) (dt c : Nat) (p : RtpPkt) (b d : Blk) (a a' : Asm) (q t : Blk × FrameStore),
      (b = s.blk.tick dt) ∧
      (p.flow ∈ flowsOf b c ∧ p.flow < 2 ∧ (rtpAccept c p b).2 = true) ∧
      (d = pathSeen c p.flow (rtpAccept c p b).1) ∧
      (doneNo d c p.ts = none ∧ asmOf d c p.ts = some a) ∧
      (q = endsBefore c p.flow a.no d s.store ∧ asmOf q.1 c p.ts = some a') ∧
      (t = takePacket c a' p q.1 q.2)) ∧
    (∃ (s : State) (dt c : Nat) (p : RtpPkt) (b : Blk),
      (b = s.blk.tick dt) ∧
      (p.flow ∈ flowsOf b c ∧ p.flow < 2) ∧
      (b.on F.ING_FLOW_PORT_SSM c p.flow = false ∨ p.src = b.rd F.ING_FLOW_SRC_ADDR c p.flow) ∧
      (p.version ≠ 2 ∨ p.pt ≠ b.rd F.ING_CTRL_PT c)) ∧
    (∃ (c k src version pt ssrc : Nat) (b : Blk),
      (b.on F.ING_FLOW_PORT_SSM c k = false ∨ src = b.rd F.ING_FLOW_SRC_ADDR c k) ∧
      (version = 2 ∧ pt = b.rd F.ING_CTRL_PT c) ∧
      ((b.chan c).lock k = none ∨ (b.chan c).lock k = some ssrc)) ∧
    (∃ (x : IngCh) (k ssrc : Nat),
      (k < 3)) ∧
    (∃ (s : State) (dt c k : Nat) (b d : Blk),
      (b = s.blk.tick dt) ∧
      ((k = 0 ∧ (b.chan c).last0 + 1000000 * b.rd F.ING_ASM_PATH_TO c ≤ b.now) ∨ (k = 1 ∧ (b.chan c).last1 + 1000000 * b.rd F.ING_ASM_PATH_TO c ≤ b.now)) ∧
      (pathUp b c k = true) ∧
      (d = raise (ingPage c) 0x101 sevWarning (k % 65536 + 65536 * c) (evB 2) (putPath c k false b))) ∧
    (∃ (s : State) (dt c : Nat) (b : Blk),
      (b = s.blk.tick dt) ∧
      ((b.chan c).lastAnc + 1000000 * b.rd F.ING_ASM_PATH_TO c ≤ b.now)) ∧
    (∃ (s : State) (dt c : Nat) (b : Blk),
      (b = s.blk.tick dt)) ∧
    (∃ (s : State) (dt c : Nat) (b : Blk),
      (b = s.blk.tick dt)) := by
  refine ⟨?_, ?_, ?_, ?_, ?_, ?_, ?_, ?_⟩
  · exact ⟨State.reset.withBlk (((({ ing := [(0, { asms := [{ rtp := 9, began := 0, buf := 0, firstSeq := 0 }] })] } : Blk).wr F.PG_CTRL_ENABLE 0x120 1).wr F.ING_CTRL_KIND 0 1).wr F.ING_CTRL_PT 0 96), 0, 0, ⟨0, 0, 2, 96, 0, 1, false, 9, false, [], false⟩, _, _, { rtp := 9, began := 0, buf := 0, firstSeq := 0 }, { rtp := 9, began := 0, buf := 0, firstSeq := 0 }, _, _, rfl, by decide +kernel, rfl, by decide +kernel, ⟨rfl, by decide +kernel⟩, rfl⟩
  · exact ⟨State.reset.withBlk ((({} : Blk).wr F.PG_CTRL_ENABLE 0x120 1).wr F.ING_CTRL_KIND 0 1), 0, 0, ⟨0, 0, 1, 96, 0, 1, false, 9, false, [], false⟩, _, rfl, by decide +kernel, by decide +kernel, by decide⟩
  · exact ⟨0, 2, 0, 2, 0, 5, (({} : Blk).wr F.ING_CTRL_PT 0 0), by decide +kernel, by decide +kernel, by decide +kernel⟩
  · exact ⟨{}, 1, 7, by decide +kernel⟩
  · exact ⟨State.reset.withBlk (({ now := 1000000000 } : Blk).wr F.ING_STAT_PATH0_UP 0 1), 0, 0, 0, _, _, rfl, by decide +kernel, by decide +kernel, rfl⟩
  · exact ⟨State.reset.withBlk { now := 1000000000 }, 0, 0, _, rfl, by decide +kernel⟩
  · exact ⟨State.reset, 0, 0, _, rfl⟩
  · exact ⟨State.reset, 0, 0, _, rfl⟩

/-- What IngestCommands assumes can be met: completesFrames, rtcpSrRx, rtcpSrExpiry, frameEligible, ancPacketRx,
ancDataTimecode, deadlinePassed, prompterDecision. -/
theorem witness_IngestCommands_2 :
    (∃ (c : Nat) (cond : Blk → Asm → Bool) (b : Blk) (m : FrameStore) (a : Asm),
      ((b.chan c).asms = [a])) ∧
    (∃ (s : State) (dt c ntp rtp : Nat) (b : Blk),
      (b = s.blk.tick dt) ∧
      (flowsOf b c ≠ [])) ∧
    (∃ (s : State) (dt c p r t : Nat) (b : Blk),
      (b = s.blk.tick dt) ∧
      ((b.chan c).sr = some (p, r, t) ∧ t + 30000000000 ≤ b.now)) ∧
    (∃ (s : State) (dt c : Nat) (q : Ready) (g : Frame) (b b' d e : Blk),
      (b = s.blk.tick dt) ∧
      (takeReady c (·.kind == 1) b = some (q, b')) ∧
      (frameTimes c q.dest q q.f b' = (d, g)) ∧
      (e = (let sigs := frameSigs d c q.sampling (8 + 2 * q.depth) q.f.lay s.store
        let d' := d.wr F.ING_SIGDIG_DIGEST c (crc32c (sigs.flatMap (leBytes 4)))
        showEligible c q.dest { g with sigs := sigs, tc := d.rd F.ING_TC_TC c }
        (makeEligible q.dest none { g with sigs := sigs, tc := d.rd F.ING_TC_TC c }
        (if d'.rd F.ING_SIG_PULSE_KIND c = 1 then pulseSample c (regionSigs d' c (cdiv g.lay.w 64) sigs) d' else d'))))) ∧
    (∃ (s : State) (dt c : Nat) (p : AncPkt) (b d : Blk),
      (b = s.blk.tick dt) ∧
      (2 ∈ flowsOf b c) ∧
      (flowAccept c 2 p.src p.version p.pt p.ssrc b = (d, true))) ∧
    (∃ (c did sdid : Nat) (udw : List Nat) (b e : Blk),
      (e = if did = 0x60 ∧ sdid = 0x60 then b.wr F.ING_TC_TC c (timecode udw) else b)) ∧
    (∃ (s : State) (dt st k : Nat) (p : Place) (f : Frame) (d : Nat) (b c : Blk),
      (b = s.blk.tick dt) ∧
      (b.place st k = some p ∧ p.shown = some f) ∧
      (passedDeadlines b.now f = [d] ∧ deadlineBites b st d p = true) ∧
      (c = refreshLayer p.layer 0 (rejudge st k 0 false true d d b))) ∧
    (∃ (s : State) (dt l : Nat) (b : Blk),
      (b = s.blk.tick dt)) := by
  refine ⟨?_, ?_, ?_, ?_, ?_, ?_, ?_, ?_⟩
  · exact ⟨0, fun _ _ => true, ({ ing := [(0, { asms := [{ rtp := 9, began := 0, buf := 0, firstSeq := 0 }] })] } : Blk), {}, { rtp := 9, began := 0, buf := 0, firstSeq := 0 }, rfl⟩
  · exact ⟨State.reset.withBlk ((({} : Blk).wr F.PG_CTRL_ENABLE 0x120 1).wr F.ING_CTRL_KIND 0 1), 0, 0, 5, 6, _, rfl, by decide +kernel⟩
  · exact ⟨State.reset.withBlk { now := 30000000000, ing := [(0, { sr := some (1, 2, 0) })] }, 0, 0, 1, 2, 0, _, rfl, by decide +kernel⟩
  · exact ⟨State.reset.withBlk { ing := [(0, { ready := [⟨{}, 1, 0, 0, 0, 25, 1, 0⟩] })] }, 0, 0, ⟨{}, 1, 0, 0, 0, 25, 1, 0⟩, _, _, _, _, _, rfl, rfl, rfl, rfl⟩
  · exact ⟨State.reset.withBlk (((({} : Blk).wr F.PG_CTRL_ENABLE 0x120 1).wr F.ING_CTRL_KIND 0 1).wr F.ING_CTRL_ANC_EN 0 1), 0, 0, ⟨0, 2, 96, 5, []⟩, _, (flowAccept 0 2 0 2 96 5 ((State.reset.withBlk ((({} : Blk).wr F.PG_CTRL_ENABLE 0x120 1 |>.wr F.ING_CTRL_KIND 0 1).wr F.ING_CTRL_ANC_EN 0 1)).blk.tick 0)).1, rfl, by decide +kernel, Prod.ext rfl (by decide +kernel)⟩
  · exact ⟨0, 0x60, 0x60, [], ({} : Blk), _, rfl⟩
  · refine ⟨State.reset.withBlk { prm := { places := [(0, { layer := 3, vis := ⟨0, 0, 8, 8⟩, alpha := 1023, dst := ⟨0, 0, 8, 8⟩, verdict := 1, disp := some { serial := 1, stale := 10 } })] } }, 0, 0, 0, { layer := 3, vis := ⟨0, 0, 8, 8⟩, alpha := 1023, dst := ⟨0, 0, 8, 8⟩, verdict := 1, disp := some { serial := 1, stale := 10 } }, { serial := 1, stale := 10 }, 0, _, _, rfl, by decide +kernel, by decide +kernel, rfl⟩
  · exact ⟨State.reset, 0, 0, _, rfl⟩

/-- What IngestCommands assumes can be met: pulseChange, freezes. -/
theorem witness_IngestCommands_3 :
    (∃ (s : State) (dt l : Nat) (b : Blk),
      (b = s.blk.tick dt)) ∧
    (∃ (l : Nat) (b : Blk) (t : Nat),
      ((layerPol b l).cls ≠ 2 ∧ (layerPol b l).usePulse = true) ∧
      ((b.layer l).pulseAt = some t ∧ t + (layerPol b l).pulseMax ≤ b.now) ∧
      ((b.layer l).frozen = false)) := by
  refine ⟨?_, ?_⟩
  · exact ⟨State.reset, 0, 0, _, rfl⟩
  · exact ⟨3, ({ now := 100000000000, prm := { layers := [(3, { pulseAt := some 0 })] } } : Blk).wr F.PRM_POL_CTRL_USE_PULSE 24 1, 0, by decide +kernel, by decide +kernel, by decide +kernel⟩

/-- What ContactCommands assumes can be met: sigSample, oneSample, contactDebounced, debouncedRun, contactStuck,
unsettledTimeout, chatterEnd. -/
theorem witness_ContactCommands :
    (∃ (s : State) (dt levels : Nat) (b : Blk),
      (b = s.blk.tick dt)) ∧
    (∃ (b : Blk) (levels j : Nat) (act : Bool),
      (j < 16) ∧
      (act = (bit levels j == b.on F.SIG_CFG_ACTIVE_HIGH 0 j))) ∧
    (∃ (s : State) (dt j : Nat) (b : Blk) (r : Nat × Contact),
      (b = s.blk.tick dt) ∧
      (b.on F.SIG_CFG_EN 0 j = true ∧ sigState b j ≠ 4 ∧ (b.contact j).due (sigDeb b j) = true) ∧
      (r = (b.contact j).debounced b.now (b.rd F.SIG_CFG_CH_N 0 j) (sigWin b j) (sigState b j))) ∧
    (∃ (c : Contact) (now chN chWin state : Nat),
      (c.settled = some (!c.level)) ∧
      (((c.changes ++ [now]).filter fun t => Nat.ble now (t + chWin)).length < chN)) ∧
    (∃ (s : State) (dt j : Nat) (b : Blk),
      (b = s.blk.tick dt) ∧
      (sigState b j = 1 ∨ sigState b j = 2) ∧
      ((b.contact j).since + b.rd F.SIG_STUCK_STUCK_T 0 j * 1000000000 ≤ b.now)) ∧
    (∃ (s : State) (dt j t : Nat) (b : Blk),
      (b = s.blk.tick dt) ∧
      ((b.contact j).openAt = some t ∧ t + sigWin b j ≤ b.now) ∧
      (b.on F.SIG_CFG_EN 0 j = true ∧ sigState b j ≠ 4)) ∧
    (∃ (s : State) (dt j : Nat) (b : Blk),
      (b = s.blk.tick dt) ∧
      (sigState b j = 4) ∧
      ((b.contact j).lastChange + Nat.max (sigWin b j) (100000 * sigDeb b j) ≤ b.now)) := by
  refine ⟨?_, ?_, ?_, ?_, ?_, ?_, ?_⟩
  · exact ⟨State.reset, 0, 0, _, rfl⟩
  · exact ⟨({} : Blk), 0, 3, _, by decide, rfl⟩
  · exact ⟨State.reset.withBlk (({ contacts := [(3, { fresh := false, run := 1000, level := true })] } : Blk).wr F.SIG_CFG_EN 0 1 3), 0, 3, _, _, rfl, by decide +kernel, rfl⟩
  · exact ⟨{ level := true, settled := some false }, 5, 6, 7, 0, by decide +kernel⟩
  · exact ⟨State.reset.withBlk (({ now := 1000000000000000 } : Blk).wr F.SIG_STATE_STATE3 0 1), 0, 3, _, rfl, by decide +kernel, by decide +kernel⟩
  · exact ⟨State.reset.withBlk (({ now := 1000000000000000, contacts := [(3, { openAt := some 0 })] } : Blk).wr F.SIG_CFG_EN 0 1 3), 0, 3, 0, _, rfl, by decide +kernel, by decide +kernel⟩
  · exact ⟨State.reset.withBlk (({ now := 1000000000000000 } : Blk).wr F.SIG_STATE_STATE3 0 4), 0, 3, _, rfl, by decide +kernel, by decide +kernel⟩

/-- What ShowCommands assumes can be met: sapAnnouncementNew, sapAnnouncementIgnored, sapAnnouncementAgain, sapDeletion,
sessionTimeout, endsSession, showStart, showRetile. -/
theorem witness_ShowCommands_1 :
    (∃ (s : State) (dt port id : Nat) (sdp : Sdp) (b : Blk),
      (b = s.blk.tick dt) ∧
      (discovers b = true ∧ b.on F.NIF_STAT_LINK port = true) ∧
      ((∀ x ∈ b.sessions, x.id ≠ id) ∧ b.sessions.length < 128)) ∧
    (∃ (s : State) (dt port id : Nat) (encrypted compressed : Bool) (sdp : Sdp) (b : Blk),
      (b = s.blk.tick dt) ∧
      (encrypted = true ∨ compressed = true)) ∧
    (∃ (s : State) (dt port id : Nat) (sdp : Sdp) (b : Blk),
      (b = s.blk.tick dt) ∧
      (discovers b = true ∧ b.on F.NIF_STAT_LINK port = true) ∧
      (∃ x ∈ b.sessions, x.id = id)) ∧
    (∃ (s : State) (dt id : Nat) (b : Blk),
      (b = s.blk.tick dt) ∧
      (discovers b = true)) ∧
    (∃ (s : State) (dt id : Nat) (x : Session) (b : Blk),
      (b = s.blk.tick dt) ∧
      (discovers b = true ∧ (b.sessions.find? fun y => y.id == id) = some x) ∧
      (x.last + Nat.max (10 * x.interval) 3600000000000 ≤ b.now)) ∧
    (∃ (b : Blk) (id : Nat) (x : Session),
      ((b.sessions.find? fun y => y.id == id) = some x)) ∧
    (∃ (s : State) (dt : Nat) (b c : Blk) (r : Blk × FrameStore),
      (b = s.blk.tick dt) ∧
      (b.on F.SYS_HOST_CLAIM_CLAIM 0 = false ∧ b.rd F.SYS_STAT_SHOW 0 = 0 ∧ b.on F.SYS_STAT_OPERATING 0 = true ∧ role b = 3) ∧
      (b.rd F.SYS_OPER_TIME_TIME 0 + 3000000000 ≤ b.now) ∧
      (c = raiseAs 0 sysPage 0x102 sevNotice (showHeads b).length (evB 2) (b.wr F.SYS_STAT_SHOW 0 1)) ∧
      (r = if discovers c then tileAll (showBasics c) s.store else (c, s.store))) ∧
    (∃ (s : State) (dt : Nat) (b c : Blk),
      (b = s.blk.tick dt) ∧
      (discovers b = true ∧ b.show_.flipAt ≠ []) ∧
      (c = dropDue (b.putShow { b.show_ with removed := b.show_.removed.filter fun k => (joinedChans b).any (·.1 == k) }))) := by
  refine ⟨?_, ?_, ?_, ?_, ?_, ?_, ?_, ?_⟩
  · exact ⟨State.reset.withBlk (((({} : Blk).wr F.SYS_ROLE_ROLE 0 3).wr F.SYS_STAT_SHOW 0 1).wr F.NIF_STAT_LINK 2 1), 0, 2, 7, ⟨[], false, 0, 0, 0, 0, 0, 0, 0, 0, 0, 0, 0, false, false, []⟩, _, rfl, by decide +kernel, by decide +kernel⟩
  · exact ⟨State.reset, 0, 2, 7, true, false, ⟨[], false, 0, 0, 0, 0, 0, 0, 0, 0, 0, 0, 0, false, false, []⟩, _, rfl, by decide⟩
  · exact ⟨State.reset.withBlk (((({ sessions := [⟨7, 0, 0, 0, none, 2, ⟨[], false, 0, 0, 0, 0, 0, 0, 0, 0, 0, 0, 0, false, false, []⟩⟩] } : Blk).wr F.SYS_ROLE_ROLE 0 3).wr F.SYS_STAT_SHOW 0 1).wr F.NIF_STAT_LINK 2 1), 0, 2, 7, ⟨[], false, 0, 0, 0, 0, 0, 0, 0, 0, 0, 0, 0, false, false, []⟩, _, rfl, by decide +kernel, by decide +kernel⟩
  · exact ⟨State.reset.withBlk ((({} : Blk).wr F.SYS_ROLE_ROLE 0 3).wr F.SYS_STAT_SHOW 0 1), 0, 7, _, rfl, by decide +kernel⟩
  · exact ⟨State.reset.withBlk ((({ now := 3600000000000, sessions := [⟨7, 0, 0, 0, none, 2, ⟨[], false, 0, 0, 0, 0, 0, 0, 0, 0, 0, 0, 0, false, false, []⟩⟩] } : Blk).wr F.SYS_ROLE_ROLE 0 3).wr F.SYS_STAT_SHOW 0 1), 0, 7, ⟨7, 0, 0, 0, none, 2, ⟨[], false, 0, 0, 0, 0, 0, 0, 0, 0, 0, 0, 0, false, false, []⟩⟩, _, rfl, by decide +kernel, by decide +kernel⟩
  · exact ⟨({ sessions := [⟨7, 0, 0, 0, none, 2, ⟨[], false, 0, 0, 0, 0, 0, 0, 0, 0, 0, 0, 0, false, false, []⟩⟩] } : Blk), 7, ⟨7, 0, 0, 0, none, 2, ⟨[], false, 0, 0, 0, 0, 0, 0, 0, 0, 0, 0, 0, false, false, []⟩⟩, by decide +kernel⟩
  · exact ⟨State.reset.withBlk ((({ now := 3000000000 } : Blk).wr F.SYS_STAT_OPERATING 0 1).wr F.SYS_ROLE_ROLE 0 3), 0, _, _, _, rfl, by decide +kernel, by decide +kernel, rfl, rfl⟩
  · exact ⟨State.reset.withBlk ((({ show_ := { flipAt := [(2, 0)] } } : Blk).wr F.SYS_ROLE_ROLE 0 3).wr F.SYS_STAT_SHOW 0 1), 0, _, _, rfl, by decide +kernel, rfl⟩

/-- What ShowCommands assumes can be met: showRetileFirst, showStatusUpdate, showSpeedAlternate. -/
theorem witness_ShowCommands_2 :
    (∃ (s : State) (dt : Nat) (b c : Blk),
      (b = s.blk.tick dt) ∧
      (discovers b = true ∧ b.show_.flipAt = []) ∧
      (c = showBasics (dropDue (b.putShow { b.show_ with removed := b.show_.removed.filter fun k => (joinedChans b).any (·.1 == k) })))) ∧
    (∃ (s : State) (dt : Nat) (b : Blk),
      (b = s.blk.tick dt) ∧
      (b.rd F.SYS_STAT_SHOW 0 = 1 ∧ (role b = 3 ∨ role b = 4) ∧ b.show_.textAt + 1000000000 ≤ b.now)) ∧
    (∃ (s : State) (dt n t : Nat) (b : Blk),
      (b = s.blk.tick dt) ∧
      (discovers b = true ∧ mget b.show_.flipAt n = some t ∧ t + 5000000000 ≤ b.now ∧ b.on F.NIF_STAT_LINK n = false)) := by
  refine ⟨?_, ?_, ?_⟩
  · exact ⟨State.reset.withBlk ((({} : Blk).wr F.SYS_ROLE_ROLE 0 3).wr F.SYS_STAT_SHOW 0 1), 0, _, _, rfl, by decide +kernel, rfl⟩
  · exact ⟨State.reset.withBlk ((({ now := 1000000000 } : Blk).wr F.SYS_ROLE_ROLE 0 3).wr F.SYS_STAT_SHOW 0 1), 0, _, rfl, by decide +kernel⟩
  · exact ⟨State.reset.withBlk ((({ now := 5000000000, show_ := { flipAt := [(2, 0)] } } : Blk).wr F.SYS_ROLE_ROLE 0 3).wr F.SYS_STAT_SHOW 0 1), 0, 2, 0, _, rfl, by decide +kernel⟩

/-- What CodecCommands assumes can be met: xsdFrameDone, xsdFrameDoneLost, xsdFrameDoneRefused, vdcAccessUnit,
vdcAccessUnitPassed, vdcAccessUnitRefused, vdcAccessUnitQueued, vdcStall. -/
theorem witness_CodecCommands_1 :
    (∃ (s : State) (dt x c l : Nat) (first : Codestream) (rest : List Codestream) (q : Ready) (b d e : Blk) (r : Blk × FrameStore),
      (b = s.blk.tick dt) ∧
      (feeder b true x = some c ∧ takeReady c (fedTo true x) b = some (q, d) ∧ xsdBound d x = true) ∧
      (l = d.rd F.XSD_CTRL_LAYER x) ∧
      (e = (d.wr F.XSD_STAT_PROFILE x first.ppih).wr F.XSD_STAT_LEVEL x first.plev) ∧
      ((first :: rest).any (·.headerLost) = false) ∧
      (firstReason ((first :: rest).map (xsdCause e c l (first :: rest).length)) = 0) ∧
      (r = xsdDecode x c l first (first :: rest) ((first :: rest).flatMap (·.errors) ++ (if q.f.loss.isEmpty then [] else [1])) q (e.wr F.XSD_STAT_STATE x 2) s.store)) ∧
    (∃ (s : State) (dt x c : Nat) (first : Codestream) (rest : List Codestream) (q : Ready) (b d : Blk),
      (b = s.blk.tick dt) ∧
      (feeder b true x = some c ∧ takeReady c (fedTo true x) b = some (q, d) ∧ xsdBound d x = true) ∧
      ((first :: rest).any (·.headerLost) = true)) ∧
    (∃ (s : State) (dt x c l n : Nat) (first : Codestream) (rest : List Codestream) (q : Ready) (b d e f : Blk),
      (b = s.blk.tick dt) ∧
      (feeder b true x = some c ∧ takeReady c (fedTo true x) b = some (q, d) ∧ xsdBound d x = true) ∧
      (l = d.rd F.XSD_CTRL_LAYER x) ∧
      (e = (d.wr F.XSD_STAT_PROFILE x first.ppih).wr F.XSD_STAT_LEVEL x first.plev) ∧
      ((first :: rest).any (·.headerLost) = false) ∧
      (firstReason ((first :: rest).map (xsdCause e c l (first :: rest).length)) = n + 1) ∧
      (e.rd F.XSD_STAT_STATE x ≠ 3) ∧
      (f = ((xsdErrors x 0 ((first :: rest).flatMap (·.errors) ++ (if q.f.loss.isEmpty then [] else [1])) e).wr F.XSD_STAT_STATE x 3).wr F.XSD_STAT_CAUSE x (n + 1))) ∧
    (∃ (s : State) (dt x c : Nat) (au : AccessUnit) (q : Ready) (b d e g : Blk) (k : Blk × FrameStore),
      (b = s.blk.tick dt) ∧
      (feeder b false x = some c ∧ takeReady c (fedTo false x) b = some (q, d) ∧ vdcBound d x = true) ∧
      (e = vdcPace x c d) ∧
      ((e.vdcCtx x).wait = [] ∧ vdcCause e x c au = 0) ∧
      (¬ ((e.rd F.VDC_STAT_STATE x = 3 ∧ (!auIrap (isH264 e c) au) = true) ∨ (e.rd F.VDC_STAT_STATE x = 1 ∧ (!e.on F.VDC_CTRL_START x) = true ∧ (!recovers (isH264 e c) (e.vdcCtx x) au) = true) ∨ (auRasl (isH264 e c) au && (e.vdcCtx x).noRasl) = true)) ∧
      (fieldMate (e.vdcCtx x) au = none) ∧
      (k = closeHalf x e s.store) ∧
      (g = vdcBegin x (isH264 e c) au k.1)) ∧
    (∃ (s : State) (dt x c : Nat) (au : AccessUnit) (q : Ready) (b d e g : Blk),
      (b = s.blk.tick dt) ∧
      (feeder b false x = some c ∧ takeReady c (fedTo false x) b = some (q, d) ∧ vdcBound d x = true) ∧
      (e = vdcPace x c d) ∧
      ((e.vdcCtx x).wait = [] ∧ vdcCause e x c au = 0) ∧
      ((e.rd F.VDC_STAT_STATE x = 3 ∧ (!auIrap (isH264 e c) au) = true) ∨ (e.rd F.VDC_STAT_STATE x = 1 ∧ (!e.on F.VDC_CTRL_START x) = true ∧ (!recovers (isH264 e c) (e.vdcCtx x) au) = true) ∨ (auRasl (isH264 e c) au && (e.vdcCtx x).noRasl) = true) ∧
      (g = vdcCount x (isH264 e c) au (vdcErrors x au.nal (auClasses (isH264 e c) au ++ (if q.f.loss.isEmpty then [] else [1])) e))) ∧
    (∃ (s : State) (dt x c n : Nat) (au : AccessUnit) (q : Ready) (b d e g : Blk),
      (b = s.blk.tick dt) ∧
      (feeder b false x = some c ∧ takeReady c (fedTo false x) b = some (q, d) ∧ vdcBound d x = true) ∧
      (e = vdcPace x c d) ∧
      ((e.vdcCtx x).wait = [] ∧ vdcCause e x c au = n + 1) ∧
      (e.rd F.VDC_STAT_STATE x ≠ 3) ∧
      (g = raise (vdcPage x) 0x104 sevWarning ((n + 1) % 2 ^ 17 + 2 ^ 17 * x) (evB 3) (((vdcErrors x au.nal
        (auClasses (isH264 e c) au ++ (if q.f.loss.isEmpty then [] else [1])) e).wr F.VDC_STAT_STATE x 3).wr F.VDC_STAT_CAUSE x (n + 1)))) ∧
    (∃ (s : State) (dt x c : Nat) (au : AccessUnit) (q : Ready) (w : AccessUnit × Ready) (l : List (AccessUnit × Ready)) (b d e : Blk),
      (b = s.blk.tick dt) ∧
      (feeder b false x = some c ∧ takeReady c (fedTo false x) b = some (q, d) ∧ vdcBound d x = true) ∧
      (e = vdcPace x c d) ∧
      ((e.vdcCtx x).wait = w :: l)) ∧
    (∃ (s : State) (dt x : Nat) (w : AccessUnit × Ready) (l : List (AccessUnit × Ready)) (b : Blk),
      (b = s.blk.tick dt) ∧
      ((b.vdcCtx x).wait = w :: l ∧ (b.vdcCtx x).stallTold = false ∧ (b.vdcCtx x).stalledAt + 50000000 < b.now)) := by
  refine ⟨?_, ?_, ?_, ?_, ?_, ?_, ?_, ?_⟩
  · exact ⟨State.reset.withBlk (({ ing := [(0, { ready := [⟨{}, 2, 0, 0, 0, 0, 1, 0⟩] })] } : Blk).wr F.PG_CTRL_ENABLE 0x120 1 |>.wr F.ING_CTRL_KIND 0 2 |>.wr F.PG_CTRL_ENABLE 0x160 1 |>.wr F.XSD_CTRL_LAYER_EN 0 1 |>.wr F.ING_FMT1_DEPTH 0 0 |>.wr F.ING_FMT1_SAMPLING 0 0), 0, 0, 0, _, ⟨false, 1, true, 0, 4, 0, 0, 0, 0, [], [], 0, []⟩, [], ⟨{}, 2, 0, 0, 0, 0, 1, 0⟩, _, (({ ing := [(0, { ready := [] })] } : Blk).wr F.PG_CTRL_ENABLE 0x120 1 |>.wr F.ING_CTRL_KIND 0 2 |>.wr F.PG_CTRL_ENABLE 0x160 1 |>.wr F.XSD_CTRL_LAYER_EN 0 1 |>.wr F.ING_FMT1_DEPTH 0 0 |>.wr F.ING_FMT1_SAMPLING 0 0), _, _, rfl, by decide +kernel, rfl, rfl, by decide +kernel, by decide +kernel, rfl⟩
  · exact ⟨State.reset.withBlk (({ ing := [(0, { ready := [⟨{}, 2, 0, 0, 0, 0, 1, 0⟩] })] } : Blk).wr F.PG_CTRL_ENABLE 0x120 1 |>.wr F.ING_CTRL_KIND 0 2 |>.wr F.PG_CTRL_ENABLE 0x160 1 |>.wr F.XSD_CTRL_LAYER_EN 0 1 |>.wr F.ING_FMT1_DEPTH 0 0 |>.wr F.ING_FMT1_SAMPLING 0 0), 0, 0, 0, ⟨true, 1, true, 0, 4, 0, 0, 0, 0, [], [], 0, []⟩, [], ⟨{}, 2, 0, 0, 0, 0, 1, 0⟩, _, (({ ing := [(0, { ready := [] })] } : Blk).wr F.PG_CTRL_ENABLE 0x120 1 |>.wr F.ING_CTRL_KIND 0 2 |>.wr F.PG_CTRL_ENABLE 0x160 1 |>.wr F.XSD_CTRL_LAYER_EN 0 1 |>.wr F.ING_FMT1_DEPTH 0 0 |>.wr F.ING_FMT1_SAMPLING 0 0), rfl, by decide +kernel, rfl⟩
  · exact ⟨State.reset.withBlk (({ ing := [(0, { ready := [⟨{}, 2, 0, 0, 0, 0, 1, 0⟩] })] } : Blk).wr F.PG_CTRL_ENABLE 0x120 1 |>.wr F.ING_CTRL_KIND 0 2 |>.wr F.PG_CTRL_ENABLE 0x160 1 |>.wr F.XSD_CTRL_LAYER_EN 0 1 |>.wr F.ING_FMT1_DEPTH 0 0 |>.wr F.ING_FMT1_SAMPLING 0 0), 0, 0, 0, _, 0, ⟨false, 5, true, 0, 4, 0, 0, 0, 0, [], [], 0, []⟩, [], ⟨{}, 2, 0, 0, 0, 0, 1, 0⟩, _, (({ ing := [(0, { ready := [] })] } : Blk).wr F.PG_CTRL_ENABLE 0x120 1 |>.wr F.ING_CTRL_KIND 0 2 |>.wr F.PG_CTRL_ENABLE 0x160 1 |>.wr F.XSD_CTRL_LAYER_EN 0 1 |>.wr F.ING_FMT1_DEPTH 0 0 |>.wr F.ING_FMT1_SAMPLING 0 0), _, _, rfl, by decide +kernel, rfl, rfl, by decide +kernel, by decide +kernel, by decide +kernel, rfl⟩
  · exact ⟨State.reset.withBlk (({ ing := [(0, { ready := [⟨{}, 4, 0, 2, 0, 0, 1, 0⟩] })] } : Blk).wr F.PG_CTRL_ENABLE 0x120 1 |>.wr F.ING_CTRL_KIND 0 4 |>.wr F.PG_CTRL_ENABLE 0x180 1 |>.wr F.VDC_CTRL_LAYER_EN 0 1), 0, 0, 0, ⟨1, true, 0, 1, (8, 8), false, false, false, false, false, 0, 0, (0, 0, 0, 0), some (0, 1), 19, 0, none, 0, 1, 0, true, 0, false, [], [], [], [], [], 0, 0, 0, 0, (0, 0, 0), (0, 0)⟩, ⟨{}, 4, 0, 2, 0, 0, 1, 0⟩, _, (({ ing := [(0, { ready := [] })] } : Blk).wr F.PG_CTRL_ENABLE 0x120 1 |>.wr F.ING_CTRL_KIND 0 4 |>.wr F.PG_CTRL_ENABLE 0x180 1 |>.wr F.VDC_CTRL_LAYER_EN 0 1), _, _, _, rfl, by decide +kernel, rfl, by decide +kernel, by decide +kernel, by decide +kernel, rfl, rfl⟩
  · exact ⟨State.reset.withBlk ((({ ing := [(0, { ready := [⟨{}, 4, 0, 2, 0, 0, 1, 0⟩] })] } : Blk).wr F.PG_CTRL_ENABLE 0x120 1 |>.wr F.ING_CTRL_KIND 0 4 |>.wr F.PG_CTRL_ENABLE 0x180 1 |>.wr F.VDC_CTRL_LAYER_EN 0 1) |>.wr F.VDC_STAT_STATE 0 1), 0, 0, 0, ⟨1, true, 0, 1, (8, 8), false, false, false, false, false, 0, 0, (0, 0, 0, 0), some (0, 1), 1, 1, none, 0, 1, 0, true, 0, false, [], [], [], [], [], 0, 0, 0, 0, (0, 0, 0), (0, 0)⟩, ⟨{}, 4, 0, 2, 0, 0, 1, 0⟩, _, ((({ ing := [(0, { ready := [] })] } : Blk).wr F.PG_CTRL_ENABLE 0x120 1 |>.wr F.ING_CTRL_KIND 0 4 |>.wr F.PG_CTRL_ENABLE 0x180 1 |>.wr F.VDC_CTRL_LAYER_EN 0 1) |>.wr F.VDC_STAT_STATE 0 1), _, _, rfl, by decide +kernel, rfl, by decide +kernel, by decide +kernel, rfl⟩
  · exact ⟨State.reset.withBlk (({ ing := [(0, { ready := [⟨{}, 4, 0, 2, 0, 0, 1, 0⟩] })] } : Blk).wr F.PG_CTRL_ENABLE 0x120 1 |>.wr F.ING_CTRL_KIND 0 4 |>.wr F.PG_CTRL_ENABLE 0x180 1 |>.wr F.VDC_CTRL_LAYER_EN 0 1), 0, 0, 0, 0, ⟨9, true, 0, 1, (8, 8), false, false, false, false, false, 0, 0, (0, 0, 0, 0), some (0, 1), 19, 0, none, 0, 1, 0, true, 0, false, [], [], [], [], [], 0, 0, 0, 0, (0, 0, 0), (0, 0)⟩, ⟨{}, 4, 0, 2, 0, 0, 1, 0⟩, _, (({ ing := [(0, { ready := [] })] } : Blk).wr F.PG_CTRL_ENABLE 0x120 1 |>.wr F.ING_CTRL_KIND 0 4 |>.wr F.PG_CTRL_ENABLE 0x180 1 |>.wr F.VDC_CTRL_LAYER_EN 0 1), _, _, rfl, by decide +kernel, rfl, by decide +kernel, by decide +kernel, rfl⟩
  · exact ⟨State.reset.withBlk (({ ing := [(0, { ready := [⟨{}, 4, 0, 2, 0, 0, 1, 0⟩] })], vdc := [(0, { wait := [(⟨1, true, 0, 1, (8, 8), false, false, false, false, false, 0, 0, (0, 0, 0, 0), some (0, 1), 19, 0, none, 0, 1, 0, true, 0, false, [], [], [], [], [], 0, 0, 0, 0, (0, 0, 0), (0, 0)⟩, ⟨{}, 4, 0, 2, 0, 0, 1, 0⟩)] })] } : Blk).wr F.PG_CTRL_ENABLE 0x120 1 |>.wr F.ING_CTRL_KIND 0 4 |>.wr F.PG_CTRL_ENABLE 0x180 1 |>.wr F.VDC_CTRL_LAYER_EN 0 1), 0, 0, 0, ⟨1, true, 0, 1, (8, 8), false, false, false, false, false, 0, 0, (0, 0, 0, 0), some (0, 1), 19, 0, none, 0, 1, 0, true, 0, false, [], [], [], [], [], 0, 0, 0, 0, (0, 0, 0), (0, 0)⟩, ⟨{}, 4, 0, 2, 0, 0, 1, 0⟩, (⟨1, true, 0, 1, (8, 8), false, false, false, false, false, 0, 0, (0, 0, 0, 0), some (0, 1), 19, 0, none, 0, 1, 0, true, 0, false, [], [], [], [], [], 0, 0, 0, 0, (0, 0, 0), (0, 0)⟩, ⟨{}, 4, 0, 2, 0, 0, 1, 0⟩), [], _, (({ ing := [(0, { ready := [] })], vdc := [(0, { wait := [(⟨1, true, 0, 1, (8, 8), false, false, false, false, false, 0, 0, (0, 0, 0, 0), some (0, 1), 19, 0, none, 0, 1, 0, true, 0, false, [], [], [], [], [], 0, 0, 0, 0, (0, 0, 0), (0, 0)⟩, ⟨{}, 4, 0, 2, 0, 0, 1, 0⟩)] })] } : Blk).wr F.PG_CTRL_ENABLE 0x120 1 |>.wr F.ING_CTRL_KIND 0 4 |>.wr F.PG_CTRL_ENABLE 0x180 1 |>.wr F.VDC_CTRL_LAYER_EN 0 1), _, rfl, by decide +kernel, rfl, by decide +kernel⟩
  · exact ⟨State.reset.withBlk { now := 50000001, vdc := [(2, { wait := [(⟨1, true, 0, 1, (8, 8), false, false, false, false, false, 0, 0, (0, 0, 0, 0), some (0, 1), 19, 0, none, 0, 1, 0, true, 0, false, [], [], [], [], [], 0, 0, 0, 0, (0, 0, 0), (0, 0)⟩, ⟨{}, 4, 0, 2, 0, 0, 1, 0⟩)] })] }, 0, 2, (⟨1, true, 0, 1, (8, 8), false, false, false, false, false, 0, 0, (0, 0, 0, 0), some (0, 1), 19, 0, none, 0, 1, 0, true, 0, false, [], [], [], [], [], 0, 0, 0, 0, (0, 0, 0), (0, 0)⟩, ⟨{}, 4, 0, 2, 0, 0, 1, 0⟩), [], _, rfl, by decide +kernel⟩

/-- What CodecCommands assumes can be met: vdcSlotFree, vdcPictureOutput, vecRowReady, vecRowCoded, vecRowLast, vecSliceOut,
vecSliceLast. -/
theorem witness_CodecCommands_2 :
    (∃ (s : State) (dt x c : Nat) (w : AccessUnit × Ready) (l : List (AccessUnit × Ready)) (b : Blk),
      (b = s.blk.tick dt) ∧
      ((b.vdcCtx x).wait = w :: l ∧ feeder b false x = some c)) ∧
    (∃ (s : State) (dt x c l : Nat) (p : Pic) (b d : Blk) (q : Blk × FrameStore) (r : Ready),
      (b = s.blk.tick dt) ∧
      (nextOutput (b.vdcCtx x) = some p ∧ feeder b false x = some c ∧ p.recov = false ∧ l = b.rd F.VDC_CTRL_LAYER x) ∧
      (d = ((b.putVdc x { b.vdcCtx x with pics := tidy ((b.vdcCtx x).pics.map fun q => if q.period = p.period ∧ q.poc = p.poc ∧ q.slot = p.slot then { q with waiting := false } else q), count := ((b.vdcCtx x).count + 1) % 2 ^ 32 }).wr
        F.VDC_FRAME_WH_W x p.frame.lay.w).wr F.VDC_FRAME_WH_H x p.frame.lay.h) ∧
      (q = statEntries vdcStats 0x12 x [recordBytes ([d.now % 2 ^ 32, d.now / 2 ^ 32, (b.vdcCtx x).count] ++ p.stats.words p.frame.conceal.length)] d s.store) ∧
      (100 * p.frame.conceal.length ≤ q.1.rd F.ING_ASM_LOSS_MAX c * (cdiv p.frame.lay.w 64 * cdiv p.frame.lay.h 64)) ∧
      (r = { f := p.frame, kind := q.1.rd F.ING_CTRL_KIND c, dest := x, sampling := 2, depth := b2n (p.frame.lay.fmt == 9), num := q.1.rd F.ING_RATE_NUM c, den := q.1.rd F.ING_RATE_DEN c, tsmode := q.1.rd F.ING_CTRL_TSMODE c })) ∧
    (∃ (s : State) (dt x row flag : Nat) (lost : Bool) (p : VecPic) (b e : Blk),
      (b = s.blk.tick dt) ∧
      (((b.vecCtx x).pics.find? fun p => p.ready == row && Nat.blt row p.rows.length) = some p) ∧
      (e = vecView b x p) ∧
      (¬ (p.kind = 0 ∧ (!lineEntered b (e.rd F.VEC_SRC_STAGE x) p.f (rowLastLine e x row)) = true)) ∧
      (flag = if lost || vecUnread e s.store x p row then 3 else if p.kind = 0 && tapMarked e x then 4 else 0)) ∧
    (∃ (s : State) (dt x row : Nat) (r : VecRow) (p p1 p2 : VecPic) (b e : Blk) (k : Nat × Nat × Nat × Bool) (g : RowCode) (o : VecRowSt),
      (b = s.blk.tick dt) ∧
      (((b.vecCtx x).pics.find? fun p => p.coded == row && Nat.blt row p.ready) = some p ∧ b.vecReady.head? = some (x, row)) ∧
      (e = vecView b x p) ∧
      (p1 = if row = 0 then { p with bmax := hrdBits e x p.time } else p) ∧
      (k = rowChoice e x row p1 (b.vecCtx x).prev r ∧ k.1 < 2 ∧ k.2.2.2 = false ∧ row + 1 ≠ p.rows.length) ∧
      (g = rowTaken r k.1) ∧
      (o = { (p1.rows[row]?).getD {} with flag := k.1, bits := k.2.1, qp := k.2.2.1, coded := true, hatch := [], stat := [g.moved, g.intra, g.mv.1, g.mv.2], ctus := g.ctus }) ∧
      (p2 = { p1 with coded := row + 1, spent := p1.spent + k.2.1, rows := lset p1.rows row o })) ∧
    (∃ (s : State) (dt x row : Nat) (r : VecRow) (p p1 p2 : VecPic) (b e d : Blk) (k : Nat × Nat × Nat × Bool) (g : RowCode) (o : VecRowSt),
      (b = s.blk.tick dt) ∧
      (((b.vecCtx x).pics.find? fun p => p.coded == row && Nat.blt row p.ready) = some p ∧ b.vecReady.head? = some (x, row)) ∧
      (e = vecView b x p) ∧
      (p1 = if row = 0 then { p with bmax := hrdBits e x p.time } else p) ∧
      (k = rowChoice e x row p1 (b.vecCtx x).prev r ∧ k.1 < 2 ∧ k.2.2.2 = false ∧ row + 1 = p.rows.length) ∧
      (g = rowTaken r k.1) ∧
      (o = { (p1.rows[row]?).getD {} with flag := k.1, bits := k.2.1, qp := k.2.2.1, coded := true, hatch := [], stat := [g.moved, g.intra, g.mv.1, g.mv.2], ctus := g.ctus }) ∧
      (p2 = { p1 with coded := row + 1, spent := p1.spent + k.2.1, rows := lset p1.rows row o }) ∧
      (d = vecOn x (fun p => p.coded == row && Nat.blt row p.ready) (fun _ => p2) { b with vecReady := b.vecReady.drop 1 })) ∧
    (∃ (s : State) (dt x upto : Nat) (sets : List ParamSet) (nals : List (List Nat)) (p : VecPic) (rest : List VecPic) (b e : Blk),
      (b = s.blk.tick dt) ∧
      ((b.vecCtx x).pics = p :: rest ∧ p.idr = false) ∧
      (e = vecView b x p) ∧
      (upto = Nat.min p.rows.length ((p.sent + 1) * e.rd F.VEC_CODEC_SLICE_ROWS x) ∧ upto ≤ p.coded ∧ upto < p.rows.length ∧ p.sent * e.rd F.VEC_CODEC_SLICE_ROWS x < p.rows.length) ∧
      (vecH264 e x = false ∧ b.rd F.VEC_OUT_DEST x % 2 = 0)) ∧
    (∃ (s : State) (dt x upto : Nat) (sets : List ParamSet) (nals : List (List Nat)) (p : VecPic) (rest : List VecPic) (b e d : Blk),
      (b = s.blk.tick dt) ∧
      ((b.vecCtx x).pics = p :: rest ∧ p.idr = false ∧ p.filler = 0) ∧
      (e = vecView b x p) ∧
      (upto = Nat.min p.rows.length ((p.sent + 1) * e.rd F.VEC_CODEC_SLICE_ROWS x) ∧ upto ≤ p.coded ∧ upto = p.rows.length ∧ p.sent * e.rd F.VEC_CODEC_SLICE_ROWS x < p.rows.length) ∧
      (vecH264 e x = false ∧ b.rd F.VEC_OUT_DEST x = 2 ∧ e.on F.VEC_CODEC_SEI_EN x = false) ∧
      (d = (b.put F.VEC_STAT_SENDING x false).putVec x { b.vecCtx x with pics := rest, sei := [] })) := by
  refine ⟨?_, ?_, ?_, ?_, ?_, ?_, ?_⟩
  · exact ⟨State.reset.withBlk (({ ing := [(0, { ready := [] })], vdc := [(0, { wait := [(⟨1, true, 0, 1, (8, 8), false, false, false, false, false, 0, 0, (0, 0, 0, 0), some (0, 1), 19, 0, none, 0, 1, 0, true, 0, false, [], [], [], [], [], 0, 0, 0, 0, (0, 0, 0), (0, 0)⟩, ⟨{}, 4, 0, 2, 0, 0, 1, 0⟩)] })] } : Blk).wr F.PG_CTRL_ENABLE 0x120 1 |>.wr F.ING_CTRL_KIND 0 4 |>.wr F.PG_CTRL_ENABLE 0x180 1 |>.wr F.VDC_CTRL_LAYER_EN 0 1), 0, 0, 0, (⟨1, true, 0, 1, (8, 8), false, false, false, false, false, 0, 0, (0, 0, 0, 0), some (0, 1), 19, 0, none, 0, 1, 0, true, 0, false, [], [], [], [], [], 0, 0, 0, 0, (0, 0, 0), (0, 0)⟩, ⟨{}, 4, 0, 2, 0, 0, 1, 0⟩), [], _, rfl, by decide +kernel⟩
  · exact ⟨State.reset.withBlk (({ vdc := [(0, { pics := [⟨0, 0, 5, true, true, false, 0, 0, {}, none, {}⟩] })] } : Blk).wr F.PG_CTRL_ENABLE 0x120 1 |>.wr F.ING_CTRL_KIND 0 4), 0, 0, 0, _, ⟨0, 0, 5, true, true, false, 0, 0, {}, none, {}⟩, _, _, _, _, rfl, ⟨by decide +kernel, by decide +kernel, rfl, rfl⟩, rfl, rfl, by decide +kernel, rfl⟩
  · exact ⟨State.reset.withBlk { vec := [(2, { pics := [{ conf := [], f := 0, time := 0, idr := true, kind := 1, layer := 0, frame := none, entry := [], bmax := 0, rows := [{}, {}] }] })] }, 0, 2, 0, _, true, { conf := [], f := 0, time := 0, idr := true, kind := 1, layer := 0, frame := none, entry := [], bmax := 0, rows := [{}, {}] }, _, _, rfl, by decide +kernel, rfl, by decide +kernel, rfl⟩
  · exact ⟨State.reset.withBlk (({ vec := [(2, { pics := [{ conf := [], f := 0, time := 0, idr := true, kind := 1, layer := 0, frame := none, entry := [], bmax := 0, rows := [{}, {}], ready := 1 }] })], vecReady := [(2, 0)] } : Blk).wr F.VEC_RC_MODE 2 2), 0, 2, 0, ⟨0, ⟨8, 0, 0, (0, 0), []⟩, ⟨8, 0, 0, (0, 0), []⟩, ⟨8, 0, 0, (0, 0), []⟩⟩, { conf := [], f := 0, time := 0, idr := true, kind := 1, layer := 0, frame := none, entry := [], bmax := 0, rows := [{}, {}], ready := 1 }, _, _, _, _, _, _, _, rfl, by decide +kernel, rfl, rfl, ⟨rfl, by decide +kernel, by decide +kernel, by decide +kernel⟩, rfl, rfl, rfl⟩
  · exact ⟨State.reset.withBlk (({ vec := [(2, { pics := [{ conf := [], f := 0, time := 0, idr := true, kind := 1, layer := 0, frame := none, entry := [], bmax := 0, rows := [{}, {}], ready := 2, coded := 1 }] })], vecReady := [(2, 1)] } : Blk).wr F.VEC_RC_MODE 2 2), 0, 2, 1, ⟨0, ⟨8, 0, 0, (0, 0), []⟩, ⟨8, 0, 0, (0, 0), []⟩, ⟨8, 0, 0, (0, 0), []⟩⟩, { conf := [], f := 0, time := 0, idr := true, kind := 1, layer := 0, frame := none, entry := [], bmax := 0, rows := [{}, {}], ready := 2, coded := 1 }, _, _, _, _, _, _, _, _, rfl, by decide +kernel, rfl, rfl, ⟨rfl, by decide +kernel, by decide +kernel, by decide +kernel⟩, rfl, rfl, rfl, rfl⟩
  · exact ⟨State.reset.withBlk (({ vec := [(2, { pics := [{ conf := [], f := 0, time := 0, idr := false, kind := 1, layer := 0, frame := none, entry := [], bmax := 0, rows := [{}, {}], ready := 1, coded := 1 }] })] } : Blk).wr F.VEC_CODEC_SLICE_ROWS 2 1 |>.wr F.VEC_CODEC_CODEC 2 1 |>.wr F.VEC_OUT_DEST 2 2), 0, 2, _, [], [], { conf := [], f := 0, time := 0, idr := false, kind := 1, layer := 0, frame := none, entry := [], bmax := 0, rows := [{}, {}], ready := 1, coded := 1 }, [], _, _, rfl, ⟨by decide +kernel, rfl⟩, rfl, ⟨rfl, by decide +kernel⟩, by decide +kernel⟩
  · exact ⟨State.reset.withBlk (({ vec := [(2, { pics := [{ conf := [], f := 0, time := 0, idr := false, kind := 1, layer := 0, frame := none, entry := [], bmax := 0, rows := [{}, {}], ready := 2, coded := 2, sent := 1 }] })] } : Blk).wr F.VEC_CODEC_SLICE_ROWS 2 1 |>.wr F.VEC_CODEC_SEI_EN 2 0 |>.wr F.VEC_CODEC_CODEC 2 1 |>.wr F.VEC_OUT_DEST 2 2), 0, 2, _, [], [], { conf := [], f := 0, time := 0, idr := false, kind := 1, layer := 0, frame := none, entry := [], bmax := 0, rows := [{}, {}], ready := 2, coded := 2, sent := 1 }, [], _, _, _, rfl, ⟨by decide +kernel, rfl, rfl⟩, rfl, ⟨rfl, by decide +kernel⟩, by decide +kernel, rfl⟩

/-- What StageCommands assumes can be met: cueTakenGroup, cueTakenPage, curtainUp, lineNotReady, mapComplete, mapReports,
signatureArrayDone, signatureArrayLate. -/
theorem witness_StageCommands_1 :
    (∃ (s : State) (dt g : Nat) (q : Cue) (b : Blk) (r : Blk × Nat),
      (b = s.blk.tick dt) ∧
      (mget b.ctl.groups g = some q ∧ q.point = 0 ∧ q.time + 10 ≤ b.now) ∧
      (r = runCue (groupSet (armGroup g none b) g q.mid false) (armGroup g none b))) ∧
    (∃ (s : State) (dt k : Nat) (p : Page) (q : Cue) (b : Blk),
      (b = s.blk.tick dt) ∧
      (mget b.ctl.cues k = some q ∧ q.point = 0 ∧ q.time + 10 ≤ b.now) ∧
      (pageOfSlot k = some p)) ∧
    (∃ (s : State) (dt st : Nat) (b : Blk) (r : Blk × FrameStore) (c : Blk),
      (b = s.blk.tick dt) ∧
      (stageRuns b st = true) ∧
      (r = if st = 0 then epochBoundary b s.store else (b, s.store)) ∧
      (c = takeCues (fun q => q.point == 1 && q.stage == st && leadMet r.1 q) r.1)) ∧
    (∃ (s : State) (dt st k line slot : Nat) (p : Place) (b : Blk),
      (b = s.blk.tick dt) ∧
      (((b.stage st).scene.find? (·.1 == slot)) = some (k, p))) ∧
    (∃ (s : State) (dt st : Nat) (b v : Blk),
      (b = s.blk.tick dt) ∧
      ((b.stage st).shown ≠ []) ∧
      (v = b.viewed st)) ∧
    (∃ (st w h f time : Nat) (ps : List (Nat × Place)) (deg : Place → Nat → Nat → Bool) (pro : Nat → Nat → Bool) (at_ : Nat → Nat → Nat) (b : Blk),
      (st < 24)) ∧
    (∃ (s : State) (dt st base : Nat) (bytes : List Nat) (b v : Blk),
      (b = s.blk.tick dt) ∧
      ((b.stage st).shown ≠ []) ∧
      (v = b.viewed st) ∧
      (base = v.rd F.STG_SIGBASE_ADDR st + v.rd F.STG_FRAME_F st % 2 * 0x8000) ∧
      (bytes = (stageSigs b s.store st).flatMap (leBytes 4)) ∧
      (fsGranted b 0x15 base true = true)) ∧
    (∃ (s : State) (dt st : Nat) (b : Blk),
      (b = s.blk.tick dt)) := by
  refine ⟨?_, ?_, ?_, ?_, ?_, ?_, ?_, ?_⟩
  · exact ⟨State.reset.withBlk { now := 10, ctl := { groups := [(3, ⟨0, 0, 0, 1⟩)] } }, 0, 3, ⟨0, 0, 0, 1⟩, _, _, rfl, by decide +kernel, rfl⟩
  · exact ⟨State.reset.withBlk { now := 10, ctl := { cues := [(0x120, ⟨0, 0, 0, 1⟩)] } }, 0, 0x120, ⟨.ing, 0⟩, ⟨0, 0, 0, 1⟩, _, rfl, by decide +kernel, by decide +kernel⟩
  · exact ⟨State.reset.withBlk ((({} : Blk).wr F.PG_CTRL_ENABLE 0x221 1).wr F.PG_CTRL_ENABLE 0x261 1), 0, 1, _, _, _, rfl, by decide +kernel, rfl, rfl⟩
  · exact ⟨State.reset.withBlk { stg := [(2, { scene := [(1, { layer := 3, vis := ⟨0, 0, 8, 8⟩, alpha := 1023, dst := ⟨0, 0, 8, 8⟩ })] })] }, 0, 2, 1, 7, 1, { layer := 3, vis := ⟨0, 0, 8, 8⟩, alpha := 1023, dst := ⟨0, 0, 8, 8⟩ }, _, rfl, by decide +kernel⟩
  · exact ⟨State.reset.withBlk { stg := [(2, { shown := [(0, 1)] })] }, 0, 2, _, _, rfl, by decide +kernel, rfl⟩
  · exact ⟨0, 64, 64, 5, 0, [], fun _ _ _ => false, fun _ _ => false, fun _ _ => 0, {}, by decide +kernel⟩
  · exact ⟨State.reset.withBlk { stg := [(2, { shown := [(0, 1)] })] }, 0, 2, _, _, _, _, rfl, by decide +kernel, rfl, rfl, rfl, by decide +kernel⟩
  · exact ⟨State.reset, 0, 2, _, rfl⟩

/-- What StageCommands assumes can be met: psCheckMatch, corruptBlock. -/
theorem witness_StageCommands_2 :
    (∃ (s : State) (dt st k c : Nat) (b v : Blk) (alt : Bool),
      (b = s.blk.tick dt) ∧
      ((b.stage st).shown ≠ [] ∧ v = b.viewed st) ∧
      (psDraws (shownContact b st) v st k = true ∧ v.rd F.STG_PS_CFG_CHECK st k = 1) ∧
      (c = psCrc b s.store st k ∧ alt = trigShaky (shownContact b st) v st k) ∧
      (v.rd (if alt then F.STG_PS_EXP1_CRC else F.STG_PS_EXP0_CRC) st k = c)) ∧
    (∃ (s : State) (dt pipe l : Nat) (b : Blk),
      (b = s.blk.tick dt)) := by
  refine ⟨?_, ?_⟩
  · exact ⟨State.reset.withBlk { stg := [(2, { shown := (({} : Blk).wr F.STG_PS_CFG_EN 2 1 0 |>.wr F.STG_PS_CFG_CHECK 2 1 0 |>.wr F.STG_PS_CFG_SRC 2 1 0).regs })] }, 0, 2, 0, _, _, _, _, rfl, ⟨by decide +kernel, rfl⟩, by decide +kernel, ⟨rfl, rfl⟩, by decide +kernel⟩
  · exact ⟨State.reset, 0, 2, 7, _, rfl⟩

/-- What HeadCommands assumes can be met: headFrameBlank, headFrameLine0, headFrameOff, headQueueStarved, hpdSample, hpdPulse,
hpdStateChange, irqHpdLost. -/
theorem witness_HeadCommands_1 :
    (∃ (s : State) (dt h : Nat) (b c : Blk),
      (b = s.blk.tick dt) ∧
      (headRuns b h = true ∧ (b.head h).pend ≠ []) ∧
      (c = headChanged h b (({ b with regs := mput (b.head h).pend b.regs } : Blk).putHead h { b.head h with pend := [] }))) ∧
    (∃ (s : State) (dt h : Nat) (b c d e : Blk),
      (b = s.blk.tick dt) ∧
      (headRuns b h = true) ∧
      (c = genlockFrame h (judgeFrame h b)) ∧
      (d = txReport h (c.putHead h { c.head h with frameAt := c.now, txNext := 0 })) ∧
      (e = if stageRuns d h then switchFrame h d else stopFrame h d)) ∧
    (∃ (s : State) (dt h : Nat) (blank : Bool) (b : Blk),
      (b = s.blk.tick dt) ∧
      (headRuns b h = false)) ∧
    (∃ (s : State) (dt st line : Nat) (b c : Blk),
      (b = s.blk.tick dt) ∧
      (headRuns b st = true ∧ stageRuns b st = true ∧ (b.stage st).shown ≠ [] ∧ (b.stage st).starved = false) ∧
      (c = stgEvent st 0x100 sevError line (evB 3) (b.putStage st { b.stage st with starved := true }))) ∧
    (∃ (s : State) (dt levels : Nat) (b : Blk),
      (b = s.blk.tick dt)) ∧
    (∃ (b : Blk) (levels h t : Nat),
      (b.rd F.OHD_STAT_HPD h ≠ 5) ∧
      ((b.head h).lowAt = some t ∧ (b.head h).hpd.level = false ∧ bit levels h = true) ∧
      (t + 250000 ≤ b.now ∧ b.now < t + 100000 * b.rd F.OHD_HPD_CFG_DEBOUNCE h)) ∧
    (∃ (s : State) (dt h st : Nat) (k : Contact) (b c : Blk),
      (b = s.blk.tick dt) ∧
      (hpdNext b h = some (st, k)) ∧
      (c = (b.putHead h { b.head h with hpd := k, irq := (b.head h).irq && st != ctInactive }).wr F.OHD_STAT_HPD h st)) ∧
    (∃ (s : State) (dt h lost : Nat) (status : List Nat) (b c d : Blk),
      (b = s.blk.tick dt) ∧
      ((b.head h).irq = true ∧ auxUsable b h = true ∧ b.rd F.OHD_STAT_LINK h = 3) ∧
      (c = (b.putHead h { b.head h with irq := false }).emit (.aux h false 0x200 false (List.replicate 8 0))) ∧
      (lost = lanesLost (linkLanes c h) (status.drop 2) ∧ lost ≠ 0) ∧
      (d = ohdEvent h 0x107 sevWarning (lost % 16) (evB 1) c)) := by
  refine ⟨?_, ?_, ?_, ?_, ?_, ?_, ?_, ?_⟩
  · exact ⟨State.reset.withBlk (({ heads := [(2, { pend := [(F.OHD_CTRL_RATES.key 2 0, 3)] })] } : Blk).wr F.PG_CTRL_ENABLE 0x262 1), 0, 2, _, _, rfl, by decide +kernel, rfl⟩
  · exact ⟨State.reset.withBlk (({} : Blk).wr F.PG_CTRL_ENABLE 0x262 1), 0, 2, _, _, _, _, rfl, by decide +kernel, rfl, rfl, rfl⟩
  · exact ⟨State.reset, 0, 2, true, _, rfl, by decide +kernel⟩
  · exact ⟨State.reset.withBlk ((({ stg := [(2, { shown := [(0, 1)] })] } : Blk).wr F.PG_CTRL_ENABLE 0x262 1).wr F.PG_CTRL_ENABLE 0x222 1), 0, 2, 5, _, _, rfl, by decide +kernel, rfl⟩
  · exact ⟨State.reset, 0, 0, _, rfl⟩
  · exact ⟨({ now := 300000, heads := [(0, { lowAt := some 0, hpd := { fresh := false } })] } : Blk).wr F.OHD_STAT_HPD 0 0, 1, 0, 0, by decide +kernel, by decide +kernel, by decide +kernel⟩
  · exact ⟨State.reset.withBlk (({ heads := [(0, { hpd := { fresh := false, level := true, run := 50000, settled := some false } })] } : Blk).wr F.OHD_STAT_HPD 0 0), 0, 0, 1, { fresh := false, level := true, run := 50000, settled := some true, changes := [0] }, _, _, rfl, by decide +kernel, rfl⟩
  · exact ⟨State.reset.withBlk (({ driving := true, heads := [(0, { irq := true })] } : Blk).wr F.OHD_STAT_LINK 0 3), 0, 0, 3, [], _, _, _, rfl, by decide +kernel, rfl, by decide +kernel, rfl⟩

/-- What HeadCommands assumes can be met: irqHpdIgnored, auxAcked, auxRetried, auxTimeout, auxSilent, edidRead,
headResumeStored, txPacketSent. -/
theorem witness_HeadCommands_2 :
    (∃ (s : State) (dt h : Nat) (status : List Nat) (b : Blk),
      (b = s.blk.tick dt) ∧
      ((b.head h).irq = true ∧ b.rd F.OHD_STAT_HPD h = 4)) ∧
    (∃ (s : State) (dt h addr : Nat) (i2c write : Bool) (bytes : List Nat) (q : AuxReq) (b c : Blk),
      (b = s.blk.tick dt) ∧
      (auxUsable b h = true ∧ auxAllowed i2c addr bytes.length write = true) ∧
      ((b.head h).aux = some q ∧ q.addr = addr ∧ q.write = write ∧ q.i2c = i2c) ∧
      (c = b.putHead h { b.head h with aux := none })) ∧
    (∃ (s : State) (dt h addr : Nat) (i2c write : Bool) (bytes : List Nat) (q : AuxReq) (b : Blk),
      (b = s.blk.tick dt) ∧
      (auxUsable b h = true ∧ auxAllowed i2c addr bytes.length write = true) ∧
      ((b.head h).aux = some q ∧ q.addr = addr ∧ q.write = write ∧ q.i2c = i2c)) ∧
    (∃ (s : State) (dt h : Nat) (q : AuxReq) (b : Blk),
      (b = s.blk.tick dt) ∧
      ((b.head h).aux = some q)) ∧
    (∃ (h addr tries : Nat) (i2c write : Bool) (bytes : List Nat) (b : Blk),
      (b.driving = false)) ∧
    (∃ (s : State) (dt h n : Nat) (remote raw : List Nat) (l good : List (List Nat)) (pref : Option Mode) (b : Blk),
      (b = s.blk.tick dt) ∧
      (auxUsable b h = true ∧ hpdAsserted b h = true) ∧
      (raw = if b.on F.OHD_CTRL_MST h then remote else (b.head h).ddc) ∧
      (n = Nat.min (edidLength raw / 128) (cdiv raw.length 128)) ∧
      (l = (List.range n).map fun k => (List.range 128).map fun i => raw.getD (128 * k + i) 0) ∧
      (good = if edidSumOk (l.headD []) then l.filter edidSumOk else []) ∧
      (pref = if good.isEmpty then none else preferred good)) ∧
    (∃ (s : State) (dt h r n mst n0 id0 n1 id1 : Nat) (drive : List Nat) (b c d : Blk),
      (b = s.blk.tick dt) ∧
      (unitEnabled b (headUnit h) = true ∧ hpdAsserted b h = true ∧ b.rd F.OHD_STAT_LINK h ≠ 3 ∧ (b.head h).try_ = none) ∧
      ((b.head h).link = some (r :: n :: mst :: n0 :: id0 :: n1 :: id1 :: drive) ∧ mst = b.rd F.OHD_CTRL_MST h) ∧
      (c = if (b.unit (headUnit h)).state = stOff then unitStart (headUnit h) b else b) ∧
      (d = c.putHead h { c.head h with
        checkAt := some (c.now + 1000000), checking := false,
        sinks := List.replicate (b2n (id0 != 0) + b2n (id1 != 0)) [] })) ∧
    (∃ (s : State) (dt h n p : Nat) (b c : Blk) (pay : Nat × Nat × List Nat),
      (b = s.blk.tick dt) ∧
      (b.on F.OHD_TX_CFG_EN h = true ∧ headRuns b h = true ∧ ownOut b = true ∧ b.on F.OHD_TX_CFG_DUP_EN h = false) ∧
      (n = (b.head h).txNext ∧ n < txPackets b h ∧ p = b.rd F.OHD_TX_CFG_NIF h) ∧
      (c = b.putHead h { b.head h with txNext := n + 1, txSeq := ((b.head h).txSeq + 1) % 2 ^ 32 }) ∧
      (pay = txPayload c s.store h n ∧ linkUp c p = true)) := by
  refine ⟨?_, ?_, ?_, ?_, ?_, ?_, ?_, ?_⟩
  · exact ⟨State.reset.withBlk (({ heads := [(0, { irq := true })] } : Blk).wr F.OHD_STAT_HPD 0 4), 0, 0, [1], _, rfl, by decide +kernel⟩
  · exact ⟨State.reset.withBlk { driving := true, heads := [(0, { aux := some ⟨false, 0x2200, false, [], 0, 0⟩ })] }, 0, 0, 0x2200, false, false, [0], ⟨false, 0x2200, false, [], 0, 0⟩, _, _, rfl, by decide +kernel, by decide +kernel, rfl⟩
  · exact ⟨State.reset.withBlk { driving := true, heads := [(0, { aux := some ⟨false, 0x2200, false, [], 0, 0⟩ })] }, 0, 0, 0x2200, false, false, [0], ⟨false, 0x2200, false, [], 0, 0⟩, _, rfl, by decide +kernel, by decide +kernel⟩
  · exact ⟨State.reset.withBlk { heads := [(0, { aux := some ⟨false, 0x2200, false, [], 0, 0⟩ })] }, 400000, 0, ⟨false, 0x2200, false, [], 0, 0⟩, _, rfl, by decide +kernel⟩
  · exact ⟨0, 0x2200, 0, false, false, [], {}, by decide +kernel⟩
  · exact ⟨State.reset.withBlk (({ driving := true } : Blk).wr F.OHD_STAT_HPD 0 1), 0, 0, _, [], _, _, _, none, _, rfl, by decide +kernel, rfl, rfl, rfl, rfl, by decide +kernel⟩
  · exact ⟨State.reset.withBlk ((({ driving := true, heads := [(0, { link := some [1, 2, 0, 0, 0, 0, 0, 3, 3] })] } : Blk).wr F.PG_CTRL_ENABLE 0x260 1 |>.wr F.OHD_CTRL_LANES_EN 0 1).wr F.OHD_STAT_HPD 0 1), 0, 0, 1, 2, 0, 0, 0, 0, 0, [3, 3], _, _, _, rfl, by decide +kernel, by decide +kernel, rfl, rfl⟩
  · exact ⟨State.reset.withBlk ((((((({} : Blk).wr F.OHD_TX_CFG_EN 0 1).wr F.PG_CTRL_ENABLE 0x260 1).wr F.PAIR_STAT_OWN_OUT 0 1).wr F.NIF_STAT_LINK 0 1).wr F.OHD_HTIM0_ACTIVE 0 64).wr F.OHD_VTIM0_ACTIVE 0 64), 0, 0, 0, 0, _, _, _, rfl, by decide +kernel, by decide +kernel, rfl, rfl, by decide +kernel⟩

/-- What HeadCommands assumes can be met: txPacketLost. -/
theorem witness_HeadCommands_3 :
    (∃ (s : State) (dt h n : Nat) (b c : Blk),
      (b = s.blk.tick dt) ∧
      (b.on F.OHD_TX_CFG_EN h = true ∧ headRuns b h = true ∧ ownOut b = true ∧ b.on F.OHD_TX_CFG_DUP_EN h = false) ∧
      (n = (b.head h).txNext ∧ n < txPackets b h) ∧
      (c = b.putHead h { b.head h with txNext := n + 1, txSeq := ((b.head h).txSeq + 1) % 2 ^ 32 })) := by
  · exact ⟨State.reset.withBlk ((((((({} : Blk).wr F.OHD_TX_CFG_EN 0 1).wr F.PG_CTRL_ENABLE 0x260 1).wr F.PAIR_STAT_OWN_OUT 0 1).wr F.NIF_STAT_LINK 0 1).wr F.OHD_HTIM0_ACTIVE 0 64).wr F.OHD_VTIM0_ACTIVE 0 64), 0, 0, 0, _, _, rfl, by decide +kernel, by decide +kernel, rfl⟩

/-- What BringUpCommands assumes can be met: detectProbe, stepTimes, bringupTimeout, backoffExpiry, trainingFrame,
trainingFrameInvalid, trainingComplete, bitLock. -/
theorem witness_BringUpCommands_1 :
    (∃ (s : State) (dt u : Nat) (sensed : Bool) (b : Blk),
      (b = s.blk.tick dt) ∧
      ((b.unit u).state = 1 ∧ unitKind u ≠ 1)) ∧
    (∃ (b : Blk) (u : Nat),
      (unitKind u ≠ 1)) ∧
    (∃ (s : State) (dt u : Nat) (b : Blk),
      (b = s.blk.tick dt)) ∧
    (∃ (s : State) (dt u : Nat) (b : Blk),
      (b = s.blk.tick dt) ∧
      ((b.unit u).state = 7 ∧ (b.unit u).till ≤ b.now)) ∧
    (∃ (s : State) (dt l u bad control status : Nat) (inverted trained : Bool) (b c : Blk),
      (b = s.blk.tick dt) ∧
      (unitOfLane b l = some u ∧ unitKind u = 2 ∧ (b.unit u).state = 2) ∧
      (bad ≤ 2 ∧ (inverted = true → laneCfg b l 0 = 1)) ∧
      (c = tapRequest l control ((b.wr F.LANE_STAT_SIGNAL l 1).put F.LANE_STAT_RX_INV l inverted))) ∧
    (∃ (s : State) (dt l u bad control status : Nat) (inverted trained : Bool) (b : Blk),
      (b = s.blk.tick dt) ∧
      (unitOfLane b l = some u) ∧
      (2 < bad ∨ (inverted = true ∧ laneCfg b l 0 ≠ 1))) ∧
    (∃ (s : State) (dt l u : Nat) (b c : Blk),
      (b = s.blk.tick dt) ∧
      (unitOfLane b l = some u ∧ unitKind u = 2 ∧ (b.unit u).state = 2) ∧
      ((b.lane l).done = false ∧ 16 ≤ (b.lane l).ready ∧ (b.lane l).readyAt + 19738 ≤ b.now) ∧
      (c = b.putLane l { b.lane l with done := true, tx := {} })) ∧
    (∃ (s : State) (dt u : Nat) (b : Blk),
      (b = s.blk.tick dt) ∧
      (unitKind u ≠ 1 ∧ (b.unit u).state = 3)) := by
  refine ⟨?_, ?_, ?_, ?_, ?_, ?_, ?_, ?_⟩
  · exact ⟨State.reset.withBlk { units := [(40, { state := 1 })] }, 0, 40, true, _, rfl, by decide +kernel⟩
  · exact ⟨{}, 40, by decide +kernel⟩
  · exact ⟨State.reset, 0, 40, _, rfl⟩
  · exact ⟨State.reset.withBlk { units := [(40, { state := 7 })] }, 0, 40, _, rfl, by decide +kernel⟩
  · exact ⟨State.reset.withBlk { units := [(40, { state := 2, lanes := [80, 81, 82, 83] })] }, 0, 81, 40, 1, 0, 16, false, true, _, _, rfl, by decide +kernel, by decide +kernel, rfl⟩
  · exact ⟨State.reset.withBlk { units := [(40, { state := 2, lanes := [80, 81, 82, 83] })] }, 0, 81, 40, 3, 0, 16, false, true, _, rfl, by decide +kernel, .inl (by decide)⟩
  · exact ⟨State.reset.withBlk { now := 20000, units := [(40, { state := 2, lanes := [80, 81, 82, 83] })], lanes := [(81, { ready := 16 })] }, 0, 81, 40, _, _, rfl, by decide +kernel, by decide +kernel, rfl⟩
  · exact ⟨State.reset.withBlk { units := [(40, { state := 3 })] }, 0, 40, _, rfl, by decide +kernel⟩

/-- What BringUpCommands assumes can be met: blockLock, blockLockNetwork, signalLossActive, lockLossActive, signalLossInBit,
activeHold, linkTrainingDone, trainingRates. -/
theorem witness_BringUpCommands_2 :
    (∃ (s : State) (dt u skew delay : Nat) (hunts : List LaneHunt) (b c : Blk),
      (b = s.blk.tick dt) ∧
      ((b.unit u).state = 4 ∧ unitKind u = 2) ∧
      (c = huntLanes (b.unit u).lanes hunts b)) ∧
    (∃ (s : State) (dt u skew delay : Nat) (hunts : List LaneHunt) (b : Blk),
      (b = s.blk.tick dt) ∧
      ((b.unit u).state = 4 ∧ unitKind u = 0 ∧ skew ≤ 1800)) ∧
    (∃ (s : State) (dt l u : Nat) (obs : List LineObs) (b c : Blk),
      (b = s.blk.tick dt) ∧
      (unitOfLane b l = some u ∧ (b.unit u).state = 6) ∧
      (c = b.wr F.LANE_STAT_SIGNAL l 0)) ∧
    (∃ (s : State) (dt l u : Nat) (obs : List LineObs) (b c : Blk),
      (b = s.blk.tick dt) ∧
      (unitOfLane b l = some u ∧ (b.unit u).state = 6 ∧ unitKind u = 2) ∧
      (c = b.putLane l { b.lane l with line := lineRun (b.lane l).line obs })) ∧
    (∃ (s : State) (dt l u : Nat) (obs : List LineObs) (b c : Blk),
      (b = s.blk.tick dt) ∧
      (unitOfLane b l = some u ∧ (b.unit u).state = 3 ∧ (b.unit u).lostAt = none) ∧
      (c = b.wr F.LANE_STAT_SIGNAL l 0)) ∧
    (∃ (s : State) (dt u : Nat) (b : Blk),
      (b = s.blk.tick dt) ∧
      ((b.unit u).state = 6 ∧ (b.unit u).since + 1000000000 ≤ b.now)) ∧
    (∃ (s : State) (dt h r : Nat) (topo : List (List (Nat × Nat × Nat))) (drive : List Nat) (b : Blk),
      (b = s.blk.tick dt) ∧
      (unitEnabled b (headUnit h) = true ∧ (b.head h).try_ = some r)) ∧
    (∃ (h r q : Nat) (t : List Nat) (b c : Blk),
      (c = b.putHead h { b.head h with try_ := none }) ∧
      ((b.head h).checking = false ∧ auxUsable c h = true)) := by
  refine ⟨?_, ?_, ?_, ?_, ?_, ?_, ?_, ?_⟩
  · exact ⟨State.reset.withBlk { units := [(40, { state := 4, lanes := [80, 81, 82, 83] })] }, 0, 40, 7, 0, [], _, _, rfl, by decide +kernel, rfl⟩
  · exact ⟨State.reset.withBlk { units := [(4, { state := 4, lanes := [8, 9] })] }, 0, 4, 7, 0, [], _, rfl, by decide +kernel⟩
  · exact ⟨State.reset.withBlk { units := [(40, { state := 6, lanes := [80, 81, 82, 83] })] }, 0, 81, 40, [], _, _, rfl, by decide +kernel, rfl⟩
  · exact ⟨State.reset.withBlk { units := [(40, { state := 6, lanes := [80, 81, 82, 83] })] }, 0, 81, 40, [], _, _, rfl, by decide +kernel, rfl⟩
  · exact ⟨State.reset.withBlk { units := [(40, { state := 3, lanes := [80, 81, 82, 83] })] }, 0, 81, 40, [], _, _, rfl, by decide +kernel, rfl⟩
  · exact ⟨State.reset.withBlk { now := 1000000000, units := [(40, { state := 6, fails := 3 })] }, 0, 40, _, rfl, by decide +kernel⟩
  · exact ⟨State.reset.withBlk (({ driving := true, heads := [(0, { try_ := some 1 })] } : Blk).wr F.PG_CTRL_ENABLE 0x260 1 |>.wr F.OHD_CTRL_LANES_EN 0 1), 0, 0, 1, [], [3, 3], _, rfl, by decide +kernel⟩
  · exact ⟨0, 1, 1, [], ({ driving := true } : Blk).wr F.OHD_STAT_HPD 0 3, _, rfl, by decide +kernel⟩

/-- What BringUpCommands assumes can be met: trainingAttemptTimeout, linkCheckPassed, linkCheckFailed. -/
theorem witness_BringUpCommands_3 :
    (∃ (s : State) (dt h r : Nat) (b : Blk),
      (b = s.blk.tick dt) ∧
      ((b.head h).try_ = some r ∧ (b.head h).tryAt + 100000000 ≤ b.now)) ∧
    (∃ (s : State) (dt h t : Nat) (status : List Nat) (b c : Blk),
      (b = s.blk.tick dt) ∧
      ((b.head h).checkAt = some t ∧ t ≤ b.now) ∧
      (c = b.emit (.aux h false 0x202 false [0, 0, 0])) ∧
      (statusGood (linkLanes c h) status = true)) ∧
    (∃ (s : State) (dt h t q : Nat) (l status : List Nat) (b c : Blk),
      (b = s.blk.tick dt) ∧
      ((b.head h).checkAt = some t ∧ t ≤ b.now) ∧
      (c = (b.emit (.aux h false 0x202 false [0, 0, 0])).putHead h { b.head h with checkAt := none, checking := true }) ∧
      (statusGood (linkLanes (b.emit (.aux h false 0x202 false [0, 0, 0])) h) status = false) ∧
      (ratesToTry c h = q :: l)) := by
  refine ⟨?_, ?_, ?_⟩
  · exact ⟨State.reset.withBlk { now := 100000000, heads := [(0, { try_ := some 1 })] }, 0, 0, 1, _, rfl, by decide +kernel⟩
  · exact ⟨State.reset.withBlk (({ heads := [(0, { checkAt := some 0 })] } : Blk).wr F.OHD_CTRL_LANES_EN 0 1), 0, 0, 0, [0x77, 0x77, 1], _, _, rfl, by decide +kernel, rfl, by decide +kernel⟩
  · exact ⟨State.reset.withBlk (({ heads := [(0, { checkAt := some 0, dpcd := [(1, 0x1E)] })] } : Blk).wr F.OHD_CTRL_RATES 0 1), 0, 0, 0, 1, [], [0, 0, 0], _, _, rfl, by decide +kernel, rfl, by decide +kernel, by decide +kernel⟩

/-- What ChainoAndMarginCommands assumes can be met: capFrameSend, capFrameCorrupt, capFrameRefused, capFrameAccepted,
capFrameActive, goodbyeRx, chainoFrameRx, frameEnded. -/
theorem witness_ChainoAndMarginCommands_1 :
    (∃ (s : State) (dt p gap : Nat) (b c : Blk),
      (b = s.blk.tick dt) ∧
      ((b.unit (chnUnit p)).state = 5 ∨ (b.unit (chnUnit p)).state = 6) ∧
      (gap = if (b.unit (chnUnit p)).state = 5 then 10000 else b.rd F.CHN_CFG_CAP_PERIOD p * 100000) ∧
      (c = chnReport p b) ∧
      ((c.cport p).capAt = 0 ∨ (c.cport p).capAt + gap ≤ c.now)) ∧
    (∃ (s : State) (dt p : Nat) (w : List Nat) (b : Blk),
      (b = s.blk.tick dt) ∧
      ((b.unit (chnUnit p)).state = 5 ∨ (b.unit (chnUnit p)).state = 6) ∧
      (w.length ≠ 16 ∨ w.getD 15 0 ≠ crc32c ((w.take 15).flatMap (leBytes 4)))) ∧
    (∃ (s : State) (dt p why : Nat) (w : List Nat) (b c : Blk),
      (b = s.blk.tick dt) ∧
      ((b.unit (chnUnit p)).state = 5) ∧
      (w.length = 16 ∧ w.getD 15 0 = crc32c ((w.take 15).flatMap (leBytes 4))) ∧
      (why = capCause (b.bump F.CHN_FRAMES_RX_COUNT p) p w ∧ why ≠ 0) ∧
      (c = ((b.bump F.CHN_FRAMES_RX_COUNT p).wr F.CHN_STAT_REFUSED p 1).wr F.CHN_STAT_CAUSE p why)) ∧
    (∃ (s : State) (dt p : Nat) (w : List Nat) (b c d : Blk),
      (b = s.blk.tick dt) ∧
      ((b.unit (chnUnit p)).state = 5) ∧
      (w.length = 16 ∧ w.getD 15 0 = crc32c ((w.take 15).flatMap (leBytes 4))) ∧
      (capCause (b.bump F.CHN_FRAMES_RX_COUNT p) p w = 0) ∧
      (c = capKeep p w (((b.bump F.CHN_FRAMES_RX_COUNT p).wr F.CHN_STAT_REFUSED p 0).wr F.CHN_STAT_CAUSE p 0)) ∧
      (d = c.putCport p { c.cport p with accepted := true })) ∧
    (∃ (s : State) (dt p : Nat) (w : List Nat) (b c : Blk),
      (b = s.blk.tick dt) ∧
      ((b.unit (chnUnit p)).state = 6) ∧
      (w.length = 16 ∧ w.getD 15 0 = crc32c ((w.take 15).flatMap (leBytes 4))) ∧
      (c = b.bump F.CHN_FRAMES_RX_COUNT p)) ∧
    (∃ (s : State) (dt p : Nat) (b : Blk),
      (b = s.blk.tick dt) ∧
      (chnUp b p = true)) ∧
    (∃ (s : State) (dt p : Nat) (cws : List (List (List Nat))) (b d : Blk),
      (b = s.blk.tick dt) ∧
      (d = chnReport p b)) ∧
    (∃ (p v : Nat) (marked : Bool) (f : RxUnit) (b d : Blk),
      (v % 256 = 0x87 ∧ (b.cport p).group = none ∧ (b.cport p).frame = some f) ∧
      (d = b.putCport p { b.cport p with frame := none })) := by
  refine ⟨?_, ?_, ?_, ?_, ?_, ?_, ?_, ?_⟩
  · exact ⟨State.reset.withBlk { units := [(40, { state := 5 })] }, 0, 0, _, _, _, rfl, by decide +kernel, rfl, rfl, by decide +kernel⟩
  · exact ⟨State.reset.withBlk { units := [(40, { state := 5 })] }, 0, 0, [], _, rfl, by decide +kernel, .inl (by decide)⟩
  · exact ⟨State.reset.withBlk { units := [(40, { state := 5 })] }, 0, 0, 1, [0, 0, 0, 0, 0, 0, 0, 0, 0, 0, 0, 0, 0, 0, 0, crc32c (List.replicate 60 0)], _, _, rfl, by decide +kernel, by decide +kernel, by decide +kernel, rfl⟩
  · exact ⟨State.reset.withBlk { units := [(40, { state := 5 })] }, 0, 0, [0x4F4E4843, 0x9600100, 1, 0, 0, 0, 0, 15, 0, 0, 0, 0, 0, 0, 0, crc32c ([0x4F4E4843, 0x9600100, 1, 0, 0, 0, 0, 15, 0, 0, 0, 0, 0, 0, 0].flatMap (leBytes 4))], _, _, _, rfl, by decide +kernel, by decide +kernel, by decide +kernel, rfl, rfl⟩
  · exact ⟨State.reset.withBlk { units := [(40, { state := 6 })] }, 0, 0, [0, 0, 0, 0, 0, 0, 0, 0, 0, 0, 0, 0, 0, 0, 0, crc32c (List.replicate 60 0)], _, _, rfl, by decide +kernel, by decide +kernel, rfl⟩
  · exact ⟨State.reset.withBlk { units := [(40, { state := 6 })] }, 0, 0, _, rfl, by decide +kernel⟩
  · exact ⟨State.reset.withBlk { units := [(40, { state := 6 })] }, 0, 0, [[], [], [], []], _, _, rfl, rfl⟩
  · exact ⟨0, 0x87, false, { chan := 1, len := 2 }, { chn := [(0, { frame := some { chan := 1, len := 2 } })] }, _, by decide +kernel, rfl⟩

/-- What ChainoAndMarginCommands assumes can be met: expressGroupRx, eyePointDone, quickScanFirst, laneSerHour, relayPixels,
relayEvidenceIn. -/
theorem witness_ChainoAndMarginCommands_2 :
    (∃ (s : State) (dt p : Nat) (cws : List (List (List Nat))) (b d : Blk),
      (b = s.blk.tick dt) ∧
      (d = chnReport p b)) ∧
    (∃ (s : State) (dt l errs e : Nat) (q : List Nat) (b c : Blk),
      (b = s.blk.tick dt) ∧
      ((b.lane l).scan = some q ∧ (b.lane l).pointAt + pointNs (laneNrz b l) (q.getD 2 5) ≤ b.now) ∧
      (e = (b.lane l).scanDone / q.getD 0 1 * 32 + (b.lane l).scanDone % q.getD 0 1) ∧
      (c = (b.wr (if e % 2 = 0 then F.LANE_EYE_RES_LO else F.LANE_EYE_RES_HI) l (Nat.min 4095 errs) (e / 2)).wr F.LANE_EYE_STAT_POINTS l ((b.lane l).scanDone + 1))) ∧
    (∃ (s : State) (dt l w h : Nat) (ph vo : List Nat) (b : Blk),
      (b = s.blk.tick dt) ∧
      (quickDue b l = true ∧ b.on F.LANE_EYE_STAT_BUSY l = false ∧ (b.lane l).based = false ∧ (b.lane l).queued = false) ∧
      (w = zeroSpan ph ∧ h = 2 * zeroSpan vo ∧ 8 ≤ w ∧ w < 128 ∧ 12 ≤ h ∧ h < 512) ∧
      (b.rd F.LANE_MARGIN_CFG_LIMIT_PCT l ≤ 100)) ∧
    (∃ (s : State) (dt l : Nat) (b : Blk),
      (b = s.blk.tick dt) ∧
      (80 ≤ l ∧ l < 96 ∧ (b.lane l).hour < b.now / 3600000000000)) ∧
    (∃ (s : State) (dt p : Nat) (f : RelayFrame) (b c : Blk),
      (b = s.blk.tick dt) ∧
      (ensState b = esMember ∧ (p = 1 ∨ p = 2)) ∧
      (c = forEach (relayOnward b p (f.layer % 4096)) (fun q b => chnSend q 6 (relayHeader (f.layer % 4096) f.buf f.kind f.offset ++ byteWords f.bytes ++ []) b) b) ∧
      (c.ens.subs.contains (f.layer % 4096) = true ∧ f.kind = 0 ∧ f.ev = none)) ∧
    (∃ (s : State) (dt p : Nat) (f : RelayFrame) (e : RelayEv) (b c : Blk),
      (b = s.blk.tick dt) ∧
      (ensState b = esMember ∧ (p = 1 ∨ p = 2)) ∧
      (c = forEach (relayOnward b p (f.layer % 4096)) (fun q b => chnSend q 6 (relayHeader (f.layer % 4096) f.buf f.kind f.offset ++ byteWords f.bytes ++ evidenceWords e) b) b) ∧
      (c.ens.subs.contains (f.layer % 4096) = true ∧ f.kind = 1 ∧ f.ev = some e)) := by
  refine ⟨?_, ?_, ?_, ?_, ?_, ?_⟩
  · exact ⟨State.reset.withBlk { units := [(40, { state := 6 })] }, 0, 0, [[], [], [], []], _, _, rfl, rfl⟩
  · exact ⟨State.reset.withBlk { now := 100000000, lanes := [(80, { scan := some [2, 2, 4] })] }, 0, 80, 7, _, [2, 2, 4], _, _, rfl, by decide +kernel, rfl, rfl⟩
  · exact ⟨State.reset.withBlk { now := 3600000000000 * 30, units := [(40, { state := 6, lanes := [80, 81, 82, 83] })] }, 0, 80, 64, 128, List.replicate 64 0, List.replicate 64 0, _, rfl, by decide +kernel, by decide +kernel, by decide +kernel⟩
  · exact ⟨State.reset.withBlk { now := 3600000000000, lanes := [(80, { hourCorr := 3 })] }, 0, 80, _, rfl, by decide +kernel⟩
  · exact ⟨State.reset.withBlk (({ ens := { subs := [3] } } : Blk).wr F.ENS_STAT_STATE 0 3), 0, 1, ⟨3, 0, 0, 0, [1, 2], none⟩, _, _, rfl, by decide +kernel, rfl, by decide +kernel⟩
  · exact ⟨State.reset.withBlk (({ ens := { subs := [3] } } : Blk).wr F.ENS_STAT_STATE 0 3), 0, 1, ⟨3, 0, 1, 0, [], some ⟨5, none, false, [], [], [], 0, false, false, false, 0, 0⟩⟩, ⟨5, none, false, [], [], [], 0, false, false, false, 0, 0⟩, _, _, rfl, by decide +kernel, rfl, by decide +kernel⟩

/-- What PairCommands assumes can be met: pairFormed, pairRefused, pairUnformed, refusalCauses, settledActive,
settledUnderstudy, heartbeatSend, callFrameSend. -/
theorem witness_PairCommands_1 :
    (∃ (s : State) (dt : Nat) (b : Blk),
      (b = s.blk.tick dt) ∧
      (b.on F.PAIR_CFG_EN 0 = true ∧ (chnUp b 0 = true ∨ partnerPath b = true)) ∧
      (pairRefusal b = 0)) ∧
    (∃ (s : State) (dt why : Nat) (b c : Blk),
      (b = s.blk.tick dt) ∧
      (b.on F.PAIR_CFG_EN 0 = true ∧ (chnUp b 0 = true ∨ partnerPath b = true)) ∧
      (pairRefusal b = why ∧ why ≠ 0 ∧ b.on F.PAIR_STAT_REFUSED 0 = false) ∧
      (c = raise pairPage 0x103 sevWarning why 0 (((b.put F.PAIR_STAT_REFUSED 0 true).wr F.PAIR_STAT_REFUSE_CAUSE 0 why).putPr { b.pr with formed := false }))) ∧
    (∃ (s : State) (dt : Nat) (b : Blk),
      (b = s.blk.tick dt) ∧
      (b.on F.PAIR_CFG_EN 0 = false ∨ (chnUp b 0 = false ∧ partnerPath b = false))) ∧
    (∃ (b : Blk),
      (chnUp b 0 = true)) ∧
    (∃ (s : State) (dt : Nat) (b c : Blk),
      (b = s.blk.tick dt) ∧
      (b.pr.settleAt + 50000 ≤ b.now) ∧
      (c = roleReport 0 (b.putPr { b.pr with settleAt := b.now })) ∧
      (role c = 1 ∧ c.on F.PAIR_STAT_REFUSED 0 = false ∧ c.on F.SYS_STAT_EJECTING 0 = false ∧ c.on F.SYS_STAT_OPERATING 0 = true ∧ c.rd F.ENS_STAT_STATE 0 ≠ 2) ∧
      (heard c = false ∧ ownIn c = false ∧ ownInFree c = true ∧ c.ctl.fatal = false) ∧
      (Nat.max c.pr.heardAt (c.rd F.SYS_OPER_TIME_TIME 0) + c.rd F.PAIR_CFG_SETTLE 0 * 100000000 ≤ c.now)) ∧
    (∃ (s : State) (dt : Nat) (b c : Blk),
      (b = s.blk.tick dt) ∧
      (b.pr.settleAt + 50000 ≤ b.now) ∧
      (c = roleReport 0 (b.putPr { b.pr with settleAt := b.now })) ∧
      (role c = 1 ∧ c.on F.PAIR_STAT_REFUSED 0 = false ∧ c.on F.SYS_STAT_EJECTING 0 = false ∧ c.on F.SYS_STAT_OPERATING 0 = true ∧ c.rd F.ENS_STAT_STATE 0 ≠ 2) ∧
      (heard c = true ∧ c.pr.hot = false) ∧
      (c.rd F.PAIR_STAT_PEER_ROLE 0 = 3 ∨ c.rd F.PAIR_STAT_PEER_ROLE 0 = 4)) ∧
    (∃ (s : State) (dt : Nat) (b c d : Blk),
      (b = s.blk.tick dt) ∧
      (chnUp b 0 = true ∧ b.on F.PAIR_CFG_EN 0 = true ∧ (b.pr.sentA = 0 ∨ b.pr.sentA + 8000 ≤ b.now)) ∧
      (c = refreshReady b) ∧
      (d = chnExpress 0 1 (byteWords (beatBytes c)) c)) ∧
    (∃ (s : State) (dt : Nat) (b c : Blk),
      (b = s.blk.tick dt) ∧
      (b.pr.sentB = 0 ∨ b.pr.sentB + 50000 ≤ b.now) ∧
      (c = refreshReady b)) := by
  refine ⟨?_, ?_, ?_, ?_, ?_, ?_, ?_, ?_⟩
  · exact ⟨State.reset.withBlk (({ units := [(40, { state := 6 })] } : Blk).wr F.PAIR_CFG_EN 0 1 |>.wr F.CHN_PEER_WORD 0 256 4 |>.wr F.CHN_PEER_WORD 0 3 5 |>.wr F.SYS_VARIANT_USABLE_GIB 0 3), 0, _, rfl, by decide +kernel, by decide +kernel⟩
  · exact ⟨State.reset.withBlk (({ units := [(40, { state := 6 })] } : Blk).wr F.PAIR_CFG_EN 0 1 |>.wr F.CHN_PEER_WORD 0 1 5 |>.wr F.SYS_VARIANT_USABLE_GIB 0 3), 0, 1, _, _, rfl, by decide +kernel, by decide +kernel, rfl⟩
  · exact ⟨State.reset, 0, _, rfl, .inr (by decide +kernel)⟩
  · exact ⟨{ units := [(40, { state := 6 })] }, by decide +kernel⟩
  · exact ⟨State.reset.withBlk (({ now := 10000000000, pair := { roleTold := 1 } } : Blk).wr F.SYS_ROLE_ROLE 0 1 |>.wr F.SYS_STAT_OPERATING 0 1), 0, _, _, rfl, by decide +kernel, rfl, by decide +kernel, by decide +kernel, by decide +kernel⟩
  · exact ⟨State.reset.withBlk (({ now := 10000000000, pair := { roleTold := 1 } } : Blk).wr F.SYS_ROLE_ROLE 0 1 |>.wr F.SYS_STAT_OPERATING 0 1 |>.wr F.PAIR_CFG_EN 0 1 |>.wr F.PAIR_STAT_PATH_A 0 1 |>.wr F.PAIR_STAT_PEER_ROLE 0 3), 0, _, _, rfl, by decide +kernel, rfl, by decide +kernel, by decide +kernel, .inl (by decide +kernel)⟩
  · exact ⟨State.reset.withBlk (({ units := [(40, { state := 6 })] } : Blk).wr F.PAIR_CFG_EN 0 1), 0, _, _, _, rfl, by decide +kernel, rfl, rfl⟩
  · exact ⟨State.reset, 0, _, _, rfl, .inl (by decide +kernel), rfl⟩

/-- What PairCommands assumes can be met: heartbeatRx, heartbeatRepeat, callFrameRx, pathStillUp, pathLostOtherUp,
claimWindowEnd, ownContestSeat1, ownContestSeat0. -/
theorem witness_PairCommands_2 :
    (∃ (s : State) (dt run sel : Nat) (p : Beat) (utc dco : Int) (b c d : Blk),
      (b = s.blk.tick dt) ∧
      (chnUp b 0 = true ∧ b.on F.PAIR_CFG_EN 0 = true ∧ b.pr.lastA ≠ some p.seq) ∧
      (run = if (b.pr.lastA.isSome && Nat.ble b.now (b.pr.atA + 16000)) = true then b.pr.runA + 1 else 1) ∧
      (c = b.putPr { b.pr with lastA := some p.seq, atA := b.now, runA := run, rxA := some (p.seq, b.now - rdiv (b.rd F.CHN_LAT_RX 0) 10) }) ∧
      (d = if 8 ≤ run then pathRise true c else c) ∧
      (d.on F.PAIR_STAT_PATH_A 0 = false)) ∧
    (∃ (s : State) (dt sel : Nat) (p : Beat) (utc dco : Int) (b : Blk),
      (b = s.blk.tick dt) ∧
      (b.pr.lastA = some p.seq)) ∧
    (∃ (s : State) (dt run : Nat) (p : Beat) (b c : Blk),
      (b = s.blk.tick dt) ∧
      (b.on F.PAIR_CFG_EN 0 = true ∧ b.pr.lastB ≠ some (p.seq % 256) ∧ b.pr.beat = none) ∧
      (run = if (b.pr.lastB.isSome && Nat.ble b.now (b.pr.atB + 100000)) = true then b.pr.runB + 1 else 1) ∧
      (c = b.putPr { b.pr with lastB := some (p.seq % 256), atB := b.now, runB := run }) ∧
      (run < 4)) ∧
    (∃ (s : State) (dt : Nat) (a : Bool) (b : Blk),
      (b = s.blk.tick dt) ∧
      (b.now < (if a = true then b.pr.atA + 32000 else b.pr.atB + 200000))) ∧
    (∃ (s : State) (dt : Nat) (b c : Blk),
      (b = s.blk.tick dt) ∧
      (b.on F.PAIR_STAT_PATH_B 0 = true ∧ b.pr.atB + 200000 ≤ b.now) ∧
      (c = raise pairPage 0x101 sevWarning 1 (evB 1) (((b.wr F.PAIR_STAT_PATH_B 0 0).bump F.PAIR_HB_LOSSES_PATH_B 0).putPr
        { b.pr with runB := 0, heardAt := b.now })) ∧
      (partnerPath c = true)) ∧
    (∃ (s : State) (dt t : Nat) (b : Blk),
      (b = s.blk.tick dt) ∧
      (b.pr.claimAt = some t ∧ t + 5000 ≤ b.now ∧ b.pr.contested = false ∧ ownOut b = true)) ∧
    (∃ (s : State) (dt t : Nat) (b c : Blk),
      (b = s.blk.tick dt) ∧
      (ownOut b = true ∧ b.pr.claimAt = some t ∧ b.now ≤ t + 5000 ∧ b.rd F.SYS_STRAPS_SEAT 0 = 1) ∧
      (c = raise pairPage 0x10D sevWarning 1 0 (dropOwnership (b.wr F.PAIR_STAT_OWN_IN 0 1)))) ∧
    (∃ (s : State) (dt t : Nat) (b c : Blk),
      (b = s.blk.tick dt) ∧
      (ownOut b = true ∧ b.pr.claimAt = some t ∧ b.now ≤ t + 5000 ∧ b.rd F.SYS_STRAPS_SEAT 0 = 0) ∧
      (c = b.wr F.PAIR_STAT_OWN_IN 0 1)) := by
  refine ⟨?_, ?_, ?_, ?_, ?_, ?_, ?_, ?_⟩
  · exact ⟨State.reset.withBlk (({ units := [(40, { state := 6 })] } : Blk).wr F.PAIR_CFG_EN 0 1), 0, 1, 0, ⟨3, 0, false, false, 0, false, false, 0, 0, false, false, 0, false, false, false, false, 0, 0, 0, 0, 0⟩, 0, 0, _, _, _, rfl, by decide +kernel, by decide +kernel, rfl, rfl, by decide +kernel⟩
  · exact ⟨State.reset.withBlk { pair := { lastA := some 3 } }, 0, 0, ⟨3, 0, false, false, 0, false, false, 0, 0, false, false, 0, false, false, false, false, 0, 0, 0, 0, 0⟩, 0, 0, _, rfl, by decide +kernel⟩
  · exact ⟨State.reset.withBlk (({} : Blk).wr F.PAIR_CFG_EN 0 1), 0, 1, ⟨3, 0, false, false, 0, false, false, 0, 0, false, false, 0, false, false, false, false, 0, 0, 0, 0, 0⟩, _, _, rfl, by decide +kernel, by decide +kernel, rfl, by decide⟩
  · exact ⟨State.reset, 0, true, _, rfl, by decide +kernel⟩
  · exact ⟨State.reset.withBlk (({ now := 200000 } : Blk).wr F.PAIR_STAT_PATH_A 0 1 |>.wr F.PAIR_STAT_PATH_B 0 1), 0, _, _, rfl, by decide +kernel, rfl, by decide +kernel⟩
  · exact ⟨State.reset.withBlk (({ now := 5000, pair := { claimAt := some 0 } } : Blk).wr F.PAIR_STAT_OWN_OUT 0 1), 0, 0, _, rfl, by decide +kernel⟩
  · exact ⟨State.reset.withBlk (({ pair := { claimAt := some 0 } } : Blk).wr F.PAIR_STAT_OWN_OUT 0 1 |>.wr F.SYS_STRAPS_SEAT 0 1), 0, 0, _, _, rfl, by decide +kernel, rfl⟩
  · exact ⟨State.reset.withBlk (({ pair := { claimAt := some 0 } } : Blk).wr F.PAIR_STAT_OWN_OUT 0 1), 0, 0, _, _, rfl, by decide +kernel, rfl⟩

/-- What PairCommands assumes can be met: ownInDeasserted. -/
theorem witness_PairCommands_3 :
    (∃ (s : State) (dt : Nat) (b c : Blk),
      (b = s.blk.tick dt) ∧
      (c = (b.wr F.PAIR_STAT_OWN_IN 0 0).putPr { b.pr with ownInAt := b.now - 2000, bothAt := none, waitTold := false })) := by
  · exact ⟨State.reset, 0, _, _, rfl, rfl⟩

/-- What TakeoverAndRehearsalCommands assumes can be met: epochEndSend, epochAckRx, rehearsalSend, rehearsalEqual,
rehearsalTimeout, secondOpinion, opinionOutcome, secondOpinionTimeout. -/
theorem witness_TakeoverAndRehearsalCommands_1 :
    (∃ (s : State) (dt : Nat) (q : Closed) (b c d : Blk),
      (b = s.blk.tick dt) ∧
      (b.pr.closed = some q ∧ (copying b = true ∨ b.pr.released = true)) ∧
      (c = forEach (epochFrames b q) (fun f x => chnSend 0 2 (epochFrameWords f) x) b) ∧
      (d = c.putPr { c.pr with closed := none, links := [] })) ∧
    (∃ (s : State) (dt e : Nat) (b : Blk),
      (b = s.blk.tick dt) ∧
      ((role b = 3 ∨ role b = 4) ∧ b.pr.syncS = none)) ∧
    (∃ (s : State) (dt st second : Nat) (r : Rehearsal) (b c d : Blk),
      (b = s.blk.tick dt) ∧
      (stageRuns b st = true ∧ (b.stage st).shown ≠ [] ∧ b.pr.formed = true ∧ chnUp b 0 = true) ∧
      (r = { rehearsalSet b s.store st with so := setOpinion b st second }) ∧
      (c = b.putPr { b.pr with own := mset b.pr.own st { set := r, at_ := b.now, shown := onDisplay b st, across := cdiv (stageW (b.viewed st) st) 64 } }) ∧
      (d = chnSend 0 3 ([st + 256 * 0 + 65536 * (r.f % 65536), r.f / 65536 % 65536] ++ [r.stamp, (match r.so with | some e => e.1 + 8192 | none => 0),
        (match r.so with | some e => e.2 | none => 0), 0] ++ entryWords r ++ markWords r) c)) ∧
    (∃ (s : State) (dt st : Nat) (x : OwnSet) (y : Rehearsal) (b c : Blk) (cmp bad : List Nat),
      (b = s.blk.tick dt) ∧
      (mget b.pr.own st = some x ∧ x.set.f = y.f) ∧
      (cmp = (List.range x.set.sigs.length).filter (tileCompared x y)) ∧
      (bad = cmp.filter fun k => x.set.sigs[k]? != y.sigs[k]?) ∧
      (c = ((b.putPr { b.pr with own := mdel b.pr.own st, opinion := (match opinionOf b st x y with | some o => some o | none => b.pr.opinion) }).bump
        F.PAIR_DR_EXCLUDED_COUNT 0 ((List.range x.set.sigs.length).length - cmp.length)).bump F.PAIR_DR_MISMATCHES_COUNT 0 bad.length)) ∧
    (∃ (s : State) (dt st : Nat) (x : OwnSet) (b : Blk),
      (b = s.blk.tick dt) ∧
      (mget b.pr.own st = some x ∧ x.at_ + 2 * framePeriod b st ≤ b.now)) ∧
    (∃ (s : State) (dt st t e : Nat) (b : Blk),
      (b = s.blk.tick dt) ∧
      (b.pr.dispute = some (st, t, e))) ∧
    (∃ (st t out : Nat) (b : Blk),
      (out = 1 ∨ out = 3 ∨ out = 4)) ∧
    (∃ (s : State) (dt st t e : Nat) (b : Blk),
      (b = s.blk.tick dt) ∧
      (b.pr.dispute = some (st, t, e) ∧ e ≤ b.rd F.STG_FRAME_F st)) := by
  refine ⟨?_, ?_, ?_, ?_, ?_, ?_, ?_, ?_⟩
  · exact ⟨State.reset.withBlk { pair := { released := true, closed := some { epoch := 5, time := 7, recs := [], stores := [], fs := [] } } }, 0, _, _, _, _, rfl, ⟨rfl, .inr rfl⟩, rfl, rfl⟩
  · exact ⟨State.reset.withBlk (({} : Blk).wr F.SYS_ROLE_ROLE 0 3), 0, 6, _, rfl, by decide +kernel⟩
  · exact ⟨State.reset.withBlk (({ pair := { formed := true }, units := [(40, { state := 6 })], stg := [(2, { shown := [(0, 1)] })] } : Blk).wr F.PG_CTRL_ENABLE 0x262 1 |>.wr F.PG_CTRL_ENABLE 0x222 1), 0, 2, 0, _, _, _, _, rfl, by decide +kernel, rfl, rfl, rfl⟩
  · exact ⟨State.reset.withBlk { pair := { own := [(2, ⟨⟨0, 0, none, [], [], []⟩, 0, [], 0⟩)] } }, 0, 2, ⟨⟨0, 0, none, [], [], []⟩, 0, [], 0⟩, ⟨0, 0, none, [], [], []⟩, _, _, _, _, rfl, by decide +kernel, rfl, rfl, rfl⟩
  · exact ⟨State.reset.withBlk { now := 2000000000000, pair := { own := [(2, ⟨⟨0, 0, none, [], [], []⟩, 0, [], 0⟩)] } }, 0, 2, ⟨⟨0, 0, none, [], [], []⟩, 0, [], 0⟩, _, rfl, by decide +kernel⟩
  · exact ⟨State.reset.withBlk { pair := { dispute := some (2, 0, 16) } }, 0, 2, 0, 16, _, rfl, by decide +kernel⟩
  · exact ⟨0, 0, 3, {}, by decide⟩
  · exact ⟨State.reset.withBlk { pair := { dispute := some (2, 0, 0) } }, 0, 2, 0, 0, _, rfl, by decide +kernel⟩

/-- What TakeoverAndRehearsalCommands assumes can be met: releaseSeen, takeSeen, ownRelease, ownReleaseEarly,
uncontrolledTakeover, takePointUncontrolled, takePointFormer. -/
theorem witness_TakeoverAndRehearsalCommands_2 :
    (∃ (s : State) (dt : Nat) (p : Beat) (b : Blk),
      (b = s.blk.tick dt) ∧
      (role b = 2 ∧ b.pr.beat = some p ∧ p.release = true ∧ b.pr.release = none ∧ b.pr.take = none)) ∧
    (∃ (s : State) (dt : Nat) (p : Beat) (b : Blk),
      (b = s.blk.tick dt) ∧
      (role b = 3 ∧ b.pr.beat = some p ∧ p.take = true ∧ b.pr.release.isSome = true ∧ b.pr.takeRx = none)) ∧
    (∃ (s : State) (dt cause t : Nat) (b c d : Blk),
      (b = s.blk.tick dt) ∧
      (b.pr.release = some cause ∧ b.pr.takeRx = some t ∧ b.pr.released = false ∧ t + 90000 ≤ b.now) ∧
      (c = forEach b.pr.held (fun h x => discardCopy h.1 h.2.2.1 x) b) ∧
      (d = (c.putPr { c.pr with released := true, held := [] }).wr F.PAIR_EPOCH_FILL_HELD 0 0)) ∧
    (∃ (s : State) (dt : Nat) (b : Blk),
      (b = s.blk.tick dt) ∧
      (b.pr.release = none ∨ b.pr.takeRx = none)) ∧
    (∃ (s : State) (dt : Nat) (b : Blk),
      (b = s.blk.tick dt) ∧
      (role b = 2 ∧ partnerPath b = false ∧ ownInFree b = true ∧ b.pr.take = none)) ∧
    (∃ (s : State) (dt cause t : Nat) (b c : Blk),
      (b = s.blk.tick dt) ∧
      (c = refreshReady b) ∧
      (c.pr.released = false ∧ role c = 2 ∧ c.pr.take = some (cause, false, t) ∧ t + 20000 ≤ c.now ∧ ownInFree c = true)) ∧
    (∃ (s : State) (dt : Nat) (b c : Blk),
      (b = s.blk.tick dt) ∧
      (c = refreshReady b) ∧
      (c.pr.released = true)) := by
  refine ⟨?_, ?_, ?_, ?_, ?_, ?_, ?_⟩
  · exact ⟨State.reset.withBlk (({ pair := { beat := some ⟨3, 3, true, false, 0, false, false, 0, 0, false, false, 0, true, false, false, false, 0, 0, 0, 0, 0⟩ } } : Blk).wr F.SYS_ROLE_ROLE 0 2), 0, ⟨3, 3, true, false, 0, false, false, 0, 0, false, false, 0, true, false, false, false, 0, 0, 0, 0, 0⟩, _, rfl, by decide +kernel⟩
  · exact ⟨State.reset.withBlk (({ pair := { release := some 1, beat := some ⟨3, 2, false, false, 0, false, false, 0, 0, false, false, 0, false, true, false, false, 0, 0, 0, 0, 0⟩ } } : Blk).wr F.SYS_ROLE_ROLE 0 3), 0, ⟨3, 2, false, false, 0, false, false, 0, 0, false, false, 0, false, true, false, false, 0, 0, 0, 0, 0⟩, _, rfl, by decide +kernel⟩
  · exact ⟨State.reset.withBlk { now := 90000, pair := { release := some 1, takeRx := some 0 } }, 0, 1, 0, _, _, _, rfl, by decide +kernel, rfl, rfl⟩
  · exact ⟨State.reset, 0, _, rfl, .inl (by decide +kernel)⟩
  · exact ⟨State.reset.withBlk (({ now := 3000 } : Blk).wr F.SYS_ROLE_ROLE 0 2), 0, _, rfl, by decide +kernel⟩
  · exact ⟨State.reset.withBlk (({ now := 30000, pair := { take := some (5, false, 0) } } : Blk).wr F.SYS_ROLE_ROLE 0 2), 0, 5, 0, _, _, rfl, rfl, by decide +kernel⟩
  · exact ⟨State.reset.withBlk { pair := { released := true } }, 0, _, _, rfl, rfl, by decide +kernel⟩

/-- What EpochCommands assumes can be met: epochBoundaryFree, epochNumber, epochFrameKept, epochLinkKept, epochFrameOther,
epochEndRx, epochCommit, epochNotWhole. -/
theorem witness_EpochCommands_1 :
    (∃ (s : State) (dt : Nat) (b c d : Blk),
      (b = s.blk.tick dt) ∧
      (stageRuns b 0 = false ∧ freeBoundary b.now = true ∧ b.now ≠ 0 ∧ b.pr.boundaryAt ≠ b.now ∧ b.pr.released = false) ∧
      (c = openEpoch (closeEpoch b)) ∧
      (d = c.putPr { c.pr with boundaryWas := c.pr.boundaryAt, boundaryAt := c.now, fMarks := (List.range 24).map fun st => c.rd F.STG_FRAME_F st })) ∧
    (∃ (b : Blk),
      (b.pr.syncS = none)) ∧
    (∃ (s : State) (dt e i : Nat) (l : List (Nat × Nat × Nat × Nat)) (b : Blk),
      (b = s.blk.tick dt) ∧
      (takesEpochs b = true ∧ b.rd F.PAIR_STAT_SYNC 0 = 2)) ∧
    (∃ (s : State) (dt e i h : Nat) (l : List Nat) (b c : Blk),
      (b = s.blk.tick dt) ∧
      (takesEpochs b = true ∧ b.rd F.PAIR_STAT_SYNC 0 = 2) ∧
      (c = b.putPr { b.pr with rx := b.pr.rx ++ [.link e i h l] })) ∧
    (∃ (s : State) (dt : Nat) (f : EpochFrame) (b : Blk),
      (b = s.blk.tick dt) ∧
      (takesEpochs b = false)) ∧
    (∃ (s : State) (dt : Nat) (e : EpochEnd) (b c : Blk),
      (b = s.blk.tick dt) ∧
      (takesEpochs b = true) ∧
      (c = refreshReady (b.putPr { b.pr with digest := some e.digest })) ∧
      (c.rd F.PAIR_STAT_SYNC 0 = 2)) ∧
    (∃ (s : State) (dt : Nat) (e : EpochEnd) (b c d : Blk),
      (b = s.blk.tick dt) ∧
      (b.pr.waitEnd = some e ∧ takesEpochs b = true ∧ epochWhole b e = true) ∧
      (c = (applyRecords e.epoch e.time 0 (recordsOf (framesOf b e.epoch)) b).wr F.PAIR_COMMITTED_EPOCH 0 e.epoch) ∧
      (d = c.putPr { c.pr with
        everCommitted := true, waitEnd := c.pr.ends.head?, ends := c.pr.ends.tail, adopt := adoptions c e,
        rx := c.pr.rx.filter fun f => frameEpoch f % 2 ^ 32 != e.epoch % 2 ^ 32, ackDue := some (e.epoch % 2 ^ 32, true, false) })) ∧
    (∃ (s : State) (dt : Nat) (e : EpochEnd) (b : Blk),
      (b = s.blk.tick dt) ∧
      (b.pr.waitEnd = some e ∧ epochWhole b e = false)) := by
  refine ⟨?_, ?_, ?_, ?_, ?_, ?_, ?_, ?_⟩
  · exact ⟨State.reset.withBlk { now := 50000000 }, 0, _, _, _, rfl, by decide +kernel, rfl, rfl⟩
  · exact ⟨{}, by decide⟩
  · exact ⟨State.reset.withBlk (({} : Blk).wr F.SYS_ROLE_ROLE 0 2 |>.wr F.PAIR_STAT_SYNC 0 2), 0, 1, 0, [], _, rfl, by decide +kernel⟩
  · exact ⟨State.reset.withBlk (({} : Blk).wr F.SYS_ROLE_ROLE 0 2 |>.wr F.PAIR_STAT_SYNC 0 2), 0, 1, 0, 3, [1, 2, 0], _, _, rfl, by decide +kernel, rfl⟩
  · exact ⟨State.reset, 0, .records 1 0 [], _, rfl, by decide +kernel⟩
  · exact ⟨State.reset.withBlk (({} : Blk).wr F.SYS_ROLE_ROLE 0 2 |>.wr F.PAIR_STAT_SYNC 0 2), 0, ⟨5, 0, 0, 0, 0, 0, [], 0⟩, _, _, rfl, by decide +kernel, rfl, by decide +kernel⟩
  · exact ⟨State.reset.withBlk (({ pair := { waitEnd := some ⟨5, 0, 0, 0, 0, 0, [], epochCrc 5 [] []⟩ } } : Blk).wr F.SYS_ROLE_ROLE 0 2), 0, ⟨5, 0, 0, 0, 0, 0, [], epochCrc 5 [] []⟩, _, _, _, rfl, by decide +kernel, rfl, rfl⟩
  · exact ⟨State.reset.withBlk { pair := { waitEnd := some ⟨5, 0, 3, 0, 0, 0, [], 0⟩ } }, 0, ⟨5, 0, 3, 0, 0, 0, [], 0⟩, _, rfl, by decide +kernel⟩

/-- What EpochCommands assumes can be met: epochFail, storeReleasedFirst, fullSyncStart, fullSyncComplete, syncTimeout. -/
theorem witness_EpochCommands_2 :
    (∃ (s : State) (dt last : Nat) (b c d : Blk),
      (b = s.blk.tick dt) ∧
      (last = (b.rd F.PAIR_EPOCH_EPOCH 0 + 2 ^ 32 - 1) % 2 ^ 32) ∧
      (role b = 2 ∧ b.rd F.PAIR_STAT_SYNC 0 = 2 ∧ b.pr.boundaryAt + 3000000 ≤ b.now ∧ b.rd F.PAIR_COMMITTED_EPOCH 0 ≠ last) ∧
      (c = raise pairPage 0x104 sevWarning (last % 65536) (evB 2) (b.wr F.PAIR_STAT_SYNC 0 1)) ∧
      (d = c.putPr { c.pr with rx := [], staging := [], waitEnd := none, ends := [], syncS := none, syncAt := c.now, ackDue := some (last, false, true) })) ∧
    (∃ (s : State) (dt a : Nat) (u : Bool) (bytes : List Nat) (b : Blk) (r : Blk × FrameStore),
      (b = s.blk.tick dt) ∧
      (b.pr.staging = [(a, u, bytes)]) ∧
      (r = storeWrite (if b.rd F.PAIR_STAT_SYNC 0 = 1 then 0x20 else 0x16) a u bytes b s.store)) ∧
    (∃ (s : State) (dt : Nat) (b c : Blk),
      (b = s.blk.tick dt) ∧
      (b.pr.syncDue = true ∧ copying b = true ∧ b.pr.boundaryAt = b.now) ∧
      (c = b.putPr { b.pr with syncDue := false, syncS := some (b.rd F.PAIR_EPOCH_EPOCH 0), syncAt := b.now })) ∧
    (∃ (s : State) (dt q : Nat) (l m : List EpochFrame) (b c d e : Blk),
      (b = s.blk.tick dt) ∧
      (b.pr.syncS = some q ∧ role b = 2 ∧ b.rd F.PAIR_STAT_SYNC 0 = 1 ∧ b.pr.staging = [] ∧ syncSplit b.pr.rx = (l, m)) ∧
      (c = applyRecords q (imagesApplied b l (applyImages l (clearCopied b))).pr.boundaryAt 0 (recordsOf l) (imagesApplied b l (applyImages l (clearCopied b)))) ∧
      (d = (c.wr F.PAIR_STAT_SYNC 0 2).wr F.PAIR_COMMITTED_EPOCH 0 (q + 2 ^ 32 - 1)) ∧
      (e = d.putPr { d.pr with rx := m, syncS := none, waitEnd := d.pr.ends.head?, ends := d.pr.ends.tail })) ∧
    (∃ (s : State) (dt : Nat) (b : Blk),
      (b = s.blk.tick dt) ∧
      (b.rd F.PAIR_STAT_SYNC 0 = 1 ∧ b.pr.syncAt + b.rd F.PAIR_CFG_SYNC_TO 0 * 1000000000 ≤ b.now)) := by
  refine ⟨?_, ?_, ?_, ?_, ?_⟩
  · exact ⟨State.reset.withBlk (({ now := 3000000 } : Blk).wr F.SYS_ROLE_ROLE 0 2 |>.wr F.PAIR_STAT_SYNC 0 2 |>.wr F.PAIR_EPOCH_EPOCH 0 7), 0, 6, _, _, _, rfl, by decide +kernel, by decide +kernel, rfl, rfl⟩
  · exact ⟨State.reset.withBlk { pair := { staging := [(64, false, [1, 2])] } }, 0, 64, false, [1, 2], _, _, rfl, by decide +kernel, rfl⟩
  · exact ⟨State.reset.withBlk (({ pair := { syncDue := true, formed := true }, units := [(40, { state := 6 })] } : Blk).wr F.SYS_ROLE_ROLE 0 3 |>.wr F.PAIR_STAT_PATH_A 0 1), 0, _, _, rfl, by decide +kernel, rfl⟩
  · exact ⟨State.reset.withBlk (({ pair := { syncS := some 4 } } : Blk).wr F.SYS_ROLE_ROLE 0 2 |>.wr F.PAIR_STAT_SYNC 0 1), 0, 4, [], [], _, _, _, _, rfl, by decide +kernel, rfl, rfl, rfl⟩
  · exact ⟨State.reset.withBlk (({ now := 1000000000000 } : Blk).wr F.PAIR_STAT_SYNC 0 1), 0, _, rfl, by decide +kernel⟩

/-- What EnsembleCommands assumes can be met: beaconSend, beaconRxRing, beaconRxRepeat, memberLost, memberStillHeard,
ringJoined, junctionAnchor, junctionRefused. -/
theorem witness_EnsembleCommands_1 :
    (∃ (s : State) (dt : Nat) (b c d : Blk),
      (b = s.blk.tick dt) ∧
      ((chnUp b 1 = true ∨ chnUp b 2 = true) ∧ inRing b = true ∧ (b.ens.sentAt = 0 ∨ b.ens.sentAt + 10000 ≤ b.now)) ∧
      (c = if inRing (ringSeen b) = true then (ringSeen b).wr F.ENS_BOUNDARY_TIME 0 (ensNext (ringSeen b)) else ringSeen b) ∧
      (d = forEach (ensPorts c) (fun p x => (chnExpress p 4 (byteWords (beaconBytes x p)) x).putEns { (chnExpress p 4 (byteWords (beaconBytes x p)) x).ens with
        tx := mset (chnExpress p 4 (byteWords (beaconBytes x p)) x).ens.tx p ((((chnExpress p 4 (byteWords (beaconBytes x p)) x).ens.seq, x.now + rdiv (x.rd F.CHN_LAT_TX p) 10) ::
        mgetD (chnExpress p 4 (byteWords (beaconBytes x p)) x).ens.tx p []).take 16) }) c)) ∧
    (∃ (s : State) (dt p quality clk : Nat) (q : Beacon) (mate : Option Nat) (unc : Bool) (utc dco : Int) (b c : Blk),
      (b = s.blk.tick dt) ∧
      (b.on F.ENS_CFG_EN 0 = true ∧ ringUp b p = true ∧ (p = 1 ∨ p = 2) ∧ q.pos ≠ ownPos b ∧ lastSeq b p q.pos ≠ some q.seq) ∧
      (c = countMember p q mate b) ∧
      (q.pos ≠ ownPos c ∧ (ensState c = 1 ∨ ensState c = 2 ∨ ensState c = 3))) ∧
    (∃ (s : State) (dt p quality clk : Nat) (q : Beacon) (mate : Option Nat) (unc : Bool) (utc dco : Int) (b : Blk),
      (b = s.blk.tick dt) ∧
      (b.on F.ENS_CFG_EN 0 = true ∧ ringUp b p = true ∧ (p = 1 ∨ p = 2) ∧ lastSeq b p q.pos = some q.seq)) ∧
    (∃ (s : State) (dt p : Nat) (x : Member) (b c d : Blk),
      (b = s.blk.tick dt) ∧
      (mget b.ens.members p = some x ∧ x.heardAt + 40000 ≤ b.now ∧ p ≠ ownPos b) ∧
      (c = b.putEns { b.ens with
        members := mdel b.ens.members p, changedAt := b.now,
        reports := b.ens.reports.filter fun e => e.1 / 16384 != p }) ∧
      (d = if inRing c = true then raise ensPage 0x101 sevWarning (p + 8 * b2n x.beacon.ejecting) (evB 0) c else c)) ∧
    (∃ (s : State) (dt p : Nat) (x : Member) (b : Blk),
      (b = s.blk.tick dt) ∧
      (mget b.ens.members p = some x ∧ b.now < x.heardAt + 40000)) ∧
    (∃ (s : State) (dt : Nat) (b : Blk),
      (b = s.blk.tick dt) ∧
      (b.on F.ENS_CFG_EN 0 = true ∧ (chnUp b 1 = true ∨ chnUp b 2 = true) ∧ ensState b = 0)) ∧
    (∃ (s : State) (dt : Nat) (peer : Bool) (b c : Blk),
      (b = s.blk.tick dt) ∧
      (chnUp b 3 = true ∧ inRing b = true ∧ (b.ens.junction = 0 ∨ b.ens.junction = 3) ∧ junctionRefusal peer b = 0 ∧ b.on F.ENS_CFG_UPLINK 0 = true) ∧
      (c = (((b.wr F.ENS_STAT_ANCHOR 0 1).wr F.ENS_STAT_LEVEL 0 (bits (b.rd F.CHN_PEER_WORD 3 5) 24 8 + 1)).wr F.ENS_STAT_LEAD 0 0))) ∧
    (∃ (s : State) (dt why : Nat) (peer : Bool) (b : Blk),
      (b = s.blk.tick dt) ∧
      (chnUp b 3 = true ∧ inRing b = true ∧ b.ens.junction = 0 ∧ junctionRefusal peer b = why ∧ why ≠ 0 ∧ b.ens.refusedWhy ≠ why)) := by
  refine ⟨?_, ?_, ?_, ?_, ?_, ?_, ?_, ?_⟩
  · exact ⟨State.reset.withBlk (({ units := [(41, { state := 6 })] } : Blk).wr F.ENS_STAT_STATE 0 3), 0, _, _, _, rfl, by decide +kernel, rfl, rfl⟩
  · exact ⟨State.reset.withBlk (({ units := [(41, { state := 6 })] } : Blk).wr F.ENS_STAT_STATE 0 3 |>.wr F.ENS_CFG_EN 0 1), 0, 1, 0, 0, ⟨7, 3, 0, false, false, false, 3, 3, false, false, 0, 0, 0, 0, 0, 0, 0⟩, none, false, 0, 0, _, _, rfl, by decide +kernel, rfl, by decide +kernel⟩
  · exact ⟨State.reset.withBlk (({ units := [(41, { state := 6 })], ens := { members := [(3, { beacon := ⟨7, 3, 0, false, false, false, 3, 3, false, false, 0, 0, 0, 0, 0, 0, 0⟩, on1 := some (7, 0) })] } } : Blk).wr F.ENS_STAT_STATE 0 3 |>.wr F.ENS_CFG_EN 0 1), 0, 1, 0, 0, ⟨7, 3, 0, false, false, false, 3, 3, false, false, 0, 0, 0, 0, 0, 0, 0⟩, none, false, 0, 0, _, rfl, by decide +kernel⟩
  · exact ⟨State.reset.withBlk (({ now := 40000, ens := { members := [(3, { beacon := ⟨7, 3, 0, false, false, false, 3, 3, false, false, 0, 0, 0, 0, 0, 0, 0⟩ })] } } : Blk).wr F.ENS_STAT_STATE 0 3), 0, 3, { beacon := ⟨7, 3, 0, false, false, false, 3, 3, false, false, 0, 0, 0, 0, 0, 0, 0⟩ }, _, _, _, rfl, by decide +kernel, rfl, rfl⟩
  · exact ⟨State.reset.withBlk { ens := { members := [(3, { beacon := ⟨7, 3, 0, false, false, false, 3, 3, false, false, 0, 0, 0, 0, 0, 0, 0⟩ })] } }, 0, 3, { beacon := ⟨7, 3, 0, false, false, false, 3, 3, false, false, 0, 0, 0, 0, 0, 0, 0⟩ }, _, rfl, by decide +kernel⟩
  · exact ⟨State.reset.withBlk (({ units := [(41, { state := 6 })] } : Blk).wr F.ENS_CFG_EN 0 1), 0, _, rfl, by decide +kernel⟩
  · exact ⟨State.reset.withBlk (({ units := [(43, { state := 6 })] } : Blk).wr F.ENS_STAT_STATE 0 3 |>.wr F.ENS_CFG_UPLINK 0 1), 0, false, _, _, rfl, by decide +kernel, rfl⟩
  · exact ⟨State.reset.withBlk (({ units := [(43, { state := 6 })] } : Blk).wr F.ENS_STAT_STATE 0 3), 0, 2, false, _, rfl, by decide +kernel⟩

/-- What EnsembleCommands assumes can be met: leadElected, lowestCandidate, leadElectedCopy, ensCueCheck, ensCueResult,
joinCopyDone, joinedAtBoundary, ringIsolated. -/
theorem witness_EnsembleCommands_2 :
    (∃ (s : State) (dt p : Nat) (l : List Nat) (b : Blk),
      (b = s.blk.tick dt) ∧
      (inRing b = true ∧ b.ens.changedAt + b.rd F.ENS_CFG_SETTLE 0 * 1000000 ≤ b.now ∧ beneath b = false ∧ ensState b = 1) ∧
      ((b.ens.members.find? fun e => e.2.beacon.lead && e.1 != ownPos b) = none ∧ candidates b = p :: l)) ∧
    (∃ (b : Blk) (p : Nat) (l : List Nat),
      (candidates b = p :: l)) ∧
    (∃ (s : State) (dt : Nat) (e : Nat × Member) (b : Blk),
      (b = s.blk.tick dt) ∧
      (inRing b = true ∧ b.ens.changedAt + b.rd F.ENS_CFG_SETTLE 0 * 1000000 ≤ b.now ∧ beneath b = false ∧ ensState b = 1) ∧
      ((b.ens.members.find? fun x => x.2.beacon.lead && x.1 != ownPos b) = some e)) ∧
    (∃ (s : State) (dt : Nat) (b : Blk),
      (b = s.blk.tick dt) ∧
      (ensState b = 3)) ∧
    (∃ (s : State) (dt refusers r : Nat) (q : GCheck) (b c : Blk),
      (b = s.blk.tick dt) ∧
      ((b.ens.checks.find? fun x => x.verdict.isNone) = some q) ∧
      (r = Nat.lor (refusers % 256) (if q.ok = true then 0 else 2 ^ ownPos b)) ∧
      (c = b.putEns { b.ens with checks := b.ens.checks.map fun x => if x.group = q.group then { x with verdict := some (r == 0) } else x }) ∧
      (isLead (((c.wr F.ENS_GCUE_LAST_GROUP 0 q.group).wr F.ENS_GCUE_LAST_REFUSERS 0 r).put F.ENS_GCUE_LAST_REFUSED 0 (r != 0)) = false)) ∧
    (∃ (s : State) (dt : Nat) (b c : Blk),
      (b = s.blk.tick dt) ∧
      (ensState b = 2 ∧ b.ens.copied = none) ∧
      (c = b.putEns { b.ens with copied := some (Nat.max b.now b.ens.boundary) })) ∧
    (∃ (t : Nat) (b c : Blk),
      (b.ens.copied = some t ∧ ensState b = 2) ∧
      (c = becomeMember (b.putEns { b.ens with copied := none }))) ∧
    (∃ (s : State) (dt l p : Nat) (t : List Nat) (b c : Blk),
      (b = s.blk.tick dt) ∧
      (b.ens.lead = some l ∧ ensState b = 3 ∧ b.on F.ENS_STAT_ISOLATED 0 = false ∧ l ≠ ownPos b ∧ mget b.ens.members l = none) ∧
      (c = raise ensPage 0x105 sevError ((b.wr F.ENS_STAT_ISOLATED 0 1).rd F.ENS_STAT_MEMBERS 0) (evB 3) (b.wr F.ENS_STAT_ISOLATED 0 1)) ∧
      (candidates c = p :: t)) := by
  refine ⟨?_, ?_, ?_, ?_, ?_, ?_, ?_, ?_⟩
  · exact ⟨State.reset.withBlk (({ now := 2000000000 } : Blk).wr F.ENS_STAT_STATE 0 1 |>.wr F.ENS_CFG_CANDIDATE 0 1), 0, 0, [], _, rfl, by decide +kernel, by decide +kernel⟩
  · exact ⟨({} : Blk).wr F.ENS_CFG_CANDIDATE 0 1, 0, [], by decide +kernel⟩
  · exact ⟨State.reset.withBlk (({ now := 2000000000, ens := { members := [(3, { beacon := ⟨7, 3, 0, false, true, false, 3, 3, false, false, 0, 0, 0, 0, 0, 0, 0⟩ })] } } : Blk).wr F.ENS_STAT_STATE 0 1), 0, (3, { beacon := ⟨7, 3, 0, false, true, false, 3, 3, false, false, 0, 0, 0, 0, 0, 0, 0⟩ }), _, rfl, by decide +kernel, by decide +kernel⟩
  · exact ⟨State.reset.withBlk (({} : Blk).wr F.ENS_STAT_STATE 0 3), 0, _, rfl, by decide +kernel⟩
  · exact ⟨State.reset.withBlk { ens := { checks := [⟨2, 1, 0, [], true, none⟩] } }, 0, 4, 4, ⟨2, 1, 0, [], true, none⟩, _, _, rfl, by decide +kernel, by decide +kernel, rfl, by decide +kernel⟩
  · exact ⟨State.reset.withBlk (({} : Blk).wr F.ENS_STAT_STATE 0 2), 0, _, _, rfl, by decide +kernel, rfl⟩
  · exact ⟨0, ({ ens := { copied := some 0 } } : Blk).wr F.ENS_STAT_STATE 0 2, _, by decide +kernel, rfl⟩
  · exact ⟨State.reset.withBlk (({ ens := { lead := some 5 } } : Blk).wr F.ENS_STAT_STATE 0 3 |>.wr F.ENS_CFG_CANDIDATE 0 1), 0, 5, 0, [], _, _, rfl, by decide +kernel, rfl, by decide +kernel⟩

/-- What ReferenceCommands assumes can be met: ptpSync, ptpSyncIgnored, jumpHeld, ptpDelayReq, ptpDelayResp, ptpAnnounceFirst,
announceTimeout, exchangeTimeout. -/
theorem witness_ReferenceCommands_1 :
    (∃ (s : State) (dt k : Nat) (t1 t2 adjust dco : Int) (b c : Blk) (x : RefSt),
      (b = s.blk.tick dt) ∧
      (k < 4 ∧ rr b F.CLK_REF_CFG_EN k = 1 ∧ (b.ref k).master ≠ none ∧ b.on F.NIF_STAT_LINK (ptpPort b k) = true) ∧
      (t2 = (b.port (ptpPort b k)).ptpStamp) ∧
      (x = { b.ref k with sync := some (t1, t2), syncNew := true, syncAt := b.now, syncGap := if (b.ref k).syncAt = 0 then 0 else b.now - (b.ref k).syncAt }) ∧
      (c = b.putRef k x)) ∧
    (∃ (s : State) (dt k : Nat) (t1 adjust dco : Int) (b : Blk),
      (b = s.blk.tick dt) ∧
      (4 ≤ k ∨ rr b F.CLK_REF_CFG_EN k = 0 ∨ (b.ref k).master = none ∨ b.on F.NIF_STAT_LINK (ptpPort b k) = false)) ∧
    (∃ (k : Nat) (off dco : Int) (b c : Blk),
      (c = noteLocked (wrInt F.CLK_REF_OFFSET_OFFSET (k + 1) off (b.putRef k { b.ref k with offs := ((b.now, off) :: (b.ref k).offs).take 256 }))) ∧
      (refInUse c = some k ∧ clkState c = 3 ∧ stepT c < off.natAbs ∧ c.clk.jumpAt = none)) ∧
    (∃ (s : State) (dt k m : Nat) (b c : Blk),
      (b = s.blk.tick dt) ∧
      (k < 4 ∧ rr b F.CLK_REF_CFG_EN k = 1 ∧ (b.ref k).master = some m ∧ b.on F.NIF_STAT_LINK (ptpPort b k) = true) ∧
      (c = b.putRef k { b.ref k with dreqAt := some b.now })) ∧
    (∃ (s : State) (dt k t3 : Nat) (t1 t2 t4 : Int) (b : Blk),
      (b = s.blk.tick dt) ∧
      ((b.ref k).dreqAt = some t3 ∧ (b.ref k).sync = some (t1, t2))) ∧
    (∃ (s : State) (dt k : Nat) (a : Announce) (b : Blk),
      (b = s.blk.tick dt) ∧
      (k < 4 ∧ rr b F.CLK_REF_CFG_EN k = 1 ∧ (b.ref k).masters = [] ∧ (b.ref k).master = none ∧ announceHeard b k a = true)) ∧
    (∃ (s : State) (dt k : Nat) (m : Foreign) (b : Blk),
      (b = s.blk.tick dt) ∧
      (((b.ref k).masters.find? fun (q : Foreign) => some q.ann.sender == (b.ref k).master) = some m)) ∧
    (∃ (s : State) (dt k : Nat) (b : Blk),
      (b = s.blk.tick dt) ∧
      (k < 4)) := by
  refine ⟨?_, ?_, ?_, ?_, ?_, ?_, ?_, ?_⟩
  · exact ⟨State.reset.withBlk (({ clk := { refs := [(0, { master := some 5 })] } } : Blk).wr F.CLK_REF_CFG_EN 1 1 |>.wr F.NIF_STAT_LINK 0 1), 0, 0, 10, _, 0, 0, _, _, _, rfl, by decide +kernel, rfl, rfl, rfl⟩
  · exact ⟨State.reset, 0, 0, 10, 20, 0, _, rfl, .inr (.inr (.inl (by decide +kernel)))⟩
  · exact ⟨5, 1000000000, 0, ((({} : Blk).wr F.CLK_STAT_STATE 0 3).wr F.CLK_STAT_SEL 0 5).wr F.CLK_STAT_SEL_VALID 0 1, _, rfl, by decide +kernel⟩
  · exact ⟨State.reset.withBlk (({ clk := { refs := [(0, { master := some 5 })] } } : Blk).wr F.CLK_REF_CFG_EN 1 1 |>.wr F.NIF_STAT_LINK 0 1), 0, 0, 5, _, _, rfl, by decide +kernel, rfl⟩
  · exact ⟨State.reset.withBlk { clk := { refs := [(0, { dreqAt := some 5, sync := some (1, 3) })] } }, 0, 0, 5, 1, 3, 9, _, rfl, by decide +kernel⟩
  · exact ⟨State.reset.withBlk (({} : Blk).wr F.CLK_REF_CFG_EN 1 1 |>.wr F.NIF_STAT_LINK 0 1), 0, 0, ⟨0, 0, 127, 1, 128, 6, 0x21, 0, 128, 7, 0, 1000000000, true, 37, true, 0⟩, _, rfl, by decide +kernel⟩
  · exact ⟨State.reset.withBlk { clk := { refs := [(0, { master := some 1, masters := [⟨⟨0, 0, 0, 1, 128, 6, 0x21, 0, 128, 7, 0, 1000000000, true, 37, true, 0⟩, 0, none⟩] })] } }, 0, 0, ⟨⟨0, 0, 0, 1, 128, 6, 0x21, 0, 128, 7, 0, 1000000000, true, 37, true, 0⟩, 0, none⟩, _, rfl, by decide +kernel⟩
  · exact ⟨State.reset, 0, 0, _, rfl, by decide⟩

/-- What ReferenceCommands assumes can be met: houseSyncGood, houseSyncMissing, f10mLost, f10mBack, ppsPulse, ppsTimeout,
refQualified, refDisqualified. -/
theorem witness_ReferenceCommands_2 :
    (∃ (s : State) (dt q : Nat) (filtered dco : Int) (b c : Blk),
      (b = s.blk.tick dt) ∧
      (rr b F.CLK_REF_CFG_EN 4 = 1 ∧ q = rr b F.CLK_REF_CFG_QUALITY 4) ∧
      (c = setQuality 4 q (q / 16) (q % 16) (b.putRef 4 { b.ref 4 with missing := 0 }))) ∧
    (∃ (s : State) (dt : Nat) (filtered dco : Int) (b c : Blk),
      (b = s.blk.tick dt) ∧
      (rr b F.CLK_REF_CFG_EN 4 = 1) ∧
      (c = b.putRef 4 { b.ref 4 with missing := (b.ref 4).missing + 1 })) ∧
    (∃ (s : State) (dt : Nat) (dco : Int) (b : Blk),
      (b = s.blk.tick dt)) ∧
    (∃ (s : State) (dt : Nat) (dco : Int) (b c : Blk),
      (b = s.blk.tick dt) ∧
      (c = b.putRef 5 { b.ref 5 with tenMHz := true })) ∧
    (∃ (s : State) (dt count q : Nat) (filtered dco : Int) (b c : Blk),
      (b = s.blk.tick dt) ∧
      (rr b F.CLK_REF_CFG_EN 5 = 1 ∧ ppsEn b = true ∧ (b.ref 5).tenMHz = true) ∧
      (q = rr b F.CLK_REF_CFG_QUALITY 5 ∧ 9999999 ≤ count ∧ count ≤ 10000001) ∧
      (c = setQuality 5 q (q / 16) (q % 16) (b.putRef 5 { b.ref 5 with pulseAt := b.now, off := 0 }))) ∧
    (∃ (s : State) (dt : Nat) (b : Blk),
      (b = s.blk.tick dt) ∧
      (ppsEn b = true)) ∧
    (∃ (s : State) (dt k t : Nat) (b c : Blk),
      (b = s.blk.tick dt) ∧
      ((b.ref k).okSince = some t ∧ rr b F.CLK_REF_CFG_EN k = 1 ∧ (b.ref k).qualified = false ∧ rr b F.CLK_REF_STAT_DRIFT_DQ k = 0) ∧
      (t + (if 6 ≤ k then 1000000000 else rr b F.CLK_REF_TOL_QUAL_T k * 1000000000) ≤ b.now) ∧
      (c = setEvt (refPage k) (evB 0) (raise clkPage 0x108 sevInfo k 0 (b.putRef k { b.ref k with qualified := true, ys := [] })))) ∧
    (∃ (s : State) (dt k cause : Nat) (freq : Int) (a b c d : Blk),
      (a = s.blk.tick dt) ∧
      (b = if cause = 4 then pullRange k freq a else a) ∧
      (disqualHolds b k cause = true ∧ (b.ref k).qualified = true ∧ cause ≠ 0) ∧
      (c = (b.putRef k { b.ref k with okSince := none, qualified := false }).bump F.CLK_REF_COUNT_LOSSES (k + 1)) ∧
      (d = setEvt (refPage k) (evB 1) (raise clkPage 0x109 (if (refInUse c == some k) = true then sevWarning else sevNotice) (k + 8 * cause) 0 c))) := by
  refine ⟨?_, ?_, ?_, ?_, ?_, ?_, ?_, ?_⟩
  · exact ⟨State.reset.withBlk (({} : Blk).wr F.CLK_REF_CFG_EN 5 1), 0, _, 0, 0, _, _, rfl, ⟨by decide +kernel, rfl⟩, rfl⟩
  · exact ⟨State.reset.withBlk (({} : Blk).wr F.CLK_REF_CFG_EN 5 1), 0, 0, 0, _, _, rfl, by decide +kernel, rfl⟩
  · exact ⟨State.reset, 0, 0, _, rfl⟩
  · exact ⟨State.reset, 0, 0, _, _, rfl, rfl⟩
  · exact ⟨State.reset.withBlk (({ clk := { refs := [(5, { tenMHz := true })] } } : Blk).wr F.CLK_REF_CFG_EN 6 1 |>.wr F.CLK_REF_IN_FORMAT 6 1), 0, 10000000, _, 0, 0, _, _, rfl, by decide +kernel, ⟨rfl, by decide, by decide⟩, rfl⟩
  · exact ⟨State.reset.withBlk (({} : Blk).wr F.CLK_REF_IN_FORMAT 6 1), 0, _, rfl, by decide +kernel⟩
  · exact ⟨State.reset.withBlk (({ now := 1000000000000, clk := { refs := [(6, { okSince := some 0 })] } } : Blk).wr F.CLK_REF_CFG_EN 7 1), 0, 6, 0, _, _, rfl, by decide +kernel, by decide +kernel, rfl⟩
  · exact ⟨State.reset.withBlk { clk := { refs := [(6, { qualified := true })] } }, 0, 6, 1, 0, _, _, _, _, rfl, rfl, by decide +kernel, rfl, rfl⟩

/-- What ReferenceCommands assumes can be met: refJump, jumpTimeout. -/
theorem witness_ReferenceCommands_3 :
    (∃ (s : State) (dt : Nat) (b : Blk),
      (b = s.blk.tick dt)) ∧
    (∃ (s : State) (dt t k : Nat) (b : Blk),
      (b = s.blk.tick dt) ∧
      (b.clk.jumpAt = some t ∧ refInUse b = some k ∧ jumped b = true)) := by
  refine ⟨?_, ?_⟩
  · exact ⟨State.reset, 0, _, rfl⟩
  · exact ⟨State.reset.withBlk (({ clk := { jumpAt := some 0 } } : Blk).wr F.CLK_STAT_STATE 0 3 |>.wr F.CLK_STAT_SEL 0 5 |>.wr F.CLK_STAT_SEL_VALID 0 1 |>.wr F.CLK_REF_OFFSET_OFFSET 6 1000000000), 0, 0, 5, _, rfl, by decide +kernel⟩

/-- What ClockCommands assumes can be met: selectorRun, clockLocked, lockLimits, ocxoReady, pullInStep, holdoverUpdate,
holdoverExpired, tempBinUpdate. -/
theorem witness_ClockCommands_1 :
    (∃ (s : State) (dt : Nat) (b : Blk),
      (b = s.blk.tick dt)) ∧
    (∃ (s : State) (dt k t : Nat) (b : Blk),
      (b = s.blk.tick dt) ∧
      (refInUse b = some k ∧ b.clk.nearSince = some t ∧ clkState b = 2 ∧ t + (lockLimit k).2 ≤ b.now)) ∧
    (∃ (k : Nat),
      (k < 8)) ∧
    (∃ (s : State) (dt : Nat) (b c : Blk),
      (b = s.blk.tick dt) ∧
      (c = setClock 1 (b.wr F.CLK_OCXO_WARM 0 1))) ∧
    (∃ (s : State) (dt k : Nat) (off : Int) (b c : Blk),
      (b = s.blk.tick dt) ∧
      (refInUse b = some k ∧ clkState b = 2 ∧ b.clk.pulled = false ∧ (if k < 4 then 4 ≤ (b.ref k).since else b.clk.acqAt + 1000000000 ≤ b.now)) ∧
      (off = rdInt b F.CLK_REF_OFFSET_OFFSET (k + 1)) ∧
      (c = { b with clk := { b.clk with pulled := true } })) ∧
    (∃ (s : State) (dt : Nat) (b c : Blk),
      (b = s.blk.tick dt) ∧
      ((clkState b = 4 ∨ clkState b = 5) ∧ b.clk.updAt + 1000000000 ≤ b.now) ∧
      (c = { b with clk := { b.clk with updAt := b.now } })) ∧
    (∃ (s : State) (dt : Nat) (b : Blk),
      (b = s.blk.tick dt) ∧
      (clkState b = 4)) ∧
    (∃ (s : State) (dt i n : Nat) (v : Int) (b : Blk),
      (b = s.blk.tick dt) ∧
      (clkState b = 3 ∧ watching b = false ∧ b.clk.binAt + 16000000000 ≤ b.now ∧ binOf (ocxoTemp b) = some i) ∧
      ((v, n) = mgetD b.clk.bins i (256 * (dcoNow b - ageing b (b.now - b.clk.ageAt)), 0))) := by
  refine ⟨?_, ?_, ?_, ?_, ?_, ?_, ?_, ?_⟩
  · exact ⟨State.reset, 0, _, rfl⟩
  · exact ⟨State.reset.withBlk (({ now := 60000000000, clk := { nearSince := some 0 } } : Blk).wr F.CLK_STAT_STATE 0 2 |>.wr F.CLK_STAT_SEL 0 1 |>.wr F.CLK_STAT_SEL_VALID 0 1), 0, 1, 0, _, rfl, by decide +kernel⟩
  · exact ⟨5, by decide⟩
  · exact ⟨State.reset, 0, _, _, rfl, rfl⟩
  · exact ⟨State.reset.withBlk (({ now := 60000000000 } : Blk).wr F.CLK_STAT_STATE 0 2 |>.wr F.CLK_STAT_SEL 0 5 |>.wr F.CLK_STAT_SEL_VALID 0 1), 0, 5, _, _, _, rfl, by decide +kernel, rfl, rfl⟩
  · exact ⟨State.reset.withBlk (({ now := 1000000000 } : Blk).wr F.CLK_STAT_STATE 0 4), 0, _, _, rfl, by decide +kernel, rfl⟩
  · exact ⟨State.reset.withBlk (({ now := 1000000000 } : Blk).wr F.CLK_STAT_STATE 0 4), 0, _, rfl, by decide +kernel⟩
  · exact ⟨State.reset.withBlk (({ now := 16000000000 } : Blk).wr F.CLK_STAT_STATE 0 3), 0, 10, 0, 0, _, rfl, by decide +kernel, by decide +kernel⟩

/-- What ClockCommands assumes can be met: ageingFirst, learningSave, learningRestore, driftCalm, driftSample, todStepApply,
leapAdjust. -/
theorem witness_ClockCommands_2 :
    (∃ (s : State) (dt : Nat) (b : Blk),
      (b = s.blk.tick dt) ∧
      (clkState b = 3 ∧ b.clk.ages = [] ∧ b.clk.rValid = false)) ∧
    (∃ (s : State) (dt : Nat) (b : Blk),
      (b = s.blk.tick dt)) ∧
    (∃ (s : State) (dt : Nat) (r : Int) (bins : List (Nat × Int × Nat)) (b c : Blk),
      (b = s.blk.tick dt) ∧
      (b.clk.saved = some (bins, r) ∧ b.clk.waiting = true ∧ clkState b = 3 ∧ b.clk.lockedAt + 600000000000 ≤ b.now) ∧
      (c = { b with clk := { b.clk with waiting := false, bins := bins.map fun (e : Nat × Int × Nat) => (e.1, e.2.1, e.2.2), rValid := true, ageAt := b.now } })) ∧
    (∃ (s : State) (dt k : Nat) (y : Int) (b : Blk),
      (b = s.blk.tick dt) ∧
      (rr b F.CLK_REF_CFG_EN k = 0 ∨ rr b F.CLK_REF_CFG_DG_EN k = 0 ∨ b.now < (b.ref k).sampleAt + 16000000000)) ∧
    (∃ (s : State) (dt k : Nat) (y : Int) (b : Blk),
      (b = s.blk.tick dt) ∧
      (rr b F.CLK_REF_CFG_EN k = 1 ∧ rr b F.CLK_REF_CFG_DG_EN k = 1 ∧ (b.ref k).qualified = true ∧ (b.ref k).sampleAt + 16000000000 ≤ b.now) ∧
      (rr b F.CLK_REF_STAT_DRIFT_DQ k = 0 ∧ (b.ref k).ys = [] ∧ (rr b F.CLK_REF_TOL_TOL k * 10 ≤ y.natAbs) ∧ k < 8)) ∧
    (∃ (s : State) (dt n sec : Nat) (b c : Blk),
      (b = s.blk.tick dt) ∧
      (b.clk.tod = some (n, sec)) ∧
      (c = { b with clk := { b.clk with tod := none } })) ∧
    (∃ (s : State) (dt k : Nat) (b : Blk),
      (b = s.blk.tick dt) ∧
      (refInUse b = some k ∧ k < 4 ∧ b.clk.leap ≠ 0)) := by
  refine ⟨?_, ?_, ?_, ?_, ?_, ?_, ?_⟩
  · exact ⟨State.reset.withBlk (({} : Blk).wr F.CLK_STAT_STATE 0 3), 0, _, rfl, by decide +kernel⟩
  · exact ⟨State.reset, 0, _, rfl⟩
  · exact ⟨State.reset.withBlk (({ now := 600000000000, clk := { saved := some ([], 0), waiting := true } } : Blk).wr F.CLK_STAT_STATE 0 3), 0, 0, [], _, _, rfl, by decide +kernel, rfl⟩
  · exact ⟨State.reset, 0, 0, 5, _, rfl, by decide +kernel⟩
  · exact ⟨State.reset.withBlk (({ now := 16000000000, clk := { refs := [(0, { qualified := true })] } } : Blk).wr F.CLK_REF_CFG_EN 1 1 |>.wr F.CLK_REF_CFG_DG_EN 1 1), 0, 0, 1000000000, _, rfl, by decide +kernel, by decide +kernel⟩
  · exact ⟨State.reset.withBlk { clk := { tod := some (1, 100) } }, 1000000000, 1, 100, _, _, rfl, rfl, rfl⟩
  · exact ⟨State.reset.withBlk (({ clk := { leap := 1 } } : Blk).wr F.CLK_STAT_SEL 0 1 |>.wr F.CLK_STAT_SEL_VALID 0 1), 0, 1, _, rfl, by decide +kernel⟩

/-- What HostPortResetKeepsTheRest assumes can be met: messageHeld. -/
theorem witness_HostPortResetKeepsTheRest :
    (∃ (b : Blk) (v : Nat),
      (b.ctl.hostUp = false ∨ b.ctl.busMaster = false)) := by
  · exact ⟨({ ctl := { hostUp := false } } : Blk), 3, by decide +kernel⟩

/-- What WideStatusIsOneSnapshot assumes can be met: snapshotTaken, snapshotRead, wideStatus, wideRecords. -/
theorem witness_WideStatusIsOneSnapshot :
    (∃ (b : Blk) (a n k : Nat),
      (statusSpan a = (a, n)) ∧
      (1 < n ∧ k < n)) ∧
    (∃ (b c : Blk) (a n k : Nat),
      (statusSpan a = (a, n)) ∧
      (statusSpan (a + 4 * k) = (a, n)) ∧
      (1 < n ∧ 0 < k ∧ k < n) ∧
      (c.ctl.snaps = (readSnap a b).1.ctl.snaps)) ∧
    (∃ (a : Nat) (p : Page) (o : Nat) (h : Hit),
      (target a = .page p o) ∧
      (¬ (p.blk = .acg ∧ p.inst = 3) ∧ ¬ (p.blk = .acg ∧ p.inst = 0 ∧ 0x70 ≤ o ∧ o < 0x80) ∧ ¬ (p.blk = .err ∧ 0x70 ≤ o ∧ o < 0x80) ∧
        ¬ (p.blk = .sys ∧ 0x50 ≤ o ∧ o < 0x58)) ∧
      ((hitsAt a).find? (fun h => h.f.acc == .ro && Nat.blt 1 h.f.words) = some h)) ∧
    (∃ (k : Nat),
      (k < 4)) := by
  refine ⟨?_, ?_, ?_, ?_⟩
  · exact ⟨({} : Blk), 0x60090, 2, 1, by decide +kernel⟩
  · exact ⟨({} : Blk), { (readSnap 0x60090 {}).1 with now := 7 }, 0x60090, 2, 1, by decide +kernel, by decide +kernel, by decide, by decide +kernel⟩
  · exact ⟨0x60094, ⟨.clk, 0⟩, 0x94, ⟨F.CLK_NOW_TIME, 0, 0, 1⟩, rfl, by decide, rfl⟩
  · exact ⟨3, by decide +kernel⟩

/-- What BothModulesReachTheSameOpinion assumes can be met: opinionTable, opinionSets, opinionsAgree, opinionBrings. -/
theorem witness_BothModulesReachTheSameOpinion :
    (∃ (s : State) (dt xn xs yn ys st t e : Nat) (b : Blk),
      (b = s.blk.tick dt) ∧
      (b.pr.dispute = some (st, t, e)) ∧
      (b.pr.opinion = some (xn, xs, yn, ys))) ∧
    (∃ (b : Blk) (st t e : Nat) (x : OwnSet) (y : Rehearsal) (xs ys : Nat),
      (b.pr.dispute = some (st, t, e)) ∧
      (x.set.so = some (t, xs) ∧ y.so = some (t, ys)) ∧
      (tileCompared x y t = true)) ∧
    (∃ (x y u v : State) (dt du xn xs yn ys st t e f : Nat),
      ((x.blk.tick dt).pr.dispute = some (st, t, e) ∧ (y.blk.tick du).pr.dispute = some (st, t, f)) ∧
      ((x.blk.tick dt).pr.opinion = some (xn, xs, yn, ys) ∧ (y.blk.tick du).pr.opinion = some (yn, ys, xn, xs)) ∧
      (exec (.secondOpinion dt) x = .next u ∧ exec (.secondOpinion du) y = .next v)) ∧
    (∃ (st t : Nat) (b c : Blk),
      (c = opinionNoted st t 2 sevCritical b)) := by
  refine ⟨?_, ?_, ?_, ?_⟩
  · exact ⟨State.reset.withBlk { pair := { dispute := some (2, 0, 16), opinion := some (1, 2, 2, 2) } }, 0, 1, 2, 2, 2, 2, 0, 16, _, rfl, by decide +kernel, by decide +kernel⟩
  · exact ⟨{ pair := { dispute := some (2, 0, 16) } }, 2, 0, 16, ⟨⟨5, 0, some (0, 9), [], [], [8]⟩, 0, [], 30⟩, ⟨5, 0, some (0, 9), [], [], [8]⟩, 9, 9, by decide, by decide, by decide⟩
  · exact ⟨State.reset.withBlk { pair := { dispute := some (2, 0, 16), opinion := some (1, 2, 2, 2) } }, State.reset.withBlk { pair := { dispute := some (2, 0, 16), opinion := some (2, 2, 1, 2) } }, _, _, 0, 0, 1, 2, 2, 2, 2, 0, 16, 16, by decide +kernel, by decide +kernel, rfl, rfl⟩
  · exact ⟨2, 0, {}, _, rfl⟩

/-- What LiveOnlyOnEvidence assumes can be met: liveNeedsEvidence, rejudgedLive. -/
theorem witness_LiveOnlyOnEvidence :
    (∃ (now cls decim : Nat) (L : LayerSt) (d : Option Frame),
      (cls ≠ 2) ∧
      ((judge now cls L decim d).1 = 1)) ∧
    (∃ (b c : Blk) (st k cause at_ time : Nat) (force mid : Bool) (p q : Place),
      (b.place st k = some p) ∧
      ((layerPol (b.viewed st) p.layer).cls ≠ 2) ∧
      (c = rejudge st k cause force mid at_ time b) ∧
      (c.place st k = some q ∧ q.verdict = 1)) := by
  refine ⟨?_, ?_⟩
  · exact ⟨5, 0, 0, {}, some { late := 6, stale := 7 }, by decide, by decide⟩
  · refine ⟨{ prm := { places := [(0, { layer := 3, vis := ⟨0, 0, 8, 8⟩, alpha := 1023, dst := ⟨0, 0, 8, 8⟩, disp := some { serial := 1, late := 6, stale := 7 }, verdict := 2 })] } }, _, 0, 0, 0, 0, 0, false, false, { layer := 3, vis := ⟨0, 0, 8, 8⟩, alpha := 1023, dst := ⟨0, 0, 8, 8⟩, disp := some { serial := 1, late := 6, stale := 7 }, verdict := 2 }, _, rfl, by decide +kernel, rfl, rfl, by decide +kernel⟩

/-- What NamedCheckValues assumes can be met: checkCrc32, checkCrc32c, checkCrc16, checkCrc64, checkCrc8. -/
theorem witness_NamedCheckValues :
    (∃ (b : Blk) (m : FrameStore) (u : Nat) (r : CrcRun),
      (b.rd F.CRC_CFG_WIDTH u = 2 ∧ b.rd F.CRC_POLY_VALUE u = 0x4c11db7 ∧ b.rd F.CRC_INIT_VALUE u = 0xffffffff ∧ b.rd F.CRC_XOROUT_VALUE u = 0xffffffff) ∧
      (b.rd F.CRC_CFG_REFIN u = 1 ∧ b.rd F.CRC_CFG_REFOUT u = 1 ∧ b.rd F.CRC_CFG_FOLD u = 0) ∧
      (crcInput b m u r = [0x31, 0x32, 0x33, 0x34, 0x35, 0x36, 0x37, 0x38, 0x39])) ∧
    (∃ (b : Blk) (m : FrameStore) (u : Nat) (r : CrcRun),
      (b.rd F.CRC_CFG_WIDTH u = 2 ∧ b.rd F.CRC_POLY_VALUE u = 0x1edc6f41 ∧ b.rd F.CRC_INIT_VALUE u = 0xffffffff ∧ b.rd F.CRC_XOROUT_VALUE u = 0xffffffff) ∧
      (b.rd F.CRC_CFG_REFIN u = 1 ∧ b.rd F.CRC_CFG_REFOUT u = 1 ∧ b.rd F.CRC_CFG_FOLD u = 0) ∧
      (crcInput b m u r = [0x31, 0x32, 0x33, 0x34, 0x35, 0x36, 0x37, 0x38, 0x39])) ∧
    (∃ (b : Blk) (m : FrameStore) (u : Nat) (r : CrcRun),
      (b.rd F.CRC_CFG_WIDTH u = 1 ∧ b.rd F.CRC_POLY_VALUE u = 0x1021 ∧ b.rd F.CRC_INIT_VALUE u = 0xffff ∧ b.rd F.CRC_XOROUT_VALUE u = 0x0) ∧
      (b.rd F.CRC_CFG_REFIN u = 0 ∧ b.rd F.CRC_CFG_REFOUT u = 0 ∧ b.rd F.CRC_CFG_FOLD u = 0) ∧
      (crcInput b m u r = [0x31, 0x32, 0x33, 0x34, 0x35, 0x36, 0x37, 0x38, 0x39])) ∧
    (∃ (b : Blk) (m : FrameStore) (u : Nat) (r : CrcRun),
      (b.rd F.CRC_CFG_WIDTH u = 3 ∧ b.rd F.CRC_POLY_VALUE u = 0x42f0e1eba9ea3693 ∧ b.rd F.CRC_INIT_VALUE u = 0xffffffffffffffff ∧ b.rd F.CRC_XOROUT_VALUE u = 0xffffffffffffffff) ∧
      (b.rd F.CRC_CFG_REFIN u = 1 ∧ b.rd F.CRC_CFG_REFOUT u = 1 ∧ b.rd F.CRC_CFG_FOLD u = 0) ∧
      (crcInput b m u r = [0x31, 0x32, 0x33, 0x34, 0x35, 0x36, 0x37, 0x38, 0x39])) ∧
    (∃ (b : Blk) (m : FrameStore) (u : Nat) (r : CrcRun),
      (b.rd F.CRC_CFG_WIDTH u = 0 ∧ b.rd F.CRC_POLY_VALUE u = 0x7 ∧ b.rd F.CRC_INIT_VALUE u = 0x0 ∧ b.rd F.CRC_XOROUT_VALUE u = 0x0) ∧
      (b.rd F.CRC_CFG_REFIN u = 0 ∧ b.rd F.CRC_CFG_REFOUT u = 0 ∧ b.rd F.CRC_CFG_FOLD u = 0) ∧
      (crcInput b m u r = [0x31, 0x32, 0x33, 0x34, 0x35, 0x36, 0x37, 0x38, 0x39])) := by
  refine ⟨?_, ?_, ?_, ?_, ?_⟩
  · exact ⟨(({} : Blk).wr F.CRC_CFG_WIDTH 3 2 |>.wr F.CRC_POLY_VALUE 3 0x4c11db7 |>.wr F.CRC_INIT_VALUE 3 0xffffffff |>.wr F.CRC_XOROUT_VALUE 3 0xffffffff |>.wr F.CRC_CFG_REFIN 3 1 |>.wr F.CRC_CFG_REFOUT 3 1 |>.wr F.CRC_CFG_FOLD 3 0 |>.wr F.CRC_LINES_LINES 3 1 |>.wr F.CRC_SHAPE_LINE_BYTES 3 9), ({} : FrameStore).setBytes 0 [0x31, 0x32, 0x33, 0x34, 0x35, 0x36, 0x37, 0x38, 0x39], 3, ⟨0, 0, 0, 0, none⟩, by decide +kernel, by decide +kernel, by decide +kernel⟩
  · exact ⟨(({} : Blk).wr F.CRC_CFG_WIDTH 3 2 |>.wr F.CRC_POLY_VALUE 3 0x1edc6f41 |>.wr F.CRC_INIT_VALUE 3 0xffffffff |>.wr F.CRC_XOROUT_VALUE 3 0xffffffff |>.wr F.CRC_CFG_REFIN 3 1 |>.wr F.CRC_CFG_REFOUT 3 1 |>.wr F.CRC_CFG_FOLD 3 0 |>.wr F.CRC_LINES_LINES 3 1 |>.wr F.CRC_SHAPE_LINE_BYTES 3 9), ({} : FrameStore).setBytes 0 [0x31, 0x32, 0x33, 0x34, 0x35, 0x36, 0x37, 0x38, 0x39], 3, ⟨0, 0, 0, 0, none⟩, by decide +kernel, by decide +kernel, by decide +kernel⟩
  · exact ⟨(({} : Blk).wr F.CRC_CFG_WIDTH 3 1 |>.wr F.CRC_POLY_VALUE 3 0x1021 |>.wr F.CRC_INIT_VALUE 3 0xffff |>.wr F.CRC_XOROUT_VALUE 3 0x0 |>.wr F.CRC_CFG_REFIN 3 0 |>.wr F.CRC_CFG_REFOUT 3 0 |>.wr F.CRC_CFG_FOLD 3 0 |>.wr F.CRC_LINES_LINES 3 1 |>.wr F.CRC_SHAPE_LINE_BYTES 3 9), ({} : FrameStore).setBytes 0 [0x31, 0x32, 0x33, 0x34, 0x35, 0x36, 0x37, 0x38, 0x39], 3, ⟨0, 0, 0, 0, none⟩, by decide +kernel, by decide +kernel, by decide +kernel⟩
  · exact ⟨(({} : Blk).wr F.CRC_CFG_WIDTH 3 3 |>.wr F.CRC_POLY_VALUE 3 0x42f0e1eba9ea3693 |>.wr F.CRC_INIT_VALUE 3 0xffffffffffffffff |>.wr F.CRC_XOROUT_VALUE 3 0xffffffffffffffff |>.wr F.CRC_CFG_REFIN 3 1 |>.wr F.CRC_CFG_REFOUT 3 1 |>.wr F.CRC_CFG_FOLD 3 0 |>.wr F.CRC_LINES_LINES 3 1 |>.wr F.CRC_SHAPE_LINE_BYTES 3 9), ({} : FrameStore).setBytes 0 [0x31, 0x32, 0x33, 0x34, 0x35, 0x36, 0x37, 0x38, 0x39], 3, ⟨0, 0, 0, 0, none⟩, by decide +kernel, by decide +kernel, by decide +kernel⟩
  · exact ⟨(({} : Blk).wr F.CRC_CFG_WIDTH 3 0 |>.wr F.CRC_POLY_VALUE 3 0x7 |>.wr F.CRC_INIT_VALUE 3 0x0 |>.wr F.CRC_XOROUT_VALUE 3 0x0 |>.wr F.CRC_CFG_REFIN 3 0 |>.wr F.CRC_CFG_REFOUT 3 0 |>.wr F.CRC_CFG_FOLD 3 0 |>.wr F.CRC_LINES_LINES 3 1 |>.wr F.CRC_SHAPE_LINE_BYTES 3 9), ({} : FrameStore).setBytes 0 [0x31, 0x32, 0x33, 0x34, 0x35, 0x36, 0x37, 0x38, 0x39], 3, ⟨0, 0, 0, 0, none⟩, by decide +kernel, by decide +kernel, by decide +kernel⟩

/-- What RefusedAccessHasNoEffect assumes can be met: refusedWrite, refusedRead, refusedStoreAccess. -/
theorem witness_RefusedAccessHasNoEffect :
    (∃ (s : State) (dt mid addr data k : Nat) (b : Blk),
      (b = s.blk.tick dt) ∧
      (mapped (addr / 4 * 4) = true) ∧
      (b.rd F.PAIR_EPOCH_FILL_HELD 0 = 0) ∧
      (regCheck b mid (addr / 4 * 4) true = some k)) ∧
    (∃ (b : Blk) (port mid addr k : Nat),
      (mapped (addr / 4 * 4) = true) ∧
      (regCheck b mid (addr / 4 * 4) false = some k)) ∧
    (∃ (s t : State) (dt mid a n flips skew : Nat) (write beaten : Bool) (l : List Nat) (b : Blk),
      (b = s.blk.tick dt) ∧
      (fsGranted b mid (storeAddr mid a b) write = false ∧ (mid = 0x01 → b.rd F.SYS_FSWIN_BASE 0 < usable b / 2 ^ 28)) ∧
      (mid ≠ 0x14) ∧
      (exec (.memAccess dt mid a n write false l flips skew beaten) s = .next t)) := by
  refine ⟨?_, ?_, ?_⟩
  · exact ⟨State.reset, 0, 0x30, 0x100040, 1, 1, _, rfl, by decide +kernel, by decide +kernel, by decide +kernel⟩
  · exact ⟨({} : Blk), 0, 0x3F, 0x100040, 0, by decide +kernel, by decide +kernel⟩
  · exact ⟨State.reset, _, 0, 0x3F, 64, 8, 0, 0, true, false, [1], _, rfl, by decide +kernel, by decide, rfl⟩

/-- What RecordingAnEventChangesOnlyEventState assumes can be met: eventRecordFrame, eventRecordOther. -/
theorem witness_RecordingAnEventChangesOnlyEventState :
    (∃ (s : State) (dt page code sev detail mid : Nat) (p : Page),
      (pageOfSlot page = some p) ∧
      (sev ≤ 5)) ∧
    (∃ (s : State) (dt page code sev detail mid : Nat) (p : Page) (f : Fld) (i k : Nat),
      (pageOfSlot page = some p) ∧
      (sev ≤ 5) ∧
      (17 ≤ f.key i k / 131072) ∧
      (f.key i k / 131072 ≠ p.slot ∨ 2048 ≤ f.key i k % 131072) ∧
      (f.key i k ≠ F.PAIR_STAT_READY.key 0 0)) := by
  refine ⟨?_, ?_⟩
  · exact ⟨State.reset, 0, 0x120, 0x100, 3, 7, 0x10, ⟨.ing, 0⟩, by decide +kernel⟩
  · exact ⟨State.reset, 0, 0x120, 0x100, 3, 7, 0x10, ⟨.ing, 0⟩, F.ING_CTRL_KIND, 0, 0, by decide, by decide, by decide, by decide, by decide⟩

/-- What WrittenWordStoresItsOwnFields assumes can be met: readOnlyWord, stagedWord, lastWriteStands. -/
theorem witness_WrittenWordStoresItsOwnFields :
    (∃ (b : Blk) (mid a data : Nat),
      (((hitsAt a).all fun h => h.f.acc == .ro) = true)) ∧
    (∃ (b : Blk) (mid a data : Nat) (p : Page) (o : Nat),
      (target a = .page p o ∧ p.stagedCap = true ∧ o ≠ 0x08) ∧
      (((hitsAt a).all fun h => h.f.acc == .rws) = true ∧ (hitsAt a).isEmpty = false)) ∧
    (∃ (b : Blk) (mid mid' a d d' : Nat) (p : Page) (o : Nat),
      (target a = .page p o ∧ p.stagedCap = true ∧ o ≠ 0x08) ∧
      (((hitsAt a).all fun h => h.f.acc == .rws) = true ∧ (hitsAt a).isEmpty = false)) := by
  refine ⟨?_, ?_, ?_⟩
  · exact ⟨({} : Blk), 1, 0x104, 7, by decide +kernel⟩
  · exact ⟨({} : Blk), 1, 0x220044, 7, ⟨.stg, 0⟩, 0x44, by decide, by decide⟩
  · exact ⟨({} : Blk), 1, 4, 0x220044, 7, 9, ⟨.stg, 0⟩, 0x44, by decide, by decide⟩

/-- What OnlyTheSafetyHostWritesItsWords assumes can be met: safetyWordRefused, safetyWriteReported, forceSafeKept. -/
theorem witness_OnlyTheSafetyHostWritesItsWords :
    (∃ (b : Blk) (mid a : Nat),
      (safeOnly a = true) ∧
      (mid ≠ 0x04 ∧ mid ≠ 0x20)) ∧
    (∃ (s : State) (dt mid addr data : Nat) (b : Blk),
      (b = s.blk.tick dt) ∧
      (safeOnly (addr / 4 * 4) = true ∧ mapped (addr / 4 * 4) = true) ∧
      (mid ≠ 0x04 ∧ mid ≠ 0x20) ∧
      (b.rd F.PAIR_EPOCH_FILL_HELD 0 = 0)) ∧
    (∃ (b : Blk) (mid i data : Nat),
      (i < 24) ∧
      (mid ≠ 0x04 ∧ mid ≠ 0x20 ∧ mid ≠ 0)) := by
  refine ⟨?_, ?_, ?_⟩
  · exact ⟨({} : Blk), 1, 0x258040, by decide +kernel⟩
  · exact ⟨State.reset, 0, 1, 0x258040, 0, _, rfl, by decide +kernel, by decide, by decide +kernel⟩
  · exact ⟨({} : Blk), 1, 3, 2, by decide +kernel⟩

/-- What RingWindowIsReadOnly assumes can be met: ringWriteDiscarded, ringWriteRefused. -/
theorem witness_RingWindowIsReadOnly :
    (∃ (s : State) (dt mid o data : Nat) (b d : Blk),
      (b = s.blk.tick dt) ∧
      (o < 0x1000 ∧ o % 4 = 0) ∧
      (regCheck b mid (0x11000 + o) true = none) ∧
      ((b.on F.PAIR_EPOCH_FILL_HELD 0 && (mid == 0x01 || mid == 0x04)) = false) ∧
      (d = if mid = 0x08 then debugUse (0x11000 + o) true b else b)) ∧
    (∃ (s : State) (dt mid o data k : Nat) (b : Blk),
      (b = s.blk.tick dt) ∧
      (o < 0x1000 ∧ o % 4 = 0) ∧
      (regCheck b mid (0x11000 + o) true = some k) ∧
      ((b.on F.PAIR_EPOCH_FILL_HELD 0 && (mid == 0x01 || mid == 0x04)) = false)) := by
  refine ⟨?_, ?_⟩
  · exact ⟨State.reset, 0, 1, 8, 77, _, _, rfl, by decide, by decide +kernel, by decide +kernel, rfl⟩
  · exact ⟨State.reset, 0, 0x30, 8, 77, 1, _, rfl, by decide, by decide +kernel, by decide +kernel⟩

/-- What BackOffDoubles assumes can be met: failWaits, waitEnds, activeClears, softResetClears. -/
theorem witness_BackOffDoubles :
    (∃ (u st c n : Nat) (b : Blk),
      (n = (b.unit u).fails + 1)) ∧
    (∃ (s : State) (dt u : Nat) (b : Blk),
      (b = s.blk.tick dt) ∧
      ((b.unit u).state = stBackoff)) ∧
    (∃ (s : State) (dt u : Nat) (b : Blk),
      (b = s.blk.tick dt) ∧
      ((b.unit u).state = stActive ∧ (b.unit u).since + 1000000000 ≤ b.now)) ∧
    (∃ (l u : Nat) (b c : Blk),
      (unitOfLane b l = some u) ∧
      (c = (leaveActive u 6 b).putLane l { saved := ((leaveActive u 6 b).lane l).saved, based := ((leaveActive u 6 b).lane l).based }) ∧
      (unitEnabled c u = true)) := by
  refine ⟨?_, ?_, ?_, ?_⟩
  · exact ⟨40, 2, 1, 1, {}, by decide +kernel⟩
  · exact ⟨State.reset.withBlk { units := [(40, { state := 7 })] }, 0, 40, _, rfl, by decide +kernel⟩
  · exact ⟨State.reset.withBlk { now := 1000000000, units := [(40, { state := 6, fails := 3 })] }, 0, 40, _, rfl, by decide +kernel⟩
  · exact ⟨80, 40, (({ units := [(40, { lanes := [80], state := 7, fails := 3 })] } : Blk).wr F.CHN_CFG_EN 0 1), _, by decide +kernel, rfl, by decide +kernel⟩

/-- What RegisterWriteCompletes assumes can be met: anyWrite, readWriteField, stagedWord. -/
theorem witness_RegisterWriteCompletes :
    (∃ (s : State) (dt mid addr : Nat) (bar4 misroute : Bool) (words : List (Nat × Nat)),
      (bar4 = false ∨ mid ≠ 1)) ∧
    (∃ (s : State) (dt mid data : Nat),
      (accepts (s.blk.tick dt) mid 0x70 data = true)) ∧
    (∃ (s : State) (dt mid addr data : Nat),
      (accepts (s.blk.tick dt) mid addr data = true) ∧
      (0x400000 ≤ addr ∧ addr < 0x580000) ∧
      (¬ (addr < 0x500000 ∧ addr % 256 = 0x2C)) ∧
      (((hitsAt addr).any fun h => h.f.acc == .rws) = true)) := by
  refine ⟨?_, ?_, ?_⟩
  · exact ⟨State.reset, 0, 1, 0x70, false, false, [(7, 15)], .inl rfl⟩
  · exact ⟨State.reset, 0, 1, 7, by decide +kernel⟩
  · exact ⟨State.reset, 0, 1, 0x400004, 3, by decide +kernel⟩

/-- What StageCommandsComplete assumes can be met: groupCueTaken, pageCueTaken, curtainUp, mapComplete, lineNotReady,
signatureArrayDone, psCheck. -/
theorem witness_StageCommandsComplete :
    (∃ (s : State) (dt g : Nat) (q : Cue),
      (mget (s.blk.tick dt).ctl.groups g = some q ∧ q.point = 0 ∧ q.time + 10 ≤ (s.blk.tick dt).now)) ∧
    (∃ (s : State) (dt k : Nat) (p : Page) (q : Cue),
      (mget (s.blk.tick dt).ctl.cues k = some q ∧ q.point = 0 ∧ q.time + 10 ≤ (s.blk.tick dt).now) ∧
      (pageOfSlot k = some p)) ∧
    (∃ (s : State) (dt st : Nat) (r : Blk × FrameStore) (c : Blk),
      (stageRuns (s.blk.tick dt) st = true) ∧
      (r = if st = 0 then epochBoundary (s.blk.tick dt) s.store else ((s.blk.tick dt), s.store)) ∧
      (c = takeCues (fun q => q.point == 1 && q.stage == st && leadMet r.1 q) r.1) ∧
      (stageRuns c st = true)) ∧
    (∃ (s : State) (dt st : Nat) (v : Blk),
      (((s.blk.tick dt).stage st).shown ≠ [] ∧ st < 24) ∧
      (v = (s.blk.tick dt).viewed st)) ∧
    (∃ (s : State) (dt st k line slot : Nat) (p : Place),
      ((((s.blk.tick dt).stage st).scene.find? (·.1 == slot)) = some (k, p))) ∧
    (∃ (s : State) (dt st base : Nat) (v : Blk),
      (((s.blk.tick dt).stage st).shown ≠ []) ∧
      (v = (s.blk.tick dt).viewed st) ∧
      (base = v.rd F.STG_SIGBASE_ADDR st + v.rd F.STG_FRAME_F st % 2 * 0x8000) ∧
      (fsGranted (s.blk.tick dt) 0x15 base true = true)) ∧
    (∃ (s : State) (dt st k : Nat) (v : Blk),
      (psChecked (s.blk.tick dt) st k = true ∧ v = (s.blk.tick dt).viewed st ∧ st < 24 ∧ k < 8) ∧
      (v.rd F.STG_PS_CFG_CHECK st k = 1)) := by
  refine ⟨?_, ?_, ?_, ?_, ?_, ?_, ?_⟩
  · exact ⟨State.reset.withBlk { now := 10, ctl := { groups := [(3, ⟨0, 0, 0, 1⟩)] } }, 0, 3, ⟨0, 0, 0, 1⟩, by decide +kernel⟩
  · exact ⟨State.reset.withBlk { now := 10, ctl := { cues := [(0x120, ⟨0, 0, 0, 1⟩)] } }, 0, 0x120, ⟨.ing, 0⟩, ⟨0, 0, 0, 1⟩, by decide +kernel⟩
  · exact ⟨State.reset.withBlk ((({} : Blk).wr F.PG_CTRL_ENABLE 0x221 1).wr F.PG_CTRL_ENABLE 0x261 1), 0, 1, _, _, by decide +kernel, rfl, rfl, by decide +kernel⟩
  · exact ⟨State.reset.withBlk { stg := [(2, { shown := [(0, 1)] })] }, 0, 2, _, by decide +kernel, rfl⟩
  · exact ⟨State.reset.withBlk { stg := [(2, { scene := [(1, { layer := 3, vis := ⟨0, 0, 8, 8⟩, alpha := 1023, dst := ⟨0, 0, 8, 8⟩ })] })] }, 0, 2, 1, 7, 1, { layer := 3, vis := ⟨0, 0, 8, 8⟩, alpha := 1023, dst := ⟨0, 0, 8, 8⟩ }, by decide +kernel⟩
  · exact ⟨State.reset.withBlk { stg := [(2, { shown := [(0, 1)] })] }, 0, 2, _, _, by decide +kernel, rfl, rfl, by decide +kernel⟩
  · exact ⟨State.reset.withBlk { stg := [(2, { shown := (({} : Blk).wr F.STG_PS_CFG_EN 2 1 0 |>.wr F.STG_PS_CFG_CHECK 2 1 0 |>.wr F.STG_PS_CFG_SRC 2 1 0).regs })] }, 0, 2, 0, _, ⟨by decide +kernel, rfl, by decide, by decide⟩, by decide +kernel⟩

/-- What CodecCommandsComplete assumes can be met: xsdFrameDone, vdcAccessUnit, vdcAccessUnitWaits, vdcStall, vdcSlotFree,
vdcPictureOutput, vecRowReady, vecRowCoded. -/
theorem witness_CodecCommandsComplete_1 :
    (∃ (s : State) (dt x c : Nat) (first : Codestream) (rest : List Codestream) (q : Ready) (b d e : Blk) (r : Blk × FrameStore),
      (b = s.blk.tick dt ∧ feeder b true x = some c ∧ takeReady c (fedTo true x) b = some (q, d) ∧ xsdBound d x = true) ∧
      ((first :: rest).any (·.headerLost) = false) ∧
      (e = (d.wr F.XSD_STAT_PROFILE x first.ppih).wr F.XSD_STAT_LEVEL x first.plev) ∧
      (firstReason ((first :: rest).map (xsdCause e c (d.rd F.XSD_CTRL_LAYER x) (first :: rest).length)) = 0) ∧
      (r = xsdDecode x c (d.rd F.XSD_CTRL_LAYER x) first (first :: rest) ((first :: rest).flatMap (·.errors) ++ (if q.f.loss.isEmpty then [] else [1])) q (e.wr F.XSD_STAT_STATE x 2) s.store)) ∧
    (∃ (s : State) (dt x c j : Nat) (au : AccessUnit) (q : Ready) (b d e g : Blk) (k r : Blk × FrameStore),
      (b = s.blk.tick dt ∧ feeder b false x = some c ∧ takeReady c (fedTo false x) b = some (q, d) ∧ vdcBound d x = true) ∧
      (e = vdcPace x c d) ∧
      ((e.vdcCtx x).wait = [] ∧ vdcCause e x c au = 0 ∧ fieldMate (e.vdcCtx x) au = none) ∧
      (¬ ((e.rd F.VDC_STAT_STATE x = 3 ∧ (!auIrap (isH264 e c) au) = true) ∨ (e.rd F.VDC_STAT_STATE x = 1 ∧ (!e.on F.VDC_CTRL_START x) = true ∧ (!recovers (isH264 e c) (e.vdcCtx x) au) = true) ∨ (auRasl (isH264 e c) au && (e.vdcCtx x).noRasl) = true)) ∧
      (k = closeHalf x e s.store ∧ g = vdcBegin x (isH264 e c) au k.1 ∧ freeSlot g x = some j) ∧
      (r = vdcDecode x c j au q none g k.2)) ∧
    (∃ (s : State) (dt x c : Nat) (au : AccessUnit) (q : Ready) (b d e g : Blk) (k : Blk × FrameStore),
      (b = s.blk.tick dt ∧ feeder b false x = some c ∧ takeReady c (fedTo false x) b = some (q, d) ∧ vdcBound d x = true) ∧
      (e = vdcPace x c d) ∧
      ((e.vdcCtx x).wait = [] ∧ vdcCause e x c au = 0 ∧ fieldMate (e.vdcCtx x) au = none) ∧
      (¬ ((e.rd F.VDC_STAT_STATE x = 3 ∧ (!auIrap (isH264 e c) au) = true) ∨ (e.rd F.VDC_STAT_STATE x = 1 ∧ (!e.on F.VDC_CTRL_START x) = true ∧ (!recovers (isH264 e c) (e.vdcCtx x) au) = true) ∨ (auRasl (isH264 e c) au && (e.vdcCtx x).noRasl) = true)) ∧
      (k = closeHalf x e s.store ∧ g = vdcBegin x (isH264 e c) au k.1 ∧ freeSlot g x = none)) ∧
    (∃ (s : State) (dt x : Nat) (w : AccessUnit × Ready) (l : List (AccessUnit × Ready)) (b : Blk),
      (b = s.blk.tick dt ∧ x < 32) ∧
      ((b.vdcCtx x).wait = w :: l ∧ (b.vdcCtx x).stallTold = false ∧ (b.vdcCtx x).stalledAt + 50000000 < b.now)) ∧
    (∃ (s : State) (dt x c : Nat) (w : AccessUnit × Ready) (l : List (AccessUnit × Ready)) (b : Blk) (r : Blk × FrameStore),
      (b = s.blk.tick dt ∧ (b.vdcCtx x).wait = w :: l ∧ feeder b false x = some c) ∧
      (vdcUnit x c w.1 w.2 b s.store = some r)) ∧
    (∃ (s : State) (dt x c : Nat) (p : Pic) (b d : Blk) (q : Blk × FrameStore) (r : Ready),
      (b = s.blk.tick dt ∧ nextOutput (b.vdcCtx x) = some p ∧ feeder b false x = some c ∧ p.recov = false) ∧
      (d = ((b.putVdc x { b.vdcCtx x with pics := tidy ((b.vdcCtx x).pics.map fun q => if q.period = p.period ∧ q.poc = p.poc ∧ q.slot = p.slot then { q with waiting := false } else q), count := ((b.vdcCtx x).count + 1) % 2 ^ 32 }).wr
        F.VDC_FRAME_WH_W x p.frame.lay.w).wr F.VDC_FRAME_WH_H x p.frame.lay.h) ∧
      (q = statEntries vdcStats 0x12 x [recordBytes ([d.now % 2 ^ 32, d.now / 2 ^ 32, (b.vdcCtx x).count] ++ p.stats.words p.frame.conceal.length)] d s.store) ∧
      (100 * p.frame.conceal.length ≤ q.1.rd F.ING_ASM_LOSS_MAX c * (cdiv p.frame.lay.w 64 * cdiv p.frame.lay.h 64)) ∧
      (r = { f := p.frame, kind := q.1.rd F.ING_CTRL_KIND c, dest := x, sampling := 2, depth := b2n (p.frame.lay.fmt == 9), num := q.1.rd F.ING_RATE_NUM c, den := q.1.rd F.ING_RATE_DEN c, tsmode := q.1.rd F.ING_CTRL_TSMODE c })) ∧
    (∃ (s : State) (dt x row : Nat) (lost : Bool) (p : VecPic) (b e : Blk),
      (b = s.blk.tick dt ∧ ((b.vecCtx x).pics.find? fun p => p.ready == row && Nat.blt row p.rows.length) = some p ∧ e = vecView b x p) ∧
      (p.kind ≠ 0 ∨ lineEntered b (e.rd F.VEC_SRC_STAGE x) p.f (rowLastLine e x row) = true)) ∧
    (∃ (s : State) (dt x row : Nat) (r : VecRow) (p p1 : VecPic) (b e : Blk) (k : Nat × Nat × Nat × Bool),
      (b = s.blk.tick dt ∧ ((b.vecCtx x).pics.find? fun p => p.coded == row && Nat.blt row p.ready) = some p ∧ b.vecReady.head? = some (x, row)) ∧
      (e = vecView b x p) ∧
      (p1 = if row = 0 then { p with bmax := hrdBits e x p.time } else p) ∧
      (k = rowChoice e x row p1 (b.vecCtx x).prev r ∧ k.1 < 2 ∧ k.2.2.2 = false ∧ row + 1 ≠ p.rows.length)) := by
  refine ⟨?_, ?_, ?_, ?_, ?_, ?_, ?_, ?_⟩
  · exact ⟨State.reset.withBlk (({ ing := [(0, { ready := [⟨{}, 2, 0, 0, 0, 0, 1, 0⟩] })] } : Blk).wr F.PG_CTRL_ENABLE 0x120 1 |>.wr F.ING_CTRL_KIND 0 2 |>.wr F.PG_CTRL_ENABLE 0x160 1 |>.wr F.XSD_CTRL_LAYER_EN 0 1 |>.wr F.ING_FMT1_DEPTH 0 0 |>.wr F.ING_FMT1_SAMPLING 0 0), 0, 0, 0, ⟨false, 1, true, 0, 4, 0, 0, 0, 0, [], [], 0, []⟩, [], ⟨{}, 2, 0, 0, 0, 0, 1, 0⟩, _, (({ ing := [(0, { ready := [] })] } : Blk).wr F.PG_CTRL_ENABLE 0x120 1 |>.wr F.ING_CTRL_KIND 0 2 |>.wr F.PG_CTRL_ENABLE 0x160 1 |>.wr F.XSD_CTRL_LAYER_EN 0 1 |>.wr F.ING_FMT1_DEPTH 0 0 |>.wr F.ING_FMT1_SAMPLING 0 0), _, _, ⟨rfl, by decide +kernel⟩, rfl, rfl, by decide +kernel, rfl⟩
  · exact ⟨State.reset.withBlk (({ ing := [(0, { ready := [⟨{}, 4, 0, 2, 0, 0, 1, 0⟩] })] } : Blk).wr F.PG_CTRL_ENABLE 0x120 1 |>.wr F.ING_CTRL_KIND 0 4 |>.wr F.PG_CTRL_ENABLE 0x180 1 |>.wr F.VDC_CTRL_LAYER_EN 0 1), 0, 0, 0, 0, ⟨1, true, 0, 1, (8, 8), false, false, false, false, false, 0, 0, (0, 0, 0, 0), some (0, 1), 19, 0, none, 0, 1, 0, true, 0, false, [], [], [], [], [], 0, 0, 0, 0, (0, 0, 0), (0, 0)⟩, ⟨{}, 4, 0, 2, 0, 0, 1, 0⟩, _, (({ ing := [(0, { ready := [] })] } : Blk).wr F.PG_CTRL_ENABLE 0x120 1 |>.wr F.ING_CTRL_KIND 0 4 |>.wr F.PG_CTRL_ENABLE 0x180 1 |>.wr F.VDC_CTRL_LAYER_EN 0 1), _, _, _, _, ⟨rfl, by decide +kernel⟩, rfl, by decide +kernel, by decide +kernel, ⟨rfl, rfl, by decide +kernel⟩, rfl⟩
  · exact ⟨State.reset.withBlk (({ ing := [(0, { ready := [⟨{}, 4, 0, 2, 0, 0, 1, 0⟩] })], vdc := [(0, { pics := [⟨0, 0, 0, true, true, false, 0, 0, {}, none, {}⟩, ⟨1, 0, 1, true, true, false, 0, 0, {}, none, {}⟩, ⟨2, 0, 2, true, true, false, 0, 0, {}, none, {}⟩] })] } : Blk).wr F.PG_CTRL_ENABLE 0x120 1 |>.wr F.ING_CTRL_KIND 0 4 |>.wr F.PG_CTRL_ENABLE 0x180 1 |>.wr F.VDC_CTRL_LAYER_EN 0 1), 0, 0, 0, ⟨1, true, 0, 1, (8, 8), false, false, false, false, false, 0, 0, (0, 0, 0, 0), some (0, 1), 1, 1, none, 0, 1, 0, true, 0, false, [], [0, 1, 2], [], [], [], 0, 0, 0, 0, (0, 0, 0), (0, 0)⟩, ⟨{}, 4, 0, 2, 0, 0, 1, 0⟩, _, (({ ing := [(0, { ready := [] })], vdc := [(0, { pics := [⟨0, 0, 0, true, true, false, 0, 0, {}, none, {}⟩, ⟨1, 0, 1, true, true, false, 0, 0, {}, none, {}⟩, ⟨2, 0, 2, true, true, false, 0, 0, {}, none, {}⟩] })] } : Blk).wr F.PG_CTRL_ENABLE 0x120 1 |>.wr F.ING_CTRL_KIND 0 4 |>.wr F.PG_CTRL_ENABLE 0x180 1 |>.wr F.VDC_CTRL_LAYER_EN 0 1), _, _, _, ⟨rfl, by decide +kernel⟩, rfl, by decide +kernel, by decide +kernel, ⟨rfl, rfl, by decide +kernel⟩⟩
  · exact ⟨State.reset.withBlk { now := 50000001, vdc := [(2, { wait := [(⟨1, true, 0, 1, (8, 8), false, false, false, false, false, 0, 0, (0, 0, 0, 0), some (0, 1), 19, 0, none, 0, 1, 0, true, 0, false, [], [], [], [], [], 0, 0, 0, 0, (0, 0, 0), (0, 0)⟩, ⟨{}, 4, 0, 2, 0, 0, 1, 0⟩)] })] }, 0, 2, (⟨1, true, 0, 1, (8, 8), false, false, false, false, false, 0, 0, (0, 0, 0, 0), some (0, 1), 19, 0, none, 0, 1, 0, true, 0, false, [], [], [], [], [], 0, 0, 0, 0, (0, 0, 0), (0, 0)⟩, ⟨{}, 4, 0, 2, 0, 0, 1, 0⟩), [], _, ⟨rfl, by decide⟩, by decide +kernel⟩
  · exact ⟨State.reset.withBlk ((({ ing := [(0, { ready := [] })], vdc := [(0, { wait := [(⟨1, true, 0, 1, (8, 8), false, false, false, false, false, 0, 0, (0, 0, 0, 0), some (0, 1), 1, 1, none, 0, 1, 0, true, 0, false, [], [], [], [], [], 0, 0, 0, 0, (0, 0, 0), (0, 0)⟩, ⟨{}, 4, 0, 2, 0, 0, 1, 0⟩)] })] } : Blk).wr F.PG_CTRL_ENABLE 0x120 1 |>.wr F.ING_CTRL_KIND 0 4 |>.wr F.PG_CTRL_ENABLE 0x180 1 |>.wr F.VDC_CTRL_LAYER_EN 0 1) |>.wr F.VDC_STAT_STATE 0 1), 0, 0, 0, (⟨1, true, 0, 1, (8, 8), false, false, false, false, false, 0, 0, (0, 0, 0, 0), some (0, 1), 1, 1, none, 0, 1, 0, true, 0, false, [], [], [], [], [], 0, 0, 0, 0, (0, 0, 0), (0, 0)⟩, ⟨{}, 4, 0, 2, 0, 0, 1, 0⟩), [], _, _, ⟨rfl, by decide +kernel⟩, rfl⟩
  · exact ⟨State.reset.withBlk (({ vdc := [(0, { pics := [⟨0, 0, 5, true, true, false, 0, 0, {}, none, {}⟩] })] } : Blk).wr F.PG_CTRL_ENABLE 0x120 1 |>.wr F.ING_CTRL_KIND 0 4), 0, 0, 0, ⟨0, 0, 5, true, true, false, 0, 0, {}, none, {}⟩, _, _, _, _, ⟨rfl, by decide +kernel, by decide +kernel, rfl⟩, rfl, rfl, by decide +kernel, rfl⟩
  · exact ⟨State.reset.withBlk { vec := [(2, { pics := [{ conf := [], f := 0, time := 0, idr := true, kind := 1, layer := 0, frame := none, entry := [], bmax := 0, rows := [{}, {}] }] })] }, 0, 2, 0, true, { conf := [], f := 0, time := 0, idr := true, kind := 1, layer := 0, frame := none, entry := [], bmax := 0, rows := [{}, {}] }, _, _, ⟨rfl, by decide +kernel, rfl⟩, .inl (by decide)⟩
  · exact ⟨State.reset.withBlk (({ vec := [(2, { pics := [{ conf := [], f := 0, time := 0, idr := true, kind := 1, layer := 0, frame := none, entry := [], bmax := 0, rows := [{}, {}], ready := 1 }] })], vecReady := [(2, 0)] } : Blk).wr F.VEC_RC_MODE 2 2), 0, 2, 0, ⟨0, ⟨8, 0, 0, (0, 0), []⟩, ⟨8, 0, 0, (0, 0), []⟩, ⟨8, 0, 0, (0, 0), []⟩⟩, { conf := [], f := 0, time := 0, idr := true, kind := 1, layer := 0, frame := none, entry := [], bmax := 0, rows := [{}, {}], ready := 1 }, _, _, _, _, ⟨rfl, by decide +kernel, rfl⟩, rfl, rfl, ⟨rfl, by decide +kernel, by decide +kernel, by decide +kernel⟩⟩

/-- What CodecCommandsComplete assumes can be met: vecSliceOut. -/
theorem witness_CodecCommandsComplete_2 :
    (∃ (s : State) (dt x upto : Nat) (sets : List ParamSet) (nals : List (List Nat)) (p : VecPic) (rest : List VecPic) (b e : Blk),
      (b = s.blk.tick dt ∧ (b.vecCtx x).pics = p :: rest ∧ p.idr = false ∧ e = vecView b x p) ∧
      (upto = Nat.min p.rows.length ((p.sent + 1) * e.rd F.VEC_CODEC_SLICE_ROWS x) ∧ upto ≤ p.coded ∧ upto < p.rows.length ∧ p.sent * e.rd F.VEC_CODEC_SLICE_ROWS x < p.rows.length) ∧
      (vecH264 e x = false ∧ b.rd F.VEC_OUT_DEST x % 2 = 0)) := by
  · exact ⟨State.reset.withBlk (({ vec := [(2, { pics := [{ conf := [], f := 0, time := 0, idr := false, kind := 1, layer := 0, frame := none, entry := [], bmax := 0, rows := [{}, {}], ready := 1, coded := 1 }] })] } : Blk).wr F.VEC_CODEC_SLICE_ROWS 2 1 |>.wr F.VEC_CODEC_CODEC 2 1 |>.wr F.VEC_OUT_DEST 2 2), 0, 2, _, [], [], { conf := [], f := 0, time := 0, idr := false, kind := 1, layer := 0, frame := none, entry := [], bmax := 0, rows := [{}, {}], ready := 1, coded := 1 }, [], _, _, ⟨rfl, by decide +kernel, rfl, rfl⟩, ⟨rfl, by decide +kernel⟩, by decide +kernel⟩

/-- What ScramblerRoundTrips assumes can be met: roundTrip, selfSynchronous. -/
theorem witness_ScramblerRoundTrips :
    (∃ (n s v : Nat),
      (v < 2 ^ n)) ∧
    (∃ (s v : Nat),
      (s < 2 ^ 58)) := by
  refine ⟨?_, ?_⟩
  · exact ⟨64, 5, 7, by decide +kernel⟩
  · exact ⟨5, 9, by decide +kernel⟩

/-- What BlockLockGainAndLoss assumes can be met: ownMarker, lockGained, lockRefused, lockLost, lockLostBy. -/
theorem witness_BlockLockGainAndLoss :
    (∃ (l : Nat),
      (l < 4)) ∧
    (∃ (x : LineSt) (l p p1 p2 n : Nat),
      (x.st = 0 ∧ markerLane 1 p = some l ∧ markerMatch l 1 p1 = true ∧ markerMatch l 1 p2 = true ∧ n < 4)) ∧
    (∃ (x : LineSt) (l p p1 p2 n : Nat),
      (x.st = 0 ∧ markerLane 1 p = some l ∧ markerMatch l 1 p1 = true) ∧
      ((4 ≤ n ∧ n ≤ 2112) ∨ markerMatch l 1 p2 = false) ∧
      (n ≤ 2112)) ∧
    (∃ (x : LineSt) (o : LineObs),
      (x.st = 2 ∧ (lineStep x o).st ≠ 2)) ∧
    (∃ (x : LineSt),
      (x.st = 2)) := by
  refine ⟨?_, ?_, ?_, ?_, ?_⟩
  · exact ⟨3, by decide +kernel⟩
  · exact ⟨{}, 2, markerPayload 2, markerPayload 2, markerPayload 2, 3, by decide +kernel⟩
  · exact ⟨{}, 2, markerPayload 2, markerPayload 2, 0, 0, by decide +kernel⟩
  · exact ⟨{ st := 2, miss := 2 }, .marker 1 0, by decide +kernel⟩
  · exact ⟨{ st := 2 }, by decide +kernel⟩

/-- What PipelineWithinItsLimit assumes can be met: limit, reached. -/
theorem witness_PipelineWithinItsLimit :
    (∃ (b : Blk) (h r : Nat),
      (timingOk b h = true)) ∧
    (∃ (b : Blk) (h r : Nat),
      ((pixClock b h).1 = 50000000 * (pixClock b h).2 ∧ 0 < (pixClock b h).2) ∧
      (b.on F.OHD_CTRL_MST h = true ∧ 1 < r)) := by
  refine ⟨?_, ?_⟩
  · exact ⟨(({} : Blk).wr F.OHD_CTRL_GENLOCK 0 0 |>.wr F.OHD_PCLK_HZ 0 594000000 |>.wr F.OHD_HTIM0_ACTIVE 0 3840 |>.wr F.OHD_HTIM0_TOTAL 0 4400 |>.wr F.OHD_HTIM1_FRONT 0 100 |>.wr F.OHD_HTIM1_SYNC 0 100 |>.wr F.OHD_VTIM0_ACTIVE 0 2160 |>.wr F.OHD_VTIM0_TOTAL 0 2250 |>.wr F.OHD_VTIM1_FRONT 0 8 |>.wr F.OHD_VTIM1_SYNC 0 10), 0, 2, by decide +kernel⟩
  · exact ⟨(({} : Blk).wr F.OHD_CTRL_GENLOCK 0 0 |>.wr F.OHD_PCLK_HZ 0 50000000 |>.wr F.OHD_CTRL_MST 0 1), 0, 2, by decide +kernel⟩

/-- What CheckCodeCorrectsAndDetects assumes can be met: oneWrong, twoWrong, wrongPlace. -/
theorem witness_CheckCodeCorrectsAndDetects :
    (∃ (m : FrameStore) (i k : Nat),
      (k < 72)) ∧
    (∃ (m : FrameStore) (i j k : Nat),
      (j < k ∧ k < 72)) ∧
    (∃ (m : FrameStore) (i j k : Nat),
      (j ≤ k ∧ k < 37)) := by
  refine ⟨?_, ?_, ?_⟩
  · exact ⟨{}, 3, 70, by decide +kernel⟩
  · exact ⟨{}, 3, 5, 70, by decide +kernel⟩
  · exact ⟨{}, 3, 5, 36, by decide +kernel⟩

end Sys2Proof.Tests
end

