-- ==== Sys2Proof/Proofs/LittleEndian.lean ====
section
/-!
O8: the numbering of the bits of a field and of a register that spans words, and the order of the bytes of the frame store (R8).
-/

namespace Sys2Proof.Machine

/-- A field's bits are those of its word from `lo` up, and none from its width on. -/
theorem testBit_bits (v lo w k : Nat) : (bits v lo w).testBit k = (decide (k < w) && v.testBit (lo + k)) := by
  rw [bits, Nat.testBit_mod_two_pow, Nat.testBit_div_two_pow, Nat.add_comm k lo]

/-- Word `j` of a field's register holds the register's bits from `32 * j` up, the field standing at its `lo`. -/
theorem testBit_fldWord (f : Fld) (v j k : Nat) :
    (fldWord f v j).testBit k = (decide (k < 32) && (decide (f.lo ≤ 32 * j + k) && v.testBit (32 * j + k - f.lo))) := by
  rw [fldWord, testBit_bits, Nat.testBit_mul_two_pow]

/-- Byte `k` of a number, least significant first, is its digit of weight `256 ^ k`. -/
theorem leBytes_getElem (n v k : Nat) (h : k < (leBytes n v).length) : (leBytes n v)[k] = v / 256 ^ k % 256 := by
  induction n generalizing v k with
  | zero => simp [leBytes] at h
  | succ n ih =>
    cases k with
    | zero => simp [leBytes]
    | succ k =>
      simp only [leBytes, List.getElem_cons_succ]
      rw [ih, Nat.div_div_eq_div_mul, ← Nat.pow_succ']

/-- A number written to the frame store has its byte `k` at the `k`-th address from the write's. -/
theorem FrameStore.byte_leWrite (m : FrameStore) (a n v k : Nat) (hm : m.wf = true) (hk : k < n) :
    (m.leWrite a n v).byte (a + k) = v / 256 ^ k % 256 := by
  rw [FrameStore.leWrite, m.byte_setBytes_in a _ k hm (by rw [leBytes_length]; exact hk), leBytes_getElem, Nat.mod_mod]

/-- Where the bytes are the digits of a number, least significant first, the number is read. -/
theorem FrameStore.leRead_of_bytes (m : FrameStore) (a n v : Nat) (h : ∀ k < n, m.byte (a + k) = v / 256 ^ k % 256) :
    m.leRead a n = v % 256 ^ n := by
  induction n generalizing a v with
  | zero => simp [FrameStore.leRead, Nat.mod_one]
  | succ n ih =>
    have first : m.byte a = v % 256 := by simpa using h 0 (by omega)
    have rest : m.leRead (a + 1) n = v / 256 % 256 ^ n := by
      apply ih
      intro k hk
      rw [Nat.div_div_eq_div_mul, ← Nat.pow_succ', ← h (k + 1) (by omega), Nat.add_right_comm, Nat.add_assoc]
    rw [FrameStore.leRead, first, rest, Nat.pow_succ', Nat.mod_mul]

/-- A number written to the frame store reads back as what of it fits the bytes written. -/
theorem FrameStore.leRead_leWrite (m : FrameStore) (a n v : Nat) (hm : m.wf = true) :
    (m.leWrite a n v).leRead a n = v % 256 ^ n :=
  FrameStore.leRead_of_bytes _ a n v fun k hk => m.byte_leWrite a n v k hm hk

/-- Settles O8, from the bits of a field, the bits of a word of its register, and the bytes of a number written. -/
theorem littleEndian : Obligations.LittleEndian := by
  unfold Obligations.LittleEndian
  refine ⟨?fieldBits, ?multiWordField, ?frameStore⟩
  case fieldBits =>
    intro v lo w k hk
    simp [testBit_bits, hk]
  case multiWordField =>
    rintro f v j k ⟨hk, hlo⟩
    simp [testBit_fldWord, hk, hlo]
  case frameStore =>
    intro m a n v k hm hk
    exact ⟨m.byte_leWrite a n v k hm hk, m.leRead_leWrite a n v hm⟩

end Sys2Proof.Machine
end

