-- ==== Sys2Proof/Proofs/WideStatus.lean ====
section
/-!
O40: a status value wider than 32 bits is captured when its lowest word is read, and its higher words return the capture (R24).
-/

namespace Sys2Proof.Machine

/-- The entry of word `k` from `a` after the words of a run from `a` were entered one by one: that word's, where the run reaches it. -/
theorem mget_foldl_mset_words {α : Type} (v : Nat → α) (m : SMap α) (a n k : Nat) :
    mget ((List.range n).foldl (fun m i => mset m (a + 4 * i) (v (a + 4 * i))) m) (a + 4 * k) =
      if k < n then some (v (a + 4 * k)) else mget m (a + 4 * k) := by
  induction n with
  | zero => simp
  | succ n ih =>
    rw [List.range_succ, List.foldl_append, List.foldl_cons, List.foldl_nil, mget_mset, ih]
    by_cases hk : k = n
    · simp [hk]
    · rw [if_neg (by omega)]
      simp only [show k < n + 1 ↔ k < n by omega]

/-- The snapshot table after the `n` words from `a` are captured as they read now. -/
def captureWords (a n : Nat) (b : Blk) : SMap Nat :=
  (List.range n).foldl (fun m k => mset m (a + 4 * k) (readPure b (a + 4 * k))) b.ctl.snaps

/-- Each word of a capture is kept as it reads at the capture. -/
theorem mget_captureWords {a n k : Nat} (b : Blk) (hk : k < n) :
    mget (captureWords a n b) (a + 4 * k) = some (readPure b (a + 4 * k)) := by
  rw [captureWords, mget_foldl_mset_words, if_pos hk]

/-- A read of the lowest word of a wide value captures the value's words and answers the word itself. -/
theorem readSnap_lowest {a n : Nat} (b : Blk) (hs : statusSpan a = (a, n)) (hn : 1 < n) :
    readSnap a b = ({ b with ctl := { b.ctl with snaps := captureWords a n b } }, readPure b a) := by
  simp [readSnap, hs, hn, captureWords]

/-- A read of a higher word of a wide value answers the captured word, or the word itself where none is captured. -/
theorem readSnap_higher {a low n : Nat} (b : Blk) (hs : statusSpan a = (low, n)) (hn : 1 < n) (hlow : low ≠ a) :
    readSnap a b = (b, (mget b.ctl.snaps a).getD (readPure b a)) := by
  simp [readSnap, hs, hn, hlow]

/-- Outside the windows of the record words, a page's word spans the read-only field of several words that stands in it. -/
theorem statusSpan_field {a : Nat} {p : Page} {o : Nat} {h : Hit} (ht : target a = .page p o)
    (vlog : ¬ (p.blk = .acg ∧ p.inst = 3)) (firstViolation : ¬ (p.blk = .acg ∧ p.inst = 0 ∧ 0x70 ≤ o ∧ o < 0x80))
    (fatalRecord : ¬ (p.blk = .err ∧ 0x70 ≤ o ∧ o < 0x80)) (serialNumber : ¬ (p.blk = .sys ∧ 0x50 ≤ o ∧ o < 0x58))
    (hh : (hitsAt a).find? (fun h => h.f.acc == .ro && Nat.blt 1 h.f.words) = some h) :
    statusSpan a = (a - 4 * h.j, h.f.words) := by
  have vlogWord : ¬ (p.blk = .acg ∧ p.inst = 3 ∧ 0x400 ≤ o ∧ o < 0x800) := fun ⟨hb, hi, _⟩ => vlog ⟨hb, hi⟩
  simp only [statusSpan, ht, hh, if_neg vlogWord, if_neg firstViolation, if_neg fatalRecord, if_neg serialNumber]

/-- The four words of the first violation (`ACG_VFIRST`) are one status value. -/
theorem statusSpan_firstViolation : ∀ k < 4, statusSpan (0x20070 + 4 * k) = (0x20070, 4) := by decide

/-- The four words of the fatal record (`ERR_FATAL`) are one status value. -/
theorem statusSpan_fatalRecord : ∀ k < 4, statusSpan (0x10070 + 4 * k) = (0x10070, 4) := by decide

/-- The two words of the serial number (`SYS_SERIAL`) are one status value. -/
theorem statusSpan_serialNumber : ∀ k < 2, statusSpan (0x50 + 4 * k) = (0x50, 2) := by decide

/-- Settles O40, from what a read of the lowest and of a higher word of a span does, and from the spans themselves. -/
theorem wideStatusIsOneSnapshot : Obligations.WideStatusIsOneSnapshot := by
  unfold Obligations.WideStatusIsOneSnapshot
  refine ⟨?snapshotTaken, ?snapshotRead, ?wideStatus, ?wideRecords⟩
  case snapshotTaken =>
    rintro b a n k hs ⟨hn, hk⟩
    rw [readSnap_lowest b hs hn]
    exact ⟨rfl, mget_captureWords b hk, rfl⟩
  case snapshotRead =>
    rintro b c a n k hs hword ⟨hn, hpos, hk⟩ hsnaps
    have hcap : c.ctl.snaps = captureWords a n b := by rw [hsnaps, readSnap_lowest b hs hn]
    rw [readSnap_higher c hword hn (by omega), hcap, mget_captureWords b hk, Option.getD_some]
  case wideStatus =>
    rintro a p o h ht ⟨vlog, firstViolation, fatalRecord, serialNumber⟩ hh
    exact statusSpan_field ht vlog firstViolation fatalRecord serialNumber hh
  case wideRecords =>
    intro k hk
    exact ⟨statusSpan_firstViolation k hk, statusSpan_fatalRecord k hk, statusSpan_serialNumber k⟩

end Sys2Proof.Machine
end

