-- ==== Sys2Proof/Proofs/HeaderReads.lean ====
section
/-!
O9: every MID may read the header of every page (R58).
-/

namespace Sys2Proof.Machine

/-- A word of a page below offset 0x40 lies in the page's header. -/
theorem inHeader_page {n : Nat} {p : Page} (hp : pageOfSlot n = some p) {o : Nat} (ho : o < 0x40) :
    inHeader (n * 0x1000 + o) = true := by
  rw [inHeader, target_page hp o (by omega)]
  exact Nat.blt_eq.mpr ho

/-- Access control grants every read of a header, whatever the rule image and the MID. -/
theorem regCheck_inHeader (b : Blk) (mid : Nat) {a : Nat} (h : inHeader a = true) : regCheck b mid a false = none := by
  unfold regCheck
  cases acgSlot a with
  | none => rfl
  | some k => simp [h]

/-- A granted read of a mapped word by another MID than debug's is the read of the word, and is not refused. -/
theorem busRead_granted {b : Blk} {mid a : Nat} (port : Nat) (ha : a % 4 = 0) (hm : mapped a = true) (hmid : mid ≠ 8)
    (hc : regCheck b mid a false = none) :
    busRead port mid a b = ((readWord mid a b).1, (readWord mid a b).2, false) := by
  have aligned : a / 4 * 4 = a := by omega
  simp only [busRead, aligned, hm, hc, if_neg hmid, Bool.not_true, Bool.false_eq_true, if_false]

/-- Only two words of the ERR page change by being read; any other read is a read with the snapshot of R24. -/
theorem readWord_readSnap (b : Blk) (mid : Nat) {a : Nat} (hdata : a ≠ 0x10060) (hstat : a ≠ 0x10058) :
    readWord mid a b = readSnap a b := by
  simp only [readWord, hdata, hstat, and_false, if_false]

/-- A header word whose fields are one word each is a status value of one word. -/
theorem statusSpan_header {a : Nat} {p : Page} {o : Nat} (ht : target a = .page p o) (ho : o < 0x40)
    (hw : ∀ h ∈ hitsAt a, h.f.words = 1) : statusSpan a = (a, 1) := by
  have noWide : (hitsAt a).find? (fun h => h.f.acc == .ro && Nat.blt 1 h.f.words) = none := by
    refine List.find?_eq_none.2 fun h hh => ?_
    rw [hw h hh, show Nat.blt 1 1 = false from rfl, Bool.and_false]
    exact Bool.false_ne_true
  simp only [statusSpan, ht, noWide]
  rw [if_neg (by omega), if_neg (by omega), if_neg (by omega), if_neg (by omega)]

/-- A read of a status value of one word answers the word and captures nothing. -/
theorem readSnap_single {a : Nat} (b : Blk) (hs : statusSpan a = (a, 1)) : readSnap a b = (b, readPure b a) := by
  simp [readSnap, hs]

/-- A header word reads as the header's word. -/
theorem readPure_header (b : Blk) {a : Nat} {p : Page} {o : Nat} (ht : target a = .page p o) (ho : o < 0x40) :
    readPure b a = headerWord b p o := by
  simp only [readPure, ht, if_pos ho]

/-- Settles O9, from access control's grant of every header read and from what a header word reads as. -/
theorem headersReadByEveryMid : Obligations.HeadersReadByEveryMid := by
  unfold Obligations.HeadersReadByEveryMid
  refine ⟨?headerReadGranted, ?headerReadDone⟩
  case headerReadGranted =>
    intro b mid n o p hp ho
    exact regCheck_inHeader b mid (inHeader_page hp ho)
  case headerReadDone =>
    rintro b port mid n o p hp ⟨ho, hal⟩ ⟨hmid, hm⟩ hw
    have ht := target_page hp o (by omega)
    have granted := regCheck_inHeader b mid (inHeader_page hp ho)
    rw [busRead_granted port (by omega) hm hmid granted, readWord_readSnap b mid (by omega) (by omega),
      readSnap_single b (statusSpan_header ht ho hw), readPure_header b ht ho]

end Sys2Proof.Machine
end

