-- ==== Sys2Proof/Proofs/HostPort.lean ====
section
/-!
O39: a reset of host port A, and the messages that wait for its link and bus mastering (R42).
-/

namespace Sys2Proof.Machine

/-- Messages sent one after the other go out behind what was sent before, in their order, and change nothing else. -/
theorem forEach_emit_msix (l : List Nat) (b : Blk) :
    forEach l (fun v (b : Blk) => b.emit (.msix v)) b = { b with out := b.out ++ l.map .msix } := by
  induction l generalizing b with
  | nil => simp [forEach]
  | cons v t ih =>
    calc forEach (v :: t) (fun v (b : Blk) => b.emit (.msix v)) b
        = forEach t (fun v (b : Blk) => b.emit (.msix v)) (b.emit (.msix v)) := rfl
      _ = { b.emit (.msix v) with out := (b.emit (.msix v)).out ++ t.map .msix } := ih _
      _ = { b with out := b.out ++ (v :: t).map .msix } := by simp [Blk.emit]

/-- The pending bits with one more of them set. -/
def pendingWith (v : Nat) (l : List Nat) : List Nat := if l.contains v then l else l ++ [v]

theorem mem_pendingWith_self (v : Nat) (l : List Nat) : v ∈ pendingWith v l := by
  unfold pendingWith
  split
  · next h => exact List.contains_iff_mem.1 h
  · simp

theorem mem_pendingWith_of_mem {v w : Nat} {l : List Nat} (h : w ∈ l) : w ∈ pendingWith v l := by
  unfold pendingWith
  split
  · exact h
  · exact List.mem_append_left _ h

/-- A message that cannot be sent sets its pending bit and does nothing else. -/
theorem sendVector_held (v : Nat) {b : Blk} (h : b.ctl.hostUp = false ∨ b.ctl.busMaster = false) :
    sendVector v b = { b with ctl := { b.ctl with msixPending := pendingWith v b.ctl.msixPending } } := by
  have closed : (b.ctl.hostUp && b.ctl.busMaster) = false := Bool.and_eq_false_iff.2 h
  rw [sendVector, closed]
  rfl

/-- With the link up and bus mastering enabled, every pending message goes out and none stays pending. -/
theorem msixPendingSend_open (s : State) (dt : Nat) :
    exec (.msixPendingSend dt true true) s = .next (s.withBlk { s.blk.tick dt with
      ctl := { s.blk.ctl with hostUp := true, busMaster := true, msixPending := [] },
      out := s.blk.ctl.msixPending.map .msix }) := by
  change Host.Outcome.next (s.withBlk (forEach s.blk.ctl.msixPending _ _)) = _
  rw [forEach_emit_msix]
  rfl

/-- With the link down or bus mastering disabled, every pending message stays pending. -/
theorem msixPendingSend_closed (s : State) (dt : Nat) {up bme : Bool} (h : (up && bme) = false) :
    exec (.msixPendingSend dt up bme) s = .next (s.withBlk { s.blk.tick dt with
      ctl := { s.blk.ctl with hostUp := up, busMaster := bme } }) := by
  change execMsixPendingSend dt up bme s = _
  simp only [execMsixPendingSend, eff, h, Bool.false_eq_true, if_false]
  rfl

/-- Settles O39, from what a message does that cannot be sent, and what the pending ones do in the two states of the port. -/
theorem hostPortResetKeepsTheRest : Obligations.HostPortResetKeepsTheRest := by
  unfold Obligations.HostPortResetKeepsTheRest
  refine ⟨?hostPortResetOnly, ?messageHeld, ?messagesSent⟩
  case hostPortResetOnly =>
    intro s dt
    rfl
  case messageHeld =>
    intro b v h
    rw [sendVector_held v h]
    exact ⟨rfl, mem_pendingWith_self v _, fun w hw => mem_pendingWith_of_mem hw, rfl, rfl⟩
  case messagesSent =>
    intro s dt up bme
    cases hopen : up && bme with
    | true =>
      obtain ⟨rfl, rfl⟩ := Bool.and_eq_true_iff.1 hopen
      exact ⟨_, msixPendingSend_open s dt, rfl, rfl, fun _ => ⟨rfl, rfl⟩, fun h => absurd h (by decide), rfl, rfl⟩
    | false =>
      exact ⟨_, msixPendingSend_closed s dt hopen, rfl, rfl, fun h => absurd h (by decide), fun _ => ⟨rfl, rfl⟩, rfl, rfl⟩

end Sys2Proof.Machine
end

