-- ==== Sys2Proof/Proofs/RingWindow.lean ====
section
/-!
O49: a write of the ERR ring window (R476).
-/

namespace Sys2Proof.Machine

/-! ### The path of a whole word that no full epoch holds -/

section
variable {b : Blk} {mid a data : Nat} (ha : a % 4 = 0) (hm : mapped a = true)
  (hh : (b.on F.PAIR_EPOCH_FILL_HELD 0 && (mid == 0x01 || mid == 0x04)) = false)
include ha hm hh

/-- A write that access control refuses is a violation of the refusal's kind. -/
theorem busWrite_refused {k : Nat} (hc : regCheck b mid a true = some k) (port : Nat) (same : Bool) :
    busWrite port mid a data 15 false same b = regViolation port mid a k b := by
  have aligned : a / 4 * 4 = a := by omega
  simp [busWrite, aligned, hh, hm, hc]

/-- A write that access control grants outside the member windows is taken on. -/
theorem busWrite_accepted (hc : regCheck b mid a true = none) (ht : ∀ j o, target a ≠ .member j o) (port : Nat) (same : Bool) :
    busWrite port mid a data 15 false same b = acceptWrite port mid a data same b := by
  have aligned : a / 4 * 4 = a := by omega
  cases hg : target a with
  | member j o => exact absurd hg (ht j o)
  | _ => simp [busWrite, aligned, hh, hm, hc, hg]

end

/-! ### The ring window -/

section
variable {o : Nat} (ho : o < 0x1000)
include ho

/-- The target of an offset in the ring window. -/
theorem target_ringWindow : target (0x11000 + o) = .ring o := by
  simp only [target]
  rw [if_pos (by omega), if_pos (by omega), Nat.add_sub_cancel_left]

theorem mapped_ringWindow : mapped (0x11000 + o) = true := by
  rw [mapped, target_ringWindow ho]

/-- No field stands in the window, so no value written to it is illegal. -/
theorem valueBad_ringWindow (b : Blk) (mid data : Nat) : valueBad b mid (0x11000 + o) data = false := by
  simp only [valueBad, orderBad, hitsAt, target_ringWindow ho, List.any_nil, Bool.or_false]

/-- The pair copies no word of the window (R336). -/
theorem copiedRange_ringWindow : copiedRange (0x11000 + o) = false := by
  rw [copiedRange, target_ringWindow ho]

/-- The ensemble shares no word of the window (R368). -/
theorem sharedRange_ringWindow : sharedRange (0x11000 + o) = false := by
  rw [sharedRange, target_ringWindow ho]

/-- A write to the window that is taken on is discarded with event 0x0007; nothing is copied, shared or held of it. -/
theorem acceptWrite_ringWindow (port mid data : Nat) (same : Bool) (b : Blk) :
    acceptWrite port mid (0x11000 + o) data same b =
      raiseAs mid errPage 0x0007 sevNotice o 0 (if mid = 0x08 then debugUse (0x11000 + o) true b else b) := by
  have notGroupCue : (0x11000 + o == 0x80) = false := beq_eq_false_iff_ne.2 (by omega)
  simp [acceptWrite, grantedWrite, sharedForward, target_ringWindow ho, valueBad_ringWindow ho, copiedRange_ringWindow ho,
    sharedRange_ringWindow ho, notGroupCue]

end

/-- RING_WINDOW_WRITE is a write of the window's word by its MID's port. -/
theorem exec_ringWindowWrite (s : State) (dt mid data : Nat) {o : Nat} (ho : o < 0x1000) :
    exec (.ringWindowWrite dt mid o data) s =
      .next (s.withBlk (busWrite (midPort mid) mid (0x11000 + o) data 15 false false (s.blk.tick dt))) := by
  change execRingWindowWrite dt mid o data s = _
  rw [execRingWindowWrite, Nat.mod_eq_of_lt ho]
  rfl

/-! ### What an event of a page leaves -/

/-- Recording an event changes no register but those of the event, and nothing beside registers but the event storage. -/
theorem moved_raiseAs (mid : Nat) (p : Page) (code sev d evt : Nat) (b : Blk) :
    b.moved (raiseAs mid p code sev d evt b) [p] [] :=
  ⟨rest_raiseAs mid p code sev d evt b, holds_raiseAs mid p (List.mem_singleton_self p) code sev d evt (Blk.holds_refl b _ _)⟩

/-- Recording an event leaves access control's own state, the violation log with it. -/
theorem acg_raiseAs (mid : Nat) (p : Page) (code sev d evt : Nat) (b : Blk) : (raiseAs mid p code sev d evt b).acg = b.acg :=
  (congrArg Blk.acg (rest_raiseAs mid p code sev d evt b) :)

/-- A use of debug is counted and recorded; it leaves access control's own state. -/
theorem acg_debugUse (a : Nat) (write : Bool) (b : Blk) : (debugUse a write b).acg = b.acg := by
  unfold debugUse
  cases acgSlot a with
  | none => rfl
  | some k =>
    dsimp only
    split
    · exact acg_raiseAs ..
    · rfl

/-- Settles O49, from the path of a whole word and from what the recording of an event leaves. -/
theorem ringWindowIsReadOnly : Obligations.RingWindowIsReadOnly := by
  unfold Obligations.RingWindowIsReadOnly
  refine ⟨?ringWriteDiscarded, ?ringWriteRefused⟩
  case ringWriteDiscarded =>
    rintro s dt mid o data b d rfl ⟨ho, hal⟩ hc hh rfl
    have notMember : ∀ j x, target (0x11000 + o) ≠ .member j x := by simp [target_ringWindow ho]
    have sameAcg : (if mid = 0x08 then debugUse (0x11000 + o) true (s.blk.tick dt) else s.blk.tick dt).acg = (s.blk.tick dt).acg := by
      split
      · exact acg_debugUse ..
      · rfl
    refine ⟨_, ?_, rfl, moved_raiseAs .., congrArg Acg.log ((acg_raiseAs ..).trans sameAcg), ?_⟩
    · rw [exec_ringWindowWrite s dt mid data ho, busWrite_accepted (by omega) (mapped_ringWindow ho) hh hc notMember,
        acceptWrite_ringWindow ho]
    · exact rd_raiseAs _ _ _ _ _ _ _ F.ACG_VIOL_COUNT_COUNT 0 0 (by decide)
  case ringWriteRefused =>
    rintro s dt mid o data k b rfl ⟨ho, hal⟩ hc hh
    rw [exec_ringWindowWrite s dt mid data ho, busWrite_refused (by omega) (mapped_ringWindow ho) hh hc]

end Sys2Proof.Machine
end

