-- ==== Sys2Proof/Proofs/LiveEvidence.lean ====
section
/-!
O42: what the verdict LIVE of a layer of a live class rests on (R71), by way of the worst of the three components of R86.
-/

namespace Sys2Proof.Machine

/-! ### The worst component -/

/-- LIVE is the one verdict of the best rank. -/
theorem vrank_eq_zero_iff (v : Nat) : vrank v = 0 ↔ v = 1 := by
  unfold vrank
  split <;> simp_all

/-- The rank of the verdict judged is the worst of the ranks of its time, content and damage components. -/
theorem vrank_judge (now cls decim : Nat) (L : LayerSt) (d : Option Frame) :
    vrank (judge now cls L decim d).1 = max (vrank (timePart now cls d).1)
      (max (vrank (if L.frozen && cls != 2 then 4 else 1)) (vrank (if damageWhy decim d = 0 then 1 else 5))) := by
  unfold judge
  extract_lets t c w g x
  have content : c.1 = if L.frozen && cls != 2 then 4 else 1 := apply_ite Prod.fst ..
  have damage : g.1 = if w = 0 then 1 else 5 := apply_ite Prod.fst ..
  have timeContent : vrank x.1 = max (vrank t.1) (vrank c.1) := by
    by_cases tie : c.1 = t.1
    · simp [x, tie]
    · by_cases later : vrank c.1 < vrank t.1
      · simp [x, later, later.le]
      · simp [x, tie, later, not_lt.1 later]
  rw [← content, ← damage, ← max_assoc, ← timeContent]
  split
  next h => exact (max_eq_left h).symm
  next h => exact (max_eq_right (not_le.1 h).le).symm

/-- The verdict judged is LIVE exactly when the time component is LIVE, no live layer is frozen and there is no damage. -/
theorem judge_live_iff (now cls decim : Nat) (L : LayerSt) (d : Option Frame) :
    (judge now cls L decim d).1 = 1 ↔
      (timePart now cls d).1 = 1 ∧ (L.frozen && cls != 2) = false ∧ damageWhy decim d = 0 := by
  have content : vrank (if L.frozen && cls != 2 then 4 else 1) = 0 ↔ (L.frozen && cls != 2) = false := by
    cases L.frozen && cls != 2 <;> decide
  have damage : vrank (if damageWhy decim d = 0 then 1 else 5) = 0 ↔ damageWhy decim d = 0 := by
    by_cases h : damageWhy decim d = 0 <;> simp [h, vrank]
  rw [← vrank_eq_zero_iff, vrank_judge, Nat.max_eq_zero_iff, Nat.max_eq_zero_iff, vrank_eq_zero_iff, content, damage]

/-! ### The evidence rules of each component -/

/-- The time component of a live class is LIVE exactly for a frame on display before its dark, stale and late deadlines. -/
theorem timePart_live_iff {cls : Nat} (hcls : cls ≠ 2) (now : Nat) (d : Option Frame) :
    (timePart now cls d).1 = 1 ↔
      ∃ f, d = some f ∧ now < f.late ∧ now < f.stale ∧ ∀ t, f.dark = some t → now < t := by
  cases d with
  | none => simp [timePart]
  | some f =>
    have young : (if f.stale ≤ now then (3, 0x05) else if f.late ≤ now then (2, 0x04) else (1, 0x07) : Nat × Nat).1 = 1 ↔
        now < f.late ∧ now < f.stale := by
      split_ifs <;> simp <;> omega
    cases hdark : f.dark with
    | none => simp [timePart, hcls, hdark, young]
    | some t =>
      rcases le_or_gt t now with dark | dark
      · simp [timePart, hcls, hdark, dark, not_lt.2 dark]
      · simp [timePart, hcls, hdark, dark, not_le.2 dark, young]

/-- A frame carries no damage exactly when no tile is lost or concealed, it is no substitute, and nothing decimates it. -/
theorem damageWhy_eq_zero_iff (decim : Nat) (f : Frame) :
    damageWhy decim (some f) = 0 ↔
      f.loss = [] ∧ f.conceal = [] ∧ f.subst = false ∧ decim = 0 ∧ f.decim = false := by
  cases lost : f.loss with
  | cons t l => simp [damageWhy, lost]
  | nil =>
    cases concealed : f.conceal with
    | cons t l => simp [damageWhy, lost, concealed]
    | nil => cases substitute : f.subst <;> simp [damageWhy, lost, concealed, substitute]

/-- A layer of a live class judged LIVE is not frozen, and its frame on display meets every rule of time and damage (R71). -/
theorem judge_live {now cls decim : Nat} {L : LayerSt} {d : Option Frame} (hcls : cls ≠ 2) (h : (judge now cls L decim d).1 = 1) :
    L.frozen = false ∧ decim = 0 ∧ ∃ f, d = some f ∧ now < f.late ∧ now < f.stale ∧ (∀ t, f.dark = some t → now < t) ∧
      f.loss = [] ∧ f.conceal = [] ∧ f.subst = false := by
  obtain ⟨time, content, damage⟩ := (judge_live_iff ..).1 h
  obtain ⟨f, rfl, late, stale, dark⟩ := (timePart_live_iff hcls now d).1 time
  obtain ⟨loss, conceal, subst, decimated, -⟩ := (damageWhy_eq_zero_iff decim f).1 damage
  have unfrozen : L.frozen = false := by simpa [hcls] using content
  exact ⟨unfrozen, decimated, f, rfl, late, stale, dark, loss, conceal, subst⟩

/-- Settles O42, from the components of a LIVE verdict and from the verdict that judging anew leaves (`rejudge_verdict`). -/
theorem liveOnlyOnEvidence : Obligations.LiveOnlyOnEvidence := by
  unfold Obligations.LiveOnlyOnEvidence
  refine ⟨?liveNeedsEvidence, ?rejudgedLive⟩
  case liveNeedsEvidence => exact fun now cls decim L d hcls h => judge_live hcls h
  case rejudgedLive =>
    rintro b c st k cause at_ time force mid p q hp hcls rfl ⟨hq, live⟩
    have judged : (judge at_ (layerPol (b.viewed st) p.layer).cls (b.layer p.layer) p.shownDecim p.shown).1 = 1 :=
      (rejudge_verdict st k cause at_ time force mid b p q hp hq).symm.trans live
    obtain ⟨unfrozen, decimated, f, shown, late, -, -, loss, conceal, subst⟩ := judge_live hcls judged
    exact ⟨unfrozen, decimated, f, shown, late, loss, conceal, subst⟩

end Sys2Proof.Machine
end

