-- ==== Sys2Proof/Proofs/BackOff.lean ====
section
/-!
O50: the back-off of a bring-up unit (R303). What each step of the bring-up leaves in the unit's own entry, its failure count with it.
-/

namespace Sys2Proof.Machine

/-! ### The entry of a unit -/

@[simp] theorem Blk.unit_putUnit (b : Blk) (u : Nat) (x : LaneUnit) : (b.putUnit u x).unit u = x := mgetD_mset_same ..

/-- A unit's entry is read from the table of units alone. -/
theorem Blk.unit_congr {b c : Blk} (h : b.units = c.units) (u : Nat) : b.unit u = c.unit u := by
  rw [Blk.unit, Blk.unit, h]

/-- A loop whose every step leaves the units leaves them. -/
theorem forEach_units {β : Type} {f : β → Blk → Blk} (h : ∀ x b, (f x b).units = b.units) (l : List β) (b : Blk) :
    (forEach l f b).units = b.units := forEach_keeps Blk.units h l b

/-- Recording an event leaves the units. -/
theorem raise_units (p : Page) (code sev d evt : Nat) (b : Blk) : (raise p code sev d evt b).units = b.units :=
  (congrArg Blk.units (rest_raise p code sev d evt b) :)

theorem unitEvent_units (u code sev d evt : Nat) (b : Blk) : (unitEvent u code sev d evt b).units = b.units := by
  unfold unitEvent
  split
  · exact raise_units ..
  · rfl

/-! ### Steps of the bring-up -/

/-- Entering a step changes the unit's entry alone among the units. -/
theorem unitStep_units (u st : Nat) (b : Blk) :
    (unitStep u st b).units =
      (b.putUnit u { b.unit u with state := st, since := b.now, probeAt := none, lostAt := none }).units := by
  unfold unitStep
  split <;> exact forEach_units (by intros; rfl) _ _

theorem unitStep_now (u st : Nat) (b : Blk) : (unitStep u st b).now = b.now := by
  unfold unitStep
  split <;> exact forEach_keeps Blk.now (by intros; rfl) _ _

theorem unit_unitStep (u st : Nat) (b : Blk) :
    (unitStep u st b).unit u = { b.unit u with state := st, since := b.now, probeAt := none, lostAt := none } := by
  rw [Blk.unit_congr (unitStep_units u st b), Blk.unit_putUnit]

/-- Entering DETECT begins the lanes and the Chaino port anew, which changes no unit, and enters the step. -/
theorem enterDetect_eq (u : Nat) (b : Blk) : ∃ c : Blk, c.units = b.units ∧ enterDetect u b = unitStep u stDetect c := by
  refine ⟨_, ?_, rfl⟩
  split <;> exact forEach_units (by intros; rfl) _ _

/-- Entering DETECT keeps the failure count. -/
theorem enterDetect_unit (u : Nat) (b : Blk) :
    ((enterDetect u b).unit u).state = stDetect ∧ ((enterDetect u b).unit u).fails = (b.unit u).fails := by
  obtain ⟨c, hunits, hstep⟩ := enterDetect_eq u b
  rw [hstep, unit_unitStep, ← Blk.unit_congr hunits u]
  exact ⟨rfl, rfl⟩

/-- A unit starts in DETECT with n at 0. -/
theorem unitStart_unit (u : Nat) (b : Blk) :
    ((unitStart u b).unit u).state = stDetect ∧ ((unitStart u b).unit u).fails = 0 := by
  have begun := enterDetect_unit u (b.putUnit u { lanes := unitLanes b u })
  rwa [Blk.unit_putUnit] at begun

/-- A unit that is stopped keeps nothing of its bring-up. -/
theorem unit_unitStop (u : Nat) (b : Blk) : (unitStop u b).unit u = {} := Blk.unit_putUnit ..

/-! ### Failure -/

/-- Limiting the exponent to 6 is limiting the back-off to 64 ms. -/
theorem min_64_two_pow_min_6 (k : Nat) : Nat.min 64 (2 ^ Nat.min 6 k) = Nat.min (2 ^ k) 64 := by
  have mono : Monotone (2 ^ · : Nat → Nat) := pow_right_mono₀ one_le_two
  calc min (2 ^ 6) (2 ^ min 6 k)
      _ = min (2 ^ 6) (min (2 ^ 6) (2 ^ k)) := by rw [mono.map_min]
      _ = min (2 ^ k) (2 ^ 6) := by rw [← min_assoc, min_self, min_comm]

/-- The entry of a unit that fails a step: BACKOFF, one failure more, and the end of the back-off. -/
theorem unit_unitFail (u step cause : Nat) (b : Blk) :
    (unitFail u step cause b).unit u =
      { b.unit u with
        state := stBackoff, since := b.now, probeAt := none, lostAt := none
        fails := (b.unit u).fails + 1
        till := b.now + Nat.min (2 ^ (b.unit u).fails) 64 * 1000000
        told := some (step, cause) } := by
  have entry : (unitFail u step cause b).units = ((unitStep u stBackoff b).putUnit u { (unitStep u stBackoff b).unit u with
      fails := (b.unit u).fails + 1
      till := b.now + Nat.min (2 ^ (b.unit u).fails) 64 * 1000000
      told := some (step, cause) }).units := by
    unfold unitFail
    dsimp only
    rw [Nat.add_sub_cancel, min_64_two_pow_min_6, unitStep_now]
    split
    · exact forEach_units (by intros; rfl) _ _
    · rw [unitEvent_units]
      exact forEach_units (by intros; rfl) _ _
  rw [Blk.unit_congr entry, Blk.unit_putUnit, unit_unitStep]

/-! ### The end of the back-off and of the count -/

section
variable {s : State} {dt u : Nat}

/-- BACKOFF_EXPIRY before the back-off's end lets the time pass. -/
theorem exec_backoffExpiry_early (h : (s.blk.tick dt).now < ((s.blk.tick dt).unit u).till) :
    exec (.backoffExpiry dt u) s = .next (s.withBlk (s.blk.tick dt)) := by
  change execBackoffExpiry dt u s = _
  have notDue : ¬ (((s.blk.tick dt).unit u).state = stBackoff ∧ ((s.blk.tick dt).unit u).till ≤ (s.blk.tick dt).now) :=
    fun due => Nat.not_le.mpr h due.2
  simp only [execBackoffExpiry, eff_next, if_neg notDue, set_blk]

/-- BACKOFF_EXPIRY from the back-off's end on enters DETECT; a head's link state is a register beside. -/
theorem exec_backoffExpiry_due (hstate : ((s.blk.tick dt).unit u).state = stBackoff)
    (h : ((s.blk.tick dt).unit u).till ≤ (s.blk.tick dt).now) :
    ∃ c, exec (.backoffExpiry dt u) s = .next (s.withBlk c) ∧ c.units = (enterDetect u (s.blk.tick dt)).units := by
  refine ⟨_, rfl, ?_⟩
  dsimp only
  rw [if_pos ⟨hstate, h⟩]
  split <;> rfl

/-- ACTIVE for 1 s clears the count and nothing else. -/
theorem exec_activeHold (h : ((s.blk.tick dt).unit u).state = stActive ∧
      ((s.blk.tick dt).unit u).since + 1000000000 ≤ (s.blk.tick dt).now) :
    exec (.activeHold dt u) s = .next (s.withBlk ((s.blk.tick dt).putUnit u { (s.blk.tick dt).unit u with fails := 0 })) := by
  change execActiveHold dt u s = _
  simp only [execActiveHold, eff_next, if_pos h, set_blk]

end

/-- A soft reset of a LANE page of a unit that is then enabled starts that unit. -/
theorem laneSoftReset_enabled {l u : Nat} {b c : Blk} (hunit : unitOfLane b l = some u)
    (hc : c = (leaveActive u 6 b).putLane l
      { saved := ((leaveActive u 6 b).lane l).saved, based := ((leaveActive u 6 b).lane l).based })
    (hen : unitEnabled c u = true) : laneSoftReset l b = unitStart u c := by
  subst hc
  simp [laneSoftReset, hunit, hen]

/-- Settles O50, from what each step of the bring-up leaves in the entry of its unit. -/
theorem backOffDoubles : Obligations.BackOffDoubles := by
  unfold Obligations.BackOffDoubles
  refine ⟨?failWaits, ?waitEnds, ?activeClears, ?restartClears, ?softResetClears⟩
  case failWaits =>
    rintro u st c n b rfl
    rw [unit_unitFail]
    exact ⟨rfl, rfl, rfl⟩
  case waitEnds =>
    rintro s dt u b rfl hstate
    refine ⟨exec_backoffExpiry_early, fun hdue => ?_⟩
    obtain ⟨c, hexec, hunits⟩ := exec_backoffExpiry_due hstate hdue
    refine ⟨s.withBlk c, hexec, ?_⟩
    change (c.unit u).state = stDetect ∧ (c.unit u).fails = _
    rw [Blk.unit_congr hunits]
    exact enterDetect_unit u _
  case activeClears =>
    rintro s dt u b rfl hheld
    exact exec_activeHold hheld
  case restartClears =>
    intro u b c
    obtain ⟨hstate, hfails⟩ := unitStart_unit u c
    exact ⟨congrArg LaneUnit.fails (unit_unitStop u b), hfails, hstate⟩
  case softResetClears =>
    intro l u b c hunit hc hen
    obtain ⟨hstate, hfails⟩ := unitStart_unit u c
    rw [laneSoftReset_enabled hunit hc hen]
    exact ⟨hfails, hstate⟩

end Sys2Proof.Machine
end

