-- ==== Sys2Proof/Proofs/SecondOpinion.lean ====
section
/-!
O41: the second opinion (R352, R353). The table turned round for the partner, what a decision comes to for each outcome, and that what
it brings leaves the outcome noted in PAIR_SO_LAST.
-/

namespace Sys2Proof.Machine

/-! ### The table of outcomes -/

/-- The table names four outcomes. -/
theorem opinionOutcome_cases (o : Nat × Nat × Nat × Nat) :
    opinionOutcome o = 1 ∨ opinionOutcome o = 2 ∨ opinionOutcome o = 3 ∨ opinionOutcome o = 4 := by
  unfold opinionOutcome
  split_ifs <;> simp

/-- With the two modules' signatures exchanged, X's path and Y's path are exchanged among the outcomes and nothing else. -/
theorem opinionOutcome_exchanged (xn xs yn ys : Nat) :
    opinionOutcome (yn, ys, xn, xs) = Equiv.swap 2 3 (opinionOutcome (xn, xs, yn, ys)) := by
  have kept {n : Nat} (h : n = 1 ∨ n = 4) : Equiv.swap 2 3 n = n := Equiv.swap_apply_of_ne_of_ne (by omega) (by omega)
  by_cases same : xn = yn
  · simp [opinionOutcome, same, kept]
  have differ : ¬ yn = xn := Ne.symm same
  by_cases second : xs = ys
  · subst second
    by_cases partner : xs = yn
    · simp [opinionOutcome, partner, same, differ]
    · by_cases own : xs = xn <;> simp [opinionOutcome, own, partner, same, differ, kept]
  · simp [opinionOutcome, same, differ, second, Ne.symm second, kept]

/-- A compared tile of the dispute gives its four signatures. -/
theorem opinionOf_disputed {b : Blk} {st t e xs ys : Nat} {x : OwnSet} {y : Rehearsal} (hd : b.pr.dispute = some (st, t, e))
    (hx : x.set.so = some (t, xs)) (hy : y.so = some (t, ys)) (hc : tileCompared x y t = true) :
    opinionOf b st x y = some (x.set.sigs.getD t 0, xs, y.sigs.getD t 0, ys) := by
  simp [opinionOf, hd, hx, hy, hc]

/-! ### What a decision comes to -/

/-- A decision that does not find this module wrong is noted, and no more. -/
theorem decideOpinion_of_ne_two {out : Nat} (h : out ≠ 2) (st t : Nat) (b : Blk) :
    decideOpinion st t out b = opinionNoted st t out (if out = 3 then sevCritical else sevNotice) b := by
  simp only [decideOpinion, h, false_or, if_false]
  rfl

/-- A decision that finds this module wrong is noted, and then acts by the module's role. -/
theorem decideOpinion_two {st t : Nat} {b c : Blk} (hc : c = opinionNoted st t 2 sevCritical b) :
    decideOpinion st t 2 b =
      if role c = roUnderstudy then refreshReady (c.wr F.PAIR_STAT_DR_FAULT 0 1)
      else if role c = roActive ∧ c.on F.PAIR_CFG_SO_ACTION 0 then beginPlanned 6 c
      else c := by
  subst hc
  rfl

/-- PAIR_SO_LAST holds the outcome as it is noted. -/
theorem rd_outcome_opinionNoted (st t out sev : Nat) (b : Blk) :
    (opinionNoted st t out sev b).rd F.PAIR_SO_LAST_OUTCOME 0 = out % 8 := by
  unfold opinionNoted pairEvent
  rw [rd_raise _ _ _ _ _ _ _ _ _ (by decide), Blk.rd_wr_ne _ _ _ _ _ _ _ _ (by decide), Blk.rd_wr_ne _ _ _ _ _ _ _ _ (by decide),
    Blk.rd_wr_same]
  rfl

/-! ### READY and planned takeovers -/

/-- A module whose own path was found wrong is not ready (R348). -/
theorem readyNow_of_drFault {b : Blk} (h : b.on F.PAIR_STAT_DR_FAULT 0 = true) : readyNow b = false := by
  simp [readyNow, h]

/-- Such a module clears READY and keeps DR_FAULT. -/
theorem rd_refreshReady_of_drFault {b : Blk} (h : b.rd F.PAIR_STAT_DR_FAULT 0 = 1) :
    (refreshReady b).rd F.PAIR_STAT_READY 0 = 0 ∧ (refreshReady b).rd F.PAIR_STAT_DR_FAULT 0 = 1 := by
  rw [refreshReady, readyNow_of_drFault (by rw [Blk.on, h]; rfl)]
  exact ⟨Blk.rd_wr_same .., (Blk.rd_wr_ne _ _ _ _ _ _ _ _ (by decide)).trans h⟩

/-- The registers that a planned takeover writes as it begins or is refused (R354), beside those of its event. -/
def plannedKeys : List Nat := [F.PAIR_TAKEOVER_CAUSE.key 0 0, F.PAIR_TAKEOVER_OUTCOME.key 0 0, F.PAIR_STAT_RELEASE.key 0 0]

/-- A planned takeover that begins, is refused or does not apply changes no register but its own and those of its event. -/
theorem holds_beginPlanned (cause : Nat) (b : Blk) : b.holds (beginPlanned cause b) [pairPage] plannedKeys := by
  have same : b.holds b [pairPage] plannedKeys := Blk.holds_refl b _ _
  unfold beginPlanned
  dsimp only
  split
  · exact same
  · split
    · exact holds_raise pairPage (List.mem_singleton_self _) _ _ _ _
        (Blk.holds_wr _ _ _ _ (by decide) (Blk.holds_wr _ _ _ _ (by decide) same))
    · exact Blk.holds_wr _ _ _ _ (by decide) (Blk.holds_of_regs rfl same)

/-! ### The outcome noted -/

/-- Every decision is noted in PAIR_SO_LAST and stays there through what it brings. -/
theorem rd_outcome_decideOpinion (st t out : Nat) (b : Blk) :
    (decideOpinion st t out b).rd F.PAIR_SO_LAST_OUTCOME 0 = out % 8 := by
  by_cases wrong : out = 2
  · subst wrong
    rw [← rd_outcome_opinionNoted st t 2 sevCritical b, decideOpinion_two rfl]
    split
    · exact (Blk.rd_wr_ne _ _ _ _ _ _ _ _ (by decide)).trans (Blk.rd_wr_ne _ _ _ _ _ _ _ _ (by decide))
    · split
      · exact Blk.holds_rd (holds_beginPlanned 6 _) _ _ _ (by decide) (by decide)
      · rfl
  · rw [decideOpinion_of_ne_two wrong, rd_outcome_opinionNoted]

/-! ### The command -/

/-- SECOND_OPINION with a dispute and its four signatures decides by the table. -/
theorem exec_secondOpinion {s : State} {dt st t e : Nat} {o : Nat × Nat × Nat × Nat}
    (hd : (s.blk.tick dt).pr.dispute = some (st, t, e)) (ho : (s.blk.tick dt).pr.opinion = some o) :
    exec (.secondOpinion dt) s = .next (s.withBlk (decideOpinion st t (opinionOutcome o) (s.blk.tick dt))) := by
  change execSecondOpinion dt s = _
  simp only [execSecondOpinion, eff_next, secondOpinion, hd, ho, set_blk]

/-- The outcome that SECOND_OPINION leaves in PAIR_SO_LAST is that of the table. -/
theorem rd_outcome_secondOpinion {s u : State} {dt st t e : Nat} {o : Nat × Nat × Nat × Nat}
    (hd : (s.blk.tick dt).pr.dispute = some (st, t, e)) (ho : (s.blk.tick dt).pr.opinion = some o)
    (hu : exec (.secondOpinion dt) s = .next u) : u.blk.rd F.PAIR_SO_LAST_OUTCOME 0 = opinionOutcome o := by
  obtain rfl := Host.Outcome.next.inj ((exec_secondOpinion hd ho).symm.trans hu)
  refine (rd_outcome_decideOpinion ..).trans (Nat.mod_eq_of_lt ?_)
  have := opinionOutcome_cases o
  omega

/-- Settles O41, from the exchanged table and from what a decision comes to for each outcome. -/
theorem bothModulesReachTheSameOpinion : Obligations.BothModulesReachTheSameOpinion := by
  unfold Obligations.BothModulesReachTheSameOpinion
  refine ⟨?opinionTable, ?opinionSets, ?opinionsAgree, ?opinionBrings⟩
  case opinionTable =>
    rintro s dt xn xs yn ys st t e b rfl hd ho
    exact exec_secondOpinion hd ho
  case opinionSets =>
    rintro b st t e x y xs ys hd ⟨hx, hy⟩ hc
    exact opinionOf_disputed hd hx hy hc
  case opinionsAgree =>
    rintro x y u v dt du xn xs yn ys st t e f ⟨hdx, hdy⟩ ⟨hox, hoy⟩ ⟨hu, hv⟩
    rw [rd_outcome_secondOpinion hdx hox hu, rd_outcome_secondOpinion hdy hoy hv, opinionOutcome_exchanged xn xs yn ys]
    rcases opinionOutcome_cases (xn, xs, yn, ys) with h | h | h | h <;> rw [h] <;> decide
  case opinionBrings =>
    intro st t b c hc
    refine ⟨fun understudy => ?_, fun active action => ?_, ?_, ?_, ?_⟩
    · rw [decideOpinion_two hc, if_pos understudy]
      exact rd_refreshReady_of_drFault (Blk.rd_wr_same ..)
    · rw [decideOpinion_two hc, if_neg (by rw [active]; decide), if_pos ⟨active, action⟩]
    · exact decideOpinion_of_ne_two (by decide) ..
    · exact decideOpinion_of_ne_two (by decide) ..
    · exact decideOpinion_of_ne_two (by decide) ..

end Sys2Proof.Machine
end

