-- ==== Sys2Proof/Proofs/NamedCrcs.lean ====
section
/-!
O44: the named CRCs of the check-value units (R402). A unit's settings are the parameters of the check value it computes, and the
parameters of each named CRC give its check value over the bytes "123456789".
-/

namespace Sys2Proof.Machine

/-! ### A unit computes the CRC that its settings name -/

/-- WIDTH `width` stands for `8 * 2 ^ width` bits, and POLY, INIT, XOROUT, REFIN and REFOUT are the parameters of R397 as they stand; FOLD
has its effect in the input bytes alone. -/
theorem crcResult_of_settings {b : Blk} {m : FrameStore} {u : Nat} {r : CrcRun} {width poly init xorout refin refout fold : Nat}
    {bytes : List Nat}
    (parameters : b.rd F.CRC_CFG_WIDTH u = width ∧ b.rd F.CRC_POLY_VALUE u = poly ∧ b.rd F.CRC_INIT_VALUE u = init ∧
      b.rd F.CRC_XOROUT_VALUE u = xorout)
    (orders : b.rd F.CRC_CFG_REFIN u = refin ∧ b.rd F.CRC_CFG_REFOUT u = refout ∧ b.rd F.CRC_CFG_FOLD u = fold)
    (input : crcInput b m u r = bytes) :
    crcResult b m u r = crc (8 * 2 ^ width) poly init (refin != 0) (refout != 0) xorout bytes := by
  obtain ⟨hwidth, hpoly, hinit, hxorout⟩ := parameters
  obtain ⟨hin, hout, -⟩ := orders
  rw [crcResult, crcWidth, Blk.on, Blk.on, hwidth, hpoly, hinit, hxorout, hin, hout, input]

/-! ### The check values -/

/-- The nine ASCII bytes "123456789". -/
def checkBytes : List Nat := [0x31, 0x32, 0x33, 0x34, 0x35, 0x36, 0x37, 0x38, 0x39]

/-- CRC-64 of ECMA-182, reflected (R402), which only a check-value unit computes. -/
def crc64 : List Nat → Nat := crc 64 0x42F0E1EBA9EA3693 0xFFFFFFFFFFFFFFFF true true 0xFFFFFFFFFFFFFFFF

theorem crc32_checkBytes : crc32 checkBytes = 0xCBF43926 := by decide +kernel

theorem crc32c_checkBytes : crc32c checkBytes = 0xE3069283 := by decide +kernel

theorem crc16_checkBytes : crc16 checkBytes = 0x29B1 := by decide +kernel

theorem crc64_checkBytes : crc64 checkBytes = 0x995DC9BBDF1939FA := by decide +kernel

theorem crc8_checkBytes : crc8 checkBytes = 0xF4 := by decide +kernel

/-- Settles O44: the settings of each row of the table are the parameters of its named CRC, whose check value is computed. -/
theorem namedCheckValues : Obligations.NamedCheckValues := by
  unfold Obligations.NamedCheckValues
  refine ⟨?checkCrc32, ?checkCrc32c, ?checkCrc16, ?checkCrc64, ?checkCrc8⟩
  case checkCrc32 => exact fun _ _ _ _ parameters orders input =>
    (crcResult_of_settings parameters orders input).trans crc32_checkBytes
  case checkCrc32c => exact fun _ _ _ _ parameters orders input =>
    (crcResult_of_settings parameters orders input).trans crc32c_checkBytes
  case checkCrc16 => exact fun _ _ _ _ parameters orders input =>
    (crcResult_of_settings parameters orders input).trans crc16_checkBytes
  case checkCrc64 => exact fun _ _ _ _ parameters orders input =>
    (crcResult_of_settings parameters orders input).trans crc64_checkBytes
  case checkCrc8 => exact fun _ _ _ _ parameters orders input =>
    (crcResult_of_settings parameters orders input).trans crc8_checkBytes

end Sys2Proof.Machine
end

