-- ==== Sys2Proof/Proofs/Steps.lean ====
section
/-!
O1 to O6: every command ends in a next state, what it may change of the frame store, and what a step makes of that; the state after reset.
-/

namespace Sys2Proof.Machine

/-! ### Commands and the frame store -/

/-- A command that is not named as a writer of the frame store ends in a next state with another block alone. -/
theorem exec_of_not_writesStore {c : Instr} (s : State) (hw : writesStore c = false) : ∃ b, exec c s = .next (s.withBlk b) := by
  cases c <;> simp only [writesStore, Bool.true_eq_false] at hw <;> exact ⟨_, rfl⟩

/-- A command named as a writer of the frame store ends in a next state whose frame store is canonical if it was before. -/
theorem exec_of_writesStore {c : Instr} {s : State} (hw : writesStore c = true) (h : s.canonical) :
    ∃ b m, exec c s = .next (s.withBoth b m) ∧ m.wf = true := by
  cases c with
  | spWrite _ addr words check clean => exact ⟨_, _, rfl, wf_safetyWrite h addr words check clean⟩
  | spRead _ addr n ready => exact ⟨_, _, rfl, wf_safetyRead h addr n ready⟩
  | curtainUp _ st => exact ⟨_, _, rfl, wf_curtainUp h st⟩
  | rtpPacketRx _ c p => exact ⟨_, _, rfl, wf_rtpPacketRx h c p⟩
  | pathDown _ c k => exact ⟨_, _, rfl, wf_pathDown h c k⟩
  | skewTimeout _ c => exact ⟨_, _, rfl, wf_completeWhere h c _⟩
  | assemblyTimeout _ c => exact ⟨_, _, rfl, wf_completeWhere h c _⟩
  | signatureArrayDone _ st => exact ⟨_, _, rfl, wf_signatureArrayDone h st⟩
  | xsdFrameDone _ x cs => exact ⟨_, _, rfl, wf_xsdFrameDone h x cs⟩
  | vdcAccessUnit _ x au => exact ⟨_, _, rfl, wf_vdcAccessUnit h x au⟩
  | vdcPictureOutput _ x => exact ⟨_, _, rfl, wf_vdcPictureOutput h x⟩
  | vdcSlotFree _ x => exact ⟨_, _, rfl, wf_vdcSlotFree h x⟩
  | vecRowCoded _ x row r => exact ⟨_, _, rfl, wf_vecRowCoded h x row r⟩
  | vecSliceOut _ x sets nals => exact ⟨_, _, rfl, wf_vecSliceOut h x sets nals⟩
  | epochBoundary _ => exact ⟨_, _, rfl, wf_epochBoundaryCmd h⟩
  | epochFrameRx _ f => exact ⟨_, _, rfl, wf_epochFrameRx h f⟩
  | storeReleased _ => exact ⟨_, _, rfl, wf_storeReleased h⟩
  | relayFrameRx _ port f bad => exact ⟨_, _, rfl, wf_relayFrameRx h port f bad⟩
  | memAccess _ mid a n write misroute l flips skew beaten =>
    exact ⟨_, _, rfl, wf_memRequest h mid a n write misroute l flips skew beaten⟩
  | scrubRead _ flips skew beaten => exact ⟨_, _, rfl, wf_scrubRead h flips skew beaten⟩
  | dauRead _ frameStore addr => exact ⟨_, _, rfl, wf_ite (wf_storeRead h ..) h⟩
  | dauWrite _ frameStore addr data => exact ⟨_, _, rfl, wf_ite (wf_memAccess h ..) h⟩
  | operatingState _ => exact ⟨_, _, rfl, wf_choose wf_empty h⟩
  | startupAbort _ => exact ⟨_, _, rfl, wf_choose wf_empty h⟩
  | powerFault _ code => exact ⟨_, _, rfl, wf_ite wf_empty h⟩
  | railLoss _ uv => exact ⟨_, _, rfl, wf_choose wf_empty h⟩
  | auxRailLoss _ => exact ⟨_, _, rfl, wf_choose wf_empty h⟩
  | resetNAssert _ => exact ⟨_, _, rfl, wf_choose wf_empty h⟩
  | moduleReset _ => exact ⟨_, _, rfl, by dsimp only; split <;> [exact wf_empty; exact h]⟩
  | showStart _ => exact ⟨_, _, rfl, wf_showStart h⟩
  | showRetile _ => exact ⟨_, _, rfl, wf_showRetile h⟩
  | ejectPowerOff _ => exact ⟨_, _, rfl, wf_ite wf_empty h⟩
  | ejectResetDue _ => exact ⟨_, _, rfl, by dsimp only; split <;> [exact wf_empty; exact h]⟩
  | shutdownPowerOff _ => exact ⟨_, _, rfl, wf_ite wf_empty h⟩
  | _ => cases hw

/-- Every command ends in a next state, which differs from the present one in the block and the frame store alone. -/
theorem exec_next (c : Instr) (s : State) : ∃ b m, exec c s = .next (s.withBoth b m) := by
  cases c <;> exact ⟨_, _, rfl⟩

/-! ### A step -/

/-- With a command at the front of the queue, a step runs it on the state with the rest of the queue. -/
theorem step_of_pending {c : Instr} {s : State} {rest : List Instr} (h : s.pending = c :: rest) :
    step s = exec c { s with pending := rest } := by
  rw [step, h]

/-- With no command waiting a step answers the state itself. -/
theorem step_of_idle {s : State} (h : s.pending = []) : step s = .next s := by
  rw [step, h]

theorem reset_canonical : State.reset.canonical := rfl

/-- A command keeps the frame store canonical, whether it writes it or not. -/
theorem exec_keeps_canonical {c : Instr} {s t : State} (hs : s.canonical) (e : exec c s = .next t) : t.canonical := by
  cases hw : writesStore c with
  | true =>
    obtain ⟨b, m, hb, hm⟩ := exec_of_writesStore hw hs
    cases hb.symm.trans e
    exact hm
  | false =>
    obtain ⟨b, hb⟩ := exec_of_not_writesStore s hw
    cases hb.symm.trans e
    exact hs

/-- Settles O5: an idle step keeps the state, and a command keeps the canonical form. -/
theorem everyStepKeepsTheStoreCanonical : Obligations.EveryStepKeepsTheStoreCanonical := by
  unfold Obligations.EveryStepKeepsTheStoreCanonical
  refine ⟨?stepKeepsCanonical, reset_canonical⟩
  case stepKeepsCanonical =>
    intro s t hs e
    cases hq : s.pending with
    | nil =>
      cases (step_of_idle hq).symm.trans e
      exact hs
    | cons c rest => exact exec_keeps_canonical (s := { s with pending := rest }) hs ((step_of_pending hq).symm.trans e)

/-- Settles O6, from the commands that end in a next state with another block alone. -/
theorem onlyWritersChangeTheFrameStore : Obligations.OnlyWritersChangeTheFrameStore := by
  unfold Obligations.OnlyWritersChangeTheFrameStore
  intro c s t a hw e
  obtain ⟨b, hb⟩ := exec_of_not_writesStore s hw
  cases hb.symm.trans e
  exact ⟨rfl, rfl⟩

/-- Settles O1, from the two cases of the queue. -/
theorem stepRunsTheFrontCommand : Obligations.StepRunsTheFrontCommand := by
  unfold Obligations.StepRunsTheFrontCommand
  exact ⟨fun _ _ _ h => step_of_pending h, fun _ h => step_of_idle h⟩

/-- Settles O3: a command leaves the queue, and a step has taken its first command from it. -/
theorem everyCommandCompletes : Obligations.EveryCommandCompletes := by
  unfold Obligations.EveryCommandCompletes
  have completes : ∀ c s, Completes c s := fun c s =>
    let ⟨b, m, h⟩ := exec_next c s
    ⟨s.withBoth b m, h, rfl⟩
  refine ⟨completes, ?queueBehind⟩
  case queueBehind =>
    intro c s rest hq
    rw [step_of_pending hq]
    exact completes c { s with pending := rest }

/-- Settles O2: the opcode table has no row with bits, so no word finds a command in it. -/
theorem wordsSpellNoCommand : Obligations.WordsSpellNoCommand := by
  unfold Obligations.WordsSpellNoCommand
  intro n w s
  exact ⟨rfl, rfl⟩

/-- Settles O4: no register field, no byte and no record is listed after reset. -/
theorem resetLeaves : Obligations.ResetLeaves := by
  unfold Obligations.ResetLeaves
  refine ⟨?resetRegisters, ?resetStore, ?resetRecords, ?resetValues⟩
  case resetRegisters => exact fun _ _ _ => rfl
  case resetStore => exact fun _ => ⟨rfl, rfl, reset_canonical, rfl⟩
  case resetRecords => exact ⟨rfl, rfl, rfl, rfl, rfl, rfl⟩
  case resetValues => exact ⟨by decide +kernel, rfl, rfl, rfl⟩

end Sys2Proof.Machine
end

