-- ==== Sys2Proof/Proofs/CheckCode.lean ====
section
/-!
O57: the check code of the frame store (R385). The syndrome is linear in the bits that come wrong and in the address bits of the place
read, so it is the sum of the columns of those bits; the columns of one bit have odd weight, those of one address bit even weight, and no
two of them are equal.
-/

namespace Sys2Proof.Machine

/-! ### Sums of columns are linear -/

theorem bit_xor (v w k : Nat) : bit (v ^^^ w) k = (bit v k ^^ bit w k) := by
  simp only [bit_eq_testBit, Nat.testBit_xor]

theorem bit_two_pow (j k : Nat) : bit (2 ^ j) k = decide (j = k) := by
  rw [bit_eq_testBit, Nat.testBit_two_pow]

theorem colSum_succ (col : Nat → Nat) (n v : Nat) :
    colSum col (n + 1) v = if bit v n then colSum col n v ^^^ col n else colSum col n v := by
  simp only [colSum, List.range_succ, List.foldl_append, List.foldl_cons, List.foldl_nil]
  rfl

theorem colSum_xor (col : Nat → Nat) (n v w : Nat) : colSum col n (v ^^^ w) = colSum col n v ^^^ colSum col n w := by
  induction n with
  | zero => exact (Nat.xor_self 0).symm
  | succ n ih =>
    simp only [colSum_succ, bit_xor, ih]
    cases bit v n <;> cases bit w n <;>
      simp [Nat.xor_assoc, Nat.xor_comm, Nat.xor_left_comm]

/-- The sum of the columns of a value with one bit set is that bit's column, if the sum reaches it. -/
theorem colSum_two_pow (col : Nat → Nat) (n k : Nat) : colSum col n (2 ^ k) = if k < n then col k else 0 := by
  induction n with
  | zero => rfl
  | succ n ih =>
    rw [colSum_succ, bit_two_pow, ih]
    by_cases hk : k = n
    · simp [hk]
    · simp only [hk, decide_false, Bool.false_eq_true, if_false, show k < n + 1 ↔ k < n by omega]

theorem colSum_zero (col : Nat → Nat) (n : Nat) : colSum col n 0 = 0 := by
  simpa using colSum_xor col n 0 0

/-- Two different bits set are the exclusive or of the two. -/
theorem two_pow_add_two_pow {j k : Nat} (h : j < k) : 2 ^ j + 2 ^ k = 2 ^ j ^^^ 2 ^ k := by
  have disjoint : 2 ^ j + 2 ^ k = 2 ^ k ||| 2 ^ j := by
    have := Nat.two_pow_add_eq_or_of_lt (Nat.pow_lt_pow_right (by decide : 1 < 2) h) 1
    rw [Nat.mul_one] at this
    rw [Nat.add_comm, this]
  rw [disjoint]
  refine Nat.eq_of_testBit_eq fun i => ?_
  simp only [Nat.testBit_or, Nat.testBit_xor, Nat.testBit_two_pow]
  by_cases hk : k = i
  · have hj : ¬ j = i := by omega
    simp [hj, hk]
  · simp [hk]

/-! ### The syndrome of a read -/

/-- The sum of the columns of the wrong bits: of data bits their columns, of check bits the bits themselves. -/
def flipSum (flips : Nat) : Nat := (flips / 2 ^ 64 % 256) ^^^ colSum dataCol 64 (flips % 2 ^ 64)

/-- The column of each of the 72 bits. -/
def errCol (k : Nat) : Nat := if k < 64 then dataCol k else 2 ^ (k - 64)

theorem flipSum_xor (v w : Nat) : flipSum (v ^^^ w) = flipSum v ^^^ flipSum w := by
  have high : (v ^^^ w) / 2 ^ 64 % 256 = (v / 2 ^ 64 % 256) ^^^ (w / 2 ^ 64 % 256) := by
    rw [Nat.xor_div_two_pow, show 256 = 2 ^ 8 from rfl, Nat.xor_mod_two_pow]
  rw [flipSum, flipSum, flipSum, high, Nat.xor_mod_two_pow, colSum_xor]
  simp only [Nat.xor_assoc, Nat.xor_left_comm]

theorem flipSum_two_pow {k : Nat} (h : k < 72) : flipSum (2 ^ k) = errCol k := by
  unfold flipSum errCol
  by_cases hk : k < 64
  · have low : (2 : Nat) ^ k < 2 ^ 64 := Nat.pow_lt_pow_right (by decide) hk
    rw [if_pos hk, Nat.mod_eq_of_lt low, Nat.div_eq_of_lt low, colSum_two_pow, if_pos hk]
    simp
  · have high : (2 : Nat) ^ k = 2 ^ 64 * 2 ^ (k - 64) := by rw [← Nat.pow_add]; congr 1; omega
    have small : (2 : Nat) ^ (k - 64) < 256 := Nat.pow_lt_pow_right (a := 2) (m := k - 64) (n := 8) (by decide) (by omega)
    rw [if_neg hk, high, Nat.mul_mod_right, Nat.mul_div_cancel_left _ (by decide), Nat.mod_eq_of_lt small, colSum_zero]
    simp

/-- What a read finds depends only on the wrong bits and on the address bits in which the place read differs (R385). -/
theorem syndrome_read (stored index flips skew : Nat) :
    syndrome (stored ^^^ (flips % 2 ^ 64)) (checkBits stored (index ^^^ skew) ^^^ (flips / 2 ^ 64 % 256)) index =
      flipSum flips ^^^ colSum addrCol 37 skew := by
  show (checkBits stored (index ^^^ skew) ^^^ _) ^^^ (colSum dataCol 64 _ ^^^ colSum addrCol 37 index) = _
  have h : checkBits stored (index ^^^ skew) = colSum dataCol 64 stored ^^^ colSum addrCol 37 (index ^^^ skew) := rfl
  rw [h, colSum_xor, colSum_xor, flipSum]
  generalize colSum dataCol 64 stored = d
  generalize colSum addrCol 37 index = a
  calc (d ^^^ (a ^^^ colSum addrCol 37 skew)) ^^^ flips / 2 ^ 64 % 256 ^^^ (d ^^^ colSum dataCol 64 (flips % 2 ^ 64) ^^^ a)
      = (d ^^^ d) ^^^ (a ^^^ a) ^^^ (flips / 2 ^ 64 % 256 ^^^ colSum dataCol 64 (flips % 2 ^ 64) ^^^ colSum addrCol 37 skew) := by
        ac_rfl
    _ = _ := by simp

/-- A read, by its syndrome. -/
theorem readCoded_eq (m : FrameStore) (i flips skew : Nat) :
    readCoded m i flips skew =
      (if ones (flipSum flips ^^^ colSum addrCol 37 skew) % 2 = 1
        then corrected64 (m.leRead (8 * (i ^^^ skew)) 8 ^^^ (flips % 2 ^ 64)) (flipSum flips ^^^ colSum addrCol 37 skew)
        else m.leRead (8 * (i ^^^ skew)) 8 ^^^ (flips % 2 ^ 64),
      syndromeErr (flipSum flips ^^^ colSum addrCol 37 skew)) := by
  rw [← syndrome_read (m.leRead (8 * (i ^^^ skew)) 8) i flips skew]
  rfl

/-! ### Weights -/

/-- The weights of two bytes and of their sum agree in parity. -/
theorem ones_xor_mod_two (v w : Nat) : ones (v ^^^ w) % 2 = (ones v + ones w) % 2 := by
  unfold ones
  induction List.range 8 with
  | nil => rfl
  | cons k t ih =>
    simp only [bit_xor] at ih
    simp only [List.filter_cons, bit_xor]
    cases bit v k <;> cases bit w k <;> simp <;> omega

/-- A syndrome of even weight other than 0 says that the word is uncorrectable. -/
theorem syndromeErr_even {s : Nat} (hs : s ≠ 0) (he : ones s % 2 = 0) : syndromeErr s = 2 := by
  rw [syndromeErr, if_neg hs, if_neg (by omega)]

/-- A syndrome of odd weight says that one bit is wrong. -/
theorem syndromeErr_odd {s : Nat} (ho : ones s % 2 = 1) : syndromeErr s = 1 := by
  have hs : s ≠ 0 := by
    rintro rfl
    exact absurd ho (by decide)
  rw [syndromeErr, if_neg hs, if_pos ho]

theorem xor_ne_zero {v w : Nat} (h : v ≠ w) : v ^^^ w ≠ 0 := fun e => h (Nat.xor_eq_zero_iff.1 e)

/-- Two different columns of one parity sum to an uncorrectable syndrome. -/
theorem syndromeErr_xor {v w : Nat} (h : v ≠ w) (hp : ones v % 2 = ones w % 2) : syndromeErr (v ^^^ w) = 2 :=
  syndromeErr_even (xor_ne_zero h) (by rw [ones_xor_mod_two]; omega)

/-! ### The columns -/

/-- The columns of the 72 bits, in their order. -/
def errCols : List Nat := (List.range 72).map errCol

/-- The columns of the 37 address bits, in their order. -/
def addrCols : List Nat := (List.range 37).map addrCol

theorem errCols_nodup : errCols.Nodup := by decide +kernel

theorem errCols_odd : ∀ v ∈ errCols, ones v % 2 = 1 := by decide +kernel

theorem addrCols_nodup : addrCols.Nodup := by decide +kernel

theorem addrCols_even : ∀ v ∈ addrCols, v ≠ 0 ∧ ones v % 2 = 0 := by decide +kernel

theorem errCol_odd {k : Nat} (h : k < 72) : ones (errCol k) % 2 = 1 :=
  errCols_odd _ (List.mem_map_of_mem (List.mem_range.2 h))

theorem addrCol_even {k : Nat} (h : k < 37) : addrCol k ≠ 0 ∧ ones (addrCol k) % 2 = 0 :=
  addrCols_even _ (List.mem_map_of_mem (List.mem_range.2 h))

theorem errCol_inj {j k : Nat} (hj : j < 72) (hk : k < 72) (h : errCol j = errCol k) : j = k :=
  List.inj_on_of_nodup_map errCols_nodup (List.mem_range.2 hj) (List.mem_range.2 hk) h

theorem addrCol_inj {j k : Nat} (hj : j < 37) (hk : k < 37) (h : addrCol j = addrCol k) : j = k :=
  List.inj_on_of_nodup_map addrCols_nodup (List.mem_range.2 hj) (List.mem_range.2 hk) h

/-- The data bit with a column is found by it. -/
theorem find_dataCol {k : Nat} (h : k < 64) : (List.range 64).find? (fun j => dataCol j == errCol k) = some k := by
  cases hf : (List.range 64).find? (fun j => dataCol j == errCol k) with
  | none =>
    have := List.find?_eq_none.1 hf k (List.mem_range.2 h)
    simp [errCol, h] at this
  | some j =>
    have hj : j < 64 := List.mem_range.1 (List.mem_of_find?_eq_some hf)
    have hc : dataCol j = errCol k := by simpa using List.find?_some hf
    rw [errCol_inj (j := j) (k := k) (by omega) (by omega) (by rw [← hc, errCol, if_pos hj])]

/-- No data bit has the column of a check bit. -/
theorem find_checkCol {k : Nat} (h : 64 ≤ k) (hk : k < 72) : (List.range 64).find? (fun j => dataCol j == errCol k) = none := by
  refine List.find?_eq_none.2 fun j hj hc => ?_
  have hj := List.mem_range.1 hj
  have := errCol_inj (j := j) (k := k) (by omega) hk (by rw [errCol, if_pos hj]; exact beq_iff_eq.1 hc)
  omega

/-- With one bit wrong the correction gives back the stored data. -/
theorem corrected64_flip (v : Nat) {k : Nat} (h : k < 72) : corrected64 (v ^^^ (2 ^ k % 2 ^ 64)) (errCol k) = v := by
  unfold corrected64
  by_cases hk : k < 64
  · rw [find_dataCol hk, Nat.mod_eq_of_lt (Nat.pow_lt_pow_right (by decide) hk)]
    exact Nat.xor_xor_cancel_right ..
  · rw [find_checkCol (by omega) h, Nat.mod_eq_zero_of_dvd (Nat.pow_dvd_pow 2 (by omega))]
    exact Nat.xor_zero v

/-! ### Errors -/

/-- A read at its own address, with wrong bits. -/
theorem readCoded_flips (m : FrameStore) (i flips : Nat) :
    readCoded m i flips 0 = (if ones (flipSum flips) % 2 = 1
      then corrected64 (m.leRead (8 * i) 8 ^^^ (flips % 2 ^ 64)) (flipSum flips)
      else m.leRead (8 * i) 8 ^^^ (flips % 2 ^ 64), syndromeErr (flipSum flips)) := by
  rw [readCoded_eq, colSum_zero, Nat.xor_zero, Nat.xor_zero]

/-- What a read of another place than the one asked for finds. -/
theorem readCoded_skew_err (m : FrameStore) (i skew : Nat) : (readCoded m i 0 skew).2 = syndromeErr (colSum addrCol 37 skew) := by
  have none : flipSum 0 = 0 := by simpa using flipSum_xor 0 0
  rw [readCoded_eq, none, Nat.zero_xor]

/-- Settles O57, from the sums of the columns: one column has odd weight, two have even weight and differ. -/
theorem checkCodeCorrectsAndDetects : Obligations.CheckCodeCorrectsAndDetects := by
  unfold Obligations.CheckCodeCorrectsAndDetects
  refine ⟨?syndromes, ?oneWrong, ?twoWrong, ?wrongPlace, readCoded_clean⟩
  case syndromes =>
    intro m i flips skew
    rw [readCoded_eq]
    exact ⟨_, rfl, rfl, fun even => if_neg fun odd => by cases odd.symm.trans even⟩
  case oneWrong =>
    intro m i k hk
    rw [readCoded_flips, flipSum_two_pow hk, if_pos (errCol_odd hk), syndromeErr_odd (errCol_odd hk), corrected64_flip _ hk]
  case twoWrong =>
    rintro m i j k ⟨hj, hk⟩
    rw [readCoded_flips, two_pow_add_two_pow hj, flipSum_xor, flipSum_two_pow (by omega), flipSum_two_pow hk]
    refine syndromeErr_xor (fun e => ?_) ?_
    · have := errCol_inj (by omega) hk e
      omega
    · rw [errCol_odd hk, errCol_odd (by omega)]
  case wrongPlace =>
    rintro m i j k ⟨hj, hk⟩
    rw [readCoded_skew_err]
    by_cases hjk : j = k
    · obtain ⟨ne, even⟩ := addrCol_even hk
      rw [if_pos hjk, colSum_two_pow, hjk, if_pos hk]
      exact syndromeErr_even ne even
    · rw [if_neg hjk, two_pow_add_two_pow (by omega), colSum_xor, colSum_two_pow, colSum_two_pow, if_pos (by omega), if_pos hk]
      refine syndromeErr_xor (fun e => hjk (addrCol_inj (by omega) hk e)) ?_
      rw [(addrCol_even hk).2, (addrCol_even (by omega)).2]

end Sys2Proof.Machine
end

