-- ==== Sys2Proof/Proofs/RefusedAccesses.lean ====
section
/-!
O45: what a refused access changes (R411 to R414). A refused write or read of a register is a violation and nothing more, and so is a
refused access to the frame store, but for the answer to a read.
-/

namespace Sys2Proof.Machine

/-! ### Register accesses -/

/-- A register write by one whole or partial word is a write by its MID's port, and what the layers then announce. -/
theorem exec_registerWrite_word (s : State) (dt mid addr data be : Nat) (misroute : Bool) :
    exec (.registerWrite dt mid false addr [(data, be)] misroute) s = .next (s.withBlk (announce (s.blk.tick dt)
      (busWrite (midPort mid) mid addr data be misroute false (s.blk.tick dt)) s.store)) := rfl

/-- The two lowest bits of an address do not matter to a write. -/
theorem busWrite_aligned (port mid addr data be : Nat) (misroute same : Bool) (b : Blk) :
    busWrite port mid (addr / 4 * 4) data be misroute same b = busWrite port mid addr data be misroute same b := by
  have aligned : addr / 4 * 4 / 4 * 4 = addr / 4 * 4 := by omega
  simp only [busWrite, aligned]

/-- A write of a whole word that access control refuses is a violation of the refusal's kind, by the word's address. -/
theorem busWrite_refused_at {b : Blk} {mid addr k : Nat} (hm : mapped (addr / 4 * 4) = true)
    (hf : b.rd F.PAIR_EPOCH_FILL_HELD 0 = 0) (hc : regCheck b mid (addr / 4 * 4) true = some k) (port data : Nat) (same : Bool) :
    busWrite port mid addr data 15 false same b = regViolation port mid (addr / 4 * 4) k b := by
  have open_ : (b.on F.PAIR_EPOCH_FILL_HELD 0 && (mid == 0x01 || mid == 0x04)) = false := by simp [Blk.on, hf]
  rw [← busWrite_aligned]
  exact busWrite_refused (by omega) hm open_ hc port same

/-- A read that access control refuses answers 0, says so, and is a violation of the refusal's kind. -/
theorem busRead_refused {b : Blk} {mid addr k : Nat} (hm : mapped (addr / 4 * 4) = true)
    (hc : regCheck b mid (addr / 4 * 4) false = some k) (port : Nat) :
    busRead port mid addr b = (regViolation port mid (addr / 4 * 4) k b, 0, true) := by
  simp only [busRead, hm, hc, Bool.not_true, Bool.false_eq_true, if_false]

/-- A violation of a register access changes no register but its own and those of its event. -/
theorem holds_regViolation (port mid a k : Nat) (b : Blk) : b.holds (regViolation port mid a k b) [acgPage] violKeys :=
  holds_violation _ (Blk.holds_refl b _ _)

/-! ### Accesses to the frame store -/

/-- A request is an access at the address that its port's MID gives it, where the operations host's window is in range. -/
theorem memRequest_in_range {mid : Nat} {b : Blk} (h : mid = 0x01 → b.rd F.SYS_FSWIN_BASE 0 < usable b / 2 ^ 28) (a n : Nat)
    (write misroute : Bool) (l : List Nat) (flips skew : Nat) (beaten : Bool) (m : FrameStore) :
    memRequest mid a n write misroute l flips skew beaten b m =
      memAccess mid (storeAddr mid a b) n write misroute l flips skew beaten b m := by
  rw [memRequest, if_neg fun ⟨h1, h2⟩ => absurd (h h1) (Nat.not_lt.2 h2)]

/-- A MEM_ACCESS is a request under the block as it stands after its time has passed. -/
theorem exec_memAccess (s : State) (dt mid a n : Nat) (write misroute : Bool) (l : List Nat) (flips skew : Nat) (beaten : Bool) :
    exec (.memAccess dt mid a n write misroute l flips skew beaten) s =
      .next (s.withBoth (memRequest mid a n write misroute l flips skew beaten (s.blk.tick dt) s.store).1
        (memRequest mid a n write misroute l flips skew beaten (s.blk.tick dt) s.store).2) := rfl

/-- An access that is not misrouted and that access control refuses leaves the frame store and is a violation; the answer to a read
changes no register. -/
theorem memAccess_refused {b : Blk} {mid q : Nat} {write : Bool} (hg : fsGranted b mid q write = false) (h14 : mid ≠ 0x14) (n : Nat)
    (l : List Nat) (flips skew : Nat) (beaten : Bool) (m : FrameStore) :
    (memAccess mid q n write false l flips skew beaten b m).2 = m ∧
      (memAccess mid q n write false l flips skew beaten b m).1.regs = (fsViolation (fsPort mid) mid q (b2n write) b).regs := by
  simp only [memAccess, hg, h14, Bool.false_and, Bool.false_eq_true, Bool.not_false, if_true, if_false]
  cases write
  · exact ⟨rfl, rfl⟩
  · exact ⟨rfl, rfl⟩

/-- Settles O45, from what a refused write, a refused read and a refused access to the frame store do, and from what a violation
changes. -/
theorem refusedAccessHasNoEffect : Obligations.RefusedAccessHasNoEffect := by
  unfold Obligations.RefusedAccessHasNoEffect
  refine ⟨?refusedWrite, ?refusedRead, ?refusedStoreAccess⟩
  case refusedWrite =>
    rintro s dt mid addr data k b rfl hm hf hc
    obtain ⟨l, hl⟩ := rest_violation _ (s.blk.tick dt)
    refine ⟨_, l, ?_, holds_regViolation (midPort mid) mid (addr / 4 * 4) k _, hl⟩
    rw [exec_registerWrite_word, busWrite_refused_at hm hf hc]
  case refusedRead =>
    intro b port mid addr k hm hc
    rw [busRead_refused hm hc]
    exact ⟨rfl, holds_regViolation _ _ _ _ _⟩
  case refusedStoreAccess =>
    rintro s t dt mid a n flips skew write beaten l b rfl ⟨hg, hw⟩ h14 e
    rw [exec_memAccess, memRequest_in_range hw] at e
    cases e
    exact memAccess_refused hg h14 ..

end Sys2Proof.Machine
end

