-- ==== Sys2Proof/Proofs/StoreAccess.lean ====
section
/-!
O7: what a MEM_ACCESS changes of the frame store (R387 to R390). Beside the bytes that it writes an access can only mark a word
uncorrectable or write back the data of a corrected word, and neither changes a byte.
-/

namespace Sys2Proof.Machine

/-! ### The bytes of the frame store -/

@[simp] theorem FrameStore.byte_mark (m : FrameStore) (a x : Nat) : (m.mark a).byte x = m.byte x := rfl

/-- The bytes that a write of words leaves are those of the write; it may mark words beside. -/
theorem byte_storeWords (m : FrameStore) (a : Nat) (l : List Nat) (x : Nat) : (storeWords a l m).byte x = (m.setBytes a l).byte x := by
  unfold storeWords
  refine foldl_keeps (fun m' : FrameStore => m'.byte x = (m.setBytes a l).byte x) _ (fun m' w hm' => ?_) _ _ rfl
  split
  · exact hm'
  · exact hm'

/-- A write of words changes no byte outside them. -/
theorem byte_storeWords_out {m : FrameStore} (h : m.wf = true) {a x : Nat} {l : List Nat} (hx : x < a ∨ a + l.length ≤ x) :
    (storeWords a l m).byte x = m.byte x := by
  rw [byte_storeWords, m.byte_setBytes_out a l x h hx]

/-- A word written back as it stands changes no byte. -/
theorem byte_writeBack {m : FrameStore} (h : m.wf = true) {i v : Nat} (hv : v = m.leRead (8 * i) 8) (x : Nat) :
    (m.leWrite (8 * i) 8 v).byte x = m.byte x := by
  rw [hv, m.byte_leWrite_leRead _ _ _ h]

/-! ### Reads -/

/-- A read changes no byte, where the data of a corrected word is the data stored. -/
theorem byte_memRead {m : FrameStore} (h : m.wf = true) {q flips skew : Nat}
    (hc : (readCoded m (q / 8) flips skew).2 = 1 → (readCoded m (q / 8) flips skew).1 = m.leRead (8 * (q / 8)) 8) (mid n : Nat)
    (beaten : Bool) (b : Blk) (x : Nat) : (memRead mid q n flips skew beaten b m).2.byte x = m.byte x := by
  unfold memRead
  dsimp only
  split
  · show (if _ then m.mark q else m).byte x = m.byte x
    split
    · exact FrameStore.byte_mark ..
    · rfl
  · show (if _ then (if _ then m else m.leWrite (8 * (q / 8)) 8 _) else m).byte x = m.byte x
    split
    · next writtenBack =>
      split
      · rfl
      · exact byte_writeBack h (hc writtenBack.1) x
    · rfl

/-! ### Writes -/

/-- The frame store after the read that comes before a write of part of a word: marked, written back, or as it was. -/
theorem byte_mergeRead {m : FrameStore} (h : m.wf = true) {q n : Nat} {e : Nat × Nat} (hc : e.2 = 1 → e.1 = m.leRead (8 * (q / 8)) 8)
    (x : Nat) :
    (if n < 8 ∧ e.2 = 2 then m.mark q else if n < 8 ∧ e.2 = 1 ∧ !m.isMarked q then m.leWrite (8 * (q / 8)) 8 e.1 else m).byte x =
      m.byte x := by
  split
  · exact FrameStore.byte_mark ..
  · split
    · next merge => exact byte_writeBack h (hc merge.2.1) x
    · rfl

/-- A write changes no byte outside the bytes it writes, where the data of a corrected word is the data stored. -/
theorem byte_memWrite_out {m : FrameStore} (h : m.wf = true) {q n x : Nat} {e : Nat × Nat}
    (hc : e.2 = 1 → e.1 = m.leRead (8 * (q / 8)) 8) (hx : x < q ∨ q + n ≤ x) (mid : Nat) (l : List Nat) (b : Blk) :
    (memWrite mid q n l e b m).2.byte x = m.byte x := by
  have taken : x < q ∨ q + (l.take n).length ≤ x := by
    rw [List.length_take]
    omega
  unfold memWrite
  dsimp only
  split
  · rfl
  · split
    · rfl
    · rw [byte_storeWords_out ?canonical taken, byte_mergeRead h hc x]
      case canonical =>
        split
        · exact m.wf_mark _ h
        · exact wf_choose (m.wf_leWrite _ _ _ h) h

/-- A write of a whole word, or of part of a word that is good, in full: its bytes take their values, and the block stays. -/
theorem memWrite_whole {m : FrameStore} {b : Blk} {mid q n : Nat} {l : List Nat} (hw : 8 ≤ n ∨ m.isMarked q = false)
    (hp : (mid = 0x01 ∨ mid = 0x04) → copyDiscards b = false ∧ b.on F.PAIR_EPOCH_FILL_HELD 0 = false ∧ copying b = false) :
    memWrite mid q n l (m.leRead (8 * (q / 8)) 8, 0) b m = (b, storeWords q (l.take n) m) := by
  have noMerge : ¬ (n < 8 ∧ m.isMarked q = true) := by
    rintro ⟨short, marked⟩
    rcases hw with long | good
    · omega
    · rw [good] at marked
      cases marked
  have free : ∀ c : Bool, ((mid = 0x01 ∨ mid = 0x04) → c = false) → ((mid == 0x01 || mid == 0x04) && c) = false := by
    intro c hc
    cases hm : (mid == 0x01 || mid == 0x04)
    · rfl
    · exact hc (by simpa using hm)
  have discards := free _ fun h => (hp h).1
  have held := free _ fun h => (hp h).2.1
  have copied := free _ fun h => (hp h).2.2
  simp only [memWrite, discards, held, copied, noMerge, Nat.zero_ne_one, OfNat.zero_ne_ofNat,
    false_and, and_false, Bool.false_eq_true, if_false]

/-! ### Accesses -/

/-- An access changes no byte outside the bytes it writes, and none at all if it is a read. -/
theorem byte_memAccess {m : FrameStore} (h : m.wf = true) {q n x flips skew : Nat} {write : Bool}
    (hc : (readCoded m (q / 8) flips skew).2 = 1 → (readCoded m (q / 8) flips skew).1 = m.leRead (8 * (q / 8)) 8)
    (hx : write = false ∨ x < q ∨ q + n ≤ x) (mid : Nat) (misroute : Bool) (l : List Nat) (beaten : Bool) (b : Blk) :
    (memAccess mid q n write misroute l flips skew beaten b m).2.byte x = m.byte x := by
  have keep : ∀ (c : Bool) (p r : Blk), (if c then (p, m) else (r, m)).2.byte x = m.byte x := by
    intro c p r
    cases c <;> rfl
  unfold memAccess
  dsimp only
  split
  · exact keep ..
  · split
    · exact keep ..
    · split
      · rfl
      · split
        · next isWrite => exact byte_memWrite_out h hc (hx.resolve_left (by simp [isWrite])) mid l b
        · exact byte_memRead h hc mid n beaten b x

/-- Settles O7, from what a read and a write leave of the frame store. -/
theorem frameStoreAccessFrames : Obligations.FrameStoreAccessFrames := by
  unfold Obligations.FrameStoreAccessFrames
  refine ⟨?memAccessFrame, ?memAccessReadsBack⟩
  case memAccessFrame =>
    rintro s t dt mid a n q x flips skew write misroute beaten l hs e rfl hc hx
    rw [exec_memAccess] at e
    cases e
    show (memRequest _ _ _ _ _ _ _ _ _ _ _).2.byte x = _
    rw [memRequest]
    split
    · rfl
    · exact byte_memAccess hs hc hx ..
  case memAccessReadsBack =>
    rintro s dt mid a n j q l beaten b rfl hs ⟨rfl, hb⟩ ⟨hg, hu⟩ hw hp ⟨hl, hj⟩
    have done : memRequest mid a n true false l 0 0 beaten (s.blk.tick dt) s.store =
        (s.blk.tick dt, storeWords (storeAddr mid a (s.blk.tick dt)) l s.store) := by
      rw [memRequest_in_range hb]
      simp only [memAccess, hg, Nat.not_lt.2 hu, Bool.false_and, Bool.not_true, Bool.false_eq_true, if_true, if_false]
      rw [readCoded_clean, memWrite_whole hw hp, List.take_of_length_le hl.le]
    refine ⟨_, exec_memAccess .., ?_, ?_⟩
    · rw [done]
      rfl
    · rw [done]
      show (storeWords _ _ _).byte _ = _
      rw [byte_storeWords, s.store.byte_setBytes_in _ l j hs (by omega), List.getD_eq_getElem l 0 (by omega)]

end Sys2Proof.Machine
end

