-- ==== Sys2Proof/Proofs/WritePaths.lean ====
section
/-!
O12: the path of a register write (R11, R43, R44, R340, R409 to R416), by what stops it on its way or by what it stores.
-/

namespace Sys2Proof.Machine

/-! ### Requests of several words -/

/-- A request of no words does nothing, and the last word of a request is written after those before it. -/
theorem busWrites_nil (mid addr : Nat) (misroute : Bool) (b : Blk) : busWrites mid addr [] misroute b = b := rfl

theorem forEach_append {α β : Type} (f : α → β → β) (l l' : List α) (b : β) : forEach (l ++ l') f b = forEach l' f (forEach l f b) :=
  List.foldl_append ..

theorem busWrites_concat (mid addr : Nat) (words : List (Nat × Nat)) (w : Nat × Nat) (misroute : Bool) (b : Blk) :
    busWrites mid addr (words ++ [w]) misroute b =
      busWrite (midPort mid) mid (addr + 4 * words.length) w.1 w.2 misroute false (busWrites mid addr words misroute b) := by
  rw [busWrites, List.zipIdx_append, List.zipIdx_singleton, forEach_append, Nat.zero_add]
  rfl

/-! ### What stops a write -/

/-- A write with other byte enables than those of a whole word is discarded with event 0x0004 (R43). -/
theorem busWrite_badEnables {be : Nat} (h : be % 16 ≠ 15) (port mid addr data : Nat) (misroute same : Bool) (b : Blk) :
    busWrite port mid addr data be misroute same b =
      raiseAs mid (answers (addr / 4 * 4)) 0x0004 sevNotice (addr / 4 * 4 % 0x1000) 0 b := by
  simp only [busWrite, h, ne_eq, not_false_eq_true, if_true]

/-- A host's write while writes are held is held (R340). -/
theorem busWrite_held {b : Blk} {mid : Nat} (hf : b.on F.PAIR_EPOCH_FILL_HELD 0 = true) (hm : mid = 0x01 ∨ mid = 0x04)
    (port addr data : Nat) (misroute same : Bool) :
    busWrite port mid addr data 15 misroute same b = holdWrite mid false (addr / 4 * 4) [data] b := by
  have host : (mid == 0x01 || mid == 0x04) = true := by simpa using hm
  simp [busWrite, hf, host]

section
variable {b : Blk} {mid addr : Nat} (hf : b.rd F.PAIR_EPOCH_FILL_HELD 0 = 0)
include hf

/-- A write to a word that no table names is discarded with event 0x0005 (R44). -/
theorem busWrite_unmapped (hm : mapped (addr / 4 * 4) = false) (port data : Nat) (misroute same : Bool) :
    busWrite port mid addr data 15 misroute same b = raiseAs mid sysPage 0x0005 sevNotice (addr / 4 * 4 / 4) 0 b := by
  simp [busWrite, Blk.on, hf, hm]

/-- A misrouted write in gate mode is a violation of kind 4 (R409). -/
theorem busWrite_misrouted (hm : mapped (addr / 4 * 4) = true) (hg : b.rd F.ACG_MODE_MODE 0 = 0) (port data : Nat) (same : Bool) :
    busWrite port mid addr data 15 true same b = regViolation port mid (addr / 4 * 4) 4 b := by
  simp [busWrite, Blk.on, hf, hm, hg]

end

/-! ### What a granted write stores -/

/-- A write of the layer descriptors or the scene table that is no publish stores the word and does nothing else. -/
theorem grantedWrite_table {b : Blk} {mid addr data : Nat} (h : accepts b mid addr data = true) (lo : 0x400000 ≤ addr) (hi : addr < 0x580000)
    (noPublish : ¬ (addr < 0x500000 ∧ addr % 256 = 0x2C)) (port at_ ident : Nat) :
    grantedWrite port mid addr data at_ ident false false b = stored mid addr data b := by
  simp only [accepts, Bool.and_eq_true, Bool.not_eq_true'] at h
  obtain ⟨⟨⟨-, hr⟩, hv⟩, -⟩ := h
  have stores : wordWrite mid addr data at_ ident false false b = stored mid addr data b := by
    by_cases desc : addr < 0x500000
    · have ht : target addr = .desc ((addr - 0x400000) / 256) (addr % 256) := by
        rw [target, if_neg (by omega), if_pos desc]
      have other : ¬ (addr % 256 = 0x2C ∧ bit data 31 = true) := fun e => noPublish ⟨desc, e.1⟩
      simp only [wordWrite, ht, hr, hv, other, Bool.false_eq_true, if_false]
      rfl
    · have ht : target addr = .scene ((addr - 0x500000) / 256) (addr % 256) := by
        rw [target, if_neg (by omega), if_neg desc, if_pos hi]
      simp only [wordWrite, ht, hr, hv, Bool.false_eq_true, if_false]
      rfl
  rw [← stores, grantedWrite]
  by_cases desc : addr < 0x500000
  · rw [target, if_neg (by omega), if_pos desc]
  · rw [target, if_neg (by omega), if_neg desc, if_pos hi]

/-- A whole word that is written through BAR4 to the message table stands in it (R41). -/
theorem bar4Write_word (b : Blk) (data : Nat) {addr : Nat} (h : addr / 4 < 2048) :
    bar4Write addr [(data, 15)] b =
      { b with ctl := { b.ctl with msixTable := mset b.ctl.msixTable (addr / 4) (data % 2 ^ 32) } } := by
  rw [← mergeBytes_all (mgetD b.ctl.msixTable (addr / 4) 0) data]
  exact if_pos h

/-- Settles O12, one lemma for each thing that may become of a write. -/
theorem registerWritePaths : Obligations.RegisterWritePaths := by
  unfold Obligations.RegisterWritePaths
  refine ⟨?registerWrite, ?registerWriteWords, ?registerWriteTable, ?registerWriteStored, ?registerWriteBadEnables,
    ?registerWriteUnmapped, ?registerWriteMisrouted, ?registerWriteRefused, ?registerWriteHeld⟩
  case registerWrite =>
    intro s dt mid addr data h ha
    obtain ⟨ident, e⟩ := busWrite_granted h (target_not_member ha) (midPort mid) false
    exact ⟨ident, by rw [exec_registerWrite_word, e]; rfl⟩
  case registerWriteWords => exact fun b mid addr words w misroute => ⟨rfl, busWrites_concat ..⟩
  case registerWriteTable =>
    intro s dt addr data misroute h
    show Host.Outcome.next (s.withBlk (bar4Write addr [(data, 15)] (s.blk.tick dt))) = _
    rw [bar4Write_word _ data h]
    rfl
  case registerWriteStored =>
    rintro b port mid addr data at_ ident h ⟨lo, hi⟩ noPublish
    exact grantedWrite_table h lo hi noPublish ..
  case registerWriteBadEnables =>
    intro s dt mid addr data be misroute h
    rw [exec_registerWrite_word, busWrite_badEnables h]
  case registerWriteUnmapped =>
    intro b port mid addr data misroute hm hf
    exact busWrite_unmapped hf hm ..
  case registerWriteMisrouted =>
    intro b port mid addr data hm hf hg
    exact busWrite_misrouted hf hm hg ..
  case registerWriteRefused =>
    intro b port mid addr data k hm hf hc
    exact busWrite_refused_at hm hf hc ..
  case registerWriteHeld =>
    intro b port mid addr data misroute hf hm
    have held : b.on F.PAIR_EPOCH_FILL_HELD 0 = true := by simpa [Blk.on] using hf
    rw [busWrite_held held hm, holdWrite, held]
    rfl

end Sys2Proof.Machine
end

