-- ==== Sys2Proof/Proofs/SafetyPort.lean ====
section
/-!
O13: the commands of the safety port (R47 to R51) and of host port A (R42).
-/

namespace Sys2Proof.Machine

/-! ### WRITE -/

/-- The framing of a WRITE is good: whole, 1 to 64 words, aligned, and within its page (R48). -/
def framed (addr : Nat) (words : List Nat) (clean : Bool) : Bool :=
  !(!clean || words.length == 0 || Nat.blt 64 words.length || addr % 4 != 0 || Nat.blt 0x1000 (addr % 0x1000 + 4 * words.length))

theorem blt_eq_false_iff (a b : Nat) : Nat.blt a b = false ↔ b ≤ a := by
  rw [← Bool.not_eq_true, Nat.blt_eq, Nat.not_lt]

theorem framed_iff (addr : Nat) (words : List Nat) (clean : Bool) : framed addr words clean = true ↔
    clean = true ∧ words ≠ [] ∧ words.length ≤ 64 ∧ addr % 4 = 0 ∧ addr % 0x1000 + 4 * words.length ≤ 0x1000 := by
  simp [framed, blt_eq_false_iff, and_assoc]

/-- A WRITE whose framing is bad is not applied and has RESULT 3. -/
theorem safetyWrite_unframed {addr : Nat} {words : List Nat} {clean : Bool} (h : framed addr words clean = false) (check : Nat) (b : Blk)
    (m : FrameStore) : safetyWrite addr words check clean b m = (putResult 3 b, m) := by
  rw [framed, Bool.not_eq_false'] at h
  rw [safetyWrite, h]
  exact if_pos rfl

section
variable {addr : Nat} {words : List Nat} {clean : Bool} (h : framed addr words clean = true)
include h

/-- A WRITE whose check does not match is not applied and has RESULT 1. -/
theorem safetyWrite_badCheck {check : Nat} (hc : check ≠ crc16 (safetyBytes 0x02 addr words)) (b : Blk) (m : FrameStore) :
    safetyWrite addr words check clean b m = (putResult 1 b, m) := by
  rw [framed, Bool.not_eq_true'] at h
  rw [safetyWrite, h]
  exact if_pos hc

/-- A WRITE with good framing and check writes its words in ascending order; RESULT 2 says that one of them was refused. -/
theorem safetyWrite_done {b : Blk} {fs : Bool} {a : Nat} (hm : safetyMap b addr = some (fs, a)) (m : FrameStore)
    {r : Blk × FrameStore × Bool} (hr : r = words.zipIdx.foldl (fun (acc : Blk × FrameStore × Bool) w =>
      ((safetyWord (some (fs, a + 4 * w.2)) w.1 acc.1 acc.2.1).1, (safetyWord (some (fs, a + 4 * w.2)) w.1 acc.1 acc.2.1).2.1,
      acc.2.2 || (safetyWord (some (fs, a + 4 * w.2)) w.1 acc.1 acc.2.1).2.2)) (b, m, false)) :
    safetyWrite addr words (crc16 (safetyBytes 0x02 addr words)) clean b m =
      ({ r.1 with ctl := { r.1.ctl with spResult := if r.2.2 then 2 else 0, spWrites := (r.1.ctl.spWrites + 1) % 65536 } }, r.2.1) := by
  rw [framed, Bool.not_eq_true'] at h
  simp only [safetyWrite, h, hm, Bool.false_eq_true, if_false, ne_eq, not_true_eq_false, ← hr]
  rfl

end

/-- A WRITE, and what the layers announce after it. -/
theorem exec_spWrite (s : State) (dt addr : Nat) (words : List Nat) (check : Nat) (clean : Bool) {b : Blk} {m : FrameStore}
    (h : safetyWrite addr words check clean (s.blk.tick dt) s.store = (b, m)) :
    exec (.spWrite dt addr words check clean) s = .next (s.withBoth (announce (s.blk.tick dt) b m) m) := by
  change execSpWrite dt addr words check clean s = _
  simp only [execSpWrite, effM_next, h]
  rfl

/-! ### READ -/

/-- A READ of 1 to 64 words reads them in ascending order and answers them with their check. -/
theorem safetyRead_done {n : Nat} (h : 1 ≤ n ∧ n ≤ 64) (addr ready : Nat) (b : Blk) (m : FrameStore) {r : Blk × FrameStore × SafetyRead}
    (hr : r = (List.range n).foldl (fun acc k => safetyReadWord addr k ready acc) (b, m, {})) :
    safetyRead addr n ready b m = ({ r.1 with
      ctl := { r.1.ctl with spResult := if r.2.2.late then 4 else if r.2.2.refused then 2 else if r.2.2.invalid then 3 else 0 },
      out := r.1.out ++ [.safety r.2.2.words (crc16 (safetyBytes 0x0B addr r.2.2.words))] }, r.2.1) := by
  have counted : ¬ (n = 0 ∨ 64 < n) := by omega
  simp only [safetyRead, counted, if_false, ← hr]
  rfl

/-! ### Unknown commands -/

/-- A command code that the port does not know has RESULT 5. -/
theorem exec_unknownCommand (s : State) (dt : Nat) {code : Nat}
    (h : code % 256 ≠ 0x02 ∧ code % 256 ≠ 0x0B ∧ code % 256 ≠ 0x05 ∧ code % 256 ≠ 0x99) :
    exec (.unknownCommand dt code) s = .next (s.withBlk (putResult 5 (s.blk.tick dt))) := by
  have unknown : [0x02, 0x0B, 0x05, 0x99].contains (code % 256) = false := by simpa using h
  change execUnknownCommand dt code s = _
  simp only [execUnknownCommand, eff_next, unknown, Bool.false_eq_true, if_false, set_blk]

/-- Settles O13, from the three ends of a WRITE and from what a READ gathers. -/
theorem safetyAndHostPortCommands : Obligations.SafetyAndHostPortCommands := by
  unfold Obligations.SafetyAndHostPortCommands
  refine ⟨fun _ _ => rfl, msixPendingSend_open, fun _ _ => rfl, fun _ _ => rfl, fun s dt _ h => exec_unknownCommand s dt h, ?spWrite,
    ?spWriteFraming, ?spWriteCheck, ?spRead⟩
  case spWrite =>
    rintro s dt addr words fs a r ⟨hne, hlen, hal, hpage⟩ hm hr
    have whole : framed addr words true = true :=
      (framed_iff ..).2 ⟨rfl, List.ne_nil_of_length_pos hne, hlen, hal, hpage⟩
    exact exec_spWrite _ _ _ _ _ _ (safetyWrite_done whole (b := s.blk.tick dt) hm s.store hr)
  case spWriteFraming =>
    intro s dt addr check words clean hbad
    have unframed : framed addr words clean = false := by
      rw [← Bool.not_eq_true, framed_iff]
      rintro ⟨hclean, hne, hlen, hal, hpage⟩
      rcases hbad with h | h | h | h | h
      · rw [hclean] at h
        cases h
      · exact hne h
      all_goals omega
    exact exec_spWrite _ _ _ _ _ _ (safetyWrite_unframed unframed ..)
  case spWriteCheck =>
    rintro s dt addr check words ⟨hne, hlen, hal, hpage⟩ hc
    have whole : framed addr words true = true :=
      (framed_iff ..).2 ⟨rfl, List.ne_nil_of_length_pos hne, hlen, hal, hpage⟩
    exact exec_spWrite _ _ _ _ _ _ (safetyWrite_badCheck whole hc ..)
  case spRead =>
    intro s dt addr n ready r hn hr
    change execSpRead dt addr n ready s = _
    rw [execSpRead, effM_next, safetyRead_done hn addr ready _ _ hr]
    rfl

end Sys2Proof.Machine
end

