-- ==== Sys2Proof/Proofs/RegisterWords.lean ====
section
/-!
Writes of one register word of a page, by what the word stores: nothing, or the fields of its table.
-/

namespace Sys2Proof.Machine

/-- States with equal blocks are equal outcomes. -/
theorem next_withBlk {s : State} {b c : Blk} (h : b = c) :
    (Host.Outcome.next (s.withBlk b) : Host.Outcome State Fault Refusal) = .next (s.withBlk c) := by rw [h]

/-- A word none of whose fields takes a written value: all are RO, WO or W1S. -/
def unstored (a : Nat) : Bool := (hitsAt a).all fun h => h.f.acc == .ro || h.f.acc == .wo || h.f.acc == .w1s

/-- A step that does nothing for any entry of a list does nothing over the list. -/
theorem forEach_id {α β : Type} {f : α → β → β} {l : List α} (b : β) (h : ∀ x ∈ l, ∀ b, f x b = b) : forEach l f b = b := by
  induction l with
  | nil => rfl
  | cons x t ih =>
    show forEach t f (f x b) = b
    rw [h x (List.mem_cons_self ..)]
    exact ih fun y hy => h y (List.mem_cons_of_mem _ hy)

/-- A word none of whose fields takes a written value stores nothing. -/
theorem stored_unstored {a : Nat} (hn : unstored a = true) (mid data : Nat) (b : Blk) : stored mid a data b = b := by
  have none : ∀ x ∈ hitsAt a, (x.f.acc == .ro || x.f.acc == .wo || x.f.acc == .w1s) = true := List.all_eq_true.1 hn
  have unstaged : ((hitsAt a).any fun h => h.f.acc == .rws) = false := by
    refine List.any_eq_false.2 fun x hx => ?_
    have := none x hx
    simp only [Bool.or_eq_true, beq_iff_eq] at this
    rcases this with (e | e) | e <;> rw [e] <;> decide
  rw [stored, stageWord_none unstaged, forEach_id _ fun x hx b => storeField_none false x (by simpa [or_assoc] using none x hx)]

section
variable {b : Blk} {mid a data : Nat} {p : Page} {o : Nat} (h : accepts b mid a data = true) (t : target a = .page p o) (ho : 64 ≤ o)
include h t ho

/-- An accepted write of a block word of a page stores the word and does what it asks for; a copied or shared word is passed on. -/
theorem regWrite_block : regWrite mid a data b =
    settled b mid a data (copiedWrote b p o data b.now false (localWrote mid p o data b.now (stored mid a data b))) := by
  rw [regWrite, busWrite_page h t]
  simp only [show ¬ o < 64 by omega, if_false]

omit h in
/-- Nothing follows a write of a block word that the pair does not copy, but of SYS_GCUE. -/
theorem settled_own (hc : copiedRange a = false) (ha : a ≠ 0x80) (b0 b : Blk) : settled b0 mid a data b = b := by
  refine settled_local (by simp [copies, hc]) ?_ ha
  simp only [copiedRange, t, if_neg (show ¬ o < 64 by omega)] at hc
  simp only [sharedRange, t]
  cases hp : p.blk == .prm
  · simp
  · rw [beq_iff_eq.1 hp] at hc
    simp at hc

/-- An accepted write of a block word that the pair does not copy stores the word and does what it asks for. -/
theorem regWrite_own (hc : copiedRange a = false) (ha : a ≠ 0x80) : regWrite mid a data b =
    copiedWrote b p o data b.now false (localWrote mid p o data b.now (stored mid a data b)) := by
  rw [regWrite_block h t ho, settled_own t ho hc ha]

/-- An accepted write of a word of a page that stores nothing does what the word asks for. -/
theorem regWrite_unstored (hc : copiedRange a = false) (ha : a ≠ 0x80) (hn : unstored a = true) :
    regWrite mid a data b = copiedWrote b p o data b.now false (localWrote mid p o data b.now b) := by
  rw [regWrite_own h t ho hc ha, stored_unstored hn]

end

/-- The target of a word of the ACG control page. -/
theorem target_acg {o : Nat} (ho : o < 0x1000) : target (0x20000 + o) = .page acgPage o :=
  target_inst .acg 0 o _ (by decide) ho rfl

/-- An accepted write of a word of the ACG control page that stores nothing does what the word asks for. -/
theorem regWrite_acg {b : Blk} {mid o data : Nat} (h : accepts b mid (0x20000 + o) data = true) (ho : 64 ≤ o) (ho2 : o < 0x1000)
    (hn : unstored (0x20000 + o) = true) : regWrite mid (0x20000 + o) data b = acgWrote mid acgPage o data b := by
  have t := target_acg ho2
  have noCopy : copiedRange (0x20000 + o) = false := by simp [copiedRange, t, show ¬ o < 64 by omega, acgPage]
  exact regWrite_unstored h t ho noCopy (by omega) hn

end Sys2Proof.Machine
end

