-- ==== Sys2Proof/Proofs/Proposals.lean ====
section
/-!
O16: countersigning (R417 to R424). A write of a word of the ACG control page takes the step that it asks for, in turn or out of turn.
-/

namespace Sys2Proof.Machine

/-! ### The steps in turn and out of turn -/

theorem openBy_out {b : Blk} {mid : Nat} (hr : openRefused mid b = true) (ht : openTogether mid b = false) :
    openBy mid b = regViolation (midPort mid) mid 0x20050 5 b := by
  simp only [openBy, ht, hr, Bool.false_eq_true, if_true, if_false]
  rfl

theorem openBy_in {b : Blk} {mid : Nat} (hr : openRefused mid b = false) (ht : openTogether mid b = false) :
    openBy mid b = opened mid (((b.wr F.ACG_PROP_STAT_STATE 0 psOpen).wr F.ACG_PROP_STAT_PROPOSER 0 mid).step F.ACG_PROP_SEQ_VALUE 0) := by
  simp only [openBy, ht, hr, Bool.false_eq_true, if_false]

theorem submitBy_out {b : Blk} {mid : Nat} (hr : submitRefused mid b = true) :
    submitBy mid b = regViolation (midPort mid) mid 0x20050 5 b := if_pos hr

theorem withdrawBy_out {b : Blk} {mid : Nat} (hr : withdrawRefused mid b = true) :
    withdrawBy mid b = regViolation (midPort mid) mid 0x20050 5 b := if_pos hr

theorem rejectBy_out {b : Blk} {mid : Nat} (hr : signRefused mid b = true) :
    rejectBy mid b = regViolation (midPort mid) mid 0x20050 5 b := if_pos hr

theorem signBy_out {b : Blk} {mid : Nat} (hr : signRefused mid b = true) (data : Nat) :
    signBy mid data b = regViolation (midPort mid) mid 0x20058 5 b := if_pos hr

/-- Signing or rejecting is in turn for the host that is not the proposer, once the proposal is submitted. -/
theorem signRefused_eq_false {b : Blk} {mid : Nat} (hs : propState b = 2) (hp : proposer b ≠ mid) (hm : mid = 0x01 ∨ mid = 0x04) :
    signRefused mid b = false := by
  have other : mid ≠ proposer b := fun e => hp e.symm
  rcases hm with rfl | rfl <;> simp [signRefused, countersigns, hs, other]

theorem signRefused_eq_true {b : Blk} {mid : Nat} (h : propState b ≠ 2 ∨ mid = proposer b ∨ (mid ≠ 0x01 ∧ mid ≠ 0x04)) :
    signRefused mid b = true := by
  rcases h with h | h | ⟨h1, h4⟩
  · simp [signRefused, h]
  · simp [signRefused, countersigns, ← h]
  · simp [signRefused, countersigns, h1, h4]

theorem openRefused_eq_true {b : Blk} {mid : Nat} (h : (mid ≠ 0x01 ∧ mid ≠ 0x04) ∨ propState b ≠ 0) : openRefused mid b = true := by
  rcases h with ⟨h1, h4⟩ | h
  · simp [openRefused, h1, h4]
  · simp [openRefused, h]

theorem submitRefused_eq_true {b : Blk} {mid : Nat} (h : propState b ≠ 1 ∨ mid ≠ proposer b) : submitRefused mid b = true := by
  rcases h with h | h <;> simp [submitRefused, h]

theorem submitRefused_eq_false {b : Blk} {mid : Nat} (hs : propState b = 1) (hp : proposer b = mid) : submitRefused mid b = false := by
  simp [submitRefused, hs, hp]

theorem withdrawRefused_eq_true {b : Blk} {mid : Nat} (h : propState b = 0 ∨ mid ≠ proposer b) : withdrawRefused mid b = true := by
  rcases h with h | h <;> simp [withdrawRefused, h]

theorem withdrawRefused_eq_false {b : Blk} {mid : Nat} (hs : propState b ≠ 0) (hp : proposer b = mid) : withdrawRefused mid b = false := by
  simp [withdrawRefused, hs, hp]

/-- A proposal that is idle has not been opened together with another. -/
theorem openTogether_of_idle {b : Blk} {mid : Nat} (h : propState b = 0) : openTogether mid b = false := by
  simp [openTogether, h]

/-! ### Commands -/

/-! A write of ACG_PROP_CTRL with one bit set takes that bit's step. -/

theorem propCtrlWrite_open (mid : Nat) (b : Blk) : propCtrlWrite mid 1 b = openBy mid b := by
  simp [propCtrlWrite, show bit 1 0 = true from rfl, show bit 1 1 = false from rfl, show bit 1 2 = false from rfl,
    show bit 1 3 = false from rfl]

theorem propCtrlWrite_submit (mid : Nat) (b : Blk) : propCtrlWrite mid 2 b = submitBy mid b := by
  simp [propCtrlWrite, show bit 2 0 = false from rfl, show bit 2 1 = true from rfl, show bit 2 2 = false from rfl,
    show bit 2 3 = false from rfl]

theorem propCtrlWrite_withdraw (mid : Nat) (b : Blk) : propCtrlWrite mid 4 b = withdrawBy mid b := by
  simp [propCtrlWrite, show bit 4 0 = false from rfl, show bit 4 1 = false from rfl, show bit 4 2 = true from rfl,
    show bit 4 3 = false from rfl]

theorem propCtrlWrite_reject (mid : Nat) (b : Blk) : propCtrlWrite mid 8 b = rejectBy mid b := by
  simp [propCtrlWrite, show bit 8 0 = false from rfl, show bit 8 1 = false from rfl, show bit 8 2 = false from rfl,
    show bit 8 3 = true from rfl]

theorem unstored_propCtrl : unstored (0x20000 + 0x50) = true := by decide +kernel
theorem unstored_propSign : unstored (0x20000 + 0x58) = true := by decide +kernel

/-- A write of ACG_PROP_CTRL, by its bits. -/
theorem regWrite_propCtrl {b : Blk} {mid data : Nat} (h : accepts b mid 0x20050 data = true) :
    regWrite mid 0x20050 data b = propCtrlWrite mid data b :=
  (regWrite_acg (o := 0x50) h (by decide) (by decide) unstored_propCtrl).trans rfl

/-- A write of ACG_PROP_SIGN. -/
theorem regWrite_propSign {b : Blk} {mid data : Nat} (h : accepts b mid 0x20058 data = true) :
    regWrite mid 0x20058 data b = signBy mid data b :=
  (regWrite_acg (o := 0x58) h (by decide) (by decide) unstored_propSign).trans rfl

/-- A write to a word of the proposal area by the proposer of an open proposal. -/
theorem regWrite_area {b : Blk} {mid o data : Nat} (ho : o < 3152) (h : accepts b mid (0x700000 + o) data = true)
    (hs : propState b = 1) (hp : proposer b = mid) :
    regWrite mid (0x700000 + o) data b = { b with acg := { b.acg with area := mset b.acg.area (o / 4) (data % 2 ^ 32) } } := by
  have t : target (0x700000 + o) = .prop o := by
    unfold target
    rw [if_neg (by omega), if_neg (by omega), if_neg (by omega), if_neg (by omega), if_neg (by omega), if_neg (by omega),
      if_pos (by omega), Nat.add_sub_cancel_left]
  have local_ : copies mid (0x700000 + o) = false := by simp [copies, copiedRange, t]
  have unshared : sharedRange (0x700000 + o) = false := by simp [sharedRange, t]
  obtain ⟨ident, e⟩ := busWrite_granted h (by simp [t]) (midPort mid) false
  rw [regWrite, e, settled_local local_ unshared (by omega)]
  simp only [grantedWrite, t, areaWrite, submitRefused_eq_false hs hp, show ¬ 788 ≤ o / 4 by omega, Bool.false_eq_true, if_false]

/-! ### Signing -/

section
variable {b : Blk} {mid data : Nat} (hr : signRefused mid b = false)
include hr

/-- A countersignature with another digest than the proposal's drops the proposal (R423). -/
theorem signBy_otherDigest (hd : data % 2 ^ 32 ≠ openDigest b) : signBy mid data b = abortProposal 2 0 0 b := by
  have other : (data % 2 ^ 32 != openDigest b) = true := bne_iff_ne.2 hd
  simp only [signBy, hr, other, Bool.false_eq_true, if_true, if_false]

/-- A countersigned proposal that the checks find at fault is dropped with what they find (R423). -/
theorem signBy_fault (hd : data % 2 ^ 32 = openDigest b) {d d2 : Nat} (hf : commitFault b b.acg.area = some (d, d2)) :
    signBy mid data b = abortProposal 6 d d2 b := by
  have same : (data % 2 ^ 32 != openDigest b) = false := bne_eq_false_iff_eq.2 hd
  simp only [signBy, hr, same, hf, Bool.false_eq_true, if_false]

/-- A countersigned proposal without a fault is committed (R422). -/
theorem signBy_fits (hd : data % 2 ^ 32 = openDigest b) (hf : commitFault b b.acg.area = none) :
    signBy mid data b = commitProposal mid b := by
  have same : (data % 2 ^ 32 != openDigest b) = false := bne_eq_false_iff_eq.2 hd
  simp only [signBy, hr, same, hf, Bool.false_eq_true, if_false]

end

/-! ### A commit -/

/-- What a commit leaves, before its events (R417, R418, R420). -/
def committedBlk (b : Blk) : Blk :=
  let m := committed b.acg.image b.acg.area
  let old := if b.on F.ACG_FENCE_DRAINED 0 then b.rd F.ACG_EPOCH_VALUE 0 else b.rd F.ACG_FENCE_OLDEST 0
  let b := { b with acg := { b.acg with image := m, area := [], commitAt := b.now, fenceTold := false } }
  ((((b.wr F.ACG_PROP_STAT_STATE 0 psIdle).step F.ACG_EPOCH_VALUE 0).wr F.ACG_DIGEST_VALUE 0 (ruleDigest m)).wr
    F.ACG_FENCE_DRAINED 0 0).wr F.ACG_FENCE_OLDEST 0 old

/-- What a commit leaves of access control's state. -/
theorem committedBlk_acg (b : Blk) : (committedBlk b).acg =
    { b.acg with image := committed b.acg.image b.acg.area, area := [], commitAt := b.now, fenceTold := false } := by
  simp only [committedBlk, Blk.step, Blk.wr_acg]

/-! The registers that a commit writes. -/

theorem committedBlk_state (b : Blk) : (committedBlk b).rd F.ACG_PROP_STAT_STATE 0 = 0 := by
  simp only [committedBlk, Blk.step]
  rw [Blk.rd_wr_ne _ _ _ _ _ _ _ _ (by decide), Blk.rd_wr_ne _ _ _ _ _ _ _ _ (by decide), Blk.rd_wr_ne _ _ _ _ _ _ _ _ (by decide),
    Blk.rd_wr_ne _ _ _ _ _ _ _ _ (by decide), Blk.rd_wr_same]
  rfl

theorem committedBlk_epoch (b : Blk) : (committedBlk b).rd F.ACG_EPOCH_VALUE 0 = (b.rd F.ACG_EPOCH_VALUE 0 + 1) % 2 ^ 32 := by
  simp only [committedBlk, Blk.step]
  rw [Blk.rd_wr_ne _ _ _ _ _ _ _ _ (by decide), Blk.rd_wr_ne _ _ _ _ _ _ _ _ (by decide), Blk.rd_wr_ne _ _ _ _ _ _ _ _ (by decide),
    Blk.rd_wr_same, Blk.rd_wr_ne _ _ _ _ _ _ _ _ (by decide), Blk.rd_with_acg]
  rfl

theorem committedBlk_digest (b : Blk) :
    (committedBlk b).rd F.ACG_DIGEST_VALUE 0 = ruleDigest (committed b.acg.image b.acg.area) % 2 ^ 32 := by
  simp only [committedBlk]
  rw [Blk.rd_wr_ne _ _ _ _ _ _ _ _ (by decide), Blk.rd_wr_ne _ _ _ _ _ _ _ _ (by decide), Blk.rd_wr_same]
  rfl

theorem committedBlk_drained (b : Blk) : (committedBlk b).rd F.ACG_FENCE_DRAINED 0 = 0 := by
  simp only [committedBlk]
  rw [Blk.rd_wr_ne _ _ _ _ _ _ _ _ (by decide), Blk.rd_wr_same]
  rfl

theorem committedBlk_oldest (b : Blk) : (committedBlk b).rd F.ACG_FENCE_OLDEST 0 =
    (if b.rd F.ACG_FENCE_DRAINED 0 ≠ 0 then b.rd F.ACG_EPOCH_VALUE 0 else b.rd F.ACG_FENCE_OLDEST 0) % 65536 := by
  simp only [committedBlk, Blk.on, bne_iff_ne]
  rw [Blk.rd_wr_same]
  rfl

/-- A commit with its event 0x0103. -/
def committedTold (mid : Nat) (b : Blk) : Blk :=
  raiseAs mid acgPage 0x103 sevNotice ((committedBlk b).rd F.ACG_EPOCH_VALUE 0 % 65536) (evB 2) (committedBlk b)

/-- A change of mode is saved and told by event 0x0106. -/
def modeTold (mid mode : Nat) (b : Blk) : Blk :=
  raiseAs mid acgPage 0x106 sevInfo mode 0 { b with acg := { b.acg with savedMode := some mode } }

theorem modeTold_acg (mid mode : Nat) (b : Blk) : (modeTold mid mode b).acg = { b.acg with savedMode := some mode } := acg_raiseAs ..

theorem modeTold_rd (mid mode : Nat) (b : Blk) {f : Fld} {i k : Nat} (hk : evKey acgPage (f.key i k) = false) :
    (modeTold mid mode b).rd f i k = b.rd f i k := rd_raiseAs _ _ _ _ _ _ _ f i k hk

theorem commitProposal_eq (mid : Nat) (b : Blk) : commitProposal mid b =
    if bits (imgWord (committed b.acg.image b.acg.area) 769) 0 1 = bits (imgWord b.acg.image 769) 0 1 then committedTold mid b
    else modeTold mid (bits (imgWord (committed b.acg.image b.acg.area) 769) 0 1) (committedTold mid b) := by
  delta commitProposal modeTold committedTold committedBlk
  rfl

/-- A commit is told, and a change of mode is told and saved; the events change no register of the commit and nothing else of its
state. -/
theorem commitProposal_keeps (mid : Nat) (b : Blk) :
    ((commitProposal mid b).acg.image = (committedBlk b).acg.image ∧ (commitProposal mid b).acg.area = (committedBlk b).acg.area ∧
      (commitProposal mid b).acg.commitAt = (committedBlk b).acg.commitAt) ∧
    ∀ f i k, evKey acgPage (f.key i k) = false → (commitProposal mid b).rd f i k = (committedBlk b).rd f i k := by
  have acg : (committedTold mid b).acg = (committedBlk b).acg := acg_raiseAs ..
  have rd : ∀ f i k, evKey acgPage (f.key i k) = false → (committedTold mid b).rd f i k = (committedBlk b).rd f i k :=
    fun f i k hk => rd_raiseAs _ _ _ _ _ _ _ f i k hk
  rw [commitProposal_eq, ← acg]
  generalize bits (imgWord (committed b.acg.image b.acg.area) 769) 0 1 = mode
  split
  · exact ⟨⟨rfl, rfl, rfl⟩, rd⟩
  · rw [modeTold_acg]
    exact ⟨⟨rfl, rfl, rfl⟩, fun f i k hk => (modeTold_rd _ _ _ hk).trans (rd f i k hk)⟩

/-- The checks of a commit do not depend on time. -/
theorem commitFault_tick (b : Blk) (dt : Nat) (m : Image) : commitFault (b.tick dt) m = commitFault b m := by
  have same : usable (b.tick dt) = usable b := by rw [usable, usable, Blk.rd_tick]
  delta commitFault
  simp only [same]

/-- Settles O16: each command is a write of its word, and the word's step is in turn. -/
theorem proposalCommands : Obligations.ProposalCommands := by
  unfold Obligations.ProposalCommands
  refine ⟨?openProposal, ?proposalOutOfTurn, ?submit, fun _ _ _ _ => rfl, ?withdraw, ?reject, ?propSign, ?propSignRefused,
    ?proposalAreaWrite, ?proposalTimeout, ?commitEffect⟩
  case openProposal =>
    intro s dt mid c hm h hs hc
    have idle : propState (s.blk.tick dt) = 0 := hs
    have inTurn : openRefused mid (s.blk.tick dt) = false := by
      rcases hm with rfl | rfl <;> simp [openRefused, idle]
    change Host.Outcome.next (s.withBlk (regWrite mid 0x20050 1 (s.blk.tick dt))) = _
    rw [regWrite_propCtrl h, propCtrlWrite_open, openBy_in inTurn (openTogether_of_idle idle)]
    have stepped : (((s.blk.tick dt).wr F.ACG_PROP_STAT_STATE 0 psOpen).wr F.ACG_PROP_STAT_PROPOSER 0 mid).step F.ACG_PROP_SEQ_VALUE 0 =
        c := by
      rw [hc, Blk.step, Blk.rd_wr_ne _ _ _ _ _ _ _ _ (by decide), Blk.rd_wr_ne _ _ _ _ _ _ _ _ (by decide), Blk.rd_tick]
    have detail : propDetail c = mid + 64 * ((s.blk.rd F.ACG_PROP_SEQ_VALUE 0 + 1) % 65536) := by
      have proposed : mid % 2 ^ 6 = mid := by omega
      have counted : (s.blk.rd F.ACG_PROP_SEQ_VALUE 0 + 1) % 2 ^ 32 % 65536 = (s.blk.rd F.ACG_PROP_SEQ_VALUE 0 + 1) % 65536 :=
        Nat.mod_mod_of_dvd _ (by decide)
      rw [propDetail, proposer, hc, Blk.rd_wr_ne _ _ _ _ _ _ _ _ (by decide), Blk.rd_wr_same, Blk.rd_wr_same]
      exact congrArg₂ (fun x y => x + 64 * y) proposed counted
    rw [stepped, ← detail, hc]
    rfl
  case proposalOutOfTurn =>
    intro b mid data
    exact ⟨fun h ht => openBy_out (openRefused_eq_true h) ht, fun h => submitBy_out (submitRefused_eq_true h),
      fun h => withdrawBy_out (withdrawRefused_eq_true h),
      fun h => ⟨rejectBy_out (signRefused_eq_true h), signBy_out (signRefused_eq_true h) data⟩⟩
  case submit =>
    rintro s dt mid h ⟨hs, hp⟩ hd
    have inTurn : submitRefused mid (s.blk.tick dt) = false := submitRefused_eq_false hs hp
    have same : ((s.blk.tick dt).rd F.ACG_PROP_DIGEST_DIGEST 0 != openDigest (s.blk.tick dt)) = false := bne_eq_false_iff_eq.2 hd
    change Host.Outcome.next (s.withBlk (regWrite mid 0x20050 2 (s.blk.tick dt))) = _
    rw [regWrite_propCtrl h, propCtrlWrite_submit, submitBy, inTurn, same]
    have detail : propDetail ((s.blk.tick dt).wr F.ACG_PROP_STAT_STATE 0 2) = mid + 64 * (s.blk.rd F.ACG_PROP_SEQ_VALUE 0 % 65536) := by
      rw [propDetail, proposer, Blk.rd_wr_ne _ _ _ _ _ _ _ _ (by decide), Blk.rd_wr_ne _ _ _ _ _ _ _ _ (by decide), ← hp]
      simp only [Blk.rd_tick]
    rw [← detail]
    rfl
  case withdraw =>
    rintro s dt mid h ⟨hs, hp⟩
    have inTurn : withdrawRefused mid (s.blk.tick dt) = false := withdrawRefused_eq_false hs hp
    change Host.Outcome.next (s.withBlk (regWrite mid 0x20050 4 (s.blk.tick dt))) = _
    rw [regWrite_propCtrl h, propCtrlWrite_withdraw, withdrawBy, inTurn]
    rfl
  case reject =>
    rintro s dt mid h ⟨hs, hp⟩ hm
    have inTurn : signRefused mid (s.blk.tick dt) = false := signRefused_eq_false hs hp hm
    change Host.Outcome.next (s.withBlk (regWrite mid 0x20050 8 (s.blk.tick dt))) = _
    rw [regWrite_propCtrl h, propCtrlWrite_reject, rejectBy, inTurn]
    rfl
  case propSign =>
    rintro s dt mid data h ⟨hs, hp⟩ hm hd hf
    have inTurn : signRefused mid (s.blk.tick dt) = false := signRefused_eq_false hs hp hm
    change Host.Outcome.next (s.withBlk (regWrite mid 0x20058 data (s.blk.tick dt))) = _
    rw [regWrite_propSign h, signBy_fits inTurn hd ((commitFault_tick ..).trans hf)]
  case propSignRefused =>
    rintro b mid data ⟨hs, hp⟩ hm
    have inTurn : signRefused mid b = false := signRefused_eq_false hs hp hm
    exact ⟨signBy_otherDigest inTurn, fun d d2 hd hf => signBy_fault inTurn hd hf⟩
  case proposalAreaWrite =>
    rintro s dt mid addr data ⟨ho, -⟩ h ⟨hs, hp⟩
    change Host.Outcome.next (s.withBlk (regWrite mid (0x700000 + addr % 0x100000) data (s.blk.tick dt))) = _
    rw [regWrite_area ho h hs hp]
    rfl
  case proposalTimeout =>
    intro s dt hs hd
    have due : (propState (s.blk.tick dt) != psIdle && Nat.ble (propDue (s.blk.tick dt)) (s.blk.tick dt).now) = true := by
      rw [Bool.and_eq_true, Nat.ble_eq]
      exact ⟨bne_iff_ne.2 hs, hd⟩
    change execProposalTimeout dt s = _
    simp only [execProposalTimeout, eff_next, due, if_true, set_blk]
  case commitEffect =>
    intro b mid
    obtain ⟨⟨image, area, commitAt⟩, rd⟩ := commitProposal_keeps mid b
    refine ⟨by rw [image, committedBlk_acg], by rw [area, committedBlk_acg], by rw [commitAt, committedBlk_acg], ?_, ?_, ?_, ?_, ?_⟩
    all_goals rw [rd _ _ _ (by decide)]
    · exact committedBlk_state b
    · exact committedBlk_epoch b
    · exact committedBlk_digest b
    · exact committedBlk_drained b
    · exact committedBlk_oldest b

end Sys2Proof.Machine
end

