-- ==== Sys2Proof/Proofs/VerdictAndEvents.lean ====
section
/-!
O43: the verdict judged is the worst of its components and is one of them (R73, R86). O46: what the arrival of an event record leaves
unchanged (R57, R65, R69).
-/

namespace Sys2Proof.Machine

/-! ### The verdict -/

/-- The verdict judged is the time component, or FROZEN with a frozen layer, or DEGRADED with a cause of damage. -/
theorem judge_component (now cls decim : Nat) (L : LayerSt) (d : Option Frame) :
    (judge now cls L decim d).1 = (timePart now cls d).1 ∨ ((judge now cls L decim d).1 = 4 ∧ L.frozen = true) ∨
      ((judge now cls L decim d).1 = 5 ∧ damageWhy decim d ≠ 0) := by
  unfold judge
  extract_lets t c w g x
  have content : c.1 = 4 ∧ L.frozen = true ∨ c.1 = 1 := by
    by_cases hf : (L.frozen && cls != 2) = true
    · exact .inl ⟨by simp [c, hf], (Bool.and_eq_true _ _ ▸ hf).1⟩
    · exact .inr (by simp [c, hf])
  have damage : g.1 = 5 ∧ damageWhy decim d ≠ 0 ∨ g.1 = 1 := by
    by_cases hw : w = 0
    · exact .inr (by simp [g, hw])
    · exact .inl ⟨by simp [g, hw], hw⟩
  have live (v : Nat) : vrank 1 ≤ vrank v := Nat.zero_le _
  split
  next better =>
    by_cases later : vrank c.1 < vrank t.1 ∨ c.1 = t.1
    · exact .inl (by simp only [x, later, if_true, t])
    · rcases content with frozen | clear
      · exact .inr (.inl (by simpa [x, later] using frozen))
      · have tie : vrank t.1 = 0 := by
          have := not_or.1 later
          simp only [clear, not_lt] at this
          exact Nat.le_zero.1 this.1
        exact absurd (.inr (clear.trans ((vrank_eq_zero_iff _).1 tie).symm)) later
  next worse =>
    rcases damage with damaged | clear
    · exact .inr (.inr damaged)
    · exact absurd (clear ▸ live x.1) worse

/-- Settles O43, from the rank of the verdict judged (`vrank_judge`) and from the three components it can be. -/
theorem verdictIsTheWorstComponent : Obligations.VerdictIsTheWorstComponent :=
  fun now cls decim L d => ⟨vrank_judge now cls decim L d, judge_component now cls decim L d⟩

/-! ### The arrival of an event record -/

/-- An event record of a page that arrives is recorded there. -/
theorem exec_errRecordArrival (s : State) (dt code sev detail mid : Nat) {page : Nat} {p : Page} (hp : pageOfSlot page = some p)
    (hs : sev ≤ 5) :
    exec (.errRecordArrival dt page code sev detail mid) s =
      .next (s.withBlk (raiseAs mid p code sev detail 0 (s.blk.tick dt))) := by
  change execErrRecordArrival dt page code sev detail mid s = _
  simp only [execErrRecordArrival, eff_next, set_blk, hp, if_neg (Nat.not_lt.2 hs)]

/-- The registers that an event leaves: those beyond the ERR page, outside the page's header, other than PAIR_STAT.READY. -/
theorem evKey_beyond {p : Page} {k : Nat} (beyond : 17 ≤ k / 131072) (outside : k / 131072 ≠ p.slot ∨ 2048 ≤ k % 131072)
    (notReady : k ≠ F.PAIR_STAT_READY.key 0 0) : evKey p k = false := by
  have header : (k / 131072 == p.slot && Nat.blt (k % 131072) 2048) = false := by
    rcases outside with h | h
    · simp [h]
    · rw [Bool.and_eq_false_iff]
      exact .inr (Bool.eq_false_iff.2 fun below => absurd (Nat.blt_eq.mp below) (Nat.not_lt.2 h))
  simp only [evKey, header, Bool.false_or, Bool.or_eq_false_iff, beq_eq_false_iff_ne]
  exact ⟨⟨by omega, by omega⟩, notReady⟩

/-- Settles O46, from what recording an event changes (`moved_raiseAs`, `rd_raiseAs`). -/
theorem recordingAnEventChangesOnlyEventState : Obligations.RecordingAnEventChangesOnlyEventState := by
  unfold Obligations.RecordingAnEventChangesOnlyEventState
  refine ⟨?eventRecordFrame, ?eventRecordOther⟩
  case eventRecordFrame =>
    intro s dt page code sev detail mid p hp hs
    exact ⟨_, exec_errRecordArrival s dt code sev detail mid hp hs, moved_raiseAs ..⟩
  case eventRecordOther =>
    intro s dt page code sev detail mid p f i k hp hs beyond outside notReady
    refine ⟨_, exec_errRecordArrival s dt code sev detail mid hp hs, ?_, rfl⟩
    exact (rd_raiseAs mid p code sev detail 0 _ f i k (evKey_beyond beyond outside notReady)).trans (Blk.rd_tick ..)

end Sys2Proof.Machine
end

