-- ==== Sys2Proof/Proofs/WordsAndWriters.lean ====
section
/-!
O47: what a written word stores (R11, R12). O48: the words and fields that only the safety host writes (R412).
-/

namespace Sys2Proof.Machine

/-! ### Storing a word -/

/-- A barred field keeps its value. -/
theorem storeField_barred {mid : Nat} {h : Hit} (hb : fieldBarred mid h = true) (a data : Nat) (copy : Bool) (b : Blk) :
    storeField mid a data copy h b = b := by
  simp only [storeField, hb, if_true]

/-- Storing one field changes no register but the field's. -/
theorem holds_storeField {b c : Blk} {ps : List Page} {ks : List Nat} (mid a data : Nat) (copy : Bool) (h : Hit)
    (hk : h.f.key h.i h.k ∈ ks) (hc : b.holds c ps ks) : b.holds (storeField mid a data copy h c) ps ks := by
  have written (v : Nat) : b.holds (c.wr h.f h.i v h.k) ps ks := Blk.holds_wr h.f h.i v h.k hk hc
  unfold storeField
  split
  · exact hc
  · split
    · exact written _
    · exact written _
    · split
      · exact hc
      · exact written _
    · split
      · exact hc
      · exact written _
    · exact hc

/-- Storing one field changes nothing beside registers. -/
theorem rest_storeField (mid a data : Nat) (copy : Bool) (h : Hit) (b : Blk) : (storeField mid a data copy h b).rest = b.rest := by
  unfold storeField
  repeat' split
  all_goals rfl

/-- Storing the fields of a list changes no register but theirs. -/
theorem holds_storeFields {b c : Blk} {ps : List Page} {ks : List Nat} (mid a data : Nat) (copy : Bool) (l : List Hit)
    (hk : ∀ h ∈ l, h.f.key h.i h.k ∈ ks) (hc : b.holds c ps ks) : b.holds (forEach l (storeField mid a data copy) c) ps ks := by
  induction l generalizing c with
  | nil => exact hc
  | cons h t ih =>
    exact ih (fun g hg => hk g (List.mem_cons_of_mem _ hg)) (holds_storeField mid a data copy h (hk h (List.mem_cons_self ..)) hc)

/-- Staging a word changes the staged words at most. -/
theorem stageWord_staged (mid a data : Nat) (copy : Bool) (b : Blk) :
    ∃ m, stageWord mid a data copy b = { b with ctl := { b.ctl with staged := m } } := by
  unfold stageWord
  extract_lets busy
  split
  · exact ⟨_, rfl⟩
  · exact ⟨_, rfl⟩

/-- A word all of whose fields wait for a cue waits staged with its writer, and stores nothing. -/
theorem stored_staged {a : Nat} {p : Page} {o : Nat} (t : target a = .page p o) (hp : p.stagedCap = true) (ho : o ≠ 0x08)
    (hr : ((hitsAt a).all fun h => h.f.acc == .rws) = true) (he : (hitsAt a).isEmpty = false) (mid data : Nat) (b : Blk) :
    stored mid a data b =
      { b with ctl := { b.ctl with staged := mset b.ctl.staged a ⟨data % 2 ^ 32, mid, mgmtCycle b, stagedBefore b a⟩ } } := by
  have allStaged := List.all_eq_true.1 hr
  have onStaged : stages a = true := by simp only [stages, t, hp]
  have someStaged : ((hitsAt a).any fun h => h.f.acc == .rws) = true := by
    obtain ⟨h, rest, e⟩ := List.ne_nil_iff_exists_cons.1 (List.isEmpty_eq_false_iff.1 he)
    exact List.any_eq_true.2 ⟨h, by simp [e], allStaged h (by simp [e])⟩
  rw [stored, forEach_id _ fun h hh b => storeField_rws false h (beq_iff_eq.1 (allStaged h hh)) onStaged]
  simp [stageWord, t, onStaged, someStaged, ho]

/-- Settles O47, from what storing a field and staging a word change. -/
theorem writtenWordStoresItsOwnFields : Obligations.WrittenWordStoresItsOwnFields := by
  unfold Obligations.WrittenWordStoresItsOwnFields
  refine ⟨?storedFrame, ?readOnlyWord, ?stagedWord, ?lastWriteStands⟩
  case storedFrame =>
    intro b mid a data
    obtain ⟨m, staged⟩ := stageWord_staged mid a data false b
    refine ⟨holds_storeFields mid a data false _ (fun h hh => List.mem_map_of_mem hh) ?_, m, ?_⟩
    · exact Blk.holds_of_regs (by rw [staged]) (Blk.holds_refl b _ _)
    · rw [stored, forEach_keeps Blk.rest fun h => rest_storeField mid a data false h, staged]
  case readOnlyWord =>
    intro b mid a data hr
    have readOnly : ∀ h ∈ hitsAt a, h.f.acc = .ro := fun h hh => beq_iff_eq.1 (List.all_eq_true.1 hr h hh)
    rw [stored, forEach_id _ fun h hh b => storeField_none false h (by rw [readOnly h hh]; rfl), stageWord_none]
    exact List.any_eq_false.2 fun h hh => by rw [readOnly h hh]; decide
  case stagedWord =>
    rintro b mid a data p o ⟨t, hp, ho⟩ ⟨hr, he⟩
    exact stored_staged t hp ho hr he mid data b
  case lastWriteStands =>
    rintro b mid mid' a d d' p o ⟨t, hp, ho⟩ ⟨hr, he⟩
    rw [stored_staged t hp ho hr he mid' d', stored_staged t hp ho hr he mid d]
    exact ⟨by rw [mget_mset, if_pos rfl]; rfl, rfl⟩

/-! ### The words of the safety host -/

/-- The page that an address targets is one of the pages of its block. -/
theorem inst_lt_of_target {a : Nat} {p : Page} {o : Nat} (t : target a = .page p o) : p.inst < p.blk.pages := by
  unfold target at t
  split_ifs at t
  split at t
  next hp =>
    cases t
    exact (slot_of_page hp).2.1
  next => cases t

/-- The access-control slot of a word that only the safety host may write is that of the system page, the prompter's global page or a
stage. -/
theorem acgSlot_of_safeOnly {a : Nat} (h : safeOnly a = true) :
    ∃ k, acgSlot a = some k ∧ (k = 0 ∨ k = 224 ∨ 176 ≤ k ∧ k < 200) := by
  unfold safeOnly at h
  split at h
  next p o t =>
    have inst := inst_lt_of_target t
    simp only [Bool.or_eq_true, Bool.and_eq_true, beq_iff_eq] at h
    rcases h with (⟨⟨sys, -⟩, -⟩ | ⟨⟨prm, inst24⟩, -⟩) | ⟨⟨stg, -⟩, -⟩
    · exact ⟨0, by simp only [acgSlot, t, sys], .inl rfl⟩
    · exact ⟨224, by simp only [acgSlot, t, prm, inst24], .inr (.inl rfl)⟩
    · rw [stg] at inst
      have : p.inst < 24 := inst
      exact ⟨176 + p.inst, by simp only [acgSlot, t, stg], by omega⟩
  next => cases h

/-- The fixed rules refuse a write of a safety host's word by any other MID, with kind 3. -/
theorem regCheck_safeOnly {mid a : Nat} (h : safeOnly a = true) (h4 : mid ≠ 0x04) (h20 : mid ≠ 0x20) (b : Blk) :
    regCheck b mid a true = some 3 := by
  obtain ⟨k, slot, range⟩ := acgSlot_of_safeOnly h
  simp only [regCheck, slot, h, Bool.not_true, Bool.false_and, Bool.false_eq_true, Bool.true_and, beq_eq_false_iff_ne.2 h4,
    beq_eq_false_iff_ne.2 h20, Bool.or_false, Bool.not_false, if_true, if_false]
  rw [if_neg (by omega), if_neg (by omega), if_neg (by omega), if_neg (by omega), if_neg (by omega)]

/-- The fields of OHD_CURT of a head. -/
theorem hitsAt_curt {i : Nat} (hi : i < 24) : hitsAt ((Block.ohd.slot + i) * 0x1000 + 0x74) =
    [⟨F.OHD_CURT_FORCE_OPS, i, 0, 0⟩, ⟨F.OHD_CURT_FORCE_SAFE, i, 0, 0⟩, ⟨F.OHD_CURT_TEXT_EN, i, 0, 0⟩, ⟨F.OHD_CURT_RECOVER, i, 0, 0⟩] :=
  (hitsAt_block (pageOfSlot_slot ⟨.ohd, i⟩ hi) 0x74 (by decide) (by decide) .ohd rfl).trans rfl

/-- FORCE_SAFE is barred to every MID but the safety host's, the pair's copy of it, and the show's. -/
theorem fieldBarred_forceSafe {mid : Nat} (h4 : mid ≠ 0x04) (h20 : mid ≠ 0x20) (h0 : mid ≠ 0) (i : Nat) :
    fieldBarred mid ⟨F.OHD_CURT_FORCE_SAFE, i, 0, 0⟩ = true := by
  simp [fieldBarred, Fld.safeField, h4, h20, h0, F.OHD_CURT_FORCE_SAFE]

/-- A word stored to OHD_CURT by another MID keeps FORCE_SAFE. -/
theorem rd_forceSafe_stored {mid i : Nat} (hi : i < 24) (h4 : mid ≠ 0x04) (h20 : mid ≠ 0x20) (h0 : mid ≠ 0) (data : Nat) (b : Blk) :
    (stored mid ((Block.ohd.slot + i) * 0x1000 + 0x74) data b).rd F.OHD_CURT_FORCE_SAFE i = b.rd F.OHD_CURT_FORCE_SAFE i := by
  have kept (f : Fld) (hk : f.key i 0 ≠ F.OHD_CURT_FORCE_SAFE.key i 0) (c : Blk) :
      (storeField mid ((Block.ohd.slot + i) * 0x1000 + 0x74) data false ⟨f, i, 0, 0⟩ c).rd F.OHD_CURT_FORCE_SAFE i =
        c.rd F.OHD_CURT_FORCE_SAFE i :=
    Blk.holds_rd (holds_storeField mid _ data false ⟨f, i, 0, 0⟩ (List.mem_singleton_self _) (Blk.holds_refl c [] _)) _ _ _ (by simp)
      (by simpa using Ne.symm hk)
  rw [stored, stageWord_none (by rw [hitsAt_curt hi]; rfl), hitsAt_curt hi]
  simp only [forEach, List.foldl_cons, List.foldl_nil]
  rw [kept F.OHD_CURT_RECOVER, kept F.OHD_CURT_TEXT_EN, storeField_barred (fieldBarred_forceSafe h4 h20 h0 i), kept F.OHD_CURT_FORCE_OPS]
  all_goals simp [Fld.key, Fld.addr, F.OHD_CURT_RECOVER, F.OHD_CURT_TEXT_EN, F.OHD_CURT_FORCE_OPS, F.OHD_CURT_FORCE_SAFE]

/-- A word for OHD_CURT of another MID changes a restricted field exactly when it asks for another FORCE_SAFE. -/
theorem changesRestricted_curt {mid i : Nat} (hi : i < 24) (h4 : mid ≠ 0x04) (h20 : mid ≠ 0x20) (h0 : mid ≠ 0) (data : Nat) (b : Blk) :
    changesRestricted b ((Block.ohd.slot + i) * 0x1000 + 0x74) mid data = true ↔ b.rd F.OHD_CURT_FORCE_SAFE i ≠ bits data 1 1 := by
  have merged : fldMerge F.OHD_CURT_FORCE_SAFE (b.rd F.OHD_CURT_FORCE_SAFE i) 0 data = bits data 1 1 := fldMerge_eq _ _ _ (by decide)
  have others : F.OHD_CURT_FORCE_OPS.safeField = false ∧ F.OHD_CURT_TEXT_EN.safeField = false ∧
    F.OHD_CURT_RECOVER.safeField = false := by decide
  have safe : F.OHD_CURT_FORCE_SAFE.safeField = true := by decide
  simp only [changesRestricted, hitsAt_curt hi, List.any_cons, List.any_nil, others, safe, merged, beq_eq_false_iff_ne.2 h4,
    beq_eq_false_iff_ne.2 h20, beq_eq_false_iff_ne.2 h0, Bool.false_and, Bool.or_false, Bool.false_or, Bool.not_false, Bool.true_and,
    bne_iff_ne, ne_comm]

/-- Settles O48, from the fixed rule of access control and from the field that OHD_CURT bars. -/
theorem onlyTheSafetyHostWritesItsWords : Obligations.OnlyTheSafetyHostWritesItsWords := by
  unfold Obligations.OnlyTheSafetyHostWritesItsWords
  refine ⟨?safetyWordRefused, ?safetyWriteReported, ?forceSafeKept⟩
  case safetyWordRefused =>
    rintro b mid a hs ⟨h4, h20⟩
    exact regCheck_safeOnly hs h4 h20 b
  case safetyWriteReported =>
    rintro s dt mid addr data b rfl ⟨hs, hm⟩ ⟨h4, h20⟩ hf
    refine ⟨_, ?_, rfl, holds_regViolation _ _ _ _ _⟩
    rw [exec_registerWrite_word, busWrite_refused_at hm hf (regCheck_safeOnly hs h4 h20 _)]
  case forceSafeKept =>
    rintro b mid i data hi ⟨h4, h20, h0⟩
    exact ⟨rd_forceSafe_stored hi h4 h20 h0 data b, changesRestricted_curt hi h4 h20 h0 data b⟩

end Sys2Proof.Machine
end

