-- ==== Sys2Proof/Proofs/LineCode.lean ====
section
/-!
O54: the scrambler and the descrambler of R310. O55: the markers of R312 and the block lock of R313.
-/

namespace Sys2Proof.Machine

/-! ### The scrambler -/

/-- The bit that the scrambler sends is the bit given plus those sent 39 and 58 bits before. -/
theorem scramble_succ_bit (n s v : Nat) : (scramble (n + 1) s v).1 % 2 = (v + s / 2 ^ 19 + s) % 2 := by
  simp only [scramble]; omega

/-- The bits after the first are those of the state that the first bit sent leaves. -/
theorem scramble_succ_rest (n s v : Nat) :
    (scramble (n + 1) s v).1 / 2 = (scramble n (s / 2 + 2 ^ 57 * ((scramble (n + 1) s v).1 % 2)) (v / 2)).1 := by
  rw [scramble_succ_bit]
  simp only [scramble]
  omega

/-- The state after scrambling is the one after the first bit sent, then scrambling the rest. -/
theorem scramble_succ_state (n s v : Nat) :
    (scramble (n + 1) s v).2 = (scramble n (s / 2 + 2 ^ 57 * ((scramble (n + 1) s v).1 % 2)) (v / 2)).2 := by
  rw [scramble_succ_bit]
  rfl

/-- Descrambling gives back what was scrambled from the same state, and follows the same states. -/
theorem descramble_scramble (n s v : Nat) (hv : v < 2 ^ n) : descramble n s (scramble n s v).1 = (v, (scramble n s v).2) := by
  induction n generalizing s v with
  | zero =>
    have : v = 0 := by omega
    subst this
    rfl
  | succ n ih =>
    have rest : v / 2 < 2 ^ n := by omega
    have firstBit : (v + s / 2 ^ 19 + s + s / 2 ^ 19 + s) % 2 = v % 2 := by omega
    have bit : ((scramble (n + 1) s v).1 + s / 2 ^ 19 + s) % 2 = v % 2 := by
      have := scramble_succ_bit n s v
      omega
    rw [descramble, scramble_succ_rest, ih _ _ rest, ← scramble_succ_state, bit]
    simp only [Prod.mk.injEq, and_true]
    omega

/-- After n ≤ 58 bits a descrambler's state holds the n bits received above what is left of the state before. -/
theorem descramble_state (n s v : Nat) (hn : n ≤ 58) :
    (descramble n s v).2 = s / 2 ^ n + 2 ^ (58 - n) * (v % 2 ^ n) := by
  induction n generalizing s v with
  | zero => simp [descramble, Nat.mod_one]
  | succ n ih =>
    have split57 : 2 ^ 57 = 2 ^ n * 2 ^ (57 - n) := by rw [← pow_add]; congr 1; omega
    have double : 2 ^ (58 - n) = 2 * 2 ^ (57 - n) := by rw [← pow_succ']; congr 1; omega
    have received : v % 2 ^ (n + 1) = v % 2 + 2 * (v / 2 % 2 ^ n) := by rw [pow_succ', Nat.mod_mul]
    have shifted : (s / 2 + 2 ^ 57 * (v % 2)) / 2 ^ n = s / 2 ^ (n + 1) + 2 ^ (57 - n) * (v % 2) := by
      rw [split57, mul_assoc, Nat.add_mul_div_left _ _ (Nat.two_pow_pos n), Nat.div_div_eq_div_mul, pow_succ']
    calc (descramble (n + 1) s v).2 = (descramble n (s / 2 + 2 ^ 57 * (v % 2)) (v / 2)).2 := rfl
      _ = s / 2 ^ (n + 1) + 2 ^ (57 - n) * (v % 2) + 2 ^ (58 - n) * (v / 2 % 2 ^ n) := by rw [ih _ _ (by omega), shifted]
      _ = s / 2 ^ (n + 1) + 2 ^ (57 - n) * (v % 2 ^ (n + 1)) := by rw [double, received]; ring
      _ = s / 2 ^ (n + 1) + 2 ^ (58 - (n + 1)) * (v % 2 ^ (n + 1)) := by rw [Nat.sub_add_eq, Nat.sub_right_comm]

/-- Settles O54, by induction on the number of bits. -/
theorem scramblerRoundTrips : Obligations.ScramblerRoundTrips := by
  unfold Obligations.ScramblerRoundTrips
  refine ⟨?roundTrip, ?selfSynchronous, ?oneBit⟩
  case roundTrip => exact descramble_scramble
  case selfSynchronous =>
    intro s v hs
    rw [descramble_state 58 s v le_rfl, Nat.div_eq_of_lt hs, Nat.zero_add, Nat.sub_self, pow_zero, one_mul]
  case oneBit => exact fun n s v => ⟨scramble_succ_bit n s v, scramble_succ_rest n s v⟩

/-! ### The markers -/

/-- A payload differs from a marker's in the bits that are wrong in it. -/
theorem bitsApart_xor (p e : Nat) : bitsApart (Nat.xor p e) p = ((List.range 64).filter fun i => Nat.testBit e i).length := by
  have differs (i : Nat) : (Nat.testBit (Nat.xor p e) i != Nat.testBit p i) = Nat.testBit e i := by
    rw [show Nat.testBit (Nat.xor p e) i = (p.testBit i ^^ e.testBit i) from Nat.testBit_xor ..]
    cases p.testBit i <;> cases e.testBit i <;> rfl
  simp only [bitsApart, differs]

/-- A block matches a marker exactly with its header and at most 3 of its 64 payload bits wrong. -/
theorem markerMatch_xor (l h e : Nat) : markerMatch l h (Nat.xor (markerPayload l) e) = true ↔
    h = 1 ∧ ((List.range 64).filter fun i => Nat.testBit e i).length ≤ 3 := by
  simp only [markerMatch, bitsApart_xor, Bool.and_eq_true, beq_iff_eq, Nat.ble_eq]

/-- The markers of the four lanes as they are sent are found with their lanes. -/
theorem markerLane_own : ∀ l < 4, markerLane 1 (markerPayload l) = some l := by decide +kernel

/-- The layout of the markers of the four lanes. -/
theorem markerPayload_layout : ∀ l < 4, bits (markerPayload l) 0 8 = 0xD2 ∧ bits (markerPayload l) 8 8 = l ∧
    bits (markerPayload l) 16 32 = 0x5C3AF0C6 ∧ Nat.xor (bits (markerPayload l) 0 16) (bits (markerPayload l) 48 16) = 0xFFFF := by
  decide +kernel

/-! ### Gaining the lock -/

section
variable {x : LineSt}

/-- A lane that hunts takes the lane of a marker it finds. -/
theorem lineStep_hunt {p l : Nat} (h : x.st = 0) (hp : markerLane 1 p = some l) :
    lineStep x (.marker 1 p) = { x with st := lineConfirm, logical := l, seen := 1, cws := 0, bad := 0 } := by
  simp only [lineStep, h, hp]

/-- A lane before the third marker: it has found two, one alignment period apart, with n uncorrectable codewords between them. -/
def twoMarkers (x : LineSt) (l n : Nat) : LineSt :=
  { x with st := lineConfirm, logical := l, seen := 2, cws := periodWords, bad := n }

/-- The third marker locks the lane, where fewer than 4 codewords were uncorrectable. -/
theorem twoMarkers_third {l p n : Nat} (hm : markerMatch l 1 p = true) (hn : n < 4) :
    lineStep (twoMarkers x l n) (.marker 1 p) =
      { x with st := lineLocked, logical := l, seen := 3, cws := 0, bad := 0, miss := 0, blocks := 0, heads := [] } := by
  simp [lineStep, twoMarkers, lineConfirm, periodWords, hm, hn]

/-- In place of the third marker another block, or the marker after 4 or more uncorrectable codewords, sends the lane back to HUNT. -/
theorem twoMarkers_refused {l p n : Nat} (hr : 4 ≤ n ∨ markerMatch l 1 p = false) :
    lineStep (twoMarkers x l n) (.marker 1 p) = {} := by
  rcases hr with hn | hm
  · simp [lineStep, twoMarkers, lineConfirm, periodWords, Nat.not_lt.2 hn, LineSt.again]
  · simp [lineStep, twoMarkers, lineConfirm, periodWords, hm, LineSt.again]

/-- From HUNT, what a lane observes up to the third marker leaves two markers found. -/
theorem lineRun_twoMarkers {l p p1 n : Nat} (h : x.st = 0) (hp : markerLane 1 p = some l) (h1 : markerMatch l 1 p1 = true)
    (hn : n ≤ 2112) (p2 : Nat) :
    lineRun x [.marker 1 p, .codewords (2112 - n) true, .codewords n false, .marker 1 p1, .codewords 2112 true, .marker 1 p2] =
      lineStep (twoMarkers x l n) (.marker 1 p2) := by
  have period : 2112 - n + n = 2112 := Nat.sub_add_cancel hn
  have found : lineStep (lineStep (lineStep (lineStep (lineStep x (.marker 1 p)) (.codewords (2112 - n) true)) (.codewords n false))
      (.marker 1 p1)) (.codewords 2112 true) = twoMarkers x l n := by
    rw [lineStep_hunt h hp]
    simp [lineStep, lineConfirm, periodWords, twoMarkers, period, h1]
  exact congrArg (lineStep · (.marker 1 p2)) found

end

/-! ### Losing the lock -/

section
variable {x : LineSt} (h : x.st = 2)
include h

/-- A locked lane at a marker position: the third marker missing in a row ends the lock. -/
theorem lineStep_locked_marker (hd p : Nat) : lineStep x (.marker hd p) =
    if 3 ≤ (if markerMatch x.logical hd p then 0 else x.miss + 1) then {}
    else { x with cws := 0, miss := if markerMatch x.logical hd p then 0 else x.miss + 1 } := by
  simp only [lineStep, h, LineSt.again]

/-- A locked lane at codewords: the fourth uncorrectable one in a row ends the lock. -/
theorem lineStep_locked_codewords (n : Nat) (ok : Bool) : lineStep x (.codewords n ok) =
    if n = 0 then x else if 4 ≤ (if ok then 0 else x.bad + n) then {}
    else { x with cws := x.cws + n, bad := if ok then 0 else x.bad + n } := by
  simp only [lineStep, h, LineSt.again]

/-- A locked lane at block headers: the thirty-second invalid one within 1,024 blocks ends the lock. -/
theorem lineStep_locked_headers (n : Nat) (ok : Bool) : lineStep x (.headers n ok) =
    if ok then { x with blocks := x.blocks + n }
    else if (headersBad n x.blocks x.heads).2 then {}
    else { x with blocks := x.blocks + n, heads := (headersBad n x.blocks x.heads).1 } := by
  simp only [lineStep, h, LineSt.again]

/-- A lane that loses its lock hunts afresh, and only for one of the three causes. -/
theorem lineStep_lost {o : LineObs} (lost : (lineStep x o).st ≠ 2) :
    lineStep x o = {} ∧ ((∃ h p, o = .marker h p ∧ markerMatch x.logical h p = false ∧ 2 ≤ x.miss) ∨
      (∃ n, o = .codewords n false ∧ 4 ≤ x.bad + n) ∨ (∃ n, o = .headers n false ∧ (headersBad n x.blocks x.heads).2 = true)) := by
  cases o with
  | marker hd p =>
    rw [lineStep_locked_marker h] at lost ⊢
    cases matched : markerMatch x.logical hd p
    · by_cases third : 3 ≤ x.miss + 1
      · exact ⟨by simp [third], .inl ⟨hd, p, rfl, matched, by omega⟩⟩
      · exact absurd h (by simpa [matched, third] using lost)
    · exact absurd h (by simpa [matched] using lost)
  | codewords n ok =>
    rw [lineStep_locked_codewords h] at lost ⊢
    by_cases none : n = 0
    · exact absurd h (by simpa [none] using lost)
    · cases ok
      · by_cases fourth : 4 ≤ x.bad + n
        · exact ⟨by simp [none, fourth], .inr (.inl ⟨n, rfl, fourth⟩)⟩
        · exact absurd h (by simpa [none, fourth] using lost)
      · exact absurd h (by simpa [none] using lost)
  | headers n ok =>
    rw [lineStep_locked_headers h] at lost ⊢
    cases ok
    · cases bad : (headersBad n x.blocks x.heads).2
      · exact absurd h (by simpa [bad] using lost)
      · exact ⟨by simp, .inr (.inr ⟨n, rfl, bad⟩)⟩
    · exact absurd h (by simpa using lost)

end

/-- Settles O55, from the layout of the markers and from what each observation does to a lane that hunts, confirms or is locked. -/
theorem blockLockGainAndLoss : Obligations.BlockLockGainAndLoss := by
  unfold Obligations.BlockLockGainAndLoss
  refine ⟨markerMatch_xor, ?ownMarker, ?lockGained, ?lockRefused, ?lockLost, ?lockLostBy⟩
  case ownMarker => exact fun l hl => ⟨markerLane_own l hl, markerPayload_layout l hl⟩
  case lockGained =>
    rintro x l p p1 p2 n ⟨h, hp, h1, h2, hn⟩
    rw [lineRun_twoMarkers h hp h1 (by omega), twoMarkers_third h2 hn]
    exact ⟨rfl, rfl⟩
  case lockRefused =>
    rintro x l p p1 p2 n ⟨h, hp, h1⟩ hr hn
    rw [lineRun_twoMarkers h hp h1 hn, twoMarkers_refused (hr.imp And.left id)]
  case lockLost => exact fun x o ⟨h, lost⟩ => lineStep_lost h lost
  case lockLostBy =>
    intro x h
    refine ⟨fun hd p missing two => ?_, fun n some four => ?_, fun n bad => ?_⟩
    · rw [lineStep_locked_marker h, missing]
      exact if_pos (by simpa using two)
    · rw [lineStep_locked_codewords h, if_neg (by omega)]
      exact if_pos four
    · rw [lineStep_locked_headers h, bad]
      rfl

end Sys2Proof.Machine
end

