-- ==== Sys2Proof/Proofs/Pipeline.lean ====
section
/-!
O56: the head pipeline delay at the slowest pixel clock that a head accepts (R249, R254).
-/

namespace Sys2Proof.Machine

/-- A timing that a cue accepts has a pixel clock of 50 MHz at least. -/
theorem pixClock_of_timingOk {b : Blk} {h : Nat} (ok : timingOk b h = true) :
    50000000 * (pixClock b h).2 ≤ (pixClock b h).1 := by
  simp only [timingOk, Bool.and_eq_true, Nat.ble_eq] at ok
  obtain ⟨⟨-, least⟩, -⟩ := ok
  exact least

/-- 32 characters of two pixels take 1.28 µs at 50 MHz and no longer at a faster clock. -/
theorem characters_le {n d : Nat} (least : 50000000 * d ≤ n) : 32 * (2 * d * 1000000000000) / n ≤ 1280000 :=
  Nat.div_le_of_le_mul (by omega)

/-- Settles O56, from the pixel clock that a timing within R249 has. -/
theorem pipelineWithinItsLimit : Obligations.PipelineWithinItsLimit := by
  unfold Obligations.PipelineWithinItsLimit
  refine ⟨?limit, ?reached⟩
  case limit =>
    intro b h r ok
    have characters := characters_le (pixClock_of_timingOk ok)
    have coding : (if r ≤ 1 then 360000 else 420000) ≤ 420000 := by split <;> decide
    have mst : (if b.on F.OHD_CTRL_MST h then 60000 else 0) ≤ 60000 := by split <;> decide
    simp only [pipelineSum]
    omega
  case reached =>
    rintro b h r ⟨clock, positive⟩ ⟨mst, uhbr⟩
    have characters : 32 * (2 * (pixClock b h).2 * 1000000000000) / (pixClock b h).1 = 1280000 := by
      rw [clock]
      exact Nat.div_eq_of_eq_mul_left (by omega) (by omega)
    simp only [pipelineSum, characters, mst, if_true, if_neg (Nat.not_le.2 uhbr)]

end Sys2Proof.Machine
end

