-- ==== Sys2Proof/Proofs/HeaderCommands.lean ====
section
/-!
O10: the commands on the header of a page (R56, R57, R61, R62).
-/

namespace Sys2Proof.Machine

/-! ### Words of a header -/

/-- Writing a field leaves the other fields of its word. -/
theorem Blk.rd_wr_word {f g : Fld} (hk : g.kind = f.kind) (ho : g.off = f.off) (hl : g.lo ≠ f.lo) (b : Blk) (i v : Nat) :
    (b.wr f i v).rd g i = b.rd g i := by
  refine Blk.rd_wr_ne _ _ _ _ _ _ _ _ ?_
  simp only [Fld.key, Fld.addr, hk, ho, Nat.zero_mul, Nat.add_zero]
  omega

/-- A header word's key is the key of no block field of a page. -/
theorem header_key_ne {f : Fld} (hk : f.kind = .lfp) (ho : 0x40 ≤ f.off) (hl : f.lo < 32) (hx : f.off < 0x1000) {g : Fld}
    (gk : g.kind = .hdr) (go : g.off < 0x40) (gl : g.lo < 32) (page i : Nat) : f.key i 0 ≠ g.key page 0 := by
  simp only [Fld.key, Fld.addr, hk, gk, Kind.base]
  omega

section
variable {b : Blk} {mid page data : Nat} {p : Page} (hp : pageOfSlot page = some p)
include hp

/-- An accepted write of PG_EVT clears the flags that are written 1, and the page's vector goes out again where one still stands. -/
theorem regWrite_pgEvt (h : accepts b mid (page * 0x1000 + 0x10) data = true) :
    regWrite mid (page * 0x1000 + 0x10) data b = resendVector p (b
      |>.wr F.PG_EVT_ERROR page (cleared (b.rd F.PG_EVT_ERROR page) (bits (cleared data (freshFlags b (page * 0x1000 + 0x10))) 0 1))
      |>.wr F.PG_EVT_CUE_DONE page (cleared (b.rd F.PG_EVT_CUE_DONE page) (bits (cleared data (freshFlags b (page * 0x1000 + 0x10))) 1 1))
      |>.wr F.PG_EVT_CUE_REFUSED page (cleared (b.rd F.PG_EVT_CUE_REFUSED page) (bits (cleared data (freshFlags b (page * 0x1000 + 0x10))) 2 1))
      |>.wr F.PG_EVT_RESET_DONE page (cleared (b.rd F.PG_EVT_RESET_DONE page) (bits (cleared data (freshFlags b (page * 0x1000 + 0x10))) 3 1))
      |>.wr F.PG_EVT_BLOCK page (cleared (b.rd F.PG_EVT_BLOCK page) (bits (cleared data (freshFlags b (page * 0x1000 + 0x10))) 16 16))) := by
  have word : hitsIn .hdr page 0x10 = [⟨F.PG_EVT_ERROR, page, 0, 0⟩, ⟨F.PG_EVT_CUE_DONE, page, 0, 0⟩, ⟨F.PG_EVT_CUE_REFUSED, page, 0, 0⟩,
    ⟨F.PG_EVT_RESET_DONE, page, 0, 0⟩, ⟨F.PG_EVT_BLOCK, page, 0, 0⟩] := rfl
  rw [regWrite, busWrite_header hp (by decide) (by decide) (by decide) h word (by rfl)]
  simp only [forEach, List.foldl_cons, List.foldl_nil, headerWrote, Bool.false_eq_true, if_false,
    storeField_w1c (f := F.PG_EVT_ERROR) rfl rfl rfl (by decide), storeField_w1c (f := F.PG_EVT_CUE_DONE) rfl rfl rfl (by decide),
    storeField_w1c (f := F.PG_EVT_CUE_REFUSED) rfl rfl rfl (by decide), storeField_w1c (f := F.PG_EVT_RESET_DONE) rfl rfl rfl (by decide),
    storeField_w1c (f := F.PG_EVT_BLOCK) rfl rfl rfl (by decide), freshFlags_wr]
  simp (disch := decide) only [Blk.rd_wr_word]
  rfl

/-- An accepted write of PG_EVT_EN stores the word, and the page's vector goes out again where an enabled flag stands. -/
theorem regWrite_pgEvtEn (h : accepts b mid (page * 0x1000 + 0x14) data = true) :
    regWrite mid (page * 0x1000 + 0x14) data b = resendVector p (b
      |>.wr F.PG_EVT_EN_ERROR page (bits data 0 1) |>.wr F.PG_EVT_EN_CUE_DONE page (bits data 1 1)
      |>.wr F.PG_EVT_EN_CUE_REFUSED page (bits data 2 1) |>.wr F.PG_EVT_EN_RESET_DONE page (bits data 3 1)
      |>.wr F.PG_EVT_EN_BLOCK page (bits data 16 16)) := by
  have word : hitsIn .hdr page 0x14 = [⟨F.PG_EVT_EN_ERROR, page, 0, 0⟩, ⟨F.PG_EVT_EN_CUE_DONE, page, 0, 0⟩,
    ⟨F.PG_EVT_EN_CUE_REFUSED, page, 0, 0⟩, ⟨F.PG_EVT_EN_RESET_DONE, page, 0, 0⟩, ⟨F.PG_EVT_EN_BLOCK, page, 0, 0⟩] := rfl
  rw [regWrite, busWrite_header hp (by decide) (by decide) (by decide) h word (by rfl)]
  simp only [forEach, List.foldl_cons, List.foldl_nil, headerWrote,
    storeField_rw (f := F.PG_EVT_EN_ERROR) false rfl rfl rfl (by decide) rfl,
    storeField_rw (f := F.PG_EVT_EN_CUE_DONE) false rfl rfl rfl (by decide) rfl,
    storeField_rw (f := F.PG_EVT_EN_CUE_REFUSED) false rfl rfl rfl (by decide) rfl,
    storeField_rw (f := F.PG_EVT_EN_RESET_DONE) false rfl rfl rfl (by decide) rfl,
    storeField_rw (f := F.PG_EVT_EN_BLOCK) false rfl rfl rfl (by decide) rfl]
  rfl

/-- An accepted write of PG_ERRCNT.CLEAR leaves COUNT at 0, or at 1 where an event of the page falls in the same cycle. -/
theorem busWrite_errcntClear (h : accepts b mid (page * 0x1000 + 0x18) (2 ^ 31) = true) (port : Nat) (same : Bool) :
    busWrite port mid (page * 0x1000 + 0x18) (2 ^ 31) 15 false same b =
      b.wr F.PG_ERRCNT_COUNT page (b2n (same || freshFlags b (page * 0x1000 + 0x1C) != 0)) := by
  have word : hitsIn .hdr page 0x18 = [⟨F.PG_ERRCNT_COUNT, page, 0, 0⟩, ⟨F.PG_ERRCNT_CLEAR, page, 0, 0⟩] := rfl
  rw [busWrite_header hp (by decide) (by decide) (by decide) h word (by rfl)]
  simp only [forEach, List.foldl_cons, List.foldl_nil, storeField_none false ⟨F.PG_ERRCNT_COUNT, page, 0, 0⟩ rfl,
    storeField_none false ⟨F.PG_ERRCNT_CLEAR, page, 0, 0⟩ rfl, headerWrote, (slot_of_page hp).1]
  exact if_pos (by decide)

/-- An accepted write of PG_FIRST_ERR.VALID clears it, and the register captures what events of the same cycle left it. -/
theorem regWrite_firstErrClear (h : accepts b mid (page * 0x1000 + 0x1C) (2 ^ 31) = true) :
    regWrite mid (page * 0x1000 + 0x1C) (2 ^ 31) b = recapture (page * 0x1000 + 0x1C)
      (fun b => b.rstF F.PG_FIRST_ERR_CODE page |>.rstF F.PG_FIRST_ERR_DETAIL page |>.rstF F.PG_FIRST_ERR_SEV page)
      (b.wr F.PG_FIRST_ERR_VALID page (cleared (b.rd F.PG_FIRST_ERR_VALID page)
        (bits (cleared (2 ^ 31) (freshFlags b (page * 0x1000 + 0x1C))) 31 1))) := by
  have word : hitsIn .hdr page 0x1C = [⟨F.PG_FIRST_ERR_CODE, page, 0, 0⟩, ⟨F.PG_FIRST_ERR_DETAIL, page, 0, 0⟩,
    ⟨F.PG_FIRST_ERR_SEV, page, 0, 0⟩, ⟨F.PG_FIRST_ERR_VALID, page, 0, 0⟩] := rfl
  rw [regWrite, busWrite_header hp (by decide) (by decide) (by decide) h word (by rfl)]
  simp only [forEach, List.foldl_cons, List.foldl_nil, storeField_none false ⟨F.PG_FIRST_ERR_CODE, page, 0, 0⟩ rfl,
    storeField_none false ⟨F.PG_FIRST_ERR_DETAIL, page, 0, 0⟩ rfl, storeField_none false ⟨F.PG_FIRST_ERR_SEV, page, 0, 0⟩ rfl,
    storeField_w1c (f := F.PG_FIRST_ERR_VALID) rfl rfl rfl (by decide), headerWrote, (slot_of_page hp).1]
  exact if_pos (by decide)

/-- An accepted write of PG_CUE stores the point and the stage, and arms, disarms or discards as it asks. -/
theorem regWrite_pgCue (h : accepts b mid (page * 0x1000 + 0x20) data = true) :
    regWrite mid (page * 0x1000 + 0x20) data b = settled b mid (page * 0x1000 + 0x20) data
      (cueWrite mid p data b.now (b |>.wr F.PG_CUE_POINT page (bits data 0 3) |>.wr F.PG_CUE_STAGE page (bits data 8 5))) := by
  have word : hitsAt (page * 0x1000 + 0x20) = [⟨F.PG_CUE_POINT, page, 0, 0⟩, ⟨F.PG_CUE_STAGE, page, 0, 0⟩, ⟨F.PG_CUE_ARM, page, 0, 0⟩,
    ⟨F.PG_CUE_DISARM, page, 0, 0⟩, ⟨F.PG_CUE_DISCARD, page, 0, 0⟩, ⟨F.PG_CUE_SEQ, page, 0, 0⟩] :=
    (hitsAt_header hp 0x20 (by decide)).trans rfl
  rw [regWrite, busWrite_page h (target_page hp 0x20 (by decide)), stored, stageWord_none (by rw [word]; rfl), word]
  simp only [forEach, List.foldl_cons, List.foldl_nil, headerWrote, storeField_none false ⟨F.PG_CUE_ARM, page, 0, 0⟩ rfl,
    storeField_none false ⟨F.PG_CUE_DISARM, page, 0, 0⟩ rfl, storeField_none false ⟨F.PG_CUE_DISCARD, page, 0, 0⟩ rfl,
    storeField_none false ⟨F.PG_CUE_SEQ, page, 0, 0⟩ rfl, storeField_rw (f := F.PG_CUE_POINT) false rfl rfl rfl (by decide) rfl,
    storeField_rw (f := F.PG_CUE_STAGE) false rfl rfl rfl (by decide) rfl]
  rfl

/-- What a written PG_CTRL stores leaves the stage of a fetch pipe. -/
theorem rd_lfpStage_stored (i : Nat) :
    (stored mid (page * 0x1000 + 0x08) data b).rd F.LFP_CFG_STAGE i = b.rd F.LFP_CFG_STAGE i := by
  have word : hitsAt (page * 0x1000 + 0x08) = [⟨F.PG_CTRL_ENABLE, page, 0, 0⟩, ⟨F.PG_CTRL_SOFT_RESET, page, 0, 0⟩,
    ⟨F.PG_CTRL_CUE_GRP, page, 0, 0⟩, ⟨F.PG_CTRL_GRP_EN, page, 0, 0⟩] := (hitsAt_header hp 0x08 (by decide)).trans rfl
  refine Blk.holds_rd (writtenWordStoresItsOwnFields.1 b mid (page * 0x1000 + 0x08) data).1 _ _ _ (by simp) ?_
  have other {g : Fld} (gk : g.kind = .hdr) (go : g.off < 0x40) (gl : g.lo < 32) : F.LFP_CFG_STAGE.key i 0 ≠ g.key page 0 :=
    header_key_ne rfl (by decide) (by decide) (by decide) gk go gl page i
  rw [word]
  simp only [List.map_cons, List.map_nil, List.mem_cons, List.not_mem_nil, or_false, not_or]
  exact ⟨other rfl (by decide) (by decide), other rfl (by decide) (by decide), other rfl (by decide) (by decide),
    other rfl (by decide) (by decide)⟩

/-- An accepted write of PG_CTRL with SOFT_RESET at 1 is a soft reset, after its other fields are stored. -/
theorem regWrite_softReset (h : accepts b mid (page * 0x1000 + 0x08) (Nat.lor data 2) = true) :
    regWrite mid (page * 0x1000 + 0x08) (Nat.lor data 2) b = settled b mid (page * 0x1000 + 0x08) (Nat.lor data 2)
      (softReset mid p (stored mid (page * 0x1000 + 0x08) (Nat.lor data 2) b)) := by
  have asks : bit (Nat.lor data 2) 1 = true := by rw [bit_lor]; exact Bool.or_true _
  rw [regWrite, busWrite_page h (target_page hp 0x08 (by decide))]
  simp only [show (0x08 : Nat) < 0x40 by decide, if_true, headerWrote, asks]

end

/-- A soft reset of a page that can be reset, and is no fetch pipe in use: the block stops, the page's registers return to their reset
values, the block starts afresh, and PG_STAT.RESET_BUSY stands. -/
theorem softReset_done {b : Blk} {p : Page} (hr : p.resettable = true) (hf : ¬ (p.blk = .lfp ∧ b.rd F.LFP_CFG_STAGE p.inst ≠ 31))
    (mid : Nat) : softReset mid p b = (blockReset b p (pageToReset p
      (if p.blk = .sig then blockStops p (dropStaged (pageStaged b p) (armPage p.slot none b))
       else (blockStops p (dropStaged (pageStaged b p) (armPage p.slot none b))).wr F.PG_CTRL_ENABLE p.slot 0))).wr
        F.PG_STAT_RESET_BUSY p.slot 1 := by
  simp only [softReset, hr, Bool.not_true, Bool.false_eq_true, if_false, if_neg hf]

/-- Settles O10, from what an accepted write of each header word does. -/
theorem pageHeaderCommands : Obligations.PageHeaderCommands := by
  unfold Obligations.PageHeaderCommands
  refine ⟨?pgEvtClear, ?pgEvtEnWrite, ?errcntClear, ?firstErrClear, ?softReset, ?softResetDone, ?pgCueArm, ?pgCueDisarm, ?pgCueDiscard,
    ?cueWriteArms, ?cueWriteDisarms, ?cueWriteDiscards⟩
  case pgEvtClear =>
    rintro s dt mid page data d p hp rfl h
    exact next_withBlk (regWrite_pgEvt hp h)
  case pgEvtEnWrite =>
    intro s dt mid page data p hp h
    exact next_withBlk (regWrite_pgEvtEn hp h)
  case errcntClear =>
    intro s dt mid page same p hp h
    exact next_withBlk (busWrite_errcntClear hp h (midPort mid) same)
  case firstErrClear =>
    rintro s dt mid page d p hp rfl h
    exact next_withBlk (regWrite_firstErrClear hp h)
  case softReset =>
    intro s dt mid page data p hp hr hf h
    refine ⟨_, _, rfl, rfl, next_withBlk ?_⟩
    have free : ¬ (p.blk = .lfp ∧ (stored mid (page * 0x1000 + 0x08) (Nat.lor data 2) (s.blk.tick dt)).rd F.LFP_CFG_STAGE p.inst ≠ 31) := by
      rw [rd_lfpStage_stored hp, Blk.rd_tick]
      exact fun ⟨lfp, used⟩ => hf.elim (absurd lfp) (absurd · used)
    rw [regWrite_softReset hp h, softReset_done hr free, (slot_of_page hp).1]
  case softResetDone =>
    intro s dt page p hp busy
    change execSoftResetDone dt page s = _
    have busy : (s.blk.tick dt).on F.PG_STAT_RESET_BUSY page = true := by simpa [Blk.on] using busy
    simp only [execSoftResetDone, eff_next, set_blk, busy, Bool.not_true, Bool.false_eq_true, if_false, hp]
  case pgCueArm =>
    intro s dt mid page data p hp h
    exact next_withBlk (regWrite_pgCue hp h)
  case pgCueDisarm =>
    intro s dt mid page data p hp h
    exact next_withBlk (regWrite_pgCue hp h)
  case pgCueDiscard =>
    intro s dt mid page data p hp h
    exact next_withBlk (regWrite_pgCue hp h)
  case cueWriteArms =>
    intro b mid at_ data p arms noDisarm noDiscard
    have arm : cueWrite mid p data at_ b = armCue mid p at_ b := by simp [cueWrite, arms, noDisarm, noDiscard]
    rw [arm]
    refine ⟨fun reserved => ?_, fun free => ⟨fun grouped => ?_, fun single armed => ?_, fun single unarmed => ?_⟩⟩
    · simp only [armCue, reserved, if_true, armIgnored]
    · have : b.on F.PG_CTRL_GRP_EN p.slot = true := by simpa [Blk.on] using grouped
      simp only [armCue, free, this, Bool.false_eq_true, if_true, if_false, armIgnored]
    · simp [armCue, free, Blk.on, single, Option.isSome_iff_ne_none.2 armed, armIgnored]
    · simp [armCue, free, Blk.on, single, unarmed]
  case cueWriteDisarms =>
    intro b mid at_ data p noArm disarms noDiscard
    simp [cueWrite, noArm, disarms, noDiscard]
  case cueWriteDiscards =>
    intro b mid at_ data p noArm noDisarm discards
    simp [cueWrite, noArm, noDisarm, discards]

end Sys2Proof.Machine
end

