-- ==== Sys2Proof/Proofs/EventCommands.lean ====
section
/-!
O11: group cues, event records, ERR_RD_IDX, ERR_LOST, the severe queue and the ring window (R61, R62, R65, R67, R68, R476).
-/

namespace Sys2Proof.Machine

/-! ### SYS_GCUE -/

/-- An accepted write of SYS_GCUE stores the group, the point and the stage, and arms or disarms as it asks. -/
theorem regWrite_gcue {b : Blk} {mid data : Nat} (h : accepts b mid 0x80 data = true) :
    regWrite mid 0x80 data b = settled b mid 0x80 data (gcueWrite mid data b.now
      (b |>.wr F.SYS_GCUE_GROUP 0 (bits data 0 6) |>.wr F.SYS_GCUE_POINT 0 (bits data 8 3) |>.wr F.SYS_GCUE_STAGE 0 (bits data 16 5))) := by
  have word : hitsAt 0x80 = [⟨F.SYS_GCUE_GROUP, 0, 0, 0⟩, ⟨F.SYS_GCUE_POINT, 0, 0, 0⟩, ⟨F.SYS_GCUE_STAGE, 0, 0, 0⟩,
    ⟨F.SYS_GCUE_ARM, 0, 0, 0⟩, ⟨F.SYS_GCUE_DISARM, 0, 0, 0⟩] := rfl
  have t : target 0x80 = .page sysPage 0x80 := rfl
  rw [regWrite_block h t (by decide), stored, stageWord_none (by rw [word]; rfl), word]
  simp only [forEach, List.foldl_cons, List.foldl_nil, storeField_none false ⟨F.SYS_GCUE_ARM, 0, 0, 0⟩ rfl,
    storeField_none false ⟨F.SYS_GCUE_DISARM, 0, 0, 0⟩ rfl, storeField_rw (f := F.SYS_GCUE_GROUP) false rfl rfl rfl (by decide) rfl,
    storeField_rw (f := F.SYS_GCUE_POINT) false rfl rfl rfl (by decide) rfl,
    storeField_rw (f := F.SYS_GCUE_STAGE) false rfl rfl rfl (by decide) rfl, copiedWrote, localWrote, sysPage, if_true]
  rfl

/-! ### ERR_RD_IDX and ERR_CFG -/

/-- An accepted write of ERR_RD_IDX stores the index, and vector 0 goes out again where records remain unread. -/
theorem regWrite_errRdIdx {b : Blk} {mid data : Nat} (h : accepts b mid 0x10048 data = true) :
    regWrite mid 0x10048 data b =
      if unread (b.wr F.ERR_RD_IDX_IDX 0 (bits data 0 16)) ≠ 0 then sendVector 0 (b.wr F.ERR_RD_IDX_IDX 0 (bits data 0 16))
      else b.wr F.ERR_RD_IDX_IDX 0 (bits data 0 16) := by
  have word : hitsAt 0x10048 = [⟨F.ERR_RD_IDX_IDX, 0, 0, 0⟩] := rfl
  have t : target 0x10048 = .page errPage 0x48 := rfl
  rw [regWrite_own h t (by decide) rfl (by decide), stored, stageWord_none (by rw [word]; rfl), word]
  simp only [forEach, List.foldl_cons, List.foldl_nil, storeField_rw (f := F.ERR_RD_IDX_IDX) false rfl rfl rfl (by decide) rfl,
    copiedWrote, localWrote, errPage, if_true]
  rfl

/-- ERR_CFG.SAFE_MIN_SEV is stored for the safety host alone. -/
theorem storeField_safeMinSev {mid : Nat} (h20 : mid ≠ 0x20) (h0 : mid ≠ 0) (data : Nat) (b : Blk) :
    storeField mid 0x10040 data false ⟨F.ERR_CFG_SAFE_MIN_SEV, 0, 0, 0⟩ b =
      if mid = 0x04 then b.wr F.ERR_CFG_SAFE_MIN_SEV 0 (bits data 4 3) else b := by
  have merged : fldMerge F.ERR_CFG_SAFE_MIN_SEV (b.rd F.ERR_CFG_SAFE_MIN_SEV 0) 0 data = bits data 4 3 := fldMerge_eq _ _ _ (by decide)
  have whole : Hit.cut ⟨F.ERR_CFG_SAFE_MIN_SEV, 0, 0, 0⟩ (bits data 4 3) = bits data 4 3 := rfl
  have restricted : F.ERR_CFG_SAFE_MIN_SEV.safeField = true := by decide
  have named : Hit.reserved ⟨F.ERR_CFG_SAFE_MIN_SEV, 0, 0, 0⟩ = false := rfl
  have code : F.ERR_CFG_SAFE_MIN_SEV.acc = .rw := rfl
  by_cases h4 : mid = 0x04 <;> simp [storeField, fieldBarred, merged, whole, restricted, named, code, h4, h20, h0]

/-- An accepted write of ERR_CFG with CLR_LOST stores the severities it may and clears the counts of lost records. -/
theorem regWrite_errClrLost {b : Blk} {mid data : Nat} (h20 : mid ≠ 0x20) (h0 : mid ≠ 0)
    (h : accepts b mid 0x10040 (Nat.lor data 0x80000000) = true) :
    regWrite mid 0x10040 (Nat.lor data 0x80000000) b =
      (if mid = 0x04 then (b.wr F.ERR_CFG_MIN_SEV 0 (bits (Nat.lor data 0x80000000) 0 3)).wr F.ERR_CFG_SAFE_MIN_SEV 0
        (bits (Nat.lor data 0x80000000) 4 3)
       else b.wr F.ERR_CFG_MIN_SEV 0 (bits (Nat.lor data 0x80000000) 0 3)).rstRange 0x10050 0x10058 := by
  have word : hitsAt 0x10040 = [⟨F.ERR_CFG_MIN_SEV, 0, 0, 0⟩, ⟨F.ERR_CFG_SAFE_MIN_SEV, 0, 0, 0⟩, ⟨F.ERR_CFG_CLR_LOST, 0, 0, 0⟩] := rfl
  have t : target 0x10040 = .page errPage 0x40 := rfl
  have asks : bit (Nat.lor data 0x80000000) 31 = true := by rw [bit_lor]; exact Bool.or_true _
  rw [regWrite_own h t (by decide) rfl (by decide), stored, stageWord_none (by rw [word]; rfl), word]
  simp only [forEach, List.foldl_cons, List.foldl_nil, storeField_none false ⟨F.ERR_CFG_CLR_LOST, 0, 0, 0⟩ rfl,
    storeField_safeMinSev h20 h0, storeField_rw (f := F.ERR_CFG_MIN_SEV) false rfl rfl rfl (by decide) rfl, copiedWrote, localWrote,
    errPage, asks, if_true]
  rfl

/-! ### The severe queue -/

/-- The words of a record in the registers of the severe queue. -/
theorem putWords_severe (r : Rec) (b : Blk) : putWords F.ERR_SQ_DATA_WORD r.words b =
    (((b.wr F.ERR_SQ_DATA_WORD 0 (r.words.getD 0 0)).wr F.ERR_SQ_DATA_WORD 0 (r.words.getD 1 0) 1).wr F.ERR_SQ_DATA_WORD 0
      (r.words.getD 2 0) 2).wr F.ERR_SQ_DATA_WORD 0 (r.words.getD 3 0) 3 := rfl

/-- Writing the words of a record leaves its first word in the first register. -/
theorem rd_putWords_first (r : Rec) (b : Blk) : (putWords F.ERR_SQ_DATA_WORD r.words b).rd F.ERR_SQ_DATA_WORD 0 = r.time % 2 ^ 32 := by
  rw [putWords_severe, Blk.rd_wr_ne _ _ _ _ _ _ _ _ (by decide), Blk.rd_wr_ne _ _ _ _ _ _ _ _ (by decide),
    Blk.rd_wr_ne _ _ _ _ _ _ _ _ (by decide), Blk.rd_wr_same]
  exact Nat.mod_mod ..

/-- Writing the words of a record ends no soft reset of the ERR page. -/
theorem on_putWords_busy (r : Rec) (b : Blk) :
    (putWords F.ERR_SQ_DATA_WORD r.words b).on F.PG_STAT_RESET_BUSY 16 = b.on F.PG_STAT_RESET_BUSY 16 := by
  rw [putWords_severe, Blk.on, Blk.rd_wr_ne _ _ _ _ _ _ _ _ (by decide), Blk.rd_wr_ne _ _ _ _ _ _ _ _ (by decide),
    Blk.rd_wr_ne _ _ _ _ _ _ _ _ (by decide), Blk.rd_wr_ne _ _ _ _ _ _ _ _ (by decide), Blk.on]

/-- The word of a 32-bit field is its value. -/
theorem fldWord_whole {f : Fld} (hl : f.lo = 0) (v : Nat) : fldWord f v 0 = v % 2 ^ 32 := by
  simp [fldWord, bits, hl]

/-- A granted read by the safety host answers the word read. -/
theorem safetyAsk_granted {a : Nat} {b : Blk} (ha : a % 4 = 0) (hm : mapped a = true) (hc : regCheck b 0x04 a false = none) :
    safetyAsk a b = (putResult 0 (readWord 0x04 a b).1).emit (.word (readWord 0x04 a b).2 0) := by
  simp only [safetyAsk, busRead_granted 2 ha hm (by decide) hc, Bool.false_eq_true, if_false]

/-- Access control does not look at the time. -/
theorem regCheck_tick (b : Blk) (dt mid a : Nat) (write : Bool) : regCheck (b.tick dt) mid a write = regCheck b mid a write := rfl

/-- A word of the ERR page reads as its page gives it while the page is not in a soft reset. -/
theorem readPure_err {b : Blk} {a o : Nat} (t : target a = .page errPage o) (ho : ¬ o < 0x40) (hb : b.on F.PG_STAT_RESET_BUSY 16 = false) :
    readPure b a = pageWord b errPage o := by
  have idle : resetHolds b a = false := by
    simp only [resetHolds, t]
    rw [show b.on F.PG_STAT_RESET_BUSY errPage.slot = false from hb, Bool.false_and, Bool.false_and]
  have clocked : clockOff b errPage o = false := rfl
  simp only [readPure, t, if_neg ho, idle, clocked, Bool.or_false, Bool.false_eq_true, if_false]

/-- The first register of the severe queue reads as what it holds. -/
theorem pageWord_severe (b : Blk) : pageWord b errPage 0x60 = b.rd F.ERR_SQ_DATA_WORD 0 % 2 ^ 32 := by
  have word : hitsAt 0x10060 = [⟨F.ERR_SQ_DATA_WORD, 0, 0, 0⟩] := rfl
  have raw : fieldWord b 0x10060 = b.rd F.ERR_SQ_DATA_WORD 0 % 2 ^ 32 := by rw [fieldWord_one word rfl, fldWord_whole rfl]
  rw [← raw]
  rfl

/-- A read of ERR_SQ_DATA0 by the safety host takes the oldest severe record and answers its first word. -/
theorem readWord_severe {b : Blk} {r : Rec} {l : List Rec} (hs : b.ctl.severe = r :: l) (hb : b.on F.PG_STAT_RESET_BUSY 16 = false) :
    readWord 0x04 0x10060 b =
      (putWords F.ERR_SQ_DATA_WORD r.words { b with ctl := { b.ctl with severe := l } }, r.time % 2 ^ 32) := by
  have popped : popSevere b = putWords F.ERR_SQ_DATA_WORD r.words { b with ctl := { b.ctl with severe := l } } := by
    simp only [popSevere, hs]
  have idle : (popSevere b).on F.PG_STAT_RESET_BUSY 16 = false := by
    rw [popped, on_putWords_busy]
    exact hb
  have word : readPure (popSevere b) 0x10060 = r.time % 2 ^ 32 := by
    rw [readPure_err (o := 0x60) rfl (by decide) idle, pageWord_severe, popped, rd_putWords_first, Nat.mod_mod]
  rw [readWord, if_pos ⟨rfl, rfl⟩]
  exact Prod.ext popped word

/-- A read of ERR_SQ_STAT by the safety host answers the records queued and lost, and clears the lost ones. -/
theorem readWord_sqStat {b : Blk} (hb : b.on F.PG_STAT_RESET_BUSY 16 = false) : readWord 0x04 0x10058 b =
    (b.wr F.ERR_SQ_STAT_LOST 0 0, b.ctl.severe.length + 256 * b.rd F.ERR_SQ_STAT_LOST 0) := by
  rw [readWord, if_neg (by decide), if_pos ⟨rfl, rfl⟩, readPure_err (o := 0x58) rfl (by decide) hb]
  rfl

/-! ### The ring window -/

/-- An accepted write of the ring window is discarded, with event 0x0007. -/
theorem regWrite_ringWindow {b : Blk} {mid data o : Nat} (ho : o < 0x1000) (h : accepts b mid (0x11000 + o) data = true) :
    regWrite mid (0x11000 + o) data b = raiseAs mid errPage 0x0007 sevNotice o 0 b := by
  have notMember : ∀ j x, target (0x11000 + o) ≠ .member j x := by simp [target_ringWindow ho]
  simp only [accepts, Bool.and_eq_true, Bool.not_eq_true', beq_iff_eq, bne_iff_ne, Option.isNone_iff_eq_none] at h
  obtain ⟨⟨⟨⟨⟨⟨⟨⟨⟨aligned, notDebug⟩, -⟩, granted⟩, open_⟩, -⟩, -⟩, -⟩, -⟩, -⟩ := h
  rw [regWrite, busWrite_accepted aligned (mapped_ringWindow ho) open_ granted notMember, acceptWrite_ringWindow ho, if_neg notDebug]

/-- Settles O11, from what the writes and reads of these words do and from what SYS_GCUE asks for. -/
theorem eventAndCueCommands : Obligations.EventAndCueCommands := by
  unfold Obligations.EventAndCueCommands
  refine ⟨?gcueArm, ?gcueDisarm, ?gcueWriteArms, ?gcueWriteDisarms, ?errRecordArrival, ?errRdIdxWrite, ?errClrLost, ?severeQueuePop,
    ?sqStatRead, ?ringWindowWrite⟩
  case gcueArm => exact fun s dt mid data h => next_withBlk (regWrite_gcue h)
  case gcueDisarm => exact fun s dt mid data h => next_withBlk (regWrite_gcue h)
  case gcueWriteArms =>
    intro b mid at_ data arms noDisarm
    refine ⟨fun reserved => ?_, fun free armed => ?_, fun free unarmed => ?_⟩
    · simp [gcueWrite, arms, noDisarm, reserved, armIgnored]
    · simp [gcueWrite, arms, noDisarm, free, Option.isSome_iff_ne_none.2 armed, armIgnored]
    · simp [gcueWrite, arms, noDisarm, free, unarmed]
  case gcueWriteDisarms =>
    intro b mid at_ data noArm disarms
    simp [gcueWrite, noArm, disarms]
  case errRecordArrival => exact fun s dt page code sev detail mid p hp hs => exec_errRecordArrival s dt code sev detail mid hp hs
  case errRdIdxWrite =>
    rintro s dt mid data c h rfl
    exact next_withBlk (regWrite_errRdIdx h)
  case errClrLost =>
    rintro s dt mid data h ⟨h20, h0⟩
    exact next_withBlk (regWrite_errClrLost h20 h0 h)
  case severeQueuePop =>
    intro s dt r l hc hs hb
    have hc' : regCheck (s.blk.tick dt) 0x04 0x10060 false = none := (regCheck_tick ..).trans hc
    refine next_withBlk ((safetyAsk_granted (by decide) (by decide) hc').trans ?_)
    rw [readWord_severe (b := s.blk.tick dt) hs ((Blk.on_tick ..).trans hb)]
    rfl
  case sqStatRead =>
    intro s dt hc hb
    have hc' : regCheck (s.blk.tick dt) 0x04 0x10058 false = none := (regCheck_tick ..).trans hc
    refine next_withBlk ((safetyAsk_granted (by decide) (by decide) hc').trans ?_)
    rw [readWord_sqStat (b := s.blk.tick dt) ((Blk.on_tick ..).trans hb)]
    rfl
  case ringWindowWrite =>
    intro s dt mid addr data h
    exact next_withBlk (regWrite_ringWindow (Nat.mod_lt _ (by decide)) h)

end Sys2Proof.Machine
end

