-- ==== Sys2Proof/Proofs/PictureCommands.lean ====
section
/-!
O18: the commands that write one register of the prompter, a layer, a stage, a contact, an encoder or a check-value unit.
-/

namespace Sys2Proof.Machine

/-- A bit that is set in the second of two joined words is set in their join. -/
theorem bit_lor_right (v : Nat) {w k : Nat} (h : bit w k = true) : bit (Nat.lor v w) k = true := by
  rw [bit_lor, h, Bool.or_true]

/-! ### Words of one page of a block -/

/-- The offset of a register of one page of a block, from the slot of its block. -/
theorem pageAddr_eq {k : Block} {i : Nat} (hi : i < k.pages) (o : Nat) : pageAddr k i o = (k.slot + i) * 0x1000 + o := by
  rw [pageAddr, Nat.mod_eq_of_lt hi]

/-- The fields of a block word of one page of a block. -/
theorem hitsAt_inst {k : Block} {i o a : Nat} {kd : Kind} (hi : i < k.pages) (ho : o < 0x1000) (h4 : 0x40 ≤ o)
    (ha : a = (k.slot + i) * 0x1000 + o) (hk : (Page.mk k i).kind = some kd) : hitsAt a = hitsIn kd i o := by
  rw [ha]
  exact hitsAt_block (pageOfSlot_slot ⟨k, i⟩ hi) o ho h4 kd hk

/-- A word of one page of a block whose fields all are RO, WO or W1S takes no written value. -/
theorem unstored_inst {k : Block} {i o a : Nat} {kd : Kind} (hi : i < k.pages) (ho : o < 0x1000) (h4 : 0x40 ≤ o)
    (ha : a = (k.slot + i) * 0x1000 + o) (hk : (Page.mk k i).kind = some kd)
    (hn : ((hitsIn kd i o).all fun h => h.f.acc == .ro || h.f.acc == .wo || h.f.acc == .w1s) = true) : unstored a = true := by
  rw [unstored, hitsAt_inst hi ho h4 ha hk, hn]

/-! ### The prompter -/

section
variable {b : Blk} {mid data : Nat}

/-- An accepted write of PRM_FLOOR changes the floor and what follows from the policy. -/
theorem regWrite_floor (h : accepts b mid 0x258040 data = true) : regWrite mid 0x258040 data b =
    settled b mid 0x258040 data (policyChanged (floorChanged b (stored mid 0x258040 data b))) := by
  rw [regWrite_block h (p := prmGlobal) (o := 0x40) rfl (by decide)]
  rfl

/-- An accepted write of the freshness window is discarded, with event 0x0106. -/
theorem regWrite_freshWindow {o : Nat} (ho : o < 0x100000) (h : accepts b mid (0x600000 + o) data = true) :
    regWrite mid (0x600000 + o) data b = raiseAs mid prmGlobal 0x106 sevNotice (o / 4) 0 b := by
  have t : target (0x600000 + o) = .fresh o := by
    unfold target
    rw [if_neg (by omega), if_neg (by omega), if_neg (by omega), if_neg (by omega), if_neg (by omega), if_pos (by omega),
      Nat.add_sub_cancel_left]
  obtain ⟨ident, done⟩ := busWrite_granted h (by simp [t]) (midPort mid) false
  rw [regWrite, done, settled_local (by simp [copies, copiedRange, t]) (by simp [sharedRange, t]) (by omega)]
  simp only [grantedWrite, t]

/-- An accepted write of PRM_LOG_WRAPS.CLEAR clears the count. -/
theorem regWrite_logWraps (asks : bit data 31 = true) (h : accepts b mid 0x25804C data = true) :
    regWrite mid 0x25804C data b =
      settled b mid 0x25804C data (b.wr F.PRM_LOG_WRAPS_COUNT 24 0) := by
  rw [regWrite_block h (p := prmGlobal) (o := 0x4C) rfl (by decide), stored_unstored rfl]
  simp [copiedWrote, localWrote, prmGlobal, asks, F.PRM_LOG_WRAPS_CLEAR]

/-! ### Layers, stages, contacts and encoders -/

/-- An accepted publish stores the word and publishes the layer. -/
theorem regWrite_publish {l : Nat} (hl : l < 4096) (h0 : mid ≠ 0) (asks : bit data 31 = true)
    (h : accepts b mid (0x40002C + 256 * l) data = true) :
    ∃ ident, regWrite mid (0x40002C + 256 * l) data b =
      settled b mid (0x40002C + 256 * l) data (publish mid l (bits data 0 2) b.now ident
        (bit data 2) (stored mid (0x40002C + 256 * l) data b)
        (stored mid (0x40002C + 256 * l) data b)) := by
  have t : target (0x40002C + 256 * l) = .desc l 0x2C := by
    unfold target
    rw [if_neg (by omega), if_pos (by omega), show (0x40002C + 256 * l - 0x400000) / 256 = l by omega,
      show (0x40002C + 256 * l) % 256 = 0x2C by omega]
  obtain ⟨ident, done⟩ := busWrite_granted h (by simp [t]) (midPort mid) false
  refine ⟨ident, ?_⟩
  simp only [accepts, Bool.and_eq_true, Bool.not_eq_true'] at h
  obtain ⟨⟨⟨-, idle⟩, legal⟩, -⟩ := h
  rw [regWrite, done]
  simp only [grantedWrite, t, wordWrite, idle, legal, Bool.false_eq_true, if_false]
  simp only [asks, and_self, if_true, if_neg h0, stored]

/-- An accepted write of STG_PS_CTRL.COMMIT arms a commit of the proscenium, where none is armed. -/
theorem regWrite_psCommit {st : Nat} (hs : st < 24) (ha : b.on F.STG_PS_CTRL_ARMED st = false)
    (asks : bit data 0 = true) (h : accepts b mid (0x220200 + 0x1000 * st) data = true) :
    regWrite mid (0x220200 + 0x1000 * st) data b = settled b mid (0x220200 + 0x1000 * st) data
      ((b.putStage st { b.stage st with commitAt := b.now }).wr F.STG_PS_CTRL_ARMED st 1) := by
  have place : 0x220200 + 0x1000 * st = (Block.stg.slot + st) * 0x1000 + 0x200 := by simp only [Block.slot]; omega
  rw [regWrite_block h (target_inst .stg st 0x200 _ hs (by decide) place) (by decide),
    stored_unstored (unstored_inst hs (by decide) (by decide) place rfl rfl)]
  simp [copiedWrote, localWrote, asks, psArm, ha]

/-- An accepted write of a contact's configuration stores it and configures the contact. -/
theorem regWrite_contactConfig {c : Nat} (hc : c < 16) (h : accepts b mid (0x2F0100 + 8 * c) data = true) :
    regWrite mid (0x2F0100 + 8 * c) data b = settled b mid (0x2F0100 + 8 * c) data
      (contactConfigured c (sigOn b c) (b.on F.SIG_CFG_ACTIVE_HIGH 0 c) (stored mid (0x2F0100 + 8 * c) data b)) := by
  have t : target (0x2F0100 + 8 * c) = .page ⟨.sig, 0⟩ (0x100 + 8 * c) :=
    target_inst .sig 0 (0x100 + 8 * c) _ (by decide) (by omega) (by simp only [Block.slot]; omega)
  have named : (List.range 16).find? (fun j => 0x100 + 8 * c == F.SIG_CFG_EN.off + j * F.SIG_CFG_EN.step) = some c :=
    (by decide : ∀ c < 16, (List.range 16).find? (fun j => 0x100 + 8 * c == F.SIG_CFG_EN.off + j * F.SIG_CFG_EN.step) = some c) c hc
  have notClear : 0x100 + 8 * c ≠ F.SIG_SUPPRESSED_CLEAR.off := by simp only [F.SIG_SUPPRESSED_CLEAR]; omega
  rw [regWrite_block h t (by omega)]
  simp only [copiedWrote, localWrote, sigWrote, if_neg notClear, named]

/-- An accepted write of SIG_SUPPRESSED.CLEAR clears the count. -/
theorem regWrite_suppressed (asks : bit data 31 = true) (h : accepts b mid 0x2F004C data = true) :
    regWrite mid 0x2F004C data b =
      settled b mid 0x2F004C data (b.wr F.SIG_SUPPRESSED_COUNT 0 0) := by
  rw [regWrite_block h (p := ⟨.sig, 0⟩) (o := 0x4C) rfl (by decide), stored_unstored rfl]
  simp [copiedWrote, localWrote, asks, F.SIG_SUPPRESSED_CLEAR]

/-- An accepted write of VEC_CTRL.FORCE_IDR forces an IDR picture. -/
theorem regWrite_forceIdr {x : Nat} (hx : x < 16) (asks : bit data 0 = true) (h : accepts b mid (0x1A007C + 0x1000 * x) data = true) :
    regWrite mid (0x1A007C + 0x1000 * x) data b =
      settled b mid (0x1A007C + 0x1000 * x) data (vecForceIdr x b) := by
  have place : 0x1A007C + 0x1000 * x = (Block.vec.slot + x) * 0x1000 + 0x7C := by simp only [Block.slot]; omega
  have hx17 : x < Block.vec.pages := Nat.lt_trans hx (by decide)
  have kind : (Page.mk .vec x).kind = some .vecC := by simp only [Page.kind, if_neg (Nat.ne_of_lt hx)]
  rw [regWrite_block h (target_inst .vec x 0x7C _ hx17 (by decide) place) (by decide),
    stored_unstored (unstored_inst hx17 (by decide) (by decide) place kind rfl)]
  simp [copiedWrote, localWrote, asks, hx, F.VEC_CTRL_FORCE_IDR]

/-! ### Check-value units -/

/-- An accepted write of CRC_CTRL aborts and starts a run as it asks. -/
theorem regWrite_crcCtrl {u : Nat} (hu : u < 32) (h : accepts b mid (0x28009C + 0x1000 * u) data = true) :
    regWrite mid (0x28009C + 0x1000 * u) data b = settled b mid (0x28009C + 0x1000 * u) data
      (if bit data 0 then crcStartWrite u (if bit data 1 then crcAbort u b else b) else if bit data 1 then crcAbort u b else b) := by
  have place : 0x28009C + 0x1000 * u = (Block.crc.slot + u) * 0x1000 + 0x9C := by simp only [Block.slot]; omega
  rw [regWrite_block h (target_inst .crc u 0x9C _ hu (by decide) place) (by decide),
    stored_unstored (unstored_inst hu (by decide) (by decide) place rfl rfl)]
  simp [copiedWrote, localWrote, F.CRC_CTRL_START]

end

/-- Settles O18, from what an accepted write of each register does. -/
theorem registerCommandsOfPicturePages : Obligations.RegisterCommandsOfPicturePages := by
  unfold Obligations.RegisterCommandsOfPicturePages
  refine ⟨?floorWrite, ?freshnessWindowWrite, ?logWrapsClear, ?publish, ?psCommitWrite, ?contactConfigWrite, ?suppressedClear,
    ?vecForceIdr, ?crcStart, ?crcAbort⟩
  case floorWrite => exact fun s dt mid data h => next_withBlk (regWrite_floor h)
  case freshnessWindowWrite =>
    exact fun s dt mid addr data h => next_withBlk (regWrite_freshWindow (Nat.mod_lt _ (by decide)) h)
  case logWrapsClear => exact fun s dt mid data h => next_withBlk (regWrite_logWraps (bit_lor_right data (by decide)) h)
  case publish =>
    rintro s dt mid layer data ⟨hl, h0⟩ h
    obtain ⟨ident, published⟩ := regWrite_publish hl h0 (bit_lor_right data (by decide)) h
    refine ⟨ident, _, rfl, ?_⟩
    change execPublish dt mid layer data s = _
    simp only [execPublish, effM_next, Nat.mod_eq_of_lt hl, published]
    rfl
  case psCommitWrite =>
    intro s dt mid stage data hs ha h
    have unarmed : (s.blk.tick dt).on F.STG_PS_CTRL_ARMED stage = false := by simp [Blk.on, ha]
    have place : pageAddr .stg stage 0x200 = 0x220200 + 0x1000 * stage := by
      rw [pageAddr_eq hs]; simp only [Block.slot]; omega
    change execPsCommitWrite dt mid stage data s = _
    simp only [execPsCommitWrite, eff_next, set_blk, place, regWrite_psCommit hs unarmed (bit_lor_right data (by decide)) h]
    rfl
  case contactConfigWrite =>
    intro s dt mid c data hc h
    have place : 0x2F0000 + F.SIG_CFG_EN.off + c % 16 * F.SIG_CFG_EN.step = 0x2F0100 + 8 * c := by
      simp only [F.SIG_CFG_EN]; omega
    change execContactConfigWrite dt mid c data s = _
    simp only [execContactConfigWrite, eff_next, set_blk, place, regWrite_contactConfig hc h]
  case suppressedClear => exact fun s dt mid data h => next_withBlk (regWrite_suppressed (bit_lor_right data (by decide)) h)
  case vecForceIdr =>
    intro s dt mid ctx data hc h
    have place : pageAddr .vec (ctx % 16) F.VEC_CTRL_FORCE_IDR.off = 0x1A007C + 0x1000 * ctx := by
      rw [pageAddr_eq (Nat.lt_trans (Nat.mod_lt _ (by decide)) (by decide))]; simp only [Block.slot, F.VEC_CTRL_FORCE_IDR]; omega
    change execVecForceIdr dt mid ctx data s = _
    simp only [execVecForceIdr, eff_next, set_blk, place, regWrite_forceIdr hc (bit_lor_right data (by decide)) h]
  case crcStart =>
    rintro s dt mid unit hu h ⟨on, trig, idle⟩
    have place : pageAddr .crc unit F.CRC_CTRL_START.off = 0x28009C + 0x1000 * unit := by
      rw [pageAddr_eq hu]; simp only [Block.slot, F.CRC_CTRL_START]; omega
    have started : crcStartWrite unit (s.blk.tick dt) = crcStart unit (s.blk.rd F.CRC_BASE_ADDR unit) none (s.blk.tick dt) := by
      have on' : enabled (s.blk.tick dt) (crcPage unit) = true := on
      have idle' : ((s.blk.tick dt).unitCrc unit).run = none := idle
      simp [crcStartWrite, on', trig, idle']
    change execCrcStart dt mid unit s = _
    simp only [execCrcStart, eff_next, set_blk, place, regWrite_crcCtrl hu h]
    rw [if_pos (by decide), if_neg (by decide), started]
    rfl
  case crcAbort =>
    intro s dt mid unit r hu h running
    have place : pageAddr .crc unit F.CRC_CTRL_START.off = 0x28009C + 0x1000 * unit := by
      rw [pageAddr_eq hu]; simp only [Block.slot, F.CRC_CTRL_START]; omega
    have running' : ((s.blk.tick dt).unitCrc unit).run.isNone = false := by
      rw [show ((s.blk.tick dt).unitCrc unit).run = some r from running]
      rfl
    change execCrcAbort dt mid unit s = _
    simp only [execCrcAbort, eff_next, set_blk, place, regWrite_crcCtrl hu h]
    rw [if_neg (by decide), if_pos (by decide)]
    simp only [crcAbort, running', Bool.false_eq_true, if_false]
    rfl

end Sys2Proof.Machine
end

