-- ==== Sys2Proof/Proofs/ModuleCommands.lean ====
section
/-!
O19: the commands that write one register of the clock, a lane, the pair, the system, the hot-swap or the thermal page.
-/

namespace Sys2Proof.Machine

section
variable {b : Blk} {mid data : Nat}

/-! ### The clock -/

/-- An accepted write of CLK_LEARN clears and saves what is learnt as it asks. -/
theorem regWrite_learn (h : accepts b mid 0x60088 data = true) : regWrite mid 0x60088 data b =
    if bit data 0 then learningSave (if bit data 1 then learningClear b else b) else if bit data 1 then learningClear b else b := by
  rw [regWrite_unstored h (p := ⟨.clk, 0⟩) (o := 0x88) rfl (by decide) rfl (by decide) rfl]
  simp [copiedWrote, localWrote, clkWrote, F.CLK_LEARN_SAVE]

/-- An accepted write of the lower word of CLK_TOD_SEC is stored. -/
theorem regWrite_todLow (h : accepts b mid 0x60098 data = true) : regWrite mid 0x60098 data b = stored mid 0x60098 data b := by
  rw [regWrite_own h (p := ⟨.clk, 0⟩) (o := 0x98) rfl (by decide) rfl (by decide)]
  simp [copiedWrote, localWrote, clkWrote, F.CLK_LEARN_SAVE, F.CLK_TOD_SEC_SEC, F.CLK_UTC_OFFSET, F.CLK_CFG_MODE]

/-- An accepted write of the upper word of CLK_TOD_SEC with APPLY is stored, and the time of day is applied. -/
theorem regWrite_todApply (asks : bit data 31 = true) (h : accepts b mid 0x6009C data = true) :
    regWrite mid 0x6009C data b = todApply (stored mid 0x6009C data b) := by
  rw [regWrite_own h (p := ⟨.clk, 0⟩) (o := 0x9C) rfl (by decide) rfl (by decide)]
  simp [copiedWrote, localWrote, clkWrote, asks, F.CLK_LEARN_SAVE, F.CLK_TOD_SEC_SEC]

/-! ### Lanes -/

/-- An accepted write of a lane's word is stored and does what the lane's page attaches to it. -/
theorem regWrite_lane {l o a : Nat} (hl : l < 96) (ho : 64 ≤ o) (ho2 : o < 0x1000) (place : a = (Block.lane.slot + l) * 0x1000 + o)
    (h : accepts b mid a data = true) : regWrite mid a data b = laneWrote l o data (stored mid a data b) := by
  have t := target_inst .lane l o a hl ho2 place
  have local_ : copiedRange a = false := by simp [copiedRange, t, show ¬ o < 64 by omega]
  have notCue : a ≠ 0x80 := by rw [place]; simp only [Block.slot]; omega
  rw [regWrite_own h t ho local_ notCue]
  rfl

/-- An accepted write of LANE_EYE_CTRL is stored, and stops and starts a scan as it asks. -/
theorem regWrite_eye {l : Nat} (hl : l < 96) (h : accepts b mid (0x80080 + 0x1000 * l) data = true) :
    regWrite mid (0x80080 + 0x1000 * l) data b =
      if bit data 0 then eyeStart l (if bit data 1 then eyeAbort l (stored mid (0x80080 + 0x1000 * l) data b)
        else stored mid (0x80080 + 0x1000 * l) data b)
      else if bit data 1 then eyeAbort l (stored mid (0x80080 + 0x1000 * l) data b) else stored mid (0x80080 + 0x1000 * l) data b := by
  rw [regWrite_lane hl (o := 0x80) (by decide) (by decide) (by simp only [Block.slot]; omega) h]
  rfl

/-- An accepted write of LANE_MARGIN_CFG with REBASE is stored, and the lane takes a new base. -/
theorem regWrite_rebase {l : Nat} (hl : l < 96) (asks : bit data 15 = true) (h : accepts b mid (0x80094 + 0x1000 * l) data = true) :
    regWrite mid (0x80094 + 0x1000 * l) data b = (stored mid (0x80094 + 0x1000 * l) data b).putLane l
      { (stored mid (0x80094 + 0x1000 * l) data b).lane l with rebase := true } := by
  rw [regWrite_lane hl (o := 0x94) (by decide) (by decide) (by simp only [Block.slot]; omega) h, laneWrote, if_neg (by decide),
    if_pos ⟨rfl, asks⟩]

/-! ### The pair -/

/-- An accepted write of PAIR_CTRL clears the rehearsal fault, resynchronises and switches over as it asks. -/
theorem regWrite_pairCtrl (h : accepts b mid 0x2C0044 data = true) : regWrite mid 0x2C0044 data b =
    (let c := if bit data 1 then refreshReady (b.wr F.PAIR_STAT_DR_FAULT 0 0) else b
     let d := if bit data 2 then resync c else c
     if bit data 0 then pairSwitch d else d) := by
  rw [regWrite_unstored h (p := pairPage) (o := 0x44) rfl (by decide) rfl (by decide) rfl]
  rfl

/-! ### The system, hot-swap and thermal pages -/

/-- An accepted write of SYS_RESET with the key, while no reset is due, begins a module reset. -/
theorem regWrite_resetKey (hk : data % 65536 = 0x6A5D) (hr : b.pwr.reset = none) (h : accepts b mid 0x118 data = true) :
    regWrite mid 0x118 data b =
      depart (raise sysPage 0x106 sevWarning 2 0 (b.putPwr { b.pwr with reset := some (2, b.now + 20000000) })) := by
  rw [regWrite_unstored h (p := sysPage) (o := 0x118) rfl (by decide) rfl (by decide) rfl]
  simp [copiedWrote, localWrote, sysPage, resetKey, sysEvent, hk, hr]

/-- An accepted write of SYS_HOST_CLAIM is a claim. -/
theorem regWrite_hostClaim (h : accepts b mid 0x100 1 = true) :
    regWrite mid 0x100 1 b = claimBy mid b := by
  rw [regWrite_unstored h (p := sysPage) (o := 0x100) rfl (by decide) rfl (by decide) rfl]
  rfl

/-- An accepted write of HSW_CTRL.EJECT warns of an ejection. -/
theorem regWrite_eject (h : accepts b mid 0x50054 1 = true) : regWrite mid 0x50054 1 b = ejectWarning 2 b := by
  rw [regWrite_unstored h (p := hswPage) (o := 0x54) rfl (by decide) rfl (by decide) rfl]
  rfl

/-- An accepted write of thresholds is stored, and the levels are judged anew. -/
theorem regWrite_thresh {c : Nat} (hc : c < 5) (h : accepts b mid (0x40050 + 4 * c) data = true) :
    regWrite mid (0x40050 + 4 * c) data b = thmRefresh (stored mid (0x40050 + 4 * c) data b) := by
  have t : target (0x40050 + 4 * c) = .page ⟨.thm, 0⟩ (0x50 + 4 * c) :=
    target_inst .thm 0 (0x50 + 4 * c) _ (by decide) (by omega) (by simp only [Block.slot]; omega)
  have local_ : copiedRange (0x40050 + 4 * c) = false := by simp [copiedRange, t, show ¬ 0x50 + 4 * c < 64 by omega]
  have notHyst : 0x50 + 4 * c ≠ F.THM_CFG_HYST.off := by simp only [F.THM_CFG_HYST]; omega
  rw [regWrite_own h t (by omega) local_ (by omega)]
  simp only [copiedWrote, localWrote, if_neg notHyst]
  exact if_pos ⟨by omega, by omega⟩

end

/-- Settles O19, from what an accepted write of each register does. -/
theorem registerCommandsOfModulePages : Obligations.RegisterCommandsOfModulePages := by
  unfold Obligations.RegisterCommandsOfModulePages
  refine ⟨?learnSave, ?learnClear, ?todWrite, ?eyeScanStart, ?eyeScanAbort, ?marginRebase, ?pairSwitch, ?pairClearFault, ?pairResync,
    ?sysResetKey, ?hostClaim, ?hswEject, ?ejectWarningEffect, ?threshWrite⟩
  case learnSave =>
    intro s dt mid data h
    refine next_withBlk ((regWrite_learn h).trans ?_)
    rw [if_pos (bit_lor_right data (by decide)), bit_lor, show bit 1 1 = false from rfl, Bool.or_false]
  case learnClear =>
    intro s dt mid data h
    refine next_withBlk ((regWrite_learn h).trans ?_)
    have clears : bit (Nat.lor data 2) 1 = true := bit_lor_right data (by decide)
    rw [clears, bit_lor, show bit 2 0 = false from rfl, Bool.or_false, if_pos rfl]
  case todWrite =>
    intro s dt mid lo hi hlo hhi
    exact next_withBlk ((congrArg _ (regWrite_todLow hlo)).trans (regWrite_todApply (bit_lor_right hi (by decide)) hhi))
  case eyeScanStart =>
    rintro s dt mid lane data c hl h rfl
    have place : pageAddr .lane lane F.LANE_EYE_CTRL_START.off = 0x80080 + 0x1000 * lane := by
      rw [pageAddr_eq hl]; simp only [Block.slot, F.LANE_EYE_CTRL_START]; omega
    change execEyeScanStart dt mid lane data s = _
    simp only [execEyeScanStart, eff_next, set_blk, place, regWrite_eye hl h]
    rw [if_pos (bit_lor_right data (by decide)), bit_lor, show bit 1 1 = false from rfl, Bool.or_false]
  case eyeScanAbort =>
    rintro s dt mid lane data c hl h rfl
    have place : pageAddr .lane lane F.LANE_EYE_CTRL_START.off = 0x80080 + 0x1000 * lane := by
      rw [pageAddr_eq hl]; simp only [Block.slot, F.LANE_EYE_CTRL_START]; omega
    have aborts : bit (Nat.lor data 2) 1 = true := bit_lor_right data (by decide)
    change execEyeScanAbort dt mid lane data s = _
    simp only [execEyeScanAbort, eff_next, set_blk, place, regWrite_eye hl h]
    rw [aborts, bit_lor, show bit 2 0 = false from rfl, Bool.or_false, if_pos rfl]
  case marginRebase =>
    rintro s dt mid lane data c hl h rfl
    have place : pageAddr .lane lane F.LANE_MARGIN_CFG_REBASE.off = 0x80094 + 0x1000 * lane := by
      rw [pageAddr_eq hl]; simp only [Block.slot, F.LANE_MARGIN_CFG_REBASE]; omega
    change execMarginRebase dt mid lane data s = _
    simp only [execMarginRebase, eff_next, set_blk, place, regWrite_rebase hl (bit_lor_right data (by decide)) h]
  case pairSwitch =>
    rintro s dt mid data ⟨noClear, noResync⟩ h
    refine next_withBlk ((regWrite_pairCtrl h).trans ?_)
    simp only [bit_lor, noClear, noResync, show bit 1 0 = true from rfl, show bit 1 1 = false from rfl, show bit 1 2 = false from rfl,
      Bool.or_false, Bool.or_true, Bool.false_eq_true, if_true, if_false]
    rfl
  case pairClearFault =>
    rintro s dt mid data ⟨noSwitch, noResync⟩ h
    refine next_withBlk ((regWrite_pairCtrl h).trans ?_)
    simp only [bit_lor, noSwitch, noResync, show bit 2 0 = false from rfl, show bit 2 1 = true from rfl, show bit 2 2 = false from rfl,
      Bool.or_false, Bool.or_true, Bool.false_eq_true, if_true, if_false]
    rfl
  case pairResync =>
    rintro s dt mid data ⟨noSwitch, noClear⟩ hr h
    refine ⟨_, rfl, next_withBlk ((regWrite_pairCtrl h).trans ?_)⟩
    have understudy : role (s.blk.tick dt) = roUnderstudy := hr
    simp only [bit_lor, noSwitch, noClear, show bit 4 0 = false from rfl, show bit 4 1 = false from rfl, show bit 4 2 = true from rfl,
      Bool.or_false, Bool.or_true, Bool.false_eq_true, if_true, if_false, resync, understudy, ne_eq, not_true_eq_false]
    rfl
  case sysResetKey =>
    rintro s dt mid data ⟨hk, hr⟩ h
    exact next_withBlk (regWrite_resetKey hk hr h)
  case hostClaim =>
    rintro s dt mid c hm hc h rfl
    have open_ : (!(mid == 0x01 || mid == 0x04) || (s.blk.tick dt).on F.SYS_HOST_CLAIM_CLAIM 0) = false := by
      rcases hm with rfl | rfl <;> simp [Blk.on, hc]
    refine next_withBlk ((regWrite_hostClaim h).trans ?_)
    rw [claimBy, open_]
    rfl
  case hswEject => exact fun s dt mid h => next_withBlk (regWrite_eject h)
  case ejectWarningEffect =>
    intro b src
    refine ⟨fun on fresh => ?_, fun ignored => ?_⟩
    · simp only [ejectWarning, on, fresh, Option.isSome_none, Nat.lt_irrefl, Bool.false_eq_true, or_self, if_false]
      rfl
    · exact if_pos (ignored.imp_right Option.isSome_iff_ne_none.2)
  case threshWrite =>
    intro s dt mid c data hc h
    change execThreshWrite dt mid c data s = _
    simp only [execThreshWrite, eff_next, set_blk, Nat.mod_eq_of_lt hc, regWrite_thresh hc h]

end Sys2Proof.Machine
end

