-- ==== Sys2Proof/Proofs/Smbus.lean ====
section
/-!
O14 and O15: the commands and the readings of SMBus and PMBus (R52, R53).
-/

namespace Sys2Proof.Machine

/-! ### Readings -/

/-- The hottest of two sensors is the higher of their readings. -/
theorem hottestOf_pair (b : Blk) (m n : Nat) :
    hottestOf b [m, n] = max (sgn 16 (b.rd F.THM_TEMP_TEMP 0 m)) (sgn 16 (b.rd F.THM_TEMP_TEMP 0 n)) := by
  simp only [hottestOf, List.foldl_cons, List.foldl_nil]
  split
  next higher => exact (max_eq_right higher.le).symm
  next lower => exact (max_eq_left (not_lt.1 lower)).symm

/-- The twelve characters of an ordering code: AFN-WM96-, the memory fitted, and the grade. -/
theorem orderingCode_block (fitted grade : Prop) [Decidable fitted] [Decidable grade] (b : Blk) :
    smBlock 0xD3 (codes "AFN-WM96-" ++ codes (if fitted then "32" else "64") ++ codes (if grade then "E" else "C")) b =
      smRead 0xD3 ([12, 0x41, 0x46, 0x4E, 0x2D, 0x57, 0x4D, 0x39, 0x36, 0x2D] ++
        (if fitted then [0x33, 0x32] else [0x36, 0x34]) ++ (if grade then [0x45] else [0x43])) b := by
  have text : codes "AFN-WM96-" = [0x41, 0x46, 0x4E, 0x2D, 0x57, 0x4D, 0x39, 0x36, 0x2D] := by decide
  have memory : codes (if fitted then "32" else "64") = if fitted then [0x33, 0x32] else [0x36, 0x34] := by
    split <;> decide
  have letter : codes (if grade then "E" else "C") = if grade then [0x45] else [0x43] := by
    split <;> decide
  rw [text, memory, letter]
  by_cases f : fitted <;> by_cases g : grade <;> simp [f, g, smBlock]

/-- Settles O15: each reading is an answer with its packet error code, and changes nothing beside. -/
theorem pmbusReadings : Obligations.PmbusReadings := by
  unfold Obligations.PmbusReadings
  refine ⟨fun s dt mV => rfl, fun s dt mA => rfl, fun s dt mW => rfl, ?readTemperature1, fun s dt => rfl, fun s dt => rfl, ?mfrId,
    ?mfrModel, fun s dt => rfl, ?mfrSerial, fun s dt => rfl, fun s dt => rfl, ?mfrOrderingCode, fun s dt => rfl,
    fun b code l => rfl⟩
  case readTemperature1 =>
    intro s dt
    change execReadTemperature1 dt s = _
    simp only [execReadTemperature1, eff_next, set_blk, hottestOf_pair, Blk.rd_tick]
  case mfrId =>
    intro s dt
    exact next_withBlk (congrArg (smBlock 0x99 · (s.blk.tick dt)) (by decide : codes "WILTUR" = [0x57, 0x49, 0x4C, 0x54, 0x55, 0x52]))
  case mfrModel =>
    intro s dt
    exact next_withBlk (congrArg (smBlock 0x9A · (s.blk.tick dt))
      (by decide : codes "AFTEN WM96" = [0x41, 0x46, 0x54, 0x45, 0x4E, 0x20, 0x57, 0x4D, 0x39, 0x36]))
  case mfrSerial =>
    intro s dt
    change execMfrSerial dt s = _
    simp only [execMfrSerial, eff_next, set_blk, smBlock, List.length_map, List.length_range, Blk.rd_tick]
  case mfrOrderingCode => exact fun s dt => next_withBlk (orderingCode_block _ _ (s.blk.tick dt))

/-! ### Commands -/

/-- Settles O14: OPERATION written with 0x80 by what it admits again, the other commands by their definitions. -/
theorem pmbusCommands : Obligations.PmbusCommands := by
  unfold Obligations.PmbusCommands
  refine ⟨?operationOn, ?operationOnPlain, fun s dt => rfl, fun s dt => rfl, fun s dt => rfl, fun s dt => rfl, fun s dt => rfl,
    fun s dt => rfl, ?smbusUnsupported⟩
  case operationOn =>
    rintro s dt waits ⟨off, present⟩
    have again : (s.blk.pwr.refused || s.blk.pwr.byCommand) = true := by simpa using waits
    refine ⟨_, next_withBlk ?_, rfl⟩
    simp only [operationOn, Blk.putPwr, Blk.tick, again, off, Nat.ble_eq.mpr present, and_true, Bool.not_false, Bool.and_true, if_true]
    rfl
  case operationOnPlain =>
    rintro s dt ⟨notRefused, notOff⟩
    refine next_withBlk ?_
    simp only [operationOn, Blk.putPwr, Blk.tick, notRefused, notOff, and_false, Bool.or_false, Bool.false_and, Bool.false_eq_true, if_false]
    rfl
  case smbusUnsupported =>
    intro s dt code pecFailed hc
    have unsupported : (pmCodes.contains (code % 256) && !pecFailed) = false := by
      rcases hc with failed | other
      · simp [failed]
      · simp [other]
    change execSmbusUnsupported dt code pecFailed s = _
    simp only [execSmbusUnsupported, eff_next, set_blk, unsupported, Bool.false_eq_true, if_false]
    rfl

end Sys2Proof.Machine
end

