-- ==== Sys2Proof/Proofs/DebugAndWindows.lean ====
section
/-!
O17: the violation count, the barrier, the debug port, member windows and shared tables (R369 to R372, R378, R416, R418, R425, R426).
-/

namespace Sys2Proof.Machine

/-! ### Member windows -/

/-- The offset of a window, and what lies in it. -/
theorem target_member {j o : Nat} (hj : j < 7) (ho : o < 0x800000) : target (0x800000 + 0x800000 * j + o) = .member j o := by
  unfold target
  rw [if_neg (by omega), if_neg (by omega), if_neg (by omega), if_neg (by omega), if_neg (by omega), if_neg (by omega),
    if_neg (by omega), if_pos (by omega), show (0x800000 + 0x800000 * j + o - 0x800000) / 0x800000 = j by omega,
    show (0x800000 + 0x800000 * j + o) % 0x800000 = o by omega]

/-- An access through a window of a member that is reached is carried toward it, and a read answers what came back. -/
theorem windowAccess_carried {b : Blk} {j o path depth p : Nat} (hw : windowPath b j = some (path, depth))
    (ht : toward b (pairActive b (path % 8)) = some p) (hs : sharedRange o = false) (mid data value : Nat) (write : Bool) :
    windowAccess mid j o data value write false b =
      if write then chnSend p 5 ([o, mid, data % 2 ^ 32, 1] ++ pathList path depth) b
      else (chnSend p 5 ([o, mid, data % 2 ^ 32, 0] ++ pathList path depth) b).emit (.word (value % 2 ^ 32) 0) := by
  simp only [windowAccess, hw, hs, ht, Bool.false_eq_true, if_false]
  cases write
  · simp only [b2n, Bool.false_eq_true, if_false]
  · simp only [b2n, if_true]

/-- An access through a window of no member, or to a shared range, reaches nothing: a read answers 0. -/
theorem windowAccess_nothing {b : Blk} {j o : Nat} (h : windowPath b j = none ∨ sharedRange o = true) (mid data value : Nat)
    (write lost : Bool) : windowAccess mid j o data value write lost b = if write then b else b.emit (.word 0 0) := by
  cases named : windowPath b j with
  | none => simp only [windowAccess, named]
  | some q =>
    have shared := h.resolve_left (by simp [named])
    simp only [windowAccess, named, shared, if_true]

/-- A granted access at a window's offset is an access through the window. -/
theorem memberWindow_granted {b : Blk} {mid j o : Nat} {write : Bool} (hj : j < 7) (ho : o < 0x800000) (h4 : o % 4 = 0)
    (hc : regCheck b mid (0x800000 + 0x800000 * j + o) write = none) (data value : Nat) (lost : Bool) :
    memberWindow mid (0x800000 + 0x800000 * j + o) data value write lost none b = windowAccess mid j o data value write lost b := by
  have aligned : (0x800000 + 0x800000 * j + o) / 4 * 4 = 0x800000 + 0x800000 * j + o := by omega
  simp only [memberWindow, aligned, target_member hj ho, hc]

/-- An access that has come to the member its path names is performed there, as the member's own. -/
theorem windowIncoming_here {b : Blk} {p : Nat} (hr : inRing b = true) (hp : pairActive b (p % 8) = ownPos b) (mid o data : Nat)
    (write : Bool) : windowIncoming mid o data write [p] b =
      if write then busWrite 6 mid o data 15 false false b
      else (busRead 6 mid o b).1.emit (.word (busRead 6 mid o b).2.1 (b2n (busRead 6 mid o b).2.2)) := by
  simp [windowIncoming, hr, hp]

/-- An access for another member of the ring is sent on toward it. -/
theorem windowIncoming_passes {b : Blk} {p q : Nat} (hr : inRing b = true) (hp : pairActive b (p % 8) ≠ ownPos b)
    (ht : toward b (pairActive b (p % 8)) = some q) (mid o data : Nat) (l : List Nat) (write : Bool) :
    windowIncoming mid o data write (p :: l) b = chnSend q 5 ([o, mid, data % 2 ^ 32, b2n write] ++ (p :: l).map (· % 8)) b := by
  simp [windowIncoming, hr, hp, ht]

/-! ### Shared tables -/

/-- The layer descriptors and the scenes are shared. -/
theorem sharedRange_tables {a : Nat} (lo : 0x400000 ≤ a) (hi : a < 0x580000) : sharedRange a = true := by
  unfold sharedRange target
  rw [if_neg (by omega)]
  by_cases descs : a < 0x500000
  · rw [if_pos descs]
  · rw [if_neg descs, if_pos hi]

/-- A granted write of the lead's to a shared table that comes around the ring is applied under its writer's MID, and goes on. -/
theorem sharedTableWrite_granted {b : Blk} {mid a data port : Nat} (lo : 0x400000 ≤ a) (hi : a < 0x580000) (h4 : a % 4 = 0)
    (hm : mid < 0x20) (hc : regCheck b mid a true = none) (hmap : mapped a = true) (hr : inRing b = true) (hp : port = 1 ∨ port = 2)
    (m : FrameStore) : sharedTableWrite mid a data port b m = announce b
      (sendAround ((grantedWrite 6 mid a data b.now 0 false false b).rd F.ENS_STAT_LEAD_POS 0) [3 - port] [a, mid, data, 1]
        (grantedWrite 6 mid a data b.now 0 false false b)) m := by
  have aligned : a / 4 * 4 = a := by omega
  have notStart : port ≠ 0 := by omega
  have notBeneath : port ≠ 3 := by omega
  have ring : Nat.blt 3 port = false := by rcases hp with rfl | rfl <;> rfl
  have noReport : ¬ (0x21 ≤ mid ∧ mid ≤ 0x27) := by omega
  have notCopy : mid ≠ 0x20 := by omega
  simp only [sharedTableWrite, aligned, notStart, notBeneath, ring, noReport, hr, sharedRange_tables lo hi, hmap, sharedRx, notCopy, hc,
    beq_eq_false_iff_ne.2 notBeneath, Bool.not_true, Bool.false_and, Bool.or_false, Bool.true_or, Bool.and_true, Bool.false_eq_true,
    false_and, if_true, if_false]

/-! ### Debug -/

/-- A granted use of debug on a locked slot is counted, kept as the last one, and recorded with event 0x0100. -/
theorem debugUse_locked {b : Blk} {a k : Nat} (slot : acgSlot a = some k) (locked : slotLocked b k = true)
    (admitted : dbgAdmitted b k = true) (write : Bool) :
    debugUse a write b = raiseAs 0x08 dbgPage 0x100 sevWarning (64 * k + 2 ^ 15 * b2n write + 2 ^ 16 * bits a 2 6) (evB 0)
      (((b.bump F.DBG_USES_COUNT 0).wr F.DBG_LAST_ADDR 0 a |>.wr F.DBG_LAST_SLOT 0 k).put F.DBG_LAST_WRITE 0 write) := by
  simp only [debugUse, slot, locked, admitted, Bool.and_self, if_true]

/-- An accepted write of ACG_VIOL_COUNT.CLEAR by a host clears the count. -/
theorem regWrite_violClear {b : Blk} {mid : Nat} (hm : mid = 0x01 ∨ mid = 0x04) (h : accepts b mid 0x20068 0x80000000 = true) :
    regWrite mid 0x20068 0x80000000 b = b.wr F.ACG_VIOL_COUNT_COUNT 0 0 := by
  rw [regWrite_acg (o := 0x68) h (by decide) (by decide) rfl]
  show violClear mid 0x80000000 b = _
  rw [violClear, if_neg (by decide), if_pos hm]

/-- Settles O17, from what windows, shared tables and debug do. -/
theorem debugAndWindowCommands : Obligations.DebugAndWindowCommands := by
  unfold Obligations.DebugAndWindowCommands
  refine ⟨?violCountClear, ?fenceDrained, ?fenceTimeout, fun s dt => rfl, fun s dt => rfl, ?bypass, ?dauRead, ?dauWrite,
    fun b refused data => rfl, ?debugUseRecord, ?memberWindowAccess, ?memberWindowNothing, ?memberWindowArrives, ?memberWindowPasses,
    ?sharedTableWrite, fun s dt mid addr data => rfl⟩
  case violCountClear => exact fun s dt mid hm h => next_withBlk (regWrite_violClear hm h)
  case fenceDrained =>
    intro s dt open_
    have undrained : (s.blk.tick dt).on F.ACG_FENCE_DRAINED 0 = false := by simp [Blk.on, open_]
    change execFenceDrained dt s = _
    simp only [execFenceDrained, eff_next, set_blk, undrained, Bool.false_eq_true, if_false, Blk.rd_tick]
  case fenceTimeout =>
    rintro s dt ⟨open_, untold⟩ due
    have undrained : (s.blk.tick dt).on F.ACG_FENCE_DRAINED 0 = false := by simp [Blk.on, open_]
    have untold' : (s.blk.tick dt).acg.fenceTold = false := untold
    have due' : Nat.ble ((s.blk.tick dt).acg.commitAt + 1000000) (s.blk.tick dt).now = true := Nat.ble_eq.mpr due
    change execFenceTimeout dt s = _
    simp only [execFenceTimeout, eff_next, set_blk, undrained, untold', due', Bool.not_false, Bool.and_self, if_true]
    rfl
  case bypass =>
    rintro s dt code tdi ⟨notId, notDau⟩
    change execBypass dt code tdi s = _
    simp only [execBypass, eff_next, set_blk, notId, notDau, if_false]
  case dauRead =>
    rintro s dt addr c rfl
    exact ⟨rfl, rfl⟩
  case dauWrite =>
    rintro s dt addr data c rfl
    exact ⟨rfl, rfl⟩
  case debugUseRecord => exact fun b a k write slot ⟨locked, admitted⟩ => debugUse_locked slot locked admitted write
  case memberWindowAccess =>
    rintro s dt mid j o data value write path depth p ⟨hj, ho, h4⟩ hw ht hc hs
    change execMemberWindowAccess dt mid (0x800000 + 0x800000 * j + o) data value write false none s = _
    simp only [execMemberWindowAccess, effM_next, memberWindow_granted hj ho h4 ((regCheck_tick ..).trans hc) data value false,
      windowAccess_carried hw ht hs]
    rfl
  case memberWindowNothing => exact fun b mid j o data value write lost h => windowAccess_nothing h mid data value write lost
  case memberWindowArrives =>
    intro s dt mid addr data value lost p hr hp
    have here (write : Bool) : exec (.memberWindowAccess dt mid addr data value write lost (some [p])) s =
        .next (s.withBlk (announce (s.blk.tick dt) (windowIncoming mid (addr % 0x800000) data write [p] (s.blk.tick dt)) s.store)) := rfl
    refine ⟨(here true).trans ?_, (here false).trans ?_⟩
    · rw [windowIncoming_here hr hp, if_pos rfl]
    · rw [windowIncoming_here hr hp, if_neg Bool.false_ne_true]
  case memberWindowPasses => exact fun b mid o data p q l write hr hp ht => windowIncoming_passes hr hp ht mid o data l write
  case sharedTableWrite =>
    rintro s dt mid addr data port ⟨lo, hi, h4⟩ hm hc hmap ⟨hr, hp⟩
    change execSharedTableWrite dt mid addr data port s = _
    simp only [execSharedTableWrite, effM_next, sharedTableWrite_granted lo hi h4 hm ((regCheck_tick ..).trans hc) hmap hr hp]
    rfl

end Sys2Proof.Machine
end

