-- ==== Sys2Proof/Proofs/PowerUp.lean ====
section
/-!
O20: insertion and start-up, the pins and the straps (R429, R430, R432 to R434).
-/

namespace Sys2Proof.Machine

/-- States with equal blocks and equal frame stores are equal outcomes. -/
theorem next_withBoth {s : State} {b c : Blk} {m n : FrameStore} (hb : b = c) (hm : m = n) :
    (Host.Outcome.next (s.withBoth b m) : Host.Outcome State Fault Refusal) = .next (s.withBoth c n) := by rw [hb, hm]

/-! ### What a power-off leaves of the power path -/

/-- A power-off leaves the power path with the rail off and nothing requested or warned, in step 2 or before. -/
theorem powerOff_pwr (state : Nat) (b : Blk) : (powerOff state b).pwr = { b.pwr with
    at_ := if 2 ≤ b.pwr.at_ then 2 else b.pwr.at_, since := b.up, rail := false, good := none, goodBefore := goodTime b, reset := none,
    warned := none, strapTold := none } := by
  rw [← blocksReset_pwr b]
  simp only [powerOff]
  split
  · rfl
  · rfl

/-- A power-off of a module past step 1 leaves it in step 2. -/
theorem powerOff_step {b : Blk} (h : 2 ≤ b.pwr.at_) (state : Nat) : (powerOff state b).pwr.at_ = 2 := by
  rw [powerOff_pwr]
  exact if_pos h

/-! ### The steps of the start -/

section
variable {b : Blk}

/-- The pins are judged at each sample; where neither enters CHATTER no event is recorded. -/
theorem pinSample_judged {present eject : Bool} {p e : Nat × Contact} (h : 2 ≤ b.pwr.at_)
    (hp : p = pinStep b.up 500 2 present (b.rd F.HSW_STAT_PRESENT 0) b.pwr.present)
    (he : e = pinStep b.up 5 5 eject (b.rd F.HSW_STAT_EJECT 0) b.pwr.eject)
    (calmP : p.1 = 4 → b.rd F.HSW_STAT_PRESENT 0 = 4) (calmE : e.1 = 4 → b.rd F.HSW_STAT_EJECT 0 = 4) :
    pinSample present eject b = ((b.putPwr { b.pwr with
      present := p.2, eject := e.2, presentNow := present, ejectNow := eject,
      wentOut := b.pwr.wentOut || (p.1 == 0 && b.rd F.HSW_STAT_PRESENT 0 != 0) }).wr F.HSW_STAT_PRESENT 0 p.1).wr F.HSW_STAT_EJECT 0 e.1 := by
  have noP : ¬ (p.1 = ctChatter ∧ presentState b ≠ ctChatter) := fun ⟨c, n⟩ => n (calmP c)
  have noE : ¬ (e.1 = ctChatter ∧ ejectState b ≠ ctChatter) := fun ⟨c, n⟩ => n (calmE c)
  simp only [pinSample, if_neg (Nat.not_lt.2 h)]
  rw [show pinStep b.up 500 2 present (presentState b) b.pwr.present = p from hp.symm,
    show pinStep b.up 5 5 eject (ejectState b) b.pwr.eject = e from he.symm, if_neg noE, if_neg noP]
  rfl

/-- A pin judged ACTIVE or FOUND_ACTIVE is present. -/
theorem isPresent_of (h : b.rd F.HSW_STAT_PRESENT 0 = 1 ∨ b.rd F.HSW_STAT_PRESENT 0 = 2) : isPresent b = true := by
  rcases h with e | e <;> simp [isPresent, presentState, e]

/-- Step 3 begins the power-on check; a refusal goes on unless PRESENT_N went and came. -/
theorem presenceActive_step (h : b.pwr.at_ = 2) (hp : isPresent b = true) : presenceActive b =
    if (b.pwr.refused && !b.pwr.wentOut) = true ∨ (b.pwr.byCommand && !b.pwr.wentOut) = true then
      b.putPwr { b.pwr with at_ := 3, since := b.up, refused := b.pwr.refused && !b.pwr.wentOut,
                            byCommand := b.pwr.byCommand && !b.pwr.wentOut, wentOut := false }
    else (b.putPwr { b.pwr with at_ := 3, since := b.up, refused := b.pwr.refused && !b.pwr.wentOut,
                                byCommand := b.pwr.byCommand && !b.pwr.wentOut, wentOut := false }).wr F.HSW_STAT_STATE 0 1 := by
  have go : ¬ (b.pwr.at_ ≠ 2 ∨ (!isPresent b) = true) := by simp [h, hp]
  rw [presenceActive, if_neg go]
  rfl

/-- Step 4: after 10 ms with the ejector closed and the rail within its limits the soft start begins. -/
theorem powerOnCheck_starts {least most : Nat} (h : b.pwr.at_ = 3) (due : b.pwr.since + 10000000 ≤ b.up) (free : b.pwr.refused = false)
    (on : b.pwr.byCommand = false) (closed : ejectAsserted b = false) (present : isPresent b = true)
    (lo : 10 * b.rd F.HSW_LIMITS_UV_WARN 0 ≤ least) (hi : most ≤ 10 * b.rd F.HSW_LIMITS_OV_OFF 0) :
    powerOnCheck least most b = ((b.putPwr { b.pwr with at_ := 5, since := b.up }).wr F.HSW_STAT_STATE 0 2).bump F.HSW_LIFE_INSERTIONS 0 := by
  have go : ¬ (b.pwr.at_ ≠ 3 ∨ b.up < b.pwr.since + 10000000) := by simp [h, due]
  rw [powerOnCheck, if_neg go]
  simp only [free, on, closed, present, Nat.ble_eq.mpr lo, Nat.ble_eq.mpr hi, Bool.not_false, Bool.and_self, Bool.false_eq_true,
    if_true, if_false]
  rfl

/-- Step 7: 1 ms after 12 V is good, with no reset requested, the straps are latched. -/
theorem internalResetRelease_latches {t : Nat} (h : b.pwr.at_ = 6) (good : b.pwr.good = some t) (due : t + 1000000 ≤ b.up)
    (clear : b.pwr.reset = none) (straps : Nat) : internalResetRelease straps b =
    latchStraps straps (((b.putPwr { b.pwr with at_ := 7, since := b.up, resetN := false, reset := none }).wr F.SYS_ROLE_ROLE 0 1).wr
      F.SYS_ROLE_PREV 0 1) := by
  simp only [internalResetRelease, good, clear]
  rw [if_pos ⟨h, due⟩]

/-- Straps that differ from the latched ones are told once. -/
theorem strapSample_differs {v w : Nat} (hw : w = bits v 0 1 + 16 * bits v 4 4 + 256 * bits v 8 3 + 2048 * bits v 11 1)
    (h : 7 ≤ b.pwr.at_) (hd : w ≠ b.rd F.SYS_STRAPS_SEAT 0 + 16 * b.rd F.SYS_STRAPS_SLOT 0 + 256 * b.rd F.SYS_STRAPS_ENS_POS 0 +
      2048 * b.rd F.ACG_MODE_STRAP 0) : strapSample v b =
    if b.pwr.strapTold = some w then b.wr F.SYS_STAT_STRAP_DIFF 0 1
    else raise sysPage 0x105 sevWarning (w % 2048) (evB 3) ((b.wr F.SYS_STAT_STRAP_DIFF 0 1).putPwr { b.pwr with strapTold := some w }) := by
  subst hw
  rw [strapSample, if_neg (not_or.2 ⟨Nat.not_lt.2 h, hd⟩)]
  rfl

/-- A start that is aborted switches the module off. -/
theorem startupAbort_off (lo : 3 ≤ b.pwr.at_) (hi : b.pwr.at_ < 9) (h : b.rd F.HSW_STAT_PRESENT 0 = 0 ∨ ejectAsserted b = true) :
    startupAbort b = powerOff (if b.pwr.refused then 5 else 1) b := if_pos ⟨lo, hi, h⟩

end

/-! ### The straps -/

/-- SEAT and ENS_POS latched, with the slot that stands: that of step 2, or after a module reset the one read anew. -/
def seatLatched (v : Nat) (b : Blk) : Blk :=
  let c := (b.wr F.SYS_STRAPS_SEAT 0 (bits v 0 1)).wr F.SYS_STRAPS_ENS_POS 0 (bits v 8 3)
  if b.rd F.SYS_STAT_RESET_CAUSE 0 = 0 then c else c.putPwr { c.pwr with slot := bits v 4 4 }

/-- SYS_STRAPS and the strap of the mode latched. -/
def strapsLatched (v : Nat) (b : Blk) : Blk :=
  ((seatLatched v b).wr F.SYS_STRAPS_SLOT 0 (seatLatched v b).pwr.slot).put F.ACG_MODE_STRAP 0 (bit v 11)

/-- The straps are latched, and the mode saved takes effect where PMODE_SEL selects it. -/
theorem latchStraps_eq (v : Nat) (b : Blk) : latchStraps v b =
    ((strapsLatched v b).wr F.ACG_MODE_MODE 0 (if bit v 11 then b.acg.savedMode.getD 0 else 0)).wr F.ACG_MODE_SAVED 0
      (if bit v 11 then b2n b.acg.savedMode.isSome else 0) := by
  have cause : ((b.wr F.SYS_STRAPS_SEAT 0 (bits v 0 1)).wr F.SYS_STRAPS_ENS_POS 0 (bits v 8 3)).rd F.SYS_STAT_RESET_CAUSE 0 =
      b.rd F.SYS_STAT_RESET_CAUSE 0 := by
    rw [Blk.rd_wr_ne _ _ _ _ _ _ _ _ (by decide), Blk.rd_wr_ne _ _ _ _ _ _ _ _ (by decide)]
  have saved : (strapsLatched v b).acg.savedMode = b.acg.savedMode := by
    show (seatLatched v b).acg.savedMode = _
    unfold seatLatched
    split <;> rfl
  have latched : latchStraps v b = match bit v 11, (strapsLatched v b).acg.savedMode with
      | true, some m => ((strapsLatched v b).wr F.ACG_MODE_MODE 0 m).wr F.ACG_MODE_SAVED 0 1
      | _, _ => ((strapsLatched v b).wr F.ACG_MODE_MODE 0 0).wr F.ACG_MODE_SAVED 0 0 := by
    simp only [latchStraps, cause, strapsLatched, seatLatched] <;> rfl
  rw [latched, saved]
  cases bit v 11 <;> cases b.acg.savedMode <;> rfl

/-- What the latched straps read as. -/
theorem rd_seatLatched (v : Nat) (b : Blk) :
    (seatLatched v b).rd F.SYS_STRAPS_SEAT 0 = bits v 0 1 ∧ (seatLatched v b).rd F.SYS_STRAPS_ENS_POS 0 = bits v 8 3 ∧
      (seatLatched v b).pwr.slot % 16 = if b.rd F.SYS_STAT_RESET_CAUSE 0 = 0 then b.pwr.slot % 16 else bits v 4 4 := by
  have seat : ((b.wr F.SYS_STRAPS_SEAT 0 (bits v 0 1)).wr F.SYS_STRAPS_ENS_POS 0 (bits v 8 3)).rd F.SYS_STRAPS_SEAT 0 = bits v 0 1 := by
    rw [Blk.rd_wr_ne _ _ _ _ _ _ _ _ (by decide), Blk.rd_wr_same]
    exact Nat.mod_mod ..
  have pos : ((b.wr F.SYS_STRAPS_SEAT 0 (bits v 0 1)).wr F.SYS_STRAPS_ENS_POS 0 (bits v 8 3)).rd F.SYS_STRAPS_ENS_POS 0 = bits v 8 3 := by
    rw [Blk.rd_wr_same]
    exact Nat.mod_mod ..
  unfold seatLatched
  split
  · exact ⟨seat, pos, rfl⟩
  · exact ⟨seat, pos, Nat.mod_mod ..⟩

/-- What the registers of the straps read as once they are latched. -/
theorem rd_latchStraps (v : Nat) (b : Blk) :
    (latchStraps v b).rd F.SYS_STRAPS_SEAT 0 = bits v 0 1 ∧
      (latchStraps v b).rd F.SYS_STRAPS_SLOT 0 = (if b.rd F.SYS_STAT_RESET_CAUSE 0 = 0 then b.pwr.slot % 16 else bits v 4 4) ∧
      (latchStraps v b).rd F.SYS_STRAPS_ENS_POS 0 = bits v 8 3 ∧ (latchStraps v b).rd F.ACG_MODE_STRAP 0 = b2n (bit v 11) ∧
      (latchStraps v b).rd F.ACG_MODE_MODE 0 = (if bit v 11 then b.acg.savedMode.getD 0 % 2 else 0) ∧
      (latchStraps v b).rd F.ACG_MODE_SAVED 0 = (if bit v 11 then b2n b.acg.savedMode.isSome else 0) := by
  obtain ⟨seat, pos, slot⟩ := rd_seatLatched v b
  have flag (x : Bool) : b2n x % 2 = b2n x := by cases x <;> rfl
  have others (f : Fld) (hm : f.key 0 0 ≠ F.ACG_MODE_MODE.key 0 0) (hs : f.key 0 0 ≠ F.ACG_MODE_SAVED.key 0 0) :
      (latchStraps v b).rd f 0 = (strapsLatched v b).rd f 0 := by
    rw [latchStraps_eq, Blk.rd_wr_ne _ _ _ _ _ _ _ _ hs, Blk.rd_wr_ne _ _ _ _ _ _ _ _ hm]
  refine ⟨?_, ?_, ?_, ?_, ?_, ?_⟩
  · rw [others _ (by decide) (by decide), strapsLatched, Blk.put, Blk.rd_wr_ne _ _ _ _ _ _ _ _ (by decide),
      Blk.rd_wr_ne _ _ _ _ _ _ _ _ (by decide), seat]
  · rw [others _ (by decide) (by decide), strapsLatched, Blk.put, Blk.rd_wr_ne _ _ _ _ _ _ _ _ (by decide), Blk.rd_wr_same]
    exact slot
  · rw [others _ (by decide) (by decide), strapsLatched, Blk.put, Blk.rd_wr_ne _ _ _ _ _ _ _ _ (by decide),
      Blk.rd_wr_ne _ _ _ _ _ _ _ _ (by decide), pos]
  · rw [others _ (by decide) (by decide), strapsLatched, Blk.put, Blk.rd_wr_same]
    exact flag _
  · rw [latchStraps_eq, Blk.rd_wr_ne _ _ _ _ _ _ _ _ (by decide), Blk.rd_wr_same]
    cases bit v 11 <;> rfl
  · rw [latchStraps_eq, Blk.rd_wr_same]
    cases bit v 11
    · rfl
    · exact flag _

/-- Settles O20, from what each step of the start does under its conditions. -/
theorem powerCommandsStart : Obligations.PowerCommandsStart := by
  unfold Obligations.PowerCommandsStart
  refine ⟨?longContactMate, ?mcReady, ?pinSample, ?presenceActive, ?presenceRefused, ?powerOnCheck, ?softStartDone,
    ?internalResetRelease, rd_latchStraps, ?operatingState, ?strapSample, ?startupAbort⟩
  case longContactMate =>
    rintro s dt b rfl h
    exact next_withBlk (if_neg (not_not.2 h))
  case mcReady =>
    rintro s dt slot b rfl h
    exact next_withBlk (if_neg (not_not.2 h))
  case pinSample =>
    rintro s dt present eject b p e rfl h hp he ⟨calmP, calmE⟩
    exact next_withBlk (pinSample_judged h hp he calmP calmE)
  case presenceActive =>
    rintro s dt b again rfl h hp rfl ⟨free, on⟩
    refine next_withBlk ((presenceActive_step h (isPresent_of hp)).trans ?_)
    rw [free, on, if_neg (by decide)]
  case presenceRefused =>
    rintro s dt b rfl ⟨h, refused, stayed⟩ hp
    refine next_withBlk ((presenceActive_step h (isPresent_of hp)).trans ?_)
    rw [if_pos (.inl (by rw [refused, stayed]; rfl))]
    simp only [refused, stayed, Bool.not_false, Bool.and_true]
  case powerOnCheck =>
    rintro s dt least most b rfl ⟨h, due, free, on⟩ ⟨closed, present, lo, hi⟩
    exact next_withBlk (powerOnCheck_starts h due free on closed present lo hi)
  case softStartDone =>
    rintro s dt b rfl ⟨h, due⟩
    exact next_withBlk (if_neg (not_or.2 ⟨not_not.2 h, Nat.not_lt.2 due⟩))
  case internalResetRelease =>
    rintro s dt straps t b rfl ⟨h, good, due, clear⟩
    exact next_withBlk (internalResetRelease_latches h good due clear straps)
  case operatingState =>
    rintro s dt b rfl h
    exact next_withBoth rfl (if_pos h)
  case strapSample =>
    rintro s dt straps v b rfl hv ⟨h, hd⟩
    exact next_withBlk (strapSample_differs hv h hd)
  case startupAbort =>
    rintro s dt b rfl ⟨lo, hi⟩ h
    have off := startupAbort_off lo hi h
    exact next_withBoth off (if_pos (by rw [off]; exact powerOff_step (by omega) _))

end Sys2Proof.Machine
end

