-- ==== Sys2Proof/Proofs/PowerLoss.lean ====
section
/-!
O21: resets, power faults, the loss of a rail, and removal (R435, R436, R443 to R447, R457, R466).
-/

namespace Sys2Proof.Machine

/-! ### What a module reset and a power-off leave -/

/-- A module reset leaves HSW_STAT and SYS_STAT.RESET_CAUSE, the power path in step 6, and what the EEPROM keeps. -/
theorem moduleReset_leaves (c : Nat) {b : Blk} (hr : b.pwr.rail = true) :
    (moduleReset c b).rd F.SYS_STAT_RESET_CAUSE 0 = c % 8 ∧ (moduleReset c b).rd F.HSW_STAT_STATE 0 = 3 ∧
      (moduleReset c b).pwr.at_ = 6 ∧ (moduleReset c b).pwr.reset = none ∧ (moduleReset c b).stg = [] ∧
      (moduleReset c b).clk.saved = b.clk.saved ∧ (moduleReset c b).acg.savedMode = b.acg.savedMode ∧ (moduleReset c b).heads = [] := by
  refine ⟨?_, ?_, ?_⟩
  · rw [moduleReset, hswState, Blk.rd_wr_ne _ _ _ _ _ _ _ _ (by decide), Blk.rd_wr_same]
    rfl
  · have on : (blocksReset b).pwr.rail = true := by rw [blocksReset_pwr]; exact hr
    rw [moduleReset, hswState, Blk.rd_wr_same]
    simp only [Blk.putPwr_pwr, on, if_true]
    rfl
  · simp only [moduleReset, hswState, Blk.wr_pwr, Blk.wr_stg, Blk.wr_clk, Blk.wr_acg, Blk.wr_heads, Blk.putPwr_pwr, Blk.putPwr_stg,
      Blk.putPwr_clk, Blk.putPwr_acg, Blk.putPwr_heads, blocksReset_stg, blocksReset_saved, blocksReset_savedMode, blocksReset_heads,
      and_self]

/-- A power-off takes no time. -/
theorem powerOff_up (state : Nat) (b : Blk) : (powerOff state b).up = b.up := by
  simp only [powerOff, hswState, Blk.wr_up]
  split
  · rw [Blk.emit_up, Blk.putPwr_up, blocksReset_up]
  · rw [Blk.putPwr_up, blocksReset_up]

/-- A power-off leaves the state given, no 12 V and role OFF, and switches the rail off. -/
theorem powerOff_leaves {b : Blk} {state : Nat} (hs : state < 8) (hr : b.pwr.rail = true) :
    (powerOff state b).rd F.HSW_STAT_STATE 0 = state ∧ (powerOff state b).rd F.HSW_STAT_PG12 0 = 0 ∧
      (powerOff state b).rd F.SYS_ROLE_ROLE 0 = 0 ∧ (powerOff state b).pwr.rail = false ∧ Emit.rail false ∈ (powerOff state b).out := by
  refine ⟨?_, ?_, ?_, by rw [powerOff_pwr], ?_⟩
  · rw [powerOff, hswState, Blk.rd_wr_same]
    exact Nat.mod_eq_of_lt hs
  · rw [powerOff, hswState, Blk.rd_wr_ne _ _ _ _ _ _ _ _ (by decide), Blk.rd_wr_same]
    rfl
  · rw [powerOff, hswState, Blk.rd_wr_ne _ _ _ _ _ _ _ _ (by decide), Blk.rd_wr_ne _ _ _ _ _ _ _ _ (by decide),
      Blk.rd_wr_ne _ _ _ _ _ _ _ _ (by decide), Blk.rd_wr_same]
    rfl
  · simp only [powerOff, hr, if_true, hswState, Blk.wr_out, Blk.emit_out, List.mem_append, List.mem_singleton, or_true]

section
variable {b : Blk}

/-- A module reset requested, and not for step 4, is due from its time on. -/
theorem resetIsDue_of {c t : Nat} (h : b.pwr.reset = some (c, t)) (due : t ≤ b.now) (h4 : c ≠ 4) : resetIsDue b = some c := by
  simp only [resetIsDue, h]
  exact if_pos ⟨due, h4⟩

/-- The loss of the rail, by undervoltage or with the module gone, is a power fault or a power-off. -/
theorem railLoss_off (hr : b.pwr.rail = true) {uv : Bool} (h : uv = true ∨ b.rd F.HSW_STAT_PRESENT 0 = 0) :
    railLoss uv b = if uv then powerFault 1 b else powerOff 1 b := by
  rw [railLoss, if_neg (by simp [hr])]
  cases uv with
  | true => rfl
  | false => exact if_pos (h.resolve_left Bool.false_ne_true)

/-- The loss of the rail leaves it off. -/
theorem railLoss_rail (hr : b.pwr.rail = true) {uv : Bool} (h : uv = true ∨ b.rd F.HSW_STAT_PRESENT 0 = 0) :
    (railLoss uv b).pwr.rail = false := by
  rw [railLoss_off hr h]
  cases uv
  · exact congrArg PwrSt.rail (powerOff_pwr 1 b)
  · exact congrArg PwrSt.rail (powerOff_pwr 5 _)

/-- At 18.0 ms of a warning a module that owns, and has released, deasserts OWN_OUT. -/
theorem ejectOwnRelease_drops {t src : Nat} (hw : b.pwr.warned = some (t, src)) (due : b.pwr.warnedAt + 18000000 ≤ b.now)
    (own : ownOut b = true) (rel : b.pr.release.isSome = true) (held : b.pr.released = false) :
    ejectOwnRelease b = epochEndSend (dropOwnership (closeEpoch (b.putPr { b.pr with released := true }))) := by
  simp only [ejectOwnRelease, hw, Nat.ble_eq.mpr due, own, rel, held, Option.isSome_some, Bool.and_self, Bool.true_or, Bool.not_false,
    and_self, if_true]

/-- The ejector closed again after its own warning: the module resets 1 s later. -/
theorem ejectorClosed_resets {t : Nat} (hw : b.pwr.warned = some (t, 0)) (hr : b.pwr.reset = none)
    (closed : b.rd F.HSW_STAT_EJECT 0 = 0) (present : b.rd F.HSW_STAT_PRESENT 0 ≠ 0) :
    ejectorClosed b = raise sysPage 0x106 sevWarning 3 0 (raise hswPage 0x102 sevNotice 0 (evB 0)
      (b.putPwr { b.pwr with reset := some (3, b.now + 1000000000) })) := by
  simp only [ejectorClosed, hw, hr]
  exact if_pos ⟨closed, present⟩

end

/-- Settles O21, from what each command does under its conditions. -/
theorem powerCommandsLoss : Obligations.PowerCommandsLoss := by
  unfold Obligations.PowerCommandsLoss
  refine ⟨?resetNAssert, ?moduleReset, fun c b hr => moduleReset_leaves c hr, ?powerFault, fun code b h => rfl,
    fun b state ⟨hs, hr⟩ => powerOff_leaves hs hr, ?uvWarning, ?railLoss, ?auxRailLoss, ?ejectWarning, ?ejectOwnRelease, ?ejectPowerOff,
    ?ejectorClosed, ?ejectResetDue, ?shutdownPowerOff⟩
  case resetNAssert =>
    rintro s dt b rfl
    refine ⟨fun on => next_withBoth ?_ (if_pos on), fun off => ?_⟩
    · simp only [resetNAssert, if_pos on]
    · refine (next_withBoth ?_ (if_neg (Nat.not_le.2 off)) : _ = Host.Outcome.next (s.withBoth _ s.store))
      simp only [resetNAssert, if_neg (Nat.not_le.2 off)]
  case moduleReset =>
    rintro s dt c t b rfl ⟨h, due, h4⟩
    change execModuleReset dt s = _
    simp only [execModuleReset, effM_next, resetIsDue_of h due h4]
    rfl
  case powerFault =>
    rintro s dt code b rfl h
    change execPowerFault dt code s = _
    simp only [execPowerFault, effM_next, if_pos h]
    rfl
  case uvWarning =>
    rintro s dt least b rfl h
    exact next_withBlk (if_pos h)
  case railLoss =>
    rintro s dt uv b rfl hr h
    exact next_withBoth (railLoss_off hr h) (if_pos (by rw [hr, railLoss_rail hr h]; rfl))
  case auxRailLoss =>
    rintro s dt b rfl
    refine ⟨fun on => next_withBoth ?_ (if_pos on), fun off => ?_⟩
    · simp only [auxRailLoss, on, if_true, powerOff_up]
    · refine (next_withBoth ?_ (if_neg (Bool.not_eq_true _ ▸ off)) : _ = Host.Outcome.next (s.withBoth _ s.store))
      simp only [auxRailLoss, off, Bool.false_eq_true, if_false]
  case ejectWarning =>
    rintro s dt b rfl ⟨asserted, on, fresh⟩
    change execEjectWarning dt s = _
    simp only [execEjectWarning, eff_next, set_blk, asserted, if_true]
    simp only [ejectWarning, on, fresh, Option.isSome_none, Nat.lt_irrefl, Bool.false_eq_true, or_self, if_false]
    rfl
  case ejectOwnRelease =>
    rintro s dt t src b rfl ⟨hw, due⟩ ⟨own, rel, held⟩
    exact next_withBlk (ejectOwnRelease_drops hw due own rel held)
  case ejectPowerOff =>
    rintro s dt t src b rfl ⟨hw, commanded, due⟩
    have off : ejectOffDue (s.blk.tick dt) = true := by
      simp only [ejectOffDue, hw, bne_iff_ne.2 commanded, Nat.ble_eq.mpr due, Bool.and_self]
    change execEjectPowerOff dt s = _
    simp only [execEjectPowerOff, effM_next, off, if_true]
    rfl
  case ejectorClosed =>
    rintro s dt t b rfl ⟨hw, hr⟩ ⟨closed, present⟩
    exact next_withBlk (ejectorClosed_resets hw hr closed present)
  case ejectResetDue =>
    rintro s dt t b rfl ⟨h, due⟩
    change execEjectResetDue dt s = _
    simp only [execEjectResetDue, effM_next, resetIsDue_of h due (by decide)]
    rfl
  case shutdownPowerOff =>
    rintro s dt t b rfl ⟨h, due⟩
    have off : shutdownDue (s.blk.tick dt) = true := by
      simp only [shutdownDue, h, Nat.ble_eq.mpr due]
    change execShutdownPowerOff dt s = _
    simp only [execShutdownPowerOff, effM_next, off, if_true]
    rfl

end Sys2Proof.Machine
end

