-- ==== Sys2Proof/Proofs/RegisterWrites.lean ====
section
/-!
O51: a register write completes, and leaves its word in effect or staged (R11, R12, R41, R43).
-/

namespace Sys2Proof.Machine

/-- Storing a field leaves the control state. -/
theorem ctl_storeField (mid a data : Nat) (copy : Bool) (h : Hit) (b : Blk) : (storeField mid a data copy h b).ctl = b.ctl := by
  unfold storeField
  repeat' split
  all_goals rfl

/-- A word with RWS fields of a layer descriptor or a scene waits staged with its writer. -/
theorem stored_waits {a : Nat} (ht : stages a = true) (hb : ∀ p o, target a ≠ .page p o)
    (hr : ((hitsAt a).any fun h => h.f.acc == .rws) = true) (mid data : Nat) (b : Blk) :
    (mget (stored mid a data b).ctl.staged a).map (fun e => (e.data, e.mid)) = some (data % 2 ^ 32, mid) := by
  rw [stored, forEach_keeps Blk.ctl fun h => ctl_storeField mid a data false h]
  cases t : target a with
  | page p o => exact absurd t (hb p o)
  | _ => simp [stageWord, t, ht, hr]

/-- A word of a layer descriptor other than the publish word, or of a scene, does nothing beside being stored. -/
theorem regWrite_table {b : Blk} {mid a data : Nat} (lo : 0x400000 ≤ a) (hi : a < 0x580000)
    (notPublish : ¬ (a < 0x500000 ∧ a % 256 = 0x2C)) (h : accepts b mid a data = true) :
    regWrite mid a data b = settled b mid a data (stored mid a data b) := by
  have notMember : ∀ j o, target a ≠ .member j o := target_not_member (by omega)
  obtain ⟨ident, done⟩ := busWrite_granted h notMember (midPort mid) false
  simp only [accepts, Bool.and_eq_true, Bool.not_eq_true'] at h
  obtain ⟨⟨⟨-, idle⟩, legal⟩, -⟩ := h
  rw [regWrite, done]
  by_cases desc : a < 0x500000
  · have t : target a = .desc ((a - 0x400000) / 256) (a % 256) := by
      unfold target
      rw [if_neg (by omega), if_pos desc]
    have plain : ¬ (a % 256 = 0x2C ∧ bit data 31 = true) := fun ⟨o, _⟩ => notPublish ⟨desc, o⟩
    simp only [grantedWrite, t, wordWrite, idle, legal, Bool.false_eq_true, if_false, if_neg plain, stored]
  · have t : target a = .scene ((a - 0x500000) / 256) (a % 256) := by
      unfold target
      rw [if_neg (by omega), if_neg desc, if_pos hi]
    simp only [grantedWrite, t, wordWrite, idle, legal, Bool.false_eq_true, if_false, stored]

/-- An accepted write of SYS_FSWIN puts its BASE into effect. -/
theorem regWrite_fswin {b : Blk} {mid data : Nat} (h : accepts b mid 0x70 data = true) :
    regWrite mid 0x70 data b = b.wr F.SYS_FSWIN_BASE 0 (bits data 0 8) := by
  have word : hitsAt 0x70 = [⟨F.SYS_FSWIN_BASE, 0, 0, 0⟩] := rfl
  rw [regWrite_own h (p := sysPage) (o := 0x70) rfl (by decide) rfl (by decide), stored, stageWord_none (by rw [word]; rfl), word]
  simp only [forEach, List.foldl_cons, List.foldl_nil, storeField_rw (f := F.SYS_FSWIN_BASE) false rfl rfl rfl (by decide) rfl]
  rfl

/-- Settles O51, from the words that a write consists of and from what an accepted write of a word leaves. -/
theorem registerWriteCompletes : Obligations.RegisterWriteCompletes := by
  unfold Obligations.RegisterWriteCompletes
  refine ⟨?anyWrite, fun s dt addr misroute words => ⟨_, rfl, rfl, rfl, rfl⟩, ?readWriteField, ?stagedWord⟩
  case anyWrite =>
    intro s dt mid addr bar4 misroute words hb
    have bar0 : (bar4 && mid == 0x01) = false := by
      rcases hb with rfl | other
      · rfl
      · rw [beq_eq_false_iff_ne.2 other, Bool.and_false]
    refine ⟨_, rfl, rfl, rfl, ?_⟩
    simp only [bar0, Bool.false_eq_true, if_false]
  case readWriteField =>
    intro s dt mid data h
    refine ⟨_, (exec_registerWrite_word ..).trans (next_withBlk (congrArg (announce _ · _) (regWrite_fswin h))), ?_, ?_⟩
    · rw [Blk.rd_wr_same]
      simp [bits, F.SYS_FSWIN_BASE]
    · exact fun f i k other => Blk.rd_wr_ne _ _ _ _ _ _ _ _ other
  case stagedWord =>
    rintro s dt mid addr data h ⟨lo, hi⟩ notPublish hr
    refine ⟨_, (exec_registerWrite_word ..).trans (next_withBlk (congrArg (announce _ · _) (regWrite_table lo hi notPublish h))), ?_⟩
    have shared := sharedRange_tables lo hi
    have noPage : ∀ p o, target addr ≠ .page p o := by
      intro p o t
      unfold target at t
      rw [if_neg (by omega)] at t
      split_ifs at t
    have table : stages addr = true := by
      unfold stages
      unfold sharedRange at shared
      cases t : target addr with
      | page p o => exact absurd t (noPage p o)
      | _ => simp_all
    rw [settled_ctl]
    exact stored_waits table noPage hr mid data _

end Sys2Proof.Machine
end

