-- ==== Sys2Proof/Proofs/Thermal.lean ====
section
/-!
O22: sensors, levels, throttle steps, the temperature given to the clock, ageing and life (R449 to R460).
-/

namespace Sys2Proof.Machine

/-- The test of an order on numbers decides it. -/
theorem ble_eq_decide (m n : Nat) : Nat.ble m n = decide (m ≤ n) := by
  rw [Bool.eq_iff_iff, Nat.ble_eq, decide_eq_true_iff]

/-- A number above another is not below it in the test's order. -/
theorem ble_eq_false {m n : Nat} (h : n < m) : Nat.ble m n = false := by
  rw [ble_eq_decide, decide_eq_false (Nat.not_le.2 h)]

section
variable {b : Blk}

/-! ### Sensors -/

/-- A conversion within the range is kept as the newest of four, and changes no register. -/
theorem convert_inRange {t : Int} (h : -400 ≤ t ∧ t ≤ 1500) (n : Nat) : convert n (some t) b = b.putThm { b.thm with
    conv := mset b.thm.conv n ((t :: mgetD b.thm.conv n []).take 4), convAt := mset b.thm.convAt n b.now,
    outside := b.thm.outside.filter (· != n),
    validAt := if (mget b.thm.validAt n).isSome then b.thm.validAt else mset b.thm.validAt n b.now } := by
  simp only [convert, if_pos h]

/-- A sensor with a cause of failure fails: event 0x0102. -/
theorem sensorFails_fails {n : Nat} (hn : n < 39) (up : b.rd F.THM_TEMP_FAILED 0 n = 0) (hc : failCause b n ≠ 0) :
    sensorFails n b = thmRefresh (raise thmPage 0x102 sevWarning (n + 64 * failCause b n) (evB 2)
      ((b.wr F.THM_TEMP_FAILED 0 1 n).putThm { b.thm with validAt := mdel b.thm.validAt n })) := by
  have working : sensorFailed b n = false := by simp [sensorFailed, Blk.on, up]
  have go : ¬ ((39 ≤ n || sensorFailed b n || failCause b n == 0) = true) := by simp [working, hc, hn]
  rw [sensorFails, if_neg go]
  rfl

/-- The causes of a sensor's failure, the first of them that holds. -/
theorem failCause_eq (n : Nat) : failCause b n = (if mgetD b.thm.convAt n 0 + 10000000 ≤ b.now then 1 else if n ∈ b.thm.outside then 2
    else if ∃ t, mget b.thm.apart n = some t ∧ t + 1000000000 ≤ b.now then 3 else 0) := by
  cases apart : mget b.thm.apart n <;> simp [failCause, apart]

/-- A failed sensor recovers after 60 s of valid conversions that do not disagree. -/
theorem sensorRecovers_recovers {n t : Nat} (hv : mget b.thm.validAt n = some t) (due : t + 60000000000 ≤ b.now)
    (down : sensorFailed b n = true) (agrees : disagrees b n = false) :
    sensorRecovers n b = thmRefresh (raise thmPage 0x103 sevNotice n (evB 2) (b.wr F.THM_TEMP_FAILED 0 0 n)) := by
  simp only [sensorRecovers, hv, down, agrees, Nat.ble_eq.mpr due, Bool.not_false, Bool.and_self, if_true, thmEvent]

/-! ### Levels and steps -/

/-- After 10 s below its thresholds a level other than 4 falls by one. -/
theorem levelFall_falls {t : Nat} (hc : b.thm.coolAt = some t) (due : t + 10000000000 ≤ b.now) (h0 : b.rd F.THM_STAT_LEVEL 0 ≠ 0)
    (h4 : b.rd F.THM_STAT_LEVEL 0 ≠ 4) (cool : allCool b = true) :
    levelFall b = thmRefresh (setLevel (b.rd F.THM_STAT_LEVEL 0 - 1) b) := by
  simp only [levelFall, hc]
  exact if_pos ⟨h0, h4, due, cool⟩

/-- An interval that ends steps the throttle up where it began and ends hot. -/
theorem throttleInterval_ends {t : Nat} (hi : b.thm.intervalAt = some t) (due : t + 500000000 ≤ b.now) {hot : Bool}
    (hh : hot = (List.range 39).any fun n => Nat.ble 2 (sensorLevel b n)) : throttleInterval b =
    if b.thm.intervalHot && hot
    then setStep (Nat.min 7 (b.thm.step + 1)) (b.putThm { b.thm with intervalAt := some (t + 500000000), intervalHot := hot })
    else b.putThm { b.thm with intervalAt := some (t + 500000000), intervalHot := hot } := by
  simp only [throttleInterval, hi, if_pos due, hh]
  rfl

/-! ### Ageing and life -/

/-- A measurement of ageing that finds 4 % or more is told once. -/
theorem ageingMeasure_due (due : b.thm.ageAt + 86400000000000 ≤ b.now) (l : List Nat) {top : Nat} (ht : top = maxD (l.take 24)) {c : Blk}
    (hc : c = (b.putThm { b.thm with ageAt := b.now }).wr F.THM_AGE_SLOWDOWN 0 (Nat.min 65535 top)) :
    ageingMeasure l b = if 400 ≤ top ∧ b.thm.ageTold = false then
      raise thmPage 0x104 sevWarning ((l.findIdx? (· == top)).getD 0) (evB 3) (c.putThm { c.thm with ageTold := true }) else c := by
  subst ht hc
  rw [ageingMeasure, if_neg (Nat.not_lt.2 due)]
  simp only [Bool.not_eq_eq_eq_not, Bool.not_true]
  rfl

/-- Life used below four fifths, or told before, is not told. -/
theorem life_untold {used : Nat} {told : Bool} (h : used < 800 ∨ told = true) :
    ¬ (800 ≤ Nat.min 65535 used ∧ (!told) = true) := by
  rcases h with low | rfl
  · exact fun ⟨high, _⟩ => absurd (le_trans high (Nat.min_le_right ..)) (Nat.not_le.2 low)
  · simp

/-- A second of life adds what the hottest die gives, and a second at step 1 or above is a throttled one. -/
theorem lifeTick_due (due : b.thm.lifeAt + 1000000000 ≤ b.now) {add : Nat} {hour : Bool} {c : Blk}
    (ha : add = match hottestDie b with | some r => pow2c (r - 800) | none => 0)
    (hh : hour = decide (b.thm.lifeSavedAt + 3600000000000 ≤ b.now))
    (hc : c = b.putThm { b.thm with
      lifeAt := b.now, life := b.thm.life + add, lifeSaved := if hour then b.thm.life + add else b.thm.lifeSaved,
      lifeSavedAt := if hour then b.now else b.thm.lifeSavedAt })
    (untold : (b.thm.life + add) * 1000 / lifeSpan < 800 ∨ b.thm.lifeTold = true) :
    lifeTick b = (if b.rd F.THM_STAT_STEP 0 = 0 then c else c.bump F.THM_THROTTLED_SECONDS 0).wr F.THM_AGE_LIFE_USED 0
      (Nat.min 65535 ((b.thm.life + add) * 1000 / lifeSpan)) := by
  rw [lifeTick, if_neg (Nat.not_lt.2 due)]
  extract_lets x add' life hour' b1 b2 used b3
  have sameAdd : add' = add := ha.symm
  have sameHour : hour' = hour := (ble_eq_decide ..).trans hh.symm
  have same : b1 = c := by
    rw [hc, ← sameAdd, ← sameHour]
  have counted : b2 = if b.rd F.THM_STAT_STEP 0 = 0 then c else c.bump F.THM_THROTTLED_SECONDS 0 := by
    rw [← same]
    rfl
  have sameUsed : used = Nat.min 65535 ((b.thm.life + add) * 1000 / lifeSpan) := by rw [← sameAdd]
  have told : b3.thm.lifeTold = b.thm.lifeTold := by
    show b2.thm.lifeTold = _
    simp only [b2]
    split <;> rfl
  rw [told, if_neg (by rw [sameUsed]; exact life_untold untold), ← counted, ← sameUsed]

end

/-- Settles O22, from what each thermal command does when it is due. -/
theorem thermalCommands : Obligations.ThermalCommands := by
  unfold Obligations.ThermalCommands
  refine ⟨?sensorConversion, ?convertTakes, ?sensorFailed, fun b n => failCause_eq n, ?sensorRecovered, ?levelFall, ?throttleInterval,
    ?throttleFall, ?stepInEffect, ?ocxoTempPass, ?ageingMeasure, ?lifeTick⟩
  case sensorConversion =>
    rintro s dt temps b c rfl rfl
    rfl
  case convertTakes =>
    intro n t b h
    rw [convert_inRange h]
    refine ⟨?_, rfl, fun j hj => ?_⟩
    · simp only [Blk.putThm_thm, mget_mset, if_true]
    · simp only [Blk.putThm_thm, mget_mset, if_neg hj]
  case sensorFailed =>
    rintro s dt n b rfl ⟨hn, up⟩ hc
    exact next_withBlk (sensorFails_fails hn up hc)
  case sensorRecovered =>
    rintro s dt n t b rfl ⟨hv, due⟩ ⟨down, agrees⟩
    exact next_withBlk (sensorRecovers_recovers hv due down agrees)
  case levelFall =>
    rintro s dt t b rfl ⟨hc, due⟩ ⟨h0, h4, cool⟩
    exact next_withBlk (levelFall_falls hc due h0 h4 cool)
  case throttleInterval =>
    rintro s dt t b hot rfl ⟨hi, due⟩ hh
    exact next_withBlk (throttleInterval_ends hi due hh)
  case throttleFall =>
    rintro s dt b rfl h
    exact next_withBlk (if_pos h)
  case stepInEffect =>
    rintro k b n rfl
    rfl
  case ocxoTempPass =>
    rintro s dt b rfl due
    exact next_withBlk (if_neg (Nat.not_lt.2 due))
  case ageingMeasure =>
    rintro s dt top l b c rfl due ht hc
    exact next_withBlk (ageingMeasure_due due l ht hc)
  case lifeTick =>
    rintro s dt add hour b c rfl due ha hh hc untold
    exact next_withBlk (lifeTick_due due ha hh hc untold)

end Sys2Proof.Machine
end

