-- ==== Sys2Proof/Proofs/FrameStore.lean ====
section
/-!
O23: frame-store accesses, arbitration, patrol reads, hourly counts and check-value runs (R385 to R405).
-/

namespace Sys2Proof.Machine

/-- A next state as an effect on the block and the frame store gives it. -/
theorem next_of_pair {s : State} {p : Blk × FrameStore} {b : Blk} {m : FrameStore} (h : p = (b, m)) :
    (Host.Outcome.next (s.withBoth p.1 p.2) : Host.Outcome State Fault Refusal) = .next (s.withBoth b m) := by rw [h]

section
variable {b : Blk} {m : FrameStore}

/-! ### Reads and writes of the frame store -/

/-- A read that is granted and in range reads. -/
theorem memAccess_read {mid q n : Nat} (hg : fsGranted b mid q false = true) (hu : q + n ≤ usable b) (l : List Nat) (flips skew : Nat)
    (beaten : Bool) : memAccess mid q n false false l flips skew beaten b m = memRead mid q n flips skew beaten b m := by
  simp only [memAccess, hg, Nat.not_lt.2 hu, Bool.false_and, Bool.not_true, Bool.false_eq_true, if_false]

/-- A write that is granted and in range writes. -/
theorem memAccess_write {mid q n : Nat} (hg : fsGranted b mid q true = true) (hu : q + n ≤ usable b) (l : List Nat) (flips skew : Nat)
    (beaten : Bool) : memAccess mid q n true false l flips skew beaten b m = memWrite mid q n l (readCoded m (q / 8) flips skew) b m := by
  simp only [memAccess, hg, Nat.not_lt.2 hu, Bool.false_and, Bool.not_true, Bool.false_eq_true, if_true, if_false]

/-- A read of good words answers their bytes. -/
theorem memRead_clean {q n : Nat} (hm : spanMarked m q n = false) (mid : Nat) (beaten : Bool) :
    memRead mid q n 0 0 beaten b m = (b.emit (.word (m.leRead q n) 0), m) := by
  simp only [memRead, readCoded_clean, hm, OfNat.zero_ne_ofNat, Nat.zero_ne_one, Bool.false_eq_true, or_self, and_self, false_and, if_true, if_false]

/-- A read with a single wrong bit answers the corrected word, which is written back unless a write came between. -/
theorem memRead_corrected {q n flips skew w : Nat} (hm : spanMarked m q n = false) (hr : readCoded m (q / 8) flips skew = (w, 1))
    (mid : Nat) (beaten : Bool) : memRead mid q n flips skew beaten b m =
      ((corrected q mid (!beaten) b).emit (.word ((m.leWrite (8 * (q / 8)) 8 w).leRead q n) 0),
        if beaten then m else m.leWrite (8 * (q / 8)) 8 w) := by
  have disturbed : ¬ (flips = 0 ∧ skew = 0) := by
    rintro ⟨rfl, rfl⟩
    rw [readCoded_clean] at hr
    cases hr
  simp only [memRead, hr, hm, disturbed, OfNat.one_ne_ofNat, Bool.false_eq_true, or_self, if_true, if_false]
  cases beaten <;> rfl

/-- A read of a word that does not read answers no data. -/
theorem memRead_uncorrectable {q n flips skew mid : Nat} (h14 : mid ≠ 0x14)
    (hr : (readCoded m (q / 8) flips skew).2 = 2 ∨ spanMarked m q n = true) (beaten : Bool) : memRead mid q n flips skew beaten b m =
      ((uncorrectable q mid b).emit (.word 0 4), if (readCoded m (q / 8) flips skew).2 = 2 then m.mark q else m) := by
  simp only [memRead, if_pos hr, if_neg h14]

/-- A refused access is recorded, and a refused read answers as its MID's port does. -/
theorem memAccess_refused_eq {mid q n : Nat} {write : Bool} (hg : fsGranted b mid q write = false) (h14 : mid ≠ 0x14) (l : List Nat)
    (flips skew : Nat) (beaten : Bool) : memAccess mid q n write false l flips skew beaten b m =
      (if write then fsViolation (fsPort mid) mid q 1 b
        else (fsViolation (fsPort mid) mid q 0 b).emit (.word 0 (if mid = 0x01 then 0 else if mid = 0x04 ∨ mid = 0x08 then 2 else 4)), m) := by
  simp only [memAccess, hg, h14, Bool.false_and, Bool.false_eq_true, Bool.not_false, if_true, if_false]
  cases write <;> rfl

/-! ### Arbitration and patrol -/

/-- A grant answers the request that is due first, and leaves only the tags changed. -/
theorem arbGrant_grants {ch : Nat} {l : List Req} {r : Req}
    (h : urgentFirst b l = some r ∨ (urgentFirst b l = none ∧ byTags b.mem.tags ch l = some r)) :
    ∃ t, arbGrant ch l b = { b with mem := { b.mem with tags := t } }.emit (.grant ch r.1 r.2.1 r.2.2.1) := by
  rcases h with urgent | ⟨not_urgent, tagged⟩
  · simp only [arbGrant, urgent]
    exact ⟨_, rfl⟩
  · simp only [arbGrant, not_urgent, tagged]
    exact ⟨_, rfl⟩

/-- A patrol read of a good word goes on to the next. -/
theorem scrubRead_clean (due : b.mem.passAt + b.mem.scrub * passNs b / usable b ≤ b.now) (hm : m.isMarked b.mem.scrub = false)
    (beaten : Bool) : scrubRead 0 0 beaten b m = (scrubNext (scrubBehind b), m) := by
  simp only [scrubRead, Nat.not_lt.2 due, hm, readCoded_clean, OfNat.zero_ne_ofNat, Nat.zero_ne_one, Bool.false_eq_true, if_false]

/-- Shares within their limits of 50 % are kept and told to no one. -/
theorem heldWindow_within {ing codec sys : Nat} (hi : ing ≤ 50) (hc : codec ≤ 50) (hs : sys ≤ 50) (ch util urgent scrub : Nat) :
    heldWindow ch util urgent ing codec sys scrub b = (((((b.wr F.MEM_CH_STAT_UTIL ch util).wr F.MEM_CH_STAT_URGENT ch urgent).wr
      F.MEM_HELD_INGEST ch ing).wr F.MEM_HELD_CODEC ch codec).wr F.MEM_HELD_SYSTEM ch sys).wr F.MEM_HELD_SCRUB ch scrub := by
  have within : [(0, ing), (1, codec), (2, sys)].find? (fun e => Nat.blt 50 e.2) = none := by
    simp [hi, hc, hs]
  simp only [heldWindow, within]

/-! ### Check-value runs -/

/-- A trigger starts a run, or counts as an overrun of the run in progress. -/
theorem crcTrigger_eq {u base : Nat} {hold : Option (Nat × Nat)} {t : List (Nat × Option (Nat × Nat))} {c : Blk}
    (ht : (b.unitCrc u).trigs = (base, hold) :: t) (hc : c = b.putCrc u { b.unitCrc u with trigs := t }) : crcTrigger u b =
      if (b.unitCrc u).run.isSome then crcOverrun u c else
        (c.putCrc u { c.unitCrc u with run := some ⟨base, b.now, b.rd F.CRC_EXP_VALUE u, b.rd F.CRC_SEQ_VALUE u, hold⟩ }).wr
          F.CRC_STAT_STATE u 1 := by
  subst hc
  simp only [crcTrigger, ht]
  rfl

/-- A run over a region that has been read ends with its result compared. -/
theorem crcRunEnd_compares {u : Nat} {r : CrcRun} {c : Blk} (hr : (b.unitCrc u).run = some r) (good : crcUnread b m u r = none)
    (due : r.began + crcBytes b u / 4 ≤ b.now)
    (hc : c = crcIdle u (((b.putCrc u { b.unitCrc u with run := none }).bump F.CRC_RUNS_COUNT u).step F.CRC_SEQ_VALUE u)) :
    crcRunEnd u false b m = crcCompare u r (crcResult c m u r) (c.wr F.CRC_RESULT_VALUE u (crcResult c m u r)) := by
  subst hc
  simp only [crcRunEnd, hr, good, blt_eq_false due, Bool.and_false, Bool.false_eq_true, if_false]

/-- A run that meets a word that does not read ends with outcome 5 and event 0x0102. -/
theorem crcRunEnd_unread {u a : Nat} {r : CrcRun} (hr : (b.unitCrc u).run = some r) (bad : crcUnread b m u r = some a) (disturbed : Bool) :
    crcRunEnd u disturbed b m = crcEvent u 0x102 sevWarning 2 (evB 2) ((readFailed 0x17 a (crcIdle u
      (((b.putCrc u { b.unitCrc u with run := none }).bump F.CRC_RUNS_COUNT u).step F.CRC_SEQ_VALUE u))).wr F.CRC_STAT_OUTCOME u 5) := by
  simp only [crcRunEnd, hr, bad, Option.isNone_some, Bool.false_and, Bool.false_eq_true, if_false]

end

/-- Settles O23, from what each access, grant, patrol read and run does under its conditions. -/
theorem frameStoreCommands : Obligations.FrameStoreCommands := by
  unfold Obligations.FrameStoreCommands
  refine ⟨?read, ?corrected, ?uncorrectable, ?write, ?refused, ?outOfWindow, ?arbGrant, ?scrubRead, ?scrubNextWord, ?sramCorrected,
    ?sramUncorrectable, ?heldWindow, ?ceHour, ?crcTrigger, ?crcRunEnd, ?crcRunEndUnread⟩
  case read =>
    rintro s dt mid a n q l beaten b rfl ⟨rfl, hb⟩ ⟨hg, hu, hm⟩
    exact next_of_pair (((memRequest_in_range hb ..).trans (memAccess_read hg hu ..)).trans (memRead_clean hm ..))
  case corrected =>
    rintro s dt mid a n q flips skew w l beaten b rfl ⟨rfl, hb⟩ ⟨hg, hu, hm⟩ hr
    exact next_of_pair (((memRequest_in_range hb ..).trans (memAccess_read hg hu ..)).trans (memRead_corrected hm hr ..))
  case uncorrectable =>
    rintro s dt mid a n q flips skew l beaten b rfl ⟨rfl, hb⟩ ⟨hg, hu, h14⟩ hr
    exact next_of_pair (((memRequest_in_range hb ..).trans (memAccess_read hg hu ..)).trans (memRead_uncorrectable h14 hr _))
  case write =>
    rintro s dt mid a n q l beaten b rfl ⟨rfl, hb⟩ ⟨hg, hu⟩ hw hp
    refine next_of_pair (((memRequest_in_range hb ..).trans (memAccess_write hg hu ..)).trans ?_)
    rw [readCoded_clean, memWrite_whole hw hp]
  case refused =>
    rintro s dt mid a n q flips skew write l beaten b rfl ⟨rfl, hb⟩ ⟨hg, h14⟩
    exact next_of_pair ((memRequest_in_range hb ..).trans (memAccess_refused_eq hg h14 ..))
  case outOfWindow =>
    rintro s dt a n flips skew write misroute l beaten b rfl h
    exact next_of_pair (if_pos ⟨rfl, h⟩)
  case arbGrant =>
    rintro s dt ch l r b rfl h
    obtain ⟨t, ht⟩ := arbGrant_grants h
    exact ⟨t, next_withBlk ht⟩
  case scrubRead =>
    rintro s dt beaten b rfl due hm
    exact next_of_pair (scrubRead_clean due hm _)
  case scrubNextWord =>
    rintro b h
    exact if_neg (Nat.not_le.2 h)
  case sramCorrected =>
    rintro s dt region word flips skew x y z b c n rfl hr told
    refine next_withBlk ?_
    simp only [sramPatrol, hr, told, memEvent]
    rfl
  case sramUncorrectable =>
    rintro s dt region word flips skew x y z b c rfl hr rfl
    refine next_withBlk ?_
    simp only [sramPatrol, hr]
    rfl
  case heldWindow =>
    rintro s dt ch util urgent ing codec sys scrub b rfl ⟨hi, hc, hs⟩
    exact next_withBlk (heldWindow_within hi hc hs ..)
  case ceHour =>
    rintro s dt ch b c rfl hour rfl
    exact next_withBlk (if_neg hour)
  case crcTrigger =>
    rintro s dt u base hold t b c rfl ht hc
    exact next_withBlk (crcTrigger_eq ht hc)
  case crcRunEnd =>
    rintro s dt u r b c rfl hr ⟨good, due⟩ hc
    exact next_withBlk (crcRunEnd_compares hr good due hc)
  case crcRunEndUnread =>
    rintro s dt u a disturbed r b rfl hr bad
    exact next_withBlk (crcRunEnd_unread hr bad disturbed)

end Sys2Proof.Machine
end

