-- ==== Sys2Proof/Proofs/Network.lean ====
section
/-!
O24: received frames, group membership, addresses, links and error correction of the network ports (R110 to R115, R141).
-/

namespace Sys2Proof.Machine

/-- Writing a field of a page leaves the page's fields in other places. -/
theorem Blk.rd_wr_page {f g : Fld} (hk : g.kind = f.kind) (hp : g.off * 32 + g.lo ≠ f.off * 32 + f.lo) (b : Blk) (i v : Nat) :
    (b.wr f i v).rd g i = b.rd g i := by
  refine Blk.rd_wr_ne _ _ _ _ _ _ _ _ ?_
  simp only [Fld.key, Fld.addr, hk, Nat.zero_mul, Nat.add_zero]
  omega

section
variable {b : Blk} {n : Nat}

/-! ### Received frames -/

/-- A received frame is counted as taken, its PTP stamp kept, or as dropped, with the first drop's reason kept for the report. -/
theorem ethFrameRx_up (up : b.on F.NIF_STAT_LINK n = true) (f : EthRx) : ethFrameRx n f b =
    if dropReason b n f = 0 then
      (if f.dest = .ptp true then (b.bump F.NIF_RX_FRAMES_COUNT n).putPort n { b.port n with ptpStamp := b.now }
        else b.bump F.NIF_RX_FRAMES_COUNT n)
    else if (b.port n).dropAt = none then
      (b.bump F.NIF_RX_DROP_COUNT n).putPort n { b.port n with dropAt := some b.now, dropWhy := dropReason b n f }
    else b.bump F.NIF_RX_DROP_COUNT n := by
  simp only [ethFrameRx, linkUp, up, Bool.not_true, Bool.false_eq_true, if_false]
  split
  · next taken =>
    rw [if_pos taken]
    split
    · next ptp => exact (if_pos ptp).symm
    · next other => exact (if_neg other).symm
  · next why dropped =>
    rw [if_neg dropped]
    cases first : (b.port n).dropAt
    · rfl
    · exact (if_neg (Option.some_ne_none _)).symm

/-- A frame is taken exactly when none of the six reasons to drop it holds; a wrong FCS comes first, a wrong length second. -/
theorem dropReason_eq (b : Blk) (n : Nat) (f : EthRx) :
    (dropReason b n f = 0 ↔ f.fcsOk = true ∧ 64 ≤ f.len ∧ f.len ≤ 9216 ∧
      f.tags = (if b.on F.NIF_CFG_VLAN_EN n then [b.rd F.NIF_CFG_VID n] else []) ∧ ipOk f = true ∧ udpOk f = true ∧ destOk b n f.dest = true) ∧
      (f.fcsOk = false → dropReason b n f = 1) ∧ (f.fcsOk = true → f.len < 64 ∨ 9216 < f.len → dropReason b n f = 2) := by
  refine ⟨?_, fun bad => ?_, fun ok len => ?_⟩
  · rw [dropReason]
    cases fcs : f.fcsOk
    · simp
    · cases ip : ipOk f <;> cases udp : udpOk f <;> cases dest : destOk b n f.dest <;> grind
  · simp only [dropReason, bad, Bool.not_false, if_true]
  · simp only [dropReason, ok, Bool.not_true, Bool.false_eq_true, if_false, if_pos len]

/-! ### Queries and reports -/

/-- A query of an older version is remembered, the first of them told, and answered. -/
theorem queryRx_older {version : Nat} (up : b.on F.NIF_STAT_LINK n = true) (old : olderVersion version = true) (group : Nat) {c : Blk}
    (hc : c = (if b.on F.NIF_STAT_OLD_QUERIER n then b.putPort n { b.port n with oldAt := b.now } else
      raise (nifPage n) 0x103 sevNotice (version % 65536 + 65536 * n) 0
        ((b.putPort n { b.port n with oldAt := b.now }).wr F.NIF_STAT_OLD_QUERIER n 1))) :
    queryRx n version group b = forEach ((c.port n).groups.filter fun e => queried version group e.1) (sendReport n) c := by
  simp only [queryRx, linkUp, up, old, Bool.not_true, Bool.false_eq_true, if_false, hc, nifEvent]

/-- A query of the current version is answered. -/
theorem queryRx_current {version : Nat} (up : b.on F.NIF_STAT_LINK n = true) (new : olderVersion version = false) (group : Nat) :
    queryRx n version group b = forEach ((b.port n).groups.filter fun e => queried version group e.1) (sendReport n) b := by
  simp only [queryRx, linkUp, up, new, Bool.not_true, Bool.not_false, Bool.false_eq_true, if_false, if_true]

/-- A repeat that is due is one of the repeats that the port has to send. -/
theorem repeat_due {g t now : Nat} {l : List (Nat × Nat)} (h : (g, t) ∈ l) (due : t ≤ now) :
    (l.any fun e => e.1 == g && Nat.ble e.2 now) = true :=
  List.any_eq_true.2 ⟨_, h, by simp [due]⟩

/-! ### Addresses -/

/-- A claim takes an address of the link-local range that is free to draw, and probes it. -/
theorem claimLinkLocal_eq (n : Nat) (b : Blk) :
    ∃ a, 0xA9FE0100 ≤ a ∧ a ≤ 0xA9FEFEFF ∧ ((claimLinkLocal n b).port n).llAddr = a ∧
      (claimLinkLocal n b).rd F.NIF_STAT_IP4_LL n = 1 ∧ (claimLinkLocal n b).out = b.out ++ [.net n netProbe [a]] := by
  refine ⟨0xA9FE0100 + Config.linkLocal b.fresh % 0xFE00, by omega, by omega, ?_, ?_, ?_⟩
  · simp only [claimLinkLocal, Blk.port, Blk.emit, Blk.wr, Blk.putPort, mgetD_mset, if_true]
  · exact Blk.rd_wr_same ..
  · rfl

end

/-- Settles O24, from what each command of a port does under its conditions. -/
theorem networkCommands : Obligations.NetworkCommands := by
  unfold Obligations.NetworkCommands
  refine ⟨?frameRx, dropReason_eq, ?dropReport, ?queryOlder, ?queryCurrent, ?querierTimeout, ?reportRepeat, ?arpReply, ?addrConflict,
    claimLinkLocal_eq, ?linkUp, ?linkDown, ?fecReport⟩
  case frameRx =>
    rintro s dt n f b rfl up
    exact next_withBlk (ethFrameRx_up up f)
  case dropReport =>
    rintro s dt n t b rfl ⟨hd, due⟩
    change execDropReport .. = _
    simp only [execDropReport, eff_next, hd, if_pos due, nifEvent, set_blk]
  case queryOlder =>
    rintro s dt n version group b c rfl ⟨up, old⟩ hc
    exact next_withBlk (queryRx_older up old group hc)
  case queryCurrent =>
    rintro s dt n version group b rfl ⟨up, new⟩
    exact next_withBlk (queryRx_current up new group)
  case querierTimeout =>
    rintro s dt n b rfl due
    exact next_withBlk (if_pos due)
  case reportRepeat =>
    rintro s dt n g t b c rfl ⟨hm, due⟩ rfl
    exact next_withBlk (if_pos (repeat_due hm due))
  case arpReply =>
    rintro s dt n addr v6 b rfl up h
    refine next_withBlk (if_pos ?_)
    rw [linkUp, up, Bool.true_and]
    rcases h with ⟨rfl, rfl⟩ | ⟨rfl, nonzero, same⟩
    · simp
    · simp [nonzero, ← same]
  case addrConflict =>
    rintro s dt n b c rfl rfl
    rfl
  case linkUp =>
    rintro s dt n b c hb ⟨on, speed, down⟩ rfl
    have gate : (enabled b (nifPage n) && b.rd F.NIF_CFG_SPEED n != 0 && !linkUp b n) = true := by
      have on' : b.on F.PG_CTRL_ENABLE (nifPage n).slot = true := by simp [Blk.on, on]
      simp [enabled, linkUp, on', speed, down]
    have fec : (((b.wr F.NIF_STAT_LINK n 1).wr F.NIF_STAT_SPEED_ACT n (b.rd F.NIF_CFG_SPEED n)).put F.NIF_STAT_AN_DONE n
        (b.on F.NIF_CFG_AN_EN n)).on F.NIF_CFG_FEC_OFF n = b.on F.NIF_CFG_FEC_OFF n := by
      simp (disch := decide) only [Blk.on, Blk.put, Blk.rd_wr_page]
    change execNifLinkUp .. = _
    simp only [execNifLinkUp, eff_next, set_blk, ← hb, gate, if_true, fec, nifEvent]
  case linkDown =>
    rintro s dt n cause b rfl up
    exact next_withBlk (if_pos up)
  case fecReport =>
    rintro s dt n corrected codewords b c due hb rfl rfl
    change execFecReport .. = _
    have port (m : Nat) : ((b.bump F.NIF_FEC_CORR_COUNT n corrected).bump F.NIF_FEC_UNCORR_COUNT n codewords).port m = b.port m := rfl
    have now : ((b.bump F.NIF_FEC_CORR_COUNT n corrected).bump F.NIF_FEC_UNCORR_COUNT n codewords).now = b.now := rfl
    rw [execFecReport, eff_next, set_blk, ← hb]
    cases last : (b.port n).fecAt with
    | none => simp only [port, now, nifEvent, last]
    | some t => simp only [port, now, nifEvent, last]

end Sys2Proof.Machine
end

