-- ==== Sys2Proof/Proofs/Ingest.lean ====
section
/-!
O25: packets, assembly, capture times, pulses and the prompter's decisions (R84 to R89, R114 to R136).
-/

namespace Sys2Proof.Machine

/-- A loop over one value is one turn of it. -/
theorem forEach_singleton {α σ : Type} (x : α) (f : α → σ → σ) (b : σ) : forEach [x] f b = f x b := rfl

/-- A next state with what became eligible announced. -/
theorem next_announced {s : State} {b : Blk} {p q : Blk × FrameStore} (h : p = q) :
    (Host.Outcome.next (s.withBoth (announce b p.1 p.2) p.2) : Host.Outcome State Fault Refusal) =
      .next (s.withBoth (announce b q.1 q.2) q.2) := by rw [h]

section
variable {b : Blk} {m : FrameStore} {c : Nat}

/-! ### Packets of a frame -/

/-- A packet of a frame in assembly ends the frames before it, joins its own, and completes it with its marker. -/
theorem rtpPacketRx_known {p : RtpPkt} {d : Blk} {a a' : Asm} {q t : Blk × FrameStore} (hf : p.flow ∈ flowsOf b c) (h2 : p.flow < 2)
    (accepted : (rtpAccept c p b).2 = true) (hd : d = pathSeen c p.flow (rtpAccept c p b).1) (undone : doneNo d c p.ts = none)
    (ha : asmOf d c p.ts = some a) (hq : q = endsBefore c p.flow a.no d m) (ha' : asmOf q.1 c p.ts = some a')
    (ht : t = takePacket c a' p q.1 q.2) : rtpPacketRx c p b m =
      if endsFrame t.1 c p then
        completeWhere c (fun b a => asmEnded b c a) (onAsm c p.ts (Asm.seeEnd t.1.now p.flow) t.1) t.2
      else t := by
  have received : (!(flowsOf b c).contains p.flow || Nat.ble 2 p.flow) = false := by simp [hf, ble_eq_false h2]
  rw [hq] at ha'
  simp only [rtpPacketRx, received, accepted, ← hd, undone, ha, ha', ht, hq, Bool.not_true, Bool.false_eq_true, Option.isSome_some,
    Option.map_some, Option.getD_some, if_true, if_false]

/-- A packet that is no RTP packet of the flow's payload type is counted as lost. -/
theorem flowAccept_refused {k src version pt : Nat} (hs : b.on F.ING_FLOW_PORT_SSM c k = false ∨ src = b.rd F.ING_FLOW_SRC_ADDR c k)
    (bad : version ≠ 2 ∨ pt ≠ b.rd F.ING_CTRL_PT c) (ssrc : Nat) :
    flowAccept c k src version pt ssrc b = (b.bump F.ING_PKT_LOST_COUNT c, false) := by
  have source : ¬ (b.on F.ING_FLOW_PORT_SSM c k = true ∧ src ≠ b.rd F.ING_FLOW_SRC_ADDR c k) := by
    rintro ⟨ssm, other⟩
    rcases hs with any | own
    · rw [any] at ssm
      cases ssm
    · exact other own
  simp only [flowAccept, if_neg source, if_pos bad]

/-- A packet of the flow's source and payload type is accepted, and locks its flow to its SSRC. -/
theorem flowAccept_accepted {k src version pt ssrc : Nat}
    (hs : b.on F.ING_FLOW_PORT_SSM c k = false ∨ src = b.rd F.ING_FLOW_SRC_ADDR c k) (hv : version = 2) (hp : pt = b.rd F.ING_CTRL_PT c)
    (hl : (b.chan c).lock k = none ∨ (b.chan c).lock k = some ssrc) :
    flowAccept c k src version pt ssrc b = (b.putChan c ((b.chan c).lockTo k ssrc), true) := by
  have source : ¬ (b.on F.ING_FLOW_PORT_SSM c k = true ∧ src ≠ b.rd F.ING_FLOW_SRC_ADDR c k) := by
    rintro ⟨ssm, other⟩
    rcases hs with any | own
    · rw [any] at ssm
      cases ssm
    · exact other own
  have same : ¬ (((b.chan c).lock k).isSome = true ∧ (b.chan c).lock k ≠ some ssrc) := by
    rintro ⟨locked, other⟩
    rcases hl with free | own
    · rw [free] at locked
      cases locked
    · exact other own
  simp only [flowAccept, if_neg source, hv, hp, ne_eq, not_true_eq_false, or_self, if_false, if_neg same]

/-- A packet that is not accepted changes nothing beside what its refusal counts. -/
theorem rtpPacketRx_refused {p : RtpPkt} {d : Blk} (hf : p.flow ∈ flowsOf b c) (h2 : p.flow < 2) (refused : rtpAccept c p b = (d, false)) :
    rtpPacketRx c p b m = (d, m) := by
  have received : (!(flowsOf b c).contains p.flow || Nat.ble 2 p.flow) = false := by simp [hf, ble_eq_false h2]
  simp only [rtpPacketRx, received, refused, Bool.false_eq_true, Bool.not_false, if_true, if_false]

/-- A flow that is locked holds its SSRC. -/
theorem lock_lockTo (x : IngCh) {k : Nat} (hk : k < 3) (ssrc : Nat) : (x.lockTo k ssrc).lock k = some ssrc := by
  match k, hk with
  | 0, _ => rfl
  | 1, _ => rfl
  | 2, _ => rfl

/-! ### Paths and time-outs -/

/-- A path that delivered nothing for PATH_TO goes down, and the frames in assembly are judged again. -/
theorem pathDown_down {k : Nat} (hk : (k = 0 ∧ (b.chan c).last0 + 1000000 * b.rd F.ING_ASM_PATH_TO c ≤ b.now) ∨
      (k = 1 ∧ (b.chan c).last1 + 1000000 * b.rd F.ING_ASM_PATH_TO c ≤ b.now))
    (up : pathUp b c k = true) {d : Blk} (hd : d = raise (ingPage c) 0x101 sevWarning (k % 65536 + 65536 * c) (evB 2) (putPath c k false b)) :
    pathDown c k b m = completeWhere c (fun b a => asmEnded b c a)
      (if pathUp d c 0 || pathUp d c 1 then d else d.wr F.ING_STAT_STATE c 1) m := by
  have main : k ≠ 2 := by omega
  have due : (if k = 0 then (b.chan c).last0 else (b.chan c).last1) + 1000000 * b.rd F.ING_ASM_PATH_TO c ≤ b.now := by
    rcases hk with ⟨rfl, first⟩ | ⟨rfl, second⟩
    · exact first
    · exact second
  subst hd
  rw [pathDown, if_neg main, if_pos ⟨up, due⟩]
  rfl

/-- The frame in assembly completes exactly when the condition names it. -/
theorem completeWhere_one {a : Asm} (h : (b.chan c).asms = [a]) (cond : Blk → Asm → Bool) :
    (cond b a = true → completeWhere c cond b m = completeFrame c a (b.putChan c { b.chan c with asms := [] }) m) ∧
      (cond b a = false → completeWhere c cond b m = (b.putChan c { b.chan c with asms := [a] }, m)) := by
  refine ⟨fun named => ?_, fun other => ?_⟩
  · simp only [completeWhere, h, List.filter, named, Bool.not_true, List.foldl]
  · simp only [completeWhere, h, List.filter, other, Bool.not_false, List.foldl]

/-! ### Evidence -/

/-- One ancillary packet: its timecode, and its pulse where its identifiers are the channel's. -/
theorem ancData_one (did sdid : Nat) (udw : List Nat) {e : Blk}
    (he : e = if did = 0x60 ∧ sdid = 0x60 then b.wr F.ING_TC_TC c (timecode udw) else b) : ancData c [(did, sdid, udw)] b =
      if e.rd F.ING_SIG_PULSE_KIND c = 2 ∧ did = e.rd F.ING_SIG_ANC_DID c ∧ sdid = e.rd F.ING_SIG_ANC_SDID c then pulseSample c udw e
      else e := by
  have stored : (match ([(did, sdid, udw)].filter fun e => e.1 == 0x60 && e.2.1 == 0x60).getLast? with
      | some e => b.wr F.ING_TC_TC c (timecode e.2.2)
      | none => b) = e := by
    rw [he]
    by_cases tc : did = 0x60 ∧ sdid = 0x60
    · simp [tc]
    · rw [if_neg tc, List.filter_cons_of_neg (by simpa using tc)]
      rfl
  unfold ancData
  extract_lets e'
  have same : e' = e := stored
  rw [same]
  by_cases own : did = e.rd F.ING_SIG_ANC_DID c ∧ sdid = e.rd F.ING_SIG_ANC_SDID c
  · rw [List.find?_cons_of_pos (by simpa using own)]
    exact if_congr (by simp [own]) rfl rfl
  · rw [List.find?_cons_of_neg (by simpa using own), if_neg fun h => own h.2]
    rfl

/-- The frame that waits first becomes eligible with its times, its signatures and its pulse. -/
theorem frameEligible_takes {q : Ready} {g : Frame} {b' d e : Blk} (hr : takeReady c (·.kind == 1) b = some (q, b'))
    (ht : frameTimes c q.dest q q.f b' = (d, g))
    (he : e = (let sigs := frameSigs d c q.sampling (8 + 2 * q.depth) q.f.lay m
      let d' := d.wr F.ING_SIGDIG_DIGEST c (crc32c (sigs.flatMap (leBytes 4)))
      showEligible c q.dest { g with sigs := sigs, tc := d.rd F.ING_TC_TC c }
        (makeEligible q.dest none { g with sigs := sigs, tc := d.rd F.ING_TC_TC c }
          (if d'.rd F.ING_SIG_PULSE_KIND c = 1 then pulseSample c (regionSigs d' c (cdiv g.lay.w 64) sigs) d' else d')))) :
    frameEligible c b m = e := by
  subst he
  simp only [frameEligible, hr, ht]

/-! ### Decisions -/

/-- The one deadline that has passed and bites is judged at its own time. -/
theorem deadlinePassed_one {st k d : Nat} {p : Place} {f : Frame} (hp : b.place st k = some p) (hs : p.shown = some f)
    (passed : passedDeadlines b.now f = [d]) (bites : deadlineBites b st d p = true) {e : Blk}
    (he : e = refreshLayer p.layer 0 (rejudge st k 0 false true d d b)) : deadlinePassed st k b =
      mapLeft (fun st' k' p => if st' = st ∧ k' = k then
        forEach (match p.shown with | some f => passedDeadlines e.now f | none => [])
          (fun d p => if deadlineBites e st d p then p.rejudged e st d else p) p else p) e := by
  subst he
  simp only [deadlinePassed, hp, hs, passed, forEach_singleton, bites, if_true] <;> rfl

/-- A layer without a pulse in time freezes with reason 0x09. -/
theorem freezeStep_pulse {l t : Nat} (hc : (layerPol b l).cls ≠ 2) (use : (layerPol b l).usePulse = true)
    (hp : (b.layer l).pulseAt = some t) (due : t + (layerPol b l).pulseMax ≤ b.now) (moving : (b.layer l).frozen = false) :
    freezeStep l b = rejudgeLayer l 0x09 true (b.putLayer l { b.layer l with
      suspect := (layerPol b l).useContent && Nat.ble (layerPol b l).freezeN (b.layer l).identRun, frozen := true, frozenWhy := 0x09 }) := by
  simp only [freezeStep, if_neg hc, use, hp, blt_eq_false due, moving, Bool.and_false, Bool.not_false, Bool.and_self, Bool.true_eq_false,
    Bool.false_eq_true, if_true, if_false]

end

/-- Settles O25, from what each packet, time-out and decision does under its conditions. -/
theorem ingestCommands : Obligations.IngestCommands := by
  unfold Obligations.IngestCommands
  refine ⟨?packetKnown, ?packetRefused, fun c k src version pt ssrc b hs ⟨hv, hp⟩ hl => flowAccept_accepted hs hv hp hl,
    fun x k ssrc hk => lock_lockTo x hk ssrc, ?pathDown, ?pathDownAncillary, fun s dt c b hb => ?skewTimeout,
    fun s dt c b hb => ?assemblyTimeout, fun c cond b m a h => completeWhere_one h cond, ?senderReport, ?senderReportExpiry,
    ?frameEligible, ?ancPacket, fun c did sdid udw b e he => ancData_one did sdid udw he, ?deadlinePassed, ?decision, ?pulseChange,
    fun l b t ⟨hc, use⟩ ⟨hp, due⟩ moving => freezeStep_pulse hc use hp due moving⟩
  case packetKnown =>
    rintro s dt c p b d a a' q t rfl ⟨hf, h2, accepted⟩ hd ⟨undone, ha⟩ ⟨hq, ha'⟩ ht
    have step := rtpPacketRx_known hf h2 accepted hd undone ha hq ha' ht
    refine ⟨fun goesOn => ?_, fun ends => ?_⟩
    · exact next_of_pair (step.trans (by rw [goesOn, if_neg Bool.false_ne_true]))
    · exact next_of_pair (step.trans (if_pos ends))
  case packetRefused =>
    rintro s dt c p b rfl ⟨hf, h2⟩ hs bad
    exact next_of_pair (rtpPacketRx_refused hf h2 (flowAccept_refused hs bad _))
  case pathDown =>
    rintro s dt c k b d rfl hk up hd
    exact next_of_pair (pathDown_down hk up hd)
  case pathDownAncillary =>
    rintro s dt c b rfl due
    refine next_of_pair (m := s.store) ?_
    rw [Sys2Proof.Machine.pathDown, if_pos rfl]
    exact congrArg (·, s.store) (if_pos due)
  case skewTimeout =>
    subst hb
    rfl
  case assemblyTimeout =>
    subst hb
    rfl
  case senderReport =>
    rintro s dt c ntp rtp b rfl flows
    exact next_withBlk (if_neg (by simpa using flows))
  case senderReportExpiry =>
    rintro s dt c p r t b rfl ⟨hs, due⟩
    change execRtcpSrExpiry .. = _
    simp only [execRtcpSrExpiry, eff_next, hs, if_pos due, set_blk]
  case frameEligible =>
    rintro s dt c q g b b' d e rfl hr ht he
    exact next_withBlk (congrArg (announce _ · _) (frameEligible_takes hr ht he))
  case ancPacket =>
    rintro s dt c p b d rfl flows accepted
    refine next_withBlk ?_
    simp [ancPacketRx, flows, accepted]
  case deadlinePassed =>
    rintro s dt st k p f d b c rfl ⟨hp, hs⟩ ⟨passed, bites⟩ hc
    exact next_withBlk (deadlinePassed_one hp hs passed bites hc)
  case decision =>
    rintro s dt l b rfl
    rfl
  case pulseChange =>
    rintro s dt l b rfl
    exact ⟨rfl, rfl⟩

end Sys2Proof.Machine
end

