-- ==== Sys2Proof/Proofs/Contacts.lean ====
section
/-!
O26: signal contacts: samples, debounced runs, STUCK and CHATTER (R196 to R198).
-/

namespace Sys2Proof.Machine

section
variable {b : Blk} {j : Nat}

/-- A contact that is not enabled takes no sample. -/
theorem sigSampleOne_off (off : b.on F.SIG_CFG_EN 0 j = false) (levels : Nat) : sigSampleOne levels j b = b := by
  simp only [sigSampleOne, sigOn, off, Bool.false_eq_true, if_false]

/-- An enabled contact shows the level of its pin and takes it as a sample; a change in CHATTER is counted beside. -/
theorem sigSampleOne_on (on : b.on F.SIG_CFG_EN 0 j = true) (levels : Nat) {act : Bool}
    (ha : act = (bit levels j == b.on F.SIG_CFG_ACTIVE_HIGH 0 j))
    (kept : ¬ (sigState b j = 4 ∧ (!(b.contact j).fresh) = true ∧ act ≠ (b.contact j).level)) (hj : j < 16) : sigSampleOne levels j b =
      (b.wr F.SIG_RAW_ACTIVE 0 (setBits (b.rd F.SIG_RAW_ACTIVE 0) j 1 (b2n act))).putContact j
        ((b.contact j).sample b.now (sigDeb b j) act) := by
  have state (v : Nat) : sigState (b.wr F.SIG_RAW_ACTIVE 0 v) j = sigState b j := by
    refine Blk.rd_wr_ne _ _ _ _ _ _ _ _ ?_
    have words : ∀ i < 16, (sigStateF i).key 0 (i / 8) ≠ F.SIG_RAW_ACTIVE.key 0 0 := by decide
    exact words j hj
  have debounce (v : Nat) : sigDeb (b.wr F.SIG_RAW_ACTIVE 0 v) j = sigDeb b j := by
    refine congrArg (10 * ·) (Blk.rd_wr_ne _ _ _ _ _ _ _ _ ?_)
    have words : ∀ i < 16, F.SIG_CFG_DEBOUNCE.key 0 i ≠ F.SIG_RAW_ACTIVE.key 0 0 := by decide
    exact words j hj
  subst ha
  simp only [sigSampleOne, sigOn, on, if_true, state, if_neg kept, debounce, Blk.wr_now]

/-- A run that has held for DEBOUNCE acts. -/
theorem contactDebounced_due (on : b.on F.SIG_CFG_EN 0 j = true) (quiet : sigState b j ≠ 4)
    (due : (b.contact j).due (sigDeb b j) = true) {r : Nat × Contact}
    (hr : r = (b.contact j).debounced b.now (b.rd F.SIG_CFG_CH_N 0 j) (sigWin b j) (sigState b j)) :
    contactDebounced j b = sigReport j (sigState b j) r.1 (putSigState j r.1 (b.putContact j r.2)) := by
  subst hr
  exact if_pos ⟨on, quiet, due⟩

/-- A run at another level than the last, among few changes: ACTIVE from INACTIVE, or INACTIVE. -/
theorem Contact.debounced_state {c : Contact} {now chN chWin : Nat} (hs : c.settled = some (!c.level))
    (few : ((c.changes ++ [now]).filter fun t => Nat.ble now (t + chWin)).length < chN) (state : Nat) :
    (c.level = true → state = 0 → (c.debounced now chN chWin state).1 = 1) ∧
      (c.level = false → (c.debounced now chN chWin state).1 = 0) := by
  refine ⟨fun high at0 => ?_, fun low => ?_⟩
  · simp only [Contact.debounced, hs, high, at0, Option.isSome_some, Option.isNone_some, true_and, Nat.not_le.2 few,
      Bool.false_eq_true, if_true, if_false]
  · simp only [Contact.debounced, hs, low, Option.isSome_some, true_and, Nat.not_le.2 few, Bool.false_eq_true, if_true, if_false]

/-- A window of unsettled input that stood for CH_WIN takes the contact to CHATTER. -/
theorem unsettledTimeout_due {t : Nat} (ho : (b.contact j).openAt = some t) (due : t + sigWin b j ≤ b.now)
    (on : b.on F.SIG_CFG_EN 0 j = true) (quiet : sigState b j ≠ 4) : unsettledTimeout j b =
      raise sigPage 0x104 sevWarning (j + 16 * 0) (evB 1)
        (putSigState j 4 (b.putContact j { b.contact j with openAt := none, changes := [] })) := by
  simp only [unsettledTimeout, ho]
  exact if_pos ⟨on, quiet, due⟩

/-- CHATTER ends after the quiet time, in the state of the line's level. -/
theorem chatterEnd_quiet (chatters : sigState b j = 4)
    (quiet : (b.contact j).lastChange + Nat.max (sigWin b j) (100000 * sigDeb b j) ≤ b.now) : chatterEnd j b =
      raise sigPage 0x105 sevNotice (j + 16 * (if (b.contact j).level then 1 else 0)) 0
        (putSigState j (if (b.contact j).level then 1 else 0) (b.putContact j { b.contact j with
          settled := some (b.contact j).level, openAt := none, changes := [], since := b.now })) := by
  rw [chatterEnd, if_pos ⟨chatters, Nat.ble_eq.mpr quiet⟩]
  rfl

end

/-- Settles O26, from what each sample, run and time-out does under its conditions. -/
theorem contactCommands : Obligations.ContactCommands := by
  unfold Obligations.ContactCommands
  refine ⟨?samples, fun b levels j act hj ha => ⟨fun off => sigSampleOne_off off levels, fun on kept =>
    sigSampleOne_on on levels ha kept hj⟩, ?debounced, fun c now chN chWin state hs few => Contact.debounced_state hs few state, ?stuck,
    ?unsettled, ?chatterEnd⟩
  case samples =>
    rintro s dt levels b rfl
    rfl
  case debounced =>
    rintro s dt j b r rfl ⟨on, quiet, due⟩ hr
    exact next_withBlk (contactDebounced_due on quiet due hr)
  case stuck =>
    rintro s dt j b rfl active due
    exact next_withBlk (if_pos ⟨active, due⟩)
  case unsettled =>
    rintro s dt j t b rfl ⟨ho, due⟩ ⟨on, quiet⟩
    exact next_withBlk (unsettledTimeout_due ho due on quiet)
  case chatterEnd =>
    rintro s dt j b rfl chatters quiet
    exact next_withBlk (chatterEnd_quiet chatters quiet)

end Sys2Proof.Machine
end

