-- ==== Sys2Proof/Proofs/Show.lean ====
section
/-!
O27: the stand-alone show: sessions, start, tiling, status strips and port speeds (R137, R138, R437 to R441).
-/

namespace Sys2Proof.Machine

section
variable {b : Blk} {m : FrameStore}

/-! ### Sessions -/

/-- An encrypted or compressed announcement is ignored. -/
theorem sapAnnouncement_ignored {encrypted compressed : Bool} (h : encrypted = true ∨ compressed = true) (port id : Nat) (sdp : Sdp) :
    sapAnnouncement port id encrypted compressed sdp b = b := by
  refine if_pos ?_
  rcases h with rfl | rfl <;> simp

/-- An announcement that is heard and plain goes on to the list of sessions. -/
theorem sapAnnouncement_heard {port : Nat} (runs : discovers b = true) (up : b.on F.NIF_STAT_LINK port = true) (id : Nat) (sdp : Sdp) :
    sapAnnouncement port id false false sdp b =
      if b.sessions.any fun s => s.id == id then
        { b with sessions := b.sessions.map fun s => if s.id = id then { s with last := b.now, interval := b.now - s.last } else s }
      else if 128 ≤ b.sessions.length then b
      else joinWaiting 64 { b with sessions := b.sessions ++
        [{ id := id, first := b.now, last := b.now, interval := 0, chan := none, port := port, sdp := sdp }] } := by
  simp only [sapAnnouncement, runs, linkUp, up, Bool.not_true, Bool.or_self, Bool.false_eq_true, if_false]

/-- A session that is not yet listed, while there is room, is listed, and sessions that wait are joined. -/
theorem sapAnnouncement_new {port id : Nat} (runs : discovers b = true) (up : b.on F.NIF_STAT_LINK port = true)
    (unknown : ∀ x ∈ b.sessions, x.id ≠ id) (room : b.sessions.length < 128) (sdp : Sdp) :
    sapAnnouncement port id false false sdp b = joinWaiting 64 { b with sessions := b.sessions ++
      [{ id := id, first := b.now, last := b.now, interval := 0, chan := none, port := port, sdp := sdp }] } := by
  have fresh : ¬ (b.sessions.any fun s => s.id == id) = true := by simpa using unknown
  rw [sapAnnouncement_heard runs up, if_neg fresh, if_neg (Nat.not_le.2 room)]

/-- A session that is listed is heard again. -/
theorem sapAnnouncement_again {port id : Nat} (runs : discovers b = true) (up : b.on F.NIF_STAT_LINK port = true)
    (known : ∃ x ∈ b.sessions, x.id = id) (sdp : Sdp) : sapAnnouncement port id false false sdp b = { b with
      sessions := b.sessions.map fun x => if x.id = id then { x with last := b.now, interval := b.now - x.last } else x } := by
  have listed : (b.sessions.any fun s => s.id == id) = true := by simpa using known
  rw [sapAnnouncement_heard runs up, if_pos listed]

/-- A session not heard for its time ends. -/
theorem sessionTimeout_due {id : Nat} {x : Session} (runs : discovers b = true) (hx : (b.sessions.find? fun y => y.id == id) = some x)
    (due : x.last + Nat.max (10 * x.interval) 3600000000000 ≤ b.now) : sessionTimeout id b = endSession id b := by
  simp only [sessionTimeout, hx, runs, Nat.ble_eq.mpr due, Bool.and_self, if_true]

/-! ### Start and tiling -/

/-- The show starts 3 s after an unclaimed ACTIVE module began to operate. -/
theorem showStart_due (unclaimed : b.on F.SYS_HOST_CLAIM_CLAIM 0 = false) (off : b.rd F.SYS_STAT_SHOW 0 = 0)
    (operates : b.on F.SYS_STAT_OPERATING 0 = true) (active : role b = 3) (due : b.rd F.SYS_OPER_TIME_TIME 0 + 3000000000 ≤ b.now)
    {c : Blk} (hc : c = raiseAs 0 sysPage 0x102 sevNotice (showHeads b).length (evB 2) (b.wr F.SYS_STAT_SHOW 0 1)) {r : Blk × FrameStore}
    (hr : r = if discovers c then tileAll (showBasics c) m else (c, m)) : showStart b m = (showStrips r.1, r.2) := by
  subst hr hc
  simp only [showStart, unclaimed, off, operates, active, blt_eq_false due, bne_self_eq_false, Bool.not_true, Bool.or_self,
    Bool.false_eq_true, if_false]

/-- A module that has tiled before tiles anew where its plan has changed. -/
theorem showRetile_again (runs : discovers b = true) (tiled : b.show_.flipAt ≠ []) {c : Blk}
    (hc : c = dropDue (b.putShow { b.show_ with removed := b.show_.removed.filter fun k => (joinedChans b).any (·.1 == k) })) :
    showRetile b m = if showPlan c = c.show_.tiled then (c, m) else tileAll c m := by
  have later : b.show_.flipAt.isEmpty = false := by simpa using tiled
  subst hc
  simp only [showRetile, runs, later, Bool.not_true, Bool.not_false, Bool.true_and, Bool.false_eq_true, if_false, beq_iff_eq]

/-- A module that has not tiled before begins with steps 1 to 3. -/
theorem showRetile_first (runs : discovers b = true) (never : b.show_.flipAt = []) {c : Blk}
    (hc : c = showBasics (dropDue (b.putShow { b.show_ with
      removed := b.show_.removed.filter fun k => (joinedChans b).any (·.1 == k) }))) : showRetile b m = tileAll c m := by
  simp only [hc, showRetile, runs, never, List.isEmpty_nil, Bool.not_true, Bool.false_and, Bool.false_eq_true, if_true, if_false]

/-- A port of the show without link for 5 s takes the other speed. -/
theorem showSpeedAlternate_due {n t : Nat} (runs : discovers b = true) (ht : mget b.show_.flipAt n = some t)
    (due : t + 5000000000 ≤ b.now) (down : b.on F.NIF_STAT_LINK n = false) : showSpeedAlternate n b =
      showArm (showWrite ((nifPage n).slot * 0x1000 + 0x40) ((if b.rd F.NIF_CFG_SPEED n = 2 then 1 else 2) + 16 * (2 * n) + 2 ^ 9)
        (b.putShow { b.show_ with flipAt := mset b.show_.flipAt n b.now })) := by
  simp only [showSpeedAlternate, runs, ht, Nat.ble_eq.mpr due, linkUp, down, Bool.not_true, Bool.or_self, Bool.false_eq_true, if_false]

/-- The show runs on an ACTIVE module, and its picture stays on one in CURTAIN. -/
theorem showOn_of_role (on : b.rd F.SYS_STAT_SHOW 0 = 1) (hr : role b = 3 ∨ role b = 4) : showOn b = true := by
  simp [showOn, on, hr]

end

/-- A start and a new tiling announce what became eligible. -/
theorem exec_showStart (s : State) (dt : Nat) : exec (.showStart dt) s =
    .next (s.withBoth (announce (s.blk.tick dt) (showStart (s.blk.tick dt) s.store).1 (showStart (s.blk.tick dt) s.store).2)
      (showStart (s.blk.tick dt) s.store).2) := rfl

theorem exec_showRetile (s : State) (dt : Nat) : exec (.showRetile dt) s =
    .next (s.withBoth (announce (s.blk.tick dt) (showRetile (s.blk.tick dt) s.store).1 (showRetile (s.blk.tick dt) s.store).2)
      (showRetile (s.blk.tick dt) s.store).2) := rfl

/-- Settles O27, from what each command of the show does under its conditions. -/
theorem showCommands : Obligations.ShowCommands := by
  unfold Obligations.ShowCommands
  refine ⟨?new, ?ignored, ?again, ?deletion, ?timeout, ?ends, ?start, ?retile, ?retileFirst, ?status, ?speed⟩
  case new =>
    rintro s dt port id sdp b rfl ⟨runs, up⟩ ⟨unknown, room⟩
    exact next_withBlk (sapAnnouncement_new runs up unknown room sdp)
  case ignored =>
    rintro s dt port id encrypted compressed sdp b rfl h
    exact next_withBlk (sapAnnouncement_ignored h port id sdp)
  case again =>
    rintro s dt port id sdp b rfl ⟨runs, up⟩ known
    exact next_withBlk (sapAnnouncement_again runs up known sdp)
  case deletion =>
    rintro s dt id b rfl runs
    exact next_withBlk (if_pos runs)
  case timeout =>
    rintro s dt id x b rfl ⟨runs, hx⟩ due
    exact next_withBlk (sessionTimeout_due runs hx due)
  case ends =>
    rintro b id x hx
    cases chan : x.chan with
    | none => simp only [endSession, hx, chan]
    | some k => simp only [endSession, hx, chan]
  case start =>
    rintro s dt b c r rfl ⟨unclaimed, off, operates, active⟩ due hc hr
    exact (exec_showStart s dt).trans (next_announced (q := (showStrips r.1, r.2)) (showStart_due unclaimed off operates active due hc hr))
  case retile =>
    rintro s dt b c rfl ⟨runs, tiled⟩ hc
    have step := showRetile_again (m := s.store) runs tiled hc
    refine ⟨fun same => ?_, fun changed => ?_⟩
    · exact (exec_showRetile s dt).trans (next_announced (q := (c, s.store)) (step.trans (if_pos same)))
    · exact (exec_showRetile s dt).trans (next_announced (q := tileAll c s.store) (step.trans (if_neg changed)))
  case retileFirst =>
    rintro s dt b c rfl ⟨runs, never⟩ hc
    exact (exec_showRetile s dt).trans (next_announced (q := tileAll c s.store) (showRetile_first runs never hc))
  case status =>
    rintro s dt b rfl ⟨on, hr, due⟩
    refine next_withBlk (if_pos ?_)
    rw [showOn_of_role on hr, Nat.ble_eq.mpr due]
    rfl
  case speed =>
    rintro s dt n t b rfl ⟨runs, ht, due, down⟩
    exact next_withBlk (showSpeedAlternate_due runs ht due down)

end Sys2Proof.Machine
end

