-- ==== Sys2Proof/Proofs/Decoders.lean ====
section
/-!
What the decoders do with the codestreams and access units fed to them, and with the pictures that they put out (R205 to R225).
-/

namespace Sys2Proof.Machine

/-- A test that begins at a reason's successor stops there. -/
theorem and_told_false {st why cause : Nat} (h : st ≠ 3) : (st == 3 && cause == why) = false := by
  simp [h]

section
variable {b d : Blk} {m : FrameStore} {x c : Nat} {q : Ready}

/-! ### JPEG XS -/

section
variable {first : Codestream} {rest : List Codestream} (fed : feeder b true x = some c)
  (taken : takeReady c (fedTo true x) b = some (q, d)) (bound : xsdBound d x = true)
include fed taken bound

/-- A frame whose codestream lost its header is discarded with class 8. -/
theorem xsdFrameDone_lost (lost : (first :: rest).any (·.headerLost) = true) : xsdFrameDone x (first :: rest) b m =
    (xsdErrors x 0 ((first :: rest).flatMap (·.errors) ++ (if q.f.loss.isEmpty then [] else [1]) ++ [8])
      (d.bump F.XSD_DISCARDED_COUNT x), m) := by
  simp only [xsdFrameDone, fed, taken, bound, lost, Bool.not_true, Bool.false_eq_true, if_true, if_false]

/-- A frame whose codestreams pass their checks is decoded. -/
theorem xsdFrameDone_accepted (whole : (first :: rest).any (·.headerLost) = false) {l : Nat} (hl : l = d.rd F.XSD_CTRL_LAYER x) {e : Blk}
    (he : e = (d.wr F.XSD_STAT_PROFILE x first.ppih).wr F.XSD_STAT_LEVEL x first.plev)
    (passes : firstReason ((first :: rest).map (xsdCause e c l (first :: rest).length)) = 0) : xsdFrameDone x (first :: rest) b m =
    xsdDecode x c l first (first :: rest) ((first :: rest).flatMap (·.errors) ++ (if q.f.loss.isEmpty then [] else [1])) q
      (e.wr F.XSD_STAT_STATE x 2) m := by
  subst hl he
  simp only [xsdFrameDone, fed, taken, bound, whole, passes, Bool.not_true, Bool.false_eq_true, if_false]

/-- A frame whose codestreams fail a check is refused, and told where it was not refused already. -/
theorem xsdFrameDone_refused (whole : (first :: rest).any (·.headerLost) = false) {l : Nat} (hl : l = d.rd F.XSD_CTRL_LAYER x) {e : Blk}
    (he : e = (d.wr F.XSD_STAT_PROFILE x first.ppih).wr F.XSD_STAT_LEVEL x first.plev) {n : Nat}
    (fails : firstReason ((first :: rest).map (xsdCause e c l (first :: rest).length)) = n + 1) (untold : e.rd F.XSD_STAT_STATE x ≠ 3) :
    xsdFrameDone x (first :: rest) b m = (raise (xsdPage x) 0x101 sevWarning ((n + 1) % 2 ^ 18 + 2 ^ 18 * x) (evB 2)
      (((xsdErrors x 0 ((first :: rest).flatMap (·.errors) ++ (if q.f.loss.isEmpty then [] else [1])) e).wr F.XSD_STAT_STATE x 3).wr
        F.XSD_STAT_CAUSE x (n + 1)), m) := by
  subst hl he
  simp only [xsdFrameDone, fed, taken, bound, whole, fails, and_told_false untold, Bool.not_true, Bool.false_eq_true, if_false, xsdEvent]

end

/-! ### Access units -/

/-- An access unit that is refused, or passed over (R207, R222, R223). -/
def PassedOver (b : Blk) (x c : Nat) (au : AccessUnit) : Prop :=
  (b.rd F.VDC_STAT_STATE x = 3 ∧ (!auIrap (isH264 b c) au) = true) ∨
    (b.rd F.VDC_STAT_STATE x = 1 ∧ (!b.on F.VDC_CTRL_START x) = true ∧ (!recovers (isH264 b c) (b.vdcCtx x) au) = true) ∨
    (auRasl (isH264 b c) au && (b.vdcCtx x).noRasl) = true

/-- An access unit for whose picture no first field waits is decoded into a free slot, or waits for one. -/
theorem vdcUnit_decodes {au : AccessUnit} (accepted : vdcCause b x c au = 0) (kept : ¬ PassedOver b x c au)
    (single : fieldMate (b.vdcCtx x) au = none) {k : Blk × FrameStore} (hk : k = closeHalf x b m) {g : Blk}
    (hg : g = vdcBegin x (isH264 b c) au k.1) :
    vdcUnit x c au q b m = (freeSlot g x).map fun j => vdcDecode x c j au q none g k.2 := by
  subst hk hg
  simp only [vdcUnit, accepted, single]
  exact if_neg kept

/-- An access unit that is passed over is counted. -/
theorem vdcUnit_passes {au : AccessUnit} (accepted : vdcCause b x c au = 0) (passed : PassedOver b x c au) : vdcUnit x c au q b m =
    some (vdcCount x (isH264 b c) au
      (vdcErrors x au.nal (auClasses (isH264 b c) au ++ (if q.f.loss.isEmpty then [] else [1])) b), m) := by
  simp only [vdcUnit, accepted]
  exact if_pos passed

/-- An access unit that is refused is told where the stream was not refused already. -/
theorem vdcUnit_refuses {au : AccessUnit} {n : Nat} (refused : vdcCause b x c au = n + 1) (untold : b.rd F.VDC_STAT_STATE x ≠ 3) :
    vdcUnit x c au q b m = some (raise (vdcPage x) 0x104 sevWarning ((n + 1) % 2 ^ 17 + 2 ^ 17 * x) (evB 3) (((vdcErrors x au.nal
      (auClasses (isH264 b c) au ++ (if q.f.loss.isEmpty then [] else [1])) b).wr F.VDC_STAT_STATE x 3).wr F.VDC_STAT_CAUSE x (n + 1)),
      m) := by
  simp only [vdcUnit, refused, and_told_false untold, Bool.false_eq_true, if_false, vdcEvent]

/-- The last access unit that waits is settled, and none waits any more. -/
theorem vdcDrain_settles {au : AccessUnit} {r : Blk × FrameStore} (hr : vdcUnit x c au q b m = some r) (t : Nat) :
    vdcDrain x c [(au, q)] t b m = (r.1.putVdc x { r.1.vdcCtx x with wait := [], stallTold := false }, r.2) := by
  simp only [vdcDrain, hr]

/-- An access unit that finds no slot waits, with those behind it. -/
theorem vdcDrain_waits {au : AccessUnit} {l : List (AccessUnit × Ready)} (hr : vdcUnit x c au q b m = none) (t : Nat) :
    vdcDrain x c ((au, q) :: l) t b m = (b.putVdc x { b.vdcCtx x with wait := (au, q) :: l, stalledAt := t }, m) := by
  simp only [vdcDrain, hr]

section
variable {e : Blk} (fed : feeder b false x = some c) (taken : takeReady c (fedTo false x) b = some (q, d)) (bound : vdcBound d x = true)
  (he : e = vdcPace x c d)
include fed taken bound he

/-- An access unit that finds none waiting is next to be decoded. -/
theorem vdcAccessUnit_next (idle : (e.vdcCtx x).wait = []) (au : AccessUnit) :
    vdcAccessUnit x au b m = vdcDrain x c [(au, q)] e.now e m := by
  subst he
  simp only [vdcAccessUnit, fed, taken, bound, idle, Bool.not_true, Bool.false_eq_true, if_false]

/-- An access unit that finds others waiting waits behind them. -/
theorem vdcAccessUnit_queued {w : AccessUnit × Ready} {l : List (AccessUnit × Ready)} (busy : (e.vdcCtx x).wait = w :: l)
    (au : AccessUnit) : vdcAccessUnit x au b m = (e.putVdc x { e.vdcCtx x with wait := w :: l ++ [(au, q)] }, m) := by
  subst he
  simp only [vdcAccessUnit, fed, taken, bound, busy, Bool.not_true, Bool.false_eq_true, if_false]

/-- An access unit that is settled when it arrives leaves none waiting. -/
theorem vdcAccessUnit_settles (idle : (e.vdcCtx x).wait = []) {au : AccessUnit} {r : Blk × FrameStore}
    (hr : vdcUnit x c au q e m = some r) :
    vdcAccessUnit x au b m = (r.1.putVdc x { r.1.vdcCtx x with wait := [], stallTold := false }, r.2) :=
  (vdcAccessUnit_next fed taken bound he idle au).trans (vdcDrain_settles hr _)

/-- An access unit that finds no slot when it arrives waits since then. -/
theorem vdcAccessUnit_waits (idle : (e.vdcCtx x).wait = []) {au : AccessUnit} (hr : vdcUnit x c au q e m = none) :
    vdcAccessUnit x au b m = (e.putVdc x { e.vdcCtx x with wait := [(au, q)], stalledAt := e.now }, m) :=
  (vdcAccessUnit_next fed taken bound he idle au).trans (vdcDrain_waits hr _)

end

/-- A slot that is free takes what waits first, and then what waits behind it. -/
theorem vdcSlotFree_drains {w : AccessUnit × Ready} {l : List (AccessUnit × Ready)} (hw : (b.vdcCtx x).wait = w :: l)
    (fed : feeder b false x = some c) : vdcSlotFree x b m = vdcDrain x c (w :: l) (b.vdcCtx x).stalledAt b m := by
  simp only [vdcSlotFree, hw, fed]

/-- What waits first is settled, and what waits behind it is drained. -/
theorem vdcDrain_cons {w : AccessUnit × Ready} {l : List (AccessUnit × Ready)} {r : Blk × FrameStore}
    (hr : vdcUnit x c w.1 w.2 b m = some r) (t : Nat) : vdcDrain x c (w :: l) t b m = vdcDrain x c l r.1.now r.1 r.2 := by
  obtain ⟨au, q⟩ := w
  simp only [vdcDrain, hr]

/-! ### Stalls and pictures put out -/

/-- A context that has waited more than 50 ms for a slot tells so once. -/
theorem exec_vdcStall {s : State} {dt : Nat} {w : AccessUnit × Ready} {l : List (AccessUnit × Ready)} (hb : b = s.blk.tick dt)
    (hw : (b.vdcCtx x).wait = w :: l) (untold : (b.vdcCtx x).stallTold = false) (due : (b.vdcCtx x).stalledAt + 50000000 < b.now) :
    exec (.vdcStall dt x) s = .next (s.withBlk (raise (vdcPage x) 0x106 sevWarning (0 % 2 ^ 17 + 2 ^ 17 * x) 0
      ((b.putVdc x { b.vdcCtx x with stallTold := true }).wr F.VDC_STAT_STALLED x 1))) := by
  change execVdcStall .. = _
  rw [execVdcStall, eff_next, set_blk, ← hb]
  simp only [hw, untold, Nat.blt_eq.mpr due, List.isEmpty_cons, Bool.not_false, Bool.and_self, if_true, vdcEvent]

/-- A picture put out that is no recovery point and conceals no more than LOSS_MAX becomes eligible. -/
theorem vdcPictureOutput_eligible {p : Pic} {l : Nat} {q : Blk × FrameStore} {r : Ready} (out : nextOutput (b.vdcCtx x) = some p)
    (fed : feeder b false x = some c) (inner : p.recov = false) (hl : l = b.rd F.VDC_CTRL_LAYER x)
    (hd : d = ((b.putVdc x { b.vdcCtx x with
      pics := tidy ((b.vdcCtx x).pics.map fun q =>
        if q.period = p.period ∧ q.poc = p.poc ∧ q.slot = p.slot then { q with waiting := false } else q)
      count := ((b.vdcCtx x).count + 1) % 2 ^ 32 }).wr F.VDC_FRAME_WH_W x p.frame.lay.w).wr F.VDC_FRAME_WH_H x p.frame.lay.h)
    (hq : q = statEntries vdcStats 0x12 x
      [recordBytes ([d.now % 2 ^ 32, d.now / 2 ^ 32, (b.vdcCtx x).count] ++ p.stats.words p.frame.conceal.length)] d m)
    (within : 100 * p.frame.conceal.length ≤ q.1.rd F.ING_ASM_LOSS_MAX c * (cdiv p.frame.lay.w 64 * cdiv p.frame.lay.h 64))
    (hr : r =
      { f := p.frame, kind := q.1.rd F.ING_CTRL_KIND c, dest := x, sampling := 2, depth := b2n (p.frame.lay.fmt == 9),
        num := q.1.rd F.ING_RATE_NUM c, den := q.1.rd F.ING_RATE_DEN c, tsmode := q.1.rd F.ING_CTRL_TSMODE c }) :
    vdcPictureOutput x b m = (setEvt (vdcPage x) (evB 0) ((decodedEligible c l 2 (if p.frame.lay.fmt = 9 then 10 else 8) r p.frame
      q.1 q.2).bump F.VDC_PICTURES_COUNT x), q.2) := by
  subst hl hr
  simp only [vdcPictureOutput, out, fed, inner, Bool.false_and, Bool.false_eq_true, if_false, ← hd, ← hq, if_neg (Nat.not_lt.2 within)]

end

/-- What became eligible is announced after a frame of codestreams and a picture put out. -/
theorem exec_xsdFrameDone (s : State) (dt x : Nat) (cs : List Codestream) : exec (.xsdFrameDone dt x cs) s =
    .next (s.withBoth (announce (s.blk.tick dt) (xsdFrameDone x cs (s.blk.tick dt) s.store).1 (xsdFrameDone x cs (s.blk.tick dt) s.store).2)
      (xsdFrameDone x cs (s.blk.tick dt) s.store).2) := rfl

theorem exec_vdcPictureOutput (s : State) (dt x : Nat) : exec (.vdcPictureOutput dt x) s =
    .next (s.withBoth (announce (s.blk.tick dt) (vdcPictureOutput x (s.blk.tick dt) s.store).1
      (vdcPictureOutput x (s.blk.tick dt) s.store).2) (vdcPictureOutput x (s.blk.tick dt) s.store).2) := rfl

theorem exec_vdcAccessUnit (s : State) (dt x : Nat) (au : AccessUnit) : exec (.vdcAccessUnit dt x au) s =
    .next (s.withBoth (vdcAccessUnit x au (s.blk.tick dt) s.store).1 (vdcAccessUnit x au (s.blk.tick dt) s.store).2) := rfl

theorem exec_vdcSlotFree (s : State) (dt x : Nat) : exec (.vdcSlotFree dt x) s =
    .next (s.withBoth (vdcSlotFree x (s.blk.tick dt) s.store).1 (vdcSlotFree x (s.blk.tick dt) s.store).2) := rfl

end Sys2Proof.Machine
end

