-- ==== Sys2Proof/Proofs/Encoder.lean ====
section
/-!
What the encoder does with its rows and slices (R225 to R237).
-/

namespace Sys2Proof.Machine

section
variable {b : Blk} {m : FrameStore} {x row : Nat}

/-- Changing a picture of the encoder leaves the registers and the rows that are ready. -/
theorem vecOn_regs (x : Nat) (want : VecPic → Bool) (f : VecPic → VecPic) (b : Blk) : (vecOn x want f b).regs = b.regs := by
  simp only [vecOn]
  split <;> rfl

theorem vecOn_vecReady (x : Nat) (want : VecPic → Bool) (f : VecPic → VecPic) (b : Blk) :
    (vecOn x want f b).vecReady = b.vecReady := by
  simp only [vecOn]
  split <;> rfl

/-! ### Rows -/

/-- A row whose input has entered the tap takes its samples, or its mark, and stands behind the rows that are ready. -/
theorem vecRowReady_enters {p : VecPic} {e : Blk} {flag : Nat} {lost : Bool}
    (hp : ((b.vecCtx x).pics.find? fun p => p.ready == row && Nat.blt row p.rows.length) = some p) (he : e = vecView b x p)
    (entered : ¬ (p.kind = 0 ∧ (!lineEntered b (e.rd F.VEC_SRC_STAGE x) p.f (rowLastLine e x row)) = true))
    (hf : flag = if lost || vecUnread e m x p row then 3 else if p.kind = 0 && tapMarked e x then 4 else 0) :
    vecRowReady x row lost b m = { vecOn x (fun p => p.ready == row && Nat.blt row p.rows.length) (fun q => { q with
        ready := row + 1
        rows := lset q.rows row { flag := flag, input := if flag = 0 then vecRowInput e m x p row else [] } }) b with
      vecReady := b.vecReady ++ [(x, row)] } := by
  subst he hf
  simp only [vecRowReady, hp, if_neg entered, vecOn_vecReady]

/-- A coded row of a flag below 2, as its picture keeps it. -/
def codedRow (p : VecPic) (row : Nat) (k : Nat × Nat × Nat × Bool) (g : RowCode) : VecRowSt :=
  { (p.rows[row]?).getD {} with
    flag := k.1, bits := k.2.1, qp := k.2.2.1, coded := true, hatch := [], stat := [g.moved, g.intra, g.mv.1, g.mv.2], ctus := g.ctus }

section
variable {p p1 p2 : VecPic} {e : Blk} {k : Nat × Nat × Nat × Bool} {g : RowCode} {r : VecRow}
  (hp : ((b.vecCtx x).pics.find? fun p => p.coded == row && Nat.blt row p.ready) = some p)
  (front : b.vecReady.head? = some (x, row)) (he : e = vecView b x p)
  (hp1 : p1 = if row = 0 then { p with bmax := hrdBits e x p.time } else p)
  (hk : k = rowChoice e x row p1 (b.vecCtx x).prev r) (coded : k.1 < 2) (unclamped : k.2.2.2 = false) (hg : g = rowTaken r k.1)
  (hp2 : p2 = { p1 with coded := row + 1, spent := p1.spent + k.2.1, rows := lset p1.rows row (codedRow p1 row k g) })
include hp front he hp1 hk coded unclamped hg hp2

/-- A row coded within its budget adds its bits to its picture's, and completes the picture with the last row. -/
theorem vecRowCoded_coded : vecRowCoded x row r b m =
    if row + 1 = p.rows.length then
      vecComplete x p2 (vecOn x (fun p => p.coded == row && Nat.blt row p.ready) (fun _ => p2) { b with vecReady := b.vecReady.drop 1 }) m
    else (vecOn x (fun p => p.coded == row && Nat.blt row p.ready) (fun _ => p2) { b with vecReady := b.vecReady.drop 1 }, m) := by
  have rows : p1.rows.length = p.rows.length := by
    rw [hp1]
    split <;> rfl
  subst hg he hp2
  simp only [vecRowCoded, hp, front, ne_eq, not_true_eq_false, if_false, ← hp1, ← hk, unclamped, Nat.not_le.2 coded,
    Bool.false_eq_true, lset_length, rows, codedRow]

end

/-- The first picture that meets a test is the one that a change acts on. -/
theorem findIdx?_of_find? {α : Type} {want : α → Bool} {l : List α} {p : α} (h : l.find? want = some p) :
    ∃ i, l.findIdx? want = some i ∧ l[i]? = some p := by
  obtain ⟨met, i, hi, at_i, before⟩ := List.find?_eq_some_iff_getElem.1 h
  refine ⟨i, List.findIdx?_eq_some_iff_getElem.2 ⟨hi, by rwa [at_i], fun j hj => ?_⟩, by rw [List.getElem?_eq_getElem hi, at_i]⟩
  simpa using before j hj

/-- Replacing a value of a list replaces its part of the sum. -/
theorem sum_map_set {α : Type} (f : α → Nat) (v p : α) (n : Nat) (hv : f v = f p + n) :
    ∀ (l : List α) (i : Nat), l[i]? = some p → ((l.set i v).map f).sum = (l.map f).sum + n := by
  intro l
  induction l with
  | nil =>
    intro i h
    cases h
  | cons a t ih =>
    intro i h
    match i with
    | 0 =>
      obtain rfl : a = p := by simpa using h
      simp only [List.set_cons_zero, List.map_cons, List.sum_cons, hv]
      omega
    | i + 1 =>
      simp only [List.set_cons_succ, List.map_cons, List.sum_cons, ih i (by simpa using h)]
      omega

/-- A context of the encoder reads as it was put. -/
theorem vecCtx_putVec (b : Blk) (x : Nat) (v : VecCtx) : (b.putVec x v).vecCtx x = v := by
  simp only [Blk.vecCtx, Blk.putVec, mgetD_mset, if_true]

/-- A picture of the encoder that is replaced by one that has spent more bits raises the bits spent by as many. -/
theorem vecOn_spent {want : VecPic → Bool} {p p' : VecPic} {n : Nat} (hp : (b.vecCtx x).pics.find? want = some p)
    (hn : p'.spent = p.spent + n) : (((vecOn x want (fun _ => p') b).vecCtx x).pics.map fun q => q.spent).sum =
      ((b.vecCtx x).pics.map fun q => q.spent).sum + n := by
  obtain ⟨i, hi, at_i⟩ := findIdx?_of_find? hp
  simp only [vecOn, hi, vecCtx_putVec]
  exact sum_map_set (fun q : VecPic => q.spent) p' p n hn _ i at_i

/-! ### Slices -/

section
variable {p : VecPic} {rest : List VecPic} {e : Blk} (sets : List ParamSet) (nals : List (List Nat))
  (hp : (b.vecCtx x).pics = p :: rest) (inner : p.idr = false) (he : e = vecView b x p)
  (done : Nat.min p.rows.length ((p.sent + 1) * e.rd F.VEC_CODEC_SLICE_ROWS x) ≤ p.coded)
  (left : p.sent * e.rd F.VEC_CODEC_SLICE_ROWS x < p.rows.length) (hevc : vecH264 e x = false)
include hp inner he done left hevc

/-- A slice that is not the last leaves for no network output, and joins its picture's access unit. -/
theorem vecSliceOut_inner (more : Nat.min p.rows.length ((p.sent + 1) * e.rd F.VEC_CODEC_SLICE_ROWS x) < p.rows.length)
    (quiet : b.rd F.VEC_OUT_DEST x % 2 = 0) : vecSliceOut x sets nals b m =
      ((b.put F.VEC_STAT_SENDING x false).putVec x { b.vecCtx x with
        pics := { p with sent := p.sent + 1, au := p.au ++ annexB nals } :: rest }, m) := by
  have goes : ¬ (p.coded < Nat.min p.rows.length ((p.sent + 1) * e.rd F.VEC_CODEC_SLICE_ROWS x) ∨
      p.rows.length ≤ p.sent * e.rd F.VEC_CODEC_SLICE_ROWS x) := not_or.2 ⟨Nat.not_lt.2 done, Nat.not_le.2 left⟩
  have inside : (Nat.min p.rows.length ((p.sent + 1) * e.rd F.VEC_CODEC_SLICE_ROWS x) == p.rows.length) = false := by
    simpa using Nat.ne_of_lt more
  subst he
  simp only [vecSliceOut, hp, if_neg goes, inside, hevc, inner, quiet, Bool.and_false, Bool.false_and, Bool.false_eq_true,
    if_false, List.nil_append, List.append_nil]
  rfl

/-- The last slice of a picture for the recording ring alone, with neither SEI nor filler, is recorded. -/
theorem vecSliceOut_last (last : Nat.min p.rows.length ((p.sent + 1) * e.rd F.VEC_CODEC_SLICE_ROWS x) = p.rows.length)
    (whole : p.filler = 0) (records : b.rd F.VEC_OUT_DEST x = 2) (plain : e.on F.VEC_CODEC_SEI_EN x = false) {d : Blk}
    (hd : d = (b.put F.VEC_STAT_SENDING x false).putVec x { b.vecCtx x with pics := rest, sei := [] }) :
    vecSliceOut x sets nals b m = recordUnit x p (p.au ++ annexB nals) d m := by
  have goes : ¬ (p.coded < Nat.min p.rows.length ((p.sent + 1) * e.rd F.VEC_CODEC_SLICE_ROWS x) ∨
      p.rows.length ≤ p.sent * e.rd F.VEC_CODEC_SLICE_ROWS x) := not_or.2 ⟨Nat.not_lt.2 done, Nat.not_le.2 left⟩
  have ends : (Nat.min p.rows.length ((p.sent + 1) * e.rd F.VEC_CODEC_SLICE_ROWS x) == p.rows.length) = true := by
    simpa using last
  subst he hd
  simp only [vecSliceOut, hp, if_neg goes, ends, hevc, inner, records, whole, plain, fillerNal, Bool.false_and, Bool.false_eq_true,
    if_true, if_false, List.nil_append, List.append_nil]
  rfl

end

end

theorem exec_vecRowReady (s : State) (dt x row : Nat) (lost : Bool) : exec (.vecRowReady dt x row lost) s =
    .next (s.withBlk (vecRowReady x row lost (s.blk.tick dt) s.store)) := rfl

theorem exec_vecRowCoded (s : State) (dt x row : Nat) (r : VecRow) : exec (.vecRowCoded dt x row r) s =
    .next (s.withBoth (vecRowCoded x row r (s.blk.tick dt) s.store).1 (vecRowCoded x row r (s.blk.tick dt) s.store).2) := rfl

theorem exec_vecSliceOut (s : State) (dt x : Nat) (sets : List ParamSet) (nals : List (List Nat)) : exec (.vecSliceOut dt x sets nals) s =
    .next (s.withBoth (vecSliceOut x sets nals (s.blk.tick dt) s.store).1 (vecSliceOut x sets nals (s.blk.tick dt) s.store).2) := rfl

end Sys2Proof.Machine
end

