-- ==== Sys2Proof/Proofs/CodecCommands.lean ====
section
/-!
O28 and O53: the commands of the decoders and the encoder, from what each of them does (`Decoders`, `Encoder`).
-/

namespace Sys2Proof.Machine

/-- Settles O28, from what the decoders do with what they are fed and the encoder with its rows and slices. -/
theorem codecCommands : Obligations.CodecCommands := by
  unfold Obligations.CodecCommands
  refine ⟨?xsdDone, ?xsdLost, ?xsdRefused, ?unit, ?unitPassed, ?unitRefused, ?unitQueued, ?stall, ?slotFree, ?pictureOutput, ?rowReady,
    ?rowCoded, ?rowLast, ?sliceOut, ?sliceLast⟩
  case xsdDone =>
    rintro s dt x c l first rest q b d e r rfl ⟨fed, taken, bound⟩ hl he whole passes rfl
    exact (exec_xsdFrameDone ..).trans (next_announced (xsdFrameDone_accepted fed taken bound whole hl he passes))
  case xsdLost =>
    rintro s dt x c first rest q b d rfl ⟨fed, taken, bound⟩ lost
    exact (exec_xsdFrameDone ..).trans (next_announced (q := (_, s.store)) (xsdFrameDone_lost fed taken bound lost))
  case xsdRefused =>
    rintro s dt x c l n first rest q b d e f rfl ⟨fed, taken, bound⟩ hl he whole fails untold rfl
    exact (exec_xsdFrameDone ..).trans
      (next_announced (q := (_, s.store)) (xsdFrameDone_refused fed taken bound whole hl he fails untold))
  case unit =>
    rintro s dt x c au q b d e g k rfl ⟨fed, taken, bound⟩ he ⟨idle, accepted⟩ kept single hk hg
    have next := vdcUnit_decodes (q := q) accepted kept single hk hg
    refine ⟨fun j free => ?_, fun full => ?_⟩
    · have settled := vdcAccessUnit_settles (m := s.store) fed taken bound he idle (next.trans (by rw [free]; rfl))
      exact (exec_vdcAccessUnit ..).trans (next_of_pair settled)
    · have waits := vdcAccessUnit_waits (m := s.store) fed taken bound he idle (next.trans (by rw [full]; rfl))
      exact (exec_vdcAccessUnit ..).trans (next_of_pair waits)
  case unitPassed =>
    rintro s dt x c au q b d e g rfl ⟨fed, taken, bound⟩ he ⟨idle, accepted⟩ passed rfl
    exact (exec_vdcAccessUnit ..).trans
      (next_of_pair (vdcAccessUnit_settles fed taken bound he idle (vdcUnit_passes accepted passed)))
  case unitRefused =>
    rintro s dt x c n au q b d e g rfl ⟨fed, taken, bound⟩ he ⟨idle, refused⟩ untold rfl
    exact (exec_vdcAccessUnit ..).trans
      (next_of_pair (vdcAccessUnit_settles fed taken bound he idle (vdcUnit_refuses refused untold)))
  case unitQueued =>
    rintro s dt x c au q w l b d e rfl ⟨fed, taken, bound⟩ he busy
    exact (exec_vdcAccessUnit ..).trans (next_of_pair (vdcAccessUnit_queued fed taken bound he busy au))
  case stall =>
    rintro s dt x w l b hb ⟨hw, untold, due⟩
    exact exec_vdcStall hb hw untold due
  case slotFree =>
    rintro s dt x c ⟨au, q⟩ l b rfl ⟨hw, fed⟩
    refine ⟨fun r hr => ?_, fun full => ?_⟩
    · exact (exec_vdcSlotFree ..).trans (by rw [vdcSlotFree_drains hw fed, vdcDrain_cons hr])
    · exact (exec_vdcSlotFree ..).trans (next_of_pair ((vdcSlotFree_drains hw fed).trans (vdcDrain_waits full _)))
  case pictureOutput =>
    rintro s dt x c l p b d q r rfl ⟨out, fed, inner, hl⟩ hd hq within hr
    exact (exec_vdcPictureOutput ..).trans
      (next_announced (q := (_, q.2)) (vdcPictureOutput_eligible out fed inner hl hd hq within hr))
  case rowReady =>
    rintro s dt x row flag lost p b e rfl hp he entered hf
    exact (exec_vecRowReady ..).trans (next_withBlk (vecRowReady_enters hp he entered hf))
  case rowCoded =>
    rintro s dt x row r p p1 p2 b e k g o rfl ⟨hp, front⟩ he hp1 ⟨hk, coded, unclamped, more⟩ hg ho hp2
    subst ho
    exact (exec_vecRowCoded ..).trans
      (next_of_pair ((vecRowCoded_coded hp front he hp1 hk coded unclamped hg hp2).trans (if_neg more)))
  case rowLast =>
    rintro s dt x row r p p1 p2 b e d k g o rfl ⟨hp, front⟩ he hp1 ⟨hk, coded, unclamped, last⟩ hg ho hp2 hd
    subst ho hd
    exact (exec_vecRowCoded ..).trans
      (by rw [vecRowCoded_coded hp front he hp1 hk coded unclamped hg hp2, if_pos last])
  case sliceOut =>
    rintro s dt x upto sets nals p rest b e rfl ⟨hp, inner⟩ he ⟨rfl, done, more, left⟩ ⟨hevc, quiet⟩
    exact (exec_vecSliceOut ..).trans (next_of_pair (vecSliceOut_inner sets nals hp inner he done left hevc more quiet))
  case sliceLast =>
    rintro s dt x upto sets nals p rest b e d rfl ⟨hp, inner, whole⟩ he ⟨rfl, done, last, left⟩ ⟨hevc, records, plain⟩ hd
    exact (exec_vecSliceOut ..).trans
      (by rw [vecSliceOut_last sets nals hp inner he done left hevc last whole records plain hd])

/-- A context of a decoder reads as it was put. -/
theorem vdcCtx_putVdc (b : Blk) (x : Nat) (v : VdcCtx) : (b.putVdc x v).vdcCtx x = v := by
  simp only [Blk.vdcCtx, Blk.putVdc, mgetD_mset, if_true]

/-- Recording an event leaves the decoders. -/
theorem vdc_raise (p : Page) (code sev d evt : Nat) (b : Blk) : (raise p code sev d evt b).vdc = b.vdc :=
  (congrArg Blk.vdc (rest_raise p code sev d evt b) :)

theorem vdcCtx_congr {b c : Blk} (h : b.vdc = c.vdc) (x : Nat) : b.vdcCtx x = c.vdcCtx x := by
  rw [Blk.vdcCtx, Blk.vdcCtx, h]

/-- A context that has told its stall, as it is put. -/
theorem vdcCtx_stallTold (p : Page) (code sev d evt : Nat) (b : Blk) (f : Fld) (x v : Nat) (c : VdcCtx) :
    (raise p code sev d evt ((b.putVdc x c).wr f x v)).vdcCtx x = c :=
  (vdcCtx_congr (vdc_raise p code sev d evt _) x).trans (vdcCtx_putVdc b x c)

/-- The flag of a stall is no register of an event of its page. -/
theorem evKey_stalled {x : Nat} (hx : x < 32) : evKey (vdcPage x) (F.VDC_STAT_STALLED.key x 0) = false := by
  have all : ∀ x < 32, evKey (vdcPage x) (F.VDC_STAT_STALLED.key x 0) = false := by decide
  exact all x hx

/-- Settles O53, from the same lemmas. -/
theorem codecCommandsComplete : Obligations.CodecCommandsComplete := by
  unfold Obligations.CodecCommandsComplete
  refine ⟨?xsdDone, ?unit, ?unitWaits, ?stall, ?slotFree, ?pictureOutput, ?rowReady, ?rowCoded, ?sliceOut⟩
  case xsdDone =>
    rintro s dt x c first rest q b d e r ⟨rfl, fed, taken, bound⟩ whole he passes rfl
    exact ⟨_, (exec_xsdFrameDone ..).trans (next_announced (xsdFrameDone_accepted fed taken bound whole rfl he passes)), rfl, rfl, rfl⟩
  case unit =>
    rintro s dt x c j au q b d e g k r ⟨rfl, fed, taken, bound⟩ he ⟨idle, accepted, single⟩ kept ⟨hk, hg, free⟩ rfl
    have next : vdcUnit x c au q e s.store = some (vdcDecode x c j au q none g k.2) :=
      (vdcUnit_decodes accepted kept single hk hg).trans (by rw [free]; rfl)
    refine ⟨_, (exec_vdcAccessUnit ..).trans (next_of_pair (vdcAccessUnit_settles (m := s.store) fed taken bound he idle next)), rfl, rfl,
      ?_, ?_, rfl⟩
    · exact congrArg VdcCtx.wait (vdcCtx_putVdc ..)
    · exact congrArg VdcCtx.stallTold (vdcCtx_putVdc ..)
  case unitWaits =>
    rintro s dt x c au q b d e g k ⟨rfl, fed, taken, bound⟩ he ⟨idle, accepted, single⟩ kept ⟨hk, hg, full⟩
    have next : vdcUnit x c au q e s.store = none := (vdcUnit_decodes accepted kept single hk hg).trans (by rw [full]; rfl)
    refine ⟨_, (exec_vdcAccessUnit ..).trans (next_of_pair (vdcAccessUnit_waits (m := s.store) fed taken bound he idle next)), rfl, rfl,
      ?_, ?_, rfl⟩
    · exact congrArg VdcCtx.wait (vdcCtx_putVdc ..)
    · exact congrArg VdcCtx.stalledAt (vdcCtx_putVdc ..)
  case stall =>
    rintro s dt x w l b ⟨hb, hx⟩ ⟨hw, untold, due⟩
    refine ⟨_, exec_vdcStall hb hw untold due, rfl, rfl, ?_, ?_, ?_⟩
    · exact (rd_raise _ _ _ _ _ _ _ _ _ (evKey_stalled hx)).trans (Blk.rd_wr_same ..)
    · exact congrArg VdcCtx.stallTold (vdcCtx_stallTold ..)
    · exact (congrArg VdcCtx.wait (vdcCtx_stallTold ..)).trans hw
  case slotFree =>
    rintro s dt x c w l b r ⟨rfl, hw, fed⟩ hr
    have drained := (vdcSlotFree_drains (m := s.store) hw fed).trans (vdcDrain_cons hr _)
    refine ⟨_, exec_vdcSlotFree .., rfl, congrArg Prod.snd drained, congrArg Prod.fst drained, ?_⟩
    rintro rfl
    refine (congrArg (fun b : Blk => (b.vdcCtx x).wait) (congrArg Prod.fst drained)).trans ?_
    exact congrArg VdcCtx.wait (vdcCtx_putVdc ..)
  case pictureOutput =>
    rintro s dt x c p b d q r ⟨rfl, out, fed, inner⟩ hd hq within hr
    have eligible := vdcPictureOutput_eligible out fed inner rfl hd hq within hr
    exact ⟨_, (exec_vdcPictureOutput ..).trans (next_announced (q := (_, q.2)) eligible), rfl, rfl, rfl⟩
  case rowReady =>
    rintro s dt x row lost p b e ⟨rfl, hp, he⟩ h
    have entered : ¬ (p.kind = 0 ∧ (!lineEntered (s.blk.tick dt) (e.rd F.VEC_SRC_STAGE x) p.f (rowLastLine e x row)) = true) := by
      rintro ⟨tap, out⟩
      rcases h with layer | in_
      · exact layer tap
      · rw [in_] at out
        cases out
    exact ⟨_, (exec_vecRowReady ..).trans (next_withBlk (vecRowReady_enters hp he entered rfl)), rfl, rfl, rfl, vecOn_regs ..⟩
  case rowCoded =>
    rintro s dt x row r p p1 b e k ⟨rfl, hp, front⟩ he hp1 ⟨hk, coded, unclamped, more⟩
    have result := (vecRowCoded_coded (m := s.store) hp front he hp1 hk coded unclamped rfl rfl).trans (if_neg more)
    have spent : p1.spent = p.spent := by
      rw [hp1]
      split <;> rfl
    refine ⟨_, (exec_vecRowCoded ..).trans (next_of_pair result), rfl, rfl, ?_, ?_, ?_⟩
    · exact vecOn_vecReady ..
    · exact vecOn_regs ..
    · exact vecOn_spent (b := { s.blk.tick dt with vecReady := (s.blk.tick dt).vecReady.drop 1 }) hp (congrArg (· + k.2.1) spent)
  case sliceOut =>
    rintro s dt x upto sets nals p rest b e ⟨rfl, hp, inner, he⟩ ⟨rfl, done, more, left⟩ ⟨hevc, quiet⟩
    refine ⟨_, (exec_vecSliceOut ..).trans (next_of_pair (vecSliceOut_inner sets nals hp inner he done left hevc more quiet)), rfl, rfl,
      ?_, ?_, rfl⟩
    · exact congrArg VecCtx.pics (vecCtx_putVec ..)
    · show (_ != 0) = false
      exact (congrArg (· != 0) (Blk.rd_wr_same ..)).trans rfl

end Sys2Proof.Machine
end

