-- ==== Sys2Proof/Proofs/Stages.lean ====
section
/-!
O29 and O52: cues that are due, the curtain-up point, freshness maps, signature arrays and proscenium checks (R59 to R61, R103, R104,
R154, R175, R178, R193 to R195).
-/

namespace Sys2Proof.Machine

/-- Writing a field of an item of a page leaves the item's fields in other places. -/
theorem Blk.rd_wr_item {f g : Fld} (hk : g.kind = f.kind) (hs : g.step = f.step) (hp : g.off * 32 + g.lo ≠ f.off * 32 + f.lo) (b : Blk)
    (i v k : Nat) : (b.wr f i v k).rd g i k = b.rd g i k := by
  refine Blk.rd_wr_ne _ _ _ _ _ _ _ _ ?_
  simp only [Fld.key, Fld.addr, hk, hs]
  omega

/-- The block of a state is the one it was given. -/
theorem State.withBlk_blk (s : State) (b : Blk) : (s.withBlk b).blk = b := rfl

theorem State.withBlk_pending (s : State) (b : Blk) : (s.withBlk b).pending = s.pending := rfl

theorem State.withBlk_store (s : State) (b : Blk) : (s.withBlk b).store = s.store := rfl

theorem State.withBoth_pending (s : State) (b : Blk) (m : FrameStore) : (s.withBoth b m).pending = s.pending := rfl

theorem State.withBoth_store (s : State) (b : Blk) (m : FrameStore) : (s.withBoth b m).store = m := rfl

theorem State.withBoth_blk (s : State) (b : Blk) (m : FrameStore) : (s.withBoth b m).blk = b := rfl

/-- A stage reads as it was put. -/
theorem stage_putStage (b : Blk) (st : Nat) (x : StgSt) : (b.putStage st x).stage st = x := by
  simp only [Blk.stage, Blk.putStage, mgetD_mset, if_true]

/-- Recording an event leaves the stages. -/
theorem stg_raise (p : Page) (code sev d evt : Nat) (b : Blk) : (raise p code sev d evt b).stg = b.stg :=
  (congrArg Blk.stg (rest_raise p code sev d evt b) :)

theorem stage_congr {b c : Blk} (h : b.stg = c.stg) (st : Nat) : b.stage st = c.stage st := by
  rw [Blk.stage, Blk.stage, h]

/-- A stage reads as it was put, after two counts and an event. -/
theorem stage_counted (p : Page) (code sev d evt : Nat) (f g : Fld) (i j st : Nat) (x : StgSt) (b : Blk) :
    (raise p code sev d evt (((b.putStage st x).bump f i).bump g j)).stage st = x :=
  (stage_congr (stg_raise p code sev d evt _) st).trans (stage_putStage b st x)

section
variable {b : Blk} {m : FrameStore} {st : Nat}

/-! ### Cues that are due -/

/-- The immediate cue of a group that is due is run. -/
theorem immediateCue_group {g : Nat} {q : Cue} (hq : mget b.ctl.groups g = some q) (now : q.point = 0) (due : q.time + 10 ≤ b.now)
    {r : Blk × Nat} (hr : r = runCue (groupSet (armGroup g none b) g q.mid false) (armGroup g none b)) : immediateCue true g b =
      ((r.1.wr F.SYS_GCUE_LAST_GROUP 0 g).wr F.SYS_GCUE_LAST_REASON 0 r.2).put F.SYS_GCUE_LAST_REFUSED 0 (r.2 != 0) := by
  rw [hr]
  have shared : (q.point == 3) = false := by rw [now]; rfl
  simp only [immediateCue, if_true, hq, if_pos (And.intro now due), takeGroup, shared, groupLast]

/-- The immediate cue of a page that is due is run. -/
theorem immediateCue_page {k : Nat} {p : Page} {q : Cue} (hq : mget b.ctl.cues k = some q) (now : q.point = 0) (due : q.time + 10 ≤ b.now)
    (hp : pageOfSlot k = some p) :
    immediateCue false k b = (runCue { pages := [p], mid := q.mid, shared := false } (armPage p.slot none b)).1 := by
  have shared : (q.point == 3) = false := by rw [now]; rfl
  simp only [immediateCue, Bool.false_eq_true, if_false, hq, if_pos (And.intro now due), hp, takePage, shared]

/-! ### The curtain-up point -/

/-- A stage that runs takes its epoch boundary and its cues at its curtain-up point, and then its own steps. -/
theorem curtainUp_runs (runs : stageRuns b st = true) {r : Blk × FrameStore} (hr : r = if st = 0 then epochBoundary b m else (b, m))
    {c : Blk} (hc : c = takeCues (fun q => q.point == 1 && q.stage == st && leadMet r.1 q) r.1) :
    curtainUp st b m = (if stageRuns c st then curtainRun st c else c, r.2) := by
  subst hr hc
  simp only [curtainUp, runs, Bool.not_true, Bool.false_eq_true, if_false]

/-- The steps of a curtain-up end with the frame to be switched to and the page's event. -/
theorem curtainSteps_ends (st : Nat) (b : Blk) : ∃ c, curtainSteps st b = setEvt (stgPage st) (evB 0) c ∧ (c.stage st).switchDue = true := by
  refine ⟨_, rfl, ?_⟩
  exact congrArg StgSt.switchDue (stage_putStage ..)

/-- What a curtain-up sets off comes after its steps. -/
theorem curtainRun_ends (st : Nat) (b : Blk) : ∃ d e, curtainRun st b = subscribe (crcOnCurtainUp st (forEach (List.range 16) (vecLatch st) e)) ∧
    e = setEvt (stgPage st) (evB 0) d ∧ (d.stage st).switchDue = true := by
  obtain ⟨d, steps, due⟩ := curtainSteps_ends st (adoptF st (proscCommit st (stripEnds st (dropBindings b))))
  exact ⟨d, _, rfl, steps, due⟩

/-- A line that is not ready is remembered, counted and told. -/
theorem lineNotReady_eq {k line slot : Nat} {p : Place} (hp : (b.stage st).scene.find? (·.1 == slot) = some (k, p)) :
    lineNotReady st slot line b = raise (lfpPage p.pipe) 0x100 sevError (p.layer + 2 ^ 15 * p.pipe) 0
      (((b.putStage st { b.stage st with under := (b.stage st).under ++ [(slot, line)] }).bump F.STG_UNDERRUNS_COUNT st).bump
        F.LFP_UNDERRUNS_COUNT p.pipe) := by
  simp only [lineNotReady, hp]

/-! ### Freshness maps -/

/-- The map of a frame on display is made for it. -/
theorem mapComplete_shown (shown : (b.stage st).shown ≠ []) {v : Blk} (hv : v = b.viewed st) : mapComplete st b m =
    mapDone st (stageW v st) (stageH v st) (v.rd F.STG_FRAME_F st) (v.rd F.STG_CUP_TIME_TIME st) (onDisplay b st)
      (fun p tx ty => tileHurt v p tx ty) (proscCovers b m st) (scanTime (scanClock b st)) b := by
  subst hv
  simp only [mapComplete, List.isEmpty_eq_false_iff.2 shown, Bool.false_eq_true, if_false]

/-- A map that is done is kept and reported with its frame, its time, its tiles and their check value. -/
theorem mapDone_reports (hst : st < 24) (w h f time : Nat) (ps : List (Nat × Place)) (deg : Place → Nat → Nat → Bool)
    (pro : Nat → Nat → Bool) (at_ : Nat → Nat → Nat) (b : Blk) :
    ∃ m, mget (mapDone st w h f time ps deg pro at_ b).prm.maps (st * 2 + f % 2) = some m ∧ m.time = time ∧ m.frame = f ∧
      m.tiles = (List.range (cdiv w 64 * cdiv h 64)).map (fun t => mapTile ps deg pro at_ (t % cdiv w 64) (t / cdiv w 64)) ∧
      m.crc = crc32 m.tiles ∧ (mapDone st w h f time ps deg pro at_ b).rd F.PRM_MAP_FRAME_FRAME st = f % 2 ^ 32 ∧
      (mapDone st w h f time ps deg pro at_ b).rd F.PRM_SSTAT_MAP_BUF st = f % 2 := by
  have frameKey : ∀ st < 24, evKey (prmPage st) (F.PRM_MAP_FRAME_FRAME.key st 0) = false := by decide
  have bufKey : ∀ st < 24, evKey (prmPage st) (F.PRM_SSTAT_MAP_BUF.key st 0) = false := by decide
  simp only [mapDone, prm_setEvt, rd_setEvt _ _ _ _ _ _ (frameKey st hst), rd_setEvt _ _ _ _ _ _ (bufKey st hst), Blk.wr_prm, mget_mset,
    if_true, Blk.rd_wr_same]
  refine ⟨_, rfl, rfl, rfl, rfl, rfl, rfl, ?_⟩
  simp (disch := decide) only [Blk.rd_wr_page, Blk.rd_wr_same]
  exact Nat.mod_mod ..

/-! ### Signature arrays and proscenium checks -/

/-- The signature array of a frame on display is written where access control lets it. -/
theorem signatureArrayDone_written (shown : (b.stage st).shown ≠ []) {v : Blk} (hv : v = b.viewed st) {base : Nat}
    (hbase : base = v.rd F.STG_SIGBASE_ADDR st + v.rd F.STG_FRAME_F st % 2 * 0x8000) {bytes : List Nat}
    (hbytes : bytes = (stageSigs b m st).flatMap (leBytes 4)) (granted : fsGranted b 0x15 base true = true) :
    signatureArrayDone st b m = ((b.wr F.STG_SIGDIG_DIGEST st (crc32c bytes)).put F.STG_SIGDIG_LATE st
        ((b.stage st).sigLate == some (v.rd F.STG_FRAME_F st)),
      (bytes.zipIdx).foldl (fun m e => if fsGranted b 0x15 (base + e.2) true && Nat.blt (base + e.2) (usable b)
        then m.setByte (base + e.2) e.1 else m) m) := by
  subst hv hbytes
  simp only [signatureArrayDone, List.isEmpty_eq_false_iff.2 shown, Bool.false_eq_true, if_false, ← hbase, granted, if_true]

/-- A slot that is drawn and compared: its check value, which of its two expected values counts, and the last result. -/
def psCompared (st k c : Nat) (alt : Bool) (res : Nat) (b : Blk) : Blk :=
  ((b.wr F.STG_PS_CRC_CRC st c k).put F.STG_PS_RES_ALT st alt k).putStage st
    { b.stage st with psLast := mset (b.stage st).psLast k res }

section
variable {k c : Nat} {alt : Bool} {v : Blk} (checked : psChecked b st k = true) (hv : v = b.viewed st)
  (compares : v.rd F.STG_PS_CFG_CHECK st k = 1) (hc : c = psCrc b m st k) (ha : alt = trigShaky (shownContact b st) v st k)
include checked hv compares hc ha

/-- A slot whose check value is the expected one has RESULT 1; the first match after mismatches is told. -/
theorem psCheck_match (same : c = v.rd (if alt then F.STG_PS_EXP1_CRC else F.STG_PS_EXP0_CRC) st k) : psCheck st k b m =
    if 2 ≤ mgetD (b.stage st).psLast k 0 then
      raise (stgPage st) 0x104 sevNotice (k % 2 ^ 17 + 2 ^ 17 * st) 0
        (((psCompared st k c alt 1 b).wr F.STG_PS_RES_RESULT st 1 k).wr F.STG_PS_RES_MISMATCHES st 0 k)
    else ((psCompared st k c alt 1 b).wr F.STG_PS_RES_RESULT st 1 k).wr F.STG_PS_RES_MISMATCHES st 0 k := by
  have own (c : Nat) : (b.wr F.STG_PS_CRC_CRC st c k).stage st = b.stage st := rfl
  have contacts (c : Nat) : shownContact (b.wr F.STG_PS_CRC_CRC st c k) st = shownContact b st := rfl
  subst hv
  simp only [psCheck, checked, compares, ← hc, contacts, ← ha, if_pos same, own, OfNat.one_ne_ofNat, Bool.not_true, Bool.false_eq_true,
    if_false, stgEvent, psCompared]

/-- A slot whose check value is another has RESULT 2; the first mismatch after matches is told. -/
theorem psCheck_mismatch (other : c ≠ v.rd (if alt then F.STG_PS_EXP1_CRC else F.STG_PS_EXP0_CRC) st k) : psCheck st k b m =
    if mgetD (b.stage st).psLast k 0 = 2 then
      ((psCompared st k c alt 2 b).wr F.STG_PS_RES_RESULT st 2 k).bump F.STG_PS_RES_MISMATCHES st 1 k
    else raise (stgPage st) 0x103 sevCritical ((k + 8 * b2n alt) % 2 ^ 17 + 2 ^ 17 * st) (evB 1)
      (((psCompared st k c alt 2 b).wr F.STG_PS_RES_RESULT st 2 k).bump F.STG_PS_RES_MISMATCHES st 1 k) := by
  have own (c : Nat) : (b.wr F.STG_PS_CRC_CRC st c k).stage st = b.stage st := rfl
  have contacts (c : Nat) : shownContact (b.wr F.STG_PS_CRC_CRC st c k) st = shownContact b st := rfl
  subst hv
  simp only [psCheck, checked, compares, ← hc, contacts, ← ha, if_neg other, own, OfNat.one_ne_ofNat, Bool.not_true, Bool.false_eq_true,
    if_false, stgEvent, psCompared]

end

/-- The check value and the result of a slot are no registers of an event of its stage's page. -/
theorem evKey_psResult {k : Nat} (hst : st < 24) (hk : k < 8) :
    evKey (stgPage st) (F.STG_PS_CRC_CRC.key st k) = false ∧ evKey (stgPage st) (F.STG_PS_RES_RESULT.key st k) = false := by
  have all : ∀ st < 24, ∀ k < 8, evKey (stgPage st) (F.STG_PS_CRC_CRC.key st k) = false ∧
      evKey (stgPage st) (F.STG_PS_RES_RESULT.key st k) = false := by decide
  exact all st hst k hk

/-- What a compared slot reads as, with an event or without one. -/
theorem rd_psCompared {k : Nat} (hst : st < 24) (hk : k < 8) (c : Nat) (alt : Bool) (res n v : Nat) (b : Blk) {code sev d evt : Nat}
    {told : Prop} [Decidable told] {x y : Blk}
    (hx : x = ((psCompared st k c alt res b).wr F.STG_PS_RES_RESULT st n k).wr F.STG_PS_RES_MISMATCHES st v k)
    (hy : y = if told then raise (stgPage st) code sev d evt x else x) :
    y.rd F.STG_PS_CRC_CRC st k = c % 2 ^ 32 ∧ y.rd F.STG_PS_RES_RESULT st k = n % 4 := by
  obtain ⟨crcKey, resKey⟩ := evKey_psResult hst hk
  have crc : x.rd F.STG_PS_CRC_CRC st k = c % 2 ^ 32 := by
    rw [hx]
    simp (disch := decide) only [psCompared, Blk.put, Blk.rd_putStage, Blk.rd_wr_item, Blk.rd_wr_same]
    rfl
  have result : x.rd F.STG_PS_RES_RESULT st k = n % 4 := by
    rw [hx]
    simp (disch := decide) only [Blk.rd_wr_item, Blk.rd_wr_same]
    rfl
  subst hy
  split
  · rw [rd_raise _ _ _ _ _ _ _ _ _ crcKey, rd_raise _ _ _ _ _ _ _ _ _ resKey]
    exact ⟨crc, result⟩
  · exact ⟨crc, result⟩

end

theorem exec_curtainUp (s : State) (dt st : Nat) : exec (.curtainUp dt st) s =
    .next (s.withBoth (announce (s.blk.tick dt) (curtainUp st (s.blk.tick dt) s.store).1 (curtainUp st (s.blk.tick dt) s.store).2)
      (curtainUp st (s.blk.tick dt) s.store).2) := rfl

theorem exec_psCheck (s : State) (dt st k : Nat) : exec (.psCheck dt st k) s = .next (s.withBlk (psCheck st k (s.blk.tick dt) s.store)) := rfl

theorem exec_mapComplete (s : State) (dt st : Nat) :
    exec (.mapComplete dt st) s = .next (s.withBlk (mapComplete st (s.blk.tick dt) s.store)) := rfl

theorem exec_signatureArrayDone (s : State) (dt st : Nat) : exec (.signatureArrayDone dt st) s =
    .next (s.withBoth (signatureArrayDone st (s.blk.tick dt) s.store).1 (signatureArrayDone st (s.blk.tick dt) s.store).2) := rfl

/-- Settles O29, from what each command of a stage does under its conditions. -/
theorem stageCommands : Obligations.StageCommands := by
  unfold Obligations.StageCommands
  refine ⟨?group, ?page, ?curtainUp, curtainSteps_ends, ?line, ?map, fun st w h f time ps deg pro at_ b hst =>
    mapDone_reports hst w h f time ps deg pro at_ b, ?sigs, ?sigsLate, ?psMatch, ?corrupt⟩
  case group =>
    rintro s dt g q b r rfl ⟨hq, now, due⟩ hr
    exact next_withBlk (immediateCue_group hq now due hr)
  case page =>
    rintro s dt k p q b rfl ⟨hq, now, due⟩ hp
    exact next_withBlk (immediateCue_page hq now due hp)
  case curtainUp =>
    rintro s dt st b r c rfl runs hr hc
    exact (exec_curtainUp ..).trans (next_announced (q := (_, r.2)) (curtainUp_runs runs hr hc))
  case line =>
    rintro s dt st k line slot p b rfl hp
    exact next_withBlk (lineNotReady_eq hp)
  case map =>
    rintro s dt st b v rfl shown hv
    exact (exec_mapComplete ..).trans (next_withBlk (mapComplete_shown shown hv))
  case sigs =>
    rintro s dt st base bytes b v rfl shown hv hbase hbytes granted
    exact (exec_signatureArrayDone ..).trans (next_of_pair (signatureArrayDone_written shown hv hbase hbytes granted))
  case sigsLate =>
    rintro s dt st b rfl
    rfl
  case psMatch =>
    rintro s dt st k c b v alt rfl ⟨shown, hv⟩ ⟨draws, compares⟩ ⟨hc, ha⟩ same
    have checked : psChecked (s.blk.tick dt) st k = true := by
      rw [hv] at draws compares
      simp only [psChecked, List.isEmpty_eq_false_iff.2 shown, draws, compares]
      rfl
    exact (exec_psCheck ..).trans (next_withBlk (psCheck_match checked hv compares hc ha same.symm))
  case corrupt =>
    rintro s dt pipe l b rfl
    rfl

/-- Settles O52, from the same lemmas. -/
theorem stageCommandsComplete : Obligations.StageCommandsComplete := by
  unfold Obligations.StageCommandsComplete
  refine ⟨?group, ?page, ?curtainUp, ?map, ?line, ?sigs, ?sigsLate, ?psCheck, ?corrupt⟩
  case group =>
    rintro s dt g q ⟨hq, now, due⟩
    obtain ⟨r, hr⟩ : ∃ r, r = runCue (groupSet (armGroup g none (s.blk.tick dt)) g q.mid false) (armGroup g none (s.blk.tick dt)) :=
      ⟨_, rfl⟩
    refine ⟨_, r, next_withBlk (immediateCue_group hq now due hr), hr, State.withBlk_pending .., State.withBlk_store .., State.withBlk_blk .., ?_, ?_⟩
    · simp (disch := decide) only [State.withBlk_blk, Blk.put, Blk.rd_wr_page, Blk.rd_wr_same]
      rfl
    · exact Blk.on_put_same _ _ _ _ _ (by decide)
  case page =>
    rintro s dt k p q ⟨hq, now, due⟩ hp
    have step : exec (.cueTaken dt false k) s = _ := next_withBlk (immediateCue_page hq now due hp)
    exact ⟨_, step, State.withBlk_pending .., State.withBlk_store .., State.withBlk_blk ..⟩
  case curtainUp =>
    rintro s dt st r c runs hr hc still
    obtain ⟨d, e, hrun, he, switch⟩ := curtainRun_ends st c
    have done : curtainUp st (s.blk.tick dt) s.store = (curtainRun st c, r.2) := by
      rw [curtainUp_runs runs hr hc, if_pos still]
    have step : exec (.curtainUp dt st) s = .next (s.withBoth (announce (s.blk.tick dt) (curtainRun st c) r.2) r.2) := by
      rw [exec_curtainUp, done]
    exact ⟨_, d, e, step, State.withBoth_pending .., State.withBoth_store .., State.withBoth_blk .., hrun, he, switch⟩
  case map =>
    rintro s dt st v ⟨shown, hst⟩ hv
    have done := mapComplete_shown (m := s.store) shown hv
    obtain ⟨m, hm, time, frame, tiles, crc, reported, -⟩ := mapDone_reports hst (stageW v st) (stageH v st) (v.rd F.STG_FRAME_F st)
      (v.rd F.STG_CUP_TIME_TIME st) (onDisplay (s.blk.tick dt) st) (fun p tx ty => tileHurt v p tx ty)
      (proscCovers (s.blk.tick dt) s.store st) (scanTime (scanClock (s.blk.tick dt) st)) (s.blk.tick dt)
    have step := (exec_mapComplete s dt st).trans (next_withBlk done)
    refine ⟨_, m, step, State.withBlk_pending .., State.withBlk_store .., ?_, frame, time, crc, ?_, ?_⟩
    · rw [State.withBlk_blk]
      exact hm
    · rw [tiles, List.length_map, List.length_range]
    · rw [State.withBlk_blk]
      exact reported
  case line =>
    rintro s dt st k line slot p hp
    have step : exec (.lineNotReady dt st slot line) s = _ := next_withBlk (lineNotReady_eq hp)
    refine ⟨_, step, State.withBlk_pending .., State.withBlk_store .., ?_, State.withBlk_blk ..⟩
    rw [State.withBlk_blk, stage_counted]
  case sigs =>
    rintro s dt st base v shown hv hbase granted
    have step := (exec_signatureArrayDone s dt st).trans (next_of_pair (signatureArrayDone_written shown hv hbase rfl granted))
    refine ⟨_, step, State.withBoth_pending .., State.withBoth_store .., ?_, ?_⟩
    · simp (disch := decide) only [State.withBoth_blk, Blk.put, Blk.rd_wr_page, Blk.rd_wr_same]
      rfl
    · exact Blk.on_put_same _ _ _ _ _ (by decide)
  case sigsLate =>
    rintro s dt st
    exact ⟨_, rfl, rfl, rfl, rfl⟩
  case psCheck =>
    rintro s dt st k v ⟨checked, hv, hst, hk⟩ compares
    by_cases same : psCrc (s.blk.tick dt) s.store st k =
        v.rd (if trigShaky (shownContact (s.blk.tick dt) st) v st k then F.STG_PS_EXP1_CRC else F.STG_PS_EXP0_CRC) st k
    · have done := psCheck_match checked hv compares rfl rfl same
      obtain ⟨crc, result⟩ := rd_psCompared hst hk _ _ _ _ _ _ rfl done
      exact ⟨_, exec_psCheck .., State.withBlk_pending .., State.withBlk_store .., crc, result.trans (if_pos same).symm⟩
    · have done := (psCheck_mismatch checked hv compares rfl rfl same).trans (ite_not ..).symm
      obtain ⟨crc, result⟩ := rd_psCompared hst hk _ _ _ _ _ _ rfl done
      exact ⟨_, exec_psCheck .., State.withBlk_pending .., State.withBlk_store .., crc, result.trans (if_neg same).symm⟩
  case corrupt =>
    rintro s dt pipe l
    exact ⟨_, rfl, rfl, rfl, rfl⟩

end Sys2Proof.Machine
end

