-- ==== Sys2Proof/Proofs/Heads.lean ====
section
/-!
O30: output heads: frame starts and curtains, hot-plug detect, AUX and EDID, resuming a link, and the ST 2110-20 output (R252 to R268).
-/

namespace Sys2Proof.Machine

/-- A head reads as it was put. -/
theorem head_putHead (b : Blk) (h : Nat) (x : HeadSt) : (b.putHead h x).head h = x := by
  simp only [Blk.head, Blk.putHead, mgetD_mset, if_true]

/-- Changing a head's own state leaves its registers. -/
theorem rd_putHead (b : Blk) (h : Nat) (x : HeadSt) (f : Fld) (i k : Nat) : (b.putHead h x).rd f i k = b.rd f i k := rfl

section
variable {b : Blk} {h : Nat}

/-! ### Frame starts and the curtain -/

/-- Vertical blanking puts what the head held into effect. -/
theorem headBlank_held (held : (b.head h).pend ≠ []) : headBlank h b =
    headChanged h b (({ b with regs := mput (b.head h).pend b.regs } : Blk).putHead h { b.head h with pend := [] }) := by
  simp only [headBlank, List.isEmpty_eq_false_iff.2 held, Bool.false_eq_true, if_false]

/-- A head of a running stage whose queue ran empty on air has the stage tell it, and shows its curtain. -/
theorem headQueueStarved_first (line : Nat) (runs : headRuns b h = true) (stage : stageRuns b h = true) (shown : (b.stage h).shown ≠ [])
    (first : (b.stage h).starved = false) {c : Blk}
    (hc : c = stgEvent h 0x100 sevError line (evB 3) (b.putStage h { b.stage h with starved := true })) :
    headQueueStarved h line b = setCurtain h (Nat.max 2 (c.rd F.OHD_STAT_CURT_REASON h))
      (c.putHead h { c.head h with starved := true, good := 0 }) := by
  simp only [headQueueStarved, runs, stage, List.isEmpty_eq_false_iff.2 shown, first, Bool.not_true, Bool.false_eq_true, Bool.or_self,
    if_false, ← hc, rd_putHead]

/-- Without a force, outside the role of a curtain and with its queue fed, a head shows its curtain exactly where its stage shows
nothing. -/
theorem curtainWhy_stage (safe : b.on F.OHD_CURT_FORCE_SAFE h = false) (ops : b.on F.OHD_CURT_FORCE_OPS h = false)
    (role : b.rd F.SYS_ROLE_ROLE 0 ≠ 4) (fed : (b.head h).starved = false) :
    curtainWhy b h = if stageRuns b h = true ∧ (b.stage h).shown ≠ [] then 0 else 1 := by
  simp only [curtainWhy, safe, ops, if_neg role, fed, Bool.false_eq_true, if_false]
  cases stageRuns b h <;> cases (b.stage h).shown <;> rfl

/-! ### Hot-plug detect -/

/-- A low pulse that ends within the limits is an IRQ_HPD. -/
theorem hpdSampleOne_pulse {levels t : Nat} (used : b.rd F.OHD_STAT_HPD h ≠ 5) (low : (b.head h).lowAt = some t)
    (was : (b.head h).hpd.level = false) (rises : bit levels h = true) (long : t + 250000 ≤ b.now)
    (short : b.now < t + 100000 * b.rd F.OHD_HPD_CFG_DEBOUNCE h) :
    ((hpdSampleOne levels h b).head h).irq = true ∧ ((hpdSampleOne levels h b).head h).lowAt = none := by
  have longB : Nat.ble (t + 250000) b.now = true := Nat.ble_eq.mpr long
  have shortB : Nat.blt b.now (t + 100000 * hpdDeb b h) = true := Nat.blt_eq.mpr short
  rw [hpdSampleOne, if_neg used, head_putHead]
  simp only [low, was, rises, longB, shortB, Bool.false_and, Bool.not_false, Bool.and_self, Bool.or_true, Bool.false_eq_true, if_true,
    if_false, and_self]

/-- The head and its state register after a change of its HPD state. -/
def hpdMoved (h st : Nat) (k : Contact) (b : Blk) : Blk :=
  (b.putHead h { b.head h with hpd := k, irq := (b.head h).irq && st != ctInactive }).wr F.OHD_STAT_HPD h st

section
variable {st : Nat} {k : Contact} (next : hpdNext b h = some (st, k))
include next

/-- CHATTER ends with its own event, and the head acts on the state it finds. -/
theorem hpdStateChange_chatterEnds (chatters : b.rd F.OHD_STAT_HPD h = 4) :
    hpdStateChange h b = hpdAct h st (ohdEvent h 0x104 sevNotice st (evB 0) (hpdMoved h st k b)) := by
  simp only [hpdStateChange, next, if_pos chatters, hpdMoved]

/-- A run that brings no other state tells nothing. -/
theorem hpdStateChange_same (quiet : b.rd F.OHD_STAT_HPD h ≠ 4) (same : st = b.rd F.OHD_STAT_HPD h) :
    hpdStateChange h b = hpdMoved h st k b := by
  simp only [hpdStateChange, next, if_neg quiet, if_pos same, hpdMoved]

/-- Another state is told by its event, and the head acts on it; in CHATTER it waits. -/
theorem hpdStateChange_other (quiet : b.rd F.OHD_STAT_HPD h ≠ 4) (other : st ≠ b.rd F.OHD_STAT_HPD h) : hpdStateChange h b =
    if st = 1 then hpdAct h st (ohdEvent h 0x100 sevNotice 0 (evB 0) (hpdMoved h st k b))
    else if st = 2 then hpdAct h st (ohdEvent h 0x102 sevNotice 0 (evB 0) (hpdMoved h st k b))
    else if st = 4 then ohdEvent h 0x103 sevWarning 0 (evB 0) (hpdMoved h st k b)
    else hpdAct h st (ohdEvent h 0x101 sevWarning 0 (evB 0) (hpdMoved h st k b)) := by
  simp only [hpdStateChange, next, if_neg quiet, if_neg other]
  rfl

end

/-- An IRQ_HPD on a link that lost lanes reports them and trains again. -/
theorem irqHpd_lost {status : List Nat} {lost : Nat} {c : Blk} (due : (b.head h).irq = true) (usable : auxUsable b h = true)
    (up : b.rd F.OHD_STAT_LINK h = 3)
    (hc : c = (b.putHead h { b.head h with irq := false }).emit (.aux h false 0x200 false (List.replicate 8 0)))
    (hl : lost = lanesLost (linkLanes c h) (status.drop 2)) (some_ : lost ≠ 0) : irqHpd h status b =
      trainBegin h ((unitDown (headUnit h) 2 (ohdEvent h 0x107 sevWarning (lost % 16) (evB 1) c)).wr F.OHD_STAT_RATE_ACT h 0) := by
  have usable' (x : HeadSt) : auxUsable (b.putHead h x) h = true := usable
  have kept : ¬ (lost = 0 ∨ c.rd F.OHD_STAT_LINK h ≠ 3) := by
    rintro (none_ | other)
    · exact some_ none_
    · exact other (hc ▸ up)
  simp only [irqHpd, due, usable', Bool.not_true, Bool.false_eq_true, if_false, ← hc, ← hl, if_neg kept]

/-- In CHATTER an IRQ_HPD is dropped. -/
theorem irqHpd_chatter (status : List Nat) (due : (b.head h).irq = true) (chatters : b.rd F.OHD_STAT_HPD h = 4) :
    irqHpd h status b = b.putHead h { b.head h with irq := false } := by
  have unusable (x : HeadSt) : auxUsable (b.putHead h x) h = false := by
    have reg : (b.putHead h x).rd F.OHD_STAT_HPD h = 4 := chatters
    simp only [auxUsable, reg, ctChatter, bne_self_eq_false, Bool.and_false]
  simp only [irqHpd, due, unusable, Bool.not_true, Bool.not_false, Bool.false_eq_true, if_true, if_false]

/-! ### AUX transactions -/

/-- A head that does not drive sends no AUX transaction. -/
theorem auxSend_silent (silent : b.driving = false) (i2c : Bool) (addr : Nat) (write : Bool) (bytes : List Nat) (tries : Nat) :
    auxSend h i2c addr write bytes tries b = b.putHead h { b.head h with aux := none } := by
  simp only [auxSend, auxUsable, silent, Bool.false_and, Bool.not_false, if_true]

section
variable {i2c write : Bool} {addr : Nat} {bytes : List Nat} {q : AuxReq} (usable : auxUsable b h = true)
  (allowed : auxAllowed i2c addr bytes.length write = true) (waits : (b.head h).aux = some q)
  (same : q.addr = addr ∧ q.write = write ∧ q.i2c = i2c)
include usable allowed waits same

/-- An acknowledged transaction brings its bytes, and the head goes on to the next. -/
theorem auxTransaction_ack {c : Blk} (hc : c = b.putHead h { b.head h with aux := none }) : auxTransaction h i2c addr write bytes 0 b =
    auxFollow h i2c addr bytes.length write (if write then c
      else if i2c then c.putHead h { c.head h with
        ddcAt := (c.head h).ddcAt + bytes.length
        ddc := (c.head h).ddc ++ bytes.map (· % 256) }
      else dpcdPut h addr bytes c) := by
  simp only [auxTransaction, usable, allowed, waits, if_pos same, Bool.not_true, Bool.or_self, Bool.false_eq_true, if_false, ← hc]

/-- A deferred transaction is tried again, at most 7 times. -/
theorem auxTransaction_defer : auxTransaction h i2c addr write bytes 1 b =
    if q.tries < 7 then auxSend h q.i2c q.addr q.write q.bytes (q.tries + 1) b else auxFailed h b := by
  simp only [auxTransaction, auxRetry, usable, allowed, waits, if_pos same, Bool.not_true, Bool.or_self, Bool.false_eq_true, if_false]

end

/-- A transaction without a reply for 400 µs is tried again, at most 7 times. -/
theorem auxTimeout_eq {q : AuxReq} (waits : (b.head h).aux = some q) : auxTimeout h b =
    if q.at_ + 400000 ≤ b.now then
      if q.tries < 7 then auxSend h q.i2c q.addr q.write q.bytes (q.tries + 1) b else auxFailed h b
    else b := by
  simp only [auxTimeout, auxRetry, waits]

/-- The capabilities are read in order while the UHBR rates are unknown. -/
theorem auxFollow_capabilities (n : Nat) (unread : mget (b.head h).dpcd 0x2215 = none) :
    auxFollow h false 0 n false b = auxSend h false 0x2200 false (List.replicate 16 0) 0 b ∧
      auxFollow h false 0x2200 n false b = auxSend h false 0x2215 false [0] 0 b := by
  simp only [auxFollow, unread, Option.isSome_none, Bool.false_eq_true, if_false, and_self]

/-- The UHBR rates are followed by the MST capability, and that by the EDID where there is no MST. -/
theorem auxFollow_mst (n : Nat) : auxFollow h false 0x2215 n false b = auxSend h false 0x21 false [0] 0 b ∧
    (b.on F.OHD_CTRL_MST h = false → auxFollow h false 0x21 n false b = auxSend h true 0x50 true [0] 0 b) := by
  refine ⟨rfl, fun direct => ?_⟩
  simp only [auxFollow, direct, Bool.false_eq_true, if_false]

/-! ### EDID and stored links -/

/-- The preferred timing's fields, as an EDID that was read leaves them; 0 where there is none. -/
def putPref (h : Nat) (pref : Option Mode) (b : Blk) : Blk :=
  (((b.wr F.OHD_PREF0_PCLK h (pref.elim 0 Mode.ha)).wr F.OHD_PREF0_RATE h (pref.elim 0 Mode.va)).wr F.OHD_PREF1_PCLK h
    (pref.elim 0 fun t => rdiv t.khz 100)).wr F.OHD_PREF1_RATE h
    (pref.elim 0 fun t => if t.ht * t.vt = 0 then 0 else rdiv (t.khz * 100000) (t.ht * t.vt))

/-- The fields of the preferred timing read as they were put. -/
theorem rd_putPref (pref : Option Mode) (b : Blk) : (putPref h pref b).rd F.OHD_PREF0_PCLK h = pref.elim 0 Mode.ha % 2 ^ 16 ∧
    (putPref h pref b).rd F.OHD_PREF0_RATE h = pref.elim 0 Mode.va % 2 ^ 16 ∧
    (putPref h pref b).rd F.OHD_PREF1_PCLK h = (pref.elim 0 fun t => rdiv t.khz 100) % 2 ^ 16 ∧
    (putPref h pref b).rd F.OHD_PREF1_RATE h =
      (pref.elim 0 fun t => if t.ht * t.vt = 0 then 0 else rdiv (t.khz * 100000) (t.ht * t.vt)) % 2 ^ 16 := by
  simp (disch := decide) only [putPref, Blk.rd_wr_page, Blk.rd_wr_same]
  exact ⟨rfl, rfl, rfl, rfl⟩

/-- Reading an EDID ends with the preferred timing of its good blocks. -/
theorem edidRead_ends {remote raw : List Nat} {n : Nat} {l good : List (List Nat)} {pref : Option Mode} (usable : auxUsable b h = true)
    (there : hpdAsserted b h = true) (hraw : raw = if b.on F.OHD_CTRL_MST h then remote else (b.head h).ddc)
    (hn : n = Nat.min (edidLength raw / 128) (cdiv raw.length 128))
    (hl : l = (List.range n).map fun k => (List.range 128).map fun i => raw.getD (128 * k + i) 0)
    (hg : good = if edidSumOk (l.headD []) then l.filter edidSumOk else [])
    (hp : pref = if good.isEmpty then none else preferred good) : ∃ c, edidRead h remote b = putPref h pref c := by
  simp only [edidRead, usable, there, Bool.not_true, Bool.or_self, Bool.false_eq_true, if_false, ← hraw, ← hn, ← hl, ← hg, ← hp]
  cases pref with
  | none => exact ⟨_, rfl⟩
  | some t => exact ⟨_, rfl⟩

/-- A head that may drive, without a link, drives its stored setting and checks it 1.0 ms later. -/
theorem headResume_stored {r n mst n0 id0 n1 id1 : Nat} {drive : List Nat} (enabled : unitEnabled b (headUnit h) = true)
    (there : hpdAsserted b h = true) (down : b.rd F.OHD_STAT_LINK h ≠ 3) (idle : (b.head h).try_ = none)
    (stored : (b.head h).link = some (r :: n :: mst :: n0 :: id0 :: n1 :: id1 :: drive)) (same : mst = b.rd F.OHD_CTRL_MST h) {c d : Blk}
    (hc : c = if (b.unit (headUnit h)).state = stOff then unitStart (headUnit h) b else b)
    (hd : d = c.putHead h { c.head h with
      checkAt := some (c.now + 1000000)
      checking := false
      sinks := List.replicate (b2n (id0 != 0) + b2n (id1 != 0)) [] }) :
    headResume h b = linkOn h r drive ((d.wr F.OHD_STAT_SINKS h (d.head h).sinks.length).wr F.OHD_STAT_CHECK h 0) := by
  have noLink : (b.rd F.OHD_STAT_LINK h == 3) = false := beq_false_of_ne down
  have sameB : (mst == b.rd F.OHD_CTRL_MST h) = true := beq_iff_eq.mpr same
  simp only [headResume, enabled, there, noLink, idle, Bool.not_true, Option.isSome_none, Bool.or_self, Bool.false_eq_true, if_false,
    stored, sameB, if_true, ← hc, ← hd]

/-! ### The ST 2110-20 output -/

section
variable {m : FrameStore} {n : Nat} {c : Blk} (on : b.on F.OHD_TX_CFG_EN h = true) (runs : headRuns b h = true) (owns : ownOut b = true)
  (single : b.on F.OHD_TX_CFG_DUP_EN h = false) (hn : n = (b.head h).txNext) (more : n < txPackets b h)
  (hc : c = b.putHead h { b.head h with txNext := n + 1, txSeq := ((b.head h).txSeq + 1) % 2 ^ 32 })
include on runs owns single hn more hc

/-- The next packet of a frame leaves through its port. -/
theorem txPacket_sent {p : Nat} {pay : Nat × Nat × List Nat} (hp : p = b.rd F.OHD_TX_CFG_NIF h) (hpay : pay = txPayload c m h n)
    (up : linkUp c p = true) : txPacket h false b m = c.emit (.net p 6 ([c.rd F.OHD_TX_CFG_FAMILY h, c.rd F.OHD_TX_ADDR_ADDR h,
      c.rd F.OHD_TX_PORT_UDP h, c.rd F.OHD_TX_CFG_PT h, b2n (n + 1 == txPackets c h), (b.head h).txSeq,
      (if (!(c.stage h).shown.isEmpty) = true then (c.viewed h).rd F.STG_CUP_TIME_TIME h else (b.head h).frameAt) * 9 / 100000 % 2 ^ 32,
      pay.1, pay.2.1] ++ pay.2.2)) := by
  have unfinished : Nat.ble (txPackets b h) n = false := ble_eq_false more
  simp only [txPacket, on, runs, owns, single, ← hn, unfinished, ← hc, ← hp, ← hpay, forEach_singleton, up, Bool.not_true,
    Bool.or_self, Bool.false_eq_true, if_false]

/-- A packet that cannot be sent is counted, in its second and in all. -/
theorem txPacket_lost : txPacket h true b m = txReport h ((c.bump F.OHD_TX_LOST_COUNT h).putHead h { c.head h with
    txDrops := match (c.head h).txDrops with | some (t, k) => some (t, k + 1) | none => some (c.now, 1) }) := by
  have unfinished : Nat.ble (txPackets b h) n = false := ble_eq_false more
  simp only [txPacket, on, runs, owns, single, ← hn, unfinished, ← hc, forEach_singleton, Bool.not_true, Bool.or_self, Bool.true_or,
    Bool.false_eq_true, if_true, if_false] <;> rfl

end

end

/-- Settles O30, from what a head's frame starts, its hot-plug pin, its transactions and its packets do. -/
theorem headCommands : Obligations.HeadCommands := by
  unfold Obligations.HeadCommands
  refine ⟨?blank, ?line0, ?off, ?curtain, ?starved, ?sample, fun b levels h t used ⟨low, was, rises⟩ ⟨long, short⟩ =>
    hpdSampleOne_pulse used low was rises long short, ?hpd, ?irqLost, ?irqIgnored, ?acked, fun h n b => ⟨auxFollow_capabilities n,
    (auxFollow_mst n).1, (auxFollow_mst n).2, rfl⟩, ?retried, ?timeout, fun h addr tries i2c write bytes b silent =>
    auxSend_silent silent i2c addr write bytes tries, ?edid, ?resume, ?sent, ?lost⟩
  case blank =>
    rintro s dt h b c hb ⟨runs, held⟩ hc
    change execHeadFrameStart dt h true s = _
    rw [execHeadFrameStart, eff_next, set_blk, ← hb]
    simp only [runs, Bool.not_true, Bool.false_eq_true, if_true, if_false, headBlank_held held, ← hc]
  case line0 =>
    rintro s dt h b c d e hb runs hc hd he
    change execHeadFrameStart dt h false s = _
    rw [execHeadFrameStart, eff_next, set_blk, ← hb]
    simp only [runs, Bool.not_true, Bool.false_eq_true, if_false, headFrame, ← hc, ← hd, ← he]
  case off =>
    rintro s dt h blank b hb stopped
    change execHeadFrameStart dt h blank s = _
    rw [execHeadFrameStart, eff_next, set_blk, ← hb]
    simp only [stopped, Bool.not_false, if_true]
  case curtain =>
    refine fun b h => ⟨fun safe => ?_, fun safe ops => ?_, fun safe ops role => ?_, fun safe ops role starved => ?_, curtainWhy_stage⟩
    · rw [curtainWhy, safe, if_pos rfl]
    · simp only [curtainWhy, safe, ops, Bool.false_eq_true, if_true, if_false]
    · simp only [curtainWhy, safe, ops, role, Bool.false_eq_true, if_true, if_false]
    · simp only [curtainWhy, safe, ops, if_neg role, starved, Bool.false_eq_true, if_true, if_false]
  case starved =>
    rintro s dt h line b c rfl ⟨runs, stage, shown, first⟩ hc
    exact next_withBlk (headQueueStarved_first line runs stage shown first hc)
  case sample =>
    rintro s dt levels b rfl
    rfl
  case hpd =>
    rintro s dt h st k b c rfl next hc
    rw [hc]
    exact ⟨fun chatters => next_withBlk (hpdStateChange_chatterEnds next chatters), fun quiet same =>
      next_withBlk (hpdStateChange_same next quiet same), fun quiet other => next_withBlk (hpdStateChange_other next quiet other)⟩
  case irqLost =>
    rintro s dt h lost status b c d rfl ⟨due, usable, up⟩ hc ⟨hl, some_⟩ hd
    rw [hd]
    exact next_withBlk (irqHpd_lost due usable up hc hl some_)
  case irqIgnored =>
    rintro s dt h status b rfl ⟨due, chatters⟩
    exact next_withBlk (irqHpd_chatter status due chatters)
  case acked =>
    rintro s dt h addr i2c write bytes q b c rfl ⟨usable, allowed⟩ ⟨waits, same⟩ hc
    have acked := auxTransaction_ack usable allowed waits same hc
    refine ⟨fun writes => ?_, fun reads native => ?_, fun reads ddc => ?_⟩
    · exact next_withBlk (acked.trans (by rw [if_pos writes]))
    · exact next_withBlk (acked.trans (by simp only [reads, native, Bool.false_eq_true, if_false]))
    · exact next_withBlk (acked.trans (by simp only [reads, ddc, Bool.false_eq_true, if_true, if_false]))
  case retried =>
    rintro s dt h addr i2c write bytes q b rfl ⟨usable, allowed⟩ ⟨waits, rfl, rfl, rfl⟩
    have deferred := auxTransaction_defer usable allowed waits ⟨rfl, rfl, rfl⟩
    exact ⟨fun few => next_withBlk (deferred.trans (if_pos few)), fun many => next_withBlk (deferred.trans (if_neg (Nat.not_lt.2 many)))⟩
  case timeout =>
    rintro s dt h q b rfl waits
    have due := auxTimeout_eq waits
    exact ⟨fun early => next_withBlk (due.trans (if_neg (Nat.not_le.2 early))), fun late few =>
      next_withBlk (due.trans ((if_pos late).trans (if_pos few))), fun late many =>
      next_withBlk (due.trans ((if_pos late).trans (if_neg (Nat.not_lt.2 many))))⟩
  case edid =>
    rintro s dt h n remote raw l good pref b rfl ⟨usable, there⟩ hraw hn hl hg hp
    obtain ⟨c, ends⟩ := edidRead_ends usable there hraw hn hl hg hp
    obtain ⟨pref0Clock, pref0Rate, pref1Clock, pref1Rate⟩ := rd_putPref (h := h) pref c
    refine ⟨putPref h pref c, next_withBlk ends, ?none, ?some⟩
    case none =>
      rintro none_
      rw [none_] at pref0Clock pref0Rate pref1Clock pref1Rate ⊢
      exact ⟨pref0Clock, pref0Rate, pref1Clock, pref1Rate⟩
    case some =>
      rintro t one
      rw [one] at pref0Clock pref0Rate pref1Clock pref1Rate ⊢
      exact ⟨pref0Clock, pref0Rate, pref1Clock, pref1Rate⟩
  case resume =>
    rintro s dt h r n mst n0 id0 n1 id1 drive b c d rfl ⟨enabled, there, down, idle⟩ ⟨stored, same⟩ hc hd
    exact next_withBlk (headResume_stored enabled there down idle stored same hc hd)
  case sent =>
    rintro s dt h n p b c pay rfl ⟨on, runs, owns, single⟩ ⟨hn, more, hp⟩ hc ⟨hpay, up⟩
    exact next_of_pair (congrArg (·, s.store) (txPacket_sent on runs owns single hn more hc hp hpay up))
  case lost =>
    rintro s dt h n b c rfl ⟨on, runs, owns, single⟩ ⟨hn, more⟩ hc
    exact next_of_pair (congrArg (·, s.store) (txPacket_lost on runs owns single hn more hc))

end Sys2Proof.Machine
end

