-- ==== Sys2Proof/Proofs/BringUp.lean ====
section
/-!
O31: lane units: probes, time-outs and back-off, training frames and taps, locks and losses, and the training and checks of display
links (R258, R262, R302 to R314).
-/

namespace Sys2Proof.Machine

section
variable {b : Blk} {u l : Nat}

/-! ### Detection, failures and locks of a unit -/

/-- A unit in DETECT is not started by a probe. -/
theorem detect_not_started (detects : (b.unit u).state = 1) : ¬ ((b.unit u).state = stOff && unitEnabled b u && !departing b) = true := by
  simp [detects]

section
variable (detects : (b.unit u).state = 1) (other : unitKind u ≠ 1)
include detects other

/-- A unit in DETECT that is not a display's is probed. -/
theorem detect_probed : ¬ ((b.unit u).state ≠ stDetect ∨ unitKind u = 1) := by simp [detects, other]

/-- A probe that senses nothing takes back the one before it. -/
theorem detectProbe_none : detectProbe u false b = b.putUnit u { b.unit u with probeAt := none } := by
  simp only [detectProbe, if_neg (detect_not_started detects), if_neg (detect_probed detects other), Bool.not_false, if_true]

/-- The first probe that senses every termination is remembered. -/
theorem detectProbe_first (first : (b.unit u).probeAt = none) :
    detectProbe u true b = b.putUnit u { b.unit u with probeAt := some b.now } := by
  simp only [detectProbe, if_neg (detect_not_started detects), if_neg (detect_probed detects other), Bool.not_true, Bool.false_eq_true,
    if_false, first]

/-- The second, 100 µs later or more, passes DETECT. -/
theorem detectProbe_second {t : Nat} (before : (b.unit u).probeAt = some t) : detectProbe u true b =
    if t + 100000 ≤ b.now then
      if unitKind u = 0 ∧ b.on F.NIF_CFG_AN_EN u = true then unitStep u 5 b else enterTrain u b
    else b := by
  simp only [detectProbe, if_neg (detect_not_started detects), if_neg (detect_probed detects other), Bool.not_true,
    Bool.false_eq_true, if_false, before]
  simp only [Bool.and_eq_true, decide_eq_true_eq]

end

/-- A unit that is not a display's fails DETECT after 1 ms, BLOCK_LOCK after 10 ms and, unless it refuses its partner, CAPS after 50 ms;
OFF, ACTIVE and BACKOFF have no time-out. -/
theorem stepFailure_cases (other : unitKind u ≠ 1) :
    ((b.unit u).state = 1 → stepFailure b u = if (b.unit u).since + 1000000 ≤ b.now then some (1, 1) else none) ∧
    ((b.unit u).state = 4 → stepFailure b u = if (b.unit u).since + 10000000 ≤ b.now then some (4, 1) else none) ∧
    ((b.unit u).state = 5 → ¬ (unitKind u = 2 ∧ b.rd F.CHN_STAT_REFUSED (u - 40) = 1) →
      stepFailure b u = if (b.unit u).since + 50000000 ≤ b.now then some (5, 1) else none) ∧
    ((b.unit u).state = 0 ∨ (b.unit u).state = 6 ∨ (b.unit u).state = 7 → stepFailure b u = none) := by
  refine ⟨fun detect => ?_, fun block => ?_, fun caps accepts => ?_, ?_⟩
  · simp [stepFailure, other, detect]
  · simp [stepFailure, other, block]
  · simp only [stepFailure, if_neg other, caps, if_neg accepts]
    simp
  · rintro (off | active | backoff)
    · simp [stepFailure, off]
    · simp [stepFailure, active]
    · simp [stepFailure, backoff]

/-- The hunt leaves the units. -/
theorem unit_huntLanes (lanes : List Nat) (hunts : List LaneHunt) : (huntLanes lanes hunts b).unit u = b.unit u := by
  refine Blk.unit_congr ?_ u
  unfold huntLanes
  exact forEach_units (by intros; rfl) _ _

/-- Writing a field leaves the units. -/
theorem Blk.unit_wr (b : Blk) (f : Fld) (i v k u : Nat) : (b.wr f i v k).unit u = b.unit u := rfl

/-- The lanes of a Chaino unit that found no lock keep hunting; a skew above 180 ns fails the step; else the port begins its exchange of
capabilities. -/
theorem blockLock_chaino (block : (b.unit u).state = 4) (chaino : unitKind u = 2) (skew delay : Nat) {hunts : List LaneHunt} {c : Blk}
    (hc : c = huntLanes (b.unit u).lanes hunts b) : blockLock u skew delay hunts b =
      if !lanesLocked c (b.unit u).lanes then c
      else if 1800 < skew then unitFail u 4 4 c
      else
        let d := forEach (b.unit u).lanes (fun l x => x.wr F.LANE_STAT_LOGICAL l (x.lane l).line.logical)
          ((c.wr F.CHN_STAT_SKEW (u - 40) skew).wr F.CHN_LAT_RX (u - 40) (960 + delay))
        unitStep u 5 (d.putCport (u - 40) { d.cport (u - 40) with accepted := false, told := [], frame := none, group := none }) := by
  have hunted : c.unit u = b.unit u := by rw [hc, unit_huntLanes]
  have stays : ¬ ((b.unit u).state ≠ stBlock ∨ unitKind u = 1) := by simp [block, chaino]
  have notNetwork : ¬ unitKind u = 0 := by simp [chaino]
  simp only [blockLock, if_neg stays, if_neg notNetwork, ← hc, Blk.unit_wr, hunted]

/-! ### Training -/

/-- A valid training frame of a Chaino lane: its request acts on the taps, and the frames in a row that are ready are counted. -/
theorem trainingFrame_valid {bad control status : Nat} {inverted trained : Bool} {c : Blk} (lane : unitOfLane b l = some u)
    (chaino : unitKind u = 2) (trains : (b.unit u).state = 2) (few : bad ≤ 2) (turned : inverted = true → laneCfg b l 0 = 1)
    (hc : c = tapRequest l control ((b.wr F.LANE_STAT_SIGNAL l 1).put F.LANE_STAT_RX_INV l inverted)) {run : Nat}
    (hr : run = if (bit status 4 && trained) = true then (c.lane l).ready + 1 else 0) :
    trainingFrame l bad inverted control status trained b = (c.putLane l { c.lane l with
      frameAt := c.now
      ready := run
      readyAt := if run = 16 then c.now else (c.lane l).readyAt }).emit
        (.training l 0 ((c.lane l).ansPre + 4 * (c.lane l).ansPost + 16 * b2n trained)) := by
  have valid : (Nat.ble bad 2 && (!inverted || laneCfg b l 0 == 1)) = true := by
    cases inverted <;> simp_all
  have stays : ¬ ((b.unit u).state = stBackoff ∨ (unitKind u = 0 ∧ (b.unit u).state = stCaps)) := by simp [trains, chaino]
  have inTrain : ¬ (b.unit u).state ≠ stTrain := not_not_intro trains
  have kind : (unitKind u == 1) = false := beq_false_of_ne (chaino ▸ by decide)
  simp only [trainingFrame, lane, valid, kind, Bool.not_true, Bool.or_self, Bool.false_eq_true, if_false, if_neg stays, if_neg inTrain,
    if_pos chaino, ← hc, ← hr]

/-- A frame with more than 2 bad marker bits, or inverted where the lane may not turn, is dropped. -/
theorem trainingFrame_invalid {bad : Nat} {inverted : Bool} (control status : Nat) (trained : Bool) (lane : unitOfLane b l = some u)
    (invalid : 2 < bad ∨ (inverted = true ∧ laneCfg b l 0 ≠ 1)) : trainingFrame l bad inverted control status trained b = b := by
  have fails : (Nat.ble bad 2 && (!inverted || laneCfg b l 0 == 1)) = false := by
    rcases invalid with many | ⟨turned, fixed⟩
    · rw [ble_eq_false many, Bool.false_and]
    · rw [turned, beq_false_of_ne fixed]
      exact Bool.and_false _
  simp only [trainingFrame, lane, fails, Bool.not_false, Bool.true_or, if_true]

/-- A tap moves by one between its limits, and answers with its limit where it stands there. -/
theorem tapMove_cases (v top : Nat) : (v < top → tapMove 1 v top = (v + 1, 1)) ∧ (top ≤ v → tapMove 1 v top = (v, 3)) ∧
    (0 < v → tapMove 2 v top = (v - 1, 1)) ∧ (v = 0 → tapMove 2 v top = (v, 2)) ∧ tapMove 0 v top = (v, 0) ∧
    tapMove 3 v top = (v, 0) := by
  refine ⟨fun below => ?_, fun atTop => ?_, fun above => ?_, fun least => ?_, rfl, rfl⟩
  · exact if_pos below
  · exact if_neg (Nat.not_lt.2 atTop)
  · exact if_pos above
  · exact if_neg (Nat.not_lt.2 (Nat.le_of_eq least))

/-- A Chaino lane with sixteen ready frames in a row is done after their time; with its last lane the unit passes TRAIN. -/
theorem trainingComplete_due {c : Blk} (lane : unitOfLane b l = some u) (chaino : unitKind u = 2) (trains : (b.unit u).state = 2)
    (open_ : (b.lane l).done = false) (ready : 16 ≤ (b.lane l).ready) (due : (b.lane l).readyAt + 19738 ≤ b.now)
    (hc : c = b.putLane l { b.lane l with done := true, tx := {} }) : trainingComplete l b =
      if (c.unit u).lanes.all (fun k => (c.lane k).done) = true then unitStep u 3 c else c := by
  have readyB : Nat.ble 16 (b.lane l).ready = true := Nat.ble_eq.mpr ready
  have dueB : Nat.ble ((b.lane l).readyAt + 19738) b.now = true := Nat.ble_eq.mpr due
  simp only [trainingComplete, lane, chaino, trains, open_, readyB, dueB, beq_self_eq_true, Bool.not_false, Bool.and_self, Bool.or_true,
    Bool.not_true, Bool.false_eq_true, if_false, ← hc]

/-! ### Losses -/

/-- The signal of a lane of an ACTIVE unit is lost: the unit goes down, with its partner's departure as the cause where it was
announced. -/
theorem signalLoss_active {c : Blk} (obs : List LineObs) (lane : unitOfLane b l = some u) (active : (b.unit u).state = 6)
    (hc : c = b.wr F.LANE_STAT_SIGNAL l 0) : signalLoss l 1 obs b =
      unitDown u (if unitKind u = 2 ∧ c.on F.CHN_STAT_PEER_EJECTING (u - 40) = true then 5 else 1) c := by
  have still : (c.unit u).state = stActive := hc ▸ active
  simp only [signalLoss, lane, if_true, ← hc, if_pos still]

/-- A Chaino lane of an ACTIVE unit that loses its block lock takes the unit down. -/
theorem lockLoss_active {c : Blk} {obs : List LineObs} (lane : unitOfLane b l = some u) (active : (b.unit u).state = 6)
    (chaino : unitKind u = 2) (hc : c = b.putLane l { b.lane l with line := lineRun (b.lane l).line obs }) :
    signalLoss l 2 obs b = if lockLost u l c then unitDown u 2 c else c := by
  have still : (c.unit u).state = stActive := hc ▸ active
  simp only [signalLoss, lane, chaino, OfNat.ofNat_ne_one, if_true, if_false, ← hc, if_pos still]

/-- The signal lost in BIT_LOCK begins its time. -/
theorem signalLoss_bit {c : Blk} (obs : List LineObs) (lane : unitOfLane b l = some u) (bitLock : (b.unit u).state = 3)
    (first : (b.unit u).lostAt = none) (hc : c = b.wr F.LANE_STAT_SIGNAL l 0) :
    signalLoss l 1 obs b = c.putUnit u { c.unit u with lostAt := some c.now } := by
  have unit : c.unit u = b.unit u := by rw [hc]; rfl
  have inactive : ¬ (c.unit u).state = stActive := by rw [unit, bitLock]; decide
  have begins : (c.unit u).state = stBit ∧ True ∧ (c.unit u).lostAt = none := ⟨unit ▸ bitLock, trivial, unit ▸ first⟩
  simp only [signalLoss, lane, if_true, ← hc, if_neg inactive, if_pos begins]

/-- An ACTIVE unit of a module that does not depart goes down to DETECT. -/
theorem unitDown_detects (active : (b.unit u).state = 6) (stays : departing b = false) (q : Nat) :
    unitDown u q b = enterDetect u (leaveActive u q b) := by
  have up : ¬ (b.unit u).state ≠ stActive := not_not_intro active
  simp only [unitDown, if_neg up, stays, Bool.false_eq_true, if_false]

end

/-! ### Training and checks of display links -/

section
variable {b : Blk} {h r : Nat}

/-- LINK_TRAINING ends an attempt under way, with success or without. -/
theorem linkTraining_ends (enabled : unitEnabled b (headUnit h) = true) (tries : (b.head h).try_ = some r)
    (topo : List (List (Nat × Nat × Nat))) (drive : List Nat) :
    linkTraining h 1 topo drive b = trainOk h r topo drive b ∧ linkTraining h 2 topo drive b = trainBad h r b := by
  simp only [linkTraining, enabled, tries, Bool.not_true, Bool.false_eq_true, if_false, and_self]

/-- A failed attempt is followed by the next lower rate; after the last the unit backs off. -/
theorem trainBad_lower {c : Blk} (hc : c = b.putHead h { b.head h with try_ := none }) (training : (b.head h).checking = false)
    (usable : auxUsable c h = true) :
    (∀ q t, (ratesToTry c h).filter (fun k => Nat.blt k r) = q :: t → trainBad h r b = tryRate h q c) ∧
      ((ratesToTry c h).filter (fun k => Nat.blt k r) = [] → trainBad h r b = ohdEvent h 0x106 sevWarning 0 (evB 1)
        (unitFail (headUnit h) 2 1 ((c.wr F.OHD_STAT_LINK h 4).wr F.OHD_STAT_RATE_ACT h 0))) := by
  simp only [trainBad, ← hc, usable]
  refine ⟨fun q t more => ?_, fun last => ?_⟩
  · simp only [training, more, Bool.not_true, Bool.false_eq_true, if_false]
  · simp only [training, last, Bool.not_true, Bool.false_eq_true, if_false]

/-- An attempt that lasts 100 ms has failed. -/
theorem attemptTimeout_due (tries : (b.head h).try_ = some r) (due : (b.head h).tryAt + 100000000 ≤ b.now) :
    attemptTimeout h b = trainBad h r b := by
  simp only [attemptTimeout, tries, if_pos due]

section
variable {t : Nat} {status : List Nat} {e : Blk} (checks : (b.head h).checkAt = some t) (due : t ≤ b.now)
  (he : e = b.emit (.aux h false 0x202 false [0, 0, 0]))
include checks due he

/-- A link check with every lane locked is passed. -/
theorem linkCheck_passed (good : statusGood (linkLanes e h) status = true) : linkCheck h status b = checkResult h 1 e := by
  simp only [linkCheck, checks, if_neg (Nat.not_lt.2 due), ← he, good, if_true]

/-- A link check that fails makes one attempt at the highest common rate. -/
theorem linkCheck_failed {c : Blk} {q : Nat} {rates : List Nat}
    (hc : c = e.putHead h { b.head h with checkAt := none, checking := true }) (bad : statusGood (linkLanes e h) status = false)
    (hr : ratesToTry c h = q :: rates) : linkCheck h status b = tryRate h q (leaveActive (headUnit h) 2 c) := by
  simp only [linkCheck, checks, if_neg (Nat.not_lt.2 due), ← he, bad, Bool.false_eq_true, if_false, ← hc, hr]

end

end

/-- Settles O31, from what a unit's steps, its training, its losses and a link's checks do; the back-off is `unit_unitFail`. -/
theorem bringUpCommands : Obligations.BringUpCommands := by
  unfold Obligations.BringUpCommands
  refine ⟨?probe, fun b u other => stepFailure_cases other, ?timeout, ?backsOff, ?expiry, ?frame, ?frameInvalid, fun v top =>
    tapMove_cases v top, ?complete, ?bitLock, ?blockLock, ?network, ?signal, ?lock, ?signalInBit, ?hold, ?training,
    fun h r q t b c hc ⟨training, usable⟩ => ⟨(trainBad_lower hc training usable).1 q t, (trainBad_lower hc training usable).2⟩, ?attempt,
    ?passed, ?failed⟩
  case probe =>
    rintro s dt u sensed b rfl ⟨detects, other⟩
    refine ⟨fun no => ?_, fun yes first => ?_, fun t yes before early => ?_, fun t yes before late => ?_⟩
    · exact next_withBlk (no ▸ detectProbe_none detects other)
    · exact next_withBlk (yes ▸ detectProbe_first detects other first)
    · exact next_withBlk (yes ▸ (detectProbe_second detects other before).trans (if_neg (Nat.not_le.2 early)))
    · exact next_withBlk (yes ▸ (detectProbe_second detects other before).trans (if_pos late))
  case timeout =>
    rintro s dt u b hb
    refine ⟨fun st c fails => ?_, fun none_ => ?_⟩
    · change execBringupTimeout dt u s = _
      rw [execBringupTimeout, eff_next, set_blk, ← hb]
      simp only [fails]
    · change execBringupTimeout dt u s = _
      rw [execBringupTimeout, eff_next, set_blk, ← hb]
      simp only [none_]
  case backsOff =>
    intro u st c b
    rw [unit_unitFail, min_64_two_pow_min_6]
    exact ⟨rfl, rfl, rfl⟩
  case expiry =>
    rintro s dt u b hb waits
    change execBackoffExpiry dt u s = _
    rw [execBackoffExpiry, eff_next, set_blk, ← hb]
    simp only [if_pos waits]
  case frame =>
    rintro s dt l u bad control status inverted trained b c rfl ⟨lane, chaino, trains⟩ ⟨few, turned⟩ hc
    exact next_withBlk (trainingFrame_valid lane chaino trains few turned hc rfl)
  case frameInvalid =>
    rintro s dt l u bad control status inverted trained b rfl lane invalid
    exact next_withBlk (trainingFrame_invalid control status trained lane invalid)
  case complete =>
    rintro s dt l u b c rfl ⟨lane, chaino, trains⟩ ⟨open_, ready, due⟩ hc
    exact next_withBlk (trainingComplete_due lane chaino trains open_ ready due hc)
  case bitLock =>
    rintro s dt u b hb locks
    change execBitLock dt u s = _
    rw [execBitLock, eff_next, set_blk, ← hb]
    simp only [if_pos locks]
  case blockLock =>
    rintro s dt u skew delay hunts b c rfl ⟨block, chaino⟩ hc
    have lock := blockLock_chaino block chaino skew delay hc
    have lanes : (c.unit u).lanes = ((s.blk.tick dt).unit u).lanes := by rw [hc, unit_huntLanes]
    refine ⟨fun open_ => ?_, fun locked wide => ?_, fun locked narrow => ⟨_, rfl, ?_⟩⟩
    · exact next_withBlk (lock.trans (by rw [open_]; rfl))
    · exact next_withBlk (lock.trans (by rw [locked]; exact if_pos wide))
    · rw [lanes]
      exact next_withBlk (lock.trans (by rw [locked]; exact if_neg (Nat.not_lt.2 narrow)))
  case network =>
    rintro s dt u skew delay hunts b rfl ⟨block, network, narrow⟩
    refine next_withBlk ?_
    have stays : ¬ ((((s.blk.tick dt).unit u).state ≠ stBlock) ∨ unitKind u = 1) := by rw [block, network]; decide
    rw [blockLock, if_neg stays, if_pos network, if_neg (Nat.not_lt.2 narrow)]
  case signal =>
    rintro s dt l u obs b c rfl ⟨lane, active⟩ hc
    have still : (c.unit u).state = 6 := by rw [hc]; exact active
    exact ⟨next_withBlk (signalLoss_active obs lane active hc), fun stays q => unitDown_detects still stays q⟩
  case lock =>
    rintro s dt l u obs b c rfl ⟨lane, active, chaino⟩ hc
    exact next_withBlk (lockLoss_active lane active chaino hc)
  case signalInBit =>
    rintro s dt l u obs b c rfl ⟨lane, bitLock, first⟩ hc
    exact next_withBlk (signalLoss_bit obs lane bitLock first hc)
  case hold =>
    rintro s dt u b rfl held
    exact exec_activeHold held
  case training =>
    rintro s dt h r topo drive b rfl ⟨enabled, tries⟩
    obtain ⟨done, failed⟩ := linkTraining_ends enabled tries topo drive
    exact ⟨next_withBlk (congrArg (headOutcome h _) done), next_withBlk (congrArg (headOutcome h _) failed)⟩
  case attempt =>
    rintro s dt h r b rfl ⟨tries, due⟩
    exact next_withBlk (congrArg (headOutcome h _) (attemptTimeout_due tries due))
  case passed =>
    rintro s dt h t status b c rfl ⟨checks, due⟩ hc good
    exact next_withBlk (congrArg (headOutcome h _) (linkCheck_passed checks due hc good))
  case failed =>
    rintro s dt h t q l status b c rfl ⟨checks, due⟩ hc bad hr
    exact next_withBlk (congrArg (headOutcome h _) (linkCheck_failed checks due rfl hc bad hr))

end Sys2Proof.Machine
end

