-- ==== Sys2Proof/Proofs/Chaino.lean ====
section
/-!
O32: Chaino frames, capability frames and departures, eye scans and margins, and frames relayed on the ring (R306, R310 to R325, R373 to
R375).
-/

namespace Sys2Proof.Machine

/-- A Chaino port reads as it was put. -/
theorem cport_putCport (b : Blk) (p : Nat) (x : ChnSt) : (b.putCport p x).cport p = x := by
  simp only [Blk.cport, Blk.putCport, mgetD_mset, if_true]

/-- A lane reads as it was put. -/
theorem lane_putLane (b : Blk) (l : Nat) (x : LaneSt) : (b.putLane l x).lane l = x := by
  simp only [Blk.lane, Blk.putLane, mgetD_mset, if_true]

/-- Changing a lane's own state leaves its registers. -/
theorem rd_putLane (b : Blk) (l : Nat) (x : LaneSt) (f : Fld) (i k : Nat) : (b.putLane l x).rd f i k = b.rd f i k := rfl

section
variable {b : Blk} {p : Nat}

/-! ### Capability frames -/

/-- A port in CAPS or ACTIVE whose time has come sends its capability frame, and keeps what it sends. -/
theorem capFrameSend_due (step : (b.unit (chnUnit p)).state = 5 ∨ (b.unit (chnUnit p)).state = 6) {gap : Nat}
    (hg : gap = if (b.unit (chnUnit p)).state = 5 then 10000 else b.rd F.CHN_CFG_CAP_PERIOD p * 100000) {c d : Blk}
    (hc : c = chnReport p b) (due : (c.cport p).capAt = 0 ∨ (c.cport p).capAt + gap ≤ c.now)
    (hd : d = (capWords c p).zipIdx.foldl (fun x e => x.wr F.CHN_OWN_WORD p e.1 e.2) c) :
    capFrameSend p b = chnSend p 0 (capWords c p) (d.putCport p { d.cport p with capAt := d.now }) := by
  simp only [capFrameSend, ← hg, ← hc, if_pos (And.intro step due), ← hd]

/-- A frame that is sent is told and counted, and its channel's sequence number goes up. -/
theorem chnSend_counts (p c : Nat) (words : List Nat) (b : Blk) :
    ∃ d, chnSend p c words b = sendBlocks p (frameBlocks c (mgetD (b.cport p).seq c 0) (wordBlocks words)) d ∧
      d.out = b.out ++ [.chaino p c words] ∧
      d.rd F.CHN_FRAMES_TX_COUNT p = satAdd (b.rd F.CHN_FRAMES_TX_COUNT p) 1 (2 ^ 32 - 1) % 2 ^ 32 ∧
      mget (d.cport p).seq c = some ((mgetD (b.cport p).seq c 0 + 1) % 65536) := by
  refine ⟨_, rfl, rfl, Blk.rd_wr_same .., ?_⟩
  have entry (e : Emit) (x : ChnSt) (f : Fld) : (((b.putCport p x).emit e).bump f p).cport p = x := cport_putCport b p x
  rw [entry, mget_mset, if_pos rfl]

section
variable {w : List Nat}

/-- A capability frame of wrong length or with a wrong check value is discarded. -/
theorem capabilityFrame_corrupt (step : (b.unit (chnUnit p)).state = 5 ∨ (b.unit (chnUnit p)).state = 6)
    (corrupt : w.length ≠ 16 ∨ w.getD 15 0 ≠ crc32c ((w.take 15).flatMap (leBytes 4))) :
    capabilityFrame p w b = chnDiscard p 1 b := by
  have heard : ¬ ((b.unit (chnUnit p)).state ≠ stCaps ∧ (b.unit (chnUnit p)).state ≠ stActive) := fun ⟨notCaps, notActive⟩ =>
    step.elim notCaps notActive
  simp only [capabilityFrame, if_neg heard, if_pos corrupt]

variable (whole : w.length = 16 ∧ w.getD 15 0 = crc32c ((w.take 15).flatMap (leBytes 4)))
include whole

/-- A whole frame is not discarded. -/
theorem capFrame_whole : ¬ (w.length ≠ 16 ∨ w.getD 15 0 ≠ crc32c ((w.take 15).flatMap (leBytes 4))) := fun corrupt =>
  corrupt.elim (· whole.1) (· whole.2)

/-- In CAPS a frame with a fault is refused, with its cause; each cause is told once. -/
theorem capabilityFrame_refused (caps : (b.unit (chnUnit p)).state = 5) {why : Nat}
    (hw : why = capCause (b.bump F.CHN_FRAMES_RX_COUNT p) p w) (fault : why ≠ 0) {c : Blk}
    (hc : c = ((b.bump F.CHN_FRAMES_RX_COUNT p).wr F.CHN_STAT_REFUSED p 1).wr F.CHN_STAT_CAUSE p why) : capabilityFrame p w b =
      if (c.cport p).told.contains why then c
      else raise (chnPage p) 0x102 sevWarning (why % 2 ^ 20 + 2 ^ 20 * p) (evB 2)
        (c.putCport p { c.cport p with told := why :: (c.cport p).told }) := by
  have heard : ¬ ((b.unit (chnUnit p)).state ≠ stCaps ∧ (b.unit (chnUnit p)).state ≠ stActive) := fun none_ => none_.1 caps
  have inactive : ¬ (b.unit (chnUnit p)).state = stActive := by rw [caps]; decide
  simp only [capabilityFrame, if_neg heard, if_neg (capFrame_whole whole), if_neg inactive, ← hw, if_pos fault, ← hc, chnEvent]

/-- In CAPS a frame without a fault is kept and accepted; one that accepts the module's own brings the port up. -/
theorem capabilityFrame_accepted (caps : (b.unit (chnUnit p)).state = 5) (sound : capCause (b.bump F.CHN_FRAMES_RX_COUNT p) p w = 0)
    {c d : Blk} (hc : c = capKeep p w (((b.bump F.CHN_FRAMES_RX_COUNT p).wr F.CHN_STAT_REFUSED p 0).wr F.CHN_STAT_CAUSE p 0))
    (hd : d = c.putCport p { c.cport p with accepted := true }) : capabilityFrame p w b =
      if (bit (w.getD 7 0) 8 && w.getD 8 0 == d.rd F.SYS_SERIAL_LO_SERIAL 0 && w.getD 9 0 == d.rd F.SYS_SERIAL_HI_SERIAL 0) = true then
        raise (chnPage p) 0x100 sevNotice (bits (w.getD 4 0) 0 2 % 2 ^ 20 + 2 ^ 20 * p) (evB 0)
          ((unitActive (chnUnit p) d).wr F.CHN_STAT_PEER_EJECTING p 0)
      else d := by
  have heard : ¬ ((b.unit (chnUnit p)).state ≠ stCaps ∧ (b.unit (chnUnit p)).state ≠ stActive) := fun none_ => none_.1 caps
  have inactive : ¬ (b.unit (chnUnit p)).state = stActive := by rw [caps]; decide
  simp only [capabilityFrame, if_neg heard, if_neg (capFrame_whole whole), if_neg inactive, if_neg (not_not_intro sound), ← hc, ← hd,
    chnEvent]

/-- On an ACTIVE port a frame of the same partner is kept; another takes the port down. -/
theorem capabilityFrame_active (active : (b.unit (chnUnit p)).state = 6) {c : Blk} (hc : c = b.bump F.CHN_FRAMES_RX_COUNT p) :
    capabilityFrame p w b = if capIdentity ((List.range 16).map fun k => c.rd F.CHN_PEER_WORD p k) = capIdentity w then capKeep p w c
      else unitDown (chnUnit p) 7 c := by
  have heard : ¬ ((b.unit (chnUnit p)).state ≠ stCaps ∧ (b.unit (chnUnit p)).state ≠ stActive) := fun none_ => none_.2 active
  simp only [capabilityFrame, if_neg heard, if_neg (capFrame_whole whole), if_pos active, ← hc]

end

/-- A GOODBYE on a port that is up is told and counted. -/
theorem goodbyeRx_up (up : chnUp b p = true) : goodbyeRx p b = raise (chnPage p) 0x104 sevNotice (2 ^ 20 * p) (evB 3)
    ((b.wr F.CHN_STAT_PEER_EJECTING p 1).bump F.CHN_EXPRESS_RX_COUNT p) := by
  simp only [goodbyeRx, up, if_true, chnEvent, Nat.zero_mod, Nat.zero_add]

/-! ### Codewords, frames and groups -/

/-- Codewords reach a port in CAPS or ACTIVE alone: its lanes take them, and its rows of blocks are taken in order. -/
theorem portRx_eq (cws : List (List (List Nat))) {d : Blk} (hd : d = chnReport p b) :
    (¬ ((d.unit (chnUnit p)).state = 5 ∨ (d.unit (chnUnit p)).state = 6) → portRx p cws b = d) ∧
      ((d.unit (chnUnit p)).state = 5 ∨ (d.unit (chnUnit p)).state = 6 → portRx p cws b =
        takeRows p (((laneCodewords p cws d).lane (logicalLane (laneCodewords p cws d) p 0)).line.queue.length)
          (laneCodewords p cws d)) := by
  simp only [portRx, ← hd, ← not_or]
  exact ⟨fun deaf => if_pos deaf, fun hears => if_neg (not_not_intro hears)⟩

section
variable {v : Nat} {marked : Bool} {f : RxUnit} {d : Blk} (ends : v % 256 = 0x87) (alone : (b.cport p).group = none)
  (open_ : (b.cport p).frame = some f) (hd : d = b.putCport p { b.cport p with frame := none })
include ends alone open_ hd

/-- The block that ends a frame discards it where a block of it was marked, or its length, channel or size is wrong. -/
theorem controlBlock_end : controlBlock p v marked b =
    if f.bad || marked then chnDiscard p 1 d
    else if f.data.length ≠ f.len ∨ bits v 8 8 ≠ f.chan ∨ f.len = 0 ∨ 1024 < f.len then chnDiscard p 2 d
    else frameWhole p f (bits v 16 32) d := by
  have uncut : groupCut p b = b := by simp only [groupCut, alone]
  simp only [controlBlock, uncut, ends, open_, ← hd]

end

section
variable {f : RxUnit} {crc : Nat}

/-- A frame with a wrong check value is discarded. -/
theorem frameWhole_corrupt (wrong : crc ≠ crc32c (dataBytes f.data)) : frameWhole p f crc b = chnDiscard p 1 b :=
  if_pos (Or.inr wrong)

variable (sound : f.bad = false) (right : crc = crc32c (dataBytes f.data))
include sound right

/-- A sound frame on a channel that the port does not carry is discarded. -/
theorem frameWhole_foreign (foreign : chnCarries p f.chan = false) : frameWhole p f crc b = chnDiscard p 3 b := by
  simp only [frameWhole, sound, right, foreign, Bool.false_eq_true, ne_eq, not_true, or_self, Bool.not_false, if_true, if_false]

/-- A sound frame of eight blocks on channel 0 is a capability frame. -/
theorem frameWhole_capability (carried : chnCarries p f.chan = true) (control : f.chan = 0) (size : f.len = 8) :
    frameWhole p f crc b = capabilityFrame p (blockWords f.data) b := by
  rw [control] at carried
  simp only [frameWhole, sound, right, carried, control, size, Bool.false_eq_true, ne_eq, not_true, or_self, Bool.not_true, and_self,
    if_true, if_false]

/-- Another sound frame is counted. -/
theorem frameWhole_other (carried : chnCarries p f.chan = true) (other : f.chan ≠ 0 ∨ f.len ≠ 8) :
    frameWhole p f crc b = b.bump F.CHN_FRAMES_RX_COUNT p := by
  have notCaps : ¬ (f.chan = 0 ∧ f.len = 8) := fun ⟨control, size⟩ => other.elim (· control) (· size)
  simp only [frameWhole, sound, right, carried, if_neg notCaps, Bool.false_eq_true, ne_eq, not_true, or_self, Bool.not_true, if_false]

end

section
variable {g : RxUnit} (sound : g.bad = false) (right : g.crc = crc32c (g.chan :: dataBytes g.data))
include sound right

/-- A sound group on a channel that the port does not carry is discarded. -/
theorem groupWhole_foreign (foreign : chnCarries p g.chan = false) : groupWhole p g b = chnDiscard p 3 b := by
  have intact : ¬ (g.bad = true ∨ g.crc ≠ crc32c (g.chan :: dataBytes g.data)) := by simp [sound, ← right]
  simp only [groupWhole, if_neg intact, foreign, Bool.not_false, if_true]

/-- A sound empty group on channel 0 of a port that is up is a GOODBYE. -/
theorem groupWhole_goodbye (control : g.chan = 0) (empty : g.len = 0) (up : chnUp b p = true) : groupWhole p g b = goodbyeRx p b := by
  have intact : ¬ (g.bad = true ∨ g.crc ≠ crc32c (g.chan :: dataBytes g.data)) := by simp [sound, ← right]
  have carried : chnCarries p g.chan = true := by
    rw [control, chnCarries]
    split <;> rfl
  simp only [groupWhole, if_neg intact, carried, Bool.not_true, Bool.false_eq_true, if_false]
  exact if_pos ⟨control, empty, up⟩

/-- Another sound group is counted. -/
theorem groupWhole_other (carried : chnCarries p g.chan = true) (other : ¬ (g.chan = 0 ∧ g.len = 0 ∧ chnUp b p = true)) :
    groupWhole p g b = b.bump F.CHN_EXPRESS_RX_COUNT p := by
  have intact : ¬ (g.bad = true ∨ g.crc ≠ crc32c (g.chan :: dataBytes g.data)) := by simp [sound, ← right]
  simp only [groupWhole, if_neg intact, carried, Bool.not_true, Bool.false_eq_true, if_false]
  exact if_neg other

end

end

/-! ### Eye scans and margins -/

section
variable {b : Blk} {l : Nat}

/-- A point of a scan whose time has passed is stored; the last ends the scan with its event. -/
theorem eyePointDone_due {errs e : Nat} {q : List Nat} {c : Blk} (scans : (b.lane l).scan = some q)
    (due : (b.lane l).pointAt + pointNs (laneNrz b l) (q.getD 2 5) ≤ b.now)
    (he : e = (b.lane l).scanDone / q.getD 0 1 * 32 + (b.lane l).scanDone % q.getD 0 1)
    (hc : c = (b.wr (if e % 2 = 0 then F.LANE_EYE_RES_LO else F.LANE_EYE_RES_HI) l (Nat.min 4095 errs) (e / 2)).wr F.LANE_EYE_STAT_POINTS l
      ((b.lane l).scanDone + 1)) : eyePointDone l errs b =
      if (b.lane l).scanDone + 1 = q.getD 0 1 * q.getD 1 1 then
        raise (lanePage l) 0x104 sevInfo (2 ^ 15 * l) (evB 3)
          (((c.putLane l { b.lane l with scan := none, scanDone := (b.lane l).scanDone + 1 }).wr F.LANE_EYE_STAT_BUSY l 0).wr
            F.LANE_EYE_STAT_DONE l 1)
      else c.putLane l { b.lane l with scanDone := (b.lane l).scanDone + 1, pointAt := c.now } := by
  simp only [eyePointDone, scans, if_neg (Nat.not_lt.2 due), ← he, ← hc, laneEvent, Nat.zero_mod, Nat.zero_add]

/-- The margins of a lane's first quick scan, as its last ones, its baselines and its least values. -/
def putMargins (l w h : Nat) (b : Blk) : Blk :=
  (((((b.wr F.LANE_MARGIN_WIDTH l w).wr F.LANE_MARGIN_HEIGHT l h).wr F.LANE_MARGIN_BASE_WIDTH l w).wr F.LANE_MARGIN_BASE_HEIGHT l h).wr
    F.LANE_MARGIN_MIN_WIDTH l w).wr F.LANE_MARGIN_MIN_HEIGHT l h

/-- What the first quick scan of a lane leaves. -/
def firstMargins (l w h : Nat) (b : Blk) : Blk :=
  (putMargins l w h b).putLane l { b.lane l with
    quickAt := (putMargins l w h b).now
    based := true
    rebase := false
    quickTemp := laneTemp (putMargins l w h b) l
    extraAt := if extraDue (putMargins l w h b) l then (putMargins l w h b).now else (b.lane l).extraAt }

/-- The first quick scan of a lane, of an eye that is not low, ends with a held scan where there is one. -/
theorem quickScan_baseline {w h : Nat} {ph vo : List Nat} {c d : Blk} (due : quickDue b l = true)
    (idle : b.on F.LANE_EYE_STAT_BUSY l = false) (unbased : (b.lane l).based = false) (hw : w = zeroSpan ph) (hh : h = 2 * zeroSpan vo)
    (hc : c = (((((b.wr F.LANE_MARGIN_WIDTH l w).wr F.LANE_MARGIN_HEIGHT l h).wr F.LANE_MARGIN_BASE_WIDTH l w).wr
      F.LANE_MARGIN_BASE_HEIGHT l h).wr F.LANE_MARGIN_MIN_WIDTH l w).wr F.LANE_MARGIN_MIN_HEIGHT l h)
    (hd : d = c.putLane l { b.lane l with
      quickAt := c.now
      based := true
      rebase := false
      quickTemp := laneTemp c l
      extraAt := if extraDue c l then c.now else (b.lane l).extraAt })
    (open_ : ¬ (w * 100 < d.rd F.LANE_MARGIN_CFG_LIMIT_PCT l * d.rd F.LANE_MARGIN_BASE_WIDTH l ∨
      h * 100 < d.rd F.LANE_MARGIN_CFG_LIMIT_PCT l * d.rd F.LANE_MARGIN_BASE_HEIGHT l ∨ w < 8 ∨ h < 12)) :
    quickScan l ph vo b = if (d.lane l).queued then scanBegin l d else d := by
  simp only [quickScan, due, idle, unbased, ← hw, ← hh, Bool.not_true, Bool.not_false, Bool.or_self, Bool.true_or, Bool.false_eq_true,
    if_true, if_false, ← hc, ← hd, if_neg open_]

section
variable {w h : Nat} (wide : w < 128) (high : h < 512)
include wide high

/-- The margins read as the first scan measured them. -/
theorem rd_firstMargins (b : Blk) : (firstMargins l w h b).rd F.LANE_MARGIN_WIDTH l = w ∧
    (firstMargins l w h b).rd F.LANE_MARGIN_HEIGHT l = h ∧ (firstMargins l w h b).rd F.LANE_MARGIN_BASE_WIDTH l = w ∧
    (firstMargins l w h b).rd F.LANE_MARGIN_BASE_HEIGHT l = h ∧ (firstMargins l w h b).rd F.LANE_MARGIN_MIN_WIDTH l = w ∧
    (firstMargins l w h b).rd F.LANE_MARGIN_MIN_HEIGHT l = h := by
  simp (disch := decide) only [firstMargins, putMargins, rd_putLane, Blk.rd_wr_page, Blk.rd_wr_same]
  have width : w % 2 ^ 7 = w := Nat.mod_eq_of_lt wide
  have height : h % 2 ^ 9 = h := Nat.mod_eq_of_lt high
  exact ⟨width, height, width, height, width, height⟩

/-- The first quick scan of a lane with an open eye sets the baselines and tells nothing. -/
theorem quickScan_first {ph vo : List Nat} (due : quickDue b l = true) (idle : b.on F.LANE_EYE_STAT_BUSY l = false)
    (unbased : (b.lane l).based = false) (alone : (b.lane l).queued = false) (hw : w = zeroSpan ph) (hh : h = 2 * zeroSpan vo)
    (wideEnough : 8 ≤ w) (highEnough : 12 ≤ h) (limit : b.rd F.LANE_MARGIN_CFG_LIMIT_PCT l ≤ 100) :
    quickScan l ph vo b = firstMargins l w h b := by
  obtain ⟨-, -, baseWidth, baseHeight, -, -⟩ := rd_firstMargins (l := l) wide high b
  have pct : (firstMargins l w h b).rd F.LANE_MARGIN_CFG_LIMIT_PCT l = b.rd F.LANE_MARGIN_CFG_LIMIT_PCT l := by
    simp (disch := decide) only [firstMargins, putMargins, rd_putLane, Blk.rd_wr_page]
  have open_ : ¬ (w * 100 < (firstMargins l w h b).rd F.LANE_MARGIN_CFG_LIMIT_PCT l * (firstMargins l w h b).rd F.LANE_MARGIN_BASE_WIDTH l ∨
      h * 100 < (firstMargins l w h b).rd F.LANE_MARGIN_CFG_LIMIT_PCT l * (firstMargins l w h b).rd F.LANE_MARGIN_BASE_HEIGHT l ∨ w < 8 ∨
      h < 12) := by
    rw [pct, baseWidth, baseHeight]
    have widthHolds := Nat.mul_le_mul_right w limit
    have heightHolds := Nat.mul_le_mul_right h limit
    omega
  have unheld : ((firstMargins l w h b).lane l).queued = false := (congrArg LaneSt.queued (lane_putLane ..)).trans alone
  have scanned : quickScan l ph vo b = if ((firstMargins l w h b).lane l).queued then scanBegin l (firstMargins l w h b)
      else firstMargins l w h b := quickScan_baseline due idle unbased hw hh rfl rfl open_
  rw [scanned, unheld]
  exact if_neg Bool.false_ne_true

end

end

/-! ### Frames relayed on the ring -/

section
variable {b c : Blk} {m : FrameStore} {p : Nat} {f : RelayFrame} (member : ensState b = esMember) (ring : p = 1 ∨ p = 2)
include member ring

/-- A member sends a relay frame on to the subscribers beyond, and takes one that it subscribes to: pixels into the frame store. -/
theorem relayFrameRx_pixels (hc : c = forEach (relayOnward b p (f.layer % 4096)) (fun q b =>
      chnSend q 6 (relayHeader (f.layer % 4096) f.buf f.kind f.offset ++ byteWords f.bytes ++ []) b) b)
    (subscribes : c.ens.subs.contains (f.layer % 4096) = true) (pixels : f.kind = 0) (none_ : f.ev = none) :
    relayFrameRx p f false b m = relayData (f.layer % 4096) f.offset f.bytes c m := by
  have comes : ¬ (ensState b ≠ esMember ∨ (!(p = 1 ∨ p = 2 ∨ p = 3 ∧ (b.ens.junction = 1 ∨ b.ens.junction = 2))) = true) := by
    rcases ring with one | two
    · simp [member, one]
    · simp [member, two]
  simp only [relayFrameRx, if_neg comes, none_, Bool.false_eq_true, if_false, ← hc, subscribes, Bool.not_true]
  simp only [pixels]

/-- The evidence of a relayed frame is taken alike. -/
theorem relayFrameRx_evidence {e : RelayEv} (hc : c = forEach (relayOnward b p (f.layer % 4096)) (fun q b =>
      chnSend q 6 (relayHeader (f.layer % 4096) f.buf f.kind f.offset ++ byteWords f.bytes ++ evidenceWords e) b) b)
    (subscribes : c.ens.subs.contains (f.layer % 4096) = true) (evidence : f.kind = 1) (some_ : f.ev = some e) :
    relayFrameRx p f false b m = (relayEvidence (f.layer % 4096) e c, m) := by
  have comes : ¬ (ensState b ≠ esMember ∨ (!(p = 1 ∨ p = 2 ∨ p = 3 ∧ (b.ens.junction = 1 ∨ b.ens.junction = 2))) = true) := by
    rcases ring with one | two
    · simp [member, one]
    · simp [member, two]
  simp only [relayFrameRx, if_neg comes, some_, Bool.false_eq_true, if_false, ← hc, subscribes, Bool.not_true]
  simp only [evidence]

end

/-- A relay frame's effect, with what became eligible announced. -/
theorem exec_relayFrameRx (dt p : Nat) (f : RelayFrame) (bad : Bool) (s : State) : exec (.relayFrameRx dt p f bad) s =
    .next (s.withBoth (announce (s.blk.tick dt) (relayFrameRx p f bad (s.blk.tick dt) s.store).1
      (relayFrameRx p f bad (s.blk.tick dt) s.store).2) (relayFrameRx p f bad (s.blk.tick dt) s.store).2) := rfl

/-- Settles O32, from what a port sends and takes, what ends a frame or a group, and what a lane's scans leave. -/
theorem chainoAndMarginCommands : Obligations.ChainoAndMarginCommands := by
  unfold Obligations.ChainoAndMarginCommands
  refine ⟨?send, fun p c words b => chnSend_counts p c words b, ?corrupt, ?refused, ?accepted, ?active, ?goodbye, ?frameRx, ?frameEnded,
    ?groupRx, ?groupEnded, ?eyePoint, ?quick, ?hour, ?pixels, ?evidence⟩
  case send =>
    rintro s dt p gap b c rfl step hg hc due
    exact next_withBlk (capFrameSend_due step hg hc due rfl)
  case corrupt =>
    rintro s dt p w b rfl step corrupt
    exact next_withBlk (capabilityFrame_corrupt step corrupt)
  case refused =>
    rintro s dt p why w b c rfl caps whole ⟨hw, fault⟩ hc
    exact next_withBlk (capabilityFrame_refused whole caps hw fault hc)
  case accepted =>
    rintro s dt p w b c d rfl caps whole sound hc hd
    exact next_withBlk (capabilityFrame_accepted whole caps sound hc hd)
  case active =>
    rintro s dt p w b c rfl active whole hc
    exact next_withBlk (capabilityFrame_active whole active hc)
  case goodbye =>
    rintro s dt p b rfl up
    exact next_withBlk (congrArg (afterGoodbye _) (goodbyeRx_up up))
  case frameRx =>
    rintro s dt p cws b d rfl hd
    obtain ⟨deaf, hears⟩ := portRx_eq cws hd
    exact ⟨fun stopped => next_withBlk (deaf stopped), fun runs => next_withBlk (hears runs)⟩
  case frameEnded =>
    rintro p v marked f b d ⟨ends, alone, open_⟩ hd
    have ended := controlBlock_end (marked := marked) ends alone open_ hd
    refine ⟨fun bad => ended.trans (if_pos (Bool.or_eq_true _ _ ▸ bad)), fun sound clean wrong => ?_, fun sound clean fits => ?_⟩
    · have intact : ¬ (f.bad || marked) = true := by rw [sound, clean]; decide
      exact ended.trans ((if_neg intact).trans (if_pos wrong))
    · have intact : ¬ (f.bad || marked) = true := by rw [sound, clean]; decide
      rw [ended, if_neg intact, if_neg fits]
      exact ⟨frameWhole_corrupt, frameWhole_foreign sound, frameWhole_capability sound, frameWhole_other sound⟩
  case groupRx =>
    rintro s dt p cws b d rfl hd
    obtain ⟨deaf, hears⟩ := portRx_eq cws hd
    exact ⟨fun stopped => next_withBlk (congrArg (afterGoodbye _) (deaf stopped)),
      fun runs => next_withBlk (congrArg (afterGoodbye _) (hears runs))⟩
  case groupEnded =>
    exact fun p g b => ⟨fun bad => if_pos (Or.inl bad), fun _ wrong => if_pos (Or.inr wrong), groupWhole_foreign, groupWhole_goodbye,
      groupWhole_other⟩
  case eyePoint =>
    rintro s dt l errs e q b c rfl ⟨scans, due⟩ he hc
    have point := eyePointDone_due scans due he hc
    exact ⟨fun last => next_withBlk (point.trans (if_pos last)), fun more => next_withBlk (point.trans (if_neg more))⟩
  case quick =>
    rintro s dt l w h ph vo b rfl ⟨due, idle, unbased, alone⟩ ⟨hw, hh, wideEnough, wide, highEnough, high⟩ limit
    obtain ⟨width, height, baseWidth, baseHeight, minWidth, minHeight⟩ := rd_firstMargins (l := l) wide high (s.blk.tick dt)
    exact ⟨firstMargins l w h _, next_withBlk (quickScan_first wide high due idle unbased alone hw hh wideEnough highEnough limit), width,
      height, baseWidth, baseHeight, minWidth, minHeight, congrArg LaneSt.based (lane_putLane ..),
      congrArg LaneSt.quickAt (lane_putLane ..)⟩
  case hour =>
    rintro s dt l b hb due
    change execLaneSerHour dt l s = _
    rw [execLaneSerHour, eff_next, set_blk, ← hb]
    simp only [if_pos due]
  case pixels =>
    rintro s dt p f b c rfl ⟨member, ring⟩ hc ⟨subscribes, pixels, none_⟩
    exact (exec_relayFrameRx ..).trans (next_announced (relayFrameRx_pixels member ring hc subscribes pixels none_))
  case evidence =>
    rintro s dt p f e b c rfl ⟨member, ring⟩ hc ⟨subscribes, evidence, some_⟩
    exact (exec_relayFrameRx ..).trans (next_announced (relayFrameRx_evidence member ring hc subscribes evidence some_))

end Sys2Proof.Machine
end

