-- ==== Sys2Proof/Proofs/Pair.lean ====
section
/-!
O33: the pair: forming, settling, heartbeats by both paths, and the ownership interlock (R328 to R334).
-/

namespace Sys2Proof.Machine

section
variable {b : Blk}

/-! ### Forming -/

/-- A pair forms with a partner in reach and nothing to refuse it for. -/
theorem pairForm_formed (on : b.on F.PAIR_CFG_EN 0 = true) (reach : chnUp b 0 = true ∨ partnerPath b = true) (fits : pairRefusal b = 0) :
    pairForm b = ((b.put F.PAIR_STAT_REFUSED 0 false).wr F.PAIR_STAT_REFUSE_CAUSE 0 0).putPr { b.pr with formed := true } := by
  have inReach : (chnUp b 0 || partnerPath b) = true := Bool.or_eq_true _ _ ▸ reach
  simp only [pairForm, on, inReach, fits, Bool.not_true, Bool.or_self, Bool.false_eq_true, if_true, if_false, bne_self_eq_false,
    beq_self_eq_true]

/-- A pair that is refused for a cause not yet told tells it, and an understudy returns to WINGS. -/
theorem pairForm_refused {why : Nat} {c : Blk} (on : b.on F.PAIR_CFG_EN 0 = true) (reach : chnUp b 0 = true ∨ partnerPath b = true)
    (refuses : pairRefusal b = why) (cause : why ≠ 0) (first : b.on F.PAIR_STAT_REFUSED 0 = false)
    (hc : c = raise pairPage 0x103 sevWarning why 0
      (((b.put F.PAIR_STAT_REFUSED 0 true).wr F.PAIR_STAT_REFUSE_CAUSE 0 why).putPr { b.pr with formed := false })) :
    pairForm b = if role c = 2 then takeRole 1 0 (c.wr F.PAIR_STAT_SYNC 0 0) else c := by
  have inReach : (chnUp b 0 || partnerPath b) = true := Bool.or_eq_true _ _ ▸ reach
  have notFit : (why != 0) = true := bne_iff_ne.mpr cause
  have notFormed : (why == 0) = false := beq_false_of_ne cause
  simp only [pairForm, on, inReach, refuses, first, notFit, notFormed, if_neg cause, Bool.not_true, Bool.or_self, Bool.false_and,
    Bool.false_eq_true, if_false, pairEvent, ← hc]

/-- Without pairing enabled, or with no partner in reach, there is no pair and no refusal. -/
theorem pairForm_unformed (alone : b.on F.PAIR_CFG_EN 0 = false ∨ (chnUp b 0 = false ∧ partnerPath b = false)) :
    pairForm b = ((b.wr F.PAIR_STAT_REFUSED 0 0).wr F.PAIR_STAT_REFUSE_CAUSE 0 0).putPr { b.pr with formed := false } := by
  refine if_pos ?_
  rcases alone with off | ⟨down, silent⟩
  · rw [off]; rfl
  · rw [down, silent]; exact Bool.or_true _

/-- A partner heard by its capability frame is refused for another capacity, and then for the same seat. -/
theorem pairRefusal_cases (up : chnUp b 0 = true) :
    (b.rd F.CHN_PEER_WORD 0 5 % 65536 ≠ b.rd F.SYS_VARIANT_USABLE_GIB 0 → pairRefusal b = 1) ∧
    (b.rd F.CHN_PEER_WORD 0 5 % 65536 = b.rd F.SYS_VARIANT_USABLE_GIB 0 →
      bits (b.rd F.CHN_PEER_WORD 0 4) 8 1 = b.rd F.SYS_STRAPS_SEAT 0 → pairRefusal b = 2) ∧
    (b.rd F.CHN_PEER_WORD 0 5 % 65536 = b.rd F.SYS_VARIANT_USABLE_GIB 0 →
      bits (b.rd F.CHN_PEER_WORD 0 4) 8 1 ≠ b.rd F.SYS_STRAPS_SEAT 0 → pairRefusal b = 0) := by
  have decided : pairRefusal b = if b.rd F.CHN_PEER_WORD 0 5 % 65536 ≠ b.rd F.SYS_VARIANT_USABLE_GIB 0 then 1
      else if bits (b.rd F.CHN_PEER_WORD 0 4) 8 1 = b.rd F.SYS_STRAPS_SEAT 0 then 2 else 0 := by
    simp only [pairRefusal, peerCapacity, peerSeat, up, if_true, Option.isSome_some, Bool.true_and, bne_iff_ne, ne_eq,
      Option.some.injEq, beq_iff_eq]
  rw [decided]
  exact ⟨fun other => if_pos other, fun same seat => (if_neg (not_not_intro same)).trans (if_pos seat),
    fun same seat => (if_neg (not_not_intro same)).trans (if_neg seat)⟩

/-! ### Settling -/

/-- Settling a module in WINGS is settling its role, with what a fatal CURTAIN begins. -/
theorem pairSettle_wings {c : Blk} (hc : c = roleReport 0 (b.putPr { b.pr with settleAt := b.now })) (wings : role c = 1) :
    pairSettle b = refreshReady (let d := settleWings c
      if role d = 4 ∧ d.ctl.fatal = true then beginPlanned 2 d else d) := by
  simp only [pairSettle, ← hc, if_pos wings]

section
variable (fit : b.on F.PAIR_STAT_REFUSED 0 = false) (stays : b.on F.SYS_STAT_EJECTING 0 = false)
  (operates : b.on F.SYS_STAT_OPERATING 0 = true) (joined : b.rd F.ENS_STAT_STATE 0 ≠ 2)
include fit stays operates joined

/-- Without a partner and with OWN_IN free, a module that has waited its SETTLE time takes ownership as ACTIVE. -/
theorem settleWings_alone (silent : heard b = false) (quiet : ownIn b = false) (free : ownInFree b = true)
    (waited : Nat.max b.pr.heardAt (b.rd F.SYS_OPER_TIME_TIME 0) + b.rd F.PAIR_CFG_SETTLE 0 * 100000000 ≤ b.now) :
    settleWings b = takeOwnership 3 0 b := by
  have notJoining : (b.rd F.ENS_STAT_STATE 0 == 2) = false := beq_false_of_ne joined
  simp only [settleWings, fit, stays, operates, notJoining, silent, quiet, free, decide_eq_true waited, Bool.not_true, Bool.or_self,
    Bool.and_self, Bool.false_eq_true, if_true, if_false]

/-- With a partner that is ACTIVE or in CURTAIN, a module that is not hot becomes its understudy. -/
theorem settleWings_understudy (hears : heard b = true) (cool : b.pr.hot = false)
    (owner : b.rd F.PAIR_STAT_PEER_ROLE 0 = 3 ∨ b.rd F.PAIR_STAT_PEER_ROLE 0 = 4) :
    settleWings b = becomeUnderstudy (b.putPr { b.pr with hot := false }) := by
  have notJoining : (b.rd F.ENS_STAT_STATE 0 == 2) = false := beq_false_of_ne joined
  simp only [settleWings, fit, stays, operates, notJoining, hears, if_pos owner, Bool.not_true, Bool.or_self, Bool.false_eq_true, if_true,
    if_false]
  exact if_neg (by rw [cool]; exact Bool.false_ne_true)

end

/-! ### Heartbeats and call frames -/

/-- A heartbeat that is due goes out with its time of leaving. -/
theorem heartbeatSend_due {c d : Blk} (up : chnUp b 0 = true) (on : b.on F.PAIR_CFG_EN 0 = true)
    (due : b.pr.sentA = 0 ∨ b.pr.sentA + 8000 ≤ b.now) (hc : c = refreshReady b) (hd : d = chnExpress 0 1 (byteWords (beatBytes c)) c) :
    heartbeatSend b = d.putPr { d.pr with
      sentA := c.now
      txA := ((d.pr.seqA, c.now + rdiv (c.rd F.CHN_LAT_TX 0) 10) :: d.pr.txA).take 16
      seqA := (d.pr.seqA + 1) % 65536 } := by
  have dueB : (b.pr.sentA != 0 && Nat.blt b.now (b.pr.sentA + 8000)) = false := by
    rcases due with never | late
    · rw [never]; rfl
    · rw [(blt_eq_false_iff ..).2 late, Bool.and_false]
  simp only [heartbeatSend, up, on, dueB, Bool.not_true, Bool.or_self, Bool.false_eq_true, if_false, ← hc, ← hd]

/-- A heartbeat has 24 bytes. -/
theorem beatBytes_length (b : Blk) : (beatBytes b).length = 24 := by
  simp only [beatBytes, List.length_append, leBytes_length, List.length_cons, List.length_nil]

/-- A call frame has 10 bytes. -/
theorem callBytes_length (b : Blk) : (callBytes b).length = 10 := by
  simp only [callBytes, beatFlags, List.length_append, leBytes_length, List.length_cons, List.length_nil]

/-- A call frame that is due goes out. -/
theorem callFrameSend_due {c : Blk} (due : b.pr.sentB = 0 ∨ b.pr.sentB + 50000 ≤ b.now) (hc : c = refreshReady b) :
    callFrameSend b = (c.emit (.callLine (callBytes c))).putPr { c.pr with sentB := c.now, seqB := (c.pr.seqB + 1) % 256 } := by
  have dueB : (b.pr.sentB != 0 && Nat.blt b.now (b.pr.sentB + 50000)) = false := by
    rcases due with never | late
    · rw [never]; rfl
    · rw [(blt_eq_false_iff ..).2 late, Bool.and_false]
  simp only [callFrameSend, dueB, Bool.false_eq_true, if_false, ← hc]

/-- A new heartbeat on a path that stays down is counted in its run, and what the partner says is taken. -/
theorem heartbeatRx_counts {p : Beat} {run : Nat} {c d : Blk} (sel : Nat) (utc dco : Int) (up : chnUp b 0 = true)
    (on : b.on F.PAIR_CFG_EN 0 = true) (new_ : b.pr.lastA ≠ some p.seq)
    (hr : run = if (b.pr.lastA.isSome && Nat.ble b.now (b.pr.atA + 16000)) = true then b.pr.runA + 1 else 1)
    (hc : c = b.putPr { b.pr with
      lastA := some p.seq
      atA := b.now
      runA := run
      rxA := some (p.seq, b.now - rdiv (b.rd F.CHN_LAT_RX 0) 10) })
    (hd : d = if 8 ≤ run then pathRise true c else c) (down : d.on F.PAIR_STAT_PATH_A 0 = false) :
    heartbeatRx p sel utc dco b = peerSays p d := by
  have fresh : (b.pr.lastA == some p.seq) = false := beq_false_of_ne new_
  simp only [heartbeatRx, up, on, fresh, Bool.not_true, Bool.or_self, Bool.false_eq_true, if_false, ← hr, ← hc, ← hd, down]

/-- A heartbeat with the SEQ of the last one counted is dropped. -/
theorem heartbeatRx_repeat {p : Beat} (sel : Nat) (utc dco : Int) (again : b.pr.lastA = some p.seq) : heartbeatRx p sel utc dco b = b := by
  simp only [heartbeatRx, again, beq_self_eq_true, Bool.or_true, if_true]

/-- The first call frames, before path B rises, are counted, and what the partner says is taken. -/
theorem callFrameRx_counts {p : Beat} {run : Nat} {c : Blk} (on : b.on F.PAIR_CFG_EN 0 = true) (new_ : b.pr.lastB ≠ some (p.seq % 256))
    (unheard : b.pr.beat = none) (hr : run = if (b.pr.lastB.isSome && Nat.ble b.now (b.pr.atB + 100000)) = true then b.pr.runB + 1 else 1)
    (hc : c = b.putPr { b.pr with lastB := some (p.seq % 256), atB := b.now, runB := run }) (few : run < 4) :
    callFrameRx p b = peerSays p c := by
  have fresh : (b.pr.lastB == some (p.seq % 256)) = false := beq_false_of_ne new_
  have noBeat : c.pr.beat = none := by rw [hc]; exact unheard
  simp only [callFrameRx, on, fresh, Bool.not_true, Bool.or_self, Bool.false_eq_true, if_false, ← hr, ← hc, if_neg (Nat.not_le.2 few),
    noBeat]

/-- A path whose time has not run out stays up. -/
theorem pathLost_early {a : Bool} (early : b.now < if a then b.pr.atA + 32000 else b.pr.atB + 200000) : pathLost a b = b := by
  have earlyB : Nat.blt b.now (if a then b.pr.atA + 32000 else b.pr.atB + 200000) = true := Nat.blt_eq.mpr early
  simp only [pathLost, earlyB, Bool.or_true, if_true]

/-- Path B lost with path A up is told and counted, and no more. -/
theorem pathLost_other {c : Blk} (up : b.on F.PAIR_STAT_PATH_B 0 = true) (late : b.pr.atB + 200000 ≤ b.now)
    (hc : c = raise pairPage 0x101 sevWarning 1 (evB 1)
      (((b.wr F.PAIR_STAT_PATH_B 0 0).bump F.PAIR_HB_LOSSES_PATH_B 0).putPr { b.pr with runB := 0, heardAt := b.now }))
    (other : partnerPath c = true) : pathLost false b = c := by
  have lateB : Nat.blt b.now (b.pr.atB + 200000) = false := (blt_eq_false_iff ..).2 late
  have time : ((b.wr F.PAIR_STAT_PATH_B 0 0).bump F.PAIR_HB_LOSSES_PATH_B 0).now = b.now := rfl
  have pathB : b2n (!false) = 1 := rfl
  simp only [pathLost, Bool.false_eq_true, if_false, up, lateB, Bool.not_true, Bool.or_self, pairEvent, time, pathB, ← hc, other, if_true]

/-! ### The interlock -/

/-- Sensing OWN_IN leaves the module's SEAT. -/
theorem seat_ownIn (b : Blk) : (b.wr F.PAIR_STAT_OWN_IN 0 1).rd F.SYS_STRAPS_SEAT 0 = b.rd F.SYS_STRAPS_SEAT 0 :=
  Blk.rd_wr_ne _ _ _ _ _ _ _ _ (by decide)

section
variable {c : Blk} {t : Nat} (owns : ownOut b = true) (claims : b.pr.claimAt = some t) (early : b.now ≤ t + 5000)
  (hc : c = b.wr F.PAIR_STAT_OWN_IN 0 1)
include owns claims early hc

/-- In its claim window, a module that senses OWN_IN withdraws with SEAT 1, and is contested with SEAT 0. -/
theorem ownContest_window : ownContest b =
    if c.rd F.SYS_STRAPS_SEAT 0 = 1 then
      let d := raise pairPage 0x10D sevWarning 1 0 (dropOwnership c)
      if role d = 4 ∧ d.ctl.fatal = true then d else becomeUnderstudy d
    else c.putPr { c.pr with contested := true, bothAt := some (c.pr.bothAt.getD c.now) } := by
  have out : ownOut c = true := by
    rw [hc, ownOut, Blk.on, Blk.rd_wr_ne _ _ _ _ _ _ _ _ (by decide)]
    exact owns
  have claim : c.pr.claimAt = some t := by rw [hc]; exact claims
  have earlyB : Nat.ble c.now (t + 5000) = true := by rw [hc]; exact Nat.ble_eq.mpr early
  simp only [ownContest, ← hc, out, claim, earlyB, Bool.true_or, Bool.not_true, Bool.false_eq_true, if_true, if_false, pairEvent,
    Option.isSome_some]

end

end

/-- Settles O33, from what forming, settling, the heartbeats and the interlock do. -/
theorem pairCommands : Obligations.PairCommands := by
  unfold Obligations.PairCommands
  refine ⟨?formed, ?refused, ?unformed, fun b up => pairRefusal_cases up, ?active, ?understudy, ?beatSent, beatBytes_length, ?callSent,
    ?beatRx, ?beatRepeat, ?callRx, ?stillUp, ?lost, ?claim, ?seat1, ?seat0, ?free⟩
  case formed =>
    rintro s dt b rfl ⟨on, reach⟩ fits
    exact next_withBlk (pairForm_formed on reach fits)
  case refused =>
    rintro s dt why b c rfl ⟨on, reach⟩ ⟨refuses, cause, first⟩ hc
    exact next_withBlk (pairForm_refused on reach refuses cause first hc)
  case unformed =>
    rintro s dt b rfl alone
    exact next_withBlk (pairForm_unformed alone)
  case active =>
    rintro s dt b c hb due hc ⟨wings, fit, stays, operates, joined⟩ ⟨silent, quiet, free, -⟩ waited
    change execRoleSettle dt s = _
    rw [execRoleSettle, eff_next, set_blk, ← hb]
    simp only [if_pos (Or.inr due), pairSettle_wings hc wings, settleWings_alone fit stays operates joined silent quiet free waited]
  case understudy =>
    rintro s dt b c hb due hc ⟨wings, fit, stays, operates, joined⟩ ⟨hears, cool⟩ owner
    change execRoleSettle dt s = _
    rw [execRoleSettle, eff_next, set_blk, ← hb]
    simp only [if_pos (Or.inr due), pairSettle_wings hc wings, settleWings_understudy fit stays operates joined hears cool owner]
  case beatSent =>
    rintro s dt b c d rfl ⟨up, on, due⟩ hc hd
    exact next_withBlk (heartbeatSend_due up on due hc hd)
  case callSent =>
    rintro s dt b c rfl due hc
    exact ⟨next_withBlk (callFrameSend_due due hc), callBytes_length c⟩
  case beatRx =>
    rintro s dt run sel p utc dco b c d rfl ⟨up, on, new_⟩ hr hc hd down
    exact next_withBlk (heartbeatRx_counts sel utc dco up on new_ hr hc hd down)
  case beatRepeat =>
    rintro s dt sel p utc dco b rfl again
    exact next_withBlk (heartbeatRx_repeat sel utc dco again)
  case callRx =>
    rintro s dt run p b c rfl ⟨on, new_, unheard⟩ hr hc few
    exact next_withBlk (callFrameRx_counts on new_ unheard hr hc few)
  case stillUp =>
    rintro s dt a b rfl early
    exact next_withBlk (pathLost_early early)
  case lost =>
    rintro s dt b c rfl ⟨up, late⟩ hc other
    exact next_withBlk (pathLost_other up late hc other)
  case claim =>
    rintro s dt t b hb ⟨claims, late, free, owns⟩
    change execClaimWindowEnd dt s = _
    rw [execClaimWindowEnd, eff_next, set_blk, ← hb]
    have drives : t + 5000 ≤ b.now ∧ (!b.pr.contested) = true ∧ ownOut b = true := ⟨late, by rw [free]; rfl, owns⟩
    simp only [claims, if_pos drives]
  case seat1 =>
    rintro s dt t b c rfl ⟨owns, claims, early, seat⟩ hc
    rw [hc]
    exact next_withBlk ((ownContest_window owns claims early rfl).trans (if_pos ((seat_ownIn _).trans seat)))
  case seat0 =>
    rintro s dt t b c rfl ⟨owns, claims, early, seat⟩ hc
    have other : ¬ c.rd F.SYS_STRAPS_SEAT 0 = 1 := by
      rw [hc, seat_ownIn, seat]
      decide
    exact next_withBlk ((ownContest_window owns claims early hc).trans (if_neg other))
  case free =>
    rintro s dt b c rfl hc
    have step : ownInDeasserted (s.blk.tick dt) = if ownOut c = true ∧ c.pr.contested = true ∧ c.rd F.SYS_STRAPS_SEAT 0 = 0 then
        setDriving true (c.putPr { c.pr with contested := false, claimAt := none }) else c := by
      simp only [ownInDeasserted, ← hc]
    exact ⟨fun waits => next_withBlk (step.trans (if_pos waits)), fun idle => next_withBlk (step.trans (if_neg idle))⟩

end Sys2Proof.Machine
end

