-- ==== Sys2Proof/Proofs/Takeover.lean ====
section
/-!
O34: the end of an epoch on the active side, the dress rehearsal and the second opinion, and the planned and the uncontrolled takeover
(R339 to R358).
-/

namespace Sys2Proof.Machine

/-- Recording an event leaves the state of the pair. -/
theorem pr_raise (p : Page) (code sev d evt : Nat) (b : Blk) : (raise p code sev d evt b).pr = b.pr :=
  (congrArg Blk.pair (rest_raise p code sev d evt b) :)

section
variable {b : Blk}

/-! ### The end of an epoch -/

/-- The frames of a closed epoch are sent, and END after them. -/
theorem epochEndSend_closed {q : Closed} (closed : b.pr.closed = some q) (sends : copying b = true ∨ b.pr.released = true) {c d : Blk}
    (hc : c = forEach (epochFrames b q) (fun f x => chnSend 0 2 (epochFrameWords f) x) b)
    (hd : d = c.putPr { c.pr with closed := none, links := [] }) : epochEndSend b =
      chnSend 0 2 ([3 + 65536 * (epochFrames b q).length, q.epoch % 2 ^ 32, q.epoch % 2 ^ 32, q.epoch / 2 ^ 32, q.time % 2 ^ 32,
        q.time / 2 ^ 32 % 2 ^ 32, (q.recs.filter (·.1 != 2)).length, q.stores.foldl (fun a x => a + x.2.2.length) 0,
        (epochFrames b q).length, ruleDigest d.acg.image] ++ q.fs ++ [epochCrc q.epoch q.recs q.stores]) d := by
  have kept : ¬ (!copying b && !b.pr.released) = true := by
    rcases sends with copies | released
    · simp [copies]
    · simp [released]
  simp only [epochEndSend, closed, if_neg kept, ← hc, ← hd]

/-- An owner takes an acknowledgement as the epoch committed, and a request as a full sync that is due. -/
theorem epochAckRx_owner (owner : role b = 3 ∨ role b = 4) (settled : b.pr.syncS = none) (e : Nat) :
    epochAckRx e true false b = b.wr F.PAIR_COMMITTED_EPOCH 0 e ∧
      epochAckRx e false true b = (b.wr F.PAIR_STAT_SYNC 0 1).putPr { b.pr with syncDue := true } := by
  have takes : ¬ (role b ≠ roActive ∧ role b ≠ roCurtain) := fun ⟨notActive, notCurtain⟩ => owner.elim notActive notCurtain
  have settled' : (b.wr F.PAIR_COMMITTED_EPOCH 0 e).pr.syncS = none := settled
  simp only [epochAckRx, if_neg takes, settled', Bool.false_eq_true, if_true, if_false, and_self]

/-! ### Dress rehearsal and second opinion -/

section
variable {st : Nat} {x : OwnSet} {y : Rehearsal} {c : Blk} {op : Option (Nat × Nat × Nat × Nat)} {cmp bad : List Nat}
  (own : mget b.pr.own st = some x) (same : x.set.f = y.f) (hcmp : cmp = (List.range x.set.sigs.length).filter (tileCompared x y))
  (hbad : bad = cmp.filter fun k => x.set.sigs[k]? != y.sigs[k]?) (hop : op = (opinionOf b st x y).or b.pr.opinion)
  (hc : c = ((b.putPr { b.pr with own := mdel b.pr.own st, opinion := op }).bump F.PAIR_DR_EXCLUDED_COUNT 0
    ((List.range x.set.sigs.length).length - cmp.length)).bump F.PAIR_DR_MISMATCHES_COUNT 0 bad.length)
include own same hcmp hbad hop hc

/-- Sets of one frame without a mismatch are counted. -/
theorem rehearsalCompare_equal (none_ : bad = []) : rehearsalCompare st y b = c := by
  rw [hop] at hc
  cases h : opinionOf b st x y <;> rw [h] at hc <;>
    simp only [rehearsalCompare, own, if_neg (not_not_intro same), h, ← hcmp, ← hbad, Option.none_or, Option.some_or] at hc ⊢ <;>
    simp only [← hc] <;> simp only [none_]

/-- The first mismatch is told, and taken up where no dispute is open. -/
theorem rehearsalCompare_mismatch {k : Nat} {l : List Nat} (some_ : bad = k :: l) (open_ : c.pr.dispute = none) {d : Blk}
    (hd : d = raise pairPage 0x107 sevNotice (st + 32 * k) (evB 3) c) : rehearsalCompare st y b =
      d.putPr { d.pr with dispute := some (st, k, d.rd F.STG_FRAME_F st + 16), opinion := none } := by
  have open' : d.pr.dispute = none := by rw [hd, pr_raise]; exact open_
  rw [hop] at hc
  cases h : opinionOf b st x y <;> rw [h] at hc <;>
    simp only [rehearsalCompare, own, if_neg (not_not_intro same), h, ← hcmp, ← hbad, Option.none_or, Option.some_or] at hc ⊢ <;>
    simp only [← hc] <;> simp only [some_, pairEvent, ← hd, if_pos open']

end

/-- The four signatures of a disputed tile decide whose path is at fault. -/
theorem opinionOutcome_decides (xn xs yn ys : Nat) : (xn = yn → opinionOutcome (xn, xs, yn, ys) = 1) ∧
    (xn ≠ yn → xs = ys → ys = yn → opinionOutcome (xn, xs, yn, ys) = 2) ∧
    (xn ≠ yn → xs = ys → ys = xn → opinionOutcome (xn, xs, yn, ys) = 3) ∧
    (xn ≠ yn → ¬ (xs = ys ∧ (ys = yn ∨ ys = xn)) → opinionOutcome (xn, xs, yn, ys) = 4) := by
  refine ⟨fun equal => if_pos equal, fun differ paths own => ?_, fun differ paths partner => ?_, fun differ neither => ?_⟩
  · exact (if_neg differ).trans (if_pos ⟨paths, own⟩)
  · have notFirst : ¬ (xs = ys ∧ ys = yn) := fun ⟨_, own⟩ => differ (partner.symm.trans own)
    exact (if_neg differ).trans ((if_neg notFirst).trans (if_pos ⟨paths, partner⟩))
  · have notFirst : ¬ (xs = ys ∧ ys = yn) := fun ⟨paths, own⟩ => neither ⟨paths, Or.inl own⟩
    have notSecond : ¬ (xs = ys ∧ ys = xn) := fun ⟨paths, partner⟩ => neither ⟨paths, Or.inr partner⟩
    exact (if_neg differ).trans ((if_neg notFirst).trans (if_neg notSecond))

/-- A decision that does not find this module wrong is noted, and ends the dispute. -/
theorem decideOpinion_ends (st t : Nat) {out : Nat} (other : out = 1 ∨ out = 3 ∨ out = 4) :
    (decideOpinion st t out b).rd F.PAIR_SO_LAST_OUTCOME 0 = out ∧ (decideOpinion st t out b).pr.dispute = none := by
  rw [decideOpinion_of_ne_two (by omega), rd_outcome_opinionNoted]
  refine ⟨by omega, ?_⟩
  rw [opinionNoted, pairEvent, pr_raise]
  rfl

/-- A dispute is decided by its four signatures; without a second path it is undecided. -/
theorem secondOpinion_disputed {st t e : Nat} (disputed : b.pr.dispute = some (st, t, e)) :
    (∀ o, b.pr.opinion = some o → secondOpinion b = decideOpinion st t (opinionOutcome o) b) ∧
      (b.pr.opinion = none →
        secondPipe b st (t % cdiv (stageW (b.viewed st) st) 64) (t / cdiv (stageW (b.viewed st) st) 64) = none →
        secondOpinion b = decideOpinion st t 4 b) := by
  refine ⟨fun o given => ?_, fun missing alone => ?_⟩
  · simp only [secondOpinion, disputed, given]
  · simp only [secondOpinion, disputed, missing, alone, Option.isNone_none, if_true]

/-! ### Takeover -/

/-- An understudy that sees RELEASE sets TAKE. -/
theorem handshake_release {p : Beat} (understudy : role b = 2) (beat : b.pr.beat = some p) (releases : p.release = true)
    (silent : b.pr.release = none) (idle : b.pr.take = none) :
    handshake b = (b.putPr { b.pr with take := some (plannedCause b, true, b.now) }).wr F.PAIR_STAT_TAKE 0 1 := by
  simp only [handshake, beat, silent, Option.isSome_none, Bool.false_and, Bool.false_eq_true, if_false, if_pos understudy, releases,
    if_true, idle]

/-- An owner that sees TAKE notes when. -/
theorem handshake_take {p : Beat} (active : role b = 3) (beat : b.pr.beat = some p) (takes : p.take = true)
    (releases : b.pr.release.isSome = true) (first : b.pr.takeRx = none) : handshake b = b.putPr { b.pr with takeRx := some b.now } := by
  have role' (x : PairSt) : ¬ role (b.putPr x) = roUnderstudy := fun understudy => by
    have same : role b = 2 := understudy
    omega
  simp only [handshake, beat, takes, releases, first, beq_self_eq_true, Bool.and_self, if_true, if_neg (role' _)]

/-- The owner lets ownership go 90 µs after it saw TAKE: what waits is discarded, and the current epoch ends. -/
theorem ownRelease_due {cause t : Nat} (releases : b.pr.release = some cause) (taken : b.pr.takeRx = some t)
    (owns : b.pr.released = false) (due : t + 90000 ≤ b.now) {c d : Blk}
    (hc : c = forEach b.pr.held (fun h x => discardCopy h.1 h.2.2.1 x) b)
    (hd : d = (c.putPr { c.pr with released := true, held := [] }).wr F.PAIR_EPOCH_FILL_HELD 0 0) :
    ownRelease b = epochEndSend (dropOwnership (closeEpoch d)) := by
  have goes : (!b.pr.released) = true ∧ t + 90000 ≤ b.now := ⟨by rw [owns]; rfl, due⟩
  simp only [ownRelease, releases, taken, if_pos goes, ← hc, ← hd]

/-- Without RELEASE, or before TAKE is seen, the owner keeps ownership. -/
theorem ownRelease_early (early : b.pr.release = none ∨ b.pr.takeRx = none) : ownRelease b = b := by
  rcases early with none_ | none_
  · simp only [ownRelease, none_]
  · cases h : b.pr.release with
    | none => simp only [ownRelease, h]
    | some cause => simp only [ownRelease, h, none_]

/-- At its boundary an understudy without a partner takes over. -/
theorem takePointCmd_uncontrolled {c : Blk} {cause t : Nat} (hc : c = refreshReady b) (keeps : c.pr.released = false)
    (understudy : role c = 2) (decided : c.pr.take = some (cause, false, t)) (due : t + 20000 ≤ c.now) (free : ownInFree c = true) :
    takePointCmd b = takePoint cause false c := by
  simp only [takePointCmd, ← hc, keeps, Bool.false_eq_true, if_false, if_neg (not_not_intro understudy), decided, Bool.not_false,
    Bool.true_or]
  exact if_pos ⟨due, trivial, free⟩

end

/-- Settles O34, from what the end of an epoch, the rehearsal, the second opinion and the handshake of a takeover do. -/
theorem takeoverAndRehearsalCommands : Obligations.TakeoverAndRehearsalCommands := by
  unfold Obligations.TakeoverAndRehearsalCommands
  refine ⟨?endSent, ?ack, ?send, ?compare, ?compareTimeout, ?opinion, opinionOutcome_decides, fun st t out b other =>
    decideOpinion_ends st t other, ?opinionTimeout, ?releaseSeen, ?takeSeen, ?release, ?early, ?uncontrolled, ?takePoint, ?former⟩
  case endSent =>
    rintro s dt q b c d rfl ⟨closed, sends⟩ hc hd
    exact next_withBlk (epochEndSend_closed closed sends hc hd)
  case ack =>
    rintro s dt e b rfl ⟨owner, settled⟩
    obtain ⟨acked, asked⟩ := epochAckRx_owner owner settled e
    exact ⟨next_withBlk acked, next_withBlk asked⟩
  case send =>
    rintro s dt st second r b c d rfl ⟨runs, shown, formed, up⟩ hr hc hd
    refine next_of_pair (congrArg (·, s.store) ?_)
    have frame : (rehearsalSet (s.blk.tick dt) s.store st).f = r.f := by rw [hr]
    have stamp : (rehearsalSet (s.blk.tick dt) s.store st).stamp = r.stamp := by rw [hr]
    have sigs : (rehearsalSet (s.blk.tick dt) s.store st).sigs = r.sigs := by rw [hr]
    have opinion : setOpinion (s.blk.tick dt) st second = r.so := by rw [hr]
    rw [hd]
    simp only [rehearsalSend, ← hr, ← hc]
    simp only [runs, List.isEmpty_eq_false_iff.2 shown, formed, up, Bool.not_true, Bool.or_self, Bool.false_eq_true, if_false, frame,
      stamp, sigs]
    cases so : r.so with
    | none => simp only [opinion.trans so]
    | some e => simp only [opinion.trans so]
  case compare =>
    rintro s dt st x y b c cmp bad rfl ⟨own, same⟩ hcmp hbad hc
    refine ⟨fun none_ => next_withBlk ?_, fun k l some_ open_ => next_withBlk ?_⟩
    · exact rehearsalCompare_equal own same hcmp hbad (by cases opinionOf (s.blk.tick dt) st x y <;> rfl) hc none_
    · exact rehearsalCompare_mismatch own same hcmp hbad (by cases opinionOf (s.blk.tick dt) st x y <;> rfl) hc some_ open_ rfl
  case compareTimeout =>
    rintro s dt st x b hb ⟨own, late⟩
    change execRehearsalTimeout dt st s = _
    rw [execRehearsalTimeout, eff_next, set_blk, ← hb]
    simp only [own, if_pos late]
  case opinion =>
    rintro s dt st t e b rfl disputed
    obtain ⟨given, alone⟩ := secondOpinion_disputed disputed
    exact ⟨fun o ho => next_withBlk (given o ho), fun missing none_ => next_withBlk (alone missing none_)⟩
  case opinionTimeout =>
    rintro s dt st t e b hb ⟨disputed, late⟩
    change execSecondOpinionTimeout dt s = _
    rw [execSecondOpinionTimeout, eff_next, set_blk, ← hb]
    simp only [disputed, if_pos late]
  case releaseSeen =>
    rintro s dt p b hb ⟨understudy, beat, releases, silent, idle⟩
    have notCurtain : ¬ (role b = roCurtain ∧ b.ctl.fatal = true) := by rw [understudy]; exact fun ⟨is, _⟩ => absurd is (by decide)
    change execTakeoverRelease dt s = _
    rw [execTakeoverRelease, eff_next, set_blk, ← hb]
    simp only [if_neg notCurtain, handshake_release understudy beat releases silent idle]
  case takeSeen =>
    rintro s dt p b hb ⟨active, beat, takes, releases, first⟩
    have notCurtain : ¬ (role b = roCurtain ∧ b.ctl.fatal = true) := by rw [active]; exact fun ⟨is, _⟩ => absurd is (by decide)
    change execTakeoverRelease dt s = _
    rw [execTakeoverRelease, eff_next, set_blk, ← hb]
    simp only [if_neg notCurtain, handshake_take active beat takes releases first]
  case release =>
    rintro s dt cause t b c d rfl ⟨releases, taken, owns, due⟩ hc hd
    exact next_withBlk (ownRelease_due releases taken owns due hc hd)
  case early =>
    rintro s dt b rfl early
    exact next_withBlk (ownRelease_early early)
  case uncontrolled =>
    rintro s dt b rfl ⟨understudy, alone, free, idle⟩
    exact next_withBlk (if_pos ⟨understudy, by rw [alone]; rfl, free, idle⟩)
  case takePoint =>
    rintro s dt cause t b c rfl hc ⟨keeps, understudy, decided, due, free⟩
    exact next_withBlk (takePointCmd_uncontrolled hc keeps understudy decided due free)
  case former =>
    rintro s dt b c rfl hc released
    refine next_withBlk ?_
    simp only [takePointCmd, ← hc, released, if_true]

end Sys2Proof.Machine
end

