-- ==== Sys2Proof/Proofs/Epochs.lean ====
section
/-!
O35: epoch boundaries, the arrival, commit and failure of an epoch, frame-store writes that wait, and the full sync (R337 to R348).
-/

namespace Sys2Proof.Machine

section
variable {b : Blk} {m : FrameStore}

/-! ### Boundaries -/

/-- While stage 0 does not run, a boundary closes the epoch and opens the next, takes what is due and goes on with held writes. -/
theorem epochBoundaryCmd_free (stopped : stageRuns b 0 = false) (free : freeBoundary b.now = true) (first : b.pr.boundaryAt ≠ b.now)
    (owns : b.pr.released = false) {c d : Blk} (hc : c = openEpoch (closeEpoch b))
    (hd : d = c.putPr { c.pr with
      boundaryWas := c.pr.boundaryAt
      boundaryAt := c.now
      fMarks := (List.range 24).map fun st => c.rd F.STG_FRAME_F st }) :
    epochBoundaryCmd b m = replayHeld (joinAtBoundary (ensBoundary (takeCues (boundaryDue d) (sendAck d)))) m := by
  have open_ : ¬ (b.pr.boundaryAt = b.now ∧ b.now ≠ 0) := fun ⟨same, _⟩ => first same
  simp only [epochBoundaryCmd, stopped, free, Bool.not_false, Bool.and_self, if_true, epochBoundary, if_neg open_, owns,
    Bool.false_eq_true, if_false, ← hc, ← hd]

/-- The boundaries of a module whose stage 0 does not run lie every third part of 50 ms, rounded down, and not beside. -/
theorem freeBoundary_times (k : Nat) :
    freeBoundary (k * 50000000 / 3) = true ∧ (freeBoundary (k * 50000000 / 3 + 1) = true → False) := by
  have number : cdiv (3 * (k * 50000000 / 3)) 50000000 = k := by
    rw [cdiv, if_neg (by decide)]
    omega
  have after : cdiv (3 * (k * 50000000 / 3 + 1)) 50000000 = k + 1 := by
    rw [cdiv, if_neg (by decide)]
    omega
  constructor
  · rw [freeBoundary, number, beq_self_eq_true]
  · rw [freeBoundary, after, beq_iff_eq]
    omega

/-- The epoch that opens has the next number. -/
theorem rd_openEpoch (synced : b.pr.syncS = none) :
    (openEpoch b).rd F.PAIR_EPOCH_EPOCH 0 = (b.rd F.PAIR_EPOCH_EPOCH 0 + 1) % 2 ^ 32 := by
  simp only [openEpoch, synced]
  exact Blk.rd_wr_same ..

/-! ### Receiving an epoch -/

section
variable (takes : takesEpochs b = true) (synced : b.rd F.PAIR_STAT_SYNC 0 = 2)
include takes synced

/-- RECORDS of an epoch are kept. -/
theorem epochFrameRx_records (e i : Nat) (l : List (Nat × Nat × Nat × Nat)) :
    epochFrameRx (.records e i l) b m = (b.putPr { b.pr with rx := b.pr.rx ++ [.records e i l] }, m) := by
  simp only [epochFrameRx, takes, Bool.not_true, Bool.false_eq_true, if_false, keepFrame, synced, true_or, if_true]

/-- A LINK frame is kept, and its setting is stored with the head at once. -/
theorem epochFrameRx_link (e i h : Nat) (l : List Nat) {c : Blk} (hc : c = b.putPr { b.pr with rx := b.pr.rx ++ [.link e i h l] }) :
    epochFrameRx (.link e i h l) b m =
      (c.putHead h { c.head h with link := some (l.headD 0 :: l.drop 2), fromPeer := true }, m) := by
  simp only [epochFrameRx, takes, Bool.not_true, Bool.false_eq_true, if_false, keepFrame, synced, true_or, if_true, ← hc]

end

/-- A module that takes no epochs drops their frames. -/
theorem epochFrameRx_other (f : EpochFrame) (other : takesEpochs b = false) : epochFrameRx f b m = (b, m) := by
  simp only [epochFrameRx, other, Bool.not_false, if_true]

/-- An END waits for its commit, behind the one that waits already. -/
theorem epochEndRx_synced {e : EpochEnd} {c : Blk} (takes : takesEpochs b = true)
    (hc : c = refreshReady (b.putPr { b.pr with digest := some e.digest })) (synced : c.rd F.PAIR_STAT_SYNC 0 = 2) : epochEndRx e b =
      if c.pr.waitEnd.isNone then c.putPr { c.pr with waitEnd := some e } else c.putPr { c.pr with ends := c.pr.ends ++ [e] } := by
  simp only [epochEndRx, takes, Bool.not_true, Bool.false_eq_true, if_false, ← hc, synced, true_or, if_true]

/-- A whole epoch is applied and acknowledged. -/
theorem epochCommit_whole {e : EpochEnd} {c d : Blk} (waits : b.pr.waitEnd = some e) (takes : takesEpochs b = true)
    (whole : epochWhole b e = true)
    (hc : c = (applyRecords e.epoch e.time 0 (recordsOf (framesOf b e.epoch)) b).wr F.PAIR_COMMITTED_EPOCH 0 e.epoch)
    (hd : d = c.putPr { c.pr with
      everCommitted := true
      waitEnd := c.pr.ends.head?
      ends := c.pr.ends.tail
      adopt := adoptions c e
      rx := c.pr.rx.filter fun f => frameEpoch f % 2 ^ 32 != e.epoch % 2 ^ 32
      ackDue := some (e.epoch % 2 ^ 32, true, false) }) : epochCommit b = refreshReady (sendAck d) := by
  simp only [epochCommit, waits, takes, whole, Bool.not_true, Bool.or_self, Bool.false_eq_true, if_false, ← hc, ← hd]

/-- An epoch that is not whole waits. -/
theorem epochCommit_waits {e : EpochEnd} (waits : b.pr.waitEnd = some e) (part : epochWhole b e = false) : epochCommit b = b := by
  simp only [epochCommit, waits, part, Bool.not_false, Bool.or_true, if_true]

/-- An epoch not committed 3.0 ms after its boundary has failed, and a full sync is asked for. -/
theorem epochFail_due {last : Nat} {c d : Blk} (hl : last = (b.rd F.PAIR_EPOCH_EPOCH 0 + 2 ^ 32 - 1) % 2 ^ 32) (understudy : role b = 2)
    (synced : b.rd F.PAIR_STAT_SYNC 0 = 2) (late : b.pr.boundaryAt + 3000000 ≤ b.now) (behind : b.rd F.PAIR_COMMITTED_EPOCH 0 ≠ last)
    (hc : c = raise pairPage 0x104 sevWarning (last % 65536) (evB 2) (b.wr F.PAIR_STAT_SYNC 0 1))
    (hd : d = c.putPr { c.pr with
      rx := []
      staging := []
      waitEnd := none
      ends := []
      syncS := none
      syncAt := c.now
      ackDue := some (last, false, true) }) : epochFail b = refreshReady (sendAck d) := by
  have fails : ¬ (role b ≠ roUnderstudy ∨ b.rd F.PAIR_STAT_SYNC 0 ≠ 2 ∨ b.now < b.pr.boundaryAt + 3000000 ∨
      b.rd F.PAIR_COMMITTED_EPOCH 0 = last) := by
    rintro (other | unsynced | early | committed)
    · exact other understudy
    · exact unsynced synced
    · exact Nat.not_le.2 early late
    · exact behind committed
  simp only [epochFail, ← hl, if_neg fails, pairEvent, ← hc, ← hd]

/-! ### Writes that wait, and the full sync -/

/-- The one write that waits is made once no buffer it meets is held. -/
theorem storeReleased_first {a : Nat} {u : Bool} {bytes : List Nat} (waits : b.pr.staging = [(a, u, bytes)]) {r : Blk × FrameStore}
    (hr : r = storeWrite (if b.rd F.PAIR_STAT_SYNC 0 = 1 then 0x20 else 0x16) a u bytes b m) : storeReleased b m =
      if storeBlocked b a bytes.length then (b, m) else (r.1.putPr { r.1.pr with staging := r.1.pr.staging.tail }, r.2) := by
  simp only [storeReleased, waits, List.foldl_cons, List.foldl_nil, List.head?_cons, true_and, ← hr]
  cases storeBlocked b a bytes.length <;> rfl

/-- A full sync that is due starts at a boundary: everything is sent, numbered by its epoch. -/
theorem fullSyncStart_due {c : Blk} (due : b.pr.syncDue = true) (copies : copying b = true) (now : b.pr.boundaryAt = b.now)
    (hc : c = b.putPr { b.pr with syncDue := false, syncS := some (b.rd F.PAIR_EPOCH_EPOCH 0), syncAt := b.now }) :
    fullSyncStart b m =
      forEach (syncFrames (b.rd F.PAIR_EPOCH_EPOCH 0) c m) (fun f x => chnSend 0 2 (epochFrameWords f) x) c := by
  have atBoundary : (b.now != b.pr.boundaryAt) = false := by rw [now, bne_self_eq_false]
  have starts : ¬ (!b.pr.syncDue || !copying b || b.now != b.pr.boundaryAt) = true := by simp only [due, copies, atBoundary,
    Bool.not_true, Bool.or_self, Bool.false_eq_true, not_false_eq_true]
  simp only [fullSyncStart, if_neg starts, ← hc]

/-- A full sync whose writes are made is applied: images, then records, and what comes after it is kept. -/
theorem fullSyncComplete_due {q : Nat} {l n : List EpochFrame} {c d e : Blk} (sync : b.pr.syncS = some q) (understudy : role b = 2)
    (syncs : b.rd F.PAIR_STAT_SYNC 0 = 1) (made : b.pr.staging = []) (split : syncSplit b.pr.rx = (l, n))
    (hc : c = applyRecords q (imagesApplied b l (applyImages l (clearCopied b))).pr.boundaryAt 0 (recordsOf l)
      (imagesApplied b l (applyImages l (clearCopied b))))
    (hd : d = (c.wr F.PAIR_STAT_SYNC 0 2).wr F.PAIR_COMMITTED_EPOCH 0 (q + 2 ^ 32 - 1))
    (he : e = d.putPr { d.pr with rx := n, syncS := none, waitEnd := d.pr.ends.head?, ends := d.pr.ends.tail }) :
    fullSyncComplete b = refreshReady (raise pairPage 0x105 sevNotice (q % 65536) (evB 2) e) := by
  have completes : ¬ (role b ≠ roUnderstudy ∨ b.rd F.PAIR_STAT_SYNC 0 ≠ 1 ∨ (!b.pr.staging.isEmpty) = true) := by
    rintro (other | unsynced | staged)
    · exact other understudy
    · exact unsynced syncs
    · rw [made] at staged
      exact Bool.false_ne_true staged
  simp only [fullSyncComplete, sync, if_neg completes, split, ← hc, ← hd, ← he, pairEvent]

/-- A full sync that is not complete in its time starts again, on either side. -/
theorem syncTimeout_due (syncs : b.rd F.PAIR_STAT_SYNC 0 = 1)
    (late : b.pr.syncAt + b.rd F.PAIR_CFG_SYNC_TO 0 * 1000000000 ≤ b.now) :
    (role b = 2 → syncTimeout b = sendAck (syncAgain b)) ∧ (role b ≠ 2 → copying b = true →
      syncTimeout b = b.putPr { b.pr with syncDue := true, syncS := none, syncAt := b.now }) := by
  have expired : ¬ (b.rd F.PAIR_STAT_SYNC 0 ≠ 1 ∨ b.now < b.pr.syncAt + b.rd F.PAIR_CFG_SYNC_TO 0 * 1000000000) := by
    rintro (done | early)
    · exact done syncs
    · exact Nat.not_le.2 early late
  exact ⟨fun understudy => (if_neg expired).trans (if_pos understudy), fun other copies =>
    (if_neg expired).trans ((if_neg other).trans (if_pos copies))⟩

end

/-- The commands of a boundary, a commit and a sync announce what became eligible. -/
theorem exec_epochBoundary (dt : Nat) (s : State) : exec (.epochBoundary dt) s =
    .next (s.withBoth (announce (s.blk.tick dt) (epochBoundaryCmd (s.blk.tick dt) s.store).1
      (epochBoundaryCmd (s.blk.tick dt) s.store).2) (epochBoundaryCmd (s.blk.tick dt) s.store).2) := rfl

theorem exec_epochCommitDone (dt : Nat) (s : State) : exec (.epochCommitDone dt) s =
    .next (s.withBlk (announce (s.blk.tick dt) (epochCommit (s.blk.tick dt)) s.store)) := rfl

theorem exec_fullSyncComplete (dt : Nat) (s : State) : exec (.fullSyncComplete dt) s =
    .next (s.withBlk (announce (s.blk.tick dt) (fullSyncComplete (s.blk.tick dt)) s.store)) := rfl

/-- Settles O35, from what the boundaries, the frames and ENDs received, the writes that wait and the full sync do. -/
theorem epochCommands : Obligations.EpochCommands := by
  unfold Obligations.EpochCommands
  refine ⟨?boundary, freeBoundary_times, fun b synced => rd_openEpoch synced, ?kept, ?link, ?other, ?endRx, ?commit, ?notWhole, ?fail,
    ?released, ?syncStart, ?syncComplete, ?syncTimeout⟩
  case boundary =>
    rintro s dt b c d rfl ⟨stopped, free, -, first, owns⟩ hc hd
    exact (exec_epochBoundary dt s).trans (next_announced (epochBoundaryCmd_free stopped free first owns hc hd))
  case kept =>
    rintro s dt e i l b rfl ⟨takes, synced⟩
    exact next_of_pair (epochFrameRx_records takes synced e i l)
  case link =>
    rintro s dt e i h l b c rfl ⟨takes, synced⟩ hc
    exact next_of_pair (epochFrameRx_link takes synced e i h l hc)
  case other =>
    rintro s dt f b rfl other
    exact next_of_pair (epochFrameRx_other f other)
  case endRx =>
    rintro s dt e b c rfl takes hc synced
    have ended := epochEndRx_synced takes hc synced
    exact ⟨fun first => next_withBlk (ended.trans (if_pos (Option.isNone_iff_eq_none.2 first))), fun second =>
      next_withBlk (ended.trans (if_neg fun first => second (Option.isNone_iff_eq_none.1 first)))⟩
  case commit =>
    rintro s dt e b c d rfl ⟨waits, takes, whole⟩ hc hd
    exact (exec_epochCommitDone dt s).trans (next_withBlk (congrArg (announce _ · s.store) (epochCommit_whole waits takes whole hc hd)))
  case notWhole =>
    rintro s dt e b rfl ⟨waits, part⟩
    exact (exec_epochCommitDone dt s).trans (next_withBlk (congrArg (announce _ · s.store) (epochCommit_waits waits part)))
  case fail =>
    rintro s dt last b c d rfl hl ⟨understudy, synced, late, behind⟩ hc hd
    exact next_withBlk (epochFail_due hl understudy synced late behind hc hd)
  case released =>
    rintro s dt a u bytes b r rfl waits hr
    have step := storeReleased_first waits hr
    refine ⟨fun free => next_of_pair (step.trans (if_neg ?_)), fun blocked => next_of_pair (step.trans (if_pos blocked))⟩
    rw [free]
    exact Bool.false_ne_true
  case syncStart =>
    rintro s dt b c rfl ⟨due, copies, now⟩ hc
    exact next_of_pair (congrArg (·, s.store) (fullSyncStart_due due copies now hc))
  case syncComplete =>
    rintro s dt q l m b c d e rfl ⟨sync, understudy, syncs, made, split⟩ hc hd he
    exact (exec_fullSyncComplete dt s).trans (next_withBlk (congrArg (announce _ · s.store)
      (fullSyncComplete_due sync understudy syncs made split hc hd he)))
  case syncTimeout =>
    rintro s dt b rfl ⟨syncs, late⟩
    obtain ⟨understudy, owner⟩ := syncTimeout_due syncs late
    exact ⟨fun two => next_withBlk (understudy two), fun other copies => next_withBlk (owner other copies)⟩

end Sys2Proof.Machine
end

