-- ==== Sys2Proof/Proofs/Ensembles.lean ====
section
/-!
O36: ensembles: beacons, membership, junctions, the lead, group cues at a common boundary, copies to a joining module and isolation (R362 to
R383).
-/

namespace Sys2Proof.Machine

section
variable {b : Blk}

/-! ### Beacons and membership -/

/-- A beacon that is due goes out by every port of the ensemble, with what has changed reported beside it. -/
theorem beaconSend_due {c d : Blk} (up : chnUp b 1 = true ∨ chnUp b 2 = true) (ring : inRing b = true)
    (due : b.ens.sentAt = 0 ∨ b.ens.sentAt + 10000 ≤ b.now)
    (hc : c = if inRing (ringSeen b) = true then (ringSeen b).wr F.ENS_BOUNDARY_TIME 0 (ensNext (ringSeen b)) else ringSeen b)
    (hd : d = forEach (ensPorts c) (fun p x => (chnExpress p 4 (byteWords (beaconBytes x p)) x).putEns
      { (chnExpress p 4 (byteWords (beaconBytes x p)) x).ens with
        tx := mset (chnExpress p 4 (byteWords (beaconBytes x p)) x).ens.tx p
          ((((chnExpress p 4 (byteWords (beaconBytes x p)) x).ens.seq, x.now + rdiv (x.rd F.CHN_LAT_TX p) 10) ::
            mgetD (chnExpress p 4 (byteWords (beaconBytes x p)) x).ens.tx p []).take 16) }) c) :
    beaconSend b = sendReports (d.putEns { d.ens with sentAt := d.now, seq := (d.ens.seq + 1) % 65536 }) := by
  have carried : (chnUp b 1 || chnUp b 2) = true := Bool.or_eq_true _ _ ▸ up
  have dueB : (b.ens.sentAt != 0 && Nat.blt b.now (b.ens.sentAt + 10000)) = false := by
    rcases due with never | late
    · rw [never]; rfl
    · rw [(blt_eq_false_iff ..).2 late, Bool.and_false]
  simp only [beaconSend, carried, ring, dueB, Bool.not_true, Bool.false_and, Bool.or_self, Bool.false_eq_true, if_false, ← hc]
  rw [hd]

/-- A beacon has 24 bytes. -/
theorem beaconBytes_length (b : Blk) (p : Nat) : (beaconBytes b p).length = 24 := by
  simp only [beaconBytes, List.length_append, leBytes_length, List.length_cons, List.length_nil]

section
variable {p : Nat} {q : Beacon} (on : b.on F.ENS_CFG_EN 0 = true) (up : ringUp b p = true) (ring : p = 1 ∨ p = 2)
include on up ring

/-- A member's beacon on a ring port is counted, heard, and sent on; its own does not come back. -/
theorem beaconRx_ring {mate : Option Nat} {c : Blk} (clk quality : Nat) (unc : Bool) (utc dco : Int) (other : q.pos ≠ ownPos b)
    (new_ : lastSeq b p q.pos ≠ some q.seq) (hc : c = countMember p q mate b) (stays : q.pos ≠ ownPos c)
    (state : ensState c = 1 ∨ ensState c = 2 ∨ ensState c = 3) :
    beaconRx p false q mate clk quality unc utc dco b = ringSeen (forwardBeacon p q (leadSays q c)) := by
  have notZero : (p == 0) = false := beq_false_of_ne (by omega)
  have low : Nat.blt 3 p = false := (blt_eq_false_iff ..).2 (by omega)
  have notThree : ¬ p = 3 := by omega
  have foreign : ¬ (q.pos = ownPos b ∧ ensState b = esMember) := fun own => other own.1
  have single : ¬ (q.pos = ownPos c ∧ inRing c = true) := fun own => stays own.1
  have carries : ¬ (ensState c = esRefused ∨ ensState c = esNone) := by
    rintro (refused | none_)
    · rw [refused] at state
      exact absurd state (by decide)
    · rw [none_] at state
      exact absurd state (by decide)
  simp only [beaconRx, on, up, notZero, low, Bool.not_true, Bool.or_self, Bool.false_eq_true, if_false, if_neg notThree, if_neg foreign,
    if_neg new_, ← hc, if_neg single, if_neg carries]

/-- A beacon with the SEQ last counted from its sender is dropped. -/
theorem beaconRx_repeat (mate : Option Nat) (clk quality : Nat) (unc : Bool) (utc dco : Int) (again : lastSeq b p q.pos = some q.seq) :
    beaconRx p false q mate clk quality unc utc dco b = b := by
  have notZero : (p == 0) = false := beq_false_of_ne (by omega)
  have low : Nat.blt 3 p = false := (blt_eq_false_iff ..).2 (by omega)
  have notThree : ¬ p = 3 := by omega
  simp only [beaconRx, on, up, notZero, low, Bool.not_true, Bool.or_self, Bool.false_eq_true, if_false, if_neg notThree, if_pos again,
    ite_self]

end

section
variable {p : Nat} {x : Member} (heard : mget b.ens.members p = some x)
include heard

/-- A member not heard for 40 µs is gone with its reports; the lead's loss ends its measurements, and the relay is laid anew. -/
theorem memberLost_due {c d f : Blk} (late : x.heardAt + 40000 ≤ b.now) (other : p ≠ ownPos b)
    (hc : c = b.putEns { b.ens with
      members := mdel b.ens.members p
      changedAt := b.now
      reports := b.ens.reports.filter fun e => e.1 / 16384 != p })
    (hd : d = if inRing c = true then raise ensPage 0x101 sevWarning (p + 8 * b2n x.beacon.ejecting) (evB 0) c else c)
    (hf : f = if d.ens.lead = some p then peerLost 7 d else d) : memberLost p b = relayReroute true f.ens.subs (ringSeen f) := by
  have own : ownPos c = ownPos b := by rw [hc]; rfl
  have other' : ¬ p = ownPos c := own ▸ other
  simp only [memberLost, memberGone, heard, if_neg (Nat.not_lt.2 late), ← hc, if_neg other', ensEvent, ← hd, ← hf]

/-- A member heard within 40 µs stays. -/
theorem memberLost_early (early : b.now < x.heardAt + 40000) : memberLost p b = b := by
  simp only [memberLost, heard, if_pos early]

end

section
variable (on : b.on F.ENS_CFG_EN 0 = true) (up : chnUp b 1 = true ∨ chnUp b 2 = true) (none_ : ensState b = 0)
include on up none_

/-- A module with a ring port up joins, unless its position is on the ring already. -/
theorem ringJoin_joins : ringJoin b = if (mget b.ens.members (ownPos b)).isSome then
      raise ensPage 0x106 sevWarning (ownPos b) (evB 3) (b.wr F.ENS_STAT_STATE 0 4)
    else (b.wr F.ENS_STAT_STATE 0 1).putEns { b.ens with joinedAt := b.now, changedAt := b.now } := by
  have carried : (chnUp b 1 || chnUp b 2) = true := Bool.or_eq_true _ _ ▸ up
  have notMember : ¬ ensState b = esMember := by rw [none_]; decide
  have notRefused : ¬ ensState b = esRefused := by rw [none_]; decide
  simp only [ringJoin, on, carried, Bool.not_true, Bool.or_self, Bool.false_eq_true, if_false, if_neg notMember, refuseDuplicate,
    if_neg notRefused, ensEvent, if_pos (Or.inl none_)]

end

/-! ### Junctions -/

section
variable {peer : Bool} (up : chnUp b 3 = true) (ring : inRing b = true)
include up ring

/-- The end of a junction with its uplink becomes the anchor of its ring, one level beneath. -/
theorem junctionForm_anchor {c : Blk} (open_ : b.ens.junction = 0 ∨ b.ens.junction = 3) (fits : junctionRefusal peer b = 0)
    (uplink : b.on F.ENS_CFG_UPLINK 0 = true)
    (hc : c = ((b.wr F.ENS_STAT_ANCHOR 0 1).wr F.ENS_STAT_LEVEL 0 (bits (b.rd F.CHN_PEER_WORD 3 5) 24 8 + 1)).wr F.ENS_STAT_LEAD 0 0) :
    junctionForm peer b = selectorDue ((c.wr F.ENS_STAT_LEAD_POS 0 (ownPos b)).putEns { b.ens with
      junction := 2
      refusedWhy := 0
      lead := none }) := by
  have unformed : ¬ (b.ens.junction = 1 ∨ b.ens.junction = 2) := by omega
  have own (v : Nat) : ownPos ((b.wr F.ENS_STAT_ANCHOR 0 1).wr F.ENS_STAT_LEVEL 0 v) = ownPos b := by
    rw [ownPos, Blk.rd_wr_ne _ _ _ _ _ _ _ _ (by decide), Blk.rd_wr_ne _ _ _ _ _ _ _ _ (by decide), ownPos]
  have ens (v w : Nat) : ((((b.wr F.ENS_STAT_ANCHOR 0 1).wr F.ENS_STAT_LEVEL 0 v).wr F.ENS_STAT_LEAD 0 0).wr F.ENS_STAT_LEAD_POS 0 w).ens =
      b.ens := rfl
  rw [hc]
  simp only [junctionForm, up, ring, Bool.not_true, Bool.or_self, Bool.false_eq_true, if_false, if_neg unformed, fits, ne_eq,
    not_true_eq_false, uplink, if_true, own, ens]

/-- A junction that is refused for a cause not yet told tells it. -/
theorem junctionForm_refused {why : Nat} (open_ : b.ens.junction = 0) (refuses : junctionRefusal peer b = why) (cause : why ≠ 0)
    (first : b.ens.refusedWhy ≠ why) :
    junctionForm peer b = raise ensPage 0x107 sevWarning why (evB 3) (b.putEns { b.ens with junction := 3, refusedWhy := why }) := by
  have unformed : ¬ (b.ens.junction = 1 ∨ b.ens.junction = 2) := by omega
  simp only [junctionForm, up, ring, Bool.not_true, Bool.or_self, Bool.false_eq_true, if_false, if_neg unformed, refuses, if_pos cause,
    if_neg first, ensEvent]

end

/-! ### The lead -/

section
variable (ring : inRing b = true) (settled : b.ens.changedAt + b.rd F.ENS_CFG_SETTLE 0 * 1000000 ≤ b.now) (top : beneath b = false)
  (settles : ensState b = 1)
include ring settled top settles

/-- Without a lead in office the lowest candidate leads, and the module is a member. -/
theorem leadElection_elects {p : Nat} {l : List Nat}
    (vacant : (b.ens.members.find? fun e => e.2.beacon.lead && e.1 != ownPos b) = none) (lowest : candidates b = p :: l) :
    leadElection b = becomeMember (setLead (pairActive b p) b) := by
  simp only [leadElection, ring, Bool.not_true, Bool.false_eq_true, if_false, if_neg (Nat.not_lt.2 settled), top, if_pos settles, vacant,
    lowest]

/-- A lead that is heard stays, and the module is copied to. -/
theorem leadElection_copies {e : Nat × Member}
    (office : (b.ens.members.find? fun x => x.2.beacon.lead && x.1 != ownPos b) = some e) :
    leadElection b = beginCopy (setLead e.1 b) := by
  simp only [leadElection, ring, Bool.not_true, Bool.false_eq_true, if_false, if_neg (Nat.not_lt.2 settled), top, if_pos settles, office]

end

/-- The candidates stand in ascending order. -/
theorem candidates_sorted (b : Blk) : (candidates b).Pairwise (· < ·) :=
  List.Pairwise.filter _ (List.Pairwise.filter _ List.pairwise_lt_range)

/-- The first candidate is the lowest. -/
theorem candidates_lowest {p : Nat} {l : List Nat} (first : candidates b = p :: l) : ∀ q ∈ candidates b, p ≤ q := by
  have sorted := candidates_sorted b
  rw [first, List.pairwise_cons] at sorted
  rw [first]
  rintro q (_ | ⟨_, later⟩)
  · exact le_rfl
  · exact (sorted.1 q later).le

/-! ### Group cues at a common boundary -/

/-- The armed groups are checked from 50 µs before the boundary on. -/
theorem ensCueCheck_member (member : ensState b = 3) :
    (ensNext b ≤ b.now ∨ b.now + 50000 < ensNext b → ensCueCheck b = b) ∧
      (b.now < ensNext b → ensNext b ≤ b.now + 50000 →
        ensCueCheck b = forEach (ensArmed b (ensNext b)) (ensCheckOne (ensNext b)) b) := by
  refine ⟨fun outside => if_pos (Or.inr outside), fun before near => if_neg ?_⟩
  rintro (other | past | far)
  · exact other member
  · exact Nat.not_le.2 before past
  · exact Nat.not_lt.2 near far

/-- A member other than the lead notes the verdict on the first group without one. -/
theorem ensCueResult_member {refusers r : Nat} {q : GCheck} {c d : Blk}
    (open_ : (b.ens.checks.find? fun x => x.verdict.isNone) = some q)
    (hr : r = Nat.lor (refusers % 256) (if q.ok = true then 0 else 2 ^ ownPos b))
    (hc : c = b.putEns { b.ens with
      checks := b.ens.checks.map fun x => if x.group = q.group then { x with verdict := some (r == 0) } else x })
    (hd : d = ((c.wr F.ENS_GCUE_LAST_GROUP 0 q.group).wr F.ENS_GCUE_LAST_REFUSERS 0 r).put F.ENS_GCUE_LAST_REFUSED 0 (r != 0))
    (follows : isLead d = false) : ensCueResult refusers b = d := by
  simp only [ensCueResult, open_, ← hr, ← hc, ← hd, follows, Bool.false_eq_true, if_false]

/-! ### Joining and isolation -/

/-- A copy that is complete is dated, and taken at its boundary. -/
theorem joinCopyDone_first {c : Blk} (copies : ensState b = 2) (first : b.ens.copied = none)
    (hc : c = b.putEns { b.ens with copied := some (Nat.max b.now b.ens.boundary) }) : joinCopyDone b = joinAtBoundary c := by
  simp only [joinCopyDone, if_neg (not_not_intro copies), first, Option.isSome_none, Bool.false_eq_true, if_false, ← hc]

/-- The module becomes a member at the boundary after its copy, and not before. -/
theorem joinAtBoundary_copied {t : Nat} {c : Blk} (copied : b.ens.copied = some t) (copies : ensState b = 2)
    (hc : c = becomeMember (b.putEns { b.ens with copied := none })) : joinAtBoundary b =
      if t ≤ b.now then raise ensPage 0x100 sevNotice (ownPos c + 8 * c.rd F.ENS_STAT_LEVEL 0) (evB 0) c else b := by
  simp only [joinAtBoundary, copied, ensEvent, ← hc]
  by_cases due : t ≤ b.now
  · rw [if_pos due, if_pos ⟨copies, due⟩]
  · rw [if_neg due, if_neg fun both => due both.2]

/-- A member that hears no lead is isolated, and its part of the ring takes the lowest candidate. -/
theorem ringIsolated_elects {l p : Nat} {t : List Nat} {c : Blk} (lead : b.ens.lead = some l) (member : ensState b = 3)
    (first : b.on F.ENS_STAT_ISOLATED 0 = false) (other : l ≠ ownPos b) (gone : mget b.ens.members l = none)
    (hc : c = raise ensPage 0x105 sevError ((b.wr F.ENS_STAT_ISOLATED 0 1).rd F.ENS_STAT_MEMBERS 0) (evB 3)
      (b.wr F.ENS_STAT_ISOLATED 0 1)) (lowest : candidates c = p :: t) : ringIsolated b = setLead (pairActive c p) c := by
  have isolated : ensState b = esMember ∧ (!b.on F.ENS_STAT_ISOLATED 0) = true ∧ l ≠ ownPos b ∧ (mget b.ens.members l).isNone = true :=
    ⟨member, by rw [first]; rfl, other, by rw [gone]; rfl⟩
  simp only [ringIsolated, lead, if_pos isolated, ensEvent, ← hc, lowest]

end

/-- Settles O36, from what beacons, membership, junctions, the lead and the common boundary do. -/
theorem ensembleCommands : Obligations.EnsembleCommands := by
  unfold Obligations.EnsembleCommands
  refine ⟨?send, beaconBytes_length, ?heard, ?again, ?lost, ?still, ?joined, ?anchor, ?refused, ?elected, fun b p l first =>
    candidates_lowest first, ?office, ?check, ?result, ?copyDone, fun t b c ⟨copied, copies⟩ hc => ?atBoundary, ?isolated⟩
  case send =>
    rintro s dt b c d rfl ⟨up, ring, due⟩ hc hd
    exact next_withBlk (beaconSend_due up ring due hc hd)
  case heard =>
    rintro s dt p quality clk q mate unc utc dco b c rfl ⟨on, up, ring, other, new_⟩ hc ⟨stays, state⟩
    exact next_withBlk (beaconRx_ring on up ring clk quality unc utc dco other new_ hc stays state)
  case again =>
    rintro s dt p quality clk q mate unc utc dco b rfl ⟨on, up, ring, again⟩
    exact next_withBlk (beaconRx_repeat on up ring mate clk quality unc utc dco again)
  case lost =>
    rintro s dt p x b c d rfl ⟨heard, late, other⟩ hc hd
    exact ⟨_, rfl, next_withBlk (memberLost_due heard late other hc hd rfl)⟩
  case still =>
    rintro s dt p x b rfl ⟨heard, early⟩
    exact next_withBlk (memberLost_early heard early)
  case joined =>
    rintro s dt b rfl ⟨on, up, none_⟩
    have joins := ringJoin_joins on up none_
    refine ⟨fun single => next_withBlk (joins.trans (if_neg ?_)), fun twice => next_withBlk (joins.trans (if_pos ?_))⟩
    · rw [single]
      exact Bool.false_ne_true
    · exact Option.isSome_iff_ne_none.2 twice
  case anchor =>
    rintro s dt peer b c rfl ⟨up, ring, open_, fits, uplink⟩ hc
    exact next_withBlk (junctionForm_anchor up ring open_ fits uplink hc)
  case refused =>
    rintro s dt why peer b rfl ⟨up, ring, open_, refuses, cause, first⟩
    exact next_withBlk (junctionForm_refused up ring open_ refuses cause first)
  case elected =>
    rintro s dt p l b rfl ⟨ring, settled, top, settles⟩ ⟨vacant, lowest⟩
    exact next_withBlk (leadElection_elects ring settled top settles vacant lowest)
  case office =>
    rintro s dt e b rfl ⟨ring, settled, top, settles⟩ office
    exact next_withBlk (leadElection_copies ring settled top settles office)
  case check =>
    rintro s dt b rfl member
    obtain ⟨outside, near⟩ := ensCueCheck_member member
    exact ⟨fun out => next_withBlk (outside out), fun before close_ => next_withBlk (near before close_)⟩
  case result =>
    rintro s dt refusers r q b c rfl open_ hr hc follows
    exact next_withBlk (ensCueResult_member open_ hr hc rfl follows)
  case copyDone =>
    rintro s dt b c rfl ⟨copies, first⟩ hc
    exact next_withBlk (joinCopyDone_first copies first hc)
  case atBoundary =>
    have joins := joinAtBoundary_copied copied copies hc
    exact ⟨fun early => joins.trans (if_neg (Nat.not_le.2 early)), fun due => joins.trans (if_pos due)⟩
  case isolated =>
    rintro s dt l p t b c rfl ⟨lead, member, first, other, gone⟩ hc lowest
    exact next_withBlk (ringIsolated_elects lead member first other gone hc lowest)

end Sys2Proof.Machine
end

