-- ==== Sys2Proof/Proofs/References.lean ====
section
/-!
O37: references: PTP messages and time-outs, house sync, 10 MHz and pulses, qualification, loss and jumps (R272 to R277).
-/

namespace Sys2Proof.Machine

section
variable {b : Blk}

/-! ### PTP -/

section
variable {k : Nat} (low : k < 4) (on : rr b F.CLK_REF_CFG_EN k = 1)
include low on

/-- A Sync message of the master followed is measured with the time stamp of its port. -/
theorem ptpSync_heard {c : Blk} {t2 : Int} {x : RefSt} (t1 adjust dco : Int) (led : (b.ref k).master ≠ none)
    (up : b.on F.NIF_STAT_LINK (ptpPort b k) = true) (ht : t2 = (b.port (ptpPort b k)).ptpStamp)
    (hx : x = { b.ref k with
      sync := some (t1, t2)
      syncNew := true
      syncAt := b.now
      syncGap := if (b.ref k).syncAt = 0 then 0 else b.now - (b.ref k).syncAt }) (hc : c = b.putRef k x) :
    ptpSync k t1 adjust dco b =
      clkRefresh (completeExchange k (measured k (lessDelay b k (t1 + x.mpd - t2 + adjust)) dco c)) := by
  have heard : ¬ (4 ≤ k ∨ rr b F.CLK_REF_CFG_EN k = 0 ∨ (b.ref k).master = none ∨ (!linkUp b (ptpPort b k)) = true) := by
    rintro (high | off | none_ | down)
    · omega
    · omega
    · exact led none_
    · rw [linkUp, up] at down
      exact absurd down (by decide)
  rw [ptpSync, if_neg heard, hc, hx, ht]

/-- A Delay_Req goes to the master alone where the profile and its unicast bit say so. -/
theorem delayReq_asked (dt m : Nat) (s : State) (hb : b = s.blk.tick dt) {c : Blk} (led : (b.ref k).master = some m)
    (up : b.on F.NIF_STAT_LINK (ptpPort b k) = true) (hc : c = b.putRef k { b.ref k with dreqAt := some b.now }) :
    execPtpDelayReq dt k s = .next (s.withBlk (c.emit (.net (rr c F.CLK_REF_PTP_NIF k) 5 [rr c F.CLK_REF_PTP_DOMAIN k,
      if rr b F.CLK_REF_PTP_PROFILE k = 0 ∧ rr b F.CLK_REF_PTP_DREQ_UNICAST k = 1 then m else 0, c.now,
      rr c F.CLK_REF_PTP_TRANSPORT k]))) := by
  have asks : ¬ (4 ≤ k ∨ rr b F.CLK_REF_CFG_EN k = 0 ∨ (!linkUp b (ptpPort b k)) = true) := by
    rintro (high | off | down)
    · omega
    · omega
    · rw [linkUp, up] at down
      exact absurd down (by decide)
  rw [execPtpDelayReq, eff_next, set_blk, ← hb]
  simp only [if_neg asks, ← hc]
  rw [led]

/-- The first Announce message of a sender makes it known; no master is followed yet. -/
theorem ptpAnnounce_first (a : Announce) (empty : (b.ref k).masters = []) (free : (b.ref k).master = none)
    (heard : announceHeard b k a = true) :
    ptpAnnounce k a b = clkRefresh (b.putRef k { b.ref k with masters := [⟨a, b.now, none⟩] }) := by
  have takes : ¬ (4 ≤ k ∨ rr b F.CLK_REF_CFG_EN k = 0 ∨ (!announceHeard b k a) = true) := by
    rintro (high | off | deaf)
    · omega
    · omega
    · rw [heard] at deaf
      exact absurd deaf (by decide)
  have unknown : [].find? (fun (m : Foreign) => m.ann.sender == a.sender) = none := rfl
  have best : bestMaster b.now [⟨a, b.now, none⟩] = none := rfl
  simp only [ptpAnnounce, if_neg takes, empty, unknown, List.length_nil, if_pos (by decide : 0 < 8), List.nil_append, best,
    Option.map_none, free, bne_self_eq_false, Bool.false_eq_true, if_false]

end

/-- A disabled reference, one above REF3, one that follows no master or whose port has no link hears no Sync message. -/
theorem ptpSync_deaf {k : Nat} (t1 adjust dco : Int) (deaf : 4 ≤ k ∨ rr b F.CLK_REF_CFG_EN k = 0 ∨ (b.ref k).master = none ∨
    b.on F.NIF_STAT_LINK (ptpPort b k) = false) : ptpSync k t1 adjust dco b = b := by
  rw [ptpSync, if_pos]
  rwa [linkUp, Bool.not_eq_true']

/-- A Delay_Resp completes the pair begun by its Delay_Req. -/
theorem ptpDelayResp_pair {k t3 : Nat} {t1 t2 : Int} (t4 : Int) (asked : (b.ref k).dreqAt = some t3)
    (synced : (b.ref k).sync = some (t1, t2)) :
    ptpDelayResp k t4 b = clkRefresh (completeExchange k (b.putRef k { b.ref k with
      dreqAt := none
      pairNew := true
      mpd := ((t2 - t1) + (t4 - t3)) / 2 })) := by
  simp only [ptpDelayResp, asked, synced]

/-! ### Measurements -/

/-- A jump of the reference in use while LOCKED starts the hold and does not reach the loop. -/
theorem measured_holds {c : Blk} {k : Nat} {off : Int} (dco : Int)
    (hc : c = noteLocked (wrInt F.CLK_REF_OFFSET_OFFSET (k + 1) off (b.putRef k { b.ref k with
      offs := ((b.now, off) :: (b.ref k).offs).take 256 })))
    (used : refInUse c = some k) (locked : clkState c = 3) (far : stepT c < off.natAbs) (first : c.clk.jumpAt = none) :
    measured k off dco b = { c with clk := { c.clk with jumpAt := some c.now } } := by
  have loops : ¬ (refInUse c ≠ some k ∨ (clkState c ≠ ckLocked ∧ clkState c ≠ ckAcquiring)) := by
    rintro (other | ⟨open_, -⟩)
    · exact other used
    · exact open_ locked
  simp only [measured, ← hc, if_neg loops, if_pos (And.intro locked far), if_pos first]

/-- A good frame of house sync sets the quality configured, begins the time of R276 and is measured. -/
theorem houseSync_good {c : Blk} {q : Nat} (filtered dco : Int) (on : rr b F.CLK_REF_CFG_EN 4 = 1)
    (hq : q = rr b F.CLK_REF_CFG_QUALITY 4) (hc : c = setQuality 4 q (q / 16) (q % 16) (b.putRef 4 { b.ref 4 with missing := 0 })) :
    houseSync true filtered dco b = clkRefresh (measured 4
      (reduceBy (lessDelay c 4 filtered) (houseFrame (rr c F.CLK_REF_IN_FORMAT 4))) dco (refOk 4 c)) := by
  rw [hc, hq]
  simp only [houseSync, on, Nat.one_ne_zero, if_false, if_true]

/-- A missing frame is counted: the fourth in a row ends the qualification. -/
theorem houseSync_missing {c : Blk} (filtered dco : Int) (on : rr b F.CLK_REF_CFG_EN 4 = 1)
    (hc : c = b.putRef 4 { b.ref 4 with missing := (b.ref 4).missing + 1 }) :
    houseSync false filtered dco b = clkRefresh (if 4 ≤ (b.ref 4).missing + 1 then disqualify 4 1 c
      else if (b.ref 4).qualified = true then c else refBroken 4 c) := by
  simp only [houseSync, on, Nat.one_ne_zero, Bool.false_eq_true, if_false, ← hc]

/-- 10 MHz that is lost ends the qualification of REF5. -/
theorem f10mLoss_lost (dco : Int) :
    f10mLoss true dco b = clkRefresh (disqualify 5 1 (b.putRef 5 { b.ref 5 with tenMHz := false })) := by
  simp only [f10mLoss, Bool.not_true, if_true]

/-- 10 MHz that is back is measured with offset 0 where REF5 is enabled without PPS, and else only noted. -/
theorem f10mLoss_back {c : Blk} (dco : Int) (hc : c = b.putRef 5 { b.ref 5 with tenMHz := true }) :
    (rr c F.CLK_REF_CFG_EN 5 = 1 → ppsEn c = false → f10mLoss false dco b = clkRefresh (measured 5 0 dco (f10mOk c))) ∧
      (rr c F.CLK_REF_CFG_EN 5 = 0 ∨ ppsEn c = true → f10mLoss false dco b = c) := by
  simp only [f10mLoss, Bool.not_false, Bool.false_eq_true, if_false, ← hc, Bool.not_eq_true']
  refine ⟨fun on plain => if_pos ⟨on, plain⟩, fun other => if_neg ?_⟩
  rintro ⟨on, plain⟩
  rcases other with off | pps
  · omega
  · rw [pps] at plain
    exact absurd plain (by decide)

/-- A count of 10 MHz periods within one of ten million makes the pulse good. -/
theorem ppsPulse_good {c : Blk} {count q : Nat} (filtered dco : Int) (on : rr b F.CLK_REF_CFG_EN 5 = 1) (pps : ppsEn b = true)
    (beat : (b.ref 5).tenMHz = true) (hq : q = rr b F.CLK_REF_CFG_QUALITY 5) (low : 9999999 ≤ count) (high : count ≤ 10000001)
    (hc : c = setQuality 5 q (q / 16) (q % 16) (b.putRef 5 { b.ref 5 with
      pulseAt := b.now
      off := 0 })) :
    ppsPulse count filtered dco b =
      clkRefresh (measured 5 (reduceBy (lessDelay c 5 filtered) (1, 1)) dco (refOk 5 c)) := by
  have good : (Nat.ble 9999999 count && Nat.ble count 10000001) = true := by rw [Nat.ble_eq.mpr low, Nat.ble_eq.mpr high]; rfl
  have stays (x : RefSt) : rr (b.putRef 5 x) F.CLK_REF_CFG_QUALITY 5 = rr b F.CLK_REF_CFG_QUALITY 5 := rfl
  simp only [ppsPulse, stays, good, if_true, ← hq, ← hc]
  rw [if_neg]
  simp only [on, pps, beat, Nat.one_ne_zero, Bool.not_true, Bool.false_eq_true, or_self, not_false_eq_true]

/-! ### Qualification, loss and jumps -/

/-- A reference whose conditions have held for its time is qualified; a run of the selector is due if none is in use. -/
theorem refQualified_due {c : Blk} {k t : Nat} (since : (b.ref k).okSince = some t) (on : rr b F.CLK_REF_CFG_EN k = 1)
    (new_ : (b.ref k).qualified = false) (steady : rr b F.CLK_REF_STAT_DRIFT_DQ k = 0)
    (due : t + (if 6 ≤ k then 1000000000 else rr b F.CLK_REF_TOL_QUAL_T k * 1000000000) ≤ b.now)
    (hc : c = setEvt (refPage k) (evB 0) (raise clkPage 0x108 sevInfo k 0 (b.putRef k { b.ref k with
      qualified := true
      ys := [] }))) :
    refQualified k b = clkRefresh (if refInUse c = none then { c with clk := { c.clk with runDue := true } } else c) := by
  have open_ : (!(b.ref k).qualified) = true := by rw [new_]; rfl
  simp only [refQualified, clkEvent, ← hc]
  simp only [since, if_pos (And.intro on (And.intro open_ (And.intro due steady)))]

/-- A qualified reference that is disqualified counts a loss and says why; one in use makes a run of the selector due. -/
theorem disqualify_qualified {c d : Blk} {k cause : Nat} (qualified : (b.ref k).qualified = true) (said : cause ≠ 0)
    (hc : c = (b.putRef k { b.ref k with
      okSince := none
      qualified := false }).bump F.CLK_REF_COUNT_LOSSES (k + 1))
    (hd : d = setEvt (refPage k) (evB 1) (raise clkPage 0x109 (if (refInUse c == some k) = true then sevWarning else sevNotice)
      (k + 8 * cause) 0 c)) :
    disqualify k cause b = if (refInUse c == some k) = true then
      { d with clk := { d.clk with
        runDue := true
        lost := true } } else d := by
  have listed : (!(b.ref k).qualified) = false := by rw [qualified]; rfl
  simp only [disqualify, clkEvent, listed, Bool.false_eq_true, if_false, if_neg said, ← hc, ← hd]

end

/-! ### The obligation -/

/-- Settles O37, by the model's function for each message, signal and time-out of a reference. -/
theorem referenceCommands : Obligations.ReferenceCommands := by
  unfold Obligations.ReferenceCommands
  refine ⟨?sync, ?deaf, ?held, ?asked, ?pair, ?first, ?silent, ?exchange, ?good, ?missing, ?lost, ?back, ?pulse, ?quiet,
    ?qualified, ?disqualified, ?jump, ?timeout⟩
  case sync =>
    rintro s dt k t1 t2 adjust dco b c x rfl ⟨low, on, led, up⟩ ht hx hc
    exact next_withBlk (ptpSync_heard low on t1 adjust dco led up ht hx hc)
  case deaf =>
    rintro s dt k t1 adjust dco b rfl deaf
    exact next_withBlk (ptpSync_deaf t1 adjust dco deaf)
  case held =>
    rintro k off dco b c hc ⟨used, locked, far, first⟩
    exact measured_holds dco hc used locked far first
  case asked =>
    rintro s dt k m b c hb ⟨low, on, led, up⟩ hc
    exact delayReq_asked low on dt m s hb led up hc
  case pair =>
    rintro s dt k t3 t1 t2 t4 b rfl ⟨asked, synced⟩
    exact next_withBlk (ptpDelayResp_pair t4 asked synced)
  case first =>
    rintro s dt k a b rfl ⟨low, on, empty, free, heard⟩
    exact next_withBlk (ptpAnnounce_first low on a empty free heard)
  case silent =>
    intro s dt k m b hb followed
    change (_ → execAnnounceTimeout .. = _) ∧ (_ → execAnnounceTimeout .. = _)
    rw [execAnnounceTimeout, eff_next, set_blk, ← hb]
    simp only [followed]
    exact ⟨fun due => next_withBlk (if_pos due), fun early => next_withBlk (if_neg (Nat.not_le.2 early))⟩
  case exchange =>
    intro s dt k b hb low
    change (_ → execExchangeTimeout .. = _) ∧ (_ → execExchangeTimeout .. = _)
    rw [execExchangeTimeout, eff_next, set_blk, ← hb]
    exact ⟨fun due => next_withBlk (if_pos ⟨low, due⟩), fun early => next_withBlk (if_neg fun h => Nat.not_le.2 early h.2)⟩
  case good =>
    rintro s dt q filtered dco b c rfl ⟨on, hq⟩ hc
    exact next_withBlk (houseSync_good filtered dco on hq hc)
  case missing =>
    rintro s dt filtered dco b c rfl on hc
    exact next_withBlk (houseSync_missing filtered dco on hc)
  case lost =>
    rintro s dt dco b rfl
    exact next_withBlk (f10mLoss_lost dco)
  case back =>
    rintro s dt dco b c rfl hc
    obtain ⟨plain, else_⟩ := f10mLoss_back dco hc
    exact ⟨fun on off => next_withBlk (plain on off), fun other => next_withBlk (else_ other)⟩
  case pulse =>
    rintro s dt count q filtered dco b c rfl ⟨on, pps, beat⟩ ⟨hq, low, high⟩ hc
    exact next_withBlk (ppsPulse_good filtered dco on pps beat hq low high hc)
  case quiet =>
    intro s dt b hb pps
    change (_ → execPpsTimeout .. = _) ∧ (_ → execPpsTimeout .. = _)
    rw [execPpsTimeout, eff_next, set_blk, ← hb]
    simp only [pps, Bool.true_and, Nat.ble_eq]
    exact ⟨fun due => next_withBlk (if_pos due), fun early => next_withBlk (if_neg (Nat.not_le.2 early))⟩
  case qualified =>
    rintro s dt k t b c rfl ⟨since, on, new_, steady⟩ due hc
    exact next_withBlk (refQualified_due since on new_ steady due hc)
  case disqualified =>
    intro s dt k cause freq a b c d ha hb ⟨holds, qualified, said⟩ hc hd
    change execRefDisqualified .. = _
    rw [execRefDisqualified, eff_next, set_blk, ← ha]
    simp only [← hb, holds, if_true]
    exact next_withBlk (congrArg clkRefresh (disqualify_qualified qualified said hc hd))
  case jump =>
    intro s dt b hb
    change (_ → _ → execRefJump .. = _) ∧ (_ → execRefJump .. = _)
    rw [execRefJump, eff_next, set_blk, ← hb]
    refine ⟨fun jumps none_ => next_withBlk (if_pos ?_), fun calm => next_withBlk (if_neg ?_)⟩
    · rw [jumps, none_]
      rfl
    · rw [calm]
      exact Bool.false_ne_true
  case timeout =>
    intro s dt t k b hb ⟨since, used, jumps⟩
    change (_ → execJumpTimeout .. = _) ∧ (_ → execJumpTimeout .. = _)
    rw [execJumpTimeout, eff_next, set_blk, ← hb]
    simp only [since, used, jumps, true_and]
    exact ⟨fun due => next_withBlk (if_pos due), fun early => next_withBlk (if_neg (Nat.not_le.2 early))⟩

end Sys2Proof.Machine
end

