-- ==== Sys2Proof/Proofs/Clock.lean ====
section
/-!
O38: the selector, clock states, steps of stage time, holdover, learning, the drift guard, time of day and leap seconds (R278 to R298).
-/

namespace Sys2Proof.Machine

section
variable {b : Blk}

/-! ### The selector and the clock's states -/

/-- What the selector chooses by its mode: nothing in modes 2 and 3, the reference forced in mode 1, and in mode 0 the ring for a member
that does not lead, or else the lowest PRIORITY. -/
theorem choose_by_mode (b : Blk) (left cands : List Nat) :
    (2 ≤ b.rd F.CLK_CFG_MODE 0 → choose b left cands = (none, 4)) ∧
    (b.rd F.CLK_CFG_MODE 0 = 1 → cands.contains (b.rd F.CLK_CFG_FORCE_REF 0) = true →
      choose b left cands = (some (b.rd F.CLK_CFG_FORCE_REF 0), 4)) ∧
    (b.rd F.CLK_CFG_MODE 0 = 1 → cands.contains (b.rd F.CLK_CFG_FORCE_REF 0) = false → choose b left cands = (none, 4)) ∧
    (b.rd F.CLK_CFG_MODE 0 = 0 → isMember b = true → isLead b = false → cands.contains 7 = true → choose b left cands = (some 7, 5)) ∧
    (b.rd F.CLK_CFG_MODE 0 = 0 → isMember b = false → b.rd F.SYS_ROLE_ROLE 0 ≠ 2 → choose b left cands = (byPriority b left, 2)) := by
  have notHigh : ¬ 2 ≤ 1 := by decide
  have notLow : ¬ 2 ≤ 0 := by decide
  refine ⟨fun high => if_pos high, fun one forced => ?_, fun one absent => ?_, fun auto member other seven => ?_, fun auto single role => ?_⟩
  · simp only [choose, one, if_neg notHigh, if_true, forced]
  · simp only [choose, one, if_neg notHigh, if_true, absent, Bool.false_eq_true, if_false]
  · simp only [choose, auto, if_neg notLow, Nat.zero_ne_one, if_false, member, other, seven, Bool.not_false, Bool.and_self, if_true]
  · simp only [choose, auto, if_neg notLow, Nat.zero_ne_one, if_false, single, beq_false_of_ne role, Bool.false_and, Bool.false_eq_true]

/-- The oven is ready: a clock in WARMUP runs free, and pulls in at once if a reference is in use in mode 0 or 1. -/
theorem ocxoReady_warmup {c : Blk} (hc : c = setClock 1 (b.wr F.CLK_OCXO_WARM 0 1)) (warm : clkState (b.wr F.CLK_OCXO_WARM 0 1) = 0) :
    ocxoReady b = clkRefresh (if (refInUse c).isSome = true ∧ c.rd F.CLK_CFG_MODE 0 < 2 then setClock 2 c else c) := by
  rw [hc, ocxoReady, if_pos warm]

/-- The clock pulls in once for each entry into ACQUIRING: it steps where STEP_EN allows and the offset asks for it, and PTP and the
partners make the time of day valid. -/
theorem pullIn_ready {c : Blk} {k : Nat} {off : Int} (used : refInUse b = some k) (acquiring : clkState b = 2)
    (first : b.clk.pulled = false) (ready : if k < 4 then 4 ≤ (b.ref k).since else b.clk.acqAt + 1000000000 ≤ b.now)
    (ho : off = rdInt b F.CLK_REF_OFFSET_OFFSET (k + 1)) (hc : c = { b with clk := { b.clk with pulled := true } }) :
    pullIn b = clkRefresh (let d := if b.on F.CLK_CFG_STEP_EN 0 = true ∧ stepT b < off.natAbs then stageStep off c else c
      if k < 4 ∨ 6 ≤ k then d.wr F.CLK_STAT_TOD_VALID 0 1 else d) := by
  have readyB : (if k < 4 then Nat.ble 4 (b.ref k).since else Nat.ble (b.clk.acqAt + 1000000000) b.now) = true := by
    split_ifs at ready ⊢
    · exact Nat.ble_eq.mpr ready
    · exact Nat.ble_eq.mpr ready
  have goes : ¬ (clkState b ≠ ckAcquiring ∨ b.clk.pulled = true ∨
      (!if k < 4 then Nat.ble 4 (b.ref k).since else Nat.ble (b.clk.acqAt + 1000000000) b.now) = true) := by
    rw [readyB, first]
    rintro (other | again | early)
    · exact other acquiring
    · exact absurd again (by decide)
    · exact absurd early (by decide)
  have same : c.on F.CLK_CFG_STEP_EN 0 = b.on F.CLK_CFG_STEP_EN 0 := by rw [hc]; rfl
  have limit : stepT c = stepT b := by rw [hc]; rfl
  simp only [pullIn, used, if_neg goes, ← hc, ← ho, same, limit, Bool.and_eq_true, Nat.blt_eq]

/-- A step moves a frame's arrival and its basis, and leaves the time of its capture. -/
theorem frame_shift (d : Int) (f : Frame) (t : Nat) :
    (f.shift d).arr = shiftT d f.arr ∧ (f.shift d).basis = shiftT d f.basis ∧ (f.shift d).cap = f.cap ∧
      (0 ≤ d → shiftT d t = t + d.toNat) ∧ (d < 0 → shiftT d t = t - (-d).toNat) := by
  have moved : shiftT d t = ((t : Int) + d).toNat := rfl
  refine ⟨rfl, rfl, rfl, fun later => ?_, fun earlier => ?_⟩
  · omega
  · omega

/-! ### Holdover and learning -/

/-- Every second of holdover the DCO follows its prediction and the time elapsed is reported. -/
theorem holdoverUpdate_due {c : Blk} (held : clkState b = 4 ∨ clkState b = 5) (due : b.clk.updAt + 1000000000 ≤ b.now)
    (hc : c = { b with clk := { b.clk with updAt := b.now } }) :
    holdoverUpdate b = (setDco (rdInt b F.CLK_DCO_HO_FREQ 0 + comp b (ocxoTemp b) - comp b b.clk.hoTemp
      + ageing b (b.now - b.clk.hoAt)) c).wr F.CLK_HO_TIME_INTERVAL 0 (Nat.min (2 ^ 24 - 1) ((b.now - b.clk.hoAt) / 1000000000)) := by
  have updates : ¬ ((clkState b ≠ ckHoldover ∧ clkState b ≠ ckExpired) ∨ b.now < b.clk.updAt + 1000000000) := by
    rintro (⟨notHeld, notExpired⟩ | early)
    · exact held.elim notHeld notExpired
    · omega
  simp only [holdoverUpdate, if_neg updates, ← hc]

/-- Every 16 s in LOCKED outside a drift watch the bin of the temperature moves 1/256 of the way to the value seen. -/
theorem tempBinUpdate_due {i n : Nat} {v : Int} (locked : clkState b = 3) (calm : watching b = false)
    (due : b.clk.binAt + 16000000000 ≤ b.now) (bin : binOf (ocxoTemp b) = some i)
    (hv : (v, n) = mgetD b.clk.bins i (256 * (dcoNow b - ageing b (b.now - b.clk.ageAt)), 0)) :
    tempBinUpdate b = clkRefresh { b with clk := { b.clk with
      binAt := b.now
      bins := mset b.clk.bins i (v + (256 * (dcoNow b - ageing b (b.now - b.clk.ageAt)) - v) / 256, n + 1) } } := by
  have updates : ¬ (clkState b ≠ ckLocked ∨ watching b = true ∨ b.now < b.clk.binAt + 16000000000) := by
    rintro (open_ | watched | early)
    · exact open_ locked
    · rw [calm] at watched
      exact absurd watched (by decide)
    · omega
  simp only [tempBinUpdate, if_neg updates, bin, ← hv]

/-- The first ageing sample stands alone: the rate stays without a value. -/
theorem ageingSample_first (locked : clkState b = 3) (none_ : b.clk.ages = []) (unset : b.clk.rValid = false) :
    ageingSample b = clkRefresh { b with clk := { b.clk with ages := [(b.now, dcoNow b - comp b (ocxoTemp b))] } } := by
  have few : Nat.ble 24 [(b.now, dcoNow b - comp b (ocxoTemp b))].length = false := rfl
  simp only [ageingSample, locked, ckLocked, ne_eq, none_, not_true_eq_false, false_and, or_self, if_false, List.filter_nil,
    List.take_succ_cons, List.take_nil, few, unset, Bool.or_self, Bool.false_eq_true]

/-- An event changes nothing of the clock, and takes no time. -/
theorem raise_clk (p : Page) (code sev d evt : Nat) (b : Blk) : (raise p code sev d evt b).clk = b.clk :=
  (congrArg Blk.clk (rest_raise p code sev d evt b) :)

theorem raise_now (p : Page) (code sev d evt : Nat) (b : Blk) : (raise p code sev d evt b).now = b.now :=
  (congrArg Blk.now (rest_raise p code sev d evt b) :)

/-- Saving the lane margins changes the lanes alone: the clock keeps its state and its time. -/
theorem marginsSave_clk (b : Blk) : (marginsSave b).clk = b.clk := by
  rw [marginsSave]
  refine forEach_keeps Blk.clk (fun _ _ => ?_) _ _
  rfl

theorem marginsSave_now (b : Blk) : (marginsSave b).now = b.now := by
  rw [marginsSave]
  refine forEach_keeps Blk.now (fun _ _ => ?_) _ _
  rfl

/-- A save was made no hour ago. -/
theorem savedHours_learningSave (b : Blk) : savedHours (learningSave b) = 0 := by
  have saved : (learningSave b).clk.savedAt = some b.now := by
    rw [learningSave, clkEvent, raise_clk, marginsSave_clk]
  have now : (learningSave b).now = b.now := by
    rw [learningSave, clkEvent, raise_now, marginsSave_now]
  rw [savedHours, saved, now]
  simp only [Nat.sub_self, Nat.zero_div, Nat.min_def]
  rfl

/-- After 10 min LOCKED a restored table within 0.5 ppb of the DCO value takes effect, and another is discarded. -/
theorem learningRestore_due {c : Blk} {bins : List (Nat × Int × Nat)} {r : Int} (saved : b.clk.saved = some (bins, r))
    (waits : b.clk.waiting = true) (locked : clkState b = 3) (long : b.clk.lockedAt + 600000000000 ≤ b.now)
    (hc : c = { b with clk := { b.clk with
      waiting := false
      bins := bins.map fun (e : Nat × Int × Nat) => (e.1, e.2.1, e.2.2)
      rValid := true
      ageAt := b.now } }) :
    learningRestore b = if (dcoNow b - comp c (ocxoTemp b)).natAbs ≤ 50000 then
        raise clkPage 0x10C sevInfo 1 0 (clkRefresh (wrInt F.CLK_AGEING_RATE 0 r c))
      else raise clkPage 0x10C sevInfo 3 0 { b with clk := { b.clk with waiting := false } } := by
  have due : b.clk.waiting = true ∧ clkState b = ckLocked ∧ b.clk.lockedAt + 600000000000 ≤ b.now := ⟨waits, locked, long⟩
  rw [hc, learningRestore, saved]
  exact if_pos due

/-! ### The drift guard -/

/-- A reference that is disabled or unguarded, or sampled less than 16 s ago, is left alone. -/
theorem driftSample_calm {k : Nat} (y : Int) (calm : rr b F.CLK_REF_CFG_EN k = 0 ∨ rr b F.CLK_REF_CFG_DG_EN k = 0 ∨
    b.now < (b.ref k).sampleAt + 16000000000) : driftSample k y b = b := by
  rw [driftSample]
  refine if_pos ?_
  rcases calm with off | free | early
  · exact .inl off
  · exact .inr (.inl free)
  · exact .inr (.inr (.inr early))

/-- The first sample of a reference, taken down: its frequency, no trend and no crossing. -/
def driftTaken (k : Nat) (y : Int) (b : Blk) : Blk :=
  (wrInt F.CLK_REF_TREND_SLOPE (k + 1) 0 (wrInt F.CLK_REF_FREQ_FREQ (k + 1) y (b.putRef k { b.ref k with
    ys := [y]
    sampleAt := b.now
    calmSince := none }))).wr F.CLK_REF_TREND_CROSS (k + 1) 65535

theorem driftTaken_ref (k : Nat) (y : Int) (b : Blk) : (driftTaken k y b).ref k = { b.ref k with
    ys := [y]
    sampleAt := b.now
    calmSince := none } := mgetD_mset_same b.clk.refs k _ {}

theorem driftTaken_freq (k : Nat) (y : Int) (b : Blk) : (driftTaken k y b).rd F.CLK_REF_FREQ_FREQ (k + 1) = enc 32 y % 2 ^ 32 := by
  rw [driftTaken, Blk.rd_wr_page (by decide) (by decide), wrInt, Blk.rd_wr_page (by decide) (by decide), wrInt, Blk.rd_wr_same]
  rfl

/-- A single sample at or beyond the tolerance disqualifies a qualified reference at once. -/
theorem driftSample_beyond {k : Nat} {y : Int} (on : rr b F.CLK_REF_CFG_EN k = 1) (guarded : rr b F.CLK_REF_CFG_DG_EN k = 1)
    (qualified : (b.ref k).qualified = true) (due : (b.ref k).sampleAt + 16000000000 ≤ b.now)
    (steady : rr b F.CLK_REF_STAT_DRIFT_DQ k = 0) (first : (b.ref k).ys = []) (beyond : rr b F.CLK_REF_TOL_TOL k * 10 ≤ y.natAbs)
    {c : Blk} (hc : c = raise clkPage 0x107 sevError k (evB 4) ((driftTaken k y b).put F.CLK_REF_STAT_DRIFT_DQ (k + 1) true)) :
    driftSample k y b = clkRefresh ((disqualify k 0 c).putRef k { (disqualify k 0 c).ref k with calmSince := none }) := by
  have slope : slopeOf [y] = (0, 1) := rfl
  have late : ¬ b.now < (b.ref k).sampleAt + 16000000000 := Nat.not_lt.2 due
  have far : ¬ 2 * y.natAbs < ((rr b F.CLK_REF_TOL_TOL k : Int) * 10).natAbs := by omega
  have out : (rr b F.CLK_REF_TOL_TOL k : Int) * 10 ≤ y.natAbs := by omega
  have uncrossed (tol yNow : Int) : crossing tol yNow (0, 1) = none := if_pos (.inl rfl)
  have flat : clampI (-32768) 32767 0 = 0 := rfl
  rw [hc, driftTaken]
  simp only [driftSample, first, List.take_succ_cons, List.take_nil, List.reverse_singleton, slope, List.length_singleton, List.foldl_cons,
    List.foldl_nil, zero_add, uncrossed, Nat.cast_one, Int.ediv_one, sub_self, zero_mul, Int.zero_ediv, ite_self, add_zero, flat, far,
    decide_false, Bool.false_and, Bool.false_eq_true, if_false]
  simp only [on, guarded, qualified, steady, late, out, clkEvent, Nat.one_ne_zero, Nat.zero_ne_one, decide_false, Bool.not_true,
    Bool.false_and, Bool.false_eq_true, or_false, or_true, if_false, if_true]

/-! ### Time of day and UTC -/

/-- A second set for the time of day takes effect at its own second, as a step of stage time. -/
theorem todStepApply_set {c : Blk} {n sec : Nat} (set_ : b.clk.tod = some (n, sec))
    (hc : c = { b with clk := { b.clk with tod := none } }) :
    todStepApply b = if n * 1000000000 ≤ b.now then
      clkRefresh ((stageStep ((sec : Int) * 1000000000 - n * 1000000000) c).wr F.CLK_STAT_TOD_VALID 0 1) else b := by
  rw [hc, todStepApply, set_]

/-- A leap second takes effect when the UTC day in which its flag was heard has ended. -/
theorem leapAdjust_heard {k : Nat} (used : refInUse b = some k) (ptp : k < 4) (flag : b.clk.leap ≠ 0) :
    leapAdjust b = if b.clk.leapDay <
        (((b.now / 1000000000 : Nat) : Int) - rdInt b F.CLK_UTC_ACT 0 + (if b.clk.leap < 0 then 1 else 0)) / 86400 then
      refreshUtc { b with clk := { b.clk with
        leapAdj := b.clk.leapAdj + b.clk.leap
        leap := 0 } } else b := by
  simp only [leapAdjust, used, ptp, ne_eq, flag, not_false_eq_true, true_and]

end

/-! ### The obligation -/

/-- Settles O38, by the model's function for each step of the selector and of the clock. -/
theorem clockCommands : Obligations.ClockCommands := by
  unfold Obligations.ClockCommands
  refine ⟨?run, choose_by_mode, ?locked, fun _ _ => rfl, ?oven, ?pull, frame_shift, ?held, ?expired, ?bin, ?ageing, ?save, ?restore,
    ?calm, ?drift, ?tod, ?leap⟩
  case run =>
    intro s dt b hb
    change (_ → execSelectorRun .. = _) ∧ (_ → _ → execSelectorRun .. = _)
    rw [execSelectorRun, eff_next, set_blk, ← hb]
    simp only [Bool.or_eq_true, Nat.ble_eq]
    refine ⟨fun due => next_withBlk (if_pos due), fun calm early => next_withBlk (if_neg ?_)⟩
    rintro (called | late)
    · rw [calm] at called
      exact absurd called (by decide)
    · omega
  case locked =>
    intro s dt k t b hb ⟨used, near, acquiring, due⟩
    change execClockLocked .. = _
    rw [execClockLocked, eff_next, set_blk, ← hb]
    simp only [used, near]
    exact next_withBlk (if_pos ⟨acquiring, due⟩)
  case oven =>
    rintro s dt b c rfl hc
    exact ⟨fun warm => next_withBlk (ocxoReady_warmup hc warm), fun past => next_withBlk (if_neg past)⟩
  case pull =>
    rintro s dt k off b c rfl ⟨used, acquiring, first, ready⟩ ho hc
    exact next_withBlk (pullIn_ready used acquiring first ready ho hc)
  case held =>
    rintro s dt b c rfl ⟨held, due⟩ hc
    exact next_withBlk (holdoverUpdate_due held due hc)
  case expired =>
    intro s dt b hb held
    change (_ → execHoldoverExpired .. = _) ∧ (_ → execHoldoverExpired .. = _)
    rw [execHoldoverExpired, eff_next, set_blk, ← hb]
    exact ⟨fun due => next_withBlk (if_pos ⟨held, due⟩), fun early => next_withBlk (if_neg fun h => Nat.not_le.2 early h.2)⟩
  case bin =>
    rintro s dt i n v b rfl ⟨locked, calm, due, bin⟩ hv
    exact next_withBlk (tempBinUpdate_due locked calm due bin hv)
  case ageing =>
    rintro s dt b rfl ⟨locked, none_, unset⟩
    exact next_withBlk (ageingSample_first locked none_ unset)
  case save =>
    intro s dt b hb
    change (_ → execLearningSave .. = _) ∧ (_ → execLearningSave .. = _) ∧ _
    rw [execLearningSave, eff_next, set_blk, ← hb]
    exact ⟨fun due => next_withBlk (if_pos due), fun early => next_withBlk (if_neg (Nat.not_le.2 early)), savedHours_learningSave b⟩
  case restore =>
    rintro s dt r bins b c rfl ⟨saved, waits, locked, long⟩ hc
    have restores := learningRestore_due saved waits locked long hc
    exact ⟨fun near => next_withBlk (restores.trans (if_pos near)),
      fun far => next_withBlk (restores.trans (if_neg (Nat.not_le.2 far)))⟩
  case calm =>
    rintro s dt k y b rfl calm
    exact next_withBlk (driftSample_calm y calm)
  case drift =>
    rintro s dt k y b rfl ⟨on, guarded, qualified, due⟩ ⟨steady, first, beyond, -⟩
    refine ⟨_, driftTaken k y (s.blk.tick dt), next_withBlk (driftSample_beyond on guarded qualified due steady first beyond rfl), rfl,
      ?_, ?_, driftTaken_freq ..⟩
    · rw [driftTaken_ref]
    · rw [driftTaken_ref]
  case tod =>
    rintro s dt n sec b c rfl set_ hc
    have steps := todStepApply_set set_ hc
    exact ⟨fun due => next_withBlk (steps.trans (if_pos due)), fun early => next_withBlk (steps.trans (if_neg (Nat.not_le.2 early)))⟩
  case leap =>
    rintro s dt k b rfl ⟨used, ptp, flag⟩
    have adjusts := leapAdjust_heard used ptp flag
    exact ⟨fun ended => next_withBlk (adjusts.trans (if_pos ended)), fun lasts => next_withBlk (adjusts.trans (if_neg (Int.not_lt.2 lasts)))⟩

end Sys2Proof.Machine
end
